-- ==== Sys2Proof/Word.lean ====
section
/-!
DEFINITION. Words, bytes and the plainest arithmetic on them.
-/
namespace Sys2Proof

abbrev Byte := BitVec 8
abbrev W32 := BitVec 32
abbrev W64 := BitVec 64

end Sys2Proof
end

