-- ==== Sys2Proof/Syntax.lean ====
section
/-!
DEFINITION. The instruction set as data: operands, modifiers, and one constructor per row of the opcode table.
The first 320 constructors are the instruction words of R67 to R76.  The others are the steps of the part's other
agents (engines, homes, launch path, host, firmware, links), which the same table lists.
-/
namespace Sys2Proof

/-- The fields every word begins with (R54): the guard p(idx) XOR neg and the counter signalled, 0 none, 1 to 6
for dc0 to dc5. -/
structure Head where
  neg : Bool
  idx : Fin 8
  dc  : Fin 7
  deriving DecidableEq, Repr

/-- A register operand (R62): v0 to v223, s0 to s30, or vz.  The width is the position's. -/
inductive Reg where
  | v (n : Nat)
  | s (n : Nat)
  | z
  deriving DecidableEq, Repr

/-- Operand B of a form that allows BIMM (R64). -/
inductive OpB where
  | reg (r : Reg)
  | imm (i : BitVec 16)
  deriving DecidableEq, Repr

/-- Rounding modes (R85). -/
inductive Rnd where
  | rne | rtz | rup | rdn
  deriving DecidableEq, Repr

/-- The modifiers of group 1 (R63, R131): rounding, flush, saturation, negate and absolute of a, b and c. -/
structure FMods where
  rnd : Rnd
  ftz : Bool
  sat : Bool
  negA : Bool
  negB : Bool
  negC : Bool
  absA : Bool
  absB : Bool
  absC : Bool
  deriving DecidableEq, Repr

/-- Which of the modifiers an entry defines; a, b and c stand for both modifiers of that operand. -/
structure FMask where
  rnd : Bool
  ftz : Bool
  sat : Bool
  a : Bool
  b : Bool
  c : Bool
  deriving DecidableEq, Repr

/-- Comparisons of ICMP (R126). -/
inductive ICmp where
  | eq | ne | lt | le | gt | ge
  deriving DecidableEq, Repr

/-- Comparisons of FCMP (R136). -/
inductive FCmp where
  | eq | ne | lt | le | gt | ge | num | nan
  deriving DecidableEq, Repr

/-- Width of MOV, PTST and PCLR (R130, R283). -/
inductive MovW where
  | w32 | w64 | w128
  deriving DecidableEq, Repr

/-- Modes of MOVI (R130). -/
inductive MoviMode where
  | w32 | sx64 | zx64
  deriving DecidableEq, Repr

/-- The special registers of R43. -/
inductive SpecialReg where
  | lane | slot | crew | billet | core | cluster | die | module | workpiece | width | gang | timelo | timehi
  deriving DecidableEq, Repr

/-- Functions of SFN (R139). -/
inductive SfnFn where
  | rcp | rsq | sqrt | exp2 | log2 | sin | cos | tanh
  deriving DecidableEq, Repr

/-- Scope codes (R65), in widening order. -/
inductive Scope where
  | crew | core | clus | die | dev | dom
  deriving DecidableEq, Repr

/-- Order codes (R65). -/
inductive Ord where
  | weak | rlx | acq | rel | ar | sc
  deriving DecidableEq, Repr

/-- Operations of RED (R275). -/
inductive RedOp where
  | add | smin | umin | smax | umax | and | or | xor | fadd | bfadd
  deriving DecidableEq, Repr

/-- The address part of format M (R57): base, signed 24-bit offset, scope, order and hint. -/
structure MOp where
  base : Reg
  ofs : BitVec 24
  scope : Scope
  ord : Ord
  hint : Fin 4
  deriving DecidableEq, Repr

/-- The address part of the stage and queue instructions (R201): scratchpad of the billet, or of the cluster. -/
structure SOp where
  base : Reg
  ofs : BitVec 24
  clus : Bool
  deriving DecidableEq, Repr

/-- A Nymken port as firmware trained it at bring-up (R472, R455): its number, the fields of PORTSTAT, EN and THRESH. -/
structure PortUp where
  port : Nat
  svc : Nat
  livew : Nat
  drawer : Nat
  dport : Nat
  en : Bool
  thresh : Nat
  deriving DecidableEq, Repr

/-- What bring-up finds (R472), an input: the step that fails, or 0; the units that fail their tests, by kind (1 core, 5 home
slice, 6 channel, 7 wavelength) and number; the trained ports; the slot tables; the drawers with their sizes; the domain
reference read over a link, or none; MODULE; and the measurement of the firmware (R471). -/
structure BringUp where
  fail : Nat
  bad : List (Nat × Nat)
  ports : List PortUp
  slots : List (Nat × BitVec 64)
  drawers : List (Nat × Nat)
  reference : Option Nat
  module : Nat
  measurement : List Byte
  deriving DecidableEq, Repr
inductive Instr where
  /-- R117. 32-bit wrapping addition of a and b. -/
  | addB32 (h : Head) (d a : Reg) (b : OpB)
  /-- R117. 64-bit wrapping addition. -/
  | addB64 (h : Head) (d a : Reg) (b : OpB)
  /-- R117. Three-operand 32-bit wrapping addition. -/
  | add3B32 (h : Head) (d a b c : Reg)
  /-- R117. Addition with carry-in predicate and carry-out predicate. -/
  | addcB32 (h : Head) (pci pco : Fin 8) (cneg : Bool) (d a : Reg) (b : OpB)
  /-- R117. Saturating signed 32-bit addition. -/
  | addsS32 (h : Head) (d a : Reg) (b : OpB)
  /-- R117. 32-bit wrapping subtraction. -/
  | subB32 (h : Head) (d a : Reg) (b : OpB)
  /-- R117. 64-bit wrapping subtraction. -/
  | subB64 (h : Head) (d a : Reg) (b : OpB)
  /-- R117. Subtraction with carry-in and carry-out predicates. -/
  | subcB32 (h : Head) (pci pco : Fin 8) (cneg : Bool) (d a : Reg) (b : OpB)
  /-- R117. Saturating signed 32-bit subtraction. -/
  | subsS32 (h : Head) (d a : Reg) (b : OpB)
  /-- R118. Low 32 bits of the product. -/
  | mulB32 (h : Head) (d a : Reg) (b : OpB)
  /-- R118. Low 64 bits of the 64-bit product. -/
  | mulB64 (h : Head) (d a : Reg) (b : OpB)
  /-- R118. High 32 bits of the signed product. -/
  | mulhS32 (h : Head) (d a : Reg) (b : OpB)
  /-- R118. High 32 bits of the unsigned product. -/
  | mulhZ32 (h : Head) (d a : Reg) (b : OpB)
  /-- R118. Multiply-add modulo 2^32. -/
  | madB32 (h : Head) (d a b c : Reg)
  /-- R118. Signed widening multiply-add into 64 bits. -/
  | madwS32 (h : Head) (d a b c : Reg)
  /-- R118. Unsigned widening multiply-add into 64 bits. -/
  | madwZ32 (h : Head) (d a b c : Reg)
  /-- R119. Signed 32-bit division, variable latency, no trap on zero. -/
  | divS32 (h : Head) (d a : Reg) (b : OpB)
  /-- R119. Unsigned 32-bit division. -/
  | divZ32 (h : Head) (d a : Reg) (b : OpB)
  /-- R119. Signed 64-bit division. -/
  | divS64 (h : Head) (d a : Reg) (b : OpB)
  /-- R119. Unsigned 64-bit division. -/
  | divZ64 (h : Head) (d a : Reg) (b : OpB)
  /-- R119. Signed 32-bit remainder. -/
  | remS32 (h : Head) (d a : Reg) (b : OpB)
  /-- R119. Unsigned 32-bit remainder. -/
  | remZ32 (h : Head) (d a : Reg) (b : OpB)
  /-- R120. Signed minimum. -/
  | minS32 (h : Head) (d a : Reg) (b : OpB)
  /-- R120. Unsigned minimum. -/
  | minZ32 (h : Head) (d a : Reg) (b : OpB)
  /-- R120. Signed maximum. -/
  | maxS32 (h : Head) (d a : Reg) (b : OpB)
  /-- R120. Unsigned maximum. -/
  | maxZ32 (h : Head) (d a : Reg) (b : OpB)
  /-- R120. Signed clamp of a between b and c. -/
  | clampS32 (h : Head) (d a b c : Reg)
  /-- R120. Unsigned clamp. -/
  | clampZ32 (h : Head) (d a b c : Reg)
  /-- R120. Absolute value with optional saturation. -/
  | absS32 (h : Head) (sat : Bool) (d a : Reg)
  /-- R120. Negation with optional saturation. -/
  | negS32 (h : Head) (sat : Bool) (d a : Reg)
  /-- R121. Bitwise AND. -/
  | andB (h : Head) (d a : Reg) (b : OpB)
  /-- R121. Bitwise OR. -/
  | orB (h : Head) (d a : Reg) (b : OpB)
  /-- R121. Bitwise XOR. -/
  | xorB (h : Head) (d a : Reg) (b : OpB)
  /-- R121. a AND NOT b. -/
  | andn (h : Head) (d a : Reg) (b : OpB)
  /-- R121. Bitwise NOT. -/
  | notB (h : Head) (d a : Reg)
  /-- R122. 32-bit left shift, unmasked count. -/
  | shlB32 (h : Head) (d a : Reg) (b : OpB)
  /-- R122. 64-bit left shift. -/
  | shlB64 (h : Head) (d a : Reg) (b : OpB)
  /-- R122. 32-bit logical right shift. -/
  | shrB32 (h : Head) (d a : Reg) (b : OpB)
  /-- R122. 64-bit logical right shift. -/
  | shrB64 (h : Head) (d a : Reg) (b : OpB)
  /-- R122. 32-bit arithmetic right shift. -/
  | sarB32 (h : Head) (d a : Reg) (b : OpB)
  /-- R122. 64-bit arithmetic right shift. -/
  | sarB64 (h : Head) (d a : Reg) (b : OpB)
  /-- R122. 32-bit rotation left or right. -/
  | rotB32 (h : Head) (right : Bool) (d a : Reg) (b : OpB)
  /-- R122. Funnel shift of b:a. -/
  | fsh (h : Head) (right : Bool) (d a b c : Reg)
  /-- R123. Signed bit-field extract. -/
  | bfxS32 (h : Head) (d a : Reg) (b : OpB)
  /-- R123. Unsigned bit-field extract. -/
  | bfxZ32 (h : Head) (d a : Reg) (b : OpB)
  /-- R123. Bit-field insert. -/
  | bfi (h : Head) (d a b c : Reg)
  /-- R123. Build a bit mask from a field descriptor. -/
  | bmsk (h : Head) (d : Reg) (b : OpB)
  /-- R123. Population count. -/
  | popc (h : Head) (d a : Reg)
  /-- R123. Count leading zeros. -/
  | clz (h : Head) (d a : Reg)
  /-- R123. Bit reversal. -/
  | brev (h : Head) (d a : Reg)
  /-- R124. Byte swizzle from eight source bytes. -/
  | bswz (h : Head) (d a b c : Reg)
  /-- R125. Select a or b by predicate. -/
  | sel (h : Head) (pc : Fin 8) (pneg : Bool) (d a : Reg) (b : OpB)
  /-- R126. Signed 32-bit compare to mask and predicate. -/
  | icmpS32 (h : Head) (cmp : ICmp) (pd : Fin 8) (d a : Reg) (b : OpB)
  /-- R126. Unsigned 32-bit compare. -/
  | icmpZ32 (h : Head) (cmp : ICmp) (pd : Fin 8) (d a : Reg) (b : OpB)
  /-- R126. Signed 64-bit compare. -/
  | icmpS64 (h : Head) (cmp : ICmp) (pd : Fin 8) (d a : Reg) (b : OpB)
  /-- R126. Unsigned 64-bit compare. -/
  | icmpZ64 (h : Head) (cmp : ICmp) (pd : Fin 8) (d a : Reg) (b : OpB)
  /-- R128. Signed four-byte dot product with accumulate. -/
  | idot4S8 (h : Head) (sat : Bool) (d a b c : Reg)
  /-- R128. Unsigned four-byte dot product with accumulate. -/
  | idot4Z8 (h : Head) (sat : Bool) (d a b c : Reg)
  /-- R128. Sum of absolute byte differences. -/
  | sad (h : Head) (d a b c : Reg)
  /-- R129. Scaled address computation. -/
  | lea (h : Head) (sh : Fin 8) (zx : Bool) (d a : Reg) (b : OpB)
  /-- R130. Register move of 32, 64 or 128 bits. -/
  | mov (h : Head) (mw : MovW) (d a : Reg)
  /-- R130. Move 32-bit immediate, widened by mode. -/
  | movi (h : Head) (md : MoviMode) (d : Reg) (imm : BitVec 32)
  /-- R44. Read a special register. -/
  | movs (h : Head) (d : Reg) (r : SpecialReg)
  /-- R127. Predicate logic by look-up table. -/
  | plop (h : Head) (pd pa pb pc : Fin 8) (lut : BitVec 8)
  /-- R132. FP32 addition. -/
  | faddF32 (h : Head) (m : FMods) (d a : Reg) (b : OpB)
  /-- R132. FP64 addition. -/
  | faddF64 (h : Head) (m : FMods) (d a : Reg) (b : OpB)
  /-- R132. Packed FP16 addition. -/
  | faddF16x2 (h : Head) (m : FMods) (d a : Reg) (b : OpB)
  /-- R132. Packed BF16 addition. -/
  | faddBf16x2 (h : Head) (m : FMods) (d a : Reg) (b : OpB)
  /-- R132. FP32 multiplication. -/
  | fmulF32 (h : Head) (m : FMods) (d a : Reg) (b : OpB)
  /-- R132. FP64 multiplication. -/
  | fmulF64 (h : Head) (m : FMods) (d a : Reg) (b : OpB)
  /-- R132. Packed FP16 multiplication. -/
  | fmulF16x2 (h : Head) (m : FMods) (d a : Reg) (b : OpB)
  /-- R132. Packed BF16 multiplication. -/
  | fmulBf16x2 (h : Head) (m : FMods) (d a : Reg) (b : OpB)
  /-- R132. FP32 fused multiply-add. -/
  | ffmaF32 (h : Head) (m : FMods) (d a b c : Reg)
  /-- R132. FP64 fused multiply-add. -/
  | ffmaF64 (h : Head) (m : FMods) (d a b c : Reg)
  /-- R132. Packed FP16 fused multiply-add. -/
  | ffmaF16x2 (h : Head) (m : FMods) (d a b c : Reg)
  /-- R132. Packed BF16 fused multiply-add. -/
  | ffmaBf16x2 (h : Head) (m : FMods) (d a b c : Reg)
  /-- R133. FP32 product plus FP64 addend, rounded once to FP64. -/
  | ffmaw (h : Head) (m : FMods) (d a b c : Reg)
  /-- R134. Correctly rounded FP32 division, variable latency. -/
  | fdivF32 (h : Head) (m : FMods) (d a : Reg) (b : OpB)
  /-- R134. Correctly rounded FP64 division. -/
  | fdivF64 (h : Head) (m : FMods) (d a : Reg) (b : OpB)
  /-- R134. Correctly rounded FP32 square root. -/
  | fsqrtF32 (h : Head) (m : FMods) (d a : Reg)
  /-- R134. Correctly rounded FP64 square root. -/
  | fsqrtF64 (h : Head) (m : FMods) (d a : Reg)
  /-- R135. FP32 number minimum. -/
  | fminF32 (h : Head) (m : FMods) (d a : Reg) (b : OpB)
  /-- R135. FP64 number minimum. -/
  | fminF64 (h : Head) (m : FMods) (d a : Reg) (b : OpB)
  /-- R135. FP32 number maximum. -/
  | fmaxF32 (h : Head) (m : FMods) (d a : Reg) (b : OpB)
  /-- R135. FP64 number maximum. -/
  | fmaxF64 (h : Head) (m : FMods) (d a : Reg) (b : OpB)
  /-- R135. FP32 median of three. -/
  | fmed3F32 (h : Head) (m : FMods) (d a b c : Reg)
  /-- R135. FP64 median of three. -/
  | fmed3F64 (h : Head) (m : FMods) (d a b c : Reg)
  /-- R136. FP32 compare to mask and predicate. -/
  | fcmpF32 (h : Head) (cmp : FCmp) (pd : Fin 8) (ftz : Bool) (d a : Reg) (b : OpB)
  /-- R136. FP64 compare. -/
  | fcmpF64 (h : Head) (cmp : FCmp) (pd : Fin 8) (ftz : Bool) (d a : Reg) (b : OpB)
  /-- R136. Packed FP16 compare to two predicates. -/
  | fcmpF16x2 (h : Head) (cmp : FCmp) (pd pd1 : Fin 8) (ftz : Bool) (d a : Reg) (b : OpB)
  /-- R136. Packed BF16 compare. -/
  | fcmpBf16x2 (h : Head) (cmp : FCmp) (pd pd1 : Fin 8) (ftz : Bool) (d a : Reg) (b : OpB)
  /-- R137. FP32 one-hot classification and mask test. -/
  | fclassF32 (h : Head) (pd : Fin 8) (d a : Reg) (b : OpB)
  /-- R137. FP64 classification. -/
  | fclassF64 (h : Head) (pd : Fin 8) (d a : Reg) (b : OpB)
  /-- R138. Round FP32 to integral value. -/
  | frndF32 (h : Head) (m : FMods) (d a : Reg)
  /-- R138. Round FP64 to integral value. -/
  | frndF64 (h : Head) (m : FMods) (d a : Reg)
  /-- R138. FP32 scale by power of two. -/
  | fscaleF32 (h : Head) (m : FMods) (d a : Reg) (b : OpB)
  /-- R138. FP64 scale by power of two. -/
  | fscaleF64 (h : Head) (m : FMods) (d a : Reg) (b : OpB)
  /-- R138. Extract FP32 exponent. -/
  | fexpF32 (h : Head) (ftz : Bool) (d a : Reg)
  /-- R138. Extract FP64 exponent. -/
  | fexpF64 (h : Head) (ftz : Bool) (d a : Reg)
  /-- R139. FP32 special function, variable latency. -/
  | sfnF32 (h : Head) (fn : SfnFn) (absA negA sat ftz : Bool) (d a : Reg)
  /-- R139. FP64 special function. -/
  | sfnF64 (h : Head) (fn : SfnFn) (absA negA sat ftz : Bool) (d a : Reg)
  /-- R140. Two-term BF16 dot product plus FP32, rounded once. -/
  | fdot2Bf16 (h : Head) (m : FMods) (d a b c : Reg)
  /-- R141. FP64 sum with exact error term. -/
  | ftsumF64 (h : Head) (m : FMods) (d a b : Reg)
  /-- R142. FP64 difference rounded once to FP32. -/
  | crelF32 (h : Head) (sat ftz : Bool) (d a b : Reg)
  /-- R143. Convert FP64 to FP32. -/
  | fcvtF32F64 (h : Head) (m : FMods) (d a : Reg)
  /-- R143. Convert FP32 to FP64. -/
  | fcvtF64F32 (h : Head) (m : FMods) (d a : Reg)
  /-- R143. Convert FP16 half to FP32. -/
  | fcvtF32F16 (h : Head) (m : FMods) (hi : Bool) (d a : Reg)
  /-- R143. Convert two FP32 to packed FP16. -/
  | fcvtF16x2F32 (h : Head) (m : FMods) (d a b : Reg)
  /-- R143. Convert BF16 half to FP32. -/
  | fcvtF32Bf16 (h : Head) (m : FMods) (hi : Bool) (d a : Reg)
  /-- R143. Convert two FP32 to packed BF16. -/
  | fcvtBf16x2F32 (h : Head) (m : FMods) (d a b : Reg)
  /-- R143. Convert FP32 to S32. -/
  | fcvtS32F32 (h : Head) (m : FMods) (d a : Reg)
  /-- R143. Convert FP32 to Z32. -/
  | fcvtZ32F32 (h : Head) (m : FMods) (d a : Reg)
  /-- R143. Convert S32 to FP32. -/
  | fcvtF32S32 (h : Head) (m : FMods) (d a : Reg)
  /-- R143. Convert Z32 to FP32. -/
  | fcvtF32Z32 (h : Head) (m : FMods) (d a : Reg)
  /-- R143. Convert FP64 to S64. -/
  | fcvtS64F64 (h : Head) (m : FMods) (d a : Reg)
  /-- R143. Convert FP64 to Z64. -/
  | fcvtZ64F64 (h : Head) (m : FMods) (d a : Reg)
  /-- R143. Convert S64 to FP64. -/
  | fcvtF64S64 (h : Head) (m : FMods) (d a : Reg)
  /-- R143. Convert Z64 to FP64. -/
  | fcvtF64Z64 (h : Head) (m : FMods) (d a : Reg)
  /-- R143. Convert FP64 to S32. -/
  | fcvtS32F64 (h : Head) (m : FMods) (d a : Reg)
  /-- R143. Convert S32 to FP64. -/
  | fcvtF64S32 (h : Head) (m : FMods) (d a : Reg)
  /-- R145. PC-relative branch ending the clause. -/
  | bra (h : Head) (wofs : BitVec 32)
  /-- R203. Branch with per-crew guard consensus check. -/
  | braCons (h : Head) (wofs : BitVec 32)
  /-- R145. Branch to register target. -/
  | brx (h : Head) (a : Reg)
  /-- R146. Call recording return address in call state. -/
  | call (h : Head) (wofs : BitVec 32)
  /-- R146. Call to register target. -/
  | callx (h : Head) (a : Reg)
  /-- R146. Return from call state, or end thread at depth 0. -/
  | ret (h : Head)
  /-- R147. End the thread. -/
  | exit (h : Head)
  /-- R148. No operation. -/
  | nop (h : Head)
  /-- R162. Block at explicit rejoin with lane mask; evaluates releases and MASKDIS. -/
  | join (h : Head) (b : OpB)
  /-- R203. End clause and hold thread not ready for 4 gather cycles. -/
  | yield_ (h : Head)
  /-- R203. Set crew priority. -/
  | prio (h : Head) (b : OpB)
  /-- R149. Decrement and branch if not zero. -/
  | dbnz (h : Head) (a : Reg) (wofs : BitVec 32)
  /-- R204. 32-bit lane exchange from indexed lane. -/
  | lxchAtB32 (h : Head) (sw : Fin 6) (pd : Fin 8) (d a : Reg) (b : OpB) (c : Reg)
  /-- R204. 32-bit lane exchange by rotation. -/
  | lxchRotB32 (h : Head) (sw : Fin 6) (pd : Fin 8) (d a : Reg) (b : OpB) (c : Reg)
  /-- R204. 32-bit lane exchange by signed distance. -/
  | lxchDistB32 (h : Head) (sw : Fin 6) (pd : Fin 8) (d a : Reg) (b : OpB) (c : Reg)
  /-- R204. 32-bit lane exchange by XOR mirror. -/
  | lxchMirB32 (h : Head) (sw : Fin 6) (pd : Fin 8) (d a : Reg) (b : OpB) (c : Reg)
  /-- R204. 64-bit lane exchange from indexed lane. -/
  | lxchAtB64 (h : Head) (sw : Fin 6) (pd : Fin 8) (d a : Reg) (b : OpB) (c : Reg)
  /-- R204. 64-bit lane exchange by rotation. -/
  | lxchRotB64 (h : Head) (sw : Fin 6) (pd : Fin 8) (d a : Reg) (b : OpB) (c : Reg)
  /-- R204. 64-bit lane exchange by distance. -/
  | lxchDistB64 (h : Head) (sw : Fin 6) (pd : Fin 8) (d a : Reg) (b : OpB) (c : Reg)
  /-- R204. 64-bit lane exchange by mirror. -/
  | lxchMirB64 (h : Head) (sw : Fin 6) (pd : Fin 8) (d a : Reg) (b : OpB) (c : Reg)
  /-- R205. Predicate census: all participants. -/
  | cpqAll (h : Head) (pci : Fin 8) (cneg : Bool) (pd : Fin 8) (d c : Reg)
  /-- R205. Predicate census: any participant. -/
  | cpqAny (h : Head) (pci : Fin 8) (cneg : Bool) (pd : Fin 8) (d c : Reg)
  /-- R205. Predicate census: all equal. -/
  | cpqSame (h : Head) (pci : Fin 8) (cneg : Bool) (pd : Fin 8) (d c : Reg)
  /-- R205. Predicate census as lane mask. -/
  | cpqMask (h : Head) (pci : Fin 8) (cneg : Bool) (d c : Reg)
  /-- R205. Predicate census count. -/
  | cpqNum (h : Head) (pci : Fin 8) (cneg : Bool) (d c : Reg)
  /-- R205. Mask of participants with equal value. -/
  | vgrpPart (h : Head) (d a c : Reg)
  /-- R205. Test value uniform across participants. -/
  | vgrpUni (h : Head) (pd : Fin 8) (d a c : Reg)
  /-- R206. Crew reduction: wrapping add. -/
  | credAddB32 (h : Head) (d a c : Reg)
  /-- R206. Crew reduction: signed min. -/
  | credMinS32 (h : Head) (d a c : Reg)
  /-- R206. Crew reduction: unsigned min. -/
  | credMinZ32 (h : Head) (d a c : Reg)
  /-- R206. Crew reduction: signed max. -/
  | credMaxS32 (h : Head) (d a c : Reg)
  /-- R206. Crew reduction: unsigned max. -/
  | credMaxZ32 (h : Head) (d a c : Reg)
  /-- R206. Crew reduction: AND. -/
  | credAnd (h : Head) (d a c : Reg)
  /-- R206. Crew reduction: OR. -/
  | credOr (h : Head) (d a c : Reg)
  /-- R206. Crew reduction: XOR. -/
  | credXor (h : Head) (d a c : Reg)
  /-- R206. Crew reduction: FP32 sum per bundle. -/
  | credFaddF32 (h : Head) (d a c : Reg)
  /-- R206. Crew reduction: FP32 number minimum. -/
  | credFminF32 (h : Head) (d a c : Reg)
  /-- R207. Mark lowest participant as lead lane. -/
  | lead (h : Head) (pd : Fin 8) (d c : Reg)
  /-- R207. Write participant mask. -/
  | memb (h : Head) (d c : Reg)
  /-- R207. Write crew register from one lane. -/
  | smov (h : Head) (d a : Reg) (b : OpB)
  /-- R208. Set crew gang register. -/
  | gang (h : Head) (b : OpB)
  /-- R208. Save predicates to a register. -/
  | psave (h : Head) (d : Reg)
  /-- R208. Load predicates from a register. -/
  | pload (h : Head) (a : Reg)
  /-- R210. Arrive at group barrier and block until phase completes. -/
  | barSync (h : Head) (hn : Fin 4) (d : Reg) (b : OpB)
  /-- R210. Arrive without blocking, return token. -/
  | barArv (h : Head) (hn : Fin 4) (d : Reg) (b : OpB)
  /-- R210. Arrive without blocking, report completion. -/
  | barArvc (h : Head) (hn : Fin 4) (d : Reg) (b : OpB)
  /-- R210. Block until a named phase is done. -/
  | barWait (h : Head) (hn : Fin 4) (d a : Reg) (b : OpB)
  /-- R210. Test a phase without blocking. -/
  | barTry (h : Head) (hn : Fin 4) (d a : Reg) (b : OpB)
  /-- R211. Remove lanes from group membership. -/
  | barLeave (h : Head) (hn : Fin 4) (b : OpB)
  /-- R211. Clear broken state and restore membership. -/
  | barReset (h : Head) (hn : Fin 4)
  /-- R210. Billet barrier, checkpoint point. -/
  | bbar (h : Head) (d : Reg) (b : OpB)
  /-- R211. Query group status, membership, arrivals or timeout. -/
  | grpq (h : Head) (hn sel : Fin 4) (d : Reg)
  /-- R212. Initialise stage object. -/
  | stginit (h : Head) (d : Reg) (m : SOp)
  /-- R212. Add owed bytes to stage. -/
  | stgowe (h : Head) (d : Reg) (m : SOp)
  /-- R212. Add signed amount to stage PEND. -/
  | stgadd (h : Head) (d : Reg) (m : SOp)
  /-- R212. Arrive at stage. -/
  | stgarv (h : Head) (m : SOp)
  /-- R213. Test stage phase without blocking. -/
  | stgtry (h : Head) (d : Reg) (m : SOp)
  /-- R213. Block until stage phase differs from parity or broken. -/
  | stgwait (h : Head) (d : Reg) (m : SOp)
  /-- R212. Mark stage broken. -/
  | stginval (h : Head) (m : SOp)
  /-- R214. Create named queue object. -/
  | qinit (h : Head) (d : Reg) (m : SOp)
  /-- R215. Blocking 16-byte push. -/
  | qpush (h : Head) (d : Reg) (m : SOp)
  /-- R215. Blocking 32-byte push. -/
  | qpushW (h : Head) (d : Reg) (m : SOp)
  /-- R215. Blocking 16-byte pop. -/
  | qpop (h : Head) (d : Reg) (m : SOp)
  /-- R215. Blocking 32-byte pop. -/
  | qpopW (h : Head) (d : Reg) (m : SOp)
  /-- R215. Non-blocking push. -/
  | qtrypush (h : Head) (d : Reg) (m : SOp)
  /-- R215. Non-blocking pop. -/
  | qtrypop (h : Head) (d : Reg) (m : SOp)
  /-- R215. Read head entry without removing it. -/
  | qpeek (h : Head) (d : Reg) (m : SOp)
  /-- R215. Read queue occupancy status. -/
  | qcount (h : Head) (d : Reg) (m : SOp)
  /-- R214. Mark queue broken. -/
  | qbreak (h : Head) (m : SOp)
  /-- R218. Block until any condition holds or timeout. -/
  | waitvAny (h : Head) (d a b c : Reg)
  /-- R218. Block until all conditions hold or timeout. -/
  | waitvAll (h : Head) (d a b c : Reg)
  /-- R219. Arm a line monitor. -/
  | monitor (h : Head) (mn : Fin 2) (base : Reg) (ofs : BitVec 24)
  /-- R219. Disarm monitors. -/
  | unmonitor (h : Head) (mask : Fin 4)
  /-- R219. Read monitor fired and armed state. -/
  | montest (h : Head) (d : Reg)
  /-- R220. Make thread not ready until a deadline. -/
  | sleep (h : Head) (b : OpB)
  /-- R271. Global load, signed byte. -/
  | ldS8 (h : Head) (d : Reg) (m : MOp)
  /-- R271. Global load, unsigned byte. -/
  | ldZ8 (h : Head) (d : Reg) (m : MOp)
  /-- R271. Global load, signed halfword. -/
  | ldS16 (h : Head) (d : Reg) (m : MOp)
  /-- R271. Global load, unsigned halfword. -/
  | ldZ16 (h : Head) (d : Reg) (m : MOp)
  /-- R271. Global load, 32 bits. -/
  | ldB32 (h : Head) (d : Reg) (m : MOp)
  /-- R271. Global load, 64 bits. -/
  | ldB64 (h : Head) (d : Reg) (m : MOp)
  /-- R271. Global load, 128 bits. -/
  | ldB128 (h : Head) (d : Reg) (m : MOp)
  /-- R271. Global store, byte. -/
  | stB8 (h : Head) (d : Reg) (m : MOp)
  /-- R271. Global store, halfword. -/
  | stB16 (h : Head) (d : Reg) (m : MOp)
  /-- R271. Global store, 32 bits. -/
  | stB32 (h : Head) (d : Reg) (m : MOp)
  /-- R271. Global store, 64 bits. -/
  | stB64 (h : Head) (d : Reg) (m : MOp)
  /-- R271. Global store, 128 bits. -/
  | stB128 (h : Head) (d : Reg) (m : MOp)
  /-- R272. Scratchpad load, signed byte. -/
  | ldsS8 (h : Head) (d : Reg) (m : MOp)
  /-- R272. Scratchpad load, unsigned byte. -/
  | ldsZ8 (h : Head) (d : Reg) (m : MOp)
  /-- R272. Scratchpad load, signed halfword. -/
  | ldsS16 (h : Head) (d : Reg) (m : MOp)
  /-- R272. Scratchpad load, unsigned halfword. -/
  | ldsZ16 (h : Head) (d : Reg) (m : MOp)
  /-- R272. Scratchpad load, 32 bits. -/
  | ldsB32 (h : Head) (d : Reg) (m : MOp)
  /-- R272. Scratchpad load, 64 bits. -/
  | ldsB64 (h : Head) (d : Reg) (m : MOp)
  /-- R272. Scratchpad load, 128 bits. -/
  | ldsB128 (h : Head) (d : Reg) (m : MOp)
  /-- R272. Scratchpad store, byte. -/
  | stsB8 (h : Head) (d : Reg) (m : MOp)
  /-- R272. Scratchpad store, halfword. -/
  | stsB16 (h : Head) (d : Reg) (m : MOp)
  /-- R272. Scratchpad store, 32 bits. -/
  | stsB32 (h : Head) (d : Reg) (m : MOp)
  /-- R272. Scratchpad store, 64 bits. -/
  | stsB64 (h : Head) (d : Reg) (m : MOp)
  /-- R272. Scratchpad store, 128 bits. -/
  | stsB128 (h : Head) (d : Reg) (m : MOp)
  /-- R272. Cluster-scratchpad load, 32 bits. -/
  | ldxB32 (h : Head) (d : Reg) (m : MOp)
  /-- R272. Cluster-scratchpad load, 64 bits. -/
  | ldxB64 (h : Head) (d : Reg) (m : MOp)
  /-- R272. Cluster-scratchpad load, 128 bits. -/
  | ldxB128 (h : Head) (d : Reg) (m : MOp)
  /-- R272. Cluster-scratchpad store, optionally multicast, 32 bits. -/
  | stxB32 (h : Head) (d : Reg) (m : MOp)
  /-- R272. Cluster-scratchpad store, 64 bits. -/
  | stxB64 (h : Head) (d : Reg) (m : MOp)
  /-- R272. Cluster-scratchpad store, 128 bits. -/
  | stxB128 (h : Head) (d : Reg) (m : MOp)
  /-- R272. Constant bank load, 32 bits. -/
  | ldcB32 (h : Head) (d : Reg) (m : MOp)
  /-- R272. Constant bank load, 64 bits. -/
  | ldcB64 (h : Head) (d : Reg) (m : MOp)
  /-- R273. Atomic 32-bit add returning old value. -/
  | atomAddB32 (h : Head) (d : Reg) (m : MOp)
  /-- R273. Atomic 64-bit add. -/
  | atomAddB64 (h : Head) (d : Reg) (m : MOp)
  /-- R273. Atomic FP32 add. -/
  | atomFaddF32 (h : Head) (d : Reg) (m : MOp)
  /-- R273. Atomic FP64 add. -/
  | atomFaddF64 (h : Head) (d : Reg) (m : MOp)
  /-- R273. Atomic packed BF16 add. -/
  | atomFaddBf16x2 (h : Head) (d : Reg) (m : MOp)
  /-- R273. Atomic signed min. -/
  | atomMinS32 (h : Head) (d : Reg) (m : MOp)
  /-- R273. Atomic unsigned min. -/
  | atomMinZ32 (h : Head) (d : Reg) (m : MOp)
  /-- R273. Atomic signed max. -/
  | atomMaxS32 (h : Head) (d : Reg) (m : MOp)
  /-- R273. Atomic unsigned max. -/
  | atomMaxZ32 (h : Head) (d : Reg) (m : MOp)
  /-- R273. Atomic AND. -/
  | atomAndB32 (h : Head) (d : Reg) (m : MOp)
  /-- R273. Atomic OR. -/
  | atomOrB32 (h : Head) (d : Reg) (m : MOp)
  /-- R273. Atomic XOR. -/
  | atomXorB32 (h : Head) (d : Reg) (m : MOp)
  /-- R273. Atomic 32-bit exchange. -/
  | atomExchB32 (h : Head) (d : Reg) (m : MOp)
  /-- R273. Atomic 64-bit exchange. -/
  | atomExchB64 (h : Head) (d : Reg) (m : MOp)
  /-- R274. 32-bit compare and swap. -/
  | casB32 (h : Head) (d : Reg) (m : MOp)
  /-- R274. 64-bit compare and swap. -/
  | casB64 (h : Head) (d : Reg) (m : MOp)
  /-- R274. 128-bit compare and swap. -/
  | casB128 (h : Head) (d : Reg) (m : MOp)
  /-- R275. 32-bit reduction at crucible without return. -/
  | redB32 (h : Head) (op : RedOp) (d : Reg) (m : MOp)
  /-- R275. 64-bit reduction without return. -/
  | redB64 (h : Head) (op : RedOp) (d : Reg) (m : MOp)
  /-- R276. Scratchpad atomic add. -/
  | atomsAddB32 (h : Head) (d : Reg) (m : MOp)
  /-- R276. Scratchpad compare and swap. -/
  | atomsCasB32 (h : Head) (d : Reg) (m : MOp)
  /-- R276. Scratchpad atomic FP32 add. -/
  | atomsFaddF32 (h : Head) (d : Reg) (m : MOp)
  /-- R278. Multi-word compare and swap: read block, translate, lock lines in order. -/
  | mcas (h : Head) (d : Reg) (m : MOp)
  /-- R280. Memory fence of given order and scope. -/
  | fence (h : Head) (sc : Scope) (od : Ord) (strict : Bool)
  /-- R281. Cache write-back or write-back-invalidate of line or page. -/
  | cctl (h : Head) (inv pg : Bool) (m : MOp)
  /-- R282. Prefetch a line. -/
  | pref (h : Head) (m : MOp)
  /-- R283. Test poison bits into predicate. -/
  | ptst (h : Head) (pd : Fin 8) (mw : MovW) (a : Reg)
  /-- R283. Clear poison bits. -/
  | pclr (h : Head) (mw : MovW) (a : Reg)
  /-- R321. Push 64-byte command to ladle, traversal or amplification queue. -/
  | push (h : Head) (q : Fin 3) (src : Reg) (pd : Fin 8)
  /-- R328. Gang matrix multiply-accumulate, FP64. -/
  | mmaF64 (h : Head) (sa sb : Reg) (acc : Fin 512) (zs rel : Bool)
  /-- R328. Matrix multiply-accumulate, FP32. -/
  | mmaF32 (h : Head) (sa sb : Reg) (acc : Fin 512) (zs rel : Bool)
  /-- R328. Matrix multiply-accumulate, BF16. -/
  | mmaBf16 (h : Head) (sa sb : Reg) (acc : Fin 512) (zs rel : Bool)
  /-- R328. Matrix multiply-accumulate, FP16. -/
  | mmaF16 (h : Head) (sa sb : Reg) (acc : Fin 512) (zs rel : Bool)
  /-- R328. Matrix multiply-accumulate, E4M3 with scales. -/
  | mmaE4m3 (h : Head) (sa sb vs vt : Reg) (acc : Fin 512) (zs sh rel : Bool)
  /-- R328. Matrix multiply-accumulate, E5M2. -/
  | mmaE5m2 (h : Head) (sa sb vs vt : Reg) (acc : Fin 512) (zs sh rel : Bool)
  /-- R328. Matrix multiply-accumulate, E2M1. -/
  | mmaE2m1 (h : Head) (sa sb vs vt : Reg) (acc : Fin 512) (zs rel : Bool)
  /-- R328. Matrix multiply-accumulate, BX8. -/
  | mmaBx8 (h : Head) (sa sb vs vt : Reg) (acc : Fin 512) (zs rel : Bool)
  /-- R328. Matrix multiply-accumulate, BX4. -/
  | mmaBx4 (h : Head) (sa sb vs vt : Reg) (acc : Fin 512) (zs rel : Bool)
  /-- R328. Matrix multiply-accumulate, S8 into S32. -/
  | mmaS8 (h : Head) (sa sb : Reg) (acc : Fin 512) (zs rel : Bool)
  /-- R328. Matrix multiply-accumulate, S4 into S32. -/
  | mmaS4 (h : Head) (sa sb : Reg) (acc : Fin 512) (zs rel : Bool)
  /-- R329. Clear accumulator region. -/
  | mzero (h : Head) (acc : Fin 512) (w64 : Bool)
  /-- R330. Move accumulator column group to registers, 32-bit. -/
  | mdrainF32 (h : Head) (d : Reg) (acc : Fin 512) (cg : Fin 16)
  /-- R330. Move accumulator column group, 64-bit. -/
  | mdrainF64 (h : Head) (d : Reg) (acc : Fin 512) (cg : Fin 16)
  /-- R330. Move accumulators converted to packed BF16. -/
  | mdrainBf16 (h : Head) (d : Reg) (acc : Fin 512) (cg : Fin 16)
  /-- R330. Move accumulators converted to packed FP16. -/
  | mdrainF16 (h : Head) (d : Reg) (acc : Fin 512) (cg : Fin 16)
  /-- R331. Load accumulator region from canonical tile. -/
  | mload (h : Head) (sd : Reg) (acc : Fin 512) (w64 : Bool)
  /-- R331. Store accumulator region as canonical tile, engine write. -/
  | mstore (h : Head) (sd ss : Reg) (acc : Fin 512) (w64 : Bool)
  /-- R332. Scale accumulator rows. -/
  | mscl (h : Head) (vs : Reg) (acc : Fin 512) (w64 : Bool)
  /-- R332. Add column values to accumulators. -/
  | maddc (h : Head) (vt : Reg) (acc : Fin 512) (w64 : Bool)
  /-- R329. Copy accumulator region. -/
  | mcopy (h : Head) (acc src : Fin 512) (w64 : Bool)
  /-- R333. Classify accumulator rows for NaN and infinity. -/
  | mstat (h : Head) (d : Reg) (acc : Fin 512) (w64 : Bool)
  /-- R378. Load one surface pixel. -/
  | sldP (h : Head) (w64 : Bool) (d a b : Reg)
  /-- R378. Load a 2x2 quad of pixels. -/
  | sldQ (h : Head) (d a b : Reg)
  /-- R378. Load a row of four pixels. -/
  | sldB (h : Head) (d a b : Reg)
  /-- R378. Load depth and compare. -/
  | sldD (h : Head) (pd : Fin 8) (d a b c : Reg)
  /-- R379. Store one pixel. -/
  | sstP (h : Head) (w64 : Bool) (a b c : Reg)
  /-- R379. Store a quad of pixels. -/
  | sstQ (h : Head) (a b c : Reg)
  /-- R379. Store a row of four pixels. -/
  | sstB (h : Head) (a b c : Reg)
  /-- R379. Store a pixel under channel mask. -/
  | sstM (h : Head) (w64 : Bool) (mask : Fin 16) (a b c : Reg)
  /-- R380. Write one coefficient level. -/
  | scoef (h : Head) (k : Fin 16) (ch : Fin 4) (a b c : Reg)
  /-- R380. Write a row of four coefficient levels. -/
  | scoefB (h : Head) (g ch : Fin 4) (a b c : Reg)
  /-- R381. Set block motion vector. -/
  | smv (h : Head) (a b c : Reg)
  /-- R381. Set block reference index. -/
  | sref (h : Head) (r : Fin 4) (a b : Reg)
  /-- R381. Set block quantiser step. -/
  | srate (h : Head) (a b c : Reg)
  /-- R381. Make block ANCHOR with base. -/
  | sanchor (h : Head) (w64 : Bool) (a b c : Reg)
  /-- R382. Query block or surface state. -/
  | sqry (h : Head) (sel : Fin 6) (d a b : Reg)
  /-- R383. Encode and discard every decoded block of a surface. -/
  | sflush (h : Head) (a : Reg)
  /-- R383. Freeze, flush and release a surface. -/
  | srel (h : Head) (a : Reg)
  /-- R386. Affine leaf test returning t, u, v, s. -/
  | trix (h : Head) (pd : Fin 8) (d a b : Reg)
  /-- R386. Affine leaf test returning VIS64 pixel. -/
  | trixD (h : Head) (pd : Fin 8) (d a b c : Reg)
  /-- R385. Four-term FP32 dot product, rounded once. -/
  | triw (h : Head) (m : FMods) (d a b : Reg)
  /-- R387. Test one child box. -/
  | box12 (h : Head) (k pd : Fin 8) (d a b c : Reg)
  /-- R387. Test four child boxes. -/
  | box12x4 (h : Head) (hf : Bool) (pd : Fin 8) (d a b c : Reg)
  /-- R388. Decode a child reference. -/
  | nodex (h : Head) (k pd : Fin 8) (d a b : Reg)
  /-- R423. Raise SWTRAP with immediate. -/
  | trap (h : Head) (imm : BitVec 32)
  /-- R423. Raise BREAK with immediate. -/
  | brk (h : Head) (imm : BitVec 32)
  /-- R424. Resume trapped lanes at same or next word. -/
  | rte (h : Head) (nxt : Bool) (a : Reg) (b : OpB)
  /-- R425. Resume trapped lanes for one word, then STEP. -/
  | rteStep (h : Head) (nxt : Bool) (a : Reg) (b : OpB)
  /-- R438. Read a system register. -/
  | sysr (h : Head) (d : Reg) (r : BitVec 16)
  /-- R438. Write a system register. -/
  | sysw (h : Head) (d : Reg) (r : BitVec 16)
  /-- R432. Invalidate instruction caches over a range. -/
  | iinv (h : Head) (a : Reg) (b : OpB)
  /-- R433. Read 64-bit domain time. -/
  | time (h : Head) (d : Reg)
  /-- R428. Post debug mailbox message. -/
  | dbgmb (h : Head) (a : Reg) (b : OpB) (c : Reg)
  /-- R426. Set suspend flag of named lanes. -/
  | suspend (h : Head) (a : Reg) (b : OpB)
  /-- R426. Clear suspend flag of named lanes. -/
  | resume (h : Head) (a : Reg) (b : OpB)
  /-- R427. End named lanes, or terminate served context with .ctx. -/
  | killcrew (h : Head) (ctx : Bool) (a : Reg) (b : OpB)
  /-- R429. Take next record from trap ring. -/
  | trec (h : Head) (pd : Fin 8) (d : Reg)
  /-- R430. Cut interval to irrevocable or roll billet back. -/
  | jrnl (h : Head) (roll : Bool) (a : Reg)
  /-- R431. Set group instance timeout. -/
  | wdog (h : Head) (hn : Fin 4) (ofBillet : Bool) (a b : Reg)
  /-- R434. Raise tenant MSI-X vector after stores perform. -/
  | irq (h : Head) (b : OpB)
  /-- R435. Read performance count. -/
  | perfr (h : Head) (d : Reg) (b : OpB)
  /-- R436. Inject error mark at a location. -/
  | errinj (h : Head) (a b : Reg)
  /-- R437. Stop firmware thread until wake event. -/
  | halt (h : Head)
  /-- R170. Phase timer reaches timeout: blocked threads trap, diagnostic block, group broken. -/
  | bartime (g : Nat)
  /-- R218. WAITV timeout expires: thread released with TMO. -/
  | waitvTimeout (t : Nat)
  /-- R220. Domain time reaches the sleep wake time. -/
  | sleepWake (t : Nat)
  /-- R278. Last lock granted: compare all entries, commit or mismatch, unlock. -/
  | mcasLocksHeld (id : Nat)
  /-- R278. Lock wait exceeds 10,000 ticks: release locks, return retry. -/
  | mcasLockTimeout (id : Nat)
  /-- R280. Earlier accesses reach the fence's conditions; fence completes and counter decrements. -/
  | fenceComplete (id : Nat)
  /-- R180. All gang crews reach the matrix instruction; checks made and instruction issued once. -/
  | gangLatchRelease (cid : Nat)
  /-- R181. Latch wait exceeds billet group timeout: GANGFAIL. -/
  | gangfailTimeout (cid : Nat)
  /-- R315. Last operand read done: Arrive on release stage. -/
  | anvilOperandsRead (id : Nat)
  /-- R315. Accumulator writes done: gang counter decrements. -/
  | anvilInstrComplete (id : Nat)
  /-- R348. Dirty decoded block leaving RTWAYS ways is encoded, chunks then record. -/
  | planisherEvictEncode (ctx surf b : Nat)
  /-- R352. Pool word changes: pinned encodes retry. -/
  | poolWordChangeRetry (ctx surf b : Nat)
  /-- R352. Block pinned 100,000 ticks: waiting surface instructions raise SURFPOOL. -/
  | surfpoolPinTimeout (ctx surf b : Nat)
  /-- R437. Wake event resumes halted firmware thread. -/
  | firmwareWake
  /-- R157. Each arithmetic cycle, free ports form bundles from ready threads. -/
  | gatherCycle (core : Nat)
  /-- R157. Ready thread reaches 256 gather cycles without issue and becomes aged. -/
  | threadAged (t : Nat)
  /-- R160. Four gather cycles after a yield, threads become ready again. -/
  | yieldHoldExpire (t : Nat)
  /-- R51. Clause header and words fetched and checked, with one refetch on CRC failure. -/
  | fetchClause (t : Nat)
  /-- R34. Variable-latency result lands; counter decremented in issue order. -/
  | varlatLand (id : Nat)
  /-- R404. Handler crew starts at HANDLER on a core with an unread record. -/
  | handlerStart (core c : Nat)
  /-- R185. Host announces packets; overflow sets ERR and posts code 0x01. -/
  | lqtailWrite (f q v : Nat)
  /-- R185. Enable or disable a launch queue; base or size change while enabled posts code 0x02. -/
  | lqctlWrite (f q v : Nat)
  /-- R188. Packet becomes queue head: read once, checked, refused or held, deadline watch begins. -/
  | launchPacketHead (f q : Nat)
  /-- R189. Dependency word re-read every 1,000 ticks or on increment. -/
  | depPoll (f q : Nat)
  /-- R192. Module distributor orders candidates and places sets. -/
  | pick
  /-- R194. Domain time reaches deadline of uncompleted workpiece: miss record. -/
  | deadlineMiss (w : Nat)
  /-- R408. Set drained and written to save area, resources freed. -/
  | setSave (w set : Nat)
  /-- R410. Saved set restored as a whole onto one cluster. -/
  | setRestore (w set : Nat)
  /-- R238. Read request at home slice answered by DIR, SELF or UNC protocol. -/
  | homeReadRequest (id : Nat)
  /-- R238. Write or ownership request at home slice; invalidations, recalls, contention. -/
  | homeWriteRequest (id : Nat)
  /-- R238. Agent's eviction notice or write-back reaches home. -/
  | homeEvictNotice (line agent : Nat)
  /-- R238. Probe acknowledgement reaches home, completing the waiting request. -/
  | probeAck (line agent : Nat)
  /-- R238. Recall or invalidation reaches an agent, which writes back or drops its copy. -/
  | coreProbe (line agent : Nat)
  /-- R246. Probe answer late: resend, then treat agent as failed. -/
  | probeTimeout (line agent : Nat)
  /-- R241. Home time reaches Lmax; waiting SELF writes performed. -/
  | selfWritePerform (line : Nat)
  /-- R242. Home time reaches base plus 61,438: lease offsets rebased. -/
  | sliceRebase (home : Nat)
  /-- R240. Core time reaches lease end minus guard band; copy dropped. -/
  | selfCopyExpire (agent line : Nat)
  /-- R243. Every 1,024 ticks core compares time; drift drops SELF copies. -/
  | coreTimeCheck (core fast slow : Nat)
  /-- R245. Atomic, RED or CAS executes at crucible once line held exclusively. -/
  | crucibleAtomic (id : Nat)
  /-- R285. Ladle command: copy tensor box into canonical layout. -/
  | tcopy (id : Nat)
  /-- R285. Ladle command: gather rank-2 lines by index list. -/
  | tgather (id : Nat)
  /-- R288. Ladle command: decode box to canonical type. -/
  | tdecode (id : Nat)
  /-- R296. Ladle command: quantise canonical box to memory, or KV store. -/
  | tqstore (id : Nat)
  /-- R285. Ladle command: fill canonical box with FILL. -/
  | tfill (id : Nat)
  /-- R295. Ladle command: load codebook slot. -/
  | tcbload (id : Nat)
  /-- R300. Ladle command: re-read tensor map into cache. -/
  | tmapld (id : Nat)
  /-- R293. Sectors written; lines released; Complete update applied to stage. -/
  | ladleSectorComplete (id k : Nat)
  /-- R368. Traversal command: resolve nearest triangle per pixel of tiles. -/
  | beam (id : Nat)
  /-- R364. Traversal command: walk array of rays. -/
  | ray (id : Nat)
  /-- R358. Tile or ray written and accounted on stage. -/
  | travItemComplete (id j : Nat)
  /-- R371. BEAM pixel write pinned 100,000 ticks: TRAVFAULT DETAIL 0x0A. -/
  | travfaultPoolTimeout (id : Nat)
  /-- R396. Unit parked under TAG retries. -/
  | fqreplayRetry (f tag : Nat)
  /-- R399. Unit parked under TAG is aborted. -/
  | fqreplayAbort (f v : Nat)
  /-- R396. Every parked unit of tenant retries. -/
  | fqreplayRetryAll (f : Nat)
  /-- R395. Driver consumes fault records; held records post. -/
  | fqheadWrite (f v : Nat)
  /-- R400. Driver consumes notifications; owed notifications post. -/
  | nqheadWrite (f v : Nat)
  /-- R400. Clear pending bit of a granule counter. -/
  | acclrWrite (f v : Nat)
  /-- R466. Host consumes events; held records post. -/
  | eqheadWrite (f v : Nat)
  /-- R466. Host consumes mailbox entries; stalled DBGMB proceeds. -/
  | dmheadWrite (f v : Nat)
  /-- R414. Uncorrectable error consumed by billet. -/
  | ueccConsume (k kind unit a : Nat)
  /-- R411. BBAR phase complete and commands ended: checkpoint taken, journal emptied. -/
  | checkpoint (k : Nat)
  /-- R416. Assay crew reaches compare point; operation performed once or mismatch. -/
  | assayCompare (t : Nat)
  /-- R416. Assay crew fails to reach matrix compare point within timeout. -/
  | assayTimeout (t : Nat)
  /-- R418. Error counted at location; threshold makes fault lasting. -/
  | correctableError (kind unit a : Nat)
  /-- R419. Illegal scheduler state: drain and rebuild ready state. -/
  | schedulerRebuild (cl : Nat)
  /-- R419. Barrier unit parity error breaks group instance. -/
  | barrierParityError (g : Nat)
  /-- R451. Part request for a drawer line sent in request slot on chosen port. -/
  | drawerRequest (id : Nat)
  /-- R456. Data or completion from drawer arrives in response slot. -/
  | drawerResponse (id : Nat)
  /-- R451. Drawer probe or recall to part in coherence slot. -/
  | drawerProbe (line : Nat) (inval : Bool)
  /-- R460. MCAS lock, commit or unlock message at drawer home. -/
  | drawerMcasMessage (id : Nat)
  /-- R461. Part writes back narrow-scope drawer writes and answers. -/
  | promotionRequest (id : Nat)
  /-- R453. Payload flit fails check; resent in next slot of its class. -/
  | flitCheckFail (p : Nat)
  /-- R458. Retraining succeeds or port retired; waiting requests resent. -/
  | portRetrainEnd (p : Nat) (ok : Bool)
  /-- R459. Stall ends: LINKSTALL record to each affected context. -/
  | linkStallEnd (p : Nat)
  /-- R449. Every 1,024 ticks part slews its count towards reference. -/
  | domainTimeSlew (fast slow : Nat)
  /-- R449. Reference drawer leaves; next drawer becomes reference. -/
  | referenceChange
  /-- R457. Shadow slot tables applied at frame boundary passed by both ends. -/
  | slotTableSwapApply (p : Nat)
  /-- R457. Request application of written slot tables. -/
  | portctlSwap (p : Nat)
  /-- R458. Firmware forces port retraining. -/
  | portctlRetrain (p : Nat)
  /-- R440. Invalidate TLB entries of a page or context. -/
  | tlbinvWrite (c v : Nat)
  /-- R468. Every TLB has dropped the entries; BUSY clears. -/
  | tlbinvComplete (c : Nat)
  /-- R441. Write item of stopped thread through debug window. -/
  | dbgdataWrite (c v : Nat)
  /-- R467. Bind launch queues to context slots. -/
  | ctxbindWrite (f v : Nat)
  /-- R468. Create context in slot. -/
  | ctxcmdCreate (f k : Nat)
  /-- R468. Terminate context, discard saved sets, free slot. -/
  | ctxcmdDestroy (f k : Nat)
  /-- R465. Write to a register without behaviour of its own. -/
  | registerWrite (f off v : Nat)
  /-- R470. Reset of a tenant's virtual function. -/
  | functionLevelReset (f : Nat)
  /-- R472. Power-good starts firmware bring-up sequence. -/
  | powerGoodBringup (x : BringUp)
  /-- R474. Host power-state write: save sets, write back, self-refresh. -/
  | d3hotEntry
  /-- R474. Return to D0 repeats bring-up steps 3 to 7. -/
  | d0Return (x : BringUp)
  /-- R473. Above 95 °C arithmetic clock lowered. -/
  | thermalThrottle
  /-- R473. At 105 °C every context stopped and part enters recovery. -/
  | thermalShutdown
  /-- R471. Nonce request answered with signed report. -/
  | attestationRequest (nonce : Nat)
  /-- R67. A word whose opcode is unallocated is reached in an open clause and raises UNDEF, or MALFORMED when its DC field is 7. -/
  | unallocatedOpcode (op : Fin 512)
  /-- R218. Domain time reaches the cD deadline of a KIND 5 condition of a blocked WAITV, which may release the thread. -/
  | waitvDeadline (t : Nat)
  /-- R242. A core's own time reaches its core base plus 61,438, and the core rebases its lease ends and drops expired copies. -/
  | coreLeaseRebase (core : Nat)
  /-- R395. A write to FQCTL sets EN or IRQ or clears OVF, and setting EN releases fault records that parked units were holding. -/
  | fqctlWrite (f v : Nat)
  /-- R198. A write to AMPCTL enables or disables distribution of the amplification ring, or changes its priority. -/
  | ampctlWrite (f v : Nat)
  /-- R469. The host unmasks an MSI-X vector, and a message held pending for that vector is posted. -/
  | msixVectorUnmask (f vec : Nat)
  /-- R458. A Nymken port that firmware brings up finishes training and enters STATE up, so that L_n may become non-empty again. -/
  | portTrainingComplete (p : Nat)
  /-- R222. A drawer that is not the reference leaves or joins the domain, and DRWSIZE.n changes to or from 0. -/
  | drawerLeavesDomain (n size : Nat)
  deriving DecidableEq, Repr

end Sys2Proof
end

