-- ==== Sys2Proof/WellFormed.lean ====
section
/-!
DEFINITION. Which terms of Instr stand for an instruction: the register kinds and alignments of R29 and R62, the
modifiers each entry defines, and the scope, order and hint codes each entry accepts.
-/
namespace Sys2Proof

/-- The register codes one operand position accepts: v codes that are a multiple of al and at most vmax, s codes
(aligned likewise), vz. -/
structure RK where
  v : Bool
  al : Nat
  vmax : Nat
  s : Bool
  z : Bool
  deriving DecidableEq, Repr

/-- Whether a register is of the kind (R62). -/
def RK.ok (k : RK) : Reg → Prop
  | .v n => k.v = true ∧ n % k.al = 0 ∧ n ≤ k.vmax
  | .s n => k.s = true ∧ n % k.al = 0 ∧ n + k.al ≤ 31
  | .z => k.z = true

/-- A 32-bit position. -/
abbrev RK.k32 : RK := ⟨true, 1, 223, true, true⟩
/-- A 64-bit position: an even pair. -/
abbrev RK.k64 : RK := ⟨true, 2, 222, true, true⟩
/-- A 128-bit position: a quad of v, or vz; s codes are not accepted. -/
abbrev RK.k128 : RK := ⟨true, 4, 220, false, true⟩
/-- v or s, not vz (MOVS, R44). -/
abbrev RK.kvs : RK := ⟨true, 1, 223, true, false⟩
/-- v only. -/
abbrev RK.kv : RK := ⟨true, 1, 223, false, false⟩
/-- s only. -/
abbrev RK.ks : RK := ⟨false, 1, 0, true, false⟩
/-- An even s pair (a tile descriptor, R328). -/
abbrev RK.kds : RK := ⟨false, 2, 0, true, false⟩
/-- Payload quad of a 16-byte queue form with its status register (R215). -/
abbrev RK.kq4 : RK := ⟨true, 4, 219, false, false⟩
/-- Payload of a 32-byte or try form with its status register (R215). -/
abbrev RK.kq8 : RK := ⟨true, 4, 215, false, false⟩
/-- The register spans of CAS (R274). -/
abbrev RK.kc2 : RK := ⟨true, 2, 222, false, false⟩
abbrev RK.kc4 : RK := ⟨true, 4, 220, false, false⟩
abbrev RK.kc8 : RK := ⟨true, 4, 0xD8, false, false⟩
/-- Sixteen registers from a multiple of 4 (PUSH R320, TREC R429). -/
abbrev RK.kc16 : RK := ⟨true, 4, 0xD0, false, false⟩
/-- MDRAIN destinations (R330). -/
abbrev RK.kd16 : RK := ⟨true, 1, 208, false, false⟩
abbrev RK.kd32 : RK := ⟨true, 2, 192, false, false⟩
abbrev RK.kd8 : RK := ⟨true, 1, 216, false, false⟩
/-- Spans of BOX12 (R384, R387). -/
abbrev RK.kspan18 : RK := ⟨true, 4, 206, false, false⟩
abbrev RK.kspan8 : RK := ⟨true, 4, 216, false, false⟩
/-- A 32-bit or 64-bit position by W64 (R373). -/
abbrev RK.kw (w64 : Bool) : RK := if w64 then RK.k64 else RK.k32

/-- The position of MOV by its width (R130). -/
def MovW.rk : MovW → RK
  | .w32 => RK.k32
  | .w64 => RK.k64
  | .w128 => RK.k128

/-- The position of PTST and PCLR by their width: no s code (R283). -/
def MovW.rkV : MovW → RK
  | .w32 => ⟨true, 1, 223, false, true⟩
  | .w64 => ⟨true, 2, 222, false, true⟩
  | .w128 => ⟨true, 4, 220, false, true⟩

/-- The destination of MOVI by its mode (R130). -/
def MoviMode.rk : MoviMode → RK
  | .w32 => RK.k32
  | .sx64 => RK.k64
  | .zx64 => RK.k64

/-- Operand B: a register of the kind, or any immediate (R64). -/
def OpB.ok (b : OpB) (k : RK) : Prop :=
  match b with
  | .reg r => k.ok r
  | .imm _ => True

/-- An immediate in B takes the place of C (R64, R199): C is then absent, written vz. -/
def OpB.immLeavesC (b : OpB) (c : Reg) : Prop :=
  match b with
  | .reg _ => True
  | .imm _ => c = .z

/-- Only the modifiers of the mask are used (R61, R131). -/
def FMods.within (m : FMods) (k : FMask) : Prop :=
  (k.rnd = false → m.rnd = .rne) ∧ (k.ftz = false → m.ftz = false) ∧ (k.sat = false → m.sat = false) ∧
  (k.a = false → m.negA = false ∧ m.absA = false) ∧ (k.b = false → m.negB = false ∧ m.absB = false) ∧
  (k.c = false → m.negC = false ∧ m.absC = false)

/-- The code of a scope (R65). -/
def Scope.code : Scope → Nat
  | .crew => 0
  | .core => 1
  | .clus => 2
  | .die => 3
  | .dev => 4
  | .dom => 5

/-- The code of an order (R65). -/
def Ord.code : Ord → Nat
  | .weak => 0
  | .rlx => 1
  | .acq => 2
  | .rel => 3
  | .ar => 4
  | .sc => 5

/-- A format M address whose base, scope, order and hint its row of R266 accepts. -/
def MOp.ok (m : MOp) (base : RK) (scopes ords : List Nat) (hints : Nat) : Prop :=
  base.ok m.base ∧ m.scope.code ∈ scopes ∧ m.ord.code ∈ ords ∧ m.hint.val < hints

/-- RED narrows the offset to a signed 20-bit value (R275). -/
def MOp.ofs20 (m : MOp) : Prop :=
  m.ofs.toNat < 2 ^ 19 ∨ 2 ^ 24 - 2 ^ 19 ≤ m.ofs.toNat

/-- The code of a reduction (R275). -/
def RedOp.code : RedOp → Nat
  | .add => 0
  | .smin => 1
  | .umin => 2
  | .smax => 3
  | .umax => 4
  | .and => 5
  | .or => 6
  | .xor => 7
  | .fadd => 8
  | .bfadd => 9

/-- The reductions of RED.B64; code 9 is reserved there (R275). -/
def RedOp.ofCode64 : Nat → Option RedOp
  | 0 => some .add
  | 1 => some .smin
  | 2 => some .umin
  | 3 => some .smax
  | 4 => some .umax
  | 5 => some .and
  | 6 => some .or
  | 7 => some .xor
  | 8 => some .fadd
  | _ => none

/-- The reductions of RED.B32 (R275). -/
def RedOp.ofCode32 (n : Nat) : Option RedOp :=
  if n = 9 then some .bfadd else RedOp.ofCode64 n

/-- What the system register map says of a register (R439): its width in bits, the lowest privilege level number that
reads it and that writes it (1 for P1, 0 for P0), 9 where there is no such access, and whether a P1 write needs
CTXCTL.SYS. -/
structure SRegInfo where
  width : Nat
  rd : Nat
  wr : Nat
  sys : Bool
  deriving DecidableEq, Repr

/-- The system register map (R439, R457): none for a number it does not list. -/
def SReg.info (n : Nat) : Option SRegInfo :=
  if n = 0x0000 then some ⟨32, 1, 9, false⟩
  else if n = 0x0001 then some ⟨32, 1, 1, false⟩
  else if n = 0x0002 then some ⟨64, 1, 0, false⟩
  else if n = 0x0003 ∨ n = 0x0004 then some ⟨64, 1, 1, false⟩
  else if n = 0x0005 then some ⟨32, 1, 1, false⟩
  else if n = 0x0006 then some ⟨32, 1, 9, false⟩
  else if n = 0x0007 then some ⟨64, 1, 1, false⟩
  else if n = 0x0008 then some ⟨32, 1, 1, false⟩
  else if n = 0x0009 ∨ n = 0x000A then some ⟨64, 1, 1, false⟩
  else if n = 0x000B then some ⟨32, 1, 1, false⟩
  else if n = 0x000C then some ⟨64, 1, 9, false⟩
  else if n = 0x000D then some ⟨64, 9, 1, false⟩
  else if 0x0010 ≤ n ∧ n ≤ 0x0018 then some ⟨64, 1, 1, false⟩
  else if 0x0019 ≤ n ∧ n ≤ 0x001B then some ⟨32, 1, 1, false⟩
  else if n = 0x001C then some ⟨32, 1, 9, false⟩
  else if n = 0x0100 then some ⟨32, 1, 1, true⟩
  else if n = 0x0101 then some ⟨32, 0, 0, false⟩
  else if 0x0200 ≤ n ∧ n < 0x0300 then
    let k := n % 64
    if k = 0 then some ⟨32, 1, 1, true⟩
    else if k ≤ 48 then (if k % 3 = 0 then some ⟨32, 1, 1, true⟩ else some ⟨64, 1, 1, true⟩)
    else none
  else if 0x0800 ≤ n ∧ n ≤ 0x0803 then some ⟨32, 1, 9, false⟩
  else if 0x0804 ≤ n ∧ n ≤ 0x0813 then some ⟨64, 1, 9, false⟩
  else if 0x1000 ≤ n ∧ n < 0x1400 then some ⟨64, 0, 0, false⟩
  else if 0x1400 ≤ n ∧ n < 0x1410 then some ⟨64, 0, 0, false⟩
  else if 0x1410 ≤ n ∧ n < 0x1420 then some ⟨64, 0, 9, false⟩
  else none

/-- The kind of the data register of an access to a system register (R438). -/
def SRegInfo.rk (i : SRegInfo) : RK := if i.width = 64 then RK.k64 else RK.k32

/-- A listed system register with a data register of its width (R59, R438). -/
def SReg.okFor (n : Nat) (d : Reg) : Prop :=
  match SReg.info n with
  | some i => i.rk.ok d
  | none => False

/-- The allocated opcodes (R67). -/
def allocated (op : Nat) : Bool :=
  decide (op < 0x78) || decide (0x80 ≤ op ∧ op ≤ 0xAA) || decide (0xC0 ≤ op ∧ op ≤ 0xDF) ||
  decide (0x100 ≤ op ∧ op ≤ 0x13B) || decide (0x140 ≤ op ∧ op ≤ 0x156) || decide (0x180 ≤ op ∧ op ≤ 0x196) ||
  decide (0x1C0 ≤ op ∧ op ≤ 0x1D2)
/-- The operand conditions of each instruction's entry (R62, R111, R266, R319 and the entries):
exactly the terms an instruction word can stand for.  An event row has no word and is always well formed. -/
def Instr.wf : Instr → Prop
  | .addB32 _ d a b => (RK.k32).ok d ∧ (RK.k32).ok a ∧ b.ok RK.k32
  | .addB64 _ d a b => (RK.k64).ok d ∧ (RK.k64).ok a ∧ b.ok RK.k64
  | .add3B32 _ d a b c => (RK.k32).ok d ∧ (RK.k32).ok a ∧ (RK.k32).ok b ∧ (RK.k32).ok c
  | .addcB32 _ _ _ _ d a b => (RK.k32).ok d ∧ (RK.k32).ok a ∧ b.ok RK.k32
  | .addsS32 _ d a b => (RK.k32).ok d ∧ (RK.k32).ok a ∧ b.ok RK.k32
  | .subB32 _ d a b => (RK.k32).ok d ∧ (RK.k32).ok a ∧ b.ok RK.k32
  | .subB64 _ d a b => (RK.k64).ok d ∧ (RK.k64).ok a ∧ b.ok RK.k64
  | .subcB32 _ _ _ _ d a b => (RK.k32).ok d ∧ (RK.k32).ok a ∧ b.ok RK.k32
  | .subsS32 _ d a b => (RK.k32).ok d ∧ (RK.k32).ok a ∧ b.ok RK.k32
  | .mulB32 _ d a b => (RK.k32).ok d ∧ (RK.k32).ok a ∧ b.ok RK.k32
  | .mulB64 _ d a b => (RK.k64).ok d ∧ (RK.k64).ok a ∧ b.ok RK.k64
  | .mulhS32 _ d a b => (RK.k32).ok d ∧ (RK.k32).ok a ∧ b.ok RK.k32
  | .mulhZ32 _ d a b => (RK.k32).ok d ∧ (RK.k32).ok a ∧ b.ok RK.k32
  | .madB32 _ d a b c => (RK.k32).ok d ∧ (RK.k32).ok a ∧ (RK.k32).ok b ∧ (RK.k32).ok c
  | .madwS32 _ d a b c => (RK.k64).ok d ∧ (RK.k32).ok a ∧ (RK.k32).ok b ∧ (RK.k64).ok c
  | .madwZ32 _ d a b c => (RK.k64).ok d ∧ (RK.k32).ok a ∧ (RK.k32).ok b ∧ (RK.k64).ok c
  | .divS32 _ d a b => (RK.k32).ok d ∧ (RK.k32).ok a ∧ b.ok RK.k32
  | .divZ32 _ d a b => (RK.k32).ok d ∧ (RK.k32).ok a ∧ b.ok RK.k32
  | .divS64 _ d a b => (RK.k64).ok d ∧ (RK.k64).ok a ∧ b.ok RK.k64
  | .divZ64 _ d a b => (RK.k64).ok d ∧ (RK.k64).ok a ∧ b.ok RK.k64
  | .remS32 _ d a b => (RK.k32).ok d ∧ (RK.k32).ok a ∧ b.ok RK.k32
  | .remZ32 _ d a b => (RK.k32).ok d ∧ (RK.k32).ok a ∧ b.ok RK.k32
  | .minS32 _ d a b => (RK.k32).ok d ∧ (RK.k32).ok a ∧ b.ok RK.k32
  | .minZ32 _ d a b => (RK.k32).ok d ∧ (RK.k32).ok a ∧ b.ok RK.k32
  | .maxS32 _ d a b => (RK.k32).ok d ∧ (RK.k32).ok a ∧ b.ok RK.k32
  | .maxZ32 _ d a b => (RK.k32).ok d ∧ (RK.k32).ok a ∧ b.ok RK.k32
  | .clampS32 _ d a b c => (RK.k32).ok d ∧ (RK.k32).ok a ∧ (RK.k32).ok b ∧ (RK.k32).ok c
  | .clampZ32 _ d a b c => (RK.k32).ok d ∧ (RK.k32).ok a ∧ (RK.k32).ok b ∧ (RK.k32).ok c
  | .absS32 _ _ d a => (RK.k32).ok d ∧ (RK.k32).ok a
  | .negS32 _ _ d a => (RK.k32).ok d ∧ (RK.k32).ok a
  | .andB _ d a b => (RK.k32).ok d ∧ (RK.k32).ok a ∧ b.ok RK.k32
  | .orB _ d a b => (RK.k32).ok d ∧ (RK.k32).ok a ∧ b.ok RK.k32
  | .xorB _ d a b => (RK.k32).ok d ∧ (RK.k32).ok a ∧ b.ok RK.k32
  | .andn _ d a b => (RK.k32).ok d ∧ (RK.k32).ok a ∧ b.ok RK.k32
  | .notB _ d a => (RK.k32).ok d ∧ (RK.k32).ok a
  | .shlB32 _ d a b => (RK.k32).ok d ∧ (RK.k32).ok a ∧ b.ok RK.k32
  | .shlB64 _ d a b => (RK.k64).ok d ∧ (RK.k64).ok a ∧ b.ok RK.k32
  | .shrB32 _ d a b => (RK.k32).ok d ∧ (RK.k32).ok a ∧ b.ok RK.k32
  | .shrB64 _ d a b => (RK.k64).ok d ∧ (RK.k64).ok a ∧ b.ok RK.k32
  | .sarB32 _ d a b => (RK.k32).ok d ∧ (RK.k32).ok a ∧ b.ok RK.k32
  | .sarB64 _ d a b => (RK.k64).ok d ∧ (RK.k64).ok a ∧ b.ok RK.k32
  | .rotB32 _ _ d a b => (RK.k32).ok d ∧ (RK.k32).ok a ∧ b.ok RK.k32
  | .fsh _ _ d a b c => (RK.k32).ok d ∧ (RK.k32).ok a ∧ (RK.k32).ok b ∧ (RK.k32).ok c
  | .bfxS32 _ d a b => (RK.k32).ok d ∧ (RK.k32).ok a ∧ b.ok RK.k32
  | .bfxZ32 _ d a b => (RK.k32).ok d ∧ (RK.k32).ok a ∧ b.ok RK.k32
  | .bfi _ d a b c => (RK.k32).ok d ∧ (RK.k32).ok a ∧ (RK.k32).ok b ∧ (RK.k32).ok c
  | .bmsk _ d b => (RK.k32).ok d ∧ b.ok RK.k32
  | .popc _ d a => (RK.k32).ok d ∧ (RK.k32).ok a
  | .clz _ d a => (RK.k32).ok d ∧ (RK.k32).ok a
  | .brev _ d a => (RK.k32).ok d ∧ (RK.k32).ok a
  | .bswz _ d a b c => (RK.k32).ok d ∧ (RK.k32).ok a ∧ (RK.k32).ok b ∧ (RK.k32).ok c
  | .sel _ _ _ d a b => (RK.k32).ok d ∧ (RK.k32).ok a ∧ b.ok RK.k32
  | .icmpS32 _ _ _ d a b => (RK.k32).ok d ∧ (RK.k32).ok a ∧ b.ok RK.k32
  | .icmpZ32 _ _ _ d a b => (RK.k32).ok d ∧ (RK.k32).ok a ∧ b.ok RK.k32
  | .icmpS64 _ _ _ d a b => (RK.k32).ok d ∧ (RK.k64).ok a ∧ b.ok RK.k64
  | .icmpZ64 _ _ _ d a b => (RK.k32).ok d ∧ (RK.k64).ok a ∧ b.ok RK.k64
  | .idot4S8 _ _ d a b c => (RK.k32).ok d ∧ (RK.k32).ok a ∧ (RK.k32).ok b ∧ (RK.k32).ok c
  | .idot4Z8 _ _ d a b c => (RK.k32).ok d ∧ (RK.k32).ok a ∧ (RK.k32).ok b ∧ (RK.k32).ok c
  | .sad _ d a b c => (RK.k32).ok d ∧ (RK.k32).ok a ∧ (RK.k32).ok b ∧ (RK.k32).ok c
  | .lea _ _ _ d a b => (RK.k64).ok d ∧ (RK.k64).ok a ∧ b.ok RK.k32
  | .mov _ mw d a => (mw.rk).ok d ∧ (mw.rk).ok a
  | .movi _ md d _ => md.rk.ok d
  | .movs _ d _ => RK.kvs.ok d
  | .plop _ _ _ _ _ _ => True
  | .faddF32 _ m d a b => m.within ⟨true, true, true, true, true, false⟩ ∧ (RK.k32).ok d ∧ (RK.k32).ok a ∧ b.ok RK.k32
  | .faddF64 _ m d a b => m.within ⟨true, true, true, true, true, false⟩ ∧ (RK.k64).ok d ∧ (RK.k64).ok a ∧ b.ok RK.k64
  | .faddF16x2 _ m d a b => m.within ⟨true, true, true, true, true, false⟩ ∧ (RK.k32).ok d ∧ (RK.k32).ok a ∧ b.ok RK.k32
  | .faddBf16x2 _ m d a b => m.within ⟨true, true, true, true, true, false⟩ ∧ (RK.k32).ok d ∧ (RK.k32).ok a ∧ b.ok RK.k32
  | .fmulF32 _ m d a b => m.within ⟨true, true, true, true, true, false⟩ ∧ (RK.k32).ok d ∧ (RK.k32).ok a ∧ b.ok RK.k32
  | .fmulF64 _ m d a b => m.within ⟨true, true, true, true, true, false⟩ ∧ (RK.k64).ok d ∧ (RK.k64).ok a ∧ b.ok RK.k64
  | .fmulF16x2 _ m d a b => m.within ⟨true, true, true, true, true, false⟩ ∧ (RK.k32).ok d ∧ (RK.k32).ok a ∧ b.ok RK.k32
  | .fmulBf16x2 _ m d a b => m.within ⟨true, true, true, true, true, false⟩ ∧ (RK.k32).ok d ∧ (RK.k32).ok a ∧ b.ok RK.k32
  | .ffmaF32 _ m d a b c => m.within ⟨true, true, true, true, true, true⟩ ∧ (RK.k32).ok d ∧ (RK.k32).ok a ∧ (RK.k32).ok b ∧ (RK.k32).ok c
  | .ffmaF64 _ m d a b c => m.within ⟨true, true, true, true, true, true⟩ ∧ (RK.k64).ok d ∧ (RK.k64).ok a ∧ (RK.k64).ok b ∧ (RK.k64).ok c
  | .ffmaF16x2 _ m d a b c => m.within ⟨true, true, true, true, true, true⟩ ∧ (RK.k32).ok d ∧ (RK.k32).ok a ∧ (RK.k32).ok b ∧ (RK.k32).ok c
  | .ffmaBf16x2 _ m d a b c => m.within ⟨true, true, true, true, true, true⟩ ∧ (RK.k32).ok d ∧ (RK.k32).ok a ∧ (RK.k32).ok b ∧ (RK.k32).ok c
  | .ffmaw _ m d a b c => m.within ⟨true, true, true, true, true, true⟩ ∧ (RK.k64).ok d ∧ (RK.k32).ok a ∧ (RK.k32).ok b ∧ (RK.k64).ok c
  | .fdivF32 _ m d a b => m.within ⟨true, true, true, true, true, false⟩ ∧ (RK.k32).ok d ∧ (RK.k32).ok a ∧ b.ok RK.k32
  | .fdivF64 _ m d a b => m.within ⟨true, true, true, true, true, false⟩ ∧ (RK.k64).ok d ∧ (RK.k64).ok a ∧ b.ok RK.k64
  | .fsqrtF32 _ m d a => m.within ⟨true, true, true, true, false, false⟩ ∧ (RK.k32).ok d ∧ (RK.k32).ok a
  | .fsqrtF64 _ m d a => m.within ⟨true, true, true, true, false, false⟩ ∧ (RK.k64).ok d ∧ (RK.k64).ok a
  | .fminF32 _ m d a b => m.within ⟨false, true, false, true, true, false⟩ ∧ (RK.k32).ok d ∧ (RK.k32).ok a ∧ b.ok RK.k32
  | .fminF64 _ m d a b => m.within ⟨false, true, false, true, true, false⟩ ∧ (RK.k64).ok d ∧ (RK.k64).ok a ∧ b.ok RK.k64
  | .fmaxF32 _ m d a b => m.within ⟨false, true, false, true, true, false⟩ ∧ (RK.k32).ok d ∧ (RK.k32).ok a ∧ b.ok RK.k32
  | .fmaxF64 _ m d a b => m.within ⟨false, true, false, true, true, false⟩ ∧ (RK.k64).ok d ∧ (RK.k64).ok a ∧ b.ok RK.k64
  | .fmed3F32 _ m d a b c => m.within ⟨false, true, false, true, true, true⟩ ∧ (RK.k32).ok d ∧ (RK.k32).ok a ∧ (RK.k32).ok b ∧ (RK.k32).ok c
  | .fmed3F64 _ m d a b c => m.within ⟨false, true, false, true, true, true⟩ ∧ (RK.k64).ok d ∧ (RK.k64).ok a ∧ (RK.k64).ok b ∧ (RK.k64).ok c
  | .fcmpF32 _ _ _ _ d a b => (RK.k32).ok d ∧ (RK.k32).ok a ∧ b.ok RK.k32
  | .fcmpF64 _ _ _ _ d a b => (RK.k32).ok d ∧ (RK.k64).ok a ∧ b.ok RK.k64
  | .fcmpF16x2 _ _ _ _ _ d a b => (RK.k32).ok d ∧ (RK.k32).ok a ∧ b.ok RK.k32
  | .fcmpBf16x2 _ _ _ _ _ d a b => (RK.k32).ok d ∧ (RK.k32).ok a ∧ b.ok RK.k32
  | .fclassF32 _ _ d a b => (RK.k32).ok d ∧ (RK.k32).ok a ∧ b.ok RK.k32
  | .fclassF64 _ _ d a b => (RK.k32).ok d ∧ (RK.k64).ok a ∧ b.ok RK.k32
  | .frndF32 _ m d a => m.within ⟨true, true, true, true, false, false⟩ ∧ (RK.k32).ok d ∧ (RK.k32).ok a
  | .frndF64 _ m d a => m.within ⟨true, true, true, true, false, false⟩ ∧ (RK.k64).ok d ∧ (RK.k64).ok a
  | .fscaleF32 _ m d a b => m.within ⟨true, true, true, true, false, false⟩ ∧ (RK.k32).ok d ∧ (RK.k32).ok a ∧ b.ok RK.k32
  | .fscaleF64 _ m d a b => m.within ⟨true, true, true, true, false, false⟩ ∧ (RK.k64).ok d ∧ (RK.k64).ok a ∧ b.ok RK.k32
  | .fexpF32 _ _ d a => (RK.k32).ok d ∧ (RK.k32).ok a
  | .fexpF64 _ _ d a => (RK.k32).ok d ∧ (RK.k64).ok a
  | .sfnF32 _ _ _ _ _ _ d a => (RK.k32).ok d ∧ (RK.k32).ok a
  | .sfnF64 _ _ _ _ _ _ d a => (RK.k64).ok d ∧ (RK.k64).ok a
  | .fdot2Bf16 _ m d a b c => m.within ⟨true, true, true, true, true, true⟩ ∧ (RK.k32).ok d ∧ (RK.k32).ok a ∧ (RK.k32).ok b ∧ (RK.k32).ok c
  | .ftsumF64 _ m d a b => m.within ⟨false, false, false, true, true, false⟩ ∧ (RK.k128).ok d ∧ (RK.k64).ok a ∧ (RK.k64).ok b
  | .crelF32 _ _ _ d a b => (RK.k32).ok d ∧ (RK.k64).ok a ∧ (RK.k64).ok b
  | .fcvtF32F64 _ m d a => m.within ⟨true, true, true, false, false, false⟩ ∧ (RK.k32).ok d ∧ (RK.k64).ok a
  | .fcvtF64F32 _ m d a => m.within ⟨true, true, true, false, false, false⟩ ∧ (RK.k64).ok d ∧ (RK.k32).ok a
  | .fcvtF32F16 _ m _ d a => m.within ⟨true, true, true, false, false, false⟩ ∧ (RK.k32).ok d ∧ (RK.k32).ok a
  | .fcvtF16x2F32 _ m d a b => m.within ⟨true, true, true, false, false, false⟩ ∧ (RK.k32).ok d ∧ (RK.k32).ok a ∧ (RK.k32).ok b
  | .fcvtF32Bf16 _ m _ d a => m.within ⟨true, true, true, false, false, false⟩ ∧ (RK.k32).ok d ∧ (RK.k32).ok a
  | .fcvtBf16x2F32 _ m d a b => m.within ⟨true, true, true, false, false, false⟩ ∧ (RK.k32).ok d ∧ (RK.k32).ok a ∧ (RK.k32).ok b
  | .fcvtS32F32 _ m d a => m.within ⟨true, true, false, false, false, false⟩ ∧ (RK.k32).ok d ∧ (RK.k32).ok a
  | .fcvtZ32F32 _ m d a => m.within ⟨true, true, false, false, false, false⟩ ∧ (RK.k32).ok d ∧ (RK.k32).ok a
  | .fcvtF32S32 _ m d a => m.within ⟨true, true, true, false, false, false⟩ ∧ (RK.k32).ok d ∧ (RK.k32).ok a
  | .fcvtF32Z32 _ m d a => m.within ⟨true, true, true, false, false, false⟩ ∧ (RK.k32).ok d ∧ (RK.k32).ok a
  | .fcvtS64F64 _ m d a => m.within ⟨true, true, false, false, false, false⟩ ∧ (RK.k64).ok d ∧ (RK.k64).ok a
  | .fcvtZ64F64 _ m d a => m.within ⟨true, true, false, false, false, false⟩ ∧ (RK.k64).ok d ∧ (RK.k64).ok a
  | .fcvtF64S64 _ m d a => m.within ⟨true, true, true, false, false, false⟩ ∧ (RK.k64).ok d ∧ (RK.k64).ok a
  | .fcvtF64Z64 _ m d a => m.within ⟨true, true, true, false, false, false⟩ ∧ (RK.k64).ok d ∧ (RK.k64).ok a
  | .fcvtS32F64 _ m d a => m.within ⟨true, true, false, false, false, false⟩ ∧ (RK.k32).ok d ∧ (RK.k64).ok a
  | .fcvtF64S32 _ m d a => m.within ⟨true, true, true, false, false, false⟩ ∧ (RK.k64).ok d ∧ (RK.k32).ok a
  | .bra _ _ => True
  | .braCons _ _ => True
  | .brx _ a => (RK.k64).ok a
  | .call _ _ => True
  | .callx _ a => (RK.k64).ok a
  | .ret _ => True
  | .exit _ => True
  | .nop _ => True
  | .join _ b => b.ok RK.k32
  | .yield_ _ => True
  | .prio _ b => b.ok RK.k32
  | .dbnz _ a _ => RK.k32.ok a
  | .lxchAtB32 _ _ _ d a b c => (RK.k32).ok d ∧ (RK.k32).ok a ∧ b.ok RK.k32 ∧ (RK.k32).ok c ∧ b.immLeavesC c
  | .lxchRotB32 _ _ _ d a b c => (RK.k32).ok d ∧ (RK.k32).ok a ∧ b.ok RK.k32 ∧ (RK.k32).ok c ∧ b.immLeavesC c
  | .lxchDistB32 _ _ _ d a b c => (RK.k32).ok d ∧ (RK.k32).ok a ∧ b.ok RK.k32 ∧ (RK.k32).ok c ∧ b.immLeavesC c
  | .lxchMirB32 _ _ _ d a b c => (RK.k32).ok d ∧ (RK.k32).ok a ∧ b.ok RK.k32 ∧ (RK.k32).ok c ∧ b.immLeavesC c
  | .lxchAtB64 _ _ _ d a b c => (RK.k64).ok d ∧ (RK.k64).ok a ∧ b.ok RK.k32 ∧ (RK.k32).ok c ∧ b.immLeavesC c
  | .lxchRotB64 _ _ _ d a b c => (RK.k64).ok d ∧ (RK.k64).ok a ∧ b.ok RK.k32 ∧ (RK.k32).ok c ∧ b.immLeavesC c
  | .lxchDistB64 _ _ _ d a b c => (RK.k64).ok d ∧ (RK.k64).ok a ∧ b.ok RK.k32 ∧ (RK.k32).ok c ∧ b.immLeavesC c
  | .lxchMirB64 _ _ _ d a b c => (RK.k64).ok d ∧ (RK.k64).ok a ∧ b.ok RK.k32 ∧ (RK.k32).ok c ∧ b.immLeavesC c
  | .cpqAll _ _ _ _ d c => (RK.k32).ok d ∧ (RK.k32).ok c
  | .cpqAny _ _ _ _ d c => (RK.k32).ok d ∧ (RK.k32).ok c
  | .cpqSame _ _ _ _ d c => (RK.k32).ok d ∧ (RK.k32).ok c
  | .cpqMask _ _ _ d c => (RK.k32).ok d ∧ (RK.k32).ok c
  | .cpqNum _ _ _ d c => (RK.k32).ok d ∧ (RK.k32).ok c
  | .vgrpPart _ d a c => (RK.k32).ok d ∧ (RK.k32).ok a ∧ (RK.k32).ok c
  | .vgrpUni _ _ d a c => (RK.k32).ok d ∧ (RK.k32).ok a ∧ (RK.k32).ok c
  | .credAddB32 _ d a c => (RK.k32).ok d ∧ (RK.k32).ok a ∧ (RK.k32).ok c
  | .credMinS32 _ d a c => (RK.k32).ok d ∧ (RK.k32).ok a ∧ (RK.k32).ok c
  | .credMinZ32 _ d a c => (RK.k32).ok d ∧ (RK.k32).ok a ∧ (RK.k32).ok c
  | .credMaxS32 _ d a c => (RK.k32).ok d ∧ (RK.k32).ok a ∧ (RK.k32).ok c
  | .credMaxZ32 _ d a c => (RK.k32).ok d ∧ (RK.k32).ok a ∧ (RK.k32).ok c
  | .credAnd _ d a c => (RK.k32).ok d ∧ (RK.k32).ok a ∧ (RK.k32).ok c
  | .credOr _ d a c => (RK.k32).ok d ∧ (RK.k32).ok a ∧ (RK.k32).ok c
  | .credXor _ d a c => (RK.k32).ok d ∧ (RK.k32).ok a ∧ (RK.k32).ok c
  | .credFaddF32 _ d a c => (RK.k32).ok d ∧ (RK.k32).ok a ∧ (RK.k32).ok c
  | .credFminF32 _ d a c => (RK.k32).ok d ∧ (RK.k32).ok a ∧ (RK.k32).ok c
  | .lead _ _ d c => (RK.k32).ok d ∧ (RK.k32).ok c
  | .memb _ d c => (RK.k32).ok d ∧ (RK.k32).ok c
  | .smov _ d a b => (RK.ks).ok d ∧ (RK.k32).ok a ∧ b.ok RK.k32
  | .gang _ b => b.ok RK.k32
  | .psave _ d => (RK.k32).ok d
  | .pload _ a => (RK.k32).ok a
  | .barSync _ _ d b => (RK.k32).ok d ∧ b.ok RK.k32
  | .barArv _ _ d b => (RK.k32).ok d ∧ b.ok RK.k32
  | .barArvc _ _ d b => (RK.k32).ok d ∧ b.ok RK.k32
  | .barWait _ _ d a b => (RK.k32).ok d ∧ (RK.k32).ok a ∧ b.ok RK.k32
  | .barTry _ _ d a b => (RK.k32).ok d ∧ (RK.k32).ok a ∧ b.ok RK.k32
  | .barLeave _ _ b => b.ok RK.k32
  | .barReset _ _ => True
  | .bbar _ d b => (RK.k32).ok d ∧ b.ok RK.k32
  | .grpq _ _ _ d => (RK.k32).ok d
  | .stginit _ d m => (RK.k32).ok d ∧ RK.k32.ok m.base
  | .stgowe _ d m => (RK.k32).ok d ∧ RK.k32.ok m.base
  | .stgadd _ d m => (RK.k32).ok d ∧ RK.k32.ok m.base
  | .stgarv _ m => RK.k32.ok m.base
  | .stgtry _ d m => (RK.k32).ok d ∧ RK.k32.ok m.base
  | .stgwait _ d m => (RK.k32).ok d ∧ RK.k32.ok m.base
  | .stginval _ m => RK.k32.ok m.base
  | .qinit _ d m => (RK.k64).ok d ∧ RK.k32.ok m.base
  | .qpush _ d m => (RK.kq4).ok d ∧ RK.k32.ok m.base
  | .qpushW _ d m => (RK.kq8).ok d ∧ RK.k32.ok m.base
  | .qpop _ d m => (RK.kq4).ok d ∧ RK.k32.ok m.base
  | .qpopW _ d m => (RK.kq8).ok d ∧ RK.k32.ok m.base
  | .qtrypush _ d m => (RK.kq8).ok d ∧ RK.k32.ok m.base
  | .qtrypop _ d m => (RK.kq8).ok d ∧ RK.k32.ok m.base
  | .qpeek _ d m => (RK.kq8).ok d ∧ RK.k32.ok m.base
  | .qcount _ d m => (RK.k32).ok d ∧ RK.k32.ok m.base
  | .qbreak _ m => RK.k32.ok m.base
  | .waitvAny _ d a b c => (RK.k32).ok d ∧ (RK.k128).ok a ∧ (RK.k32).ok b ∧ (RK.k64).ok c
  | .waitvAll _ d a b c => (RK.k32).ok d ∧ (RK.k128).ok a ∧ (RK.k32).ok b ∧ (RK.k64).ok c
  | .monitor _ _ base _ => RK.k64.ok base
  | .unmonitor _ _ => True
  | .montest _ d => (RK.k32).ok d
  | .sleep _ b => b.ok RK.k32
  | .ldS8 _ d m => (RK.k32).ok d ∧ m.ok (RK.k64) [0,1,2,3,4,5] [0,1,2,5] 4
  | .ldZ8 _ d m => (RK.k32).ok d ∧ m.ok (RK.k64) [0,1,2,3,4,5] [0,1,2,5] 4
  | .ldS16 _ d m => (RK.k32).ok d ∧ m.ok (RK.k64) [0,1,2,3,4,5] [0,1,2,5] 4
  | .ldZ16 _ d m => (RK.k32).ok d ∧ m.ok (RK.k64) [0,1,2,3,4,5] [0,1,2,5] 4
  | .ldB32 _ d m => (RK.k32).ok d ∧ m.ok (RK.k64) [0,1,2,3,4,5] [0,1,2,5] 4
  | .ldB64 _ d m => (RK.k64).ok d ∧ m.ok (RK.k64) [0,1,2,3,4,5] [0,1,2,5] 4
  | .ldB128 _ d m => (RK.k128).ok d ∧ m.ok (RK.k64) [0,1,2,3,4,5] [0,1,2,5] 4
  | .stB8 _ d m => (RK.k32).ok d ∧ m.ok (RK.k64) [0,1,2,3,4,5] [0,1,3,5] 4
  | .stB16 _ d m => (RK.k32).ok d ∧ m.ok (RK.k64) [0,1,2,3,4,5] [0,1,3,5] 4
  | .stB32 _ d m => (RK.k32).ok d ∧ m.ok (RK.k64) [0,1,2,3,4,5] [0,1,3,5] 4
  | .stB64 _ d m => (RK.k64).ok d ∧ m.ok (RK.k64) [0,1,2,3,4,5] [0,1,3,5] 4
  | .stB128 _ d m => (RK.k128).ok d ∧ m.ok (RK.k64) [0,1,2,3,4,5] [0,1,3,5] 4
  | .ldsS8 _ d m => (RK.k32).ok d ∧ m.ok (RK.k32) [1] [0,1,2,5] 1
  | .ldsZ8 _ d m => (RK.k32).ok d ∧ m.ok (RK.k32) [1] [0,1,2,5] 1
  | .ldsS16 _ d m => (RK.k32).ok d ∧ m.ok (RK.k32) [1] [0,1,2,5] 1
  | .ldsZ16 _ d m => (RK.k32).ok d ∧ m.ok (RK.k32) [1] [0,1,2,5] 1
  | .ldsB32 _ d m => (RK.k32).ok d ∧ m.ok (RK.k32) [1] [0,1,2,5] 1
  | .ldsB64 _ d m => (RK.k64).ok d ∧ m.ok (RK.k32) [1] [0,1,2,5] 1
  | .ldsB128 _ d m => (RK.k128).ok d ∧ m.ok (RK.k32) [1] [0,1,2,5] 1
  | .stsB8 _ d m => (RK.k32).ok d ∧ m.ok (RK.k32) [1] [0,1,3,5] 1
  | .stsB16 _ d m => (RK.k32).ok d ∧ m.ok (RK.k32) [1] [0,1,3,5] 1
  | .stsB32 _ d m => (RK.k32).ok d ∧ m.ok (RK.k32) [1] [0,1,3,5] 1
  | .stsB64 _ d m => (RK.k64).ok d ∧ m.ok (RK.k32) [1] [0,1,3,5] 1
  | .stsB128 _ d m => (RK.k128).ok d ∧ m.ok (RK.k32) [1] [0,1,3,5] 1
  | .ldxB32 _ d m => (RK.k32).ok d ∧ m.ok (RK.k32) [1] [0,1,2,5] 1
  | .ldxB64 _ d m => (RK.k64).ok d ∧ m.ok (RK.k32) [1] [0,1,2,5] 1
  | .ldxB128 _ d m => (RK.k128).ok d ∧ m.ok (RK.k32) [1] [0,1,2,5] 1
  | .stxB32 _ d m => (RK.k32).ok d ∧ m.ok (RK.k32) [1] [0,1,3,5] 1
  | .stxB64 _ d m => (RK.k64).ok d ∧ m.ok (RK.k32) [1] [0,1,3,5] 1
  | .stxB128 _ d m => (RK.k128).ok d ∧ m.ok (RK.k32) [1] [0,1,3,5] 1
  | .ldcB32 _ d m => (RK.k32).ok d ∧ m.ok (RK.k32) [1] [0] 4
  | .ldcB64 _ d m => (RK.k64).ok d ∧ m.ok (RK.k32) [1] [0] 4
  | .atomAddB32 _ d m => (RK.k32).ok d ∧ m.ok (RK.k64) [0,1,2,3,4,5] [0,1,2,3,4,5] 4
  | .atomAddB64 _ d m => (RK.k64).ok d ∧ m.ok (RK.k64) [0,1,2,3,4,5] [0,1,2,3,4,5] 4
  | .atomFaddF32 _ d m => (RK.k32).ok d ∧ m.ok (RK.k64) [0,1,2,3,4,5] [0,1,2,3,4,5] 4
  | .atomFaddF64 _ d m => (RK.k64).ok d ∧ m.ok (RK.k64) [0,1,2,3,4,5] [0,1,2,3,4,5] 4
  | .atomFaddBf16x2 _ d m => (RK.k32).ok d ∧ m.ok (RK.k64) [0,1,2,3,4,5] [0,1,2,3,4,5] 4
  | .atomMinS32 _ d m => (RK.k32).ok d ∧ m.ok (RK.k64) [0,1,2,3,4,5] [0,1,2,3,4,5] 4
  | .atomMinZ32 _ d m => (RK.k32).ok d ∧ m.ok (RK.k64) [0,1,2,3,4,5] [0,1,2,3,4,5] 4
  | .atomMaxS32 _ d m => (RK.k32).ok d ∧ m.ok (RK.k64) [0,1,2,3,4,5] [0,1,2,3,4,5] 4
  | .atomMaxZ32 _ d m => (RK.k32).ok d ∧ m.ok (RK.k64) [0,1,2,3,4,5] [0,1,2,3,4,5] 4
  | .atomAndB32 _ d m => (RK.k32).ok d ∧ m.ok (RK.k64) [0,1,2,3,4,5] [0,1,2,3,4,5] 4
  | .atomOrB32 _ d m => (RK.k32).ok d ∧ m.ok (RK.k64) [0,1,2,3,4,5] [0,1,2,3,4,5] 4
  | .atomXorB32 _ d m => (RK.k32).ok d ∧ m.ok (RK.k64) [0,1,2,3,4,5] [0,1,2,3,4,5] 4
  | .atomExchB32 _ d m => (RK.k32).ok d ∧ m.ok (RK.k64) [0,1,2,3,4,5] [0,1,2,3,4,5] 4
  | .atomExchB64 _ d m => (RK.k64).ok d ∧ m.ok (RK.k64) [0,1,2,3,4,5] [0,1,2,3,4,5] 4
  | .casB32 _ d m => (RK.kc2).ok d ∧ m.ok (RK.k64) [0,1,2,3,4,5] [0,1,2,3,4,5] 4
  | .casB64 _ d m => (RK.kc4).ok d ∧ m.ok (RK.k64) [0,1,2,3,4,5] [0,1,2,3,4,5] 4
  | .casB128 _ d m => (RK.kc8).ok d ∧ m.ok (RK.k64) [0,1,2,3,4,5] [0,1,2,3,4,5] 4
  | .redB32 _ op d m => (RK.k32).ok d ∧ m.ok RK.k64 [0,1,2,3,4,5] [0,1,3] 4 ∧ m.ofs20 ∧ (RedOp.ofCode32 op.code).isSome
  | .redB64 _ op d m => (RK.k64).ok d ∧ m.ok RK.k64 [0,1,2,3,4,5] [0,1,3] 4 ∧ m.ofs20 ∧ (RedOp.ofCode64 op.code).isSome
  | .atomsAddB32 _ d m => (RK.k32).ok d ∧ m.ok (RK.k32) [1,2] [0,1,2,3,4,5] 1
  | .atomsCasB32 _ d m => (RK.kc2).ok d ∧ m.ok (RK.k32) [1,2] [0,1,2,3,4,5] 1
  | .atomsFaddF32 _ d m => (RK.k32).ok d ∧ m.ok (RK.k32) [1,2] [0,1,2,3,4,5] 1
  | .mcas _ d m => (RK.k32).ok d ∧ m.ok (RK.k64) [0,1,2,3,4,5] [0,4] 1
  | .fence _ _ od _ => od ≠ .weak ∧ od ≠ .rlx
  | .cctl _ _ _ m => m.ok RK.k64 [0,1,2,3,4,5] [0] 1
  | .pref _ m => m.ok (RK.k64) [1] [0] 4
  | .ptst _ _ mw a => (mw.rkV).ok a
  | .pclr _ mw a => (mw.rkV).ok a
  | .push _ _ src _ => RK.kc16.ok src
  | .mmaF64 _ sa sb _ _ _ => RK.kds.ok sa ∧ RK.kds.ok sb
  | .mmaF32 _ sa sb _ _ _ => RK.kds.ok sa ∧ RK.kds.ok sb
  | .mmaBf16 _ sa sb _ _ _ => RK.kds.ok sa ∧ RK.kds.ok sb
  | .mmaF16 _ sa sb _ _ _ => RK.kds.ok sa ∧ RK.kds.ok sb
  | .mmaE4m3 _ sa sb vs vt _ _ _ _ => RK.kds.ok sa ∧ RK.kds.ok sb ∧ RK.kv.ok vs ∧ RK.kv.ok vt
  | .mmaE5m2 _ sa sb vs vt _ _ _ _ => RK.kds.ok sa ∧ RK.kds.ok sb ∧ RK.kv.ok vs ∧ RK.kv.ok vt
  | .mmaE2m1 _ sa sb vs vt _ _ _ => RK.kds.ok sa ∧ RK.kds.ok sb ∧ RK.kv.ok vs ∧ RK.kv.ok vt
  | .mmaBx8 _ sa sb vs vt _ _ _ => RK.kds.ok sa ∧ RK.kds.ok sb ∧ RK.kv.ok vs ∧ RK.kv.ok vt
  | .mmaBx4 _ sa sb vs vt _ _ _ => RK.kds.ok sa ∧ RK.kds.ok sb ∧ RK.kv.ok vs ∧ RK.kv.ok vt
  | .mmaS8 _ sa sb _ _ _ => RK.kds.ok sa ∧ RK.kds.ok sb
  | .mmaS4 _ sa sb _ _ _ => RK.kds.ok sa ∧ RK.kds.ok sb
  | .mzero _ _ _ => True
  | .mdrainF32 _ d _ _ => (RK.kd16).ok d
  | .mdrainF64 _ d _ _ => (RK.kd32).ok d
  | .mdrainBf16 _ d _ _ => (RK.kd8).ok d
  | .mdrainF16 _ d _ _ => (RK.kd8).ok d
  | .mload _ sd _ _ => RK.ks.ok sd
  | .mstore _ sd ss _ _ => RK.ks.ok sd ∧ RK.ks.ok ss
  | .mscl _ vs _ _ => RK.kv.ok vs
  | .maddc _ vt _ _ => RK.kv.ok vt
  | .mcopy _ _ _ _ => True
  | .mstat _ d _ _ => RK.kv.ok d
  | .sldP _ w64 d a b => (RK.kw w64).ok d ∧ (RK.k32).ok a ∧ (RK.k32).ok b
  | .sldQ _ d a b => (RK.k128).ok d ∧ (RK.k32).ok a ∧ (RK.k32).ok b
  | .sldB _ d a b => (RK.k128).ok d ∧ (RK.k32).ok a ∧ (RK.k32).ok b
  | .sldD _ _ d a b c => (RK.k32).ok d ∧ (RK.k32).ok a ∧ (RK.k32).ok b ∧ (RK.k32).ok c
  | .sstP _ w64 a b c => (RK.k32).ok a ∧ (RK.k32).ok b ∧ (RK.kw w64).ok c
  | .sstQ _ a b c => (RK.k32).ok a ∧ (RK.k32).ok b ∧ (RK.k128).ok c
  | .sstB _ a b c => (RK.k32).ok a ∧ (RK.k32).ok b ∧ (RK.k128).ok c
  | .sstM _ w64 _ a b c => (RK.k32).ok a ∧ (RK.k32).ok b ∧ (RK.kw w64).ok c
  | .scoef _ _ _ a b c => (RK.k32).ok a ∧ (RK.k32).ok b ∧ (RK.k32).ok c
  | .scoefB _ _ _ a b c => (RK.k32).ok a ∧ (RK.k32).ok b ∧ (RK.k128).ok c
  | .smv _ a b c => (RK.k32).ok a ∧ (RK.k32).ok b ∧ (RK.k32).ok c
  | .sref _ _ a b => (RK.k32).ok a ∧ (RK.k32).ok b
  | .srate _ a b c => (RK.k32).ok a ∧ (RK.k32).ok b ∧ (RK.k32).ok c
  | .sanchor _ w64 a b c => (RK.k32).ok a ∧ (RK.k32).ok b ∧ (RK.kw w64).ok c
  | .sqry _ _ d a b => (RK.k32).ok d ∧ (RK.k32).ok a ∧ (RK.k32).ok b
  | .sflush _ a => (RK.k32).ok a
  | .srel _ a => (RK.k32).ok a
  | .trix _ _ d a b => (RK.k128).ok d ∧ (RK.k128).ok a ∧ (RK.k128).ok b
  | .trixD _ _ d a b c => (RK.k64).ok d ∧ (RK.k128).ok a ∧ (RK.k128).ok b ∧ (RK.k32).ok c
  | .triw _ m d a b => m.within ⟨true, true, false, false, false, false⟩ ∧ (RK.k32).ok d ∧ (RK.k128).ok a ∧ (RK.k128).ok b
  | .box12 _ _ _ d a b c => (RK.k32).ok d ∧ (RK.k128).ok a ∧ (RK.kspan18).ok b ∧ (RK.kspan8).ok c
  | .box12x4 _ _ _ d a b c => (RK.k128).ok d ∧ (RK.k128).ok a ∧ (RK.kspan18).ok b ∧ (RK.kspan8).ok c
  | .nodex _ _ _ d a b => (RK.k64).ok d ∧ (RK.k128).ok a ∧ (RK.k32).ok b
  | .trap _ _ => True
  | .brk _ _ => True
  | .rte _ _ a b => (RK.k64).ok a ∧ b.ok RK.k32
  | .rteStep _ _ a b => (RK.k64).ok a ∧ b.ok RK.k32
  | .sysr _ d r => SReg.okFor r.toNat d
  | .sysw _ d r => SReg.okFor r.toNat d
  | .iinv _ a b => (RK.k64).ok a ∧ b.ok RK.k32
  | .time _ d => (RK.k64).ok d
  | .dbgmb _ a b c => (RK.k64).ok a ∧ b.ok RK.k32 ∧ (RK.k32).ok c ∧ b.immLeavesC c
  | .suspend _ a b => (RK.k64).ok a ∧ b.ok RK.k32
  | .resume _ a b => (RK.k64).ok a ∧ b.ok RK.k32
  | .killcrew _ ctx a b => (if ctx then a = .z ∧ b = .reg .z else RK.k64.ok a ∧ b.ok RK.k32)
  | .trec _ _ d => (RK.kc16).ok d
  | .jrnl _ _ a => (RK.k64).ok a
  | .wdog _ hn ofBillet a b => (RK.k64).ok a ∧ (RK.k32).ok b ∧ (ofBillet → hn = 0)
  | .irq _ b => b.ok RK.k32
  | .perfr _ d b => (RK.k64).ok d ∧ b.ok RK.k32
  | .errinj _ a b => (RK.k64).ok a ∧ (RK.k32).ok b
  | .halt _ => True
  | .bartime _ => True
  | .waitvTimeout _ => True
  | .sleepWake _ => True
  | .mcasLocksHeld _ => True
  | .mcasLockTimeout _ => True
  | .fenceComplete _ => True
  | .gangLatchRelease _ => True
  | .gangfailTimeout _ => True
  | .anvilOperandsRead _ => True
  | .anvilInstrComplete _ => True
  | .planisherEvictEncode _ _ _ => True
  | .poolWordChangeRetry _ _ _ => True
  | .surfpoolPinTimeout _ _ _ => True
  | .firmwareWake => True
  | .gatherCycle _ => True
  | .threadAged _ => True
  | .yieldHoldExpire _ => True
  | .fetchClause _ => True
  | .varlatLand _ => True
  | .handlerStart _ _ => True
  | .lqtailWrite _ _ _ => True
  | .lqctlWrite _ _ _ => True
  | .launchPacketHead _ _ => True
  | .depPoll _ _ => True
  | .pick => True
  | .deadlineMiss _ => True
  | .setSave _ _ => True
  | .setRestore _ _ => True
  | .homeReadRequest _ => True
  | .homeWriteRequest _ => True
  | .homeEvictNotice _ _ => True
  | .probeAck _ _ => True
  | .coreProbe _ _ => True
  | .probeTimeout _ _ => True
  | .selfWritePerform _ => True
  | .sliceRebase _ => True
  | .selfCopyExpire _ _ => True
  | .coreTimeCheck _ _ _ => True
  | .crucibleAtomic _ => True
  | .tcopy _ => True
  | .tgather _ => True
  | .tdecode _ => True
  | .tqstore _ => True
  | .tfill _ => True
  | .tcbload _ => True
  | .tmapld _ => True
  | .ladleSectorComplete _ _ => True
  | .beam _ => True
  | .ray _ => True
  | .travItemComplete _ _ => True
  | .travfaultPoolTimeout _ => True
  | .fqreplayRetry _ _ => True
  | .fqreplayAbort _ _ => True
  | .fqreplayRetryAll _ => True
  | .fqheadWrite _ _ => True
  | .nqheadWrite _ _ => True
  | .acclrWrite _ _ => True
  | .eqheadWrite _ _ => True
  | .dmheadWrite _ _ => True
  | .ueccConsume _ _ _ _ => True
  | .checkpoint _ => True
  | .assayCompare _ => True
  | .assayTimeout _ => True
  | .correctableError _ _ _ => True
  | .schedulerRebuild _ => True
  | .barrierParityError _ => True
  | .drawerRequest _ => True
  | .drawerResponse _ => True
  | .drawerProbe _ _ => True
  | .drawerMcasMessage _ => True
  | .promotionRequest _ => True
  | .flitCheckFail _ => True
  | .portRetrainEnd _ _ => True
  | .linkStallEnd _ => True
  | .domainTimeSlew _ _ => True
  | .referenceChange => True
  | .slotTableSwapApply _ => True
  | .portctlSwap _ => True
  | .portctlRetrain _ => True
  | .tlbinvWrite _ _ => True
  | .tlbinvComplete _ => True
  | .dbgdataWrite _ _ => True
  | .ctxbindWrite _ _ => True
  | .ctxcmdCreate _ _ => True
  | .ctxcmdDestroy _ _ => True
  | .registerWrite _ _ _ => True
  | .functionLevelReset _ => True
  | .powerGoodBringup _ => True
  | .d3hotEntry => True
  | .d0Return _ => True
  | .thermalThrottle => True
  | .thermalShutdown => True
  | .attestationRequest _ => True
  | .unallocatedOpcode op => allocated op.val = false
  | .waitvDeadline _ => True
  | .coreLeaseRebase _ => True
  | .fqctlWrite _ _ => True
  | .ampctlWrite _ _ => True
  | .msixVectorUnmask _ _ => True
  | .portTrainingComplete _ => True
  | .drawerLeavesDomain _ _ => True

end Sys2Proof
end

