-- ==== Sys2Proof/Decode.lean ====
section
/-!
DEFINITION. Decoding of an instruction word (R54 to R67, R78 up to its operand checks), total on every 64-bit word, and
the encoder.  A word is read as a natural number; `bits w lo n` is the field [lo + n - 1 : lo].
-/
namespace Sys2Proof

/-- Bits [lo + n - 1 : lo] of a word. -/
def bits (w lo n : Nat) : Nat := w / 2 ^ lo % 2 ^ n

/-- Why a word is no instruction, in the order of R78. -/
inductive DecodeErr where
  /-- DC field 7: MALFORMED 0x04. -/
  | dc7
  /-- Unallocated opcode: UNDEF 0x20 (never answered by `decode`, which gives the opcode a constructor). -/
  | unallocated
  /-- BIMM where it is not allowed: MALFORMED 0x08. -/
  | bimm
  /-- A reserved field is not zero: MALFORMED 0x05. -/
  | reserved
  /-- A reserved code: MALFORMED 0x06. -/
  | code
  /-- A register code of a wrong kind or alignment: MALFORMED 0x07. -/
  | regKind
  /-- PUSH queue 3 to 15: UNDEF 0x21. -/
  | pushQueue
  deriving DecidableEq, Repr

def fin2 (n : Nat) : Fin 2 := Fin.ofNat 2 n
def fin3 (n : Nat) : Fin 3 := Fin.ofNat 3 n
def fin4 (n : Nat) : Fin 4 := Fin.ofNat 4 n
def fin6 (n : Nat) : Fin 6 := Fin.ofNat 6 n
def fin7 (n : Nat) : Fin 7 := Fin.ofNat 7 n
def fin8 (n : Nat) : Fin 8 := Fin.ofNat 8 n
def fin16 (n : Nat) : Fin 16 := Fin.ofNat 16 n
def fin512 (n : Nat) : Fin 512 := Fin.ofNat 512 n

/-- The code of a register (R62). -/
def Reg.code : Reg → Nat
  | .v n => n
  | .s n => n + 224
  | .z => 255

/-- The register of a code (R62). -/
def Reg.ofCode (n : Nat) : Reg :=
  if n < 224 then .v n else if n < 255 then .s (n - 224) else .z

/-- Each test as a Bool, for the decoder. -/
def RK.okB (k : RK) : Reg → Bool
  | .v n => k.v && (n % k.al == 0) && decide (n ≤ k.vmax)
  | .s n => k.s && (n % k.al == 0) && decide (n + k.al ≤ 31)
  | .z => k.z

def RK.codeOkB (k : RK) (n : Nat) : Bool := k.okB (Reg.ofCode n)

def SReg.okCodeB (n code : Nat) : Bool :=
  match SReg.info n with
  | some i => i.rk.codeOkB code
  | none => false

def Rnd.code : Rnd → Nat
  | .rne => 0
  | .rtz => 1
  | .rup => 2
  | .rdn => 3

def Rnd.ofCode : Nat → Rnd
  | 0 => .rne
  | 1 => .rtz
  | 2 => .rup
  | _ => .rdn

def ICmp.code : ICmp → Nat
  | .eq => 0
  | .ne => 1
  | .lt => 2
  | .le => 3
  | .gt => 4
  | .ge => 5

def ICmp.ofCode : Nat → ICmp
  | 0 => .eq
  | 1 => .ne
  | 2 => .lt
  | 3 => .le
  | 4 => .gt
  | _ => .ge

def FCmp.code : FCmp → Nat
  | .eq => 0
  | .ne => 1
  | .lt => 2
  | .le => 3
  | .gt => 4
  | .ge => 5
  | .num => 6
  | .nan => 7

def FCmp.ofCode : Nat → FCmp
  | 0 => .eq
  | 1 => .ne
  | 2 => .lt
  | 3 => .le
  | 4 => .gt
  | 5 => .ge
  | 6 => .num
  | _ => .nan

def MovW.code : MovW → Nat
  | .w32 => 0
  | .w64 => 1
  | .w128 => 2

def MovW.ofCode : Nat → MovW
  | 0 => .w32
  | 1 => .w64
  | _ => .w128

def MoviMode.code : MoviMode → Nat
  | .w32 => 0
  | .sx64 => 1
  | .zx64 => 2

def MoviMode.ofCode : Nat → MoviMode
  | 0 => .w32
  | 1 => .sx64
  | _ => .zx64

/-- The numbers of R43. -/
def SpecialReg.code : SpecialReg → Nat
  | .lane => 0
  | .slot => 1
  | .crew => 2
  | .billet => 3
  | .core => 4
  | .cluster => 5
  | .die => 6
  | .module => 7
  | .workpiece => 8
  | .width => 9
  | .gang => 10
  | .timelo => 11
  | .timehi => 12

def SpecialReg.ofCode : Nat → SpecialReg
  | 0 => .lane
  | 1 => .slot
  | 2 => .crew
  | 3 => .billet
  | 4 => .core
  | 5 => .cluster
  | 6 => .die
  | 7 => .module
  | 8 => .workpiece
  | 9 => .width
  | 10 => .gang
  | 11 => .timelo
  | _ => .timehi

def SfnFn.code : SfnFn → Nat
  | .rcp => 0
  | .rsq => 1
  | .sqrt => 2
  | .exp2 => 3
  | .log2 => 4
  | .sin => 5
  | .cos => 6
  | .tanh => 7

def SfnFn.ofCode : Nat → SfnFn
  | 0 => .rcp
  | 1 => .rsq
  | 2 => .sqrt
  | 3 => .exp2
  | 4 => .log2
  | 5 => .sin
  | 6 => .cos
  | _ => .tanh

def Scope.ofCode : Nat → Scope
  | 0 => .crew
  | 1 => .core
  | 2 => .clus
  | 3 => .die
  | 4 => .dev
  | _ => .dom

def Ord.ofCode : Nat → Ord
  | 0 => .weak
  | 1 => .rlx
  | 2 => .acq
  | 3 => .rel
  | 4 => .ar
  | _ => .sc

/-- The modifier bits of R63 and R131, MOD[14:0]. -/
def FMods.code (m : FMods) : Nat :=
  m.negA.toNat + m.negB.toNat * 2 + m.negC.toNat * 4 + m.absA.toNat * 8 + m.absB.toNat * 16 + m.absC.toNat * 32 +
  m.sat.toNat * 2048 + m.ftz.toNat * 4096 + m.rnd.code * 8192

/-- The modifiers an entry defines, as the word holds them; those it does not define read as absent. -/
def FMods.ofWord (k : FMask) (w : Nat) : FMods :=
  { rnd := if k.rnd then Rnd.ofCode (bits w 13 2) else .rne
    ftz := k.ftz && bits w 12 1 == 1
    sat := k.sat && bits w 11 1 == 1
    negA := k.a && bits w 0 1 == 1
    negB := k.b && bits w 1 1 == 1
    negC := k.c && bits w 2 1 == 1
    absA := k.a && bits w 3 1 == 1
    absB := k.b && bits w 4 1 == 1
    absC := k.c && bits w 5 1 == 1 }

/-- Bits [39:0] of a format M word (R57). -/
def MOp.code (m : MOp) : Nat :=
  m.base.code * 4294967296 + m.ofs.toNat * 256 + m.scope.code * 32 + m.ord.code * 4 + m.hint.val

def MOp.ofWord (w : Nat) : MOp :=
  { base := Reg.ofCode (bits w 32 8)
    ofs := BitVec.ofNat 24 (bits w 8 24)
    scope := Scope.ofCode (bits w 5 3)
    ord := Ord.ofCode (bits w 2 3)
    hint := fin4 (bits w 0 2) }

/-- RED holds its operation in OFS[23:20] and a signed byte offset in OFS[19:0] (R275). -/
def MOp.redCode (m : MOp) : Nat :=
  m.base.code * 4294967296 + m.ofs.toNat % 1048576 * 256 + m.scope.code * 32 + m.ord.code * 4 + m.hint.val

def MOp.ofRedWord (w : Nat) : MOp :=
  { MOp.ofWord w with
    ofs := BitVec.ofNat 24 (if bits w 8 20 < 524288 then bits w 8 20 else bits w 8 20 + 15728640) }

def SOp.code (m : SOp) : Nat :=
  m.base.code * 4294967296 + m.ofs.toNat * 256 + (if m.clus then 64 else 32)

def SOp.ofWord (w : Nat) : SOp :=
  { base := Reg.ofCode (bits w 32 8)
    ofs := BitVec.ofNat 24 (bits w 8 24)
    clus := bits w 5 3 == 2 }

/-- The register in B of a form without BIMM. -/
def regOf : OpB → Reg
  | .reg r => r
  | .imm _ => .z

def Head.ofWord (w : Nat) : Head :=
  { neg := bits w 54 1 == 1
    idx := fin8 (bits w 51 3)
    dc := fin7 (bits w 48 3) }

/-- Which fields a format R entry uses and the kinds it accepts there (R55, R61, R111). -/
structure RSpec where
  d : Option RK
  a : Option RK
  b : Option RK
  c : Option RK
  imm : Bool

/-- A field the entry does not use is zero (R61). -/
def unusedZero (k : Option RK) (n : Nat) : Bool := k.isSome || n == 0

/-- A field the entry uses holds a code of its kind (R62). -/
def usedOk (k : Option RK) (n : Nat) : Bool :=
  match k with
  | some k => k.codeOkB n
  | none => true

/-- A format R word: BIMM, then reserved fields, then reserved codes, then register codes (R78).  `used` is the value of
MOD[14:0] with every bit the entry does not define taken as zero. -/
def decR {α : Type} (w : Nat) (sp : RSpec) (used : Nat) (codeOk : Bool) (k : Head → Reg → Reg → OpB → Reg → α) :
    Except DecodeErr α :=
  let imm := bits w 15 1 == 1
  if imm && !sp.imm then .error .bimm
  else if bits w 0 15 ≠ used || !unusedZero sp.d (bits w 40 8) || !unusedZero sp.a (bits w 32 8) ||
      (!imm && (!unusedZero sp.b (bits w 24 8) || !unusedZero sp.c (bits w 16 8))) then .error .reserved
  else if !codeOk then .error .code
  else if !usedOk sp.d (bits w 40 8) || !usedOk sp.a (bits w 32 8) ||
      (!imm && (!usedOk sp.b (bits w 24 8) || !usedOk sp.c (bits w 16 8))) then .error .regKind
  else .ok (k (Head.ofWord w) (Reg.ofCode (bits w 40 8)) (Reg.ofCode (bits w 32 8))
    (if imm then .imm (BitVec.ofNat 16 (bits w 16 16)) else .reg (Reg.ofCode (bits w 24 8)))
    (if imm then .z else Reg.ofCode (bits w 16 8)))

/-- A word of another format: reserved fields, then reserved codes, then register codes (R78, R319). -/
def decX {α : Type} (w : Nat) (zero code regs : Bool) (k : Head → α) : Except DecodeErr α :=
  if !zero then .error .reserved
  else if !code then .error .code
  else if !regs then .error .regKind
  else .ok (k (Head.ofWord w))

/-- PLOP is of format R but its register fields hold predicates (R127). -/
def decX' {α : Type} (w : Nat) (zero : Bool) (k : Head → α) : Except DecodeErr α :=
  if bits w 15 1 = 1 then .error .bimm
  else decX w zero true true k

/-- The part of a word that R54 fixes. -/
def encHead (op : Nat) (h : Head) : Nat :=
  op * 36028797018963968 + h.neg.toNat * 18014398509481984 + h.idx.val * 2251799813685248 + h.dc.val * 281474976710656

def encX (op : Nat) (h : Head) (rest : Nat) : Nat := encHead op h + rest

/-- A format R word (R55); an immediate fills B:C and sets BIMM. -/
def encR (op : Nat) (h : Head) (d a : Nat) (b : OpB) (c md : Nat) : Nat :=
  encHead op h + d * 1099511627776 + a * 4294967296 +
    (match b with
     | .reg r => r.code * 16777216 + c * 65536 + md
     | .imm i => i.toNat * 65536 + md + 32768)
/-- The words of one group of the opcode map (R69), by opcode. -/
def decodeInt (op w : Nat) : Except DecodeErr Instr :=
  match op with
  | 0x000 => decR w ⟨some (RK.k32), some (RK.k32), some (RK.k32), none, true⟩ (0) (true) fun h d a b _ => .addB32 h d a b
  | 0x001 => decR w ⟨some (RK.k64), some (RK.k64), some (RK.k64), none, true⟩ (0) (true) fun h d a b _ => .addB64 h d a b
  | 0x002 => decR w ⟨some (RK.k32), some (RK.k32), some (RK.k32), some (RK.k32), false⟩ (0) (true) fun h d a b c => .add3B32 h d a (regOf b) c
  | 0x003 => decR w ⟨some (RK.k32), some (RK.k32), some (RK.k32), none, true⟩ (bits w 0 3 + bits w 3 3 * 8 + bits w 6 1 * 64) (true) fun h d a b _ => .addcB32 h (fin8 (bits w 0 3)) (fin8 (bits w 3 3)) (bits w 6 1 == 1) d a b
  | 0x004 => decR w ⟨some (RK.k32), some (RK.k32), some (RK.k32), none, true⟩ (0) (true) fun h d a b _ => .addsS32 h d a b
  | 0x005 => decR w ⟨some (RK.k32), some (RK.k32), some (RK.k32), none, true⟩ (0) (true) fun h d a b _ => .subB32 h d a b
  | 0x006 => decR w ⟨some (RK.k64), some (RK.k64), some (RK.k64), none, true⟩ (0) (true) fun h d a b _ => .subB64 h d a b
  | 0x007 => decR w ⟨some (RK.k32), some (RK.k32), some (RK.k32), none, true⟩ (bits w 0 3 + bits w 3 3 * 8 + bits w 6 1 * 64) (true) fun h d a b _ => .subcB32 h (fin8 (bits w 0 3)) (fin8 (bits w 3 3)) (bits w 6 1 == 1) d a b
  | 0x008 => decR w ⟨some (RK.k32), some (RK.k32), some (RK.k32), none, true⟩ (0) (true) fun h d a b _ => .subsS32 h d a b
  | 0x009 => decR w ⟨some (RK.k32), some (RK.k32), some (RK.k32), none, true⟩ (0) (true) fun h d a b _ => .mulB32 h d a b
  | 0x00A => decR w ⟨some (RK.k64), some (RK.k64), some (RK.k64), none, true⟩ (0) (true) fun h d a b _ => .mulB64 h d a b
  | 0x00B => decR w ⟨some (RK.k32), some (RK.k32), some (RK.k32), none, true⟩ (0) (true) fun h d a b _ => .mulhS32 h d a b
  | 0x00C => decR w ⟨some (RK.k32), some (RK.k32), some (RK.k32), none, true⟩ (0) (true) fun h d a b _ => .mulhZ32 h d a b
  | 0x00D => decR w ⟨some (RK.k32), some (RK.k32), some (RK.k32), some (RK.k32), false⟩ (0) (true) fun h d a b c => .madB32 h d a (regOf b) c
  | 0x00E => decR w ⟨some (RK.k64), some (RK.k32), some (RK.k32), some (RK.k64), false⟩ (0) (true) fun h d a b c => .madwS32 h d a (regOf b) c
  | 0x00F => decR w ⟨some (RK.k64), some (RK.k32), some (RK.k32), some (RK.k64), false⟩ (0) (true) fun h d a b c => .madwZ32 h d a (regOf b) c
  | 0x010 => decR w ⟨some (RK.k32), some (RK.k32), some (RK.k32), none, true⟩ (0) (true) fun h d a b _ => .divS32 h d a b
  | 0x011 => decR w ⟨some (RK.k32), some (RK.k32), some (RK.k32), none, true⟩ (0) (true) fun h d a b _ => .divZ32 h d a b
  | 0x012 => decR w ⟨some (RK.k64), some (RK.k64), some (RK.k64), none, true⟩ (0) (true) fun h d a b _ => .divS64 h d a b
  | 0x013 => decR w ⟨some (RK.k64), some (RK.k64), some (RK.k64), none, true⟩ (0) (true) fun h d a b _ => .divZ64 h d a b
  | 0x014 => decR w ⟨some (RK.k32), some (RK.k32), some (RK.k32), none, true⟩ (0) (true) fun h d a b _ => .remS32 h d a b
  | 0x015 => decR w ⟨some (RK.k32), some (RK.k32), some (RK.k32), none, true⟩ (0) (true) fun h d a b _ => .remZ32 h d a b
  | 0x016 => decR w ⟨some (RK.k32), some (RK.k32), some (RK.k32), none, true⟩ (0) (true) fun h d a b _ => .minS32 h d a b
  | 0x017 => decR w ⟨some (RK.k32), some (RK.k32), some (RK.k32), none, true⟩ (0) (true) fun h d a b _ => .minZ32 h d a b
  | 0x018 => decR w ⟨some (RK.k32), some (RK.k32), some (RK.k32), none, true⟩ (0) (true) fun h d a b _ => .maxS32 h d a b
  | 0x019 => decR w ⟨some (RK.k32), some (RK.k32), some (RK.k32), none, true⟩ (0) (true) fun h d a b _ => .maxZ32 h d a b
  | 0x01A => decR w ⟨some (RK.k32), some (RK.k32), some (RK.k32), some (RK.k32), false⟩ (0) (true) fun h d a b c => .clampS32 h d a (regOf b) c
  | 0x01B => decR w ⟨some (RK.k32), some (RK.k32), some (RK.k32), some (RK.k32), false⟩ (0) (true) fun h d a b c => .clampZ32 h d a (regOf b) c
  | 0x01C => decR w ⟨some (RK.k32), some (RK.k32), none, none, false⟩ (bits w 11 1 * 2048) (true) fun h d a _ _ => .absS32 h (bits w 11 1 == 1) d a
  | 0x01D => decR w ⟨some (RK.k32), some (RK.k32), none, none, false⟩ (bits w 11 1 * 2048) (true) fun h d a _ _ => .negS32 h (bits w 11 1 == 1) d a
  | 0x01E => decR w ⟨some (RK.k32), some (RK.k32), some (RK.k32), none, true⟩ (0) (true) fun h d a b _ => .andB h d a b
  | 0x01F => decR w ⟨some (RK.k32), some (RK.k32), some (RK.k32), none, true⟩ (0) (true) fun h d a b _ => .orB h d a b
  | 0x020 => decR w ⟨some (RK.k32), some (RK.k32), some (RK.k32), none, true⟩ (0) (true) fun h d a b _ => .xorB h d a b
  | 0x021 => decR w ⟨some (RK.k32), some (RK.k32), some (RK.k32), none, true⟩ (0) (true) fun h d a b _ => .andn h d a b
  | 0x022 => decR w ⟨some (RK.k32), some (RK.k32), none, none, false⟩ (0) (true) fun h d a _ _ => .notB h d a
  | 0x023 => decR w ⟨some (RK.k32), some (RK.k32), some (RK.k32), none, true⟩ (0) (true) fun h d a b _ => .shlB32 h d a b
  | 0x024 => decR w ⟨some (RK.k64), some (RK.k64), some (RK.k32), none, true⟩ (0) (true) fun h d a b _ => .shlB64 h d a b
  | 0x025 => decR w ⟨some (RK.k32), some (RK.k32), some (RK.k32), none, true⟩ (0) (true) fun h d a b _ => .shrB32 h d a b
  | 0x026 => decR w ⟨some (RK.k64), some (RK.k64), some (RK.k32), none, true⟩ (0) (true) fun h d a b _ => .shrB64 h d a b
  | 0x027 => decR w ⟨some (RK.k32), some (RK.k32), some (RK.k32), none, true⟩ (0) (true) fun h d a b _ => .sarB32 h d a b
  | 0x028 => decR w ⟨some (RK.k64), some (RK.k64), some (RK.k32), none, true⟩ (0) (true) fun h d a b _ => .sarB64 h d a b
  | 0x029 => decR w ⟨some (RK.k32), some (RK.k32), some (RK.k32), none, true⟩ (bits w 0 1) (true) fun h d a b _ => .rotB32 h (bits w 0 1 == 1) d a b
  | 0x02A => decR w ⟨some (RK.k32), some (RK.k32), some (RK.k32), some (RK.k32), false⟩ (bits w 0 1) (true) fun h d a b c => .fsh h (bits w 0 1 == 1) d a (regOf b) c
  | 0x02B => decR w ⟨some (RK.k32), some (RK.k32), some (RK.k32), none, true⟩ (0) (true) fun h d a b _ => .bfxS32 h d a b
  | 0x02C => decR w ⟨some (RK.k32), some (RK.k32), some (RK.k32), none, true⟩ (0) (true) fun h d a b _ => .bfxZ32 h d a b
  | 0x02D => decR w ⟨some (RK.k32), some (RK.k32), some (RK.k32), some (RK.k32), false⟩ (0) (true) fun h d a b c => .bfi h d a (regOf b) c
  | 0x02E => decR w ⟨some (RK.k32), none, some (RK.k32), none, true⟩ (0) (true) fun h d _ b _ => .bmsk h d b
  | 0x02F => decR w ⟨some (RK.k32), some (RK.k32), none, none, false⟩ (0) (true) fun h d a _ _ => .popc h d a
  | 0x030 => decR w ⟨some (RK.k32), some (RK.k32), none, none, false⟩ (0) (true) fun h d a _ _ => .clz h d a
  | 0x031 => decR w ⟨some (RK.k32), some (RK.k32), none, none, false⟩ (0) (true) fun h d a _ _ => .brev h d a
  | 0x032 => decR w ⟨some (RK.k32), some (RK.k32), some (RK.k32), some (RK.k32), false⟩ (0) (true) fun h d a b c => .bswz h d a (regOf b) c
  | 0x033 => decR w ⟨some (RK.k32), some (RK.k32), some (RK.k32), none, true⟩ (bits w 0 3 + bits w 3 1 * 8) (true) fun h d a b _ => .sel h (fin8 (bits w 0 3)) (bits w 3 1 == 1) d a b
  | 0x034 => decR w ⟨some (RK.k32), some (RK.k32), some (RK.k32), none, true⟩ (bits w 0 3 + bits w 3 3 * 8) (decide (bits w 0 3 < 6)) fun h d a b _ => .icmpS32 h (ICmp.ofCode (bits w 0 3)) (fin8 (bits w 3 3)) d a b
  | 0x035 => decR w ⟨some (RK.k32), some (RK.k32), some (RK.k32), none, true⟩ (bits w 0 3 + bits w 3 3 * 8) (decide (bits w 0 3 < 6)) fun h d a b _ => .icmpZ32 h (ICmp.ofCode (bits w 0 3)) (fin8 (bits w 3 3)) d a b
  | 0x036 => decR w ⟨some (RK.k32), some (RK.k64), some (RK.k64), none, true⟩ (bits w 0 3 + bits w 3 3 * 8) (decide (bits w 0 3 < 6)) fun h d a b _ => .icmpS64 h (ICmp.ofCode (bits w 0 3)) (fin8 (bits w 3 3)) d a b
  | 0x037 => decR w ⟨some (RK.k32), some (RK.k64), some (RK.k64), none, true⟩ (bits w 0 3 + bits w 3 3 * 8) (decide (bits w 0 3 < 6)) fun h d a b _ => .icmpZ64 h (ICmp.ofCode (bits w 0 3)) (fin8 (bits w 3 3)) d a b
  | 0x038 => decR w ⟨some (RK.k32), some (RK.k32), some (RK.k32), some (RK.k32), false⟩ (bits w 11 1 * 2048) (true) fun h d a b c => .idot4S8 h (bits w 11 1 == 1) d a (regOf b) c
  | 0x039 => decR w ⟨some (RK.k32), some (RK.k32), some (RK.k32), some (RK.k32), false⟩ (bits w 11 1 * 2048) (true) fun h d a b c => .idot4Z8 h (bits w 11 1 == 1) d a (regOf b) c
  | 0x03A => decR w ⟨some (RK.k32), some (RK.k32), some (RK.k32), some (RK.k32), false⟩ (0) (true) fun h d a b c => .sad h d a (regOf b) c
  | 0x03B => decR w ⟨some (RK.k64), some (RK.k64), some (RK.k32), none, true⟩ (bits w 0 3 + bits w 3 1 * 8) (true) fun h d a b _ => .lea h (fin8 (bits w 0 3)) (bits w 3 1 == 1) d a b
  | 0x03C => let mw := (MovW.ofCode (bits w 0 2)); decR w ⟨some (mw.rk), some (mw.rk), none, none, false⟩ (bits w 0 2) (decide (bits w 0 2 < 3)) fun h d a _ _ => .mov h mw d a
  | 0x03D => decX w (bits w 2 6 = 0) (bits w 0 2 < 3) ((MoviMode.ofCode (bits w 0 2)).rk.codeOkB (bits w 40 8)) fun h => .movi h (MoviMode.ofCode (bits w 0 2)) (Reg.ofCode (bits w 40 8)) (BitVec.ofNat 32 (bits w 8 32))
  | 0x03E => decX w (bits w 0 8 = 0) (bits w 8 32 < 13) (RK.kvs.codeOkB (bits w 40 8)) fun h => .movs h (Reg.ofCode (bits w 40 8)) (SpecialReg.ofCode (bits w 8 32))
  | 0x03F => decX' w (bits w 43 5 = 0 ∧ bits w 35 5 = 0 ∧ bits w 27 5 = 0 ∧ bits w 19 5 = 0 ∧ bits w 8 7 = 0) fun h => .plop h (fin8 (bits w 40 3)) (fin8 (bits w 32 3)) (fin8 (bits w 24 3)) (fin8 (bits w 16 3)) (BitVec.ofNat 8 (bits w 0 8))
  | _ => .error .unallocated

/-- The words of one group of the opcode map (R70), by opcode. -/
def decodeFloat (op w : Nat) : Except DecodeErr Instr :=
  match op with
  | 0x040 => decR w ⟨some (RK.k32), some (RK.k32), some (RK.k32), none, true⟩ ((FMods.ofWord ⟨true, true, true, true, true, false⟩ w).code) (true) fun h d a b _ => .faddF32 h (FMods.ofWord ⟨true, true, true, true, true, false⟩ w) d a b
  | 0x041 => decR w ⟨some (RK.k64), some (RK.k64), some (RK.k64), none, true⟩ ((FMods.ofWord ⟨true, true, true, true, true, false⟩ w).code) (true) fun h d a b _ => .faddF64 h (FMods.ofWord ⟨true, true, true, true, true, false⟩ w) d a b
  | 0x042 => decR w ⟨some (RK.k32), some (RK.k32), some (RK.k32), none, true⟩ ((FMods.ofWord ⟨true, true, true, true, true, false⟩ w).code) (true) fun h d a b _ => .faddF16x2 h (FMods.ofWord ⟨true, true, true, true, true, false⟩ w) d a b
  | 0x043 => decR w ⟨some (RK.k32), some (RK.k32), some (RK.k32), none, true⟩ ((FMods.ofWord ⟨true, true, true, true, true, false⟩ w).code) (true) fun h d a b _ => .faddBf16x2 h (FMods.ofWord ⟨true, true, true, true, true, false⟩ w) d a b
  | 0x044 => decR w ⟨some (RK.k32), some (RK.k32), some (RK.k32), none, true⟩ ((FMods.ofWord ⟨true, true, true, true, true, false⟩ w).code) (true) fun h d a b _ => .fmulF32 h (FMods.ofWord ⟨true, true, true, true, true, false⟩ w) d a b
  | 0x045 => decR w ⟨some (RK.k64), some (RK.k64), some (RK.k64), none, true⟩ ((FMods.ofWord ⟨true, true, true, true, true, false⟩ w).code) (true) fun h d a b _ => .fmulF64 h (FMods.ofWord ⟨true, true, true, true, true, false⟩ w) d a b
  | 0x046 => decR w ⟨some (RK.k32), some (RK.k32), some (RK.k32), none, true⟩ ((FMods.ofWord ⟨true, true, true, true, true, false⟩ w).code) (true) fun h d a b _ => .fmulF16x2 h (FMods.ofWord ⟨true, true, true, true, true, false⟩ w) d a b
  | 0x047 => decR w ⟨some (RK.k32), some (RK.k32), some (RK.k32), none, true⟩ ((FMods.ofWord ⟨true, true, true, true, true, false⟩ w).code) (true) fun h d a b _ => .fmulBf16x2 h (FMods.ofWord ⟨true, true, true, true, true, false⟩ w) d a b
  | 0x048 => decR w ⟨some (RK.k32), some (RK.k32), some (RK.k32), some (RK.k32), false⟩ ((FMods.ofWord ⟨true, true, true, true, true, true⟩ w).code) (true) fun h d a b c => .ffmaF32 h (FMods.ofWord ⟨true, true, true, true, true, true⟩ w) d a (regOf b) c
  | 0x049 => decR w ⟨some (RK.k64), some (RK.k64), some (RK.k64), some (RK.k64), false⟩ ((FMods.ofWord ⟨true, true, true, true, true, true⟩ w).code) (true) fun h d a b c => .ffmaF64 h (FMods.ofWord ⟨true, true, true, true, true, true⟩ w) d a (regOf b) c
  | 0x04A => decR w ⟨some (RK.k32), some (RK.k32), some (RK.k32), some (RK.k32), false⟩ ((FMods.ofWord ⟨true, true, true, true, true, true⟩ w).code) (true) fun h d a b c => .ffmaF16x2 h (FMods.ofWord ⟨true, true, true, true, true, true⟩ w) d a (regOf b) c
  | 0x04B => decR w ⟨some (RK.k32), some (RK.k32), some (RK.k32), some (RK.k32), false⟩ ((FMods.ofWord ⟨true, true, true, true, true, true⟩ w).code) (true) fun h d a b c => .ffmaBf16x2 h (FMods.ofWord ⟨true, true, true, true, true, true⟩ w) d a (regOf b) c
  | 0x04C => decR w ⟨some (RK.k64), some (RK.k32), some (RK.k32), some (RK.k64), false⟩ ((FMods.ofWord ⟨true, true, true, true, true, true⟩ w).code) (true) fun h d a b c => .ffmaw h (FMods.ofWord ⟨true, true, true, true, true, true⟩ w) d a (regOf b) c
  | 0x04D => decR w ⟨some (RK.k32), some (RK.k32), some (RK.k32), none, true⟩ ((FMods.ofWord ⟨true, true, true, true, true, false⟩ w).code) (true) fun h d a b _ => .fdivF32 h (FMods.ofWord ⟨true, true, true, true, true, false⟩ w) d a b
  | 0x04E => decR w ⟨some (RK.k64), some (RK.k64), some (RK.k64), none, true⟩ ((FMods.ofWord ⟨true, true, true, true, true, false⟩ w).code) (true) fun h d a b _ => .fdivF64 h (FMods.ofWord ⟨true, true, true, true, true, false⟩ w) d a b
  | 0x04F => decR w ⟨some (RK.k32), some (RK.k32), none, none, false⟩ ((FMods.ofWord ⟨true, true, true, true, false, false⟩ w).code) (true) fun h d a _ _ => .fsqrtF32 h (FMods.ofWord ⟨true, true, true, true, false, false⟩ w) d a
  | 0x050 => decR w ⟨some (RK.k64), some (RK.k64), none, none, false⟩ ((FMods.ofWord ⟨true, true, true, true, false, false⟩ w).code) (true) fun h d a _ _ => .fsqrtF64 h (FMods.ofWord ⟨true, true, true, true, false, false⟩ w) d a
  | 0x051 => decR w ⟨some (RK.k32), some (RK.k32), some (RK.k32), none, true⟩ ((FMods.ofWord ⟨false, true, false, true, true, false⟩ w).code) (true) fun h d a b _ => .fminF32 h (FMods.ofWord ⟨false, true, false, true, true, false⟩ w) d a b
  | 0x052 => decR w ⟨some (RK.k64), some (RK.k64), some (RK.k64), none, true⟩ ((FMods.ofWord ⟨false, true, false, true, true, false⟩ w).code) (true) fun h d a b _ => .fminF64 h (FMods.ofWord ⟨false, true, false, true, true, false⟩ w) d a b
  | 0x053 => decR w ⟨some (RK.k32), some (RK.k32), some (RK.k32), none, true⟩ ((FMods.ofWord ⟨false, true, false, true, true, false⟩ w).code) (true) fun h d a b _ => .fmaxF32 h (FMods.ofWord ⟨false, true, false, true, true, false⟩ w) d a b
  | 0x054 => decR w ⟨some (RK.k64), some (RK.k64), some (RK.k64), none, true⟩ ((FMods.ofWord ⟨false, true, false, true, true, false⟩ w).code) (true) fun h d a b _ => .fmaxF64 h (FMods.ofWord ⟨false, true, false, true, true, false⟩ w) d a b
  | 0x055 => decR w ⟨some (RK.k32), some (RK.k32), some (RK.k32), some (RK.k32), false⟩ ((FMods.ofWord ⟨false, true, false, true, true, true⟩ w).code) (true) fun h d a b c => .fmed3F32 h (FMods.ofWord ⟨false, true, false, true, true, true⟩ w) d a (regOf b) c
  | 0x056 => decR w ⟨some (RK.k64), some (RK.k64), some (RK.k64), some (RK.k64), false⟩ ((FMods.ofWord ⟨false, true, false, true, true, true⟩ w).code) (true) fun h d a b c => .fmed3F64 h (FMods.ofWord ⟨false, true, false, true, true, true⟩ w) d a (regOf b) c
  | 0x057 => decR w ⟨some (RK.k32), some (RK.k32), some (RK.k32), none, true⟩ (bits w 0 4 + bits w 4 3 * 16 + bits w 12 1 * 4096) (decide (bits w 0 4 < 8)) fun h d a b _ => .fcmpF32 h (FCmp.ofCode (bits w 0 4)) (fin8 (bits w 4 3)) (bits w 12 1 == 1) d a b
  | 0x058 => decR w ⟨some (RK.k32), some (RK.k64), some (RK.k64), none, true⟩ (bits w 0 4 + bits w 4 3 * 16 + bits w 12 1 * 4096) (decide (bits w 0 4 < 8)) fun h d a b _ => .fcmpF64 h (FCmp.ofCode (bits w 0 4)) (fin8 (bits w 4 3)) (bits w 12 1 == 1) d a b
  | 0x059 => decR w ⟨some (RK.k32), some (RK.k32), some (RK.k32), none, true⟩ (bits w 0 4 + bits w 4 3 * 16 + bits w 7 3 * 128 + bits w 12 1 * 4096) (decide (bits w 0 4 < 8)) fun h d a b _ => .fcmpF16x2 h (FCmp.ofCode (bits w 0 4)) (fin8 (bits w 4 3)) (fin8 (bits w 7 3)) (bits w 12 1 == 1) d a b
  | 0x05A => decR w ⟨some (RK.k32), some (RK.k32), some (RK.k32), none, true⟩ (bits w 0 4 + bits w 4 3 * 16 + bits w 7 3 * 128 + bits w 12 1 * 4096) (decide (bits w 0 4 < 8)) fun h d a b _ => .fcmpBf16x2 h (FCmp.ofCode (bits w 0 4)) (fin8 (bits w 4 3)) (fin8 (bits w 7 3)) (bits w 12 1 == 1) d a b
  | 0x05B => decR w ⟨some (RK.k32), some (RK.k32), some (RK.k32), none, true⟩ (bits w 0 3) (true) fun h d a b _ => .fclassF32 h (fin8 (bits w 0 3)) d a b
  | 0x05C => decR w ⟨some (RK.k32), some (RK.k64), some (RK.k32), none, true⟩ (bits w 0 3) (true) fun h d a b _ => .fclassF64 h (fin8 (bits w 0 3)) d a b
  | 0x05D => decR w ⟨some (RK.k32), some (RK.k32), none, none, false⟩ ((FMods.ofWord ⟨true, true, true, true, false, false⟩ w).code) (true) fun h d a _ _ => .frndF32 h (FMods.ofWord ⟨true, true, true, true, false, false⟩ w) d a
  | 0x05E => decR w ⟨some (RK.k64), some (RK.k64), none, none, false⟩ ((FMods.ofWord ⟨true, true, true, true, false, false⟩ w).code) (true) fun h d a _ _ => .frndF64 h (FMods.ofWord ⟨true, true, true, true, false, false⟩ w) d a
  | 0x05F => decR w ⟨some (RK.k32), some (RK.k32), some (RK.k32), none, true⟩ ((FMods.ofWord ⟨true, true, true, true, false, false⟩ w).code) (true) fun h d a b _ => .fscaleF32 h (FMods.ofWord ⟨true, true, true, true, false, false⟩ w) d a b
  | 0x060 => decR w ⟨some (RK.k64), some (RK.k64), some (RK.k32), none, true⟩ ((FMods.ofWord ⟨true, true, true, true, false, false⟩ w).code) (true) fun h d a b _ => .fscaleF64 h (FMods.ofWord ⟨true, true, true, true, false, false⟩ w) d a b
  | 0x061 => decR w ⟨some (RK.k32), some (RK.k32), none, none, false⟩ (bits w 12 1 * 4096) (true) fun h d a _ _ => .fexpF32 h (bits w 12 1 == 1) d a
  | 0x062 => decR w ⟨some (RK.k32), some (RK.k64), none, none, false⟩ (bits w 12 1 * 4096) (true) fun h d a _ _ => .fexpF64 h (bits w 12 1 == 1) d a
  | 0x063 => decR w ⟨some (RK.k32), some (RK.k32), none, none, false⟩ (bits w 0 3 + bits w 3 1 * 8 + bits w 6 1 * 64 + bits w 11 1 * 2048 + bits w 12 1 * 4096) (true) fun h d a _ _ => .sfnF32 h (SfnFn.ofCode (bits w 0 3)) (bits w 3 1 == 1) (bits w 6 1 == 1) (bits w 11 1 == 1) (bits w 12 1 == 1) d a
  | 0x064 => decR w ⟨some (RK.k64), some (RK.k64), none, none, false⟩ (bits w 0 3 + bits w 3 1 * 8 + bits w 6 1 * 64 + bits w 11 1 * 2048 + bits w 12 1 * 4096) (true) fun h d a _ _ => .sfnF64 h (SfnFn.ofCode (bits w 0 3)) (bits w 3 1 == 1) (bits w 6 1 == 1) (bits w 11 1 == 1) (bits w 12 1 == 1) d a
  | 0x065 => decR w ⟨some (RK.k32), some (RK.k32), some (RK.k32), some (RK.k32), false⟩ ((FMods.ofWord ⟨true, true, true, true, true, true⟩ w).code) (true) fun h d a b c => .fdot2Bf16 h (FMods.ofWord ⟨true, true, true, true, true, true⟩ w) d a (regOf b) c
  | 0x066 => decR w ⟨some (RK.k128), some (RK.k64), some (RK.k64), none, false⟩ ((FMods.ofWord ⟨false, false, false, true, true, false⟩ w).code) (true) fun h d a b _ => .ftsumF64 h (FMods.ofWord ⟨false, false, false, true, true, false⟩ w) d a (regOf b)
  | 0x067 => decR w ⟨some (RK.k32), some (RK.k64), some (RK.k64), none, false⟩ (bits w 11 1 * 2048 + bits w 12 1 * 4096) (true) fun h d a b _ => .crelF32 h (bits w 11 1 == 1) (bits w 12 1 == 1) d a (regOf b)
  | 0x068 => decR w ⟨some (RK.k32), some (RK.k64), none, none, false⟩ ((FMods.ofWord ⟨true, true, true, false, false, false⟩ w).code) (true) fun h d a _ _ => .fcvtF32F64 h (FMods.ofWord ⟨true, true, true, false, false, false⟩ w) d a
  | 0x069 => decR w ⟨some (RK.k64), some (RK.k32), none, none, false⟩ ((FMods.ofWord ⟨true, true, true, false, false, false⟩ w).code) (true) fun h d a _ _ => .fcvtF64F32 h (FMods.ofWord ⟨true, true, true, false, false, false⟩ w) d a
  | 0x06A => decR w ⟨some (RK.k32), some (RK.k32), none, none, false⟩ ((FMods.ofWord ⟨true, true, true, false, false, false⟩ w).code + bits w 0 1) (true) fun h d a _ _ => .fcvtF32F16 h (FMods.ofWord ⟨true, true, true, false, false, false⟩ w) (bits w 0 1 == 1) d a
  | 0x06B => decR w ⟨some (RK.k32), some (RK.k32), some (RK.k32), none, false⟩ ((FMods.ofWord ⟨true, true, true, false, false, false⟩ w).code) (true) fun h d a b _ => .fcvtF16x2F32 h (FMods.ofWord ⟨true, true, true, false, false, false⟩ w) d a (regOf b)
  | 0x06C => decR w ⟨some (RK.k32), some (RK.k32), none, none, false⟩ ((FMods.ofWord ⟨true, true, true, false, false, false⟩ w).code + bits w 0 1) (true) fun h d a _ _ => .fcvtF32Bf16 h (FMods.ofWord ⟨true, true, true, false, false, false⟩ w) (bits w 0 1 == 1) d a
  | 0x06D => decR w ⟨some (RK.k32), some (RK.k32), some (RK.k32), none, false⟩ ((FMods.ofWord ⟨true, true, true, false, false, false⟩ w).code) (true) fun h d a b _ => .fcvtBf16x2F32 h (FMods.ofWord ⟨true, true, true, false, false, false⟩ w) d a (regOf b)
  | 0x06E => decR w ⟨some (RK.k32), some (RK.k32), none, none, false⟩ ((FMods.ofWord ⟨true, true, false, false, false, false⟩ w).code) (true) fun h d a _ _ => .fcvtS32F32 h (FMods.ofWord ⟨true, true, false, false, false, false⟩ w) d a
  | 0x06F => decR w ⟨some (RK.k32), some (RK.k32), none, none, false⟩ ((FMods.ofWord ⟨true, true, false, false, false, false⟩ w).code) (true) fun h d a _ _ => .fcvtZ32F32 h (FMods.ofWord ⟨true, true, false, false, false, false⟩ w) d a
  | 0x070 => decR w ⟨some (RK.k32), some (RK.k32), none, none, false⟩ ((FMods.ofWord ⟨true, true, true, false, false, false⟩ w).code) (true) fun h d a _ _ => .fcvtF32S32 h (FMods.ofWord ⟨true, true, true, false, false, false⟩ w) d a
  | 0x071 => decR w ⟨some (RK.k32), some (RK.k32), none, none, false⟩ ((FMods.ofWord ⟨true, true, true, false, false, false⟩ w).code) (true) fun h d a _ _ => .fcvtF32Z32 h (FMods.ofWord ⟨true, true, true, false, false, false⟩ w) d a
  | 0x072 => decR w ⟨some (RK.k64), some (RK.k64), none, none, false⟩ ((FMods.ofWord ⟨true, true, false, false, false, false⟩ w).code) (true) fun h d a _ _ => .fcvtS64F64 h (FMods.ofWord ⟨true, true, false, false, false, false⟩ w) d a
  | 0x073 => decR w ⟨some (RK.k64), some (RK.k64), none, none, false⟩ ((FMods.ofWord ⟨true, true, false, false, false, false⟩ w).code) (true) fun h d a _ _ => .fcvtZ64F64 h (FMods.ofWord ⟨true, true, false, false, false, false⟩ w) d a
  | 0x074 => decR w ⟨some (RK.k64), some (RK.k64), none, none, false⟩ ((FMods.ofWord ⟨true, true, true, false, false, false⟩ w).code) (true) fun h d a _ _ => .fcvtF64S64 h (FMods.ofWord ⟨true, true, true, false, false, false⟩ w) d a
  | 0x075 => decR w ⟨some (RK.k64), some (RK.k64), none, none, false⟩ ((FMods.ofWord ⟨true, true, true, false, false, false⟩ w).code) (true) fun h d a _ _ => .fcvtF64Z64 h (FMods.ofWord ⟨true, true, true, false, false, false⟩ w) d a
  | 0x076 => decR w ⟨some (RK.k32), some (RK.k64), none, none, false⟩ ((FMods.ofWord ⟨true, true, false, false, false, false⟩ w).code) (true) fun h d a _ _ => .fcvtS32F64 h (FMods.ofWord ⟨true, true, false, false, false, false⟩ w) d a
  | 0x077 => decR w ⟨some (RK.k64), some (RK.k32), none, none, false⟩ ((FMods.ofWord ⟨true, true, true, false, false, false⟩ w).code) (true) fun h d a _ _ => .fcvtF64S32 h (FMods.ofWord ⟨true, true, true, false, false, false⟩ w) d a
  | _ => .error .unallocated

/-- The words of one group of the opcode map (R71), by opcode. -/
def decodeCrew (op w : Nat) : Except DecodeErr Instr :=
  match op with
  | 0x080 => decX w (bits w 40 8 = 0 ∧ bits w 0 8 = 0) True True fun h => .bra h (BitVec.ofNat 32 (bits w 8 32))
  | 0x081 => decX w (bits w 40 8 = 0 ∧ bits w 0 8 = 0) True True fun h => .braCons h (BitVec.ofNat 32 (bits w 8 32))
  | 0x082 => decR w ⟨none, some (RK.k64), none, none, false⟩ (0) (true) fun h _ a _ _ => .brx h a
  | 0x083 => decX w (bits w 40 8 = 0 ∧ bits w 0 8 = 0) True True fun h => .call h (BitVec.ofNat 32 (bits w 8 32))
  | 0x084 => decR w ⟨none, some (RK.k64), none, none, false⟩ (0) (true) fun h _ a _ _ => .callx h a
  | 0x085 => decR w ⟨none, none, none, none, false⟩ (0) (true) fun h _ _ _ _ => .ret h
  | 0x086 => decR w ⟨none, none, none, none, false⟩ (0) (true) fun h _ _ _ _ => .exit h
  | 0x087 => decR w ⟨none, none, none, none, false⟩ (0) (true) fun h _ _ _ _ => .nop h
  | 0x088 => decR w ⟨none, none, some (RK.k32), none, true⟩ (0) (true) fun h _ _ b _ => .join h b
  | 0x089 => decR w ⟨none, none, none, none, false⟩ (0) (true) fun h _ _ _ _ => .yield_ h
  | 0x08A => decR w ⟨none, none, some (RK.k32), none, true⟩ (0) (true) fun h _ _ b _ => .prio h b
  | 0x08B => decX w (bits w 0 8 = 0) True (RK.k32.codeOkB (bits w 40 8)) fun h => .dbnz h (Reg.ofCode (bits w 40 8)) (BitVec.ofNat 32 (bits w 8 32))
  | 0x08C => decR w ⟨some (RK.k32), some (RK.k32), some (RK.k32), some (RK.k32), true⟩ (bits w 0 3 + bits w 3 3 * 8) (decide (bits w 0 3 < 6)) fun h d a b c => .lxchAtB32 h (fin6 (bits w 0 3)) (fin8 (bits w 3 3)) d a b c
  | 0x08D => decR w ⟨some (RK.k32), some (RK.k32), some (RK.k32), some (RK.k32), true⟩ (bits w 0 3 + bits w 3 3 * 8) (decide (bits w 0 3 < 6)) fun h d a b c => .lxchRotB32 h (fin6 (bits w 0 3)) (fin8 (bits w 3 3)) d a b c
  | 0x08E => decR w ⟨some (RK.k32), some (RK.k32), some (RK.k32), some (RK.k32), true⟩ (bits w 0 3 + bits w 3 3 * 8) (decide (bits w 0 3 < 6)) fun h d a b c => .lxchDistB32 h (fin6 (bits w 0 3)) (fin8 (bits w 3 3)) d a b c
  | 0x08F => decR w ⟨some (RK.k32), some (RK.k32), some (RK.k32), some (RK.k32), true⟩ (bits w 0 3 + bits w 3 3 * 8) (decide (bits w 0 3 < 6)) fun h d a b c => .lxchMirB32 h (fin6 (bits w 0 3)) (fin8 (bits w 3 3)) d a b c
  | 0x090 => decR w ⟨some (RK.k64), some (RK.k64), some (RK.k32), some (RK.k32), true⟩ (bits w 0 3 + bits w 3 3 * 8) (decide (bits w 0 3 < 6)) fun h d a b c => .lxchAtB64 h (fin6 (bits w 0 3)) (fin8 (bits w 3 3)) d a b c
  | 0x091 => decR w ⟨some (RK.k64), some (RK.k64), some (RK.k32), some (RK.k32), true⟩ (bits w 0 3 + bits w 3 3 * 8) (decide (bits w 0 3 < 6)) fun h d a b c => .lxchRotB64 h (fin6 (bits w 0 3)) (fin8 (bits w 3 3)) d a b c
  | 0x092 => decR w ⟨some (RK.k64), some (RK.k64), some (RK.k32), some (RK.k32), true⟩ (bits w 0 3 + bits w 3 3 * 8) (decide (bits w 0 3 < 6)) fun h d a b c => .lxchDistB64 h (fin6 (bits w 0 3)) (fin8 (bits w 3 3)) d a b c
  | 0x093 => decR w ⟨some (RK.k64), some (RK.k64), some (RK.k32), some (RK.k32), true⟩ (bits w 0 3 + bits w 3 3 * 8) (decide (bits w 0 3 < 6)) fun h d a b c => .lxchMirB64 h (fin6 (bits w 0 3)) (fin8 (bits w 3 3)) d a b c
  | 0x094 => decR w ⟨some (RK.k32), none, none, some (RK.k32), false⟩ (bits w 0 3 + bits w 3 1 * 8 + bits w 4 3 * 16) (true) fun h d _ _ c => .cpqAll h (fin8 (bits w 0 3)) (bits w 3 1 == 1) (fin8 (bits w 4 3)) d c
  | 0x095 => decR w ⟨some (RK.k32), none, none, some (RK.k32), false⟩ (bits w 0 3 + bits w 3 1 * 8 + bits w 4 3 * 16) (true) fun h d _ _ c => .cpqAny h (fin8 (bits w 0 3)) (bits w 3 1 == 1) (fin8 (bits w 4 3)) d c
  | 0x096 => decR w ⟨some (RK.k32), none, none, some (RK.k32), false⟩ (bits w 0 3 + bits w 3 1 * 8 + bits w 4 3 * 16) (true) fun h d _ _ c => .cpqSame h (fin8 (bits w 0 3)) (bits w 3 1 == 1) (fin8 (bits w 4 3)) d c
  | 0x097 => decR w ⟨some (RK.k32), none, none, some (RK.k32), false⟩ (bits w 0 3 + bits w 3 1 * 8) (true) fun h d _ _ c => .cpqMask h (fin8 (bits w 0 3)) (bits w 3 1 == 1) d c
  | 0x098 => decR w ⟨some (RK.k32), none, none, some (RK.k32), false⟩ (bits w 0 3 + bits w 3 1 * 8) (true) fun h d _ _ c => .cpqNum h (fin8 (bits w 0 3)) (bits w 3 1 == 1) d c
  | 0x099 => decR w ⟨some (RK.k32), some (RK.k32), none, some (RK.k32), false⟩ (0) (true) fun h d a _ c => .vgrpPart h d a c
  | 0x09A => decR w ⟨some (RK.k32), some (RK.k32), none, some (RK.k32), false⟩ (bits w 0 3) (true) fun h d a _ c => .vgrpUni h (fin8 (bits w 0 3)) d a c
  | 0x09B => decR w ⟨some (RK.k32), some (RK.k32), none, some (RK.k32), false⟩ (0) (true) fun h d a _ c => .credAddB32 h d a c
  | 0x09C => decR w ⟨some (RK.k32), some (RK.k32), none, some (RK.k32), false⟩ (0) (true) fun h d a _ c => .credMinS32 h d a c
  | 0x09D => decR w ⟨some (RK.k32), some (RK.k32), none, some (RK.k32), false⟩ (0) (true) fun h d a _ c => .credMinZ32 h d a c
  | 0x09E => decR w ⟨some (RK.k32), some (RK.k32), none, some (RK.k32), false⟩ (0) (true) fun h d a _ c => .credMaxS32 h d a c
  | 0x09F => decR w ⟨some (RK.k32), some (RK.k32), none, some (RK.k32), false⟩ (0) (true) fun h d a _ c => .credMaxZ32 h d a c
  | 0x0A0 => decR w ⟨some (RK.k32), some (RK.k32), none, some (RK.k32), false⟩ (0) (true) fun h d a _ c => .credAnd h d a c
  | 0x0A1 => decR w ⟨some (RK.k32), some (RK.k32), none, some (RK.k32), false⟩ (0) (true) fun h d a _ c => .credOr h d a c
  | 0x0A2 => decR w ⟨some (RK.k32), some (RK.k32), none, some (RK.k32), false⟩ (0) (true) fun h d a _ c => .credXor h d a c
  | 0x0A3 => decR w ⟨some (RK.k32), some (RK.k32), none, some (RK.k32), false⟩ (0) (true) fun h d a _ c => .credFaddF32 h d a c
  | 0x0A4 => decR w ⟨some (RK.k32), some (RK.k32), none, some (RK.k32), false⟩ (0) (true) fun h d a _ c => .credFminF32 h d a c
  | 0x0A5 => decR w ⟨some (RK.k32), none, none, some (RK.k32), false⟩ (bits w 0 3) (true) fun h d _ _ c => .lead h (fin8 (bits w 0 3)) d c
  | 0x0A6 => decR w ⟨some (RK.k32), none, none, some (RK.k32), false⟩ (0) (true) fun h d _ _ c => .memb h d c
  | 0x0A7 => decR w ⟨some (RK.ks), some (RK.k32), some (RK.k32), none, true⟩ (0) (true) fun h d a b _ => .smov h d a b
  | 0x0A8 => decR w ⟨none, none, some (RK.k32), none, true⟩ (0) (true) fun h _ _ b _ => .gang h b
  | 0x0A9 => decR w ⟨some (RK.k32), none, none, none, false⟩ (0) (true) fun h d _ _ _ => .psave h d
  | 0x0AA => decR w ⟨none, some (RK.k32), none, none, false⟩ (0) (true) fun h _ a _ _ => .pload h a
  | _ => .error .unallocated

/-- The words of one group of the opcode map (R72), by opcode. -/
def decodeSync (op w : Nat) : Except DecodeErr Instr :=
  match op with
  | 0x0C0 => decR w ⟨some (RK.k32), none, some (RK.k32), none, true⟩ (bits w 0 2) (true) fun h d _ b _ => .barSync h (fin4 (bits w 0 2)) d b
  | 0x0C1 => decR w ⟨some (RK.k32), none, some (RK.k32), none, true⟩ (bits w 0 2) (true) fun h d _ b _ => .barArv h (fin4 (bits w 0 2)) d b
  | 0x0C2 => decR w ⟨some (RK.k32), none, some (RK.k32), none, true⟩ (bits w 0 2) (true) fun h d _ b _ => .barArvc h (fin4 (bits w 0 2)) d b
  | 0x0C3 => decR w ⟨some (RK.k32), some (RK.k32), some (RK.k32), none, true⟩ (bits w 0 2) (true) fun h d a b _ => .barWait h (fin4 (bits w 0 2)) d a b
  | 0x0C4 => decR w ⟨some (RK.k32), some (RK.k32), some (RK.k32), none, true⟩ (bits w 0 2) (true) fun h d a b _ => .barTry h (fin4 (bits w 0 2)) d a b
  | 0x0C5 => decR w ⟨none, none, some (RK.k32), none, true⟩ (bits w 0 2) (true) fun h _ _ b _ => .barLeave h (fin4 (bits w 0 2)) b
  | 0x0C6 => decR w ⟨none, none, none, none, false⟩ (bits w 0 2) (true) fun h _ _ _ _ => .barReset h (fin4 (bits w 0 2))
  | 0x0C7 => decR w ⟨some (RK.k32), none, some (RK.k32), none, true⟩ (0) (true) fun h d _ b _ => .bbar h d b
  | 0x0C8 => decR w ⟨some (RK.k32), none, none, none, false⟩ (bits w 0 2 + bits w 2 2 * 4) (true) fun h d _ _ _ => .grpq h (fin4 (bits w 0 2)) (fin4 (bits w 2 2)) d
  | 0x0C9 => decX w (bits w 0 2 = 0) ((bits w 5 3 = 1 ∨ bits w 5 3 = 2) ∧ bits w 2 3 = 0) ((RK.k32).codeOkB (bits w 40 8) ∧ RK.k32.codeOkB (bits w 32 8)) fun h => .stginit h (Reg.ofCode (bits w 40 8)) (SOp.ofWord w)
  | 0x0CA => decX w (bits w 0 2 = 0) ((bits w 5 3 = 1 ∨ bits w 5 3 = 2) ∧ bits w 2 3 = 0) ((RK.k32).codeOkB (bits w 40 8) ∧ RK.k32.codeOkB (bits w 32 8)) fun h => .stgowe h (Reg.ofCode (bits w 40 8)) (SOp.ofWord w)
  | 0x0CB => decX w (bits w 0 2 = 0) ((bits w 5 3 = 1 ∨ bits w 5 3 = 2) ∧ bits w 2 3 = 0) ((RK.k32).codeOkB (bits w 40 8) ∧ RK.k32.codeOkB (bits w 32 8)) fun h => .stgadd h (Reg.ofCode (bits w 40 8)) (SOp.ofWord w)
  | 0x0CC => decX w (bits w 40 8 = 0 ∧ bits w 0 2 = 0) ((bits w 5 3 = 1 ∨ bits w 5 3 = 2) ∧ bits w 2 3 = 0) (RK.k32.codeOkB (bits w 32 8)) fun h => .stgarv h (SOp.ofWord w)
  | 0x0CD => decX w (bits w 0 2 = 0) ((bits w 5 3 = 1 ∨ bits w 5 3 = 2) ∧ bits w 2 3 = 0) ((RK.k32).codeOkB (bits w 40 8) ∧ RK.k32.codeOkB (bits w 32 8)) fun h => .stgtry h (Reg.ofCode (bits w 40 8)) (SOp.ofWord w)
  | 0x0CE => decX w (bits w 0 2 = 0) ((bits w 5 3 = 1 ∨ bits w 5 3 = 2) ∧ bits w 2 3 = 0) ((RK.k32).codeOkB (bits w 40 8) ∧ RK.k32.codeOkB (bits w 32 8)) fun h => .stgwait h (Reg.ofCode (bits w 40 8)) (SOp.ofWord w)
  | 0x0CF => decX w (bits w 40 8 = 0 ∧ bits w 0 2 = 0) ((bits w 5 3 = 1 ∨ bits w 5 3 = 2) ∧ bits w 2 3 = 0) (RK.k32.codeOkB (bits w 32 8)) fun h => .stginval h (SOp.ofWord w)
  | 0x0D0 => decX w (bits w 0 2 = 0) ((bits w 5 3 = 1 ∨ bits w 5 3 = 2) ∧ bits w 2 3 = 0) ((RK.k64).codeOkB (bits w 40 8) ∧ RK.k32.codeOkB (bits w 32 8)) fun h => .qinit h (Reg.ofCode (bits w 40 8)) (SOp.ofWord w)
  | 0x0D1 => decX w (bits w 0 2 = 0) ((bits w 5 3 = 1 ∨ bits w 5 3 = 2) ∧ bits w 2 3 = 0) ((RK.kq4).codeOkB (bits w 40 8) ∧ RK.k32.codeOkB (bits w 32 8)) fun h => .qpush h (Reg.ofCode (bits w 40 8)) (SOp.ofWord w)
  | 0x0D2 => decX w (bits w 0 2 = 0) ((bits w 5 3 = 1 ∨ bits w 5 3 = 2) ∧ bits w 2 3 = 0) ((RK.kq8).codeOkB (bits w 40 8) ∧ RK.k32.codeOkB (bits w 32 8)) fun h => .qpushW h (Reg.ofCode (bits w 40 8)) (SOp.ofWord w)
  | 0x0D3 => decX w (bits w 0 2 = 0) ((bits w 5 3 = 1 ∨ bits w 5 3 = 2) ∧ bits w 2 3 = 0) ((RK.kq4).codeOkB (bits w 40 8) ∧ RK.k32.codeOkB (bits w 32 8)) fun h => .qpop h (Reg.ofCode (bits w 40 8)) (SOp.ofWord w)
  | 0x0D4 => decX w (bits w 0 2 = 0) ((bits w 5 3 = 1 ∨ bits w 5 3 = 2) ∧ bits w 2 3 = 0) ((RK.kq8).codeOkB (bits w 40 8) ∧ RK.k32.codeOkB (bits w 32 8)) fun h => .qpopW h (Reg.ofCode (bits w 40 8)) (SOp.ofWord w)
  | 0x0D5 => decX w (bits w 0 2 = 0) ((bits w 5 3 = 1 ∨ bits w 5 3 = 2) ∧ bits w 2 3 = 0) ((RK.kq8).codeOkB (bits w 40 8) ∧ RK.k32.codeOkB (bits w 32 8)) fun h => .qtrypush h (Reg.ofCode (bits w 40 8)) (SOp.ofWord w)
  | 0x0D6 => decX w (bits w 0 2 = 0) ((bits w 5 3 = 1 ∨ bits w 5 3 = 2) ∧ bits w 2 3 = 0) ((RK.kq8).codeOkB (bits w 40 8) ∧ RK.k32.codeOkB (bits w 32 8)) fun h => .qtrypop h (Reg.ofCode (bits w 40 8)) (SOp.ofWord w)
  | 0x0D7 => decX w (bits w 0 2 = 0) ((bits w 5 3 = 1 ∨ bits w 5 3 = 2) ∧ bits w 2 3 = 0) ((RK.kq8).codeOkB (bits w 40 8) ∧ RK.k32.codeOkB (bits w 32 8)) fun h => .qpeek h (Reg.ofCode (bits w 40 8)) (SOp.ofWord w)
  | 0x0D8 => decX w (bits w 0 2 = 0) ((bits w 5 3 = 1 ∨ bits w 5 3 = 2) ∧ bits w 2 3 = 0) ((RK.k32).codeOkB (bits w 40 8) ∧ RK.k32.codeOkB (bits w 32 8)) fun h => .qcount h (Reg.ofCode (bits w 40 8)) (SOp.ofWord w)
  | 0x0D9 => decX w (bits w 40 8 = 0 ∧ bits w 0 2 = 0) ((bits w 5 3 = 1 ∨ bits w 5 3 = 2) ∧ bits w 2 3 = 0) (RK.k32.codeOkB (bits w 32 8)) fun h => .qbreak h (SOp.ofWord w)
  | 0x0DA => decR w ⟨some (RK.k32), some (RK.k128), some (RK.k32), some (RK.k64), false⟩ (0) (true) fun h d a b c => .waitvAny h d a (regOf b) c
  | 0x0DB => decR w ⟨some (RK.k32), some (RK.k128), some (RK.k32), some (RK.k64), false⟩ (0) (true) fun h d a b c => .waitvAll h d a (regOf b) c
  | 0x0DC => decX w (bits w 41 7 = 0 ∧ bits w 0 8 = 0) True (RK.k64.codeOkB (bits w 32 8)) fun h => .monitor h (fin2 (bits w 40 1)) (Reg.ofCode (bits w 32 8)) (BitVec.ofNat 24 (bits w 8 24))
  | 0x0DD => decR w ⟨none, none, none, none, false⟩ (bits w 0 2) (true) fun h _ _ _ _ => .unmonitor h (fin4 (bits w 0 2))
  | 0x0DE => decR w ⟨some (RK.k32), none, none, none, false⟩ (0) (true) fun h d _ _ _ => .montest h d
  | 0x0DF => decR w ⟨none, none, some (RK.k32), none, true⟩ (0) (true) fun h _ _ b _ => .sleep h b
  | _ => .error .unallocated

/-- The words of one group of the opcode map (R73), by opcode. -/
noncomputable def decodeMem (op w : Nat) : Except DecodeErr Instr :=
  match op with
  | 0x100 => decX w (bits w 0 2 < 4) (bits w 5 3 ∈ ([0,1,2,3,4,5] : List Nat) ∧ bits w 2 3 ∈ ([0,1,2,5] : List Nat)) ((RK.k32).codeOkB (bits w 40 8) ∧ (RK.k64).codeOkB (bits w 32 8)) fun h => .ldS8 h (Reg.ofCode (bits w 40 8)) (MOp.ofWord w)
  | 0x101 => decX w (bits w 0 2 < 4) (bits w 5 3 ∈ ([0,1,2,3,4,5] : List Nat) ∧ bits w 2 3 ∈ ([0,1,2,5] : List Nat)) ((RK.k32).codeOkB (bits w 40 8) ∧ (RK.k64).codeOkB (bits w 32 8)) fun h => .ldZ8 h (Reg.ofCode (bits w 40 8)) (MOp.ofWord w)
  | 0x102 => decX w (bits w 0 2 < 4) (bits w 5 3 ∈ ([0,1,2,3,4,5] : List Nat) ∧ bits w 2 3 ∈ ([0,1,2,5] : List Nat)) ((RK.k32).codeOkB (bits w 40 8) ∧ (RK.k64).codeOkB (bits w 32 8)) fun h => .ldS16 h (Reg.ofCode (bits w 40 8)) (MOp.ofWord w)
  | 0x103 => decX w (bits w 0 2 < 4) (bits w 5 3 ∈ ([0,1,2,3,4,5] : List Nat) ∧ bits w 2 3 ∈ ([0,1,2,5] : List Nat)) ((RK.k32).codeOkB (bits w 40 8) ∧ (RK.k64).codeOkB (bits w 32 8)) fun h => .ldZ16 h (Reg.ofCode (bits w 40 8)) (MOp.ofWord w)
  | 0x104 => decX w (bits w 0 2 < 4) (bits w 5 3 ∈ ([0,1,2,3,4,5] : List Nat) ∧ bits w 2 3 ∈ ([0,1,2,5] : List Nat)) ((RK.k32).codeOkB (bits w 40 8) ∧ (RK.k64).codeOkB (bits w 32 8)) fun h => .ldB32 h (Reg.ofCode (bits w 40 8)) (MOp.ofWord w)
  | 0x105 => decX w (bits w 0 2 < 4) (bits w 5 3 ∈ ([0,1,2,3,4,5] : List Nat) ∧ bits w 2 3 ∈ ([0,1,2,5] : List Nat)) ((RK.k64).codeOkB (bits w 40 8) ∧ (RK.k64).codeOkB (bits w 32 8)) fun h => .ldB64 h (Reg.ofCode (bits w 40 8)) (MOp.ofWord w)
  | 0x106 => decX w (bits w 0 2 < 4) (bits w 5 3 ∈ ([0,1,2,3,4,5] : List Nat) ∧ bits w 2 3 ∈ ([0,1,2,5] : List Nat)) ((RK.k128).codeOkB (bits w 40 8) ∧ (RK.k64).codeOkB (bits w 32 8)) fun h => .ldB128 h (Reg.ofCode (bits w 40 8)) (MOp.ofWord w)
  | 0x107 => decX w (bits w 0 2 < 4) (bits w 5 3 ∈ ([0,1,2,3,4,5] : List Nat) ∧ bits w 2 3 ∈ ([0,1,3,5] : List Nat)) ((RK.k32).codeOkB (bits w 40 8) ∧ (RK.k64).codeOkB (bits w 32 8)) fun h => .stB8 h (Reg.ofCode (bits w 40 8)) (MOp.ofWord w)
  | 0x108 => decX w (bits w 0 2 < 4) (bits w 5 3 ∈ ([0,1,2,3,4,5] : List Nat) ∧ bits w 2 3 ∈ ([0,1,3,5] : List Nat)) ((RK.k32).codeOkB (bits w 40 8) ∧ (RK.k64).codeOkB (bits w 32 8)) fun h => .stB16 h (Reg.ofCode (bits w 40 8)) (MOp.ofWord w)
  | 0x109 => decX w (bits w 0 2 < 4) (bits w 5 3 ∈ ([0,1,2,3,4,5] : List Nat) ∧ bits w 2 3 ∈ ([0,1,3,5] : List Nat)) ((RK.k32).codeOkB (bits w 40 8) ∧ (RK.k64).codeOkB (bits w 32 8)) fun h => .stB32 h (Reg.ofCode (bits w 40 8)) (MOp.ofWord w)
  | 0x10A => decX w (bits w 0 2 < 4) (bits w 5 3 ∈ ([0,1,2,3,4,5] : List Nat) ∧ bits w 2 3 ∈ ([0,1,3,5] : List Nat)) ((RK.k64).codeOkB (bits w 40 8) ∧ (RK.k64).codeOkB (bits w 32 8)) fun h => .stB64 h (Reg.ofCode (bits w 40 8)) (MOp.ofWord w)
  | 0x10B => decX w (bits w 0 2 < 4) (bits w 5 3 ∈ ([0,1,2,3,4,5] : List Nat) ∧ bits w 2 3 ∈ ([0,1,3,5] : List Nat)) ((RK.k128).codeOkB (bits w 40 8) ∧ (RK.k64).codeOkB (bits w 32 8)) fun h => .stB128 h (Reg.ofCode (bits w 40 8)) (MOp.ofWord w)
  | 0x10C => decX w (bits w 0 2 < 1) (bits w 5 3 ∈ ([1] : List Nat) ∧ bits w 2 3 ∈ ([0,1,2,5] : List Nat)) ((RK.k32).codeOkB (bits w 40 8) ∧ (RK.k32).codeOkB (bits w 32 8)) fun h => .ldsS8 h (Reg.ofCode (bits w 40 8)) (MOp.ofWord w)
  | 0x10D => decX w (bits w 0 2 < 1) (bits w 5 3 ∈ ([1] : List Nat) ∧ bits w 2 3 ∈ ([0,1,2,5] : List Nat)) ((RK.k32).codeOkB (bits w 40 8) ∧ (RK.k32).codeOkB (bits w 32 8)) fun h => .ldsZ8 h (Reg.ofCode (bits w 40 8)) (MOp.ofWord w)
  | 0x10E => decX w (bits w 0 2 < 1) (bits w 5 3 ∈ ([1] : List Nat) ∧ bits w 2 3 ∈ ([0,1,2,5] : List Nat)) ((RK.k32).codeOkB (bits w 40 8) ∧ (RK.k32).codeOkB (bits w 32 8)) fun h => .ldsS16 h (Reg.ofCode (bits w 40 8)) (MOp.ofWord w)
  | 0x10F => decX w (bits w 0 2 < 1) (bits w 5 3 ∈ ([1] : List Nat) ∧ bits w 2 3 ∈ ([0,1,2,5] : List Nat)) ((RK.k32).codeOkB (bits w 40 8) ∧ (RK.k32).codeOkB (bits w 32 8)) fun h => .ldsZ16 h (Reg.ofCode (bits w 40 8)) (MOp.ofWord w)
  | 0x110 => decX w (bits w 0 2 < 1) (bits w 5 3 ∈ ([1] : List Nat) ∧ bits w 2 3 ∈ ([0,1,2,5] : List Nat)) ((RK.k32).codeOkB (bits w 40 8) ∧ (RK.k32).codeOkB (bits w 32 8)) fun h => .ldsB32 h (Reg.ofCode (bits w 40 8)) (MOp.ofWord w)
  | 0x111 => decX w (bits w 0 2 < 1) (bits w 5 3 ∈ ([1] : List Nat) ∧ bits w 2 3 ∈ ([0,1,2,5] : List Nat)) ((RK.k64).codeOkB (bits w 40 8) ∧ (RK.k32).codeOkB (bits w 32 8)) fun h => .ldsB64 h (Reg.ofCode (bits w 40 8)) (MOp.ofWord w)
  | 0x112 => decX w (bits w 0 2 < 1) (bits w 5 3 ∈ ([1] : List Nat) ∧ bits w 2 3 ∈ ([0,1,2,5] : List Nat)) ((RK.k128).codeOkB (bits w 40 8) ∧ (RK.k32).codeOkB (bits w 32 8)) fun h => .ldsB128 h (Reg.ofCode (bits w 40 8)) (MOp.ofWord w)
  | 0x113 => decX w (bits w 0 2 < 1) (bits w 5 3 ∈ ([1] : List Nat) ∧ bits w 2 3 ∈ ([0,1,3,5] : List Nat)) ((RK.k32).codeOkB (bits w 40 8) ∧ (RK.k32).codeOkB (bits w 32 8)) fun h => .stsB8 h (Reg.ofCode (bits w 40 8)) (MOp.ofWord w)
  | 0x114 => decX w (bits w 0 2 < 1) (bits w 5 3 ∈ ([1] : List Nat) ∧ bits w 2 3 ∈ ([0,1,3,5] : List Nat)) ((RK.k32).codeOkB (bits w 40 8) ∧ (RK.k32).codeOkB (bits w 32 8)) fun h => .stsB16 h (Reg.ofCode (bits w 40 8)) (MOp.ofWord w)
  | 0x115 => decX w (bits w 0 2 < 1) (bits w 5 3 ∈ ([1] : List Nat) ∧ bits w 2 3 ∈ ([0,1,3,5] : List Nat)) ((RK.k32).codeOkB (bits w 40 8) ∧ (RK.k32).codeOkB (bits w 32 8)) fun h => .stsB32 h (Reg.ofCode (bits w 40 8)) (MOp.ofWord w)
  | 0x116 => decX w (bits w 0 2 < 1) (bits w 5 3 ∈ ([1] : List Nat) ∧ bits w 2 3 ∈ ([0,1,3,5] : List Nat)) ((RK.k64).codeOkB (bits w 40 8) ∧ (RK.k32).codeOkB (bits w 32 8)) fun h => .stsB64 h (Reg.ofCode (bits w 40 8)) (MOp.ofWord w)
  | 0x117 => decX w (bits w 0 2 < 1) (bits w 5 3 ∈ ([1] : List Nat) ∧ bits w 2 3 ∈ ([0,1,3,5] : List Nat)) ((RK.k128).codeOkB (bits w 40 8) ∧ (RK.k32).codeOkB (bits w 32 8)) fun h => .stsB128 h (Reg.ofCode (bits w 40 8)) (MOp.ofWord w)
  | 0x118 => decX w (bits w 0 2 < 1) (bits w 5 3 ∈ ([1] : List Nat) ∧ bits w 2 3 ∈ ([0,1,2,5] : List Nat)) ((RK.k32).codeOkB (bits w 40 8) ∧ (RK.k32).codeOkB (bits w 32 8)) fun h => .ldxB32 h (Reg.ofCode (bits w 40 8)) (MOp.ofWord w)
  | 0x119 => decX w (bits w 0 2 < 1) (bits w 5 3 ∈ ([1] : List Nat) ∧ bits w 2 3 ∈ ([0,1,2,5] : List Nat)) ((RK.k64).codeOkB (bits w 40 8) ∧ (RK.k32).codeOkB (bits w 32 8)) fun h => .ldxB64 h (Reg.ofCode (bits w 40 8)) (MOp.ofWord w)
  | 0x11A => decX w (bits w 0 2 < 1) (bits w 5 3 ∈ ([1] : List Nat) ∧ bits w 2 3 ∈ ([0,1,2,5] : List Nat)) ((RK.k128).codeOkB (bits w 40 8) ∧ (RK.k32).codeOkB (bits w 32 8)) fun h => .ldxB128 h (Reg.ofCode (bits w 40 8)) (MOp.ofWord w)
  | 0x11B => decX w (bits w 0 2 < 1) (bits w 5 3 ∈ ([1] : List Nat) ∧ bits w 2 3 ∈ ([0,1,3,5] : List Nat)) ((RK.k32).codeOkB (bits w 40 8) ∧ (RK.k32).codeOkB (bits w 32 8)) fun h => .stxB32 h (Reg.ofCode (bits w 40 8)) (MOp.ofWord w)
  | 0x11C => decX w (bits w 0 2 < 1) (bits w 5 3 ∈ ([1] : List Nat) ∧ bits w 2 3 ∈ ([0,1,3,5] : List Nat)) ((RK.k64).codeOkB (bits w 40 8) ∧ (RK.k32).codeOkB (bits w 32 8)) fun h => .stxB64 h (Reg.ofCode (bits w 40 8)) (MOp.ofWord w)
  | 0x11D => decX w (bits w 0 2 < 1) (bits w 5 3 ∈ ([1] : List Nat) ∧ bits w 2 3 ∈ ([0,1,3,5] : List Nat)) ((RK.k128).codeOkB (bits w 40 8) ∧ (RK.k32).codeOkB (bits w 32 8)) fun h => .stxB128 h (Reg.ofCode (bits w 40 8)) (MOp.ofWord w)
  | 0x11E => decX w (bits w 0 2 < 4) (bits w 5 3 ∈ ([1] : List Nat) ∧ bits w 2 3 ∈ ([0] : List Nat)) ((RK.k32).codeOkB (bits w 40 8) ∧ (RK.k32).codeOkB (bits w 32 8)) fun h => .ldcB32 h (Reg.ofCode (bits w 40 8)) (MOp.ofWord w)
  | 0x11F => decX w (bits w 0 2 < 4) (bits w 5 3 ∈ ([1] : List Nat) ∧ bits w 2 3 ∈ ([0] : List Nat)) ((RK.k64).codeOkB (bits w 40 8) ∧ (RK.k32).codeOkB (bits w 32 8)) fun h => .ldcB64 h (Reg.ofCode (bits w 40 8)) (MOp.ofWord w)
  | 0x120 => decX w (bits w 0 2 < 4) (bits w 5 3 ∈ ([0,1,2,3,4,5] : List Nat) ∧ bits w 2 3 ∈ ([0,1,2,3,4,5] : List Nat)) ((RK.k32).codeOkB (bits w 40 8) ∧ (RK.k64).codeOkB (bits w 32 8)) fun h => .atomAddB32 h (Reg.ofCode (bits w 40 8)) (MOp.ofWord w)
  | 0x121 => decX w (bits w 0 2 < 4) (bits w 5 3 ∈ ([0,1,2,3,4,5] : List Nat) ∧ bits w 2 3 ∈ ([0,1,2,3,4,5] : List Nat)) ((RK.k64).codeOkB (bits w 40 8) ∧ (RK.k64).codeOkB (bits w 32 8)) fun h => .atomAddB64 h (Reg.ofCode (bits w 40 8)) (MOp.ofWord w)
  | 0x122 => decX w (bits w 0 2 < 4) (bits w 5 3 ∈ ([0,1,2,3,4,5] : List Nat) ∧ bits w 2 3 ∈ ([0,1,2,3,4,5] : List Nat)) ((RK.k32).codeOkB (bits w 40 8) ∧ (RK.k64).codeOkB (bits w 32 8)) fun h => .atomFaddF32 h (Reg.ofCode (bits w 40 8)) (MOp.ofWord w)
  | 0x123 => decX w (bits w 0 2 < 4) (bits w 5 3 ∈ ([0,1,2,3,4,5] : List Nat) ∧ bits w 2 3 ∈ ([0,1,2,3,4,5] : List Nat)) ((RK.k64).codeOkB (bits w 40 8) ∧ (RK.k64).codeOkB (bits w 32 8)) fun h => .atomFaddF64 h (Reg.ofCode (bits w 40 8)) (MOp.ofWord w)
  | 0x124 => decX w (bits w 0 2 < 4) (bits w 5 3 ∈ ([0,1,2,3,4,5] : List Nat) ∧ bits w 2 3 ∈ ([0,1,2,3,4,5] : List Nat)) ((RK.k32).codeOkB (bits w 40 8) ∧ (RK.k64).codeOkB (bits w 32 8)) fun h => .atomFaddBf16x2 h (Reg.ofCode (bits w 40 8)) (MOp.ofWord w)
  | 0x125 => decX w (bits w 0 2 < 4) (bits w 5 3 ∈ ([0,1,2,3,4,5] : List Nat) ∧ bits w 2 3 ∈ ([0,1,2,3,4,5] : List Nat)) ((RK.k32).codeOkB (bits w 40 8) ∧ (RK.k64).codeOkB (bits w 32 8)) fun h => .atomMinS32 h (Reg.ofCode (bits w 40 8)) (MOp.ofWord w)
  | 0x126 => decX w (bits w 0 2 < 4) (bits w 5 3 ∈ ([0,1,2,3,4,5] : List Nat) ∧ bits w 2 3 ∈ ([0,1,2,3,4,5] : List Nat)) ((RK.k32).codeOkB (bits w 40 8) ∧ (RK.k64).codeOkB (bits w 32 8)) fun h => .atomMinZ32 h (Reg.ofCode (bits w 40 8)) (MOp.ofWord w)
  | 0x127 => decX w (bits w 0 2 < 4) (bits w 5 3 ∈ ([0,1,2,3,4,5] : List Nat) ∧ bits w 2 3 ∈ ([0,1,2,3,4,5] : List Nat)) ((RK.k32).codeOkB (bits w 40 8) ∧ (RK.k64).codeOkB (bits w 32 8)) fun h => .atomMaxS32 h (Reg.ofCode (bits w 40 8)) (MOp.ofWord w)
  | 0x128 => decX w (bits w 0 2 < 4) (bits w 5 3 ∈ ([0,1,2,3,4,5] : List Nat) ∧ bits w 2 3 ∈ ([0,1,2,3,4,5] : List Nat)) ((RK.k32).codeOkB (bits w 40 8) ∧ (RK.k64).codeOkB (bits w 32 8)) fun h => .atomMaxZ32 h (Reg.ofCode (bits w 40 8)) (MOp.ofWord w)
  | 0x129 => decX w (bits w 0 2 < 4) (bits w 5 3 ∈ ([0,1,2,3,4,5] : List Nat) ∧ bits w 2 3 ∈ ([0,1,2,3,4,5] : List Nat)) ((RK.k32).codeOkB (bits w 40 8) ∧ (RK.k64).codeOkB (bits w 32 8)) fun h => .atomAndB32 h (Reg.ofCode (bits w 40 8)) (MOp.ofWord w)
  | 0x12A => decX w (bits w 0 2 < 4) (bits w 5 3 ∈ ([0,1,2,3,4,5] : List Nat) ∧ bits w 2 3 ∈ ([0,1,2,3,4,5] : List Nat)) ((RK.k32).codeOkB (bits w 40 8) ∧ (RK.k64).codeOkB (bits w 32 8)) fun h => .atomOrB32 h (Reg.ofCode (bits w 40 8)) (MOp.ofWord w)
  | 0x12B => decX w (bits w 0 2 < 4) (bits w 5 3 ∈ ([0,1,2,3,4,5] : List Nat) ∧ bits w 2 3 ∈ ([0,1,2,3,4,5] : List Nat)) ((RK.k32).codeOkB (bits w 40 8) ∧ (RK.k64).codeOkB (bits w 32 8)) fun h => .atomXorB32 h (Reg.ofCode (bits w 40 8)) (MOp.ofWord w)
  | 0x12C => decX w (bits w 0 2 < 4) (bits w 5 3 ∈ ([0,1,2,3,4,5] : List Nat) ∧ bits w 2 3 ∈ ([0,1,2,3,4,5] : List Nat)) ((RK.k32).codeOkB (bits w 40 8) ∧ (RK.k64).codeOkB (bits w 32 8)) fun h => .atomExchB32 h (Reg.ofCode (bits w 40 8)) (MOp.ofWord w)
  | 0x12D => decX w (bits w 0 2 < 4) (bits w 5 3 ∈ ([0,1,2,3,4,5] : List Nat) ∧ bits w 2 3 ∈ ([0,1,2,3,4,5] : List Nat)) ((RK.k64).codeOkB (bits w 40 8) ∧ (RK.k64).codeOkB (bits w 32 8)) fun h => .atomExchB64 h (Reg.ofCode (bits w 40 8)) (MOp.ofWord w)
  | 0x12E => decX w (bits w 0 2 < 4) (bits w 5 3 ∈ ([0,1,2,3,4,5] : List Nat) ∧ bits w 2 3 ∈ ([0,1,2,3,4,5] : List Nat)) ((RK.kc2).codeOkB (bits w 40 8) ∧ (RK.k64).codeOkB (bits w 32 8)) fun h => .casB32 h (Reg.ofCode (bits w 40 8)) (MOp.ofWord w)
  | 0x12F => decX w (bits w 0 2 < 4) (bits w 5 3 ∈ ([0,1,2,3,4,5] : List Nat) ∧ bits w 2 3 ∈ ([0,1,2,3,4,5] : List Nat)) ((RK.kc4).codeOkB (bits w 40 8) ∧ (RK.k64).codeOkB (bits w 32 8)) fun h => .casB64 h (Reg.ofCode (bits w 40 8)) (MOp.ofWord w)
  | 0x130 => decX w (bits w 0 2 < 4) (bits w 5 3 ∈ ([0,1,2,3,4,5] : List Nat) ∧ bits w 2 3 ∈ ([0,1,2,3,4,5] : List Nat)) ((RK.kc8).codeOkB (bits w 40 8) ∧ (RK.k64).codeOkB (bits w 32 8)) fun h => .casB128 h (Reg.ofCode (bits w 40 8)) (MOp.ofWord w)
  | 0x131 => decX w True (bits w 5 3 ∈ ([0,1,2,3,4,5] : List Nat) ∧ bits w 2 3 ∈ ([0,1,3] : List Nat) ∧ (RedOp.ofCode32 (bits w 28 4)).isSome) ((RK.k32).codeOkB (bits w 40 8) ∧ RK.k64.codeOkB (bits w 32 8)) fun h => .redB32 h ((RedOp.ofCode32 (bits w 28 4)).getD .add) (Reg.ofCode (bits w 40 8)) (MOp.ofRedWord w)
  | 0x132 => decX w True (bits w 5 3 ∈ ([0,1,2,3,4,5] : List Nat) ∧ bits w 2 3 ∈ ([0,1,3] : List Nat) ∧ (RedOp.ofCode64 (bits w 28 4)).isSome) ((RK.k64).codeOkB (bits w 40 8) ∧ RK.k64.codeOkB (bits w 32 8)) fun h => .redB64 h ((RedOp.ofCode64 (bits w 28 4)).getD .add) (Reg.ofCode (bits w 40 8)) (MOp.ofRedWord w)
  | 0x133 => decX w (bits w 0 2 < 1) (bits w 5 3 ∈ ([1,2] : List Nat) ∧ bits w 2 3 ∈ ([0,1,2,3,4,5] : List Nat)) ((RK.k32).codeOkB (bits w 40 8) ∧ (RK.k32).codeOkB (bits w 32 8)) fun h => .atomsAddB32 h (Reg.ofCode (bits w 40 8)) (MOp.ofWord w)
  | 0x134 => decX w (bits w 0 2 < 1) (bits w 5 3 ∈ ([1,2] : List Nat) ∧ bits w 2 3 ∈ ([0,1,2,3,4,5] : List Nat)) ((RK.kc2).codeOkB (bits w 40 8) ∧ (RK.k32).codeOkB (bits w 32 8)) fun h => .atomsCasB32 h (Reg.ofCode (bits w 40 8)) (MOp.ofWord w)
  | 0x135 => decX w (bits w 0 2 < 1) (bits w 5 3 ∈ ([1,2] : List Nat) ∧ bits w 2 3 ∈ ([0,1,2,3,4,5] : List Nat)) ((RK.k32).codeOkB (bits w 40 8) ∧ (RK.k32).codeOkB (bits w 32 8)) fun h => .atomsFaddF32 h (Reg.ofCode (bits w 40 8)) (MOp.ofWord w)
  | 0x136 => decX w (bits w 0 2 < 1) (bits w 5 3 ∈ ([0,1,2,3,4,5] : List Nat) ∧ bits w 2 3 ∈ ([0,4] : List Nat)) ((RK.k32).codeOkB (bits w 40 8) ∧ (RK.k64).codeOkB (bits w 32 8)) fun h => .mcas h (Reg.ofCode (bits w 40 8)) (MOp.ofWord w)
  | 0x137 => decX w (bits w 8 40 = 0 ∧ bits w 1 1 = 0) (bits w 5 3 < 6 ∧ 2 ≤ bits w 2 3 ∧ bits w 2 3 < 6) True fun h => .fence h (Scope.ofCode (bits w 5 3)) (Ord.ofCode (bits w 2 3)) (bits w 0 1 == 1)
  | 0x138 => decX w (bits w 43 5 = 0 ∧ bits w 0 2 = 0) (bits w 5 3 < 6 ∧ bits w 2 3 = 0 ∧ bits w 40 2 < 2) (RK.k64.codeOkB (bits w 32 8)) fun h => .cctl h (bits w 40 1 == 1) (bits w 42 1 == 1) (MOp.ofWord w)
  | 0x139 => decX w (bits w 40 8 = 0 ∧ bits w 0 2 < 4) (bits w 5 3 ∈ ([1] : List Nat) ∧ bits w 2 3 ∈ ([0] : List Nat)) ((RK.k64).codeOkB (bits w 32 8)) fun h => .pref h (MOp.ofWord w)
  | 0x13A => let mw := (MovW.ofCode (bits w 3 2)); decR w ⟨none, some (mw.rkV), none, none, false⟩ (bits w 0 3 + bits w 3 2 * 8) (decide (bits w 3 2 < 3)) fun h _ a _ _ => .ptst h (fin8 (bits w 0 3)) mw a
  | 0x13B => let mw := (MovW.ofCode (bits w 3 2)); decR w ⟨none, some (mw.rkV), none, none, false⟩ (bits w 3 2 * 8) (decide (bits w 3 2 < 3)) fun h _ a _ _ => .pclr h mw a
  | _ => .error .unallocated

/-- The words of one group of the opcode map (R74), by opcode. -/
noncomputable def decodeEngine (op w : Nat) : Except DecodeErr Instr :=
  match op with
  | 0x140 => (decX w (bits w 40 4 = 0 ∧ bits w 3 29 = 0) True (RK.kc16.codeOkB (bits w 32 8)) fun h => .push h (fin3 (bits w 44 4)) (Reg.ofCode (bits w 32 8)) (fin8 (bits w 0 3))).bind fun i => if bits w 44 4 < 3 then .ok i else .error .pushQueue
  | 0x141 => decX w (bits w 16 16 = 0 ∧ bits w 5 1 = 0 ∧ bits w 0 4 = 0) True (RK.kds.codeOkB (bits w 40 8) ∧ RK.kds.codeOkB (bits w 32 8)) fun h => .mmaF64 h (Reg.ofCode (bits w 40 8)) (Reg.ofCode (bits w 32 8)) (fin512 (bits w 7 9)) (bits w 6 1 == 1) (bits w 4 1 == 1)
  | 0x142 => decX w (bits w 16 16 = 0 ∧ bits w 5 1 = 0 ∧ bits w 0 4 = 0) True (RK.kds.codeOkB (bits w 40 8) ∧ RK.kds.codeOkB (bits w 32 8)) fun h => .mmaF32 h (Reg.ofCode (bits w 40 8)) (Reg.ofCode (bits w 32 8)) (fin512 (bits w 7 9)) (bits w 6 1 == 1) (bits w 4 1 == 1)
  | 0x143 => decX w (bits w 16 16 = 0 ∧ bits w 5 1 = 0 ∧ bits w 0 4 = 0) True (RK.kds.codeOkB (bits w 40 8) ∧ RK.kds.codeOkB (bits w 32 8)) fun h => .mmaBf16 h (Reg.ofCode (bits w 40 8)) (Reg.ofCode (bits w 32 8)) (fin512 (bits w 7 9)) (bits w 6 1 == 1) (bits w 4 1 == 1)
  | 0x144 => decX w (bits w 16 16 = 0 ∧ bits w 5 1 = 0 ∧ bits w 0 4 = 0) True (RK.kds.codeOkB (bits w 40 8) ∧ RK.kds.codeOkB (bits w 32 8)) fun h => .mmaF16 h (Reg.ofCode (bits w 40 8)) (Reg.ofCode (bits w 32 8)) (fin512 (bits w 7 9)) (bits w 6 1 == 1) (bits w 4 1 == 1)
  | 0x145 => decX w (bits w 0 4 = 0) (True) (RK.kds.codeOkB (bits w 40 8) ∧ RK.kds.codeOkB (bits w 32 8) ∧ RK.kv.codeOkB (bits w 24 8) ∧ RK.kv.codeOkB (bits w 16 8)) fun h => .mmaE4m3 h (Reg.ofCode (bits w 40 8)) (Reg.ofCode (bits w 32 8)) (Reg.ofCode (bits w 24 8)) (Reg.ofCode (bits w 16 8)) (fin512 (bits w 7 9)) (bits w 6 1 == 1) (bits w 5 1 == 1) (bits w 4 1 == 1)
  | 0x146 => decX w (bits w 0 4 = 0) (True) (RK.kds.codeOkB (bits w 40 8) ∧ RK.kds.codeOkB (bits w 32 8) ∧ RK.kv.codeOkB (bits w 24 8) ∧ RK.kv.codeOkB (bits w 16 8)) fun h => .mmaE5m2 h (Reg.ofCode (bits w 40 8)) (Reg.ofCode (bits w 32 8)) (Reg.ofCode (bits w 24 8)) (Reg.ofCode (bits w 16 8)) (fin512 (bits w 7 9)) (bits w 6 1 == 1) (bits w 5 1 == 1) (bits w 4 1 == 1)
  | 0x147 => decX w (bits w 0 4 = 0) (bits w 5 1 = 0) (RK.kds.codeOkB (bits w 40 8) ∧ RK.kds.codeOkB (bits w 32 8) ∧ RK.kv.codeOkB (bits w 24 8) ∧ RK.kv.codeOkB (bits w 16 8)) fun h => .mmaE2m1 h (Reg.ofCode (bits w 40 8)) (Reg.ofCode (bits w 32 8)) (Reg.ofCode (bits w 24 8)) (Reg.ofCode (bits w 16 8)) (fin512 (bits w 7 9)) (bits w 6 1 == 1) (bits w 4 1 == 1)
  | 0x148 => decX w (bits w 0 4 = 0) (bits w 5 1 = 0) (RK.kds.codeOkB (bits w 40 8) ∧ RK.kds.codeOkB (bits w 32 8) ∧ RK.kv.codeOkB (bits w 24 8) ∧ RK.kv.codeOkB (bits w 16 8)) fun h => .mmaBx8 h (Reg.ofCode (bits w 40 8)) (Reg.ofCode (bits w 32 8)) (Reg.ofCode (bits w 24 8)) (Reg.ofCode (bits w 16 8)) (fin512 (bits w 7 9)) (bits w 6 1 == 1) (bits w 4 1 == 1)
  | 0x149 => decX w (bits w 0 4 = 0) (bits w 5 1 = 0) (RK.kds.codeOkB (bits w 40 8) ∧ RK.kds.codeOkB (bits w 32 8) ∧ RK.kv.codeOkB (bits w 24 8) ∧ RK.kv.codeOkB (bits w 16 8)) fun h => .mmaBx4 h (Reg.ofCode (bits w 40 8)) (Reg.ofCode (bits w 32 8)) (Reg.ofCode (bits w 24 8)) (Reg.ofCode (bits w 16 8)) (fin512 (bits w 7 9)) (bits w 6 1 == 1) (bits w 4 1 == 1)
  | 0x14A => decX w (bits w 16 16 = 0 ∧ bits w 5 1 = 0 ∧ bits w 0 4 = 0) True (RK.kds.codeOkB (bits w 40 8) ∧ RK.kds.codeOkB (bits w 32 8)) fun h => .mmaS8 h (Reg.ofCode (bits w 40 8)) (Reg.ofCode (bits w 32 8)) (fin512 (bits w 7 9)) (bits w 6 1 == 1) (bits w 4 1 == 1)
  | 0x14B => decX w (bits w 16 16 = 0 ∧ bits w 5 1 = 0 ∧ bits w 0 4 = 0) True (RK.kds.codeOkB (bits w 40 8) ∧ RK.kds.codeOkB (bits w 32 8)) fun h => .mmaS4 h (Reg.ofCode (bits w 40 8)) (Reg.ofCode (bits w 32 8)) (fin512 (bits w 7 9)) (bits w 6 1 == 1) (bits w 4 1 == 1)
  | 0x14C => decX w (bits w 16 32 = 0 ∧ bits w 0 6 = 0) True True fun h => .mzero h (fin512 (bits w 7 9)) (bits w 6 1 == 1)
  | 0x14D => decX w (bits w 32 4 = 0 ∧ bits w 16 16 = 0 ∧ bits w 0 7 = 0) True ((RK.kd16).codeOkB (bits w 40 8)) fun h => .mdrainF32 h (Reg.ofCode (bits w 40 8)) (fin512 (bits w 7 9)) (fin16 (bits w 36 4))
  | 0x14E => decX w (bits w 32 4 = 0 ∧ bits w 16 16 = 0 ∧ bits w 0 7 = 0) True ((RK.kd32).codeOkB (bits w 40 8)) fun h => .mdrainF64 h (Reg.ofCode (bits w 40 8)) (fin512 (bits w 7 9)) (fin16 (bits w 36 4))
  | 0x14F => decX w (bits w 32 4 = 0 ∧ bits w 16 16 = 0 ∧ bits w 0 7 = 0) True ((RK.kd8).codeOkB (bits w 40 8)) fun h => .mdrainBf16 h (Reg.ofCode (bits w 40 8)) (fin512 (bits w 7 9)) (fin16 (bits w 36 4))
  | 0x150 => decX w (bits w 32 4 = 0 ∧ bits w 16 16 = 0 ∧ bits w 0 7 = 0) True ((RK.kd8).codeOkB (bits w 40 8)) fun h => .mdrainF16 h (Reg.ofCode (bits w 40 8)) (fin512 (bits w 7 9)) (fin16 (bits w 36 4))
  | 0x151 => decX w (bits w 16 24 = 0 ∧ bits w 0 6 = 0) True (RK.ks.codeOkB (bits w 40 8)) fun h => .mload h (Reg.ofCode (bits w 40 8)) (fin512 (bits w 7 9)) (bits w 6 1 == 1)
  | 0x152 => decX w (bits w 16 16 = 0 ∧ bits w 0 6 = 0) True (RK.ks.codeOkB (bits w 40 8) ∧ RK.ks.codeOkB (bits w 32 8)) fun h => .mstore h (Reg.ofCode (bits w 40 8)) (Reg.ofCode (bits w 32 8)) (fin512 (bits w 7 9)) (bits w 6 1 == 1)
  | 0x153 => decX w (bits w 32 16 = 0 ∧ bits w 16 8 = 0 ∧ bits w 0 6 = 0) True (RK.kv.codeOkB (bits w 24 8)) fun h => .mscl h (Reg.ofCode (bits w 24 8)) (fin512 (bits w 7 9)) (bits w 6 1 == 1)
  | 0x154 => decX w (bits w 24 24 = 0 ∧ bits w 0 6 = 0) True (RK.kv.codeOkB (bits w 16 8)) fun h => .maddc h (Reg.ofCode (bits w 16 8)) (fin512 (bits w 7 9)) (bits w 6 1 == 1)
  | 0x155 => decX w (bits w 41 7 = 0 ∧ bits w 16 16 = 0 ∧ bits w 0 6 = 0) True True fun h => .mcopy h (fin512 (bits w 7 9)) (fin512 (bits w 32 9)) (bits w 6 1 == 1)
  | 0x156 => decX w (bits w 16 24 = 0 ∧ bits w 0 6 = 0) True (RK.kv.codeOkB (bits w 40 8)) fun h => .mstat h (Reg.ofCode (bits w 40 8)) (fin512 (bits w 7 9)) (bits w 6 1 == 1)
  | _ => .error .unallocated

/-- The words of one group of the opcode map (R75), by opcode. -/
noncomputable def decodeGfx (op w : Nat) : Except DecodeErr Instr :=
  match op with
  | 0x180 => let w64 := (bits w 0 1 == 1); decR w ⟨some (RK.kw w64), some (RK.k32), some (RK.k32), none, false⟩ (bits w 0 1) (true) fun h d a b _ => .sldP h w64 d a (regOf b)
  | 0x181 => decR w ⟨some (RK.k128), some (RK.k32), some (RK.k32), none, false⟩ (0) (true) fun h d a b _ => .sldQ h d a (regOf b)
  | 0x182 => decR w ⟨some (RK.k128), some (RK.k32), some (RK.k32), none, false⟩ (0) (true) fun h d a b _ => .sldB h d a (regOf b)
  | 0x183 => decR w ⟨some (RK.k32), some (RK.k32), some (RK.k32), some (RK.k32), false⟩ (bits w 0 3) (true) fun h d a b c => .sldD h (fin8 (bits w 0 3)) d a (regOf b) c
  | 0x184 => let w64 := (bits w 0 1 == 1); decR w ⟨none, some (RK.k32), some (RK.k32), some (RK.kw w64), false⟩ (bits w 0 1) (true) fun h _ a b c => .sstP h w64 a (regOf b) c
  | 0x185 => decR w ⟨none, some (RK.k32), some (RK.k32), some (RK.k128), false⟩ (0) (true) fun h _ a b c => .sstQ h a (regOf b) c
  | 0x186 => decR w ⟨none, some (RK.k32), some (RK.k32), some (RK.k128), false⟩ (0) (true) fun h _ a b c => .sstB h a (regOf b) c
  | 0x187 => let w64 := (bits w 0 1 == 1); decR w ⟨none, some (RK.k32), some (RK.k32), some (RK.kw w64), false⟩ (bits w 0 1 + bits w 1 4 * 2) (true) fun h _ a b c => .sstM h w64 (fin16 (bits w 1 4)) a (regOf b) c
  | 0x188 => decR w ⟨none, some (RK.k32), some (RK.k32), some (RK.k32), false⟩ (bits w 0 4 + bits w 4 2 * 16) (true) fun h _ a b c => .scoef h (fin16 (bits w 0 4)) (fin4 (bits w 4 2)) a (regOf b) c
  | 0x189 => decR w ⟨none, some (RK.k32), some (RK.k32), some (RK.k128), false⟩ (bits w 0 2 + bits w 4 2 * 16) (true) fun h _ a b c => .scoefB h (fin4 (bits w 0 2)) (fin4 (bits w 4 2)) a (regOf b) c
  | 0x18A => decR w ⟨none, some (RK.k32), some (RK.k32), some (RK.k32), false⟩ (0) (true) fun h _ a b c => .smv h a (regOf b) c
  | 0x18B => decR w ⟨none, some (RK.k32), some (RK.k32), none, false⟩ (bits w 0 2) (true) fun h _ a b _ => .sref h (fin4 (bits w 0 2)) a (regOf b)
  | 0x18C => decR w ⟨none, some (RK.k32), some (RK.k32), some (RK.k32), false⟩ (0) (true) fun h _ a b c => .srate h a (regOf b) c
  | 0x18D => let w64 := (bits w 0 1 == 1); decR w ⟨none, some (RK.k32), some (RK.k32), some (RK.kw w64), false⟩ (bits w 0 1) (true) fun h _ a b c => .sanchor h w64 a (regOf b) c
  | 0x18E => decR w ⟨some (RK.k32), some (RK.k32), some (RK.k32), none, false⟩ (bits w 0 3) (decide (bits w 0 3 < 6)) fun h d a b _ => .sqry h (fin6 (bits w 0 3)) d a (regOf b)
  | 0x18F => decR w ⟨none, some (RK.k32), none, none, false⟩ (0) (true) fun h _ a _ _ => .sflush h a
  | 0x190 => decR w ⟨none, some (RK.k32), none, none, false⟩ (0) (true) fun h _ a _ _ => .srel h a
  | 0x191 => decR w ⟨some (RK.k128), some (RK.k128), some (RK.k128), none, false⟩ (bits w 0 3) (true) fun h d a b _ => .trix h (fin8 (bits w 0 3)) d a (regOf b)
  | 0x192 => decR w ⟨some (RK.k64), some (RK.k128), some (RK.k128), some (RK.k32), false⟩ (bits w 0 3) (true) fun h d a b c => .trixD h (fin8 (bits w 0 3)) d a (regOf b) c
  | 0x193 => decR w ⟨some (RK.k32), some (RK.k128), some (RK.k128), none, false⟩ ((FMods.ofWord ⟨true, true, false, false, false, false⟩ w).code) (true) fun h d a b _ => .triw h (FMods.ofWord ⟨true, true, false, false, false, false⟩ w) d a (regOf b)
  | 0x194 => decR w ⟨some (RK.k32), some (RK.k128), some (RK.kspan18), some (RK.kspan8), false⟩ (bits w 0 3 + bits w 3 3 * 8) (true) fun h d a b c => .box12 h (fin8 (bits w 0 3)) (fin8 (bits w 3 3)) d a (regOf b) c
  | 0x195 => decR w ⟨some (RK.k128), some (RK.k128), some (RK.kspan18), some (RK.kspan8), false⟩ (bits w 0 1 + bits w 3 3 * 8) (true) fun h d a b c => .box12x4 h (bits w 0 1 == 1) (fin8 (bits w 3 3)) d a (regOf b) c
  | 0x196 => decR w ⟨some (RK.k64), some (RK.k128), some (RK.k32), none, false⟩ (bits w 0 3 + bits w 3 3 * 8) (true) fun h d a b _ => .nodex h (fin8 (bits w 0 3)) (fin8 (bits w 3 3)) d a (regOf b)
  | _ => .error .unallocated

/-- The words of one group of the opcode map (R76), by opcode. -/
noncomputable def decodeSys (op w : Nat) : Except DecodeErr Instr :=
  match op with
  | 0x1C0 => decX w (bits w 40 8 = 0 ∧ bits w 0 8 = 0) True True fun h => .trap h (BitVec.ofNat 32 (bits w 8 32))
  | 0x1C1 => decX w (bits w 40 8 = 0 ∧ bits w 0 8 = 0) True True fun h => .brk h (BitVec.ofNat 32 (bits w 8 32))
  | 0x1C2 => decR w ⟨none, some (RK.k64), some (RK.k32), none, true⟩ (bits w 0 1) (true) fun h _ a b _ => .rte h (bits w 0 1 == 1) a b
  | 0x1C3 => decR w ⟨none, some (RK.k64), some (RK.k32), none, true⟩ (bits w 0 1) (true) fun h _ a b _ => .rteStep h (bits w 0 1 == 1) a b
  | 0x1C4 => decX w (bits w 0 24 = 0) ((SReg.info (bits w 24 16)).isSome) (SReg.okCodeB (bits w 24 16) (bits w 40 8)) fun h => .sysr h (Reg.ofCode (bits w 40 8)) (BitVec.ofNat 16 (bits w 24 16))
  | 0x1C5 => decX w (bits w 0 24 = 0) ((SReg.info (bits w 24 16)).isSome) (SReg.okCodeB (bits w 24 16) (bits w 40 8)) fun h => .sysw h (Reg.ofCode (bits w 40 8)) (BitVec.ofNat 16 (bits w 24 16))
  | 0x1C6 => decR w ⟨none, some (RK.k64), some (RK.k32), none, true⟩ (0) (true) fun h _ a b _ => .iinv h a b
  | 0x1C7 => decR w ⟨some (RK.k64), none, none, none, false⟩ (0) (true) fun h d _ _ _ => .time h d
  | 0x1C8 => decR w ⟨none, some (RK.k64), some (RK.k32), some (RK.k32), true⟩ (0) (true) fun h _ a b c => .dbgmb h a b c
  | 0x1C9 => decR w ⟨none, some (RK.k64), some (RK.k32), none, true⟩ (0) (true) fun h _ a b _ => .suspend h a b
  | 0x1CA => decR w ⟨none, some (RK.k64), some (RK.k32), none, true⟩ (0) (true) fun h _ a b _ => .resume h a b
  | 0x1CB => let ctx := (bits w 0 1 == 1); if ctx then decR w ⟨none, none, none, none, false⟩ (bits w 0 1) true fun h _ _ _ _ => .killcrew h true .z (.reg .z) else decR w ⟨none, some RK.k64, some RK.k32, none, true⟩ (bits w 0 1) true fun h _ a b _ => .killcrew h false a b
  | 0x1CC => decR w ⟨some (RK.kc16), none, none, none, false⟩ (bits w 0 3) (true) fun h d _ _ _ => .trec h (fin8 (bits w 0 3)) d
  | 0x1CD => decR w ⟨none, some (RK.k64), none, none, false⟩ (bits w 0 1) (true) fun h _ a _ _ => .jrnl h (bits w 0 1 == 1) a
  | 0x1CE => decR w ⟨none, some (RK.k64), some (RK.k32), none, false⟩ ((if bits w 2 1 = 1 then 0 else bits w 0 2) + bits w 2 1 * 4) (true) fun h _ a b _ => .wdog h (fin4 (bits w 0 2)) (bits w 2 1 == 1) a (regOf b)
  | 0x1CF => decR w ⟨none, none, some (RK.k32), none, true⟩ (0) (true) fun h _ _ b _ => .irq h b
  | 0x1D0 => decR w ⟨some (RK.k64), none, some (RK.k32), none, true⟩ (0) (true) fun h d _ b _ => .perfr h d b
  | 0x1D1 => decR w ⟨none, some (RK.k64), some (RK.k32), none, false⟩ (0) (true) fun h _ a b _ => .errinj h a (regOf b)
  | 0x1D2 => decR w ⟨none, none, none, none, false⟩ (0) (true) fun h _ _ _ _ => .halt h
  | _ => .error .unallocated

/-- R78 up to its operand checks: a DC field of 7, the opcode, then the word's own fields. An unallocated opcode
is an instruction of its own here, since reaching it has an effect (it raises UNDEF in every thread, R67).
Lean's compiler has no code for a value of a constructor numbered above 244, so what builds any Instr is marked
noncomputable; the kernel evaluates it like any other definition. -/
noncomputable def decode (w : Nat) : Except DecodeErr Instr :=
  let op := bits w 55 9
  if bits w 48 3 = 7 then .error .dc7
  else if allocated op = false then .ok (.unallocatedOpcode (fin512 op))
  else if op < 0x40 then decodeInt op w
  else if op < 0x80 then decodeFloat op w
  else if op < 0xC0 then decodeCrew op w
  else if op < 0x100 then decodeSync op w
  else if op < 0x140 then decodeMem op w
  else if op < 0x180 then decodeEngine op w
  else if op < 0x1C0 then decodeGfx op w
  else decodeSys op w

/-- The word of an instruction, from the encodings of the same entries (R54 to R60, R319). An event row has no word. -/
def encode : Instr → Nat
  | .addB32 h d a b => encR 0x000 h d.code a.code b 0 (0)
  | .addB64 h d a b => encR 0x001 h d.code a.code b 0 (0)
  | .add3B32 h d a b c => encR 0x002 h d.code a.code (.reg b) c.code (0)
  | .addcB32 h pci pco cneg d a b => encR 0x003 h d.code a.code b 0 (pci.val + pco.val * 8 + cneg.toNat * 64)
  | .addsS32 h d a b => encR 0x004 h d.code a.code b 0 (0)
  | .subB32 h d a b => encR 0x005 h d.code a.code b 0 (0)
  | .subB64 h d a b => encR 0x006 h d.code a.code b 0 (0)
  | .subcB32 h pci pco cneg d a b => encR 0x007 h d.code a.code b 0 (pci.val + pco.val * 8 + cneg.toNat * 64)
  | .subsS32 h d a b => encR 0x008 h d.code a.code b 0 (0)
  | .mulB32 h d a b => encR 0x009 h d.code a.code b 0 (0)
  | .mulB64 h d a b => encR 0x00A h d.code a.code b 0 (0)
  | .mulhS32 h d a b => encR 0x00B h d.code a.code b 0 (0)
  | .mulhZ32 h d a b => encR 0x00C h d.code a.code b 0 (0)
  | .madB32 h d a b c => encR 0x00D h d.code a.code (.reg b) c.code (0)
  | .madwS32 h d a b c => encR 0x00E h d.code a.code (.reg b) c.code (0)
  | .madwZ32 h d a b c => encR 0x00F h d.code a.code (.reg b) c.code (0)
  | .divS32 h d a b => encR 0x010 h d.code a.code b 0 (0)
  | .divZ32 h d a b => encR 0x011 h d.code a.code b 0 (0)
  | .divS64 h d a b => encR 0x012 h d.code a.code b 0 (0)
  | .divZ64 h d a b => encR 0x013 h d.code a.code b 0 (0)
  | .remS32 h d a b => encR 0x014 h d.code a.code b 0 (0)
  | .remZ32 h d a b => encR 0x015 h d.code a.code b 0 (0)
  | .minS32 h d a b => encR 0x016 h d.code a.code b 0 (0)
  | .minZ32 h d a b => encR 0x017 h d.code a.code b 0 (0)
  | .maxS32 h d a b => encR 0x018 h d.code a.code b 0 (0)
  | .maxZ32 h d a b => encR 0x019 h d.code a.code b 0 (0)
  | .clampS32 h d a b c => encR 0x01A h d.code a.code (.reg b) c.code (0)
  | .clampZ32 h d a b c => encR 0x01B h d.code a.code (.reg b) c.code (0)
  | .absS32 h sat d a => encR 0x01C h d.code a.code (.reg (.v 0)) 0 (sat.toNat * 2048)
  | .negS32 h sat d a => encR 0x01D h d.code a.code (.reg (.v 0)) 0 (sat.toNat * 2048)
  | .andB h d a b => encR 0x01E h d.code a.code b 0 (0)
  | .orB h d a b => encR 0x01F h d.code a.code b 0 (0)
  | .xorB h d a b => encR 0x020 h d.code a.code b 0 (0)
  | .andn h d a b => encR 0x021 h d.code a.code b 0 (0)
  | .notB h d a => encR 0x022 h d.code a.code (.reg (.v 0)) 0 (0)
  | .shlB32 h d a b => encR 0x023 h d.code a.code b 0 (0)
  | .shlB64 h d a b => encR 0x024 h d.code a.code b 0 (0)
  | .shrB32 h d a b => encR 0x025 h d.code a.code b 0 (0)
  | .shrB64 h d a b => encR 0x026 h d.code a.code b 0 (0)
  | .sarB32 h d a b => encR 0x027 h d.code a.code b 0 (0)
  | .sarB64 h d a b => encR 0x028 h d.code a.code b 0 (0)
  | .rotB32 h right d a b => encR 0x029 h d.code a.code b 0 (right.toNat)
  | .fsh h right d a b c => encR 0x02A h d.code a.code (.reg b) c.code (right.toNat)
  | .bfxS32 h d a b => encR 0x02B h d.code a.code b 0 (0)
  | .bfxZ32 h d a b => encR 0x02C h d.code a.code b 0 (0)
  | .bfi h d a b c => encR 0x02D h d.code a.code (.reg b) c.code (0)
  | .bmsk h d b => encR 0x02E h d.code 0 b 0 (0)
  | .popc h d a => encR 0x02F h d.code a.code (.reg (.v 0)) 0 (0)
  | .clz h d a => encR 0x030 h d.code a.code (.reg (.v 0)) 0 (0)
  | .brev h d a => encR 0x031 h d.code a.code (.reg (.v 0)) 0 (0)
  | .bswz h d a b c => encR 0x032 h d.code a.code (.reg b) c.code (0)
  | .sel h pc pneg d a b => encR 0x033 h d.code a.code b 0 (pc.val + pneg.toNat * 8)
  | .icmpS32 h cmp pd d a b => encR 0x034 h d.code a.code b 0 (cmp.code + pd.val * 8)
  | .icmpZ32 h cmp pd d a b => encR 0x035 h d.code a.code b 0 (cmp.code + pd.val * 8)
  | .icmpS64 h cmp pd d a b => encR 0x036 h d.code a.code b 0 (cmp.code + pd.val * 8)
  | .icmpZ64 h cmp pd d a b => encR 0x037 h d.code a.code b 0 (cmp.code + pd.val * 8)
  | .idot4S8 h sat d a b c => encR 0x038 h d.code a.code (.reg b) c.code (sat.toNat * 2048)
  | .idot4Z8 h sat d a b c => encR 0x039 h d.code a.code (.reg b) c.code (sat.toNat * 2048)
  | .sad h d a b c => encR 0x03A h d.code a.code (.reg b) c.code (0)
  | .lea h sh zx d a b => encR 0x03B h d.code a.code b 0 (sh.val + zx.toNat * 8)
  | .mov h mw d a => encR 0x03C h d.code a.code (.reg (.v 0)) 0 (mw.code)
  | .movi h md d imm => encX 0x03D h (d.code * 1099511627776 + imm.toNat * 256 + md.code)
  | .movs h d r => encX 0x03E h (d.code * 1099511627776 + r.code * 256)
  | .plop h pd pa pb pc lut => encX 0x03F h (pd.val * 1099511627776 + pa.val * 4294967296 + pb.val * 16777216 + pc.val * 65536 + lut.toNat)
  | .faddF32 h m d a b => encR 0x040 h d.code a.code b 0 (m.code)
  | .faddF64 h m d a b => encR 0x041 h d.code a.code b 0 (m.code)
  | .faddF16x2 h m d a b => encR 0x042 h d.code a.code b 0 (m.code)
  | .faddBf16x2 h m d a b => encR 0x043 h d.code a.code b 0 (m.code)
  | .fmulF32 h m d a b => encR 0x044 h d.code a.code b 0 (m.code)
  | .fmulF64 h m d a b => encR 0x045 h d.code a.code b 0 (m.code)
  | .fmulF16x2 h m d a b => encR 0x046 h d.code a.code b 0 (m.code)
  | .fmulBf16x2 h m d a b => encR 0x047 h d.code a.code b 0 (m.code)
  | .ffmaF32 h m d a b c => encR 0x048 h d.code a.code (.reg b) c.code (m.code)
  | .ffmaF64 h m d a b c => encR 0x049 h d.code a.code (.reg b) c.code (m.code)
  | .ffmaF16x2 h m d a b c => encR 0x04A h d.code a.code (.reg b) c.code (m.code)
  | .ffmaBf16x2 h m d a b c => encR 0x04B h d.code a.code (.reg b) c.code (m.code)
  | .ffmaw h m d a b c => encR 0x04C h d.code a.code (.reg b) c.code (m.code)
  | .fdivF32 h m d a b => encR 0x04D h d.code a.code b 0 (m.code)
  | .fdivF64 h m d a b => encR 0x04E h d.code a.code b 0 (m.code)
  | .fsqrtF32 h m d a => encR 0x04F h d.code a.code (.reg (.v 0)) 0 (m.code)
  | .fsqrtF64 h m d a => encR 0x050 h d.code a.code (.reg (.v 0)) 0 (m.code)
  | .fminF32 h m d a b => encR 0x051 h d.code a.code b 0 (m.code)
  | .fminF64 h m d a b => encR 0x052 h d.code a.code b 0 (m.code)
  | .fmaxF32 h m d a b => encR 0x053 h d.code a.code b 0 (m.code)
  | .fmaxF64 h m d a b => encR 0x054 h d.code a.code b 0 (m.code)
  | .fmed3F32 h m d a b c => encR 0x055 h d.code a.code (.reg b) c.code (m.code)
  | .fmed3F64 h m d a b c => encR 0x056 h d.code a.code (.reg b) c.code (m.code)
  | .fcmpF32 h cmp pd ftz d a b => encR 0x057 h d.code a.code b 0 (cmp.code + pd.val * 16 + ftz.toNat * 4096)
  | .fcmpF64 h cmp pd ftz d a b => encR 0x058 h d.code a.code b 0 (cmp.code + pd.val * 16 + ftz.toNat * 4096)
  | .fcmpF16x2 h cmp pd pd1 ftz d a b => encR 0x059 h d.code a.code b 0 (cmp.code + pd.val * 16 + pd1.val * 128 + ftz.toNat * 4096)
  | .fcmpBf16x2 h cmp pd pd1 ftz d a b => encR 0x05A h d.code a.code b 0 (cmp.code + pd.val * 16 + pd1.val * 128 + ftz.toNat * 4096)
  | .fclassF32 h pd d a b => encR 0x05B h d.code a.code b 0 (pd.val)
  | .fclassF64 h pd d a b => encR 0x05C h d.code a.code b 0 (pd.val)
  | .frndF32 h m d a => encR 0x05D h d.code a.code (.reg (.v 0)) 0 (m.code)
  | .frndF64 h m d a => encR 0x05E h d.code a.code (.reg (.v 0)) 0 (m.code)
  | .fscaleF32 h m d a b => encR 0x05F h d.code a.code b 0 (m.code)
  | .fscaleF64 h m d a b => encR 0x060 h d.code a.code b 0 (m.code)
  | .fexpF32 h ftz d a => encR 0x061 h d.code a.code (.reg (.v 0)) 0 (ftz.toNat * 4096)
  | .fexpF64 h ftz d a => encR 0x062 h d.code a.code (.reg (.v 0)) 0 (ftz.toNat * 4096)
  | .sfnF32 h fn absA negA sat ftz d a => encR 0x063 h d.code a.code (.reg (.v 0)) 0 (fn.code + absA.toNat * 8 + negA.toNat * 64 + sat.toNat * 2048 + ftz.toNat * 4096)
  | .sfnF64 h fn absA negA sat ftz d a => encR 0x064 h d.code a.code (.reg (.v 0)) 0 (fn.code + absA.toNat * 8 + negA.toNat * 64 + sat.toNat * 2048 + ftz.toNat * 4096)
  | .fdot2Bf16 h m d a b c => encR 0x065 h d.code a.code (.reg b) c.code (m.code)
  | .ftsumF64 h m d a b => encR 0x066 h d.code a.code (.reg b) 0 (m.code)
  | .crelF32 h sat ftz d a b => encR 0x067 h d.code a.code (.reg b) 0 (sat.toNat * 2048 + ftz.toNat * 4096)
  | .fcvtF32F64 h m d a => encR 0x068 h d.code a.code (.reg (.v 0)) 0 (m.code)
  | .fcvtF64F32 h m d a => encR 0x069 h d.code a.code (.reg (.v 0)) 0 (m.code)
  | .fcvtF32F16 h m hi d a => encR 0x06A h d.code a.code (.reg (.v 0)) 0 (m.code + hi.toNat)
  | .fcvtF16x2F32 h m d a b => encR 0x06B h d.code a.code (.reg b) 0 (m.code)
  | .fcvtF32Bf16 h m hi d a => encR 0x06C h d.code a.code (.reg (.v 0)) 0 (m.code + hi.toNat)
  | .fcvtBf16x2F32 h m d a b => encR 0x06D h d.code a.code (.reg b) 0 (m.code)
  | .fcvtS32F32 h m d a => encR 0x06E h d.code a.code (.reg (.v 0)) 0 (m.code)
  | .fcvtZ32F32 h m d a => encR 0x06F h d.code a.code (.reg (.v 0)) 0 (m.code)
  | .fcvtF32S32 h m d a => encR 0x070 h d.code a.code (.reg (.v 0)) 0 (m.code)
  | .fcvtF32Z32 h m d a => encR 0x071 h d.code a.code (.reg (.v 0)) 0 (m.code)
  | .fcvtS64F64 h m d a => encR 0x072 h d.code a.code (.reg (.v 0)) 0 (m.code)
  | .fcvtZ64F64 h m d a => encR 0x073 h d.code a.code (.reg (.v 0)) 0 (m.code)
  | .fcvtF64S64 h m d a => encR 0x074 h d.code a.code (.reg (.v 0)) 0 (m.code)
  | .fcvtF64Z64 h m d a => encR 0x075 h d.code a.code (.reg (.v 0)) 0 (m.code)
  | .fcvtS32F64 h m d a => encR 0x076 h d.code a.code (.reg (.v 0)) 0 (m.code)
  | .fcvtF64S32 h m d a => encR 0x077 h d.code a.code (.reg (.v 0)) 0 (m.code)
  | .bra h wofs => encX 0x080 h (wofs.toNat * 256)
  | .braCons h wofs => encX 0x081 h (wofs.toNat * 256)
  | .brx h a => encR 0x082 h 0 a.code (.reg (.v 0)) 0 (0)
  | .call h wofs => encX 0x083 h (wofs.toNat * 256)
  | .callx h a => encR 0x084 h 0 a.code (.reg (.v 0)) 0 (0)
  | .ret h => encR 0x085 h 0 0 (.reg (.v 0)) 0 (0)
  | .exit h => encR 0x086 h 0 0 (.reg (.v 0)) 0 (0)
  | .nop h => encR 0x087 h 0 0 (.reg (.v 0)) 0 (0)
  | .join h b => encR 0x088 h 0 0 b 0 (0)
  | .yield_ h => encR 0x089 h 0 0 (.reg (.v 0)) 0 (0)
  | .prio h b => encR 0x08A h 0 0 b 0 (0)
  | .dbnz h a wofs => encX 0x08B h (a.code * 1099511627776 + wofs.toNat * 256)
  | .lxchAtB32 h sw pd d a b c => encR 0x08C h d.code a.code b c.code (sw.val + pd.val * 8)
  | .lxchRotB32 h sw pd d a b c => encR 0x08D h d.code a.code b c.code (sw.val + pd.val * 8)
  | .lxchDistB32 h sw pd d a b c => encR 0x08E h d.code a.code b c.code (sw.val + pd.val * 8)
  | .lxchMirB32 h sw pd d a b c => encR 0x08F h d.code a.code b c.code (sw.val + pd.val * 8)
  | .lxchAtB64 h sw pd d a b c => encR 0x090 h d.code a.code b c.code (sw.val + pd.val * 8)
  | .lxchRotB64 h sw pd d a b c => encR 0x091 h d.code a.code b c.code (sw.val + pd.val * 8)
  | .lxchDistB64 h sw pd d a b c => encR 0x092 h d.code a.code b c.code (sw.val + pd.val * 8)
  | .lxchMirB64 h sw pd d a b c => encR 0x093 h d.code a.code b c.code (sw.val + pd.val * 8)
  | .cpqAll h pci cneg pd d c => encR 0x094 h d.code 0 (.reg (.v 0)) c.code (pci.val + cneg.toNat * 8 + pd.val * 16)
  | .cpqAny h pci cneg pd d c => encR 0x095 h d.code 0 (.reg (.v 0)) c.code (pci.val + cneg.toNat * 8 + pd.val * 16)
  | .cpqSame h pci cneg pd d c => encR 0x096 h d.code 0 (.reg (.v 0)) c.code (pci.val + cneg.toNat * 8 + pd.val * 16)
  | .cpqMask h pci cneg d c => encR 0x097 h d.code 0 (.reg (.v 0)) c.code (pci.val + cneg.toNat * 8)
  | .cpqNum h pci cneg d c => encR 0x098 h d.code 0 (.reg (.v 0)) c.code (pci.val + cneg.toNat * 8)
  | .vgrpPart h d a c => encR 0x099 h d.code a.code (.reg (.v 0)) c.code (0)
  | .vgrpUni h pd d a c => encR 0x09A h d.code a.code (.reg (.v 0)) c.code (pd.val)
  | .credAddB32 h d a c => encR 0x09B h d.code a.code (.reg (.v 0)) c.code (0)
  | .credMinS32 h d a c => encR 0x09C h d.code a.code (.reg (.v 0)) c.code (0)
  | .credMinZ32 h d a c => encR 0x09D h d.code a.code (.reg (.v 0)) c.code (0)
  | .credMaxS32 h d a c => encR 0x09E h d.code a.code (.reg (.v 0)) c.code (0)
  | .credMaxZ32 h d a c => encR 0x09F h d.code a.code (.reg (.v 0)) c.code (0)
  | .credAnd h d a c => encR 0x0A0 h d.code a.code (.reg (.v 0)) c.code (0)
  | .credOr h d a c => encR 0x0A1 h d.code a.code (.reg (.v 0)) c.code (0)
  | .credXor h d a c => encR 0x0A2 h d.code a.code (.reg (.v 0)) c.code (0)
  | .credFaddF32 h d a c => encR 0x0A3 h d.code a.code (.reg (.v 0)) c.code (0)
  | .credFminF32 h d a c => encR 0x0A4 h d.code a.code (.reg (.v 0)) c.code (0)
  | .lead h pd d c => encR 0x0A5 h d.code 0 (.reg (.v 0)) c.code (pd.val)
  | .memb h d c => encR 0x0A6 h d.code 0 (.reg (.v 0)) c.code (0)
  | .smov h d a b => encR 0x0A7 h d.code a.code b 0 (0)
  | .gang h b => encR 0x0A8 h 0 0 b 0 (0)
  | .psave h d => encR 0x0A9 h d.code 0 (.reg (.v 0)) 0 (0)
  | .pload h a => encR 0x0AA h 0 a.code (.reg (.v 0)) 0 (0)
  | .barSync h hn d b => encR 0x0C0 h d.code 0 b 0 (hn.val)
  | .barArv h hn d b => encR 0x0C1 h d.code 0 b 0 (hn.val)
  | .barArvc h hn d b => encR 0x0C2 h d.code 0 b 0 (hn.val)
  | .barWait h hn d a b => encR 0x0C3 h d.code a.code b 0 (hn.val)
  | .barTry h hn d a b => encR 0x0C4 h d.code a.code b 0 (hn.val)
  | .barLeave h hn b => encR 0x0C5 h 0 0 b 0 (hn.val)
  | .barReset h hn => encR 0x0C6 h 0 0 (.reg (.v 0)) 0 (hn.val)
  | .bbar h d b => encR 0x0C7 h d.code 0 b 0 (0)
  | .grpq h hn sel d => encR 0x0C8 h d.code 0 (.reg (.v 0)) 0 (hn.val + sel.val * 4)
  | .stginit h d m => encX 0x0C9 h (d.code * 1099511627776 + m.code)
  | .stgowe h d m => encX 0x0CA h (d.code * 1099511627776 + m.code)
  | .stgadd h d m => encX 0x0CB h (d.code * 1099511627776 + m.code)
  | .stgarv h m => encX 0x0CC h (m.code)
  | .stgtry h d m => encX 0x0CD h (d.code * 1099511627776 + m.code)
  | .stgwait h d m => encX 0x0CE h (d.code * 1099511627776 + m.code)
  | .stginval h m => encX 0x0CF h (m.code)
  | .qinit h d m => encX 0x0D0 h (d.code * 1099511627776 + m.code)
  | .qpush h d m => encX 0x0D1 h (d.code * 1099511627776 + m.code)
  | .qpushW h d m => encX 0x0D2 h (d.code * 1099511627776 + m.code)
  | .qpop h d m => encX 0x0D3 h (d.code * 1099511627776 + m.code)
  | .qpopW h d m => encX 0x0D4 h (d.code * 1099511627776 + m.code)
  | .qtrypush h d m => encX 0x0D5 h (d.code * 1099511627776 + m.code)
  | .qtrypop h d m => encX 0x0D6 h (d.code * 1099511627776 + m.code)
  | .qpeek h d m => encX 0x0D7 h (d.code * 1099511627776 + m.code)
  | .qcount h d m => encX 0x0D8 h (d.code * 1099511627776 + m.code)
  | .qbreak h m => encX 0x0D9 h (m.code)
  | .waitvAny h d a b c => encR 0x0DA h d.code a.code (.reg b) c.code (0)
  | .waitvAll h d a b c => encR 0x0DB h d.code a.code (.reg b) c.code (0)
  | .monitor h mn base ofs => encX 0x0DC h (mn.val * 1099511627776 + base.code * 4294967296 + ofs.toNat * 256)
  | .unmonitor h mask => encR 0x0DD h 0 0 (.reg (.v 0)) 0 (mask.val)
  | .montest h d => encR 0x0DE h d.code 0 (.reg (.v 0)) 0 (0)
  | .sleep h b => encR 0x0DF h 0 0 b 0 (0)
  | .ldS8 h d m => encX 0x100 h (d.code * 1099511627776 + m.code)
  | .ldZ8 h d m => encX 0x101 h (d.code * 1099511627776 + m.code)
  | .ldS16 h d m => encX 0x102 h (d.code * 1099511627776 + m.code)
  | .ldZ16 h d m => encX 0x103 h (d.code * 1099511627776 + m.code)
  | .ldB32 h d m => encX 0x104 h (d.code * 1099511627776 + m.code)
  | .ldB64 h d m => encX 0x105 h (d.code * 1099511627776 + m.code)
  | .ldB128 h d m => encX 0x106 h (d.code * 1099511627776 + m.code)
  | .stB8 h d m => encX 0x107 h (d.code * 1099511627776 + m.code)
  | .stB16 h d m => encX 0x108 h (d.code * 1099511627776 + m.code)
  | .stB32 h d m => encX 0x109 h (d.code * 1099511627776 + m.code)
  | .stB64 h d m => encX 0x10A h (d.code * 1099511627776 + m.code)
  | .stB128 h d m => encX 0x10B h (d.code * 1099511627776 + m.code)
  | .ldsS8 h d m => encX 0x10C h (d.code * 1099511627776 + m.code)
  | .ldsZ8 h d m => encX 0x10D h (d.code * 1099511627776 + m.code)
  | .ldsS16 h d m => encX 0x10E h (d.code * 1099511627776 + m.code)
  | .ldsZ16 h d m => encX 0x10F h (d.code * 1099511627776 + m.code)
  | .ldsB32 h d m => encX 0x110 h (d.code * 1099511627776 + m.code)
  | .ldsB64 h d m => encX 0x111 h (d.code * 1099511627776 + m.code)
  | .ldsB128 h d m => encX 0x112 h (d.code * 1099511627776 + m.code)
  | .stsB8 h d m => encX 0x113 h (d.code * 1099511627776 + m.code)
  | .stsB16 h d m => encX 0x114 h (d.code * 1099511627776 + m.code)
  | .stsB32 h d m => encX 0x115 h (d.code * 1099511627776 + m.code)
  | .stsB64 h d m => encX 0x116 h (d.code * 1099511627776 + m.code)
  | .stsB128 h d m => encX 0x117 h (d.code * 1099511627776 + m.code)
  | .ldxB32 h d m => encX 0x118 h (d.code * 1099511627776 + m.code)
  | .ldxB64 h d m => encX 0x119 h (d.code * 1099511627776 + m.code)
  | .ldxB128 h d m => encX 0x11A h (d.code * 1099511627776 + m.code)
  | .stxB32 h d m => encX 0x11B h (d.code * 1099511627776 + m.code)
  | .stxB64 h d m => encX 0x11C h (d.code * 1099511627776 + m.code)
  | .stxB128 h d m => encX 0x11D h (d.code * 1099511627776 + m.code)
  | .ldcB32 h d m => encX 0x11E h (d.code * 1099511627776 + m.code)
  | .ldcB64 h d m => encX 0x11F h (d.code * 1099511627776 + m.code)
  | .atomAddB32 h d m => encX 0x120 h (d.code * 1099511627776 + m.code)
  | .atomAddB64 h d m => encX 0x121 h (d.code * 1099511627776 + m.code)
  | .atomFaddF32 h d m => encX 0x122 h (d.code * 1099511627776 + m.code)
  | .atomFaddF64 h d m => encX 0x123 h (d.code * 1099511627776 + m.code)
  | .atomFaddBf16x2 h d m => encX 0x124 h (d.code * 1099511627776 + m.code)
  | .atomMinS32 h d m => encX 0x125 h (d.code * 1099511627776 + m.code)
  | .atomMinZ32 h d m => encX 0x126 h (d.code * 1099511627776 + m.code)
  | .atomMaxS32 h d m => encX 0x127 h (d.code * 1099511627776 + m.code)
  | .atomMaxZ32 h d m => encX 0x128 h (d.code * 1099511627776 + m.code)
  | .atomAndB32 h d m => encX 0x129 h (d.code * 1099511627776 + m.code)
  | .atomOrB32 h d m => encX 0x12A h (d.code * 1099511627776 + m.code)
  | .atomXorB32 h d m => encX 0x12B h (d.code * 1099511627776 + m.code)
  | .atomExchB32 h d m => encX 0x12C h (d.code * 1099511627776 + m.code)
  | .atomExchB64 h d m => encX 0x12D h (d.code * 1099511627776 + m.code)
  | .casB32 h d m => encX 0x12E h (d.code * 1099511627776 + m.code)
  | .casB64 h d m => encX 0x12F h (d.code * 1099511627776 + m.code)
  | .casB128 h d m => encX 0x130 h (d.code * 1099511627776 + m.code)
  | .redB32 h op d m => encX 0x131 h (d.code * 1099511627776 + op.code * 268435456 + m.redCode)
  | .redB64 h op d m => encX 0x132 h (d.code * 1099511627776 + op.code * 268435456 + m.redCode)
  | .atomsAddB32 h d m => encX 0x133 h (d.code * 1099511627776 + m.code)
  | .atomsCasB32 h d m => encX 0x134 h (d.code * 1099511627776 + m.code)
  | .atomsFaddF32 h d m => encX 0x135 h (d.code * 1099511627776 + m.code)
  | .mcas h d m => encX 0x136 h (d.code * 1099511627776 + m.code)
  | .fence h sc od strict => encX 0x137 h (sc.code * 32 + od.code * 4 + strict.toNat)
  | .cctl h inv pg m => encX 0x138 h (inv.toNat * 1099511627776 + pg.toNat * 4398046511104 + m.code)
  | .pref h m => encX 0x139 h (m.code)
  | .ptst h pd mw a => encR 0x13A h 0 a.code (.reg (.v 0)) 0 (pd.val + mw.code * 8)
  | .pclr h mw a => encR 0x13B h 0 a.code (.reg (.v 0)) 0 (mw.code * 8)
  | .push h q src pd => encX 0x140 h (q.val * 17592186044416 + src.code * 4294967296 + pd.val)
  | .mmaF64 h sa sb acc zs rel => encX 0x141 h (sa.code * 1099511627776 + sb.code * 4294967296 + acc.val * 128 + zs.toNat * 64 + rel.toNat * 16)
  | .mmaF32 h sa sb acc zs rel => encX 0x142 h (sa.code * 1099511627776 + sb.code * 4294967296 + acc.val * 128 + zs.toNat * 64 + rel.toNat * 16)
  | .mmaBf16 h sa sb acc zs rel => encX 0x143 h (sa.code * 1099511627776 + sb.code * 4294967296 + acc.val * 128 + zs.toNat * 64 + rel.toNat * 16)
  | .mmaF16 h sa sb acc zs rel => encX 0x144 h (sa.code * 1099511627776 + sb.code * 4294967296 + acc.val * 128 + zs.toNat * 64 + rel.toNat * 16)
  | .mmaE4m3 h sa sb vs vt acc zs sh rel => encX 0x145 h (sa.code * 1099511627776 + sb.code * 4294967296 + vs.code * 16777216 + vt.code * 65536 + acc.val * 128 + zs.toNat * 64 + sh.toNat * 32 + rel.toNat * 16)
  | .mmaE5m2 h sa sb vs vt acc zs sh rel => encX 0x146 h (sa.code * 1099511627776 + sb.code * 4294967296 + vs.code * 16777216 + vt.code * 65536 + acc.val * 128 + zs.toNat * 64 + sh.toNat * 32 + rel.toNat * 16)
  | .mmaE2m1 h sa sb vs vt acc zs rel => encX 0x147 h (sa.code * 1099511627776 + sb.code * 4294967296 + vs.code * 16777216 + vt.code * 65536 + acc.val * 128 + zs.toNat * 64 + rel.toNat * 16)
  | .mmaBx8 h sa sb vs vt acc zs rel => encX 0x148 h (sa.code * 1099511627776 + sb.code * 4294967296 + vs.code * 16777216 + vt.code * 65536 + acc.val * 128 + zs.toNat * 64 + rel.toNat * 16)
  | .mmaBx4 h sa sb vs vt acc zs rel => encX 0x149 h (sa.code * 1099511627776 + sb.code * 4294967296 + vs.code * 16777216 + vt.code * 65536 + acc.val * 128 + zs.toNat * 64 + rel.toNat * 16)
  | .mmaS8 h sa sb acc zs rel => encX 0x14A h (sa.code * 1099511627776 + sb.code * 4294967296 + acc.val * 128 + zs.toNat * 64 + rel.toNat * 16)
  | .mmaS4 h sa sb acc zs rel => encX 0x14B h (sa.code * 1099511627776 + sb.code * 4294967296 + acc.val * 128 + zs.toNat * 64 + rel.toNat * 16)
  | .mzero h acc w64 => encX 0x14C h (acc.val * 128 + w64.toNat * 64)
  | .mdrainF32 h d acc cg => encX 0x14D h (d.code * 1099511627776 + cg.val * 68719476736 + acc.val * 128)
  | .mdrainF64 h d acc cg => encX 0x14E h (d.code * 1099511627776 + cg.val * 68719476736 + acc.val * 128)
  | .mdrainBf16 h d acc cg => encX 0x14F h (d.code * 1099511627776 + cg.val * 68719476736 + acc.val * 128)
  | .mdrainF16 h d acc cg => encX 0x150 h (d.code * 1099511627776 + cg.val * 68719476736 + acc.val * 128)
  | .mload h sd acc w64 => encX 0x151 h (sd.code * 1099511627776 + acc.val * 128 + w64.toNat * 64)
  | .mstore h sd ss acc w64 => encX 0x152 h (sd.code * 1099511627776 + ss.code * 4294967296 + acc.val * 128 + w64.toNat * 64)
  | .mscl h vs acc w64 => encX 0x153 h (vs.code * 16777216 + acc.val * 128 + w64.toNat * 64)
  | .maddc h vt acc w64 => encX 0x154 h (vt.code * 65536 + acc.val * 128 + w64.toNat * 64)
  | .mcopy h acc src w64 => encX 0x155 h (src.val * 4294967296 + acc.val * 128 + w64.toNat * 64)
  | .mstat h d acc w64 => encX 0x156 h (d.code * 1099511627776 + acc.val * 128 + w64.toNat * 64)
  | .sldP h w64 d a b => encR 0x180 h d.code a.code (.reg b) 0 (w64.toNat)
  | .sldQ h d a b => encR 0x181 h d.code a.code (.reg b) 0 (0)
  | .sldB h d a b => encR 0x182 h d.code a.code (.reg b) 0 (0)
  | .sldD h pd d a b c => encR 0x183 h d.code a.code (.reg b) c.code (pd.val)
  | .sstP h w64 a b c => encR 0x184 h 0 a.code (.reg b) c.code (w64.toNat)
  | .sstQ h a b c => encR 0x185 h 0 a.code (.reg b) c.code (0)
  | .sstB h a b c => encR 0x186 h 0 a.code (.reg b) c.code (0)
  | .sstM h w64 mask a b c => encR 0x187 h 0 a.code (.reg b) c.code (w64.toNat + mask.val * 2)
  | .scoef h k ch a b c => encR 0x188 h 0 a.code (.reg b) c.code (k.val + ch.val * 16)
  | .scoefB h g ch a b c => encR 0x189 h 0 a.code (.reg b) c.code (g.val + ch.val * 16)
  | .smv h a b c => encR 0x18A h 0 a.code (.reg b) c.code (0)
  | .sref h r a b => encR 0x18B h 0 a.code (.reg b) 0 (r.val)
  | .srate h a b c => encR 0x18C h 0 a.code (.reg b) c.code (0)
  | .sanchor h w64 a b c => encR 0x18D h 0 a.code (.reg b) c.code (w64.toNat)
  | .sqry h sel d a b => encR 0x18E h d.code a.code (.reg b) 0 (sel.val)
  | .sflush h a => encR 0x18F h 0 a.code (.reg (.v 0)) 0 (0)
  | .srel h a => encR 0x190 h 0 a.code (.reg (.v 0)) 0 (0)
  | .trix h pd d a b => encR 0x191 h d.code a.code (.reg b) 0 (pd.val)
  | .trixD h pd d a b c => encR 0x192 h d.code a.code (.reg b) c.code (pd.val)
  | .triw h m d a b => encR 0x193 h d.code a.code (.reg b) 0 (m.code)
  | .box12 h k pd d a b c => encR 0x194 h d.code a.code (.reg b) c.code (k.val + pd.val * 8)
  | .box12x4 h hf pd d a b c => encR 0x195 h d.code a.code (.reg b) c.code (hf.toNat + pd.val * 8)
  | .nodex h k pd d a b => encR 0x196 h d.code a.code (.reg b) 0 (k.val + pd.val * 8)
  | .trap h imm => encX 0x1C0 h (imm.toNat * 256)
  | .brk h imm => encX 0x1C1 h (imm.toNat * 256)
  | .rte h nxt a b => encR 0x1C2 h 0 a.code b 0 (nxt.toNat)
  | .rteStep h nxt a b => encR 0x1C3 h 0 a.code b 0 (nxt.toNat)
  | .sysr h d r => encX 0x1C4 h (d.code * 1099511627776 + r.toNat * 16777216)
  | .sysw h d r => encX 0x1C5 h (d.code * 1099511627776 + r.toNat * 16777216)
  | .iinv h a b => encR 0x1C6 h 0 a.code b 0 (0)
  | .time h d => encR 0x1C7 h d.code 0 (.reg (.v 0)) 0 (0)
  | .dbgmb h a b c => encR 0x1C8 h 0 a.code b c.code (0)
  | .suspend h a b => encR 0x1C9 h 0 a.code b 0 (0)
  | .resume h a b => encR 0x1CA h 0 a.code b 0 (0)
  | .killcrew h ctx a b => if ctx then encR 0x1CB h 0 0 (.reg (.v 0)) 0 1 else encR 0x1CB h 0 a.code b 0 0
  | .trec h pd d => encR 0x1CC h d.code 0 (.reg (.v 0)) 0 (pd.val)
  | .jrnl h roll a => encR 0x1CD h 0 a.code (.reg (.v 0)) 0 (roll.toNat)
  | .wdog h hn ofBillet a b => encR 0x1CE h 0 a.code (.reg b) 0 (hn.val + ofBillet.toNat * 4)
  | .irq h b => encR 0x1CF h 0 0 b 0 (0)
  | .perfr h d b => encR 0x1D0 h d.code 0 b 0 (0)
  | .errinj h a b => encR 0x1D1 h 0 a.code (.reg b) 0 (0)
  | .halt h => encR 0x1D2 h 0 0 (.reg (.v 0)) 0 (0)
  | .bartime _ => 0
  | .waitvTimeout _ => 0
  | .sleepWake _ => 0
  | .mcasLocksHeld _ => 0
  | .mcasLockTimeout _ => 0
  | .fenceComplete _ => 0
  | .gangLatchRelease _ => 0
  | .gangfailTimeout _ => 0
  | .anvilOperandsRead _ => 0
  | .anvilInstrComplete _ => 0
  | .planisherEvictEncode _ _ _ => 0
  | .poolWordChangeRetry _ _ _ => 0
  | .surfpoolPinTimeout _ _ _ => 0
  | .firmwareWake => 0
  | .gatherCycle _ => 0
  | .threadAged _ => 0
  | .yieldHoldExpire _ => 0
  | .fetchClause _ => 0
  | .varlatLand _ => 0
  | .handlerStart _ _ => 0
  | .lqtailWrite _ _ _ => 0
  | .lqctlWrite _ _ _ => 0
  | .launchPacketHead _ _ => 0
  | .depPoll _ _ => 0
  | .pick => 0
  | .deadlineMiss _ => 0
  | .setSave _ _ => 0
  | .setRestore _ _ => 0
  | .homeReadRequest _ => 0
  | .homeWriteRequest _ => 0
  | .homeEvictNotice _ _ => 0
  | .probeAck _ _ => 0
  | .coreProbe _ _ => 0
  | .probeTimeout _ _ => 0
  | .selfWritePerform _ => 0
  | .sliceRebase _ => 0
  | .selfCopyExpire _ _ => 0
  | .coreTimeCheck _ _ _ => 0
  | .crucibleAtomic _ => 0
  | .tcopy _ => 0
  | .tgather _ => 0
  | .tdecode _ => 0
  | .tqstore _ => 0
  | .tfill _ => 0
  | .tcbload _ => 0
  | .tmapld _ => 0
  | .ladleSectorComplete _ _ => 0
  | .beam _ => 0
  | .ray _ => 0
  | .travItemComplete _ _ => 0
  | .travfaultPoolTimeout _ => 0
  | .fqreplayRetry _ _ => 0
  | .fqreplayAbort _ _ => 0
  | .fqreplayRetryAll _ => 0
  | .fqheadWrite _ _ => 0
  | .nqheadWrite _ _ => 0
  | .acclrWrite _ _ => 0
  | .eqheadWrite _ _ => 0
  | .dmheadWrite _ _ => 0
  | .ueccConsume _ _ _ _ => 0
  | .checkpoint _ => 0
  | .assayCompare _ => 0
  | .assayTimeout _ => 0
  | .correctableError _ _ _ => 0
  | .schedulerRebuild _ => 0
  | .barrierParityError _ => 0
  | .drawerRequest _ => 0
  | .drawerResponse _ => 0
  | .drawerProbe _ _ => 0
  | .drawerMcasMessage _ => 0
  | .promotionRequest _ => 0
  | .flitCheckFail _ => 0
  | .portRetrainEnd _ _ => 0
  | .linkStallEnd _ => 0
  | .domainTimeSlew _ _ => 0
  | .referenceChange => 0
  | .slotTableSwapApply _ => 0
  | .portctlSwap _ => 0
  | .portctlRetrain _ => 0
  | .tlbinvWrite _ _ => 0
  | .tlbinvComplete _ => 0
  | .dbgdataWrite _ _ => 0
  | .ctxbindWrite _ _ => 0
  | .ctxcmdCreate _ _ => 0
  | .ctxcmdDestroy _ _ => 0
  | .registerWrite _ _ _ => 0
  | .functionLevelReset _ => 0
  | .powerGoodBringup _ => 0
  | .d3hotEntry => 0
  | .d0Return _ => 0
  | .thermalThrottle => 0
  | .thermalShutdown => 0
  | .attestationRequest _ => 0
  | .unallocatedOpcode op => op.val * 36028797018963968
  | .waitvDeadline _ => 0
  | .coreLeaseRebase _ => 0
  | .fqctlWrite _ _ => 0
  | .ampctlWrite _ _ => 0
  | .msixVectorUnmask _ _ => 0
  | .portTrainingComplete _ => 0
  | .drawerLeavesDomain _ _ => 0

/-- Whether an instruction has a word (R67): the event rows have none. -/
def Instr.isWord : Instr → Bool
  | .addB32 .. => true
  | .addB64 .. => true
  | .add3B32 .. => true
  | .addcB32 .. => true
  | .addsS32 .. => true
  | .subB32 .. => true
  | .subB64 .. => true
  | .subcB32 .. => true
  | .subsS32 .. => true
  | .mulB32 .. => true
  | .mulB64 .. => true
  | .mulhS32 .. => true
  | .mulhZ32 .. => true
  | .madB32 .. => true
  | .madwS32 .. => true
  | .madwZ32 .. => true
  | .divS32 .. => true
  | .divZ32 .. => true
  | .divS64 .. => true
  | .divZ64 .. => true
  | .remS32 .. => true
  | .remZ32 .. => true
  | .minS32 .. => true
  | .minZ32 .. => true
  | .maxS32 .. => true
  | .maxZ32 .. => true
  | .clampS32 .. => true
  | .clampZ32 .. => true
  | .absS32 .. => true
  | .negS32 .. => true
  | .andB .. => true
  | .orB .. => true
  | .xorB .. => true
  | .andn .. => true
  | .notB .. => true
  | .shlB32 .. => true
  | .shlB64 .. => true
  | .shrB32 .. => true
  | .shrB64 .. => true
  | .sarB32 .. => true
  | .sarB64 .. => true
  | .rotB32 .. => true
  | .fsh .. => true
  | .bfxS32 .. => true
  | .bfxZ32 .. => true
  | .bfi .. => true
  | .bmsk .. => true
  | .popc .. => true
  | .clz .. => true
  | .brev .. => true
  | .bswz .. => true
  | .sel .. => true
  | .icmpS32 .. => true
  | .icmpZ32 .. => true
  | .icmpS64 .. => true
  | .icmpZ64 .. => true
  | .idot4S8 .. => true
  | .idot4Z8 .. => true
  | .sad .. => true
  | .lea .. => true
  | .mov .. => true
  | .movi .. => true
  | .movs .. => true
  | .plop .. => true
  | .faddF32 .. => true
  | .faddF64 .. => true
  | .faddF16x2 .. => true
  | .faddBf16x2 .. => true
  | .fmulF32 .. => true
  | .fmulF64 .. => true
  | .fmulF16x2 .. => true
  | .fmulBf16x2 .. => true
  | .ffmaF32 .. => true
  | .ffmaF64 .. => true
  | .ffmaF16x2 .. => true
  | .ffmaBf16x2 .. => true
  | .ffmaw .. => true
  | .fdivF32 .. => true
  | .fdivF64 .. => true
  | .fsqrtF32 .. => true
  | .fsqrtF64 .. => true
  | .fminF32 .. => true
  | .fminF64 .. => true
  | .fmaxF32 .. => true
  | .fmaxF64 .. => true
  | .fmed3F32 .. => true
  | .fmed3F64 .. => true
  | .fcmpF32 .. => true
  | .fcmpF64 .. => true
  | .fcmpF16x2 .. => true
  | .fcmpBf16x2 .. => true
  | .fclassF32 .. => true
  | .fclassF64 .. => true
  | .frndF32 .. => true
  | .frndF64 .. => true
  | .fscaleF32 .. => true
  | .fscaleF64 .. => true
  | .fexpF32 .. => true
  | .fexpF64 .. => true
  | .sfnF32 .. => true
  | .sfnF64 .. => true
  | .fdot2Bf16 .. => true
  | .ftsumF64 .. => true
  | .crelF32 .. => true
  | .fcvtF32F64 .. => true
  | .fcvtF64F32 .. => true
  | .fcvtF32F16 .. => true
  | .fcvtF16x2F32 .. => true
  | .fcvtF32Bf16 .. => true
  | .fcvtBf16x2F32 .. => true
  | .fcvtS32F32 .. => true
  | .fcvtZ32F32 .. => true
  | .fcvtF32S32 .. => true
  | .fcvtF32Z32 .. => true
  | .fcvtS64F64 .. => true
  | .fcvtZ64F64 .. => true
  | .fcvtF64S64 .. => true
  | .fcvtF64Z64 .. => true
  | .fcvtS32F64 .. => true
  | .fcvtF64S32 .. => true
  | .bra .. => true
  | .braCons .. => true
  | .brx .. => true
  | .call .. => true
  | .callx .. => true
  | .ret .. => true
  | .exit .. => true
  | .nop .. => true
  | .join .. => true
  | .yield_ .. => true
  | .prio .. => true
  | .dbnz .. => true
  | .lxchAtB32 .. => true
  | .lxchRotB32 .. => true
  | .lxchDistB32 .. => true
  | .lxchMirB32 .. => true
  | .lxchAtB64 .. => true
  | .lxchRotB64 .. => true
  | .lxchDistB64 .. => true
  | .lxchMirB64 .. => true
  | .cpqAll .. => true
  | .cpqAny .. => true
  | .cpqSame .. => true
  | .cpqMask .. => true
  | .cpqNum .. => true
  | .vgrpPart .. => true
  | .vgrpUni .. => true
  | .credAddB32 .. => true
  | .credMinS32 .. => true
  | .credMinZ32 .. => true
  | .credMaxS32 .. => true
  | .credMaxZ32 .. => true
  | .credAnd .. => true
  | .credOr .. => true
  | .credXor .. => true
  | .credFaddF32 .. => true
  | .credFminF32 .. => true
  | .lead .. => true
  | .memb .. => true
  | .smov .. => true
  | .gang .. => true
  | .psave .. => true
  | .pload .. => true
  | .barSync .. => true
  | .barArv .. => true
  | .barArvc .. => true
  | .barWait .. => true
  | .barTry .. => true
  | .barLeave .. => true
  | .barReset .. => true
  | .bbar .. => true
  | .grpq .. => true
  | .stginit .. => true
  | .stgowe .. => true
  | .stgadd .. => true
  | .stgarv .. => true
  | .stgtry .. => true
  | .stgwait .. => true
  | .stginval .. => true
  | .qinit .. => true
  | .qpush .. => true
  | .qpushW .. => true
  | .qpop .. => true
  | .qpopW .. => true
  | .qtrypush .. => true
  | .qtrypop .. => true
  | .qpeek .. => true
  | .qcount .. => true
  | .qbreak .. => true
  | .waitvAny .. => true
  | .waitvAll .. => true
  | .monitor .. => true
  | .unmonitor .. => true
  | .montest .. => true
  | .sleep .. => true
  | .ldS8 .. => true
  | .ldZ8 .. => true
  | .ldS16 .. => true
  | .ldZ16 .. => true
  | .ldB32 .. => true
  | .ldB64 .. => true
  | .ldB128 .. => true
  | .stB8 .. => true
  | .stB16 .. => true
  | .stB32 .. => true
  | .stB64 .. => true
  | .stB128 .. => true
  | .ldsS8 .. => true
  | .ldsZ8 .. => true
  | .ldsS16 .. => true
  | .ldsZ16 .. => true
  | .ldsB32 .. => true
  | .ldsB64 .. => true
  | .ldsB128 .. => true
  | .stsB8 .. => true
  | .stsB16 .. => true
  | .stsB32 .. => true
  | .stsB64 .. => true
  | .stsB128 .. => true
  | .ldxB32 .. => true
  | .ldxB64 .. => true
  | .ldxB128 .. => true
  | .stxB32 .. => true
  | .stxB64 .. => true
  | .stxB128 .. => true
  | .ldcB32 .. => true
  | .ldcB64 .. => true
  | .atomAddB32 .. => true
  | .atomAddB64 .. => true
  | .atomFaddF32 .. => true
  | .atomFaddF64 .. => true
  | .atomFaddBf16x2 .. => true
  | .atomMinS32 .. => true
  | .atomMinZ32 .. => true
  | .atomMaxS32 .. => true
  | .atomMaxZ32 .. => true
  | .atomAndB32 .. => true
  | .atomOrB32 .. => true
  | .atomXorB32 .. => true
  | .atomExchB32 .. => true
  | .atomExchB64 .. => true
  | .casB32 .. => true
  | .casB64 .. => true
  | .casB128 .. => true
  | .redB32 .. => true
  | .redB64 .. => true
  | .atomsAddB32 .. => true
  | .atomsCasB32 .. => true
  | .atomsFaddF32 .. => true
  | .mcas .. => true
  | .fence .. => true
  | .cctl .. => true
  | .pref .. => true
  | .ptst .. => true
  | .pclr .. => true
  | .push .. => true
  | .mmaF64 .. => true
  | .mmaF32 .. => true
  | .mmaBf16 .. => true
  | .mmaF16 .. => true
  | .mmaE4m3 .. => true
  | .mmaE5m2 .. => true
  | .mmaE2m1 .. => true
  | .mmaBx8 .. => true
  | .mmaBx4 .. => true
  | .mmaS8 .. => true
  | .mmaS4 .. => true
  | .mzero .. => true
  | .mdrainF32 .. => true
  | .mdrainF64 .. => true
  | .mdrainBf16 .. => true
  | .mdrainF16 .. => true
  | .mload .. => true
  | .mstore .. => true
  | .mscl .. => true
  | .maddc .. => true
  | .mcopy .. => true
  | .mstat .. => true
  | .sldP .. => true
  | .sldQ .. => true
  | .sldB .. => true
  | .sldD .. => true
  | .sstP .. => true
  | .sstQ .. => true
  | .sstB .. => true
  | .sstM .. => true
  | .scoef .. => true
  | .scoefB .. => true
  | .smv .. => true
  | .sref .. => true
  | .srate .. => true
  | .sanchor .. => true
  | .sqry .. => true
  | .sflush .. => true
  | .srel .. => true
  | .trix .. => true
  | .trixD .. => true
  | .triw .. => true
  | .box12 .. => true
  | .box12x4 .. => true
  | .nodex .. => true
  | .trap .. => true
  | .brk .. => true
  | .rte .. => true
  | .rteStep .. => true
  | .sysr .. => true
  | .sysw .. => true
  | .iinv .. => true
  | .time .. => true
  | .dbgmb .. => true
  | .suspend .. => true
  | .resume .. => true
  | .killcrew .. => true
  | .trec .. => true
  | .jrnl .. => true
  | .wdog .. => true
  | .irq .. => true
  | .perfr .. => true
  | .errinj .. => true
  | .halt .. => true
  | .bartime .. => false
  | .waitvTimeout .. => false
  | .sleepWake .. => false
  | .mcasLocksHeld .. => false
  | .mcasLockTimeout .. => false
  | .fenceComplete .. => false
  | .gangLatchRelease .. => false
  | .gangfailTimeout .. => false
  | .anvilOperandsRead .. => false
  | .anvilInstrComplete .. => false
  | .planisherEvictEncode .. => false
  | .poolWordChangeRetry .. => false
  | .surfpoolPinTimeout .. => false
  | .firmwareWake .. => false
  | .gatherCycle .. => false
  | .threadAged .. => false
  | .yieldHoldExpire .. => false
  | .fetchClause .. => false
  | .varlatLand .. => false
  | .handlerStart .. => false
  | .lqtailWrite .. => false
  | .lqctlWrite .. => false
  | .launchPacketHead .. => false
  | .depPoll .. => false
  | .pick .. => false
  | .deadlineMiss .. => false
  | .setSave .. => false
  | .setRestore .. => false
  | .homeReadRequest .. => false
  | .homeWriteRequest .. => false
  | .homeEvictNotice .. => false
  | .probeAck .. => false
  | .coreProbe .. => false
  | .probeTimeout .. => false
  | .selfWritePerform .. => false
  | .sliceRebase .. => false
  | .selfCopyExpire .. => false
  | .coreTimeCheck .. => false
  | .crucibleAtomic .. => false
  | .tcopy .. => false
  | .tgather .. => false
  | .tdecode .. => false
  | .tqstore .. => false
  | .tfill .. => false
  | .tcbload .. => false
  | .tmapld .. => false
  | .ladleSectorComplete .. => false
  | .beam .. => false
  | .ray .. => false
  | .travItemComplete .. => false
  | .travfaultPoolTimeout .. => false
  | .fqreplayRetry .. => false
  | .fqreplayAbort .. => false
  | .fqreplayRetryAll .. => false
  | .fqheadWrite .. => false
  | .nqheadWrite .. => false
  | .acclrWrite .. => false
  | .eqheadWrite .. => false
  | .dmheadWrite .. => false
  | .ueccConsume .. => false
  | .checkpoint .. => false
  | .assayCompare .. => false
  | .assayTimeout .. => false
  | .correctableError .. => false
  | .schedulerRebuild .. => false
  | .barrierParityError .. => false
  | .drawerRequest .. => false
  | .drawerResponse .. => false
  | .drawerProbe .. => false
  | .drawerMcasMessage .. => false
  | .promotionRequest .. => false
  | .flitCheckFail .. => false
  | .portRetrainEnd .. => false
  | .linkStallEnd .. => false
  | .domainTimeSlew .. => false
  | .referenceChange .. => false
  | .slotTableSwapApply .. => false
  | .portctlSwap .. => false
  | .portctlRetrain .. => false
  | .tlbinvWrite .. => false
  | .tlbinvComplete .. => false
  | .dbgdataWrite .. => false
  | .ctxbindWrite .. => false
  | .ctxcmdCreate .. => false
  | .ctxcmdDestroy .. => false
  | .registerWrite .. => false
  | .functionLevelReset .. => false
  | .powerGoodBringup .. => false
  | .d3hotEntry .. => false
  | .d0Return .. => false
  | .thermalThrottle .. => false
  | .thermalShutdown .. => false
  | .attestationRequest .. => false
  | .unallocatedOpcode .. => true
  | .waitvDeadline .. => false
  | .coreLeaseRebase .. => false
  | .fqctlWrite .. => false
  | .ampctlWrite .. => false
  | .msixVectorUnmask .. => false
  | .portTrainingComplete .. => false
  | .drawerLeavesDomain .. => false

/-- The host's reading of a table row: a word of 64 bits is the whole instruction (R54), so every bit above nbits is 0. -/
noncomputable def decodeTableWord (nbits w : Nat) : Option Instr :=
  match decode (w % 2 ^ nbits % 2 ^ 64) with
  | .ok i => some i
  | .error _ => none

end Sys2Proof
end

