-- ==== Sys2Proof/Machine/Arith.lean ====
section
/-!
DEFINITION. The integer computations of group 0 (R117 to R130), as functions on words.
-/
namespace Sys2Proof.Machine

/-- Clamp(x, lo, hi) of R5's procedures, for lo at most hi. -/
def clampInt (x lo hi : Int) : Int := min (max x lo) hi

/-- ADDC (R117): the sum and the carry out. -/
def addCarry (a b : W32) (ci : Bool) : W32 × Bool :=
  let t := a.toNat + b.toNat + ci.toNat
  (BitVec.ofNat 32 t, decide (2 ^ 32 ≤ t))

/-- SUBC (R117): a + NOT b + ci. -/
def subCarry (a b : W32) (ci : Bool) : W32 × Bool := addCarry a (~~~b) ci

/-- ADDS.S32 and SUBS.S32 (R117). -/
def addSat (a b : W32) : W32 := BitVec.ofInt 32 (clampInt (a.toInt + b.toInt) (-2 ^ 31) (2 ^ 31 - 1))
def subSat (a b : W32) : W32 := BitVec.ofInt 32 (clampInt (a.toInt - b.toInt) (-2 ^ 31) (2 ^ 31 - 1))

/-- MULH (R118): bits [63:32] of the exact product. -/
def mulhS (a b : W32) : W32 := BitVec.ofInt 32 (a.toInt * b.toInt / 2 ^ 32)
def mulhZ (a b : W32) : W32 := BitVec.ofNat 32 (a.toNat * b.toNat / 2 ^ 32)

/-- MADW (R118). -/
def madwS (a b : W32) (c : W64) : W64 := BitVec.ofInt 64 (a.toInt * b.toInt + c.toInt)
def madwZ (a b : W32) (c : W64) : W64 := BitVec.ofNat 64 (a.toNat * b.toNat + c.toNat)

/-- Signed division with the quotient rounded toward zero, and its remainder (R119). -/
def divremS {w : Nat} (a b : BitVec w) : BitVec w × BitVec w :=
  if b = 0 then (BitVec.allOnes w, a)
  else if a = BitVec.intMin w ∧ b.toInt = -1 then (a, 0)
  else
    let q := a.toInt.tdiv b.toInt
    (BitVec.ofInt w q, BitVec.ofInt w (a.toInt - q * b.toInt))

/-- Unsigned division and remainder (R119). -/
def divremZ {w : Nat} (a b : BitVec w) : BitVec w × BitVec w :=
  if b = 0 then (BitVec.allOnes w, a)
  else (BitVec.ofNat w (a.toNat / b.toNat), BitVec.ofNat w (a.toNat % b.toNat))

/-- MIN and MAX, signed and unsigned (R120). -/
def minS {w : Nat} (a b : BitVec w) : BitVec w := if a.toInt ≤ b.toInt then a else b
def maxS {w : Nat} (a b : BitVec w) : BitVec w := if a.toInt ≤ b.toInt then b else a
def minZ {w : Nat} (a b : BitVec w) : BitVec w := if a.toNat ≤ b.toNat then a else b
def maxZ {w : Nat} (a b : BitVec w) : BitVec w := if a.toNat ≤ b.toNat then b else a

/-- CLAMP (R120): b above c gives c. -/
def clampS (a b c : W32) : W32 := minS (maxS a b) c
def clampZ (a b c : W32) : W32 := minZ (maxZ a b) c

/-- ABS and NEG (R120). -/
def absS32 (sat : Bool) (a : W32) : W32 :=
  if sat ∧ a = 0x80000000 then 0x7FFFFFFF else if a.msb then -a else a
def negS32 (sat : Bool) (a : W32) : W32 :=
  if sat ∧ a = 0x80000000 then 0x7FFFFFFF else -a

/-- Shifts (R122): the count is read as unsigned and never masked. -/
def shl {w : Nat} (a : BitVec w) (n : W32) : BitVec w := if w ≤ n.toNat then 0 else a <<< n.toNat
def shr {w : Nat} (a : BitVec w) (n : W32) : BitVec w := if w ≤ n.toNat then 0 else a >>> n.toNat
def sar {w : Nat} (a : BitVec w) (n : W32) : BitVec w :=
  if w ≤ n.toNat then (if a.msb then BitVec.allOnes w else 0) else a.sshiftRight n.toNat

/-- ROT (R122). -/
def rot32 (right : Bool) (a n : W32) : W32 :=
  let k := n.toNat % 32
  if right then (a >>> k) ||| (a <<< (32 - k)) else (a <<< k) ||| (a >>> (32 - k))

/-- FSH (R122): b is the high word. -/
def fsh32 (right : Bool) (a b n : W32) : W32 :=
  let v : W64 := b ++ a
  if 64 ≤ n.toNat then 0
  else if right then (v >>> n.toNat).extractLsb' 0 32 else (v <<< n.toNat).extractLsb' 32 32

/-- The field descriptor of BFX, BFI and BMSK (R123): position and length. -/
def fieldPos (b : W32) : Nat := b.toNat % 256
def fieldLen (b : W32) : Nat := min (b.toNat / 256 % 256) 32

/-- BFX (R123): the source is extended above bit 31 by its sign or by zero, then the field is cut out. -/
def bfx (signed : Bool) (a b : W32) : W32 :=
  let len := fieldLen b
  let e : Int := if signed then a.toInt else (a.toNat : Int)
  let f := (e / 2 ^ fieldPos b % 2 ^ len).toNat
  if len = 0 then 0
  else if signed ∧ 2 ^ (len - 1) ≤ f then BitVec.ofInt 32 ((f : Int) - 2 ^ len)
  else BitVec.ofNat 32 f

/-- BMSK, and the mask of BFI (R123). -/
def bmsk (b : W32) : W32 := BitVec.ofNat 32 ((2 ^ fieldLen b - 1) * 2 ^ fieldPos b)

/-- BFI (R123). -/
def bfi (a b c : W32) : W32 :=
  (c &&& ~~~(bmsk b)) ||| (BitVec.ofNat 32 (a.toNat * 2 ^ fieldPos b) &&& bmsk b)

/-- The indices 0 to w - 1 whose bit is set. -/
def setBits {w : Nat} (a : BitVec w) : List Nat := (List.range w).filter fun i => a.getLsbD i

/-- POPC, CLZ and BREV (R123). -/
def popc (a : W32) : W32 := BitVec.ofNat 32 (setBits a).length
def clz (a : W32) : W32 := BitVec.ofNat 32 (((List.range 32).takeWhile fun i => !a.getLsbD (31 - i)).length)
def brev (a : W32) : W32 := BitVec.ofNat 32 (((setBits a).map fun i => 2 ^ (31 - i)).foldl (· + ·) 0)

/-- Byte i of a word. -/
def byteOf (a : W32) (i : Nat) : Byte := a.extractLsb' (8 * i) 8

/-- A word of four bytes, byte 0 lowest. -/
def wordOf (b0 b1 b2 b3 : Byte) : W32 := b3 ++ b2 ++ b1 ++ b0

/-- One result byte of BSWZ (R124). -/
def bswzByte (a c : W32) (ctl : Byte) : Byte :=
  let k := ctl.toNat % 8
  let y := if k < 4 then byteOf a k else byteOf c (k - 4)
  match ctl.toNat / 8 % 4 with
  | 0 => y
  | 1 => 0
  | 2 => if y.msb then 0xFF else 0
  | _ => 0xFF

/-- BSWZ (R124). -/
def bswz (a b c : W32) : W32 :=
  wordOf (bswzByte a c (byteOf b 0)) (bswzByte a c (byteOf b 1)) (bswzByte a c (byteOf b 2)) (bswzByte a c (byteOf b 3))

/-- IDOT4 (R128), exact and then saturated or wrapped. -/
def idot4S (sat : Bool) (a b c : W32) : W32 :=
  let t := c.toInt + ((List.range 4).map fun i => (byteOf a i).toInt * (byteOf b i).toInt).foldl (· + ·) 0
  BitVec.ofInt 32 (if sat then clampInt t (-2 ^ 31) (2 ^ 31 - 1) else t)
def idot4Z (sat : Bool) (a b c : W32) : W32 :=
  let t := c.toNat + ((List.range 4).map fun i => (byteOf a i).toNat * (byteOf b i).toNat).foldl (· + ·) 0
  BitVec.ofNat 32 (if sat then min t (2 ^ 32 - 1) else t)

/-- SAD (R128). -/
def sad (a b c : W32) : W32 :=
  BitVec.ofNat 32 (c.toNat + ((List.range 4).map fun i =>
    max (byteOf a i).toNat (byteOf b i).toNat - min (byteOf a i).toNat (byteOf b i).toNat).foldl (· + ·) 0)

/-- LEA (R129). -/
def lea (zx : Bool) (sh : Nat) (a : W64) (b : W32) : W64 :=
  a + ((if zx then b.zeroExtend 64 else b.signExtend 64) <<< sh)

end Sys2Proof.Machine
end

