-- ==== Sys2Proof/Config.lean ====
section
/-!
DEFINITION. What one part fixes (R1), and the free values: results the specification leaves open.  A free value is an
opaque constant applied to a counter of State or to the operands it depends on, so no proof can see it.
-/
namespace Sys2Proof.Config

/-- R1, R229: scratchpad bytes of a core; R309: accumulator bytes of a core; R295: codebook bytes of a core. -/
def scratchBytes : Nat := 524288
def accBytes : Nat := 524288
def codebookBytes : Nat := 16384
/-- R4: cycles of one tick of domain time. -/
def cyclesPerTick : Nat := 15

/-- A free choice among finitely many outcomes the specification allows: which of the values of R35, which of two
translations of R228, whether a speculative load is served early.  The arguments name the occasion. -/
opaque pick : Nat → Nat → Nat → Nat

/-- SFN (R139): a fixed function of format, function and operand bits; what it gives outside the stated bound of the exact
value is not used (log 21). -/
opaque sfn : Bool → Nat → Nat → Nat

end Sys2Proof.Config
end

