-- ==== Sys2Proof/Machine/Float.lean ====
section
/-!
DEFINITION. Floating-point values, formats and rounding (R81 to R94).  A finite value is held exactly as a sign, a
positive integer and a power of two.
-/
namespace Sys2Proof.Machine

/-- An exact value: NaN, an infinity, a signed zero, or (-1)^neg * m * 2^e with m positive. -/
inductive FVal where
  | nan
  | inf (neg : Bool)
  | zero (neg : Bool)
  | fin (neg : Bool) (m : Nat) (e : Int)
  deriving DecidableEq, Repr

/-- An IEEE 754 binary format (R81) by its fraction and exponent widths. -/
structure FFmt where
  fw : Nat
  ew : Nat
  deriving DecidableEq, Repr

def FFmt.f64 : FFmt := ⟨52, 11⟩
def FFmt.f32 : FFmt := ⟨23, 8⟩
def FFmt.f16 : FFmt := ⟨10, 5⟩
def FFmt.bf16 : FFmt := ⟨7, 8⟩

def FFmt.bias (f : FFmt) : Nat := 2 ^ (f.ew - 1) - 1
def FFmt.emax (f : FFmt) : Nat := 2 ^ f.ew - 1
def FFmt.signBit (f : FFmt) (x : Nat) : Bool := x / 2 ^ (f.fw + f.ew) % 2 == 1
def FFmt.expField (f : FFmt) (x : Nat) : Nat := x / 2 ^ f.fw % 2 ^ f.ew
def FFmt.frac (f : FFmt) (x : Nat) : Nat := x % 2 ^ f.fw
def FFmt.isSubnormal (f : FFmt) (x : Nat) : Bool := f.expField x == 0 && f.frac x != 0
def FFmt.signed (f : FFmt) (neg : Bool) (mag : Nat) : Nat := neg.toNat * 2 ^ (f.fw + f.ew) + mag

/-- The canonical NaN, infinity and largest finite value (R83, R81). -/
def FFmt.nanBits (f : FFmt) : Nat := f.emax * 2 ^ f.fw + 2 ^ (f.fw - 1)
def FFmt.infBits (f : FFmt) (neg : Bool) : Nat := f.signed neg (f.emax * 2 ^ f.fw)
def FFmt.maxBits (f : FFmt) (neg : Bool) : Nat := f.signed neg (f.emax * 2 ^ f.fw - 1)
def FFmt.oneBits (f : FFmt) : Nat := f.bias * 2 ^ f.fw

/-- The value of a bit pattern (R82). -/
def FFmt.decode (f : FFmt) (x : Nat) : FVal :=
  let neg := f.signBit x
  let e := f.expField x
  let m := f.frac x
  if e = f.emax then (if m = 0 then .inf neg else .nan)
  else if e = 0 then (if m = 0 then .zero neg else .fin neg m (1 - (f.bias : Int) - f.fw))
  else .fin neg (2 ^ f.fw + m) ((e : Int) - f.bias - f.fw)

def FVal.isNan : FVal → Bool
  | .nan => true
  | _ => false

def FVal.isInf : FVal → Bool
  | .inf _ => true
  | _ => false

def FVal.isZero : FVal → Bool
  | .zero _ => true
  | _ => false

/-- The sign a value carries; a NaN carries none. -/
def FVal.neg : FVal → Bool
  | .nan => false
  | .inf n => n
  | .zero n => n
  | .fin n _ _ => n

/-- A finite value scaled by 2^-e0, for e0 at most its exponent. -/
def FVal.scaled (e0 : Int) : FVal → Int
  | .fin n m e => (if n then -1 else 1) * (m : Int) * 2 ^ (e - e0).toNat
  | _ => 0

/-- The least exponent of two values, for comparing them exactly. -/
def FVal.minExp (x y : FVal) : Int :=
  match x, y with
  | .fin _ _ e, .fin _ _ e' => min e e'
  | .fin _ _ e, _ => e
  | _, .fin _ _ e => e
  | _, _ => 0

/-- Order of two values neither of which is NaN; the zeros are equal. -/
def FVal.lt (x y : FVal) : Bool :=
  match x, y with
  | .inf a, .inf b => a && !b
  | .inf a, _ => a
  | _, .inf b => !b
  | _, _ => decide (x.scaled (FVal.minExp x y) < y.scaled (FVal.minExp x y))

def FVal.eq (x y : FVal) : Bool :=
  match x, y with
  | .inf a, .inf b => a == b
  | .inf _, _ => false
  | _, .inf _ => false
  | _, _ => decide (x.scaled (FVal.minExp x y) = y.scaled (FVal.minExp x y))

/-- One unit more when the remainder r of 2^s asks for it (R85). -/
def roundUp (rnd : Rnd) (neg : Bool) (q r s : Nat) : Bool :=
  match rnd with
  | .rne => decide (2 ^ s < 2 * r) || (decide (2 * r = 2 ^ s) && q % 2 == 1)
  | .rtz => false
  | .rup => !neg && r != 0
  | .rdn => neg && r != 0

/-- m * 2^e as a multiple of 2^q, rounded (R85). -/
def roundAt (rnd : Rnd) (neg : Bool) (m : Nat) (e q : Int) : Nat :=
  if q ≤ e then m * 2 ^ (e - q).toNat
  else
    let s := (q - e).toNat
    let d := m / 2 ^ s
    d + (roundUp rnd neg d (m % 2 ^ s) s).toNat

/-- Overflow (R86). -/
def FFmt.overflow (f : FFmt) (rnd : Rnd) (neg : Bool) : Nat :=
  match rnd, neg with
  | .rne, _ => f.infBits neg
  | .rtz, _ => f.maxBits neg
  | .rup, false => f.infBits false
  | .rup, true => f.maxBits true
  | .rdn, false => f.maxBits false
  | .rdn, true => f.infBits true

/-- RoundToFormat (R91).  A value far below the smallest subnormal rounds as a nonzero value below half of it does. -/
def FFmt.round (f : FFmt) (rnd : Rnd) (ftz : Bool) : FVal → Nat
  | .nan => f.nanBits
  | .inf n => f.infBits n
  | .zero n => f.signed n 0
  | .fin n m e =>
    let emin : Int := 1 - f.bias
    let lg : Int := (Nat.log2 m : Int) + e
    let tiny := decide (lg + f.fw + 3 < emin)
    let q := max (lg - f.fw) (emin - f.fw)
    let y := if tiny then roundAt rnd n 1 (q - 3) q else roundAt rnd n m e q
    let mag := ((q + f.fw + f.bias - 1) * 2 ^ f.fw + y).toNat
    if f.emax * 2 ^ f.fw ≤ mag then f.overflow rnd n
    else if ftz && decide (mag < 2 ^ f.fw) then f.signed n 0
    else f.signed n mag

/-- SAT on a result (R90). -/
def FFmt.sat01 (f : FFmt) (x : Nat) : Nat :=
  if (f.decode x).isNan || f.signBit x then 0
  else if f.oneBits < x then f.oneBits else x

/-- Operand(x, ftz, abs, neg) (R131), on bits. -/
def FFmt.operand (f : FFmt) (ftz abs neg : Bool) (x : Nat) : Nat :=
  let s := f.signBit x
  let mag := x % 2 ^ (f.fw + f.ew)
  let mag := if ftz && f.isSubnormal x then 0 else mag
  f.signed ((s && !abs) != neg) mag

/-- The exact product (R88, R109). -/
def FVal.mul (x y : FVal) : FVal :=
  let n := x.neg != y.neg
  match x, y with
  | .nan, _ => .nan
  | _, .nan => .nan
  | .inf _, .zero _ => .nan
  | .zero _, .inf _ => .nan
  | .inf _, _ => .inf n
  | _, .inf _ => .inf n
  | .zero _, _ => .zero n
  | _, .zero _ => .zero n
  | .fin _ m e, .fin _ m' e' => .fin n (m * m') (e + e')

def FVal.flip : FVal → FVal
  | .nan => .nan
  | .inf n => .inf (!n)
  | .zero n => .zero (!n)
  | .fin n m e => .fin (!n) m e

/-- A signed multiple of 2^e as a value; zero gets the sign given. -/
def FVal.ofScaled (zeroNeg : Bool) (x : Int) (e : Int) : FVal :=
  if x = 0 then .zero zeroNeg else .fin (decide (x < 0)) x.natAbs e

/-- ExactSum (R109): specials first, then the exact sum; an exact zero takes its sign by R88. -/
def FVal.sum (rnd : Rnd) (xs : List FVal) : FVal :=
  if xs.any FVal.isNan then .nan
  else if xs.any (fun x => x.isInf && x.neg) then (if xs.any (fun x => x.isInf && !x.neg) then .nan else .inf true)
  else if xs.any FVal.isInf then .inf false
  else
    let e0 := xs.foldl (fun e x => min e (FVal.minExp x x)) 0
    let allNeg := xs.all FVal.neg
    let anyNeg := xs.any FVal.neg
    FVal.ofScaled (allNeg || (anyNeg && rnd == .rdn)) ((xs.map (FVal.scaled e0)).foldl (· + ·) 0) e0

def FVal.add (rnd : Rnd) (x y : FVal) : FVal := FVal.sum rnd [x, y]
def FVal.sub (rnd : Rnd) (x y : FVal) : FVal := FVal.sum rnd [x, y.flip]

/-- A quotient or root known to be strictly between d and d + 1 units of 2^e unless exact: one more bit records that,
so that every rounding of R85 at a coarser unit comes out as for the exact value. -/
def FVal.sticky (neg : Bool) (d : Nat) (exact : Bool) (e : Int) : FVal :=
  .fin neg (2 * d + (!exact).toNat) (e - 1)

/-- x / y with enough bits for one correct rounding (R134). -/
def FVal.div (x y : FVal) : FVal :=
  let n := x.neg != y.neg
  match x, y with
  | .nan, _ => .nan
  | _, .nan => .nan
  | .inf _, .inf _ => .nan
  | .zero _, .zero _ => .nan
  | .inf _, _ => .inf n
  | _, .zero _ => .inf n
  | .zero _, _ => .zero n
  | _, .inf _ => .zero n
  | .fin _ m e, .fin _ m' e' =>
    let k : Nat := 128
    FVal.sticky n (m * 2 ^ k / m') (m * 2 ^ k % m' == 0) (e - e' - k)

/-- Integer square root, bit by bit. -/
def isqrtGo : Nat → Nat → Nat → Nat
  | 0, n, r => if (r + 1) * (r + 1) ≤ n then r + 1 else r
  | k + 1, n, r => if (r + 2 ^ (k + 1)) * (r + 2 ^ (k + 1)) ≤ n then isqrtGo k n (r + 2 ^ (k + 1)) else isqrtGo k n r

def isqrt (n : Nat) : Nat := isqrtGo (Nat.log2 n / 2) n 0

/-- The square root with enough bits for one correct rounding (R134). -/
def FVal.sqrt (x : FVal) : FVal :=
  match x with
  | .nan => .nan
  | .zero n => .zero n
  | .inf n => if n then .nan else .inf false
  | .fin n m e =>
    if n then .nan
    else
      let k : Nat := if e % 2 = 0 then 128 else 129
      let r := isqrt (m * 2 ^ k)
      FVal.sticky false r (r * r == m * 2 ^ k) ((e - k) / 2)

/-- 1/sqrt(x) with enough bits (R139). -/
def FVal.rsqrt (x : FVal) : FVal :=
  match x with
  | .nan => .nan
  | .zero n => .inf n
  | .inf n => if n then .nan else .zero false
  | .fin n m e =>
    if n then .nan
    else
      let k : Nat := if e % 2 = 0 then 256 else 257
      let r := isqrt (2 ^ k / m)
      FVal.sticky false r (r * r * m == 2 ^ k) ((-e - k) / 2)

/-- MinNum and MaxNum on bit patterns (R135): the operand returned keeps its bits. -/
def FFmt.minNum (f : FFmt) (x y : Nat) : Nat :=
  let a := f.decode x
  let b := f.decode y
  if a.isNan && b.isNan then f.nanBits
  else if a.isNan then y
  else if b.isNan then x
  else if a.isZero && b.isZero then f.signed (a.neg || b.neg) 0
  else if FVal.lt b a then y else x

def FFmt.maxNum (f : FFmt) (x y : Nat) : Nat :=
  let a := f.decode x
  let b := f.decode y
  if a.isNan && b.isNan then f.nanBits
  else if a.isNan then y
  else if b.isNan then x
  else if a.isZero && b.isZero then f.signed (a.neg && b.neg) 0
  else if FVal.lt a b then y else x

/-- RoundToInteger of a finite value (R93). -/
def FVal.toIntRound (rnd : Rnd) : FVal → Int
  | .fin n m e =>
    let tiny := decide ((Nat.log2 m : Int) + e < -2)
    let y := if tiny then roundAt rnd n 1 (-2) 0 else roundAt rnd n m e 0
    if n then -(y : Int) else y
  | _ => 0

/-- FloatToInt (R93) after the flush: NaN gives 0, the rest clamps. -/
def floatToInt (rnd : Rnd) (lo hi : Int) (x : FVal) : Int :=
  match x with
  | .nan => 0
  | .inf n => if n then lo else hi
  | .zero _ => 0
  | .fin n m e =>
    if 1100 < (Nat.log2 m : Int) + e then (if n then lo else hi)
    else min (max (FVal.toIntRound rnd (.fin n m e)) lo) hi

/-- An integer as a value (R94). -/
def FVal.ofInt (n : Int) : FVal := FVal.ofScaled false n 0

/-- FRND (R138): an integral value of the operand's own format; a value that rounds to zero keeps its sign. -/
def FFmt.frnd (f : FFmt) (rnd : Rnd) (x : Nat) : Nat :=
  match f.decode x with
  | .nan => f.nanBits
  | .inf _ => x
  | .zero _ => x
  | .fin n m e =>
    if 0 ≤ e then x
    else f.round .rne false (FVal.ofScaled n (FVal.toIntRound rnd (.fin n m e)) 0)

/-- FEXP (R138). -/
def FFmt.fexp (f : FFmt) (ftz : Bool) (x : Nat) : W32 :=
  match f.decode (f.operand ftz false false x) with
  | .nan => 0x7FFFFFFF
  | .inf _ => 0x7FFFFFFF
  | .zero _ => 0x80000000
  | .fin _ m e => BitVec.ofInt 32 ((Nat.log2 m : Int) + e)

/-- Scale a value by a power of two (R138). -/
def FVal.scale (k : Int) : FVal → FVal
  | .fin n m e => .fin n m (e + k)
  | x => x

/-- The flush of a result (R87). -/
def FFmt.flush (f : FFmt) (ftz : Bool) (x : Nat) : Nat :=
  if ftz && f.isSubnormal x then f.signed (f.signBit x) 0 else x

/-- Apply a rule to each half of a packed pair (R84). -/
def packed2 (op : Nat → Nat → Nat → Nat) (a b c : W32) : W32 :=
  BitVec.ofNat 32 (op (a.toNat % 65536) (b.toNat % 65536) (c.toNat % 65536) % 65536 +
    op (a.toNat / 65536) (b.toNat / 65536) (c.toNat / 65536) % 65536 * 65536)

end Sys2Proof.Machine
end

