-- ==== Sys2Proof/Machine/Flags.lean ====
section
/-!
DEFINITION. What the instructions write to predicates: integer and float comparison, classification and the predicate
look-up table.  The part keeps no other flags (R89, R120).
-/
namespace Sys2Proof.Machine

/-- ICMP on integers already read as signed or unsigned (R126). -/
def ICmp.holds (c : ICmp) (a b : Int) : Bool :=
  match c with
  | .eq => a == b
  | .ne => a != b
  | .lt => decide (a < b)
  | .le => decide (a ≤ b)
  | .gt => decide (b < a)
  | .ge => decide (b ≤ a)

/-- FCMP on exact values (R136): +0 equals -0, and a NaN is unordered. -/
def FCmp.holds (c : FCmp) (x y : FVal) : Bool :=
  let un := x.isNan || y.isNan
  match c with
  | .eq => !un && FVal.eq x y
  | .ne => un || !FVal.eq x y
  | .lt => !un && FVal.lt x y
  | .le => !un && (FVal.lt x y || FVal.eq x y)
  | .gt => !un && FVal.lt y x
  | .ge => !un && (FVal.lt y x || FVal.eq x y)
  | .num => !un
  | .nan => un

/-- The one-hot class mask of FCLASS (R137). -/
def fclassMask (f : FFmt) (x : Nat) : Nat :=
  let v := f.decode x
  let neg := f.signBit x
  match v with
  | .nan => 256
  | .inf _ => if neg then 1 else 128
  | .zero _ => if neg then 8 else 16
  | .fin .. => if f.isSubnormal x then (if neg then 4 else 32) else (if neg then 2 else 64)

/-- PLOP (R127). -/
def plopBit (lut : Byte) (a b c : Bool) : Bool := lut.getLsbD (4 * a.toNat + 2 * b.toNat + c.toNat)

/-- The word a comparison writes to dst (R126, R136). -/
def truthWord (t : Bool) : W32 := if t then 0xFFFFFFFF else 0

end Sys2Proof.Machine
end

