-- ==== Sys2Proof/Machine/State.lean ====
section
/-!
DEFINITION. The state of one ZV-2 as plain data, and its state after reset.  Sparse collections are lists of key and
value pairs in ascending key order; a key that is absent stands for the value the accessor of Machine/Maps.lean names.
-/
namespace Sys2Proof.Machine

/-- A sparse collection by a natural-number key. -/
abbrev Map (α : Type) := List (Nat × α)

/-- Why the machine stops with a fault. -/
inductive Fault where
  /-- Raised by `step` when State asks for an agent that the model does not know: never by a run from reset. Safe. -/
  | badAgent
  deriving DecidableEq, Repr

/-- Why a step has no meaning. -/
inductive Refusal where
  /-- The instruction has no meaning in the model yet: only exec's own arms. Safe: nothing is claimed of it. -/
  | notModelled (mnemonic : String)
  /-- An instruction word was asked for with no bundle issuing it: raised by every meaning of a word when `cur` names no
  bundle. Safe: a word acts only for the threads of a bundle (R158). -/
  | noBundle
  /-- The step of another agent was asked for where the specification does not let it happen: raised by the event rows.
  Safe: the agenda asked for something the part does not do. -/
  | notEnabled (event : String)
  /-- The agenda named an instruction word as the act of another agent: raised by `step`. Safe. -/
  | notAnEvent
  deriving DecidableEq, Repr

/-- Roles of a crew (R155). -/
inductive Role where
  | vec | cpy | mtx
  deriving DecidableEq, Repr

/-- Clause classes (R50). -/
inductive Cls where
  | vec | cpy | mtx | sys
  deriving DecidableEq, Repr

/-- The traps of R401. -/
inductive Trap where
  | undef | malformed | cls | budget | maskdis | gangfail | bartime | poison | prot | align | mcasparam | mixsize
  | surfpool | travfault | swtrap | brk | watch | step | fetchecc | uecc | linkstall
  deriving DecidableEq, Repr

/-- What a trap record says beyond the thread it names (R402). -/
structure TrapInfo where
  trap : Trap
  cause : Nat := 0
  addr : Nat := 0
  detail : Nat := 0
  diag : List Byte := []
  deriving DecidableEq, Repr

/-- A fetched and checked clause (R50, R51): the words are those of one fetch. -/
structure Clause where
  pc : BitVec 57
  cls : Cls
  waits : List Nat
  yld : Bool
  xfer : Bool
  words : List Nat
  deriving DecidableEq, Repr

/-- A register a pending operation will write: a v register, a predicate, or an s register of the crew. -/
inductive Target where
  | v (n : Nat)
  | p (n : Nat)
  | s (n : Nat)
  deriving DecidableEq, Repr

/-- One register write of a thread, with the poison bit it carries (R391). -/
structure RegWrite where
  tgt : Target
  val : W32
  poison : Bool := false
  deriving DecidableEq, Repr

/-- The crew operations that may wait in mask form (R199). -/
inductive CrewKind where
  | lxch (mode : Fin 4) (wide : Bool) (seg : Nat)
  | cpq (k : Fin 5)
  | vgrpPart
  | vgrpUni
  | cred (k : Fin 10)
  | lead
  | memb
  deriving DecidableEq, Repr

/-- A crew operation as one thread reaches it: its kind and destinations, and what the thread contributes. -/
structure CrewArg where
  kind : CrewKind
  dst : Reg
  pd : Fin 8
  dc : Nat
  pc : BitVec 57
  widx : Nat
  mask : W32
  a : W64
  aPoison : Bool
  aCode : Nat
  b : W32
  q : Bool
  arrival : Nat
  deriving DecidableEq, Repr

/-- Matrix element types of MMA, in opcode order (R328). -/
inductive MatT where
  | f64 | f32 | bf16 | f16 | e4m3 | e5m2 | e2m1 | bx8 | bx4 | s8 | s4
  deriving DecidableEq, Repr

/-- A matrix instruction (R326) as the rendezvous latch compares it and the anvil executes it. -/
inductive MatOp where
  | mma (t : MatT) (sa sb vs vt : Nat) (acc : Nat) (zs sh rel : Bool)
  | mzero (acc : Nat) (w64 : Bool)
  | mdrain (k : Fin 4) (d acc cg : Nat)
  | mload (sd acc : Nat) (w64 : Bool)
  | mstore (sd ss acc : Nat) (w64 : Bool)
  | mscl (vs acc : Nat) (w64 : Bool)
  | maddc (vt acc : Nat) (w64 : Bool)
  | mcopy (acc src : Nat) (w64 : Bool)
  | mstat (d acc : Nat) (w64 : Bool)
  deriving DecidableEq, Repr

/-- What a thread blocked in an X instruction waits for (R68). -/
inductive Wait where
  | join (m : W32)
  /-- A barrier: the group instance, the phase waited on, the destination, whether this thread arrived, and LAST. -/
  | bar (g tok : Nat) (dst : Reg) (arrived last : Bool)
  | stage (obj : Nat) (parity : Bool) (dst : Reg)
  | qpush (obj : Nat) (wide : Bool) (payload : List W32) (status : Nat) (order : Nat)
  | qpop (obj : Nat) (wide : Bool) (base : Nat) (status : Nat) (order : Nat)
  | waitv (all : Bool) (descs : List W32) (t0 : Nat) (timeout : W32) (deadline : W64) (dst : Reg)
  | sleep (til : Nat)
  | halt
  deriving DecidableEq, Repr

/-- What a parked thread or command waits for (R393): its TAG, the record type, the granules with their sectors, and the item
of a traversal command that met the fault. -/
structure Park where
  tag : Nat
  type : Nat
  unit : Nat
  granules : List (Nat × W32)
  posted : Bool
  item : Option Nat := none
  deriving DecidableEq, Repr

/-- The states of a thread (R156, R409). A thread of a bundle in flight is `ready`. -/
inductive Status where
  | ready
  | blocked (w : Wait)
  | mask (c : CrewArg)
  | latch (op : MatOp) (dc : Nat) (since : Nat)
  | parked (p : Park)
  | trapped (i : TrapInfo)
  | held (i : TrapInfo)
  /-- Stopped at its word by a watchpoint, until the word has completed (R442). -/
  | watching (i : TrapInfo)
  | ended
  /-- Waiting at a compare point of an assay pair (R416) with the values compared, or in a trap not yet compared,
  and the time it came there. -/
  | assay (data : List Nat) (trap : Option TrapInfo) (since : Nat)
  deriving DecidableEq, Repr

/-- A monitor of a thread (R179, R219): the line watched, by physical line number. -/
structure Monitor where
  armed : Bool := false
  fired : Bool := false
  line : Nat := 0
  deriving DecidableEq, Repr

/-- One thread (R28). Registers and poison bits are sparse: an absent register is 0 and not poisoned. The counters dc0 to
dc5 are not stored: a counter is the number of the thread's operations in `State.pend` that signal it (R34).  `deep` are the spilled entries of a thread of an
assay crew (R416). `bpPass` holds a clause and the breakpoint registers the thread passes there, having been stopped by them (R425). -/
structure Thread where
  v : Map W32 := []
  poison : List Nat := []
  p : BitVec 7 := 0
  pc : BitVec 57 := 0
  widx : Nat := 0
  clause : Option Clause := none
  depth : Nat := 0
  cache : List W64 := []
  deep : List W64 := []
  status : Status := .ready
  timeHi : Option W32 := none
  mon0 : Monitor := {}
  mon1 : Monitor := {}
  poisonAddr : W64 := 0
  suspended : Bool := false
  stepping : Bool := false
  bpPass : Option (BitVec 57 × List Nat) := none
  pcWritten : Bool := false
  drain : Bool := false
  cmpOk : Bool := false
  readyAt : Nat := 0
  aged : Bool := false
  yieldTil : Nat := 0
  endPc : BitVec 57 := 0
  select : Bool := false
  deriving DecidableEq, Repr

/-- One crew (R151): the threads of one slot of one core. `matSeen` counts, by place and lane, the executions of a matrix word
that a lane is ahead of the slowest of its crew (R303). An assay crew names its leader and holds the values passed to it,
by lane (R416). -/
structure Crew where
  s : Map W32 := []
  prio : Fin 4 := 0
  gang : BitVec 16 := 0
  role : Role := .vec
  budget : Nat := 64
  width : Nat := 32
  number : Nat := 0
  pos : Nat := 0
  priv : Nat := 2
  leader : Option Nat := none
  matSeen : List (BitVec 57 × Nat × Nat × Nat) := []
  passed : List (Nat × List RegWrite) := []
  deriving DecidableEq, Repr

/-- How a lane of a surface word has fared (R377): accepted with what it owes its registers, refused with a trap, or stopped at a
page fault that the planisher of a home slice met. -/
inductive LaneEnd where
  | accepted (ws : List RegWrite)
  | refused (i : TrapInfo)
  | faulted (va home : Nat)
  deriving DecidableEq, Repr

/-- A bundle in flight (R158): the threads still in it, the next word, and the lanes of a surface word that planishers have
accepted or refused while others wait (R377). -/
structure Bundle where
  tids : List Nat
  widx : Nat := 0
  clause : Clause
  lanes : List (Nat × LaneEnd) := []
  deriving DecidableEq, Repr

/-- The address spaces a pending access acts in: physical memory, or the scratchpads (an address there is
core * 2^21 + place). -/
inductive Space where
  | global | scratch
  deriving DecidableEq, Repr

/-- One access of one lane after its checks: translated address, size, effective address, order, scope, remote bit, the
protocol of the page (0 DIR, 1 SELF, 2 UNC), the context, the instruction the lane belongs to (R268), and whether its hint
keeps the line out of L1 (R231). -/
structure Acc where
  space : Space
  pa : Nat
  size : Nat
  va : Nat
  ord : Ord
  scope : Scope
  rem : Bool
  proto : Nat
  ctx : Nat
  word : Nat
  noL1 : Bool := false
  deriving DecidableEq, Repr

/-- How a loaded value reaches the registers: sign extension and the first register. -/
structure LoadTo where
  signed : Bool
  dst : Reg
  deriving DecidableEq, Repr

/-- Read-modify-write operations (R273, R275, R276). -/
inductive Rmw where
  | add | fadd32 | fadd64 | bfadd | smin | umin | smax | umax | and | or | xor | exch
  deriving DecidableEq, Repr

/-- One entry of an MCAS (R277), translated. -/
structure McasEntry where
  va : Nat
  pa : Nat
  size : Nat
  expect : List Byte
  new : List Byte
  proto : Nat := 0
  deriving DecidableEq, Repr

/-- What a speculative FENCE restores (R259): the threads of its bundle as they were at the word after it, and the last
operation issued by then; and the lines of the loads performed past it. -/
structure Snapshot where
  threads : List (Nat × Thread)
  last : Nat
  watched : List Nat := []
  deriving DecidableEq, Repr

/-- Updates of a stage (R173). -/
inductive StageUpd where
  | init (n : Nat)
  | owe (n : Nat)
  | complete (n : Nat)
  | add (n : Int)
  | arrive
  | inval
  deriving DecidableEq, Repr

/-- What a thread's operation in flight does when it performs. -/
inductive POp where
  /-- The results are known at issue. -/
  | value
  | load (a : Acc) (l : LoadTo)
  | store (a : Acc) (data : List Byte) (vis : Nat)
  | rmw (a : Acc) (f : Rmw) (v : W64) (dst : Option Reg)
  | cas (a : Acc) (expect new : List Byte) (dst : Reg)
  | mcas (a : Acc) (entries : List McasEntry) (lines held : List Nat) (t0 : Nat) (dst : Reg)
  /-- A FENCE, or (without a snapshot) the fence that an access with order `.sc` begins with (R252). -/
  | fence (o : Ord) (sc : Scope) (strict : Bool) (snap : Option Snapshot)
  | cctl (lines : List Nat) (inv : Bool) (sc : Scope)
  | pref (line : Nat) (proto : Nat) (ctx : Nat)
  | stage (obj : Nat) (u : StageUpd)
  | stgTry (obj : Nat) (parity : Bool) (dst : Reg)
  | qinit (obj ring cap : Nat) (wide : Bool)
  | qtryPush (obj : Nat) (payload : List W32) (status : Nat)
  | qtryPop (obj : Nat) (peek : Bool) (base status : Nat)
  | qcount (obj : Nat) (dst : Reg)
  | qbreak (obj : Nat)
  | monitor (m line : Nat) (fired : Bool)
  /-- A matrix instruction in the anvil, or a surface operation, or a system request: performed by the unit it names. -/
  | unit (id : Nat)
  deriving DecidableEq, Repr

/-- A release as a write of its release sequence carries it (R251, R252): the thread, the place in its program order, the
level of its scope, and the operations in flight that happened before it. -/
structure RelHead where
  tid : Nat
  op : Nat
  level : Nat
  owed : List Nat
  deriving DecidableEq, Repr

/-- The releases that a byte's last performed write stands for (R251). -/
structure Note where
  space : Space
  pa : Nat
  heads : List RelHead
  deriving DecidableEq, Repr

/-- An operation in flight, `store`, that happens before what thread `tid` does after its operation `op` (R253). -/
structure Know where
  tid : Nat
  op : Nat
  store : Nat
  deriving DecidableEq, Repr

/-- A strong read, at the level of its scope, and the releases it read from, for a FENCE that follows it (R252). -/
structure ReadRec where
  tid : Nat
  op : Nat
  level : Nat
  heads : List RelHead
  deriving DecidableEq, Repr

/-- A completed FENCE that releases: the thread, its place and the level of its scope (R252). -/
structure RelFence where
  tid : Nat
  op : Nat
  level : Nat
  deriving DecidableEq, Repr

/-- One operation of a thread in flight (R34), in issue order in `State.pend`.  `word` numbers the word it came from, `dests`
are the registers it is still to write (R35), `writes` what it delivers once performed, `contested` the destinations another
instruction has written meanwhile.  A store that others may see before it performs has a `stamp`, its place in the coherence
order (R254; 0 for none yet), the cores that see it beyond its level (R262), and the releases it stands for. -/
structure Pend where
  id : Nat
  tid : Nat
  wp : Nat := 0
  word : Nat := 0
  dc : Nat
  op : POp
  done : Bool := false
  landed : Bool := false
  link : Nat := 0
  dests : List Target := []
  writes : List RegWrite := []
  contested : List Target := []
  stamp : Nat := 0
  seen : List Nat := []
  heads : List RelHead := []
  deriving DecidableEq, Repr

/-- What a group keeps of a member crew whose billet has ended (R154, R171): its set member, and by lane the header of the
clause that holds the thread's EXIT, or 0 where no thread was. -/
structure GoneCrew where
  member : Nat
  pcs : List Nat
  deriving DecidableEq, Repr

/-- A group instance in a barrier unit (R164 to R170) of core `unit`. Masks are by member: the billet's place times 16 plus the
crew number; a billet that has ended keeps a number of its own there, and `gone` what is known of its crews.  `out` are the
members that are none any more (R168); `lastAt` is the tick of the arrival counted last and its place in the order of R169. -/
structure Group where
  wp : Nat
  set : Nat
  entry : Nat
  handle : Nat
  timeout : Nat
  tableTimeout : Nat
  members : List (Nat × Nat)
  phase : Nat := 0
  presented : Map W32 := []
  arrived : Map W32 := []
  left : Map W32 := []
  out : List Nat := []
  gone : Map GoneCrew := []
  unit : Nat := 0
  lastAt : Option (Nat × Nat) := none
  broken : Bool := false
  first : Option Nat := none
  start : Nat := 0
  paused : Nat := 0
  pausedAt : Option Nat := none
  deriving DecidableEq, Repr

/-- A unit of the journal (R412). -/
inductive JUnit where
  | reg (cid r : Nat)
  | scratch (line : Nat)
  | acc (line : Nat)
  | global (line : Nat)
  deriving DecidableEq, Repr

/-- A journal entry: 128 bytes of content and a flag word (the poison bits of a register). -/
structure JEntry where
  unit : JUnit
  content : List Byte
  flags : W32 := 0
  deriving DecidableEq, Repr

/-- What a checkpoint records (R411): the threads without their v registers, the crews and the group instances, and
the next operation's number. -/
structure Checkpoint where
  threads : Map Thread
  crews : Map Crew
  groups : Map Group
  since : Nat
  deriving DecidableEq, Repr

/-- One billet resident on a core (R152): its scratchpad allocation, its crews by number, its interval (R411), the
thread and place of a mismatch not yet passed again (R417), whether it is to be saved (R195) and the core whose cluster it must
stay away from (R417), and the save slot that holds its journal (R411). -/
structure Billet where
  wp : Nat
  index : Nat
  set : Nat
  member : Nat
  crews : List Nat
  assay : List Nat := []
  scratchBase : Nat
  scratchSize : Nat
  irrevocable : Bool := true
  journal : List JEntry := []
  ckpt : Option Checkpoint := none
  missAt : Option (Nat × Nat × Nat) := none
  victim : Bool := false
  avoid : Option Nat := none
  slot : Option Nat := none
  deriving DecidableEq, Repr

/-- A command in an engine's queue or running (R284, R355): its 64 bytes, who pushed it, and once issued the tensor map it
read, the sets' members it writes with where their allocations lie, the sectors or items accounted (R293, R358), the lines it
owns (R247), what of it is parked (R393), the BEAM tile that waits on a pool with the time it began to, and whether
TRAVFAULT was raised for that (R371), the operations in flight that happened before the PUSH (R263), and the bytes of accounted
sectors that a zero map or a summary is still to be made from (R446). -/
structure Command where
  id : Nat
  image : BitVec 512
  core : Nat
  pos : Nat
  wp : Nat
  set : Nat := 0
  ctx : Nat
  priv : Nat
  tid : Nat
  running : Bool := false
  map : List Byte := []
  targets : List (Nat × Nat) := []
  base : Nat := 0
  done : List Nat := []
  total : Nat := 0
  owned : List (Space × Nat) := []
  parks : List Park := []
  stuck : Option (Nat × Nat) := none
  raised : Bool := false
  after : List Nat := []
  kept : List (Nat × List Byte) := []
  deriving DecidableEq, Repr

/-- A matrix instruction issued through the latch (R303): the gang in member order and its live threads, the descriptors,
offset and stage, the row and column registers as read at the release (lane by lane), and of an MSTORE the lines it owns and the
elements it has read, row by row. -/
structure AnvilOp where
  id : Nat
  op : MatOp
  core : Nat
  billet : Nat
  wp : Nat
  gang : List Nat
  tids : List Nat
  descA : List Nat := []
  descB : Nat := 0
  offD : Nat := 0
  stage : Option Nat := none
  rowVals : List W32 := []
  colVals : List W32 := []
  owned : List (Space × Nat) := []
  data : List Nat := []
  read : Bool := false
  deriving DecidableEq, Repr

/-- A billet as a save slot holds it (R408, R409): its place when it was saved, its record, its crews and threads by the
places they had, its groups, objects, memory regions, codebook slots and commands, and where its section lies. -/
structure SavedBillet where
  key : Nat
  base : Nat
  billet : Billet
  crews : Map Crew
  threads : Map Thread
  groups : Map Group
  objs : List (Nat × Nat)
  scratch : List Host.Cell
  acc : List Host.Cell
  books : List (Nat × List Byte)
  ladle : List Command
  trav : List Command
  deriving DecidableEq, Repr

/-- A request to a saved thread, command or billet, which takes effect at restore (R405, R410, R427, R430). -/
inductive Later where
  | rte (t : Nat) (next step : Bool)
  | kill (t : Nat)
  | replay (tag : Nat) (abort : Bool)
  | jrnl (k : Nat) (roll : Bool)
  deriving DecidableEq, Repr

/-- A saved set (R408): its number, its slot, what it holds, the core whose cluster it may not return to (R417), and the requests that
wait for its restore. -/
structure SavedSet where
  uid : Nat
  wp : Nat
  set : Nat
  slot : Nat
  billets : List SavedBillet
  savedAt : Nat
  avoid : Option Nat := none
  later : List Later := []
  deriving DecidableEq, Repr

/-- A workpiece (R153, R186): the packet it came from and its progress. -/
structure Workpiece where
  ident : W32
  tenant : Nat
  ctx : Nat
  queue : Nat
  index : Nat
  packet : BitVec 512
  table : List (BitVec 128) := []
  widths : List Nat := []
  placed : Nat := 0
  started : Nat := 0
  ended : Nat := 0
  missed : Bool := false
  begun : Bool := false
  live : Bool := true
  deriving DecidableEq, Repr

/-- A held or served trap record (R403, R404). -/
structure TrapRecord where
  bytes : List Byte
  diag : List Byte
  core : Nat
  tid : Option Nat
  deriving DecidableEq, Repr

/-- A page table entry that a TLB or a walker's cache holds (R226, R228): its place among the entries of its level, the bytes
under it, and the entry. -/
structure TlbEntry where
  vpn : Nat
  size : Nat
  pte : W64
  deriving DecidableEq, Repr

/-- A context (R439, R440, R468); `inval` holds the translation invalidations in progress: the operation that waits, or 0 for
the host, and the page, or none for all. -/
structure Context where
  live : Bool := false
  busy : Bool := false
  ctl : W32 := 0
  root : W64 := 0
  handler : W64 := 0
  trapBase : W64 := 0
  trapHead : W32 := 0
  trapTail : W32 := 0
  surfTab : W64 := 0
  lease : W32 := 256
  stack : W64 := 0
  saveBase : W64 := 0
  saveCfg : W32 := 0
  saveUse : W64 := 0
  bp : List W64 := [0, 0, 0, 0]
  wpt : List W64 := [0, 0, 0, 0]
  dbgSel : W64 := 0
  dbgLane : W32 := 0
  dbgIdx : W32 := 0
  tlb : List TlbEntry := []
  inval : List (Nat × Option Nat) := []
  pmargin : W32 := 100000
  served : List (Nat × Nat × Option Nat) := []
  waiting : List TrapRecord := []
  perf : Map W64 := []
  mix : Map (Nat × Nat) := []
  deriving DecidableEq, Repr

/-- The head packet of a launch queue once read and checked (R185, R188). -/
structure HeadPacket where
  wp : Nat
  depMet : Bool
  polled : Nat
  deriving DecidableEq, Repr

/-- A launch queue (R184). `missed` is a head packet given back (R185) whose miss is posted already (R194). -/
structure LaunchQueue where
  base : W64 := 0
  en : Bool := false
  err : Bool := false
  prio : Fin 8 := 0
  log2n : Fin 32 := 4
  tail : W32 := 0
  hd : W32 := 0
  headPkt : Option HeadPacket := none
  missed : Option (BitVec 512) := none
  deriving DecidableEq, Repr

/-- A ring the part writes for the host (R395, R400, R466): base, head, tail, and the records held for space, with the
park TAG a fault record belongs to. -/
structure Ring where
  base : W64 := 0
  hd : W32 := 0
  tail : W32 := 0
  held : List (Nat × List Byte) := []
  deriving DecidableEq, Repr

/-- An access counter of a die (R400). -/
structure AccessCount where
  granule : Nat
  count : Nat
  pend : Bool := false
  deriving DecidableEq, Repr

/-- A tenant's function (R464 to R469). -/
structure Tenant where
  lq : Map LaunchQueue := []
  ampEn : Bool := false
  ampPrio : Fin 8 := 0
  amp : List (BitVec 512 × Nat) := []
  ampHead : W32 := 0
  ampHeadPkt : Option HeadPacket := none
  ampMissed : Option (BitVec 512) := none
  fq : Ring := {}
  fqEn : Bool := false
  fqOvf : Bool := false
  fqIrq : Bool := false
  nq : Ring := {}
  acThr : W32 := 0
  acLost : W32 := 0
  eq : Ring := {}
  dm : Ring := {}
  bind : W64 := 0
  nextIdent : Nat := 1
  nextTag : Nat := 1
  msixMask : W32 := 0
  msixPend : W32 := 0
  deriving DecidableEq, Repr

/-- Home state of a DIR line (R238, R239). -/
inductive DirState where
  | i
  | s (sharers : List Nat)
  | m (owner : Nat)
  | p (masks : List (Nat × BitVec 128))
  deriving DecidableEq, Repr

/-- A probe the home waits on (R246): the line, the agent, invalidation or recall, when it was sent, and whether again. -/
structure Probe where
  line : Nat
  agent : Nat
  inval : Bool
  since : Nat
  again : Bool
  answered : Bool
  deriving DecidableEq, Repr

/-- How a part holds a drawer line (R451). -/
inductive Hold where
  | no | shared | owned
  deriving DecidableEq, Repr

/-- What a home slice keeps for a line. `copy` is the home's own data when an agent holds the line modified, `queue` the
requests that have reached the home and wait there, in order of arrival (R237), `bad` the unit kind of an uncorrectable error that
marks the line, or 0 (R414), `l2` whether the slice holds the line, `dirty` the tenant whose
writes there the backing store lacks (R236), `hold`
how the part holds it from its drawer and `dlease` the end of the part's lease there (R451). -/
structure HomeLine where
  dir : DirState := .i
  count : Nat := 0
  copy : List Byte := []
  lmax : BitVec 16 := 0
  lock : Option Nat := none
  queue : List Nat := []
  writers : List Nat := []
  bad : Nat := 0
  l2 : Bool := false
  dirty : Option Nat := none
  hold : Hold := .no
  dlease : Nat := 0
  deriving DecidableEq, Repr

/-- A SELF copy in a core's L1 (R240): data and the end of its use, L - 100, relative to the core's base. -/
structure SelfCopy where
  data : List Byte
  til : Nat
  deriving DecidableEq, Repr

/-- A core (R1): its clock against domain time, its gates, whether it is retired (R420) or will be once a set has left it (R417), and
the engines' own state. -/
structure Core where
  gather : Nat := 0
  skew : Int := 0
  gated : Bool := true
  resync : Bool := false
  leaseBase : Nat := 0
  retired : Bool := false
  doomed : Bool := false
  handlerCtx : Option Nat := none
  books : List (Nat × Nat) := []
  maps : List (Nat × Nat × List Byte) := []
  deriving DecidableEq, Repr

/-- A Nymken port (R453 to R458): PORTSTAT and PORTCTL fields, the window its failed flits are counted in, whether a swap is
asked for, when retraining began, the contexts whose requests waited, and the stall that has ended: its length and whether
the port was retired (R459). -/
structure Port where
  state : Nat := 0
  svc : Nat := 0
  livew : Nat := 0
  drawer : Nat := 0
  dport : Nat := 0
  uflits : Nat := 0
  window : Nat := 0
  en : Bool := false
  thresh : Nat := 0
  swap : Bool := false
  since : Nat := 0
  waiting : List Nat := []
  stall : Option (Nat × Bool) := none
  deriving DecidableEq, Repr

/-- A transform block of a decoded block (R346): levels, channel by channel, 16 each; or residuals, four a pixel. -/
inductive TBlock where
  | coef (levels : List Int)
  | bypass (resid : List Nat)
  deriving DecidableEq, Repr

/-- A decoded surface block at its planisher (R345 to R347): its context, surface and index, the privilege and descriptor it
was decoded under, its home and set, its fields, the prediction of its pixels (four channels each), its transform blocks, the
chunks its record named, and its pin (R352). -/
structure SurfBlock where
  ctx : Nat
  surf : Nat
  b : Nat
  priv : Nat
  desc : BitVec 512
  home : Nat
  set : Nat
  mode : Nat
  ref : Nat
  mvx : Int
  mvy : Int
  step : Nat
  version : Nat
  base : Nat
  depth : Nat
  pred : List Nat
  tbs : List TBlock
  old : List Nat
  dirty : Bool := false
  pinned : Option Nat := none
  timedOut : Bool := false
  deriving DecidableEq, Repr

/-- Who acts next: the interleaving of the part's agents, which the specification leaves open (R159, R116). -/
inductive Choice where
  /-- The bundle of a core's port issues its next word. -/
  | issue (bundle : Nat)
  /-- Another agent takes one of its steps. -/
  | act (i : Instr)
  /-- Time passes, in cycles. -/
  | pass (n : Nat)
  /-- A pending store becomes visible to a wider set of agents (R248, R262). -/
  | reveal (op level : Nat)
  /-- The host writes memory (R236). -/
  | hostStore (addr : Nat) (data : List Byte)
  deriving DecidableEq, Repr

/-- The whole part. -/
structure State where
  /-- Model's own: the order in which agents act (an input), the counter of free values, the bundle whose word executes,
  the operations in flight in issue order, and the next identifiers. -/
  agenda : List Choice := []
  fresh : Nat := 0
  cur : Option Nat := none
  pend : List Pend := []
  seq : Nat := 1
  /-- Memory (R222) and the memories of the cores (R229, R309, R295), by address. -/
  mem : List Host.Cell := []
  scratch : List Host.Cell := []
  acc : List Host.Cell := []
  book : List Host.Cell := []
  stale : List Host.Cell := []
  /-- Threads, crews, billets and bundles by their place. -/
  threads : Map Thread := []
  crews : Map Crew := []
  billets : Map Billet := []
  bundles : Map Bundle := []
  cores : Map Core := []
  groups : Map Group := []
  wps : Map Workpiece := []
  saved : List SavedSet := []
  objUse : List (Nat × Nat) := []
  icache : Map (List Nat) := []
  /-- Engines. -/
  ladle : List Command := []
  trav : List Command := []
  anvil : List AnvilOp := []
  surfs : List SurfBlock := []
  descs : Map (BitVec 512) := []
  poolLow : List Nat := []
  encWait : List (Nat × Nat × Nat) := []
  frozen : List (Nat × Nat) := []
  /-- Homes. -/
  homes : Map HomeLine := []
  sliceBase : Map Nat := []
  copies : Map SelfCopy := []
  probes : List Probe := []
  /-- What orders accesses in flight: the releases the bytes of memory stand for, what threads know of, strong reads and
  fences they made (R251 to R253), and what was in flight before the acts on barriers, stages and queues (R169, R174, R176). -/
  notes : List Note := []
  know : List Know := []
  reads : List ReadRec := []
  relFences : List RelFence := []
  scs : List RelHead := []
  carried : List (Nat × Nat) := []
  /-- Operations that reached a scratchpad line while an engine owned it (R247). -/
  scratchWait : List (Nat × Nat) := []
  counts : Map AccessCount := []
  /-- Uncorrectable errors not read yet that no line of memory carries: kinds 1 to 4 with their place (R436), kind 8 with the agent
  (R246); and the errors counted, by location and time (R418). -/
  errors : List (Nat × Nat) := []
  errLog : List (Nat × Nat × Nat) := []
  /-- Contexts (tenant * 16 + slot) and tenants. -/
  ctxs : Map Context := []
  tenants : Map Tenant := []
  /-- Part registers (R439). -/
  ctxSel : W32 := 0
  l2cfg : Map W32 := []
  rngBase : Map W64 := []
  rngLim : Map W64 := []
  rngCtl : Map W32 := []
  rngAcc : Map (BitVec 8) := []
  capCores : W32 := 0x40404040
  capSlices : W32 := 0x40404040
  capChan : W32 := 0x20202020
  capWaves : W32 := 0x800
  drwSize : Map W64 := []
  slotTab : Map W64 := []
  slotShadow : Map W64 := []
  ports : Map Port := []
  sliceMap : Map Nat := []
  retired : List (Nat × Nat) := []
  /-- Time, power and the platform (R449, R471 to R474). `hold` counts ticks to withhold, `slewAt` is the time of the last
  comparison with the reference; `power` is 0 in D0, 1 on the way to D3hot, 2 in D3hot. -/
  time : Nat := 0
  sub : Nat := 0
  hold : Nat := 0
  slewAt : Option Nat := none
  refDrawer : Option Nat := none
  ready : Bool := false
  recovery : Bool := false
  status : Nat := 0
  power : Nat := 0
  clockStep : Nat := 0
  module : Nat := 0
  measurement : List Byte := []
  attest : List (List Byte) := []
  irqs : List (Nat × Nat) := []
  deriving DecidableEq, Repr

/-- The part right after power-good, before any step of bring-up: every register at its reset value, nothing resident,
no memory written (log 10, 11, 12 for the values no rule gives). -/
def State.reset : State := {}

end Sys2Proof.Machine
end

