-- ==== Sys2Proof/Machine/Maps.lean ====
section
/-!
DEFINITION. Sparse maps, the canonical byte memories, little-endian values, and the places of threads, crews, billets and
cores in State.
-/
namespace Sys2Proof.Machine

/-- The entry of a key. -/
def Map.get? {α : Type} (m : Map α) (k : Nat) : Option α :=
  match m with
  | [] => none
  | (k', a) :: t => if k' = k then some a else Map.get? t k

/-- Sets the entry of a key, keys rising. -/
def Map.set {α : Type} (m : Map α) (k : Nat) (a : α) : Map α :=
  match m with
  | [] => [(k, a)]
  | (k', b) :: t =>
    if k' = k then (k, a) :: t
    else if k < k' then (k, a) :: (k', b) :: t
    else (k', b) :: Map.set t k a

/-- Removes the entry of a key. -/
def Map.del {α : Type} (m : Map α) (k : Nat) : Map α := m.filter fun e => e.1 != k

/-- Insertion into a list in order, and sorting by it. -/
def insertBy {α : Type} (le : α → α → Bool) (x : α) : List α → List α
  | [] => [x]
  | y :: t => if le x y then x :: y :: t else y :: insertBy le x t

def sortBy {α : Type} (le : α → α → Bool) : List α → List α
  | [] => []
  | x :: t => insertBy le x (sortBy le t)

def sortNat : List Nat → List Nat := sortBy fun a b => decide (a ≤ b)

/-- Reads one byte: a byte no entry lists reads 0 (log 11). -/
def Memory.read (m : List Host.Cell) (a : Nat) : Byte :=
  match m with
  | [] => 0
  | (k, b) :: t => if k = a then b else Memory.read t a

/-- Writes one byte, keeping the form: addresses rising, no entry equal to what an absent one reads as. -/
def Memory.write (m : List Host.Cell) (a : Nat) (b : Byte) : List Host.Cell :=
  match m with
  | [] => if b = 0 then [] else [(a, b)]
  | (k, c) :: t =>
    if k = a then (if b = 0 then t else (a, b) :: t)
    else if a < k then (if b = 0 then (k, c) :: t else (a, b) :: (k, c) :: t)
    else (k, c) :: Memory.write t a b

/-- Whether every entry lies at or above a bound, addresses rise and no entry is 0. -/
def Memory.wfFrom (lo : Nat) (m : List Host.Cell) : Bool :=
  match m with
  | [] => true
  | (k, c) :: t => decide (lo ≤ k) && c != 0 && Memory.wfFrom (k + 1) t

/-- The canonical form of a memory. -/
def Memory.wf (m : List Host.Cell) : Bool := Memory.wfFrom 0 m

/-- Consecutive bytes. -/
def Memory.readBytes (m : List Host.Cell) (a : Nat) : Nat → List Byte
  | 0 => []
  | n + 1 => Memory.read m a :: Memory.readBytes m (a + 1) n

def Memory.writeBytes (m : List Host.Cell) (a : Nat) (bs : List Byte) : List Host.Cell :=
  match bs with
  | [] => m
  | b :: t => Memory.writeBytes (Memory.write m a b) (a + 1) t

/-- Little-endian (R3). -/
def ofBytes (bs : List Byte) : Nat :=
  match bs with
  | [] => 0
  | b :: t => b.toNat + 256 * ofBytes t

def toBytes (n : Nat) : Nat → List Byte
  | 0 => []
  | k + 1 => BitVec.ofNat 8 n :: toBytes (n / 256) k

/-- Places: a thread is core * 1024 + slot * 32 + lane, a crew core * 32 + slot, a billet core * 4 + position, a bundle
core * 2 + port.  Slot 16 is the handler slot (R150, R404); core 256 stands for the hub controller (R437, log 13).  An
operation that outlives its thread keeps the place in the low 20 bits of a number of its own. -/
def coreOf (t : Nat) : Nat := t % 1048576 / 1024
def crewOf (t : Nat) : Nat := t / 32
def laneOf (t : Nat) : Nat := t % 32
def slotOf (t : Nat) : Nat := t / 32 % 32
def dieOf (core : Nat) : Nat := core / 64
def handlerSlot : Nat := 16
def hubCore : Nat := 256

/-- A place that holds no thread reads as one that has ended. -/
def Thread.dead : Thread := { status := .ended }

def State.thr (s : State) (t : Nat) : Thread := (s.threads.get? t).getD Thread.dead
def State.setThr (s : State) (t : Nat) (th : Thread) : State := { s with threads := s.threads.set t th }
def State.updThr (s : State) (t : Nat) (f : Thread → Thread) : State := s.setThr t (f (s.thr t))

def State.crew (s : State) (c : Nat) : Crew := (s.crews.get? c).getD {}
def State.setCrew (s : State) (c : Nat) (x : Crew) : State := { s with crews := s.crews.set c x }
def State.updCrew (s : State) (c : Nat) (f : Crew → Crew) : State := s.setCrew c (f (s.crew c))

def State.core (s : State) (c : Nat) : Core := (s.cores.get? c).getD {}
def State.updCore (s : State) (c : Nat) (f : Core → Core) : State := { s with cores := s.cores.set c (f (s.core c)) }

/-- The billet of a crew: its core and the position its crew record names. -/
def State.billetKey (s : State) (c : Nat) : Nat := c / 32 * 4 + (s.crew c).pos
def State.billet? (s : State) (c : Nat) : Option Billet := s.billets.get? (s.billetKey c)
def State.updBillet (s : State) (k : Nat) (f : Billet → Billet) : State :=
  match s.billets.get? k with
  | some b => { s with billets := s.billets.set k (f b) }
  | none => s

def State.updWp (s : State) (w : Nat) (f : Workpiece → Workpiece) : State :=
  match s.wps.get? w with
  | some x => { s with wps := s.wps.set w (f x) }
  | none => s

def State.ctx (s : State) (c : Nat) : Context := (s.ctxs.get? c).getD {}
def State.updCtx (s : State) (c : Nat) (f : Context → Context) : State := { s with ctxs := s.ctxs.set c (f (s.ctx c)) }
def State.tenant (s : State) (t : Nat) : Tenant := (s.tenants.get? t).getD {}
def State.updTenant (s : State) (t : Nat) (f : Tenant → Tenant) : State :=
  { s with tenants := s.tenants.set t (f (s.tenant t)) }
def Tenant.queue (t : Tenant) (q : Nat) : LaunchQueue := (t.lq.get? q).getD {}
def State.updQueue (s : State) (t q : Nat) (f : LaunchQueue → LaunchQueue) : State :=
  s.updTenant t fun x => { x with lq := x.lq.set q (f (x.queue q)) }

/-- The context a crew runs in: the handler's served context (R404), or its workpiece's. -/
def State.ctxOf (s : State) (c : Nat) : Nat :=
  if c % 32 = handlerSlot then (s.core (c / 32)).handlerCtx.getD 0
  else match s.billet? c with
    | some b => ((s.wps.get? b.wp).map Workpiece.ctx).getD 0
    | none => 0

/-- The workpiece of a crew, if it runs for one. -/
def State.wpOf (s : State) (c : Nat) : Option Workpiece :=
  (s.billet? c).bind fun b => s.wps.get? b.wp

/-- Whether every operation a thread issued is over (R46). -/
def State.drained (s : State) (t : Nat) : Bool := s.pend.all fun p => p.tid != t

/-- The lanes of a crew that hold a thread that has not ended, and the threads themselves (R151). -/
def crewTids (c : Nat) : List Nat := (List.range 32).map fun l => c * 32 + l

/-- The n-th home, by line (R223): die and slice as one number, die * 64 + slice. -/
def homeOf (s : State) (pa : Nat) : Nat :=
  let bit (lo n : Nat) : Nat := pa / 2 ^ lo % 2 ^ n
  let die := if pa / 2 ^ 51 = 0 ∧ bit 46 5 < 4 then bit 46 5 else Nat.xor (bit 12 2) (bit 20 2)
  let sl := Nat.xor (Nat.xor (bit 7 6) (bit 13 6)) (bit 19 6)
  die * 64 + (s.sliceMap.get? (die * 64 + sl)).getD sl

/-- Whether a physical byte exists (R222). -/
def populated (s : State) (pa : Nat) : Bool :=
  let r := pa / 2 ^ 46 % 32
  if 2 ^ 52 ≤ pa then false
  else if 2 ^ 51 ≤ pa then true
  else if r < 4 then decide (pa % 2 ^ 46 < 2 ^ 35)
  else if r = 4 then decide (pa % 2 ^ 46 < 2 ^ 37)
  else if r < 16 then false
  else decide (pa % 2 ^ 46 < ((s.drwSize.get? (r - 16)).getD 0).toNat)

/-- A clause address as a 64-bit virtual address. -/
def pc64 (pc : BitVec 57) : W64 := pc.signExtend 64

def lineOf (pa : Nat) : Nat := pa / 128

/-- Physical bytes, without regard to who may see what. -/
def State.readPa (s : State) (pa n : Nat) : Nat := ofBytes (Memory.readBytes s.mem pa n)
def State.writePa (s : State) (pa : Nat) (bs : List Byte) : State := { s with mem := Memory.writeBytes s.mem pa bs }

def State.home (s : State) (line : Nat) : HomeLine := (s.homes.get? line).getD {}
def State.updHome (s : State) (line : Nat) (f : HomeLine → HomeLine) : State :=
  { s with homes := s.homes.set line (f (s.home line)) }

/-- The next value of a modular register. -/
def bump {w : Nat} (x : BitVec w) : BitVec w := x + 1

end Sys2Proof.Machine
end

