-- ==== Sys2Proof/Machine/Order.lean ====
section
/-!
DEFINITION. The order of accesses in flight (R248 to R262): who sees a store that has not performed, which releases a byte
stands for, and what happened before what.  An operation that has performed is visible to every agent; the relations are kept
only as far as they name operations that have not.
-/
namespace Sys2Proof

/-- How wide a scope is (R249). Level 6 holds other parts, for which an operation must have performed (R450). -/
def Scope.level : Scope → Nat
  | .crew => 1 | .core => 2 | .clus => 3 | .die => 4 | .dev => 5 | .dom => 6

def Ord.acquires : Ord → Bool
  | .acq => true | .ar => true | .sc => true | _ => false

def Ord.releases : Ord → Bool
  | .rel => true | .ar => true | .sc => true | _ => false

end Sys2Proof

namespace Sys2Proof.Machine

/-! Accesses. -/

/-- R248: a strong access. Every read-modify-write and every scratchpad access is. -/
def Acc.strong (a : Acc) : Bool := a.ord != .weak || a.space == .scratch

def Acc.covers (a : Acc) (sp : Space) (k : Nat) : Bool := a.space == sp && decide (a.pa ≤ k ∧ k < a.pa + a.size)

def Acc.lines (a : Acc) : List Nat := (List.range ((a.pa + a.size - 1) / 128 + 1 - a.pa / 128)).map (a.pa / 128 + ·)

/-- A page of host memory with protocol UNC (R259). -/
def Acc.hostUnc (a : Acc) : Bool := a.space == .global && a.proto == 2 && decide (2 ^ 51 ≤ a.pa)

/-- The access of an operation, if it names one location. -/
def POp.acc? : POp → Option Acc
  | .load a _ => some a
  | .store a _ _ => some a
  | .rmw a _ _ _ => some a
  | .cas a _ _ _ => some a
  | _ => none

/-- The bytes an operation reads or writes, by space, place and number. -/
def POp.ranges : POp → List (Space × Nat × Nat)
  | .mcas _ es _ _ _ _ => es.map fun e => (.global, e.pa, e.size)
  | op => (op.acc?.map fun a => (a.space, a.pa, a.size)).toList

/-- Two operations have a byte in common. -/
def POp.overlaps (p q : POp) : Bool :=
  p.ranges.any fun x => q.ranges.any fun y =>
    x.1 == y.1 && decide (x.2.1 < y.2.1 + y.2.2) && decide (y.2.1 < x.2.1 + x.2.2)

/-- The object an operation in flight acts on: its address times two, plus one for a queue. -/
def POp.obj? : POp → Option Nat
  | .stage a _ => some (2 * a)
  | .stgTry a _ _ => some (2 * a)
  | .qinit a _ _ _ => some (2 * a + 1)
  | .qtryPush a _ _ => some (2 * a + 1)
  | .qtryPop a _ _ _ => some (2 * a + 1)
  | .qcount a _ => some (2 * a + 1)
  | .qbreak a => some (2 * a + 1)
  | _ => none

def POp.isStore : POp → Bool
  | .store .. => true
  | _ => false

def POp.isLoad : POp → Bool
  | .load .. => true
  | _ => false

def POp.isFence : POp → Bool
  | .fence .. => true
  | _ => false

/-- A read and a write at once (R248). -/
def POp.isRmw : POp → Bool
  | .rmw .. => true
  | .cas .. => true
  | .mcas .. => true
  | _ => false

/-- An effect that others can observe, and that no later write of the thread waits for. -/
def POp.leaves : POp → Bool
  | .store .. => true
  | .stage .. => true
  | .qinit .. => true
  | .qtryPush .. => true
  | .qtryPop .. => true
  | .qbreak .. => true
  | _ => false

/-- R248, R265: an operation no later access of its thread may pass. A speculative FENCE is left to `holdsBack`. -/
def POp.acquires : POp → Bool
  | .load a _ => a.ord.acquires
  | .rmw a _ _ _ => a.ord.acquires
  | .cas a _ _ _ => a.ord.acquires
  | .mcas .. => true
  | .fence o _ _ _ => o.acquires
  | .stgTry .. => true
  | .qtryPop .. => true
  | _ => false

/-- How far a store is visible; the level of its scope is what R270 asks. -/
def POp.vis : POp → Nat
  | .store _ _ v => v
  | _ => 0

/-! Positions and visibility. -/

/-- The place behind a thread number. -/
def placeOf (t : Nat) : Nat := t % 1048576

/-- R249: two places share the unit of a level. -/
def shares (lvl a b : Nat) : Bool :=
  match lvl with
  | 0 => false
  | 1 => placeOf a / 32 == placeOf b / 32
  | 2 => coreOf a == coreOf b
  | 3 => coreOf a / 4 == coreOf b / 4
  | 4 => coreOf a / 64 == coreOf b / 64
  | _ => true

/-- Whether an operation counts as visible throughout its thread's instance of a level. -/
def Pend.visible (p : Pend) (lvl : Nat) : Bool :=
  p.done || (match p.op with
    | .store _ _ v => decide (lvl ≤ v)
    | .unit _ => true
    | .pref .. => true
    | _ => false)

/-- Whether a thread sees an operation of another. -/
def Pend.shown (q : Pend) (t : Nat) : Bool :=
  q.done || q.tid == t || shares q.op.vis q.tid t || (q.op.isStore && q.seen.contains (coreOf t))

/-- Whether every agent of a thread's instance of a level sees an operation. -/
def Pend.reaches (q : Pend) (lvl t : Nat) : Bool := q.done || (decide (lvl ≤ q.op.vis) && shares q.op.vis q.tid t)

/-- Whether the agents at a home slice of a die see an operation (R249). -/
def Pend.atDie (q : Pend) (die : Nat) : Bool := q.done || decide (5 ≤ q.op.vis) || (q.op.vis == 4 && dieOf (coreOf q.tid) == die)

/-- Whether an operation has not performed. -/
def State.open (s : State) (id : Nat) : Bool := s.pend.any fun q => q.id == id && !q.done

/-- Whether a thread sees the operations named, so far as they are in flight. -/
def State.sees (s : State) (t : Nat) (ids : List Nat) : Bool := s.pend.all fun q => !ids.contains q.id || q.shown t

/-! The last store in flight on a byte. -/

/-- Of two stores the later in coherence order: a stamp gives the place, and a thread's own store has none before it has been
shown to others. -/
def laterStore (best : Option Pend) (q : Pend) : Option Pend :=
  match best with
  | none => some q
  | some b =>
    let q_after_b := if b.stamp = 0 then q.stamp == 0 && decide (b.id ≤ q.id) else q.stamp == 0 || decide (b.stamp ≤ q.stamp)
    if q_after_b then some q else some b

/-- The last store in flight on a byte among those that `sees` selects. -/
def State.lastStore (s : State) (sees : Pend → Bool) (sp : Space) (a : Nat) : Option Pend :=
  s.pend.foldl (fun best q =>
    match q.op with
    | .store x _ _ => if !q.done && x.covers sp a && sees q then laterStore best q else best
    | _ => best) none

/-- Its byte. -/
def Pend.byteAt (q : Pend) (a : Nat) : Byte :=
  match q.op with
  | .store x data _ => data.getD (a - x.pa) 0
  | _ => 0

/-- What the operation `id` of a thread sees of a store: its own earlier ones (R41), and those of others shown to it. -/
def seenBy (t id : Nat) (q : Pend) : Bool := if q.tid = t then decide (q.id < id) else q.shown t

/-- The last store in flight that the reader may see, its own earlier ones included (R41). -/
def pendByte (s : State) (t id : Nat) (sp : Space) (a : Nat) : Option Byte :=
  (s.lastStore (seenBy t id) sp a).map fun q => q.byteAt a

/-- A byte of memory as the agents of a die's home slices see it (R249). -/
def dieByte (s : State) (die a : Nat) : Byte :=
  match s.lastStore (fun q => q.atDie die) .global a with
  | some q => q.byteAt a
  | none => Memory.read s.mem a

/-- A byte of memory as an acquire at device scope reads it. -/
def devByte (s : State) (a : Nat) : Byte :=
  match s.lastStore (fun q => decide (5 ≤ q.op.vis)) .global a with
  | some q => q.byteAt a
  | none => Memory.read s.mem a

/-- A number in memory as the walker reads it (R224). -/
def devNat (s : State) (a n : Nat) : Nat := ofBytes ((List.range n).map fun k => devByte s (a + k))

/-! Happens-before. -/

/-- Whether a release still stands for something in flight. -/
def RelHead.live (s : State) (h : RelHead) : Bool := h.owed.any s.open

/-- R250: a release and a read at a level of a thread are morally strong. -/
def RelHead.meets (h : RelHead) (lvl t : Nat) : Bool := shares h.level h.tid t && shares lvl h.tid t

/-- What happened before the operation `id` of a thread and is in flight: its own effects, and what it learned (R253). -/
def State.owed (s : State) (t id : Nat) : List Nat :=
  (((s.pend.filter fun q => !q.done && q.tid == t && decide (q.id < id) && q.op.leaves).map Pend.id) ++
    ((s.know.filter fun k => k.tid == t && decide (k.op < id)).map Know.store)).dedup.filter s.open

/-- A thread learns of operations at its operation `id`. -/
def State.learn (s : State) (t id : Nat) (ids : List Nat) : State :=
  let new := (ids.dedup.filter s.open).filter fun i => !(s.know.any fun k => k.tid == t && k.store == i && decide (k.op ≤ id))
  if new.isEmpty then s else { s with know := s.know ++ new.map fun i => { tid := t, op := id, store := i } }

/-- The releases the performed value of a byte stands for. -/
def State.noteAt (s : State) (sp : Space) (a : Nat) : List RelHead :=
  ((s.notes.find? fun n => n.space == sp && n.pa == a).map Note.heads).getD []

/-- The releases of the write a reader of a byte reads from. -/
def State.headsAt (s : State) (sees : Pend → Bool) (sp : Space) (a : Nat) : List RelHead :=
  match s.lastStore sees sp a with
  | some q => q.heads
  | none => s.noteAt sp a

/-- Those of the writes an operation reads from: a read-modify-write reads what has performed (R254). -/
def readHeads (s : State) (p : Pend) : List RelHead :=
  (p.op.ranges.flatMap fun r => (List.range r.2.2).flatMap fun k =>
    if p.op.isRmw then s.noteAt r.1 (r.2.1 + k) else s.headsAt (seenBy p.tid p.id) r.1 (r.2.1 + k)).dedup

/-- The order and the level of the scope of a strong operation. -/
def POp.strong? : POp → Option (Ord × Nat)
  | .mcas a .. => some (.ar, a.scope.level)
  | op => op.acc?.bind fun a => if a.strong then some (a.ord, a.scope.level) else none

/-- The releases an acquire synchronises with (R252), with those it promotes (R261). -/
def metHeads (s : State) (p : Pend) : List RelHead :=
  match p.op.strong? with
  | some (o, lvl) =>
    if o.acquires then
      (readHeads s p).filter fun h => h.meets lvl p.tid || ((p.op.acc?.map Acc.rem).getD false && !shares h.level h.tid p.tid)
    else []
  | none => []

/-- What a `.rem` acquire has made visible before it completes (R261): the effects of the releases it promotes, and the writes
that the agents of those releases' instances hold. -/
def promotionOwed (s : State) (p : Pend) : List Nat :=
  let hs := (metHeads s p).filter fun h => !shares h.level h.tid p.tid && h.live s
  ((hs.flatMap RelHead.owed) ++ (hs.flatMap fun h =>
    (s.pend.filter fun q => q.op.isStore && !q.done && shares h.level q.tid h.tid &&
      (match q.op.acc? with | some a => a.space == .global | none => false)).map Pend.id)).dedup.filter fun i =>
    s.pend.any fun q => q.id == i && !q.visible 5

/-- The releases a strong write stands for (R251, R252): its own, those of the fences before it, and those of the write it
follows, all for a read-modify-write and its own thread's for a store. -/
def writeHeads (s : State) (p : Pend) (before : List RelHead) : List RelHead :=
  match p.op.strong? with
  | none => []
  | some (o, lvl) =>
    let own : List RelHead := if o.releases then [{ tid := p.tid, op := p.id, level := lvl, owed := s.owed p.tid p.id }] else []
    let fenced : List RelHead := (s.relFences.filter fun f => f.tid == p.tid && decide (f.op < p.id)).map fun f =>
      { tid := p.tid, op := f.op, level := min f.level lvl, owed := s.owed p.tid f.op }
    ((own ++ fenced ++ if p.op.isRmw then before else before.filter fun h => h.tid == p.tid).filter (RelHead.live s)).dedup

/-- Notes of a range of bytes after a write with these releases. -/
def State.noteWrite (s : State) (sp : Space) (a n : Nat) (hs : List RelHead) : State :=
  { s with notes := (s.notes.filter fun x => !(x.space == sp && decide (a ≤ x.pa ∧ x.pa < a + n))) ++
      if hs.isEmpty then [] else (List.range n).map fun k => { space := sp, pa := a + k, heads := hs } }

/-- A strong read has performed: it is recorded, an acquire learns what it synchronises with, and a store in flight that it
read from, morally strong, happens before what follows (R252, R254). -/
def State.readDone (s : State) (p : Pend) : State :=
  match p.op.strong? with
  | none => s
  | some (_, lvl) =>
    let hs := (readHeads s p).filter (RelHead.live s)
    let met := metHeads s p
    let from_ := if p.op.isRmw then [] else
      p.op.ranges.flatMap fun r => (List.range r.2.2).filterMap fun k =>
        (s.lastStore (seenBy p.tid p.id) r.1 (r.2.1 + k)).bind fun q =>
          match q.op.strong? with
          | some (_, l) => if shares l q.tid p.tid && shares lvl q.tid p.tid then some q.id else none
          | none => none
    let s := s.learn p.tid p.id ((met.flatMap RelHead.owed) ++ from_)
    if hs.isEmpty then s else { s with reads := s.reads ++ [{ tid := p.tid, op := p.id, level := lvl, heads := hs }] }

/-- What an acquiring FENCE synchronises with (R252): the releases its thread's earlier strong reads read from, each at the
narrower scope, and for `.sc` the earlier ones in S. -/
def fenceHeads (s : State) (t id lvl : Nat) (o : Ord) : List RelHead :=
  (if o.acquires then (s.reads.filter fun r => r.tid == t && decide (r.op < id)).flatMap fun r =>
    r.heads.filter fun h => h.meets (min lvl r.level) t else []) ++
  (if o = .sc then s.scs.filter fun h => h.meets lvl t else [])

/-- What an object of R252's fifth case carries from the acts before to those that observe them. -/
def State.carry (s : State) (key t id : Nat) : State :=
  { s with carried := (s.carried ++ (s.owed t id).map fun i => (key, i)).dedup }

def State.learnFrom (s : State) (key t id : Nat) : State :=
  s.learn t id ((s.carried.filter fun e => e.1 == key).map Prod.snd)

/-- Keys of objects and of group instances. -/
def objKey (obj : Nat) : Nat := 2 * obj
def groupKey (g : Nat) : Nat := 2 * g + 1

/-- Relations that name nothing in flight any more are dropped. -/
def State.prune (s : State) : State :=
  if s.pend.all (fun q => q.done || !q.op.leaves) then
    { s with notes := [], know := [], reads := [], scs := [], carried := [] }
  else
    { s with
      notes := s.notes.filter fun n => n.heads.any (RelHead.live s)
      know := s.know.filter fun k => s.open k.store
      reads := s.reads.filter fun r => r.heads.any (RelHead.live s)
      scs := s.scs.filter (RelHead.live s)
      carried := s.carried.filter fun e => s.open e.2 }

/-! What must have performed or been shown first. -/

/-- Everything the thread issued before `id`, and what it knows of, is visible throughout its instance of a level (R253). -/
def settledBefore (s : State) (t id lvl : Nat) : Bool :=
  (s.pend.all fun p => p.tid != t || !decide (p.id < id) || p.visible lvl) &&
  s.pend.all fun p => p.reaches lvl t || !(s.know.any fun k => k.tid == t && k.store == p.id && decide (k.op < id))

def settled (s : State) (t lvl : Nat) : Bool := settledBefore s t s.seq lvl

/-- Whether an earlier operation of the same thread, not yet performed, holds one back: an acquire, a fence, the same bytes
(R41, R254). -/
def holdsBack (p q : Pend) : Bool :=
  (match q.op with
   | .fence o _ strict snap =>
     !p.op.isLoad || strict || snap.isNone ||
       (match p.op with
        | .load a _ => a.hostUnc || (a.space == .scratch && o.acquires)
        | _ => true)
   | op => op.acquires) ||
  (if !p.op.ranges.isEmpty && !q.op.ranges.isEmpty then
     p.op.overlaps q.op &&
       (match p.op, q.op with
        | .load a _, .load b _ => a.strong && b.strong
        | .load _ _, .store .. => false
        | _, _ => true)
   else
     match p.op, q.op with
     | .cctl .., .cctl .. => true
     | .cctl ls _ _, _ => q.op.ranges.any fun r => r.1 == .global && ls.contains (r.2.1 / 128)
     | _, .cctl ls _ _ => p.op.ranges.any fun r => r.1 == .global && ls.contains (r.2.1 / 128)
     | .monitor .., .monitor .. => true
     | _, _ =>
       (p.op.obj?.isSome && (q.op.obj?.isSome || q.op.ranges.any fun r => r.1 == .scratch)) ||
         (q.op.obj?.isSome && p.op.ranges.any fun r => r.1 == .scratch))

/-- Whether a pending operation of a lower lane of the same word comes first: on the same bytes (R268), or the same object
(R201). -/
def comesFirst (p q : Pend) : Bool :=
  p.word == q.word && ((p.op.overlaps q.op && !(p.op.isLoad && q.op.isLoad)) || (p.op.obj?.isSome && p.op.obj? == q.op.obj?))

/-- The home die of an operation that acts at a crucible. -/
def POp.homeDie (s : State) (op : POp) : Option Nat :=
  if op.isRmw then (op.ranges.find? fun r => r.1 == .global).map fun r => homeOf s r.2.1 / 64 else none

/-- Coherence order (R254): a store that others already see, on bytes of a write, comes first where the writer sees it, or the
crucible that acts; two that others see keep their order. -/
def writeAfter (s : State) (p q : Pend) : Bool :=
  q.stamp != 0 && !q.done && q.op.isStore && q.id != p.id && p.op.overlaps q.op &&
    (if p.stamp = 0 then q.shown p.tid || (p.op.homeDie s).any fun d => q.atDie d else decide (q.stamp < p.stamp))

/-- The place up to which a write carries what was before it: a release its own, a strong write the last of its fences. -/
def releaseFrom (s : State) (p : Pend) : Nat :=
  match p.op.strong? with
  | none => 0
  | some (o, _) =>
    if o.releases then p.id
    else ((s.relFences.filter fun f => f.tid == p.tid && decide (f.op < p.id)).map RelFence.op).foldl max 0

/-- The reads before a release have their values (R253). -/
def readsBefore (s : State) (p : Pend) : Bool :=
  let n := releaseFrom s p
  s.pend.all fun q => q.tid != p.tid || q.done || !decide (q.id < n) || q.op.leaves || q.op.isFence ||
    (match q.op with | .pref .. => true | .unit _ => true | .value => true | .monitor .. => true | .cctl .. => true | _ => false)

/-- Lines an engine owns are waited for (R247). -/
def ownedLine (s : State) (sp : Space) (line : Nat) : Bool :=
  s.ladle.any (fun c => c.owned.any fun o => o == (sp, line)) ||
    s.trav.any (fun c => c.owned.any fun o => o == (sp, line)) ||
    s.anvil.any fun c => c.owned.any fun o => o == (sp, line)

/-- The lines of a range of bytes. -/
def rangeLines (r : Space × Nat × Nat) : List (Space × Nat) :=
  (List.range ((r.2.1 + r.2.2 - 1) / 128 + 1 - r.2.1 / 128)).map fun i => (r.1, r.2.1 / 128 + i)

/-- The lines an operation reaches. -/
def POp.lines (op : POp) : List (Space × Nat) :=
  (op.ranges.flatMap rangeLines ++ op.obj?.toList.map fun k => (Space.scratch, k / 2 / 128)).dedup

/-- What else a thread's operation waits for by the order of accesses: the thread's own earlier ones, lower lanes, stores
before it in coherence order, reads before a release, and for an acquire what it synchronises with. -/
def ordered (s : State) (p : Pend) : Bool :=
  (s.pend.all fun q => q.done || !decide (q.id < p.id) || !(if q.tid = p.tid then holdsBack p q else comesFirst p q)) &&
  ((p.op.isLoad || p.op.ranges.isEmpty) || s.pend.all fun q => !writeAfter s p q) &&
  readsBefore s p && s.sees p.tid ((metHeads s p).flatMap RelHead.owed)

end Sys2Proof.Machine
end

