-- ==== Sys2Proof/Machine/Journal.lean ====
section
/-!
DEFINITION. The journal of a revocable interval (R411 to R413): the first write to a unit records what it held.
-/
namespace Sys2Proof.Machine

/-- R412: the journal holds 455 entries. -/
def journalCap : Nat := 455

/-- The word of a v register as it is stored. -/
def Thread.vReg (t : Thread) (n : Nat) : W32 := (t.v.get? n).getD 0

/-- The content of a unit: 128 bytes, and the poison bits of a register of a crew. -/
def State.unitContent (s : State) (u : JUnit) : List Byte × W32 :=
  match u with
  | .reg c r =>
    ((crewTids c).flatMap fun t => toBytes ((s.thr t).vReg r).toNat 4,
     BitVec.ofNat 32 (((crewTids c).map fun t =>
       if (s.thr t).poison.contains r then 2 ^ laneOf t else 0).foldl (· + ·) 0))
  | .scratch l => (Memory.readBytes s.scratch (128 * l) 128, 0)
  | .acc l => (Memory.readBytes s.acc (128 * l) 128, 0)
  | .global l => (Memory.readBytes s.mem (128 * l) 128, 0)

/-- R413: the interval of a billet becomes irrevocable until its next checkpoint. -/
def State.irrevocable (s : State) (b : Nat) : State :=
  s.updBillet b fun x => { x with irrevocable := true }

/-- R412: journals a unit before its first write in a revocable interval; a full journal ends the interval's
revocability (R413). -/
def State.journal (s : State) (b : Nat) (u : JUnit) : State :=
  match s.billets.get? b with
  | none => s
  | some x =>
    if x.irrevocable then s
    else if x.journal.any (fun e => e.unit == u) then s
    else if journalCap ≤ x.journal.length then s.irrevocable b
    else
      let c := s.unitContent u
      s.updBillet b fun x => { x with journal := { unit := u, content := c.1, flags := c.2 } :: x.journal }

end Sys2Proof.Machine
end

