-- ==== Sys2Proof/Machine/Operands.lean ====
section
/-!
DEFINITION. How a word reads its operands and writes its results: the register files with their poison bits (R28, R29,
R391), the two or more values a register may show while a write to it is in flight (R35), immediates (R64), and the one
operation that writes a register.
-/
namespace Sys2Proof

/-- The register code a trap record names (R62, R402). -/
def Reg.dcode : Reg → Nat
  | .v n => n
  | .s n => 0xE0 + n
  | .z => 0xFF

/-- The k-th register of a pair or quad. -/
def Reg.plus (r : Reg) (k : Nat) : Reg :=
  match r with
  | .v n => .v (n + k)
  | .s n => .s (n + k)
  | .z => .z

/-- The registers operand B names. -/
def OpB.regs (b : OpB) (w : Nat) : List (Reg × Nat) :=
  match b with
  | .reg r => [(r, w)]
  | .imm _ => []

end Sys2Proof

namespace Sys2Proof.Machine

/-- A value with the poison bit it carries. -/
abbrev PVal := W32 × Bool

def Target.code : Target → Nat
  | .v n => n
  | .s n => 0xE0 + n
  | .p n => 0x100 + n

/-- The operations in flight that will write a register of a thread; an s register belongs to the crew. -/
def State.writers (s : State) (t : Nat) (g : Target) : List Pend :=
  s.pend.filter fun p => !p.landed && p.dests.contains g &&
    (match g with
     | .s _ => crewOf p.tid == crewOf t
     | _ => p.tid == t)

/-- What one operation in flight delivers to a register, once that is determined (log 20). -/
def State.delivered (g : Target) (p : Pend) : Option PVal :=
  (p.writes.find? fun w => w.tgt == g).map fun w => (w.val, w.poison)

/-- R35: a read returns the stored value or one that a write in flight delivers, the choice being free. -/
def State.hazard (s : State) (t : Nat) (g : Target) (old : PVal) : PVal :=
  match (s.writers t g).filterMap (State.delivered g) with
  | [] => old
  | ps => (old :: ps).getD (Config.pick s.fresh t g.code % (ps.length + 1)) old

/-- Reads one 32-bit register (R28, R29). -/
def State.rdReg (s : State) (t : Nat) (r : Reg) : PVal :=
  match r with
  | .v n => s.hazard t (.v n) ((s.thr t).vReg n, (s.thr t).poison.contains n)
  | .s n => s.hazard t (.s n) (((s.crew (crewOf t)).s.get? n).getD 0, false)
  | .z => (0, false)

/-- Reads a predicate (R28): p7 is 1. -/
def State.rdPred (s : State) (t : Nat) (n : Nat) : Bool :=
  if n < 7 then (s.hazard t (.p n) (if (s.thr t).p.getLsbD n then 1 else 0, false)).1.getLsbD 0 else true

/-- The guard of a word (R54). -/
def State.guard (s : State) (t : Nat) (h : Head) : Bool := Bool.xor (s.rdPred t h.idx.val) h.neg

def State.r32 (s : State) (t : Nat) (r : Reg) : W32 := (s.rdReg t r).1
def State.r64 (s : State) (t : Nat) (r : Reg) : W64 := s.r32 t (r.plus 1) ++ s.r32 t r
/-- n consecutive registers, lowest first. -/
def State.rN (s : State) (t : Nat) (r : Reg) (n : Nat) : List W32 := (List.range n).map fun k => s.r32 t (r.plus k)

/-- The first poisoned register of an operand of w registers. -/
def State.poisonIn (s : State) (t : Nat) (r : Reg) (w : Nat) : Option Nat :=
  ((List.range w).find? fun k => (s.rdReg t (r.plus k)).2).map fun k => (r.plus k).dcode

/-- The first poisoned register of a list of operands with their widths in registers. -/
def State.poisonOf (s : State) (t : Nat) (rs : List (Reg × Nat)) : Option Nat :=
  rs.findSome? fun x => s.poisonIn t x.1 x.2

def State.isPoisoned (s : State) (t : Nat) (rs : List (Reg × Nat)) : Bool := (s.poisonOf t rs).isSome

/-- Operand B at the type of the operation (R64). -/
def State.b32 (s : State) (t : Nat) (b : OpB) : W32 :=
  match b with
  | .reg r => s.r32 t r
  | .imm i => i.signExtend 32

def State.b64 (s : State) (t : Nat) (b : OpB) : W64 :=
  match b with
  | .reg r => s.r64 t r
  | .imm i => i.signExtend 64

def State.bF32 (s : State) (t : Nat) (b : OpB) : W32 :=
  match b with
  | .reg r => s.r32 t r
  | .imm i => i ++ (0 : BitVec 16)

def State.bF64 (s : State) (t : Nat) (b : OpB) : W64 :=
  match b with
  | .reg r => s.r64 t r
  | .imm i => i ++ (0 : BitVec 48)

def State.bPair (s : State) (t : Nat) (b : OpB) : W32 :=
  match b with
  | .reg r => s.r32 t r
  | .imm i => i ++ i

/-- The write of one word to a register; vz discards (R29). -/
def wr32 (r : Reg) (v : W32) (poison : Bool) : List RegWrite :=
  match r with
  | .v n => [{ tgt := .v n, val := v, poison := poison }]
  | .s n => [{ tgt := .s n, val := v, poison := poison }]
  | .z => []

def wr64 (r : Reg) (v : W64) (poison : Bool) : List RegWrite :=
  wr32 r (v.extractLsb' 0 32) poison ++ wr32 (r.plus 1) (v.extractLsb' 32 32) poison

def wr128 (r : Reg) (v : BitVec 128) (poison : Bool) : List RegWrite :=
  wr64 r (v.extractLsb' 0 64) poison ++ wr64 (r.plus 2) (v.extractLsb' 64 64) poison

def wrN (r : Reg) (vs : List W32) (poison : Bool) : List RegWrite :=
  match vs with
  | [] => []
  | v :: rest => wr32 r v poison ++ wrN (r.plus 1) rest poison

/-- The write of a predicate; p7 discards (R31). -/
def wrP (n : Nat) (b : Bool) (poison : Bool) : List RegWrite :=
  if n < 7 then [{ tgt := .p n, val := if b then 1 else 0, poison := poison }] else []

def setPred (p : BitVec 7) (n : Nat) (b : Bool) : BitVec 7 :=
  if b then p ||| BitVec.ofNat 7 (2 ^ n) else p &&& ~~~BitVec.ofNat 7 (2 ^ n)

/-- Writes one register of a thread: the one operation that does (R28, R29, R30, R31). -/
def Thread.put (t : Thread) (g : Target) (v : W32) (poison : Bool) : Thread :=
  match g with
  | .v n =>
    { t with v := Map.set t.v n v,
             poison := if poison then (if t.poison.contains n then t.poison else n :: t.poison)
                       else t.poison.filter fun k => k != n }
  | .p n => { t with p := setPred t.p n (v.getLsbD 0) }
  | .s _ => t

/-- The register write as it lands: a v register is journalled first (R412). -/
def State.putReg (s : State) (t : Nat) (w : RegWrite) : State :=
  match w.tgt with
  | .v n => (s.journal (s.billetKey (crewOf t)) (.reg (crewOf t) n)).updThr t fun x => x.put (.v n) w.val w.poison
  | .p n => s.updThr t fun x => x.put (.p n) w.val w.poison
  | .s n => s.updCrew (crewOf t) fun c => { c with s := Map.set c.s n w.val }

/-- Marks the destinations of operations in flight that another instruction writes (R35). -/
def State.contest (s : State) (t : Nat) (gs : List Target) : State :=
  { s with pend := s.pend.map fun p =>
      let hit := gs.filter fun g => !p.landed && p.dests.contains g &&
        (match g with
         | .s _ => crewOf p.tid == crewOf t
         | _ => p.tid == t)
      if hit.isEmpty then p else { p with contested := p.contested ++ hit } }

/-- The writes of a fixed-latency word for one thread. -/
def State.putRegs (s : State) (t : Nat) (ws : List RegWrite) : State :=
  ws.foldl (fun s w => s.putReg t w) (s.contest t (ws.map RegWrite.tgt))

/-- Landing of one write of an operation in flight: where another instruction wrote the register meanwhile, either
value may stay (R35). -/
def State.landReg (s : State) (t : Nat) (p : Pend) (w : RegWrite) : State :=
  if p.contested.contains w.tgt && Config.pick s.fresh p.id w.tgt.code % 2 == 1 then s else s.putReg t w

end Sys2Proof.Machine
end

