-- ==== Sys2Proof/Machine/Translate.lean ====
section
/-!
DEFINITION. Translation of virtual addresses (R224 to R228), and what the part itself reads and writes by virtual
address.
-/
namespace Sys2Proof.Machine

/-- The permissions an access needs (R227). -/
inductive AccKind where
  | read | write | rmw | fetch
  deriving DecidableEq, Repr

/-- The outcome of one translation: the physical address with the page's protocol (R225) and its SURF bit, PROT with its
DETAIL (R402), or a page fault. -/
inductive Tr where
  | ok (pa proto : Nat) (surf : Bool)
  | prot (detail : Nat)
  | fault
  deriving DecidableEq, Repr

/-- R40: bits [63:57] equal bit 56. -/
def canonical (va : Nat) : Bool := va < 2 ^ 56 || (2 ^ 64 - 2 ^ 56 ≤ va && va < 2 ^ 64)

/-- A leaf entry as it applies to one address: its flags, without a frame, and the physical address. -/
structure Leaf where
  pte : Nat
  pa : Nat
  deriving DecidableEq, Repr

def Leaf.bit (l : Leaf) (i : Nat) : Bool := l.pte / 2 ^ i % 2 == 1
def Leaf.proto (l : Leaf) : Nat := l.pte / 2 ^ 62 % 4

/-- PA of an entry: bits [51:12]. -/
def ptePa (e : Nat) : Nat := e / 4096 % 2 ^ 40 * 4096

/-- The physical address under an entry that maps 2^sz bytes: bits below the page size come from the address. -/
def leafPa (e sz va : Nat) : Nat := ptePa e / 2 ^ sz * 2 ^ sz + va % 2 ^ sz

/-- The flags of an entry. -/
def pteFlags (e : Nat) : Nat := e / 2 ^ 52 * 2 ^ 52 + e % 4096

/-- An entry that is valid (R225). -/
def pteValid (e : Nat) : Bool := e % 2 == 1 && e / 2 ^ 62 != 3

/-- Part of a 64 KiB page (R226). -/
def pteBig (e : Nat) : Bool := pteValid e && e / 64 % 2 == 1

/-- A leaf, or none for the page fault of an entry that is not valid. -/
def leafOf (e sz va : Nat) : Option Leaf := if pteValid e then some { pte := pteFlags e, pa := leafPa e sz va } else none

/-- R226: entry j of a 64 KiB page as it applies to an address: the frame its place implies. -/
def bigLeaf (e j va : Nat) : Option Leaf :=
  if pteValid e then some { pte := pteFlags e, pa := (ptePa e + 2 ^ 52 - j * 4096) % 2 ^ 52 / 4096 * 4096 + va % 65536 } else none

/-- The level-1 entries an address is under in a table: its own, or, where one of its 16 is part of a 64 KiB page, all. -/
def levelOne (s : State) (table va : Nat) : List (Nat × Nat) :=
  let at_ (j : Nat) : Nat × Nat := (j, devNat s (table + 8 * (va / 65536 % 32 * 16 + j)) 8)
  let group := (List.range 16).map at_
  if group.any fun x => pteBig x.2 then group else [at_ (va / 4096 % 16)]

/-- How those apply to the address: one outcome where they agree. -/
def leavesOf (xs : List (Nat × Nat)) (va : Nat) : List (Option Leaf) :=
  (xs.map fun x => if xs.length = 1 && !pteBig x.2 then leafOf x.2 12 va else bigLeaf x.2 x.1 va).dedup

/-- Bytes under an entry of a level. -/
def levelSize (l : Nat) : Nat := 2 ^ (12 + 9 * l)

/-- The entries of a level above 1 that the walker's caches still hold for an address, and those of level 1 in the TLBs (R228). -/
def cachedAt (c : Context) (l va : Nat) : List Nat :=
  (c.tlb.filter fun e => e.size == levelSize l && e.vpn == va / e.size).map fun e => e.pte.toNat

def cachedLeaves (c : Context) (va : Nat) : List (Option Leaf) :=
  (c.tlb.filter fun e => e.size == 4096 && (e.vpn == va / 4096 || (pteBig e.pte.toNat && e.vpn / 16 == va / 65536))).map fun e =>
    if pteBig e.pte.toNat then bigLeaf e.pte.toNat (e.vpn % 16) va else leafOf e.pte.toNat 12 va

/-- What the walk may find from a level down (R224, R228), given the tables it may reach there: every entry in memory and every one
a cache still holds; none stands for a page fault. -/
def walk (s : State) (c : Context) (va : Nat) : Nat → List Nat → List (Option Leaf)
  | 0, _ => []
  | 1, ts =>
    (ts.flatMap fun t => if populated s t then leavesOf (levelOne s t va) va else [none]) ++ cachedLeaves c va
  | l + 2, ts =>
    let es := ((ts.map fun t => if populated s t then devNat s (t + 8 * (va / levelSize (l + 1) % 512)) 8 else 0) ++
      cachedAt c (l + 1) va).dedup
    let leaf (e : Nat) : Bool := e / 128 % 2 == 1
    (es.filterMap fun e =>
      if e % 2 = 0 then some none
      else if leaf e then some (if l ≤ 1 then leafOf e (12 + 9 * (l + 1)) va else none)
      else none) ++
      walk s c va (l + 1) ((es.filter fun e => e % 2 == 1 && !leaf e).map ptePa).dedup

/-- The leaf of an address: the tables as they stand, or an entry a TLB or a walker's cache still holds (R228), the same for
the whole page in one instruction (R227). -/
def leafFor (s : State) (c : Nat) (va : Nat) : Option Leaf :=
  let ctx := s.ctx c
  match (walk s ctx va 5 [ptePa ctx.root.toNat]).dedup with
  | [x] => x
  | xs => (xs[Config.pick s.fresh c (va / 4096) % xs.length]?).getD none

/-- A permitted access: V and PROTO were checked by the walk. -/
def Leaf.allows (l : Leaf) (k : AccKind) (user : Bool) : Bool :=
  (match k with
   | .read => l.bit 2
   | .write => l.bit 3
   | .rmw => l.bit 2 && l.bit 3
   | .fetch => l.bit 4) && (!user || l.bit 5)

/-- R227 with R222: one translation for a context at a privilege. -/
def translate (s : State) (c priv : Nat) (k : AccKind) (va : Nat) : Tr :=
  if !canonical va then .prot 0
  else match leafFor s c va with
    | none => .fault
    | some l =>
      if !populated s l.pa then .prot 1
      else if l.allows k (2 ≤ priv) then .ok l.pa l.proto (l.bit 11)
      else .prot 1

/-- The entries of a walk as memory has them, by level, from a level down. -/
def walkEntries (s : State) (va : Nat) : Nat → Nat → List TlbEntry
  | 0, _ => []
  | 1, t => if populated s t then (levelOne s t va).map fun x =>
      { vpn := if x.1 = va / 4096 % 16 then va / 4096 else va / 65536 * 16 + x.1, size := 4096, pte := BitVec.ofNat 64 x.2 } else []
  | l + 2, t =>
    if populated s t then
      let e := devNat s (t + 8 * (va / levelSize (l + 1) % 512)) 8
      { vpn := va / levelSize (l + 1), size := levelSize (l + 1), pte := BitVec.ofNat 64 e } ::
        if e % 2 == 1 && e / 128 % 2 == 0 then walkEntries s va (l + 1) (ptePa e) else []
    else []

/-- A translation leaves the entries it used in the TLBs and the walker's caches until an invalidation (R228). -/
def State.noteTlb (s : State) (c va : Nat) : State :=
  let ctx := s.ctx c
  let new := (walkEntries s va 5 (ptePa ctx.root.toNat)).filter fun e => !ctx.tlb.contains e
  if new.isEmpty then s else s.updCtx c fun x => { x with tlb := new ++ x.tlb }

/-- Whether an invalidation of the page of an address drops an entry: those of every level over it, and a TLB's entry of its
64 KiB page. -/
def TlbEntry.covers (e : TlbEntry) (va : Nat) : Bool :=
  e.vpn == va / e.size || (e.size == 4096 && pteBig e.pte.toNat && e.vpn / 16 == va / 65536)

/-- Reads n bytes by virtual address for the part itself, each under its own page; none where one is not readable. -/
def readVa (s : State) (c priv : Nat) (k : AccKind) (va : Nat) : Nat → Option (List Byte)
  | 0 => some []
  | n + 1 =>
    match translate s c priv k va with
    | .ok pa _ _ => (readVa s c priv k (va + 1) n).map fun bs => devByte s pa :: bs
    | _ => none

/-- The first page outcome that stops a read or write of n bytes: bytes are taken 8 at a time (8-byte aligned). -/
def firstStop (s : State) (c priv : Nat) (k : AccKind) (va : Nat) : Nat → Option (Nat × Tr)
  | 0 => none
  | n + 1 =>
    match translate s c priv k va with
    | .ok _ _ _ => firstStop s c priv k (va + 8) n
    | r => some (va, r)

/-- Writes bytes by virtual address where every one translates. -/
def writeVa (s : State) (c priv : Nat) (va : Nat) (bs : List Byte) : Option State :=
  match bs with
  | [] => some s
  | b :: t =>
    match translate s c priv .write va with
    | .ok pa _ _ => writeVa (s.writePa pa [b]) c priv (va + 1) t
    | _ => none

/-- A 64-bit address register with an offset. -/
def addr64 (a : W64) (ofs : BitVec 24) : Nat := (a + ofs.signExtend 64).toNat
def addr32 (a : W32) (ofs : BitVec 24) : Nat := (a + ofs.signExtend 32).toNat

end Sys2Proof.Machine
end

