-- ==== Sys2Proof/Machine/Rings.lean ====
section
/-!
DEFINITION. The rings the part writes for the host (R395, R400, R466) and the trap ring of a context (R403), event
records (R197, R421), and interrupt messages (R469).
-/
namespace Sys2Proof.Machine

/-- Whether the host reaches the tenants' windows: the part is up (R471, R472) and in D0 (R474). -/
def State.windowOn (s : State) : Bool := s.ready && !s.recovery && s.power == 0

/-- R469: a message is posted, or held pending while its vector is masked. -/
def State.msix (s : State) (f vec : Nat) : State :=
  let t := s.tenant f
  if t.msixMask.getLsbD vec then
    s.updTenant f fun t => { t with msixPend := t.msixPend ||| BitVec.ofNat 32 (2 ^ vec) }
  else { s with irqs := s.irqs ++ [(f, vec)] }

/-- Entries a ring holds unread. -/
def Ring.used (r : Ring) : Nat := (r.tail - r.hd).toNat

/-- R179: the monitors on a line that `only` selects fire. -/
def State.markMonitors (s : State) (line : Nat) (only : Nat → Bool) : State :=
  let hit (t : Nat) (m : Monitor) : Bool := only t && m.armed && m.line == line
  { s with threads := s.threads.map fun e =>
      (e.1, { e.2 with
        mon0 := { e.2.mon0 with fired := e.2.mon0.fired || hit e.1 e.2.mon0 },
        mon1 := { e.2.mon1 with fired := e.2.mon1.fired || hit e.1 e.2.mon1 } }) }

/-- A write of the part itself into one line: monitors on it fire, written bytes are no longer old (R236). -/
def State.partWrite (s : State) (pa : Nat) (bs : List Byte) : State :=
  ({ s.writePa pa bs with stale := s.stale.filter fun c => decide (c.1 < pa ∨ pa + bs.length ≤ c.1) }).markMonitors
    (lineOf pa) fun _ => true

/-- Writes entries at the tail: base bits [11:0] are ignored, an unpopulated entry is not written (R466). -/
def ringWrite (s : State) (r : Ring) (cap size : Nat) (bs : List Byte) : State × Ring :=
  let pa := r.base.toNat / 4096 * 4096 + size * (r.tail.toNat % cap)
  let s := if populated s pa then s.partWrite pa bs else s
  (s, { r with tail := bump r.tail })

/-- Puts the time of posting into a record. -/
def stampAt (ofs n time : Nat) (bs : List Byte) : List Byte := bs.take ofs ++ toBytes time n ++ bs.drop (ofs + n)

/-- Posts the records a ring holds back, oldest first, while there is space, each as `fix` completes it. -/
def ringFlush (cap size : Nat) (fix : List Byte → List Byte) (s : State) (r : Ring) : Nat → State × Ring × Nat
  | 0 => (s, r, 0)
  | n + 1 =>
    match r.held with
    | [] => (s, r, 0)
    | (_, bs) :: rest =>
      if cap ≤ r.used then (s, r, 0)
      else
        let w := ringWrite s { r with held := rest } cap size (fix bs)
        let q := ringFlush cap size fix w.1 w.2 n
        (q.1, q.2.1, q.2.2 + 1)

/-- Adds a record and posts what can be posted; the number posted. -/
def ringPost (cap size : Nat) (s : State) (r : Ring) (id : Nat) (bs : List Byte) : State × Ring × Nat :=
  let r := { r with held := r.held ++ [(id, bs)] }
  ringFlush cap size (fun b => b) s r r.held.length

/-- R466: a record of a tenant's event queue, with vector 0 when it enters. -/
def State.postEvent (s : State) (f : Nat) (bs : List Byte) : State :=
  let q := ringPost 1024 32 s (s.tenant f).eq 0 bs
  let s := q.1.updTenant f fun t => { t with eq := q.2.1 }
  if q.2.2 = 0 then s else s.msix f 0

def State.flushEvents (s : State) (f : Nat) : State :=
  let r := (s.tenant f).eq
  let q := ringFlush 1024 32 (fun b => b) s r r.held.length
  let s := q.1.updTenant f fun t => { t with eq := q.2.1 }
  if q.2.2 = 0 then s else s.msix f 0

/-- The fault records FQCTL lets out (R395), with the time of posting (R394). -/
def State.flushFaults (s : State) (f : Nat) : State :=
  let t := s.tenant f
  if !t.fqEn then s
  else
    let q := ringFlush 4096 32 (stampAt 24 8 s.time) s t.fq t.fq.held.length
    let s := q.1.updTenant f fun t => { t with fq := q.2.1 }
    if q.2.2 = 0 || !t.fqIrq then s else s.msix f 1

/-- R395: a fault record; a full queue sets OVF and the unit keeps its record. -/
def State.postFault (s : State) (f tag : Nat) (bs : List Byte) : State :=
  let t := s.tenant f
  let full := t.fqEn && decide (4096 ≤ t.fq.used)
  let s := s.updTenant f fun t =>
    { t with fq := { t.fq with held := t.fq.held ++ [(tag, bs)] }, fqOvf := t.fqOvf || full }
  s.flushFaults f

/-- R400: a notification; without space it is owed. -/
def State.postNotify (s : State) (f : Nat) (bs : List Byte) : State :=
  let t := s.tenant f
  if decide (1024 ≤ t.nq.used) || !t.nq.held.isEmpty then
    s.updTenant f fun t => { t with nq := { t.nq with held := t.nq.held ++ [(0, bs)] }, acLost := bump t.acLost }
  else
    let q := ringPost 1024 16 s t.nq 0 bs
    (q.1.updTenant f fun t => { t with nq := q.2.1 }).msix f 2

def State.flushNotify (s : State) (f : Nat) : State :=
  let r := (s.tenant f).nq
  let q := ringFlush 1024 16 (stampAt 12 4 s.time) s r r.held.length
  let s := q.1.updTenant f fun t => { t with nq := q.2.1 }
  if q.2.2 = 0 then s else s.msix f 2

/-- The 64-byte entries of a mailbox message (R466), zero-padded. -/
def entries64 (bs : List Byte) : Nat → List (List Byte)
  | 0 => []
  | n + 1 =>
    if bs.isEmpty then []
    else ((bs.take 64) ++ List.replicate (64 - (bs.take 64).length) 0) :: entries64 (bs.drop 64) n

/-- The held mailbox messages that fit go out, each with the time of posting (R428); an identifier marks the operation a
message belongs to. -/
def mailFlush (s : State) (r : Ring) : Nat → State × Ring × Nat
  | 0 => (s, r, 0)
  | n + 1 =>
    match r.held with
    | [] => (s, r, 0)
    | (_, bs) :: rest =>
      let es := entries64 (stampAt 24 8 s.time bs) (bs.length / 64 + 1)
      if 1024 < r.used + es.length then (s, r, 0)
      else
        let w := es.foldl (fun (w : State × Ring) e => ringWrite w.1 w.2 1024 64 e) (s, { r with held := rest })
        let q := mailFlush w.1 w.2 n
        (q.1, q.2.1, q.2.2 + 1)

def State.flushMailbox (s : State) (f : Nat) : State :=
  let r := (s.tenant f).dm
  let q := mailFlush s r r.held.length
  let s := q.1.updTenant f fun t => { t with dm := q.2.1 }
  if q.2.2 = 0 then s else s.msix f 3

def State.postMailbox (s : State) (f id : Nat) (bs : List Byte) : State :=
  (s.updTenant f fun t => { t with dm := { t.dm with held := t.dm.held ++ [(id, bs)] } }).flushMailbox f

/-- R197: miss, launch-error and termination records. -/
def launchRecord (ty code queue ident index started deadline time : Nat) : List Byte :=
  toBytes ty 1 ++ toBytes code 1 ++ toBytes queue 1 ++ [0] ++ toBytes ident 4 ++ toBytes index 4 ++ toBytes started 4 ++
    toBytes deadline 8 ++ toBytes time 8

/-- Fields of a launch packet (R186). -/
def pkt (p : BitVec 512) (lo n : Nat) : Nat := p.toNat / 2 ^ lo % 2 ^ n
def pktDeadline (p : BitVec 512) : Nat := pkt p 192 64

/-- The record of one workpiece (R197). -/
def wpRecord (s : State) (w : Workpiece) (ty code : Nat) : List Byte :=
  launchRecord ty code w.queue w.ident.toNat w.index w.started (pktDeadline w.packet) s.time

/-- R421: a record of recovery. -/
def recoveryRecord (s : State) (code unit ident billet where_ addr : Nat) : List Byte :=
  toBytes 7 1 ++ toBytes code 1 ++ toBytes unit 1 ++ [0] ++ toBytes ident 4 ++ toBytes billet 4 ++ toBytes where_ 4 ++
    toBytes addr 8 ++ toBytes s.time 8

/-- A record to every tenant (R421, R464). -/
def State.postAll (s : State) (bs : List Byte) : State := (List.range 64).foldl (fun s f => s.postEvent f bs) s

/-- The entries of the trap ring of a context (R403) as they fit: written at P1 by virtual address. -/
def trapWriteOne (s : State) (c : Nat) (bs : List Byte) : Option State :=
  let x := s.ctx c
  if x.trapBase = 0 then none
  else (writeVa s c 1 (x.trapBase.toNat + 64 * (x.trapTail.toNat % 1024)) bs).map fun s =>
    State.updCtx (match translate s c 1 .write (x.trapBase.toNat + 64 * (x.trapTail.toNat % 1024)) with
      | .ok pa _ _ => s.markMonitors (lineOf pa) fun _ => true
      | _ => s) c fun x => { x with trapTail := bump x.trapTail }

def Context.trapUsed (x : Context) : Nat := (x.trapTail - x.trapHead).toNat

/-- All entries, or none. -/
def trapWriteAll (s : State) (c : Nat) (es : List (List Byte)) : Option State :=
  es.foldl (fun o e => o.bind fun s => trapWriteOne s c e) (some s)

/-- Entry by entry, passing over those that cannot be written (R403 with HANDLER = 0, R443). -/
def trapWriteSome (s : State) (c : Nat) (es : List (List Byte)) : State :=
  es.foldl (fun s e => if 1024 ≤ (s.ctx c).trapUsed then s else (trapWriteOne s c e).getD s) s

/-- The entries a record takes: the record and its diagnostic block. -/
def TrapRecord.entries (r : TrapRecord) : List (List Byte) := r.bytes :: entries64 r.diag (r.diag.length / 64 + 1)

/-- R403: records waiting for space are written in order; a record that cannot be written is dropped here and its
context handled by the caller. -/
def trapFlush (c : Nat) (s : State) : Nat → State
  | 0 => s
  | n + 1 =>
    match (s.ctx c).waiting with
    | [] => s
    | r :: rest =>
      if 1024 < (s.ctx c).trapUsed + r.entries.length then s
      else
        let s' := s.updCtx c fun x => { x with waiting := rest }
        let idx := (s.ctx c).trapTail.toNat
        match trapWriteAll s' c r.entries with
        | some s2 => trapFlush c (s2.updCtx c fun x => { x with served := x.served ++ [(idx, r.core, r.tid)] }) n
        | none => trapFlush c s' n

end Sys2Proof.Machine
end

