-- ==== Sys2Proof/Machine/CrewOps.lean ====
section
/-!
DEFINITION. What the crew operations compute once their participants are known (R204 to R207).
-/
namespace Sys2Proof.Machine

/-- The participant in a lane. -/
def partIn (ps : List (Nat × CrewArg)) (l : Nat) : Option CrewArg := (ps.find? fun p => p.1 == l).map Prod.snd

/-- The source lane of a lane exchange (R204): none where `.dist` leaves the segment. -/
def lxchSrc (mode : Fin 4) (seg l : Nat) (b : W32) : Option Nat :=
  let base := l / seg * seg
  let o := l % seg
  match mode.val with
  | 0 => some (base + b.toNat % seg)
  | 1 => some (base + (o + b.toNat) % seg)
  | 2 =>
    let x : Int := (o : Int) + b.toInt
    if 0 ≤ x ∧ x < (seg : Int) then some (base + x.toNat) else none
  | _ => some (base + Nat.xor o b.toNat % seg)

def maskOf (ls : List Nat) : W32 := BitVec.ofNat 32 ((ls.map fun l => 2 ^ l).foldl (· + ·) 0)

/-- R206, FADD.F32: exact sum of each bundle rounded once, then the partial sums added in order of arrival. -/
def credFadd (ps : List (Nat × CrewArg)) : W32 :=
  let arrivals := (ps.map fun p => p.2.arrival).dedup |> sortNat
  let part (k : Nat) : Nat :=
    FFmt.f32.round .rne false (FVal.sum .rne ((ps.filter fun p => p.2.arrival == k).map fun p =>
      FFmt.f32.decode (p.2.a.extractLsb' 0 32).toNat))
  match arrivals with
  | [] => 0
  | k :: ks => BitVec.ofNat 32 (ks.foldl (fun acc k =>
      FFmt.f32.round .rne false (FVal.add .rne (FFmt.f32.decode acc) (FFmt.f32.decode (part k)))) (part k))

/-- The common result of a reduction (R206). -/
def credValue (k : Fin 10) (ps : List (Nat × CrewArg)) : W32 :=
  let vs := ps.map fun p => p.2.a.extractLsb' 0 32
  let fold (f : W32 → W32 → W32) : W32 :=
    match vs with
    | [] => 0
    | v :: r => r.foldl f v
  let min2 (x y : W32) : W32 := BitVec.ofNat 32 (FFmt.f32.minNum x.toNat y.toNat)
  match k.val with
  | 0 => fold (· + ·)
  | 1 => fold minS
  | 2 => fold minZ
  | 3 => fold maxS
  | 4 => fold maxZ
  | 5 => fold (· &&& ·)
  | 6 => fold (· ||| ·)
  | 7 => fold (· ^^^ ·)
  | 8 => credFadd ps
  | _ => (vs.map fun v => min2 v v).foldl min2 (vs.headD 0)

/-- Results of one participant: its register writes, and the source register whose poison they carry (R391). -/
def crewWrites (ps : List (Nat × CrewArg)) (l : Nat) (x : CrewArg) : List RegWrite :=
  let pois := ps.any fun p => p.2.aPoison
  let lanes := ps.map Prod.fst
  match x.kind with
  | .lxch mode wide seg =>
    let src := (lxchSrc mode seg l x.b).bind (partIn ps)
    let v := (src.getD x).a
    (if wide then wr64 x.dst v pois else wr32 x.dst (v.extractLsb' 0 32) pois) ++ wrP x.pd.val src.isSome false
  | .cpq k =>
    let qs := ps.map fun p => p.2.q
    let set := (ps.filter fun p => p.2.q).map Prod.fst
    match k.val with
    | 0 => wr32 x.dst (truthWord (qs.all id)) false ++ wrP x.pd.val (qs.all id) false
    | 1 => wr32 x.dst (truthWord (qs.any id)) false ++ wrP x.pd.val (qs.any id) false
    | 2 => wr32 x.dst (truthWord (qs.all (· == x.q))) false ++ wrP x.pd.val (qs.all (· == x.q)) false
    | 3 => wr32 x.dst (maskOf set) false
    | _ => wr32 x.dst (BitVec.ofNat 32 set.length) false
  | .vgrpPart =>
    wr32 x.dst (maskOf ((ps.filter fun p => p.2.a == x.a).map Prod.fst)) pois
  | .vgrpUni =>
    let uni := ps.all fun p => p.2.a == x.a
    wr32 x.dst (if uni then maskOf lanes else 0) pois ++ wrP x.pd.val uni pois
  | .cred k => wr32 x.dst (credValue k ps) pois
  | .lead =>
    let low := lanes.foldl min 32
    wr32 x.dst (BitVec.ofNat 32 low) false ++ wrP x.pd.val (low == l) false
  | .memb => wr32 x.dst (maskOf lanes) false

/-- Whether the result lands later, on a counter (R204 to R206), or in the word itself (R207). -/
def CrewKind.isVar : CrewKind → Bool
  | .lead => false
  | .memb => false
  | _ => true

end Sys2Proof.Machine
end

