-- ==== Sys2Proof/Machine/Ops.lean ====
section
/-!
DEFINITION. The named operations on threads: taking a trap and returning from one (R401 to R406, R424), leaving a blocked
state, breaking objects (R182, R183), rejoining (R162), the mask form of crew operations (R199), the end of threads,
billets, workpieces and contexts (R154, R191, R406), and the write of a line as other agents see it.
-/
namespace Sys2Proof.Machine

def Trap.code : Trap → Nat
  | .undef => 1 | .malformed => 2 | .cls => 3 | .budget => 4 | .maskdis => 5 | .gangfail => 6 | .bartime => 7
  | .poison => 8 | .prot => 9 | .align => 10 | .mcasparam => 11 | .mixsize => 12 | .surfpool => 13 | .travfault => 14
  | .swtrap => 15 | .brk => 16 | .watch => 17 | .step => 18 | .fetchecc => 19 | .uecc => 20 | .linkstall => 21

/-- A status word (R200). -/
def stWord (code value : Nat) (last : Bool) : W32 :=
  BitVec.ofNat 32 (code + last.toNat * 4 + value % 65536 * 65536)

/-- The clause after a clause (R32). -/
def Clause.next (c : Clause) : BitVec 57 := c.pc + BitVec.ofNat 57 (8 * (c.words.length + 1))

/-- The clause after the one at a thread's PC. -/
def Thread.nextPc (t : Thread) : BitVec 57 :=
  match t.clause with
  | some c => c.next
  | none => t.pc

/-- The place after a word of the clause (R48): the next word, or the next clause; where the clause is still to be fetched,
the fetch finds which. -/
def Thread.afterWord (t : Thread) : BitVec 57 × Nat :=
  match t.clause with
  | some c => if t.widx + 1 < c.words.length then (t.pc, t.widx + 1) else (c.next, 0)
  | none => (t.pc, t.widx + 1)

/-- Moves a thread to a place; another clause must be fetched first. -/
def Thread.goTo (t : Thread) (pc : BitVec 57) (widx : Nat) : Thread :=
  { t with pc := pc, widx := widx, clause := if pc = t.pc && widx != 0 then t.clause else none }

/-- The keys of the threads the part holds. -/
def State.tids (s : State) : List Nat := s.threads.map Prod.fst

/-- Removes threads from their bundles. -/
def State.leave (s : State) (ts : List Nat) : State :=
  { s with bundles := s.bundles.map fun b => (b.1, { b.2 with tids := b.2.tids.filter fun t => !ts.contains t }) }

/-- Whether a thread's word is in a bundle in flight. -/
def State.inFlight (s : State) (t : Nat) : Bool := s.bundles.any fun b => b.2.tids.contains t

/-- What an operation leaves when its thread has ended: it completes, and delivers to no register (R154, R279); a mark of
an SREL it had not completed goes (R383). -/
def State.orphan (s : State) (t : Nat) : State :=
  let n := t % 1048576 + 1048576 * s.seq
  let re (h : RelHead) : RelHead := if h.tid = t then { h with tid := n } else h
  let s := { s with
    frozen := s.frozen.filter fun f => f.2 != t
    know := s.know.filter fun k => k.tid != t
    reads := s.reads.filter fun r => r.tid != t
    relFences := s.relFences.filter fun f => f.tid != t }
  if (s.pend.any fun p => p.tid == t) || (s.notes.any fun x => x.heads.any fun h => h.tid == t) then
    { s with pend := s.pend.map fun p =>
               if p.tid == t then { p with tid := n, dests := [], heads := p.heads.map re } else { p with heads := p.heads.map re },
             notes := s.notes.map fun x => { x with heads := x.heads.map re },
             scs := s.scs.map re,
             seq := s.seq + 1 }
  else s

/-- The location byte of a core (R402). -/
def locByte (core : Nat) : Nat := core % 256

/-- R402: the record of a thread trap. -/
def trapRecord (s : State) (t : Nat) (i : TrapInfo) : TrapRecord :=
  let th := s.thr t
  let c := s.crew (crewOf t)
  let ident := ((s.wpOf (crewOf t)).map Workpiece.ident).getD 0
  let bil := ((s.billet? (crewOf t)).map Billet.index).getD 0
  let pad := (64 - i.diag.length % 64) % 64
  let diag := i.diag ++ List.replicate pad 0
  { bytes := toBytes i.trap.code 1 ++ toBytes i.cause 1 ++ toBytes th.widx 1 ++ toBytes (if diag.isEmpty then 0 else 2) 1 ++
      toBytes ident.toNat 4 ++ toBytes bil 4 ++ toBytes c.number 1 ++ toBytes (laneOf t) 1 ++
      toBytes (locByte (coreOf t)) 1 ++ toBytes c.priv 1 ++ toBytes (pc64 th.pc).toNat 8 ++ toBytes i.addr 8 ++
      toBytes s.time 8 ++ toBytes i.detail 4 ++ toBytes diag.length 4 ++ toBytes (s.ctxOf (crewOf t)) 2 ++
      toBytes 0 14,
    diag := diag, core := coreOf t, tid := some t }

/-- R402: an asynchronous record; bytes 4 to 23 are zero. -/
def asyncRecord (s : State) (c : Nat) (i : TrapInfo) (core : Nat) : TrapRecord :=
  { bytes := toBytes i.trap.code 1 ++ toBytes i.cause 1 ++ toBytes 0 1 ++ toBytes 1 1 ++ toBytes 0 20 ++
      toBytes i.addr 8 ++ toBytes s.time 8 ++ toBytes i.detail 4 ++ toBytes 0 4 ++ toBytes c 2 ++ toBytes 0 14,
    diag := [], core := core, tid := none }

/-- Bytes of scratchpad by core and place: a billet's allocation starts at its position times 2^19 (log 24). -/
def scratchAddr (core ofs : Nat) : Nat := core * 2 ^ 21 + ofs

/-- Objects of the scratchpads (R172, R175): the key of an object is its address times two, plus one for a queue. -/
def objAddr (k : Nat) : Nat := k / 2
def objIsQueue (k : Nat) : Bool := k % 2 == 1

def State.scratchNat (s : State) (a n : Nat) : Nat := ofBytes (Memory.readBytes s.scratch a n)
def State.writeScratch (s : State) (a : Nat) (bs : List Byte) : State :=
  { s with scratch := Memory.writeBytes s.scratch a bs }

/-- A stage's fields (R172). -/
structure Stage where
  pend : Int
  exp : Nat
  rem : Nat
  phase : Bool
  broken : Bool
  ovf : Bool
  deriving DecidableEq, Repr

def Stage.ofNat (n : Nat) : Stage :=
  { pend := (BitVec.ofNat 64 n).toInt, exp := n / 2 ^ 64 % 65536, rem := n / 2 ^ 80 % 65536,
    phase := n / 2 ^ 96 % 2 == 1, broken := n / 2 ^ 97 % 2 == 1, ovf := n / 2 ^ 98 % 2 == 1 }

def Stage.toNat (x : Stage) : Nat :=
  (BitVec.ofInt 64 x.pend).toNat + x.exp * 2 ^ 64 + x.rem * 2 ^ 80 + x.phase.toNat * 2 ^ 96 + x.broken.toNat * 2 ^ 97 +
    x.ovf.toNat * 2 ^ 98

def State.stage (s : State) (a : Nat) : Stage := Stage.ofNat (s.scratchNat a 16)
def State.setStage (s : State) (a : Nat) (x : Stage) : State := s.writeScratch a (toBytes x.toNat 16)

/-- A queue's fields (R175). -/
structure Queue where
  head : Nat
  tail : Nat
  cap : Nat
  wide : Bool
  broken : Bool
  ring : Nat
  deriving DecidableEq, Repr

def Queue.ofNat (n : Nat) : Queue :=
  { head := n % 2 ^ 32, tail := n / 2 ^ 32 % 2 ^ 32, cap := n / 2 ^ 64 % 65536, wide := n / 2 ^ 88 % 2 == 1,
    broken := n / 2 ^ 89 % 2 == 1, ring := n / 2 ^ 96 % 2 ^ 32 }

def Queue.toNat (q : Queue) : Nat :=
  q.head % 2 ^ 32 + q.tail % 2 ^ 32 * 2 ^ 32 + q.cap * 2 ^ 64 + q.wide.toNat * 2 ^ 88 + q.broken.toNat * 2 ^ 89 +
    q.ring % 2 ^ 32 * 2 ^ 96

def Queue.count (q : Queue) : Nat := (q.tail + 2 ^ 32 - q.head) % 2 ^ 32
def Queue.space (q : Queue) : Nat := q.cap - q.count
def State.queueAt (s : State) (a : Nat) : Queue := Queue.ofNat (s.scratchNat a 32)
def State.setQueue (s : State) (a : Nat) (q : Queue) : State := s.writeScratch a (toBytes q.toNat 32)

/-! Leaving the part: contexts, billets, workpieces. -/

/-- R473, R246, R243: a core with no resident billet and no handler is gated; it holds no SELF copy, and must be in step
again before it next does. -/
def State.gateIdle (s : State) (core : Nat) : State :=
  if s.billets.any (fun e => e.1 / 4 == core) || (s.core core).handlerCtx.isSome then s
  else
    { s.updCore core fun c => { c with gated := true, resync := false } with
      copies := s.copies.filter fun e => e.1 / 2 ^ 45 != core }

/-- Key of a member in the masks of a group. -/
def memKey (m : Nat × Nat) : Nat := m.1 * 16 + m.2

/-- The number a billet that has ended keeps in its groups; places are below it. -/
def endedKey (index : Nat) : Nat := 2 ^ 20 + index

/-- Where a lane of a crew is: its PC, or the header of the clause that holds its EXIT; 0 where no thread was (R171). -/
def lanePc (s : State) (cid l : Nat) : Nat :=
  match s.threads.get? (cid * 32 + l) with
  | some x => (pc64 (if x.status = .ended then x.endPc else x.pc)).toNat
  | none => 0

/-- A group when a member billet has ended: its crews stay members under a number of their own, with what the group must still
tell of them. -/
def Group.lose (g : Group) (s : State) (k : Nat) (b : Billet) : Group :=
  let re (m : Nat) : Nat := if m / 16 = k then memKey (endedKey b.index, m % 16) else m
  let masks (x : Map W32) : Map W32 := x.foldl (fun r e => Map.set r (re e.1) e.2) []
  let mine := g.members.filter fun m => m.1 == k
  { g with
    members := g.members.map fun m => if m.1 = k then (endedKey b.index, m.2) else m
    presented := masks g.presented
    arrived := masks g.arrived
    left := masks g.left
    out := g.out.map re
    gone := mine.foldl (fun r m =>
      let cid := (b.crews.find? fun c => (s.crew c).number == m.2).getD 0
      Map.set r (memKey (endedKey b.index, m.2)) { member := b.member, pcs := (List.range 32).map (lanePc s cid) }) g.gone }

/-- Frees what a billet held (R154): slots, scratchpad and barrier units, and the commands it left to no one. -/
def State.freeBillet (s : State) (k : Nat) : State :=
  match s.billets.get? k with
  | none => s
  | some b =>
    let crews := b.crews ++ b.assay
    let gone (t : Nat) : Bool := crews.contains (crewOf t)
    let s' : State := { s with
      billets := s.billets.del k
      crews := s.crews.filter fun e => !crews.contains e.1
      threads := s.threads.filter fun e => !gone e.1
      bundles := s.bundles.map fun e => (e.1, { e.2 with tids := e.2.tids.filter fun t => !gone t })
      objUse := s.objUse.filter fun e => !gone e.1
      cores := s.cores.map fun e =>
        if e.1 = k / 4 then (e.1, { e.2 with books := e.2.books.filter fun x => x.2 != k }) else e
      groups := (s.groups.filter fun e => !(e.2.wp == b.wp && e.2.set == b.set &&
        ((e.2.members.all fun m => m.1 == k) ||
          (s.billets.all fun x => x.1 == k || x.2.wp != b.wp || x.2.set != b.set)))).map fun e =>
        if e.2.wp == b.wp && e.2.set == b.set then (e.1, e.2.lose s k b) else e }
    s'.gateIdle (k / 4)

/-- R467: the launch queues bound to a context take EN := 0 and ERR := 1 (R406). -/
def Tenant.stopQueues (t : Tenant) (slot : Nat) : Tenant :=
  { t with lq := (List.range 16).foldl (fun m q =>
      if t.bind.toNat / 2 ^ (4 * q) % 16 = slot then
        Map.set m q { t.queue q with en := false, err := true, headPkt := none } else m) t.lq,
           amp := t.amp.filter fun p => p.2 % 16 != slot,
           ampHeadPkt := if (t.amp.head?.map fun p => p.2 % 16) = some slot then none else t.ampHeadPkt,
           ampHead := BitVec.ofNat 32 (t.ampHead.toNat + (t.amp.filter fun p => p.2 % 16 == slot).length) }

/-- R182: one object is broken. -/
def State.markBroken (s : State) (obj : Nat) : State :=
  if objIsQueue obj then s.setQueue (objAddr obj) { s.queueAt (objAddr obj) with broken := true }
  else s.setStage (objAddr obj) { s.stage (objAddr obj) with broken := true }

/-- R406, in one step: the context's threads end, its commands go, its objects break, its queues stop, its workpieces
are reported with a TYPE 0x06 record each. A head packet that was only read is no workpiece yet: it goes with its queue. -/
def terminateCtx (s : State) (c code : Nat) : State :=
  let s : State := { s with wps := s.wps.filter fun e => !(e.2.live && !e.2.begun && e.2.ctx == c) }
  let wps := (s.wps.filter fun e => e.2.live && e.2.ctx == c).map Prod.fst
  let ts := s.tids.filter fun t => decide (coreOf t < hubCore) && s.ctxOf (crewOf t) == c
  let s := ts.foldl (fun s t => s.orphan t) s
  let s := (s.objUse.filter fun e => ts.contains e.1).foldl (fun s e => s.markBroken e.2) s
  let s := ((s.billets.filter fun e => wps.contains e.2.wp).map Prod.fst).foldl State.freeBillet s
  let dead : List Nat := (s.pend.filter fun p =>
    match p.op with
    | .mcas a _ lines held _ _ => a.ctx == c && !p.done && decide (held.length < lines.length)
    | _ => false).map Pend.id
  let s : State := { s with
    threads := s.threads.filter fun e => !ts.contains e.1
    bundles := s.bundles.map fun e => (e.1, { e.2 with tids := e.2.tids.filter fun t => !ts.contains t })
    groups := s.groups.filter fun e => !wps.contains e.2.wp
    cores := s.cores.map fun e =>
      (e.1, if e.2.handlerCtx = some c then { e.2 with handlerCtx := none } else e.2)
    ladle := s.ladle.filter fun q => q.ctx != c
    trav := s.trav.filter fun q => q.ctx != c
    anvil := s.anvil.filter fun a => !(a.tids.any ts.contains)
    surfs := s.surfs.filter fun b => !(b.ctx == c && b.pinned.isSome)
    encWait := s.encWait.filter fun e => e.1 != c
    pend := s.pend.filter fun p => !dead.contains p.id
    saved := s.saved.filter fun x => !wps.contains x.wp
    homes := s.homes.map fun h => (h.1,
      { h.2 with lock := h.2.lock.filter fun i => !dead.contains i,
                 queue := h.2.queue.filter fun i => !dead.contains i }) }
  let s := (s.cores.map Prod.fst).foldl State.gateIdle s
  let s := s.updCtx c fun x => { x with waiting := [], served := [], saveUse := 0 }
  let s := s.updTenant (c / 16) fun t => t.stopQueues (c % 16)
  wps.foldl (fun s w =>
    match s.wps.get? w with
    | none => s
    | some x => (s.postEvent x.tenant (wpRecord s x 6 code)).updWp w fun x => { x with live := false }) s

/-! Taking a trap. -/

/-- R428: the debug message for lanes of a crew. -/
def debugMessage (s : State) (cid : Nat) (target : Nat) (mask : W32) (tag : W32) : List Byte :=
  let lanes := (List.range 32).filter fun l => mask.getLsbD l && (s.threads.get? (cid * 32 + l)).isSome
  let stop := lanes.filter fun l =>
    let t := s.thr (cid * 32 + l)
    t.suspended || (match t.status with | .trapped _ => true | .held _ => true | _ => false)
  toBytes target 8 ++ toBytes (maskOf lanes).toNat 4 ++ toBytes (maskOf stop).toNat 4 ++ toBytes tag.toNat 4 ++
    toBytes lanes.length 4 ++ toBytes s.time 8 ++
    lanes.flatMap fun l =>
      let t := s.thr (cid * 32 + l)
      toBytes (pc64 (if t.status = .ended then t.endPc else t.pc)).toNat 8

/-- The target word that names a crew (R422). -/
def targetOf (s : State) (cid : Nat) : Nat :=
  ((s.wpOf cid).map fun w => w.ident.toNat).getD 0 * 2 ^ 32 + (s.crew cid).number * 2 ^ 24 +
    ((s.billet? cid).map Billet.index).getD 0

/-- A thread stopped under debug is held and reported to the mailbox (R401, R428). -/
def holdThread (s : State) (t : Nat) (i : TrapInfo) : State :=
  let s := s.updThr t fun x => { x with status := .held i }
  let m := debugMessage s (crewOf t) (targetOf s (crewOf t)) (BitVec.ofNat 32 (2 ^ laneOf t)) 0xFFFFFFFF
  s.postMailbox (s.ctxOf (crewOf t) / 16) 0 m

/-- R401: what follows a trap when HANDLER is 0 (UECC: whatever HANDLER holds). -/
def defaultAction (s : State) (t : Nat) (i : TrapInfo) : State :=
  let c := s.ctxOf (crewOf t)
  let debug := (s.ctx c).ctl.getLsbD 1
  match i.trap with
  | .surfpool => s
  | .travfault => s
  | .linkstall => s
  | .brk => if debug then holdThread s t i else terminateCtx s c 0x10
  | .watch =>
    if debug then holdThread s t i
    else s.updThr t fun x => { x.goTo x.afterWord.1 x.afterWord.2 with status := .ready }
  | .step => if debug then holdThread s t i else s.updThr t fun x => { x with status := .ready }
  | k => terminateCtx s c k.code

/-- R403: the record of a trap of a context whose HANDLER is not 0: it waits for space, and a ring that cannot be written
ends the context (a thread's trap) or drops the record (an asynchronous one). -/
def postToHandler (s : State) (c : Nat) (r : TrapRecord) (code : Nat) : State :=
  let s := s.updCtx c fun x => { x with waiting := x.waiting ++ [r] }
  let bad := (s.ctx c).waiting.length = 1 ∧ (s.ctx c).trapUsed + r.entries.length ≤ 1024 ∧
    (trapWriteAll s c r.entries).isNone
  if bad then
    if r.tid.isSome then terminateCtx s c code
    else s.updCtx c fun x => { x with waiting := [] }
  else trapFlush c s (s.ctx c).waiting.length

/-- An asynchronous trap that names no thread (R401): a record only. -/
def asyncTrap (s : State) (c : Nat) (i : TrapInfo) (core : Nat) : State :=
  let r := asyncRecord s c i core
  if (s.ctx c).handler = 0 then trapWriteSome s c r.entries else postToHandler s c r i.trap.code

/-- Whether a thread still stands in the trap it took. -/
def State.standsIn (s : State) (t : Nat) (i : TrapInfo) : Bool :=
  (s.threads.get? t).any fun x => x.status == .trapped i

/-- Taking traps (R403): each thread becomes trapped at its word and its record is posted, in the order given; then the
default actions follow where HANDLER is 0.  A trap of a handler thread ends the context it serves (R404). -/
def takeTraps (s : State) (xs : List (Nat × TrapInfo)) : State :=
  let s := s.leave (xs.map Prod.fst)
  let s := xs.foldl (fun s x => s.updThr x.1 fun t => { t with status := .trapped x.2, stepping := false, pcWritten := false }) s
  let s := xs.foldl (fun s x =>
    let t := x.1
    let c := s.ctxOf (crewOf t)
    if !s.standsIn t x.2 || coreOf t == hubCore then s
    else if slotOf t = handlerSlot then terminateCtx s c x.2.trap.code
    else if (s.ctx c).handler = 0 then trapWriteSome s c (trapRecord s t x.2).entries
    else postToHandler s c (trapRecord s t x.2) x.2.trap.code) s
  xs.foldl (fun s x =>
    let c := s.ctxOf (crewOf x.1)
    if !s.standsIn x.1 x.2 || coreOf x.1 == hubCore then s
    else if (s.ctx c).handler = 0 || x.2.trap = .uecc then defaultAction s x.1 x.2
    else s) s

/-- A thread goes on at a place; under RTE.STEP it raises STEP there (R425). -/
def settle (s : State) (t : Nat) (pc : BitVec 57) (widx : Nat) : State :=
  let s := s.updThr t fun x =>
    { x.goTo pc widx with status := .ready, readyAt := (s.core (coreOf t)).gather, aged := false }
  if (s.thr t).stepping then takeTraps s [(t, { trap := .step })] else s

/-- R416: a value a leader receives passes to its assay crew, by lane. -/
def passOn (s : State) (t : Nat) (ws : List RegWrite) : State :=
  if ((s.billet? (crewOf t)).any fun b => !b.assay.isEmpty) && (s.crew (crewOf t)).leader.isNone then
    { s with crews := s.crews.map fun e =>
        if e.2.leader == some (crewOf t) then (e.1, { e.2 with passed := e.2.passed ++ [(laneOf t, ws)] }) else e }
  else s

/-- The results of an operation on state outside the thread's registers. -/
def State.giveRegs (s : State) (t : Nat) (ws : List RegWrite) : State := passOn (s.putRegs t ws) t ws

def State.blockedBy (s : State) (f : Wait → Bool) : List Nat :=
  (s.threads.filter fun e => match e.2.status with | .blocked w => f w | _ => false).map Prod.fst

/-! Waiting on objects. -/

/-- The conditions of a WAITV that hold now (R217, R218): the mask, whether one is on a broken object, and the mask of
the descriptors in use.  Bases are those of the thread's set members. -/
def descKind (d : W32) : Nat := let k := d.toNat / 2 ^ 29; if k ≤ 5 then k else 0

/-- The scratchpad address of an object named by a descriptor or an operand: the core of the member and its base, or PROT
where R229, R230 or R201 refuses. -/
def memberBillet (s : State) (cid j : Nat) : Option (Nat × Billet) :=
  match s.billet? cid with
  | none => none
  | some b =>
    if j = b.member then some (s.billetKey cid, b)
    else (s.billets.find? fun e => e.2.wp == b.wp && e.2.set == b.set && e.2.member == j)

/-- Scratchpad bytes [ofs, ofs + n) of the thread's own billet (R229). -/
def ownScratch (s : State) (t ofs n : Nat) : Option Nat :=
  match s.billet? (crewOf t) with
  | none => none
  | some b => if ofs + n ≤ b.scratchSize then some (scratchAddr (coreOf t) (b.scratchBase + ofs)) else none

/-- A cluster-scratchpad address without MCAST (R230). -/
def clusScratch (s : State) (t va n : Nat) : Option Nat :=
  if va / 2 ^ 21 ≠ 0 then none
  else match memberBillet s (crewOf t) (va / 2 ^ 19 % 4) with
    | none => none
    | some (k, b) =>
      let ofs := va % 2 ^ 19
      if ofs + n ≤ b.scratchSize then some (scratchAddr (k / 4) (b.scratchBase + ofs)) else none

def objScratch (s : State) (t : Nat) (clus : Bool) (va n : Nat) : Option Nat :=
  if clus then clusScratch s t va n else ownScratch s t va n

/-- What a blocked thread observes when it goes on: a group, a stage, a queue, or the objects a WAITV names. -/
def Wait.keys (s : State) (t : Nat) : Wait → List Nat
  | .bar g _ _ _ _ => [groupKey g]
  | .stage o _ _ => [objKey (2 * o)]
  | .qpop o _ _ _ _ => [objKey (2 * o + 1)]
  | .waitv _ ds _ _ _ _ => ds.filterMap fun d =>
      match descKind d with
      | 1 => (objScratch s t (d.getLsbD 23) (d.toNat % 2 ^ 23 / 2 * 2) 16).map fun a => objKey (2 * a)
      | 2 => (objScratch s t (d.getLsbD 23) (d.toNat % 2 ^ 23) 32).map fun a => objKey (2 * a + 1)
      | 3 => (objScratch s t (d.getLsbD 23) (d.toNat % 2 ^ 23) 32).map fun a => objKey (2 * a + 1)
      | _ => none
  | _ => []

/-- R252: what a blocked thread waited for carries what was in flight before the acts on it. -/
def learnWaited (s : State) (t : Nat) : State :=
  match (s.thr t).status with
  | .blocked w => (w.keys s t).foldl (fun s k => s.learnFrom k t (s.seq - 1)) s
  | _ => s

/-- A blocked thread leaves its X instruction: its result lands and it goes on at the next clause (R68). -/
def release (s : State) (t : Nat) (ws : List RegWrite) : State :=
  let s := learnWaited s t
  let s := if ws.isEmpty then s else s.giveRegs t ws
  settle s t (s.thr t).nextPc 0

/-- One condition: whether it holds and whether it is on a broken object. -/
def condHolds (s : State) (t : Nat) (deadline : W64) (d : W32) : Bool × Bool :=
  let clus := d.getLsbD 23
  let a := d.toNat % 2 ^ 23
  match descKind d with
  | 1 =>
    match objScratch s t clus (a / 2 * 2) 16 with
    | none => (false, false)
    | some o =>
      let x := s.stage o
      (x.broken || x.phase != (a % 2 == 1), x.broken)
  | 2 =>
    match objScratch s t clus a 32 with
    | none => (false, false)
    | some o => let q := s.queueAt o; (q.broken || q.count != 0, q.broken)
  | 3 =>
    match objScratch s t clus a 32 with
    | none => (false, false)
    | some o => let q := s.queueAt o; (q.broken || q.space != 0, q.broken)
  | 4 => (if a % 2 = 1 then (s.thr t).mon1.fired else (s.thr t).mon0.fired, false)
  | 5 => (decide (deadline.toNat ≤ s.time), false)
  | _ => (false, false)

/-- One test of a WAITV (R218): the result word when it releases the thread. -/
def waitvTest (s : State) (t : Nat) (all : Bool) (ds : List W32) (t0 : Nat) (timeout : W32) (deadline : W64) :
    Option W32 :=
  let used := (List.range ds.length).filter fun i => descKind (ds.getD i 0) != 0
  let hold := used.filter fun i => (condHolds s t deadline (ds.getD i 0)).1
  let brk := used.any fun i => (condHolds s t deadline (ds.getD i 0)).2
  let word (tmo : Bool) : W32 := maskOf hold ||| (if tmo then 0x100 else 0) ||| (if brk then 0x200 else 0)
  if (!all && !hold.isEmpty) || (all && hold == used) then some (word false)
  else if timeout != 0xFFFFFFFF && decide (t0 + timeout.toNat ≤ s.time) then some (word true)
  else none

/-- Every WAITV whose test releases now (an object, a monitor or time changed). -/
def wakeWaitv (s : State) : State :=
  s.threads.foldl (fun s e =>
    match (s.thr e.1).status with
    | .blocked (.waitv all ds t0 tmo dl dst) =>
      match waitvTest s e.1 all ds t0 tmo dl with
      | some w => release s e.1 (wr32 dst w false)
      | none => s
    | _ => s) s

/-- Threads blocked on a stage whose wait is over (R213, R183). -/
def wakeStage (s : State) (a : Nat) : State :=
  let x := s.stage a
  let ts := s.blockedBy fun w =>
    match w with
    | .stage o par _ => o == a && (x.broken || x.phase != par)
    | _ => false
  let s := ts.foldl (fun s t =>
    match (s.thr t).status with
    | .blocked (.stage _ _ dst) =>
      release s t (wr32 dst (if x.broken then stWord 2 0 false else stWord 0 x.phase.toNat false) false)
    | _ => s) s
  wakeWaitv s

/-- R173: one update of a stage. -/
def Stage.update (x : Stage) (u : StageUpd) : Stage :=
  let settleIt (x : Stage) : Stage :=
    let x := if x.pend = 0 ∧ x.rem = 0 then { x with phase := !x.phase, rem := x.exp } else x
    if x.pend < -2 ^ 63 ∨ 2 ^ 63 ≤ x.pend then { x with ovf := true, pend := 0 } else x
  match u with
  | .init n => { pend := 0, exp := n, rem := n, phase := false, broken := false, ovf := false }
  | .inval => { x with broken := true }
  | .owe n => if x.broken then x else settleIt { x with pend := x.pend + n }
  | .complete n => if x.broken then x else settleIt { x with pend := x.pend - n }
  | .add n => if x.broken then x else settleIt { x with pend := x.pend + n }
  | .arrive =>
    if x.broken then x
    else settleIt (if x.rem = 0 then { x with ovf := true } else { x with rem := x.rem - 1 })

/-- Applies an update at the scratchpad and wakes what it releases. STGINIT wakes blocked threads with BROKEN (R202);
a thread blocked in WAITV is not one of them: it is tested against the new object (log 82). -/
def stageUpdate (s : State) (a : Nat) (u : StageUpd) : State :=
  match u with
  | .init _ =>
    let ts := s.blockedBy fun w => match w with | .stage o _ _ => o == a | _ => false
    let s := ts.foldl (fun s t =>
      match (s.thr t).status with
      | .blocked (.stage _ _ dst) => release s t (wr32 dst (stWord 2 0 false) false)
      | _ => s) s
    wakeWaitv (s.setStage a ((s.stage a).update u))
  | _ => wakeStage (s.setStage a ((s.stage a).update u)) a

/-- The words of a queue entry. -/
def entryWords (s : State) (core : Nat) (base : Nat) (q : Queue) (i : Nat) : List W32 :=
  let n := if q.wide then 8 else 4
  let a := scratchAddr core (base + q.ring + i % q.cap * (4 * n))
  (List.range n).map fun k => BitVec.ofNat 32 (s.scratchNat (a + 4 * k) 4)

/-- A place of no thread: engines act under it. -/
def engineTid : Nat := 1048575

/-- The core and the base of the allocation that holds a scratchpad address. -/
def allocOf (s : State) (a : Nat) : Nat × Nat :=
  let core := a / 2 ^ 21
  match s.billets.find? fun e => decide (e.1 / 4 = core ∧ e.2.scratchBase ≤ a % 2 ^ 21 ∧
      a % 2 ^ 21 < e.2.scratchBase + e.2.scratchSize) with
  | some e => (core, e.2.scratchBase)
  | none => (core, 0)

/-- R412: bytes of a billet's write are journalled first. -/
def State.journalFor (s : State) (t : Nat) (sp : Space) (pa n : Nat) : State :=
  let k := s.billetKey (crewOf t)
  (List.range ((pa + n - 1) / 128 + 1 - pa / 128)).foldl (fun s i =>
    s.journal k (match sp with | .scratch => .scratch (pa / 128 + i) | .global => .global (pa / 128 + i))) s

/-- The lines a queue operation writes: the queue and the slot at its tail. -/
def journalQueue (s : State) (t a : Nat) : State :=
  let q := s.queueAt a
  let n := if q.wide then 32 else 16
  let al := allocOf s a
  let s := s.journalFor t .scratch a 32
  if q.cap = 0 then s else s.journalFor t .scratch (scratchAddr al.1 (al.2 + q.ring + q.tail % q.cap * n)) n

/-- R176: a push that has room. -/
def queuePush (s : State) (a : Nat) (payload : List W32) : State :=
  let q := s.queueAt a
  let n := if q.wide then 8 else 4
  let al := allocOf s a
  let s := s.writeScratch (scratchAddr al.1 (al.2 + q.ring + q.tail % q.cap * (4 * n)))
    ((payload.take n).flatMap fun w => toBytes w.toNat 4)
  s.setQueue a { q with tail := (q.tail + 1) % 2 ^ 32 }

def headEntry (s : State) (a : Nat) : List W32 :=
  let q := s.queueAt a
  let al := allocOf s a
  entryWords s al.1 al.2 q q.head

def queueDrop (s : State) (a : Nat) : State :=
  let q := s.queueAt a
  s.setQueue a { q with head := (q.head + 1) % 2 ^ 32 }

/-- The blocked thread that is served first on a queue (R176). -/
def firstWaiter (s : State) (f : Wait → Option Nat) : Option Nat :=
  (s.threads.foldl (fun best e =>
    match e.2.status with
    | .blocked w =>
      match f w with
      | none => best
      | some k =>
        match best with
        | none => some (k, e.1)
        | some (k', t') => if k < k' then some (k, e.1) else some (k', t')
    | _ => best) (none : Option (Nat × Nat))).map Prod.snd

def pushOrder (a : Nat) : Wait → Option Nat
  | .qpush o _ _ _ k => if o = a then some k else none
  | _ => none

def popOrder (a : Nat) : Wait → Option Nat
  | .qpop o _ _ _ k => if o = a then some k else none
  | _ => none

/-- One blocked popper goes on, if it can. -/
def servePop (s : State) (a t : Nat) : Option State :=
  let q := s.queueAt a
  match (s.thr t).status with
  | .blocked (.qpop _ _ base st _) =>
    if q.broken then some (release s t (wr32 (.v st) (stWord 2 0 false) false))
    else if q.count = 0 then none
    else
      let ws := headEntry s a
      let s := queueDrop (s.journalFor t .scratch a 32) a
      some (release s t (wrN (.v base) ws false ++ wr32 (.v st) (stWord 0 (s.queueAt a).count false) false))
  | _ => none

/-- One blocked pusher goes on, if it can. -/
def servePush (s : State) (a t : Nat) : Option State :=
  let q := s.queueAt a
  match (s.thr t).status with
  | .blocked (.qpush _ _ pl st _) =>
    if q.broken then some (release s t (wr32 (.v st) (stWord 2 0 false) false))
    else if q.space = 0 then none
    else
      let s := queuePush (journalQueue s t a) a pl
      some (release s t (wr32 (.v st) (stWord 0 (s.queueAt a).space false) false))
  | _ => none

/-- R176, R183: serves blocked poppers and pushers in order while one can go on; a broken queue returns BROKEN to all. -/
def queueServe (a : Nat) (s : State) : Nat → State
  | 0 => s
  | n + 1 =>
    match (firstWaiter s (popOrder a)).bind (servePop s a) with
    | some s' => queueServe a s' n
    | none =>
      match (firstWaiter s (pushOrder a)).bind (servePush s a) with
      | some s' => queueServe a s' n
      | none => s

/-- After any change of a queue. -/
def queueChanged (s : State) (a : Nat) : State := wakeWaitv (queueServe a s (2 * s.threads.length + 2))

/-! Groups. -/

def State.group? (s : State) (g : Nat) : Option Group := s.groups.get? g
def State.updGroup (s : State) (g : Nat) (f : Group → Group) : State :=
  match s.groups.get? g with
  | some x => { s with groups := s.groups.set g (f x) }
  | none => s

/-- R209: phase t is done. -/
def Group.isDone (g : Group) (tok : Nat) : Bool :=
  let d := (g.phase + 65536 - tok) % 65536
  decide (1 ≤ d ∧ d ≤ 32767)

/-- The threads blocked on a group. -/
def State.onGroup (s : State) (g : Nat) : List Nat :=
  s.blockedBy fun w => match w with | .bar k _ _ _ _ => k == g | _ => false

/-- R183: a broken group wakes its waiters with BROKEN. -/
def breakGroup (s : State) (g : Nat) : State :=
  let s := s.updGroup g fun x => { x with broken := true }
  (s.onGroup g).foldl (fun s t =>
    match (s.thr t).status with
    | .blocked (.bar _ _ dst _ _) => release s t (wr32 dst (stWord 2 0 false) false)
    | _ => s) s

/-- The crew a member entry of a group stands for: the billet key and the crew number. -/
def memberCrew (s : State) (g : Group) (m : Nat × Nat) : Option Nat :=
  match s.billets.get? m.1 with
  | none => none
  | some b => if b.wp != g.wp || b.set != g.set then none else b.crews.find? fun c => (s.crew c).number == m.2

/-- The lanes of a member crew that hold a thread that has not ended. -/
def memberLive (s : State) (g : Group) (m : Nat × Nat) : List Nat :=
  match memberCrew s g m with
  | none => []
  | some c => (List.range 32).filter fun l => (s.thr (c * 32 + l)).status != .ended

/-- R168: a crew all of whose live lanes have left is no longer a member, until a reset; one that ends without having left
stays a member. -/
def Group.settled (g : Group) (s : State) : Group :=
  { g with out := g.out ++ (g.members.filter fun m =>
      let live := memberLive s g m
      let left := (Map.get? g.left (memKey m)).getD 0
      !g.out.contains (memKey m) && !live.isEmpty && live.all fun l => left.getLsbD l).map memKey }

/-- R170: how long a phase's timer has run, and whether it has reached the timeout. -/
def Group.elapsed (g : Group) (now : Nat) : Nat :=
  now - g.start - g.paused - (match g.pausedAt with | some p => now - p | none => 0)

def Group.due (g : Group) (now : Nat) : Bool :=
  g.first.isSome && !g.broken && g.pausedAt.isNone && decide (g.timeout ≤ g.elapsed now)

/-- R167: every member crew has presented a mask whose lanes have all arrived or left, an arrival has been made, and the
timeout has not come first (R170). -/
def phaseComplete (s : State) (g : Group) : Bool :=
  g.first.isSome && !g.broken && !g.due s.time && g.members.all fun m =>
    let k := memKey m
    let left := (Map.get? g.left k).getD 0
    let arr := (Map.get? g.arrived k).getD 0
    g.out.contains k || (match Map.get? g.presented k with
      | none => false
      | some p => (p &&& ~~~(arr ||| left)) == 0)

/-- R167: the phase advances; arrivals that block wake (`last` marks the threads of the group of arrivals that completed
it, R210).  Threads in BBAR stay blocked until the checkpoint (R411). -/
def advancePhase (s : State) (g : Nat) (last : List Nat) : State :=
  let s := s.updGroup g fun x =>
    { x with phase := (x.phase + 1) % 65536, presented := [], arrived := [], first := none, paused := 0,
             pausedAt := none }
  match s.group? g with
  | none => s
  | some x =>
    (s.onGroup g).foldl (fun s t =>
      match (s.thr t).status with
      | .blocked (.bar _ tok dst arrived _) =>
        if x.isDone tok then
          if x.entry = 0xFFFF then
            s.updThr t fun y => { y with status := .blocked (.bar g tok dst arrived (arrived && last.contains t)) }
          else release s t (wr32 dst (stWord 0 tok (arrived && last.contains t)) false)
        else s
      | _ => s) s

/-- R167 after any change of arrivals or membership. -/
def evalPhase (s : State) (g : Nat) (last : List Nat) : State :=
  let s := s.updGroup g fun x => x.settled s
  match s.group? g with
  | none => s
  | some x => if phaseComplete s x then advancePhase s g last else s

/-- The group instances of a crew: a table group by handle, the billet group by entry 0xFFFF. -/
def crewGroups (s : State) (cid : Nat) : List (Nat × Group) :=
  let k := s.billetKey cid
  match s.billets.get? k with
  | none => []
  | some b =>
    s.groups.filter fun e => e.2.wp == b.wp && e.2.set == b.set && e.2.members.contains (k, (s.crew cid).number)

/-- Those of which the crew still is a member (R168, R182). -/
def memberGroups (s : State) (cid : Nat) : List Nat :=
  ((crewGroups s cid).filter fun e => !e.2.out.contains (memKey (s.billetKey cid, (s.crew cid).number))).map Prod.fst

/-! Broken objects and the traps that break them. -/

/-- What threads belong to (R182): stages and queues they have used, and the group instances of their crews. -/
def belongings (s : State) (ts : List Nat) : List Nat × List Nat :=
  (((s.objUse.filter fun e => ts.contains e.1).map Prod.snd).dedup, (ts.flatMap fun t => memberGroups s (crewOf t)).dedup)

/-- R182: breaks objects, and wakes what waits on them. -/
def breakThese (s : State) (os : List Nat × List Nat) : State :=
  let s := os.1.foldl (fun s o =>
    let s := s.markBroken o
    if objIsQueue o then queueChanged s (objAddr o) else wakeStage s (objAddr o)) s
  os.2.foldl breakGroup s

/-- R182: breaks every object the threads belong to. -/
def breakObjects (s : State) (ts : List Nat) : State := breakThese s (belongings s ts)

def Trap.breaks : Trap → Bool
  | .brk => false
  | .step => false
  | .watch => false
  | .swtrap => false
  | _ => true

/-- Raises traps of threads at their words: taken, then their objects break (R182). -/
def raise (s : State) (xs : List (Nat × TrapInfo)) : State :=
  if xs.isEmpty then s
  else breakThese (takeTraps s xs) (belongings s ((xs.filter fun x => x.2.trap.breaks).map Prod.fst))

/-! Rejoining. -/

/-- A lane blocked at a JOIN; a suspended one does not count (R162). -/
def joinMask (s : State) (t : Nat) : Option W32 :=
  match (s.thr t).status with
  | .blocked (.join m) => if (s.thr t).suspended then none else some m
  | _ => none

/-- Threads of a crew that one round of pass 1 of R162 releases. -/
def joinRound (s : State) (cid : Nat) : List Nat :=
  (crewTids cid).filter fun t =>
    match joinMask s t with
    | none => false
    | some m => (List.range 32).all fun j => !m.getLsbD j || joinMask s (cid * 32 + j) == some m

def joinPass1 (cid : Nat) (s : State) : Nat → State
  | 0 => s
  | n + 1 =>
    let ts := joinRound s cid
    if ts.isEmpty then s else joinPass1 cid (ts.foldl (fun s t => release s t []) s) n

/-- R162: both passes over the threads of a crew blocked at a JOIN. -/
def evalJoin (s : State) (cid : Nat) : State :=
  let s := joinPass1 cid s 32
  let dis := (crewTids cid).filter fun t =>
    match joinMask s t with
    | none => false
    | some m => (List.range 32).all fun j =>
        !m.getLsbD j || (joinMask s (cid * 32 + j)).isSome || (s.thr (cid * 32 + j)).status == .ended
  raise s (dis.map fun t => (t, { trap := .maskdis }))

/-! Crew operations in mask form. -/

def maskArg (s : State) (t : Nat) : Option CrewArg :=
  match (s.thr t).status with
  | .mask c => some c
  | _ => none

/-- An operation in flight whose results are known at issue (R34). -/
def State.addValue (s : State) (t dc : Nat) (ws : List RegWrite) : State :=
  let s := s.contest t (ws.map RegWrite.tgt)
  let w := ((s.billet? (crewOf t)).map Billet.wp).getD 0
  { s with
    pend := s.pend ++ [{ id := s.seq, tid := t, wp := w, dc := dc, op := .value, done := true,
                         dests := ws.map RegWrite.tgt, writes := ws,
                         contested := (ws.map RegWrite.tgt).filter fun g => !(s.writers t g).isEmpty }],
    seq := s.seq + 1 }

/-- Poison that a predicate or an s register would take (R392): the register code, or none. -/
def consumesAt (ws : List RegWrite) (code : Nat) : Option Nat :=
  if ws.any fun w => w.poison && (match w.tgt with | .v _ => false | _ => true) then some code else none

def poisonTrap (s : State) (t code : Nat) : Nat × TrapInfo :=
  (t, { trap := .poison, addr := (s.thr t).poisonAddr.toNat, detail := code })

/-- Delivers a crew operation to its participants; s registers take the lowest lane's value (R30). -/
def crewDeliver (s : State) (cid : Nat) (ps : List (Nat × CrewArg)) : State × List (Nat × TrapInfo) :=
  let low := (ps.map Prod.fst).foldl min 32
  let code := ((ps.find? fun p => p.2.aPoison).map fun p => p.2.aCode).getD 0xFF
  ps.foldl (fun acc p =>
    let t := cid * 32 + p.1
    let ws := (crewWrites ps p.1 p.2).filter fun w =>
      match w.tgt with
      | .s _ => p.1 == low
      | _ => true
    match consumesAt ws code with
    | some k => (acc.1, acc.2 ++ [poisonTrap s t k])
    | none =>
      (if p.2.kind.isVar then acc.1.addValue t p.2.dc ws else acc.1.putRegs t ws, acc.2)) (s, [])

/-- R199: what the waits of a crew at mask-form operations resolve to: the participants of one that executes, or the
lanes that raise MASKDIS. -/
def maskResolution (s : State) (cid : Nat) : Option (Bool × List Nat) :=
  (crewTids cid).findSome? fun t =>
    match maskArg s t with
    | none => none
    | some x =>
      let lanes := (List.range 32).filter fun j => x.mask.getLsbD j
      let settled := lanes.all fun j => (maskArg s (cid * 32 + j)).isSome || (s.thr (cid * 32 + j)).status == .ended
      let agree := lanes.all fun j =>
        match maskArg s (cid * 32 + j) with
        | some y => y.pc == x.pc && y.widx == x.widx && y.mask == x.mask
        | none => false
      if !settled then none
      else if agree then some (true, lanes)
      else some (false, lanes.filter fun j => (maskArg s (cid * 32 + j)).isSome)

def resolveMask (cid : Nat) (s : State) : Nat → State
  | 0 => s
  | n + 1 =>
    match maskResolution s cid with
    | none => s
    | some (true, lanes) =>
      let ps := lanes.filterMap fun j => (maskArg s (cid * 32 + j)).map fun x => (j, x)
      let r := crewDeliver s cid ps
      let s := ps.foldl (fun s p =>
        let t := cid * 32 + p.1
        if r.2.any fun x => x.1 == t then s
        else settle s t (s.thr t).afterWord.1 (s.thr t).afterWord.2) r.1
      resolveMask cid (raise s r.2) n
    | some (false, lanes) =>
      resolveMask cid (raise s (lanes.map fun j => (cid * 32 + j, { trap := .maskdis }))) n

/-! The write of a line, as other agents see it. -/

/-- R179: monitors on a line fire. -/
def fireMonitors (s : State) (line : Nat) (only : Nat → Bool) : State :=
  let hit (t : Nat) (m : Monitor) : Bool := only t && m.armed && m.line == line
  if s.threads.any (fun e => hit e.1 e.2.mon0 || hit e.1 e.2.mon1) then wakeWaitv (s.markMonitors line only) else s

/-- Whether a load has been performed past a speculative fence not yet complete (R259), on a line, at these cores. -/
def watchedOn (fence : Pend) (line : Nat) (cores : Nat → Bool) : Bool :=
  match fence.op with
  | .fence _ _ false (some snap) => !fence.done && cores (coreOf fence.tid) && snap.watched.contains line
  | _ => false

/-- A load performed past open speculative fences of its bundle is watched (R259). -/
def State.watch (s : State) (p : Pend) (line : Nat) : State :=
  { s with pend := s.pend.map fun q =>
      match q.op with
      | .fence o sc false (some snap) =>
        if !q.done && decide (snap.last < p.id) && (snap.threads.any fun e => e.1 == p.tid) && !snap.watched.contains line then
          { q with op := .fence o sc false (some { snap with watched := line :: snap.watched }) }
        else q
      | _ => q }

/-- Registers, predicates, poison bits and place of a thread as they were (R259). -/
def Thread.rolledBack (x old : Thread) : Thread :=
  { x with
    v := old.v, poison := old.poison, p := old.p, poisonAddr := old.poisonAddr
    pc := old.pc, widx := old.widx, clause := old.clause, depth := old.depth, cache := old.cache, deep := old.deep
    status := match x.status with
      | .trapped i => .trapped i
      | .held i => .held i
      | .ended => .ended
      | _ => .ready }

/-- A count of PERFR (R435), of a context on a core. -/
def bumpPerf (s : State) (c core idx n : Nat) : State :=
  s.updCtx c fun x => { x with perf := Map.set x.perf (core * 8 + idx) (((Map.get? x.perf (core * 8 + idx)).getD 0) + BitVec.ofNat 64 n) }

/-- R259: the bundle of a fence goes back to the word after it; its later operations are discarded. -/
def rollbackFence (s : State) (fence : Pend) : State :=
  match fence.op with
  | .fence _ _ _ (some snap) =>
    let ts := snap.threads.map Prod.fst
    let core := coreOf fence.tid
    let c := s.ctxOf (crewOf fence.tid)
    let later (t id : Nat) : Bool := decide (snap.last < id) && ts.contains t
    let s := s.leave ts
    let s := snap.threads.foldl (fun s e => if (s.threads.get? e.1).isSome then s.updThr e.1 fun x => x.rolledBack e.2 else s) s
    let s : State := { s with
      pend := (s.pend.filter fun p => !later p.tid p.id).map fun q =>
        match q.op with
        | .fence o sc st (some x) => if x.last = snap.last then { q with op := .fence o sc st (some { x with watched := [] }) } else q
        | _ => q
      know := s.know.filter fun k => !later k.tid k.op
      reads := s.reads.filter fun r => !later r.tid r.op }
    bumpPerf s c core 1 1
  | _ => s

/-- The fences whose watched loads a loss of a line rolls back, each as it stands when its turn comes. -/
def rollWatched (s : State) (line : Nat) (which : Pend → Bool) (cores : Nat → Bool) : State :=
  ((s.pend.filter fun p => which p && watchedOn p line cores).map Pend.id).foldl (fun s id =>
    match s.pend.find? fun p => p.id == id with
    | some p => if watchedOn p line cores then rollbackFence s p else s
    | none => s) s

/-- A line leaves the agents that `cores` names: their SELF copies go, monitors on it fire, watched loads roll back. -/
def loseLine (s : State) (line : Nat) (cores : Nat → Bool) : State :=
  rollWatched (fireMonitors s line fun t => cores (coreOf t)) line (fun _ => true) cores

/-- A write performed at a line by an agent: memory changes, monitors fire anywhere, the watched loads of others roll
back. Written bytes are no longer stale (R236), and stand for no release. -/
def performWrite (s : State) (pa : Nat) (bs : List Byte) (writer : Nat) : State :=
  let s := { s.writePa pa bs with stale := s.stale.filter fun c => decide (c.1 < pa ∨ pa + bs.length ≤ c.1) }
  let s := (fireMonitors s (lineOf pa) fun _ => true).noteWrite .global pa bs.length []
  rollWatched s (lineOf pa) (fun p => p.tid != writer) fun _ => true

/-! The end of threads, billets and workpieces. -/

/-- Whether everything a workpiece caused has been performed (R191). -/
def wpDrained (s : State) (w : Nat) : Bool :=
  (s.pend.all fun p => p.wp != w || p.done) &&
  s.ladle.all (fun c => c.wp != w) && s.trav.all (fun c => c.wp != w) && s.anvil.all fun o => o.wp != w

/-- R191: completion, once the release it is has nothing left to cover. -/
def completeWp (s : State) (w : Nat) (x : Workpiece) : State :=
  let done := pkt x.packet 448 64
  let irq := done % 2 == 1
  let a := done / 8 * 8
  let s := s.updWp w fun y => { y with live := false }
  let s := if a = 0 then s
    else match translate s x.ctx 2 .rmw a with
      | .ok pa _ _ => performWrite s pa (toBytes (s.readPa pa 8 + 1) 8) engineTid
      | _ => s.postEvent x.tenant (wpRecord s x 2 0x19)
  if irq then s.msix x.tenant (if x.queue = 16 then 20 else 4 + x.queue) else s

def tryComplete (s : State) (w : Nat) : State :=
  match s.wps.get? w with
  | none => s
  | some x =>
    if x.live && decide (x.ended = pkt x.packet 168 24 + 1) && wpDrained s w then completeWp s w x else s

/-- Every workpiece whose last operation may just have been performed. -/
def completeAll (s : State) : State := (s.wps.map Prod.fst).foldl tryComplete s

/-- R154: a billet whose crews have all ended is freed. -/
def endBillet (s : State) (k : Nat) : State :=
  match s.billets.get? k with
  | none => s
  | some b =>
    if (b.crews ++ b.assay).all (fun c => (crewTids c).all fun t => (s.thr t).status == .ended) then
      let s := s.freeBillet k
      tryComplete (s.updWp b.wp fun w => { w with ended := w.ended + 1 }) b.wp
    else s

/-- R147, R154: threads of one crew end; killed threads break their objects (R182). -/
def endThreads (s : State) (ts : List Nat) (killed : Bool) : State :=
  let s := s.leave ts
  let s := ts.foldl (fun s t => (s.updThr t fun x => { x with status := .ended, endPc := x.pc, mon0 := {}, mon1 := {} }).orphan t) s
  let s := if killed then breakObjects s ts else s
  let cids := (ts.map crewOf).dedup
  let s := ((cids.flatMap fun c => (crewGroups s c).map Prod.fst).dedup).foldl (fun s g => evalPhase s g []) s
  let s := cids.foldl (fun s c => resolveMask c (evalJoin s c) 64) s
  cids.foldl (fun s c =>
    if c % 32 = handlerSlot then
      let s : State := { (s.updCore (c / 32) fun x => { x with handlerCtx := none }) with
        threads := s.threads.filter fun e => crewOf e.1 != c }
      s.gateIdle (c / 32)
    else endBillet s (s.billetKey c)) s

/-! Return from a trap. -/

/-- The trap a thread stands in, held under debug or not (R401). -/
def Thread.trap? (t : Thread) : Option TrapInfo :=
  match t.status with
  | .trapped i => some i
  | .held i => some i
  | _ => none

/-- R424, R48: a trapped thread goes on at its word or the word after: it waits until its counters are 0, but where it goes
on at the next clause, which is started in full. A PC written by the debug window starts a fresh clause (R441). The breakpoints
that stopped it at a clause are passed there (R425). -/
def resumeThread (s : State) (t : Nat) (next step : Bool) : State :=
  match (s.thr t).trap? with
  | some _ =>
    let s := s.updThr t fun x =>
      let y := if x.pcWritten then { x.goTo x.pc 0 with clause := none }
        else if next then x.goTo x.afterWord.1 x.afterWord.2 else x
      { y with status := .ready, stepping := step, pcWritten := false, drain := !x.pcWritten && (!next || y.widx != 0),
               bpPass := if next || x.pcWritten then none else x.bpPass,
               readyAt := (s.core (coreOf t)).gather, aged := false }
    evalJoin s (crewOf t)
  | none => s

end Sys2Proof.Machine
end

