-- ==== Sys2Proof/Machine/Issue.lean ====
section
/-!
DEFINITION. How a bundle issues one word (R158, R78): the checks made of every word, the stalls (R34, R259), the lanes that
act (R31), the traps they raise, and where the bundle goes next.
-/
namespace Sys2Proof.Machine

abbrev Out := Host.Outcome State Fault Refusal

/-- What an assay pair does at a word (R416). -/
inductive Cmp where
  | free | compare | load
  deriving DecidableEq, Repr

/-- What R67 to R78 say of a word: its group, the queue a PUSH names, whether it is TRAP or BRK, the register fields it
uses with their widths, its destinations, whether it has variable latency, whether it waits for a speculative fence
(R259), the lowest privilege that may run it, and what an assay pair does, the level
earlier accesses must have reached, whether it waits for the thread's acquires, the predicate it writes, and whether an assay crew executes it itself once its leader
has (R416). -/
structure WordAttr where
  group : Nat
  queue : Option Nat := none
  anyClass : Bool := false
  regs : List (Reg × Nat) := []
  dsts : List Reg := []
  var : Bool := false
  wait : Bool := false
  priv : Nat := 2
  cmp : Cmp := .free
  passes : Bool := false
  settle : Option Nat := none
  orders : Bool := false
  pdst : Option (Fin 8) := none
  own : Bool := false
  deriving DecidableEq, Repr

/-- The class table of R53. -/
def WordAttr.allowed (a : WordAttr) (c : Cls) : Bool :=
  if a.anyClass then true
  else match a.queue with
    | some q => if q = 0 then c == .cpy else c == .vec || c == .cpy
    | none =>
      match a.group with
      | 1 => c == .vec
      | 5 => c == .mtx
      | 6 => c == .vec
      | 7 => c == .sys
      | _ => true

/-- R29: a v field that reaches the budget. -/
def overBudget (budget : Nat) (rs : List (Reg × Nat)) : Bool :=
  rs.any fun x => match x.1 with
    | .v n => decide (budget < n + x.2)
    | _ => false

/-- What a word did: the state, the traps of the lanes that had no effect (or WATCH after theirs), and whether the word must
wait and issue again (R377). -/
structure WordOut where
  s : State
  traps : List (Nat × TrapInfo) := []
  stall : Bool := false

/-- R34: operations of a thread that signal a counter. -/
def counter (s : State) (t : Nat) (dc : Nat) : Nat :=
  if dc = 0 then 0 else (s.pend.filter fun p => p.tid == t && p.dc == dc).length

/-- A speculative FENCE of the thread's bundle that has not completed (R259). -/
def openFence (s : State) (t : Nat) : Bool :=
  s.pend.any fun p => !p.done && (match p.op with
    | .fence _ _ _ (some snap) => p.tid == t || snap.threads.any fun e => e.1 == t
    | _ => false)

/-- A strict FENCE of the thread that has not completed: no later word issues (R280). -/
def strictOpen (s : State) (t : Nat) : Bool :=
  s.pend.any fun p => p.tid == t && !p.done && (match p.op with | .fence _ _ true (some _) => true | _ => false)

def Reg.isS : Reg → Bool
  | .s _ => true
  | _ => false

/-- An acquire of the thread that has not performed: later accesses wait (R252, R264). -/
def openAcquire (s : State) (t : Nat) : Bool := s.pend.any fun p => p.tid == t && !p.done && p.op.acquires

/-- What the releasing fences of a thread stand for is not visible yet throughout their instances: a surface access that follows
would carry them (R252, R264). -/
def unpublished (s : State) (t : Nat) : Bool :=
  s.relFences.any fun f => f.tid == t && (s.owed t f.op).any fun i => s.pend.any fun q => q.id == i && !q.reaches (min f.level 5) t

/-- Whether the word must wait: a counter at 63 (R34), a fence not complete (R259), or, for a word that publishes what its
thread did before (R169, R176), earlier accesses not yet visible. -/
def stalls (s : State) (h : Head) (a : WordAttr) (ts : List Nat) : Bool :=
  (a.var && ts.any fun t => decide (63 ≤ counter s t h.dc.val)) ||
  ((a.wait || a.dsts.any Reg.isS) && ts.any (openFence s)) ||
  (a.orders && ts.any fun t => openAcquire s t || unpublished s t) ||
  (match a.settle with
   | some l => ts.any fun t => !settled s t l
   | none => false)

/-- R32, R52: threads still in a bundle after its last word go on at the next clause. -/
def endClause (s : State) (b : Nat) (x : Bundle) : State :=
  let left := ((s.bundles.get? b).map Bundle.tids).getD []
  let s := { s with bundles := s.bundles.del b }
  let s := left.foldl (fun s t => settle s t x.clause.next 0) s
  if x.clause.yld then
    x.tids.foldl (fun s t =>
      if (s.threads.get? t).isSome then s.updThr t fun y => { y with yieldTil := (s.core (coreOf t)).gather + 4 } else s) s
  else s

/-- The word after, for the threads still in the bundle; a stepping thread raises STEP there (R425). -/
def nextWord (s : State) (b : Nat) (x : Bundle) : State :=
  match s.bundles.get? b with
  | none => s
  | some y =>
    if x.widx + 1 < x.clause.words.length then
      let st := y.tids.filter fun t => (s.thr t).stepping
      let s := { s with bundles := s.bundles.set b { y with widx := x.widx + 1, lanes := [] } }
      let s := takeTraps (st.foldl (fun s t => s.updThr t fun z => { z with widx := x.widx + 1 }) s)
        (st.map fun t => (t, { trap := .step }))
      match s.bundles.get? b with
      | some z => if z.tids.isEmpty then { s with bundles := s.bundles.del b } else s
      | none => s
    else endClause s b x

/-- Traps are raised; WATCH only once its word has completed (R442). -/
def raiseNow (s : State) (xs : List (Nat × TrapInfo)) : State :=
  let late := xs.filter fun y => y.2.trap == .watch && !s.drained y.1
  let s := late.foldl (fun s y => s.updThr y.1 fun t => { t with status := .watching y.2 }) (s.leave (late.map Prod.fst))
  raise s (xs.filter fun y => !late.contains y)

/-- The threads a watchpoint stopped whose word has completed raise WATCH (R442). -/
def raiseWatches (s : State) : State :=
  raise s (s.threads.filterMap fun e =>
    match e.2.status with
    | .watching i => if s.drained e.1 then some (e.1, i) else none
    | _ => none)

/-- Whether a thread belongs to an assay crew, or to a crew that has one (R416). -/
def paired (s : State) (t : Nat) : Bool :=
  (s.crew (crewOf t)).leader.isSome || (s.billet? (crewOf t)).any fun b => !b.assay.isEmpty

/-- Traps, each at its thread's place; those of an assay pair are compared first (R416). -/
def raiseCompared (s : State) (traps : List (Nat × TrapInfo)) : State :=
  let mine := traps.filter fun y => paired s y.1
  let s := mine.foldl (fun s y => s.updThr y.1 fun t => { t with status := .assay [] (some y.2) s.time, cmpOk := false })
    (s.leave (mine.map Prod.fst))
  raiseNow s (traps.filter fun y => !paired s y.1)

/-- Traps at a word (R46, R158): each thread leaves its bundle at that word. -/
def raiseAt (s : State) (x : Bundle) (traps : List (Nat × TrapInfo)) : State :=
  let traps := sortBy (fun a b => decide (a.1 ≤ b.1)) traps
  if traps.isEmpty then s
  else raiseCompared (traps.foldl (fun s y => s.updThr y.1 fun t => { t with widx := x.widx }) s) traps

/-- The end of a word. -/
def finishWord (b : Nat) (x : Bundle) (o : WordOut) : State :=
  let s := raiseAt o.s x o.traps
  let s := nextWord s b x
  { s with fresh := s.fresh + 1 }

/-- Every thread of the bundle raises a trap: the checks that ignore the guard (R31, R78). -/
def trapBundle (s : State) (b : Nat) (x : Bundle) (i : TrapInfo) : State :=
  finishWord b x { s := s, traps := x.tids.map fun t => (t, i) }

/-- The source registers of a word: its register fields without one entry per destination, which stand last. -/
def WordAttr.sources (a : WordAttr) : List (Reg × Nat) :=
  (a.dsts.foldl (fun rs d => rs.eraseP fun r => r.1 == d) a.regs.reverse).reverse

/-- The values compared at a compare point (R416): the word, the guard and the operands, and of a matrix word the gang value. -/
def compareData (s : State) (t : Nat) (x : Bundle) (h : Head) (a : WordAttr) : List Nat :=
  [x.clause.words.getD x.widx 0, (s.guard t h).toNat] ++ (if a.group = 5 then [(s.crew (crewOf t)).gang.toNat] else []) ++
    a.sources.flatMap fun r => (s.rN t r.1 r.2).map BitVec.toNat

/-- A bundle with no thread left is over. -/
def State.closeBundle (s : State) (b : Nat) : State :=
  match s.bundles.get? b with
  | some y => if y.tids.isEmpty then { s with bundles := s.bundles.del b } else s
  | none => s

/-- The threads of a bundle are past the compare of its word (R416). -/
def compared (s : State) (x : Bundle) : State := x.tids.foldl (fun s t => s.updThr t fun y => { y with cmpOk := false }) s

/-- Threads of an assay pair wait at a compare point (R416). -/
def toCompare (s : State) (b : Nat) (x : Bundle) (h : Head) (a : WordAttr) (ts : List Nat) : State :=
  let s' := ts.foldl (fun s1 t => s1.updThr t fun y =>
    { y with widx := x.widx, status := .assay (compareData s t x h a) none s.time }) (s.leave ts)
  s'.closeBundle b

/-- A register as the destination of a write in flight. -/
def Target.ofReg : Reg → Option Target
  | .v n => some (.v n)
  | .s n => some (.s n)
  | .z => none

/-- The registers a word writes. -/
def WordAttr.targets (a : WordAttr) : List Target :=
  a.dsts.filterMap Target.ofReg ++
    (match a.pdst with | some p => if p.val < 7 then [.p p.val] else [] | none => [])

/-- Whether passed values are those of a lane for the destinations of a word; a word that delivers none passes an empty entry. -/
def passedFor (l : Nat) (ds : List Target) (e : Nat × List RegWrite) : Bool :=
  e.1 == l && if ds.isEmpty then e.2.isEmpty else e.2.any fun w => ds.contains w.tgt

/-- The first values passed to a lane of an assay crew for these destinations. -/
def passedTo (s : State) (t : Nat) (ds : List Target) : Option (List RegWrite) :=
  ((s.crew (crewOf t)).passed.find? (passedFor (laneOf t) ds)).map Prod.snd

def dropPassed (l : Nat) (ds : List Target) : List (Nat × List RegWrite) → List (Nat × List RegWrite)
  | [] => []
  | e :: r => if passedFor l ds e then r else e :: dropPassed l ds r

/-- An assay crew takes the values its leader received (R416). -/
def takePassed (s : State) (ds : List Target) (ts : List Nat) : State :=
  ts.foldl (fun s t =>
    match passedTo s t ds with
    | some ws => (s.putRegs t ws).updCrew (crewOf t) fun c => { c with passed := dropPassed (laneOf t) ds c.passed }
    | none => s) s

/-- Whether a bundle's crews are assay crews, or have them (R416). -/
def bundlePaired (s : State) (x : Bundle) : Bool := x.tids.any (paired s)

def bundleAssay (s : State) (x : Bundle) : Bool := x.tids.any fun t => (s.crew (crewOf t)).leader.isSome

/-- What a leader passes for a word: values to these destinations, or word that it has gone through. -/
def WordAttr.passing (a : WordAttr) : List Target := if a.passes then a.targets else []

/-- The word of a leader: lanes that had its effect and receive nothing tell their assay lanes (R416). -/
def telling (x : Bundle) (a : WordAttr) (body : State → List Nat → WordOut) (s : State) (ts : List Nat) : WordOut :=
  let o := body s ts
  if o.stall then o
  else
    let done := if a.passing.isEmpty then ts.filter fun t => !(o.traps.any fun y => y.1 == t && y.2.trap != .watch) else []
    { o with s := compared (done.foldl (fun s t => passOn s t []) o.s) x }

/-- How the thread's leader stands at a word: in a trap it has come to or taken there. -/
def leaderTrap (s : State) (x : Bundle) (t : Nat) : Option (TrapInfo × Bool) :=
  (s.crew (crewOf t)).leader.bind fun c =>
    let u := s.thr (c * 32 + laneOf t)
    if u.pc != x.clause.pc || u.widx != x.widx then none
    else match u.status with
      | .assay _ (some i) _ => some (i, false)
      | .trapped i => some (i, true)
      | .held i => some (i, true)
      | _ => none

/-- The lowest active lane of a thread's crew supplies an s register (R30). -/
def supplies (ts : List Nat) (t : Nat) : Bool :=
  (ts.filter fun u => crewOf u == crewOf t).all fun u => decide (t ≤ u)

/-- The lanes that act: those whose guard is true (R31), in lane order. -/
def activeOf (s : State) (x : Bundle) (h : Head) : List Nat := x.tids.filter fun t => s.guard t h

/-- The act of a word for the active lanes, with the stalls of R34 and R259; a trap waits for an open fence. -/
def runWord (s : State) (b : Nat) (x : Bundle) (h : Head) (a : WordAttr) (body : State → List Nat → WordOut) : State :=
  let ts := activeOf s x h
  if stalls s h a ts then s
  else
    let low := ts.filter fun t => decide (a.priv < (s.crew (crewOf t)).priv)
    let o : WordOut :=
      if low.isEmpty then body s ts
      else { s := s, traps := low.map fun t => (t, { trap := .prot, cause := 0x40, detail := 3 }) }
    if o.stall then { o.s with fresh := o.s.fresh + 1 }
    else if o.traps.any fun y => openFence s y.1 then s
    else finishWord b x o

/-- A word at which an assay crew follows its leader (R416): each lane waits for what its leader receives, or for word that it has
gone through, and makes no access itself; one whose leader traps there comes to the same trap. -/
def assayWord (s : State) (b : Nat) (x : Bundle) (h : Head) (a : WordAttr) (body : State → List Nat → WordOut) : State :=
  let act := activeOf s x h
  let stuck := act.filterMap fun t => (leaderTrap s x t).bind fun i => if i.1.trap = .watch then none else some (t, i)
  let rest := act.filter fun t => !(stuck.any fun y => y.1 == t)
  let ts := rest.filter fun t => !(a.passing.any fun g => match g with | .s _ => true | _ => false) || supplies act t
  if !stuck.isEmpty then
    let s := raiseAt s x ((stuck.filter fun y => !y.2.2).map fun y => (y.1, y.2.1))
    let took := stuck.filter fun y => y.2.2
    (took.foldl (fun s y => s.updThr y.1 fun u => { u with status := .trapped y.2.1, widx := x.widx, cmpOk := false })
      (s.leave (took.map Prod.fst))).closeBundle b
  else if ts.any fun t => (passedTo s t a.passing).isNone then s
  else
    let s := compared (takePassed s a.passing ts) x
    if a.own then runWord s b x h a body
    else
      finishWord b x { s := s, traps := act.filterMap fun t => (leaderTrap s x t).map fun i => (t, i.1) }

/-- R78 and R158: the bundle named by `cur` issues a word. -/
def issueWord (s : State) (h : Head) (a : WordAttr) (body : State → List Nat → WordOut) : Out :=
  match s.cur with
  | none => .refused .noBundle
  | some b =>
    match s.bundles.get? b with
    | none => .refused .noBundle
    | some x =>
      let budget := ((x.tids.head?).map fun t => (s.crew (crewOf t)).budget).getD 0
      if x.tids.any (strictOpen s) then .next s
      else if !a.allowed x.clause.cls then
        .next (if x.tids.any (openFence s) then s else trapBundle s b x { trap := .cls, cause := 0x12 })
      else if overBudget budget a.regs then
        .next (if x.tids.any (openFence s) then s else trapBundle s b x { trap := .budget, cause := 0x30 })
      else if bundlePaired s x && a.cmp != .free then
        if a.cmp == .compare && x.tids.any (fun t => !(s.thr t).cmpOk) then
          .next (toCompare s b x h a (x.tids.filter fun t => !(s.thr t).cmpOk))
        else if bundleAssay s x then .next (assayWord s b x h a body)
        else .next (runWord s b x h a (telling x a body))
      else .next (runWord s b x h a body)

/-! Lane by lane. -/

/-- What one lane computes: register writes with the code of the first poisoned source, or a trap. -/
structure LaneOut where
  ws : List RegWrite := []
  code : Nat := 0xFF
  trap : Option TrapInfo := none
  deriving DecidableEq, Repr

def keepS (ts : List Nat) (t : Nat) (ws : List RegWrite) : List RegWrite :=
  ws.filter fun w => match w.tgt with
    | .s _ => supplies ts t
    | _ => true

/-- The lane's own trap, or POISON where a poisoned value would reach a predicate or an s register (R392). -/
def laneTrap (s : State) (ts : List Nat) (t : Nat) (o : LaneOut) : Option TrapInfo :=
  match o.trap with
  | some i => some i
  | none => (consumesAt (keepS ts t o.ws) o.code).map fun k => (poisonTrap s t k).2

def laneTraps (s : State) (ts : List Nat) (f : State → Nat → LaneOut) : List (Nat × TrapInfo) :=
  ts.filterMap fun t => (laneTrap s ts t (f s t)).map fun i => (t, i)

def laneGood (s : State) (ts : List Nat) (f : State → Nat → LaneOut) : List (Nat × List RegWrite) :=
  ts.filterMap fun t =>
    match laneTrap s ts t (f s t) with
    | some _ => none
    | none => some (t, keepS ts t (f s t).ws)

/-- A fixed-latency word (R33): every lane reads the state before the word, then the results are written. -/
def fixedLanes (f : State → Nat → LaneOut) (s : State) (ts : List Nat) : WordOut :=
  { s := (laneGood s ts f).foldl (fun s' x => s'.putRegs x.1 x.2) s, traps := laneTraps s ts f }

/-- A variable-latency word whose results are known at issue (R34): they land later. -/
def varLanes (dc : Nat) (f : State → Nat → LaneOut) (s : State) (ts : List Nat) : WordOut :=
  { s := (laneGood s ts f).foldl (fun s' x => s'.addValue x.1 dc x.2) s, traps := laneTraps s ts f }

/-- The poison bit a result takes from its sources, and the register it names (R391). -/
def State.taint (s : State) (t : Nat) (rs : List (Reg × Nat)) : Bool × Nat :=
  match s.poisonOf t rs with
  | some k => (true, k)
  | none => (false, 0xFF)

/-- R392: a poisoned operand that leaves the registers or steers the instruction. -/
def consumed (s : State) (t : Nat) (rs : List (Reg × Nat)) : Option TrapInfo :=
  (s.poisonOf t rs).map fun k => (poisonTrap s t k).2

/-- A thread takes a control transfer (R52). -/
def jump (s : State) (t : Nat) (pc : BitVec 57) : State := settle (s.leave [t]) t pc 0

/-- A thread blocks in an X instruction (R68). -/
def block (s : State) (t : Nat) (x : Nat) (w : Wait) : State :=
  (s.leave [t]).updThr t fun y => { y with status := .blocked w, widx := x }

/-- The word index and clause of the bundle that issues. -/
def curBundle (s : State) : Option Bundle := s.cur.bind fun b => s.bundles.get? b
def curWidx (s : State) : Nat := ((curBundle s).map Bundle.widx).getD 0

end Sys2Proof.Machine
end

