-- ==== Sys2Proof/Machine/Park.lean ====
section
/-!
DEFINITION. Waiting for a page (R393, R394): fault records and parked threads, and their return (R396, R399).
-/
namespace Sys2Proof.Machine

/-- R394: one fault record. -/
def faultRecord (s : State) (granule : Nat) (sect : W32) (ctx type unit who tag : Nat) : List Byte :=
  toBytes (granule * 1024) 8 ++ toBytes sect.toNat 4 ++ toBytes ctx 2 ++ toBytes type 1 ++ toBytes unit 1 ++
    toBytes who 4 ++ toBytes tag 4 ++ toBytes s.time 8

/-- WHO of a thread: die, core, slot and lane. -/
def whoThread (t : Nat) : Nat :=
  coreOf t / 64 % 4 * 2 ^ 30 + coreOf t % 64 * 2 ^ 24 + slotOf t % 16 * 2 ^ 20 + laneOf t * 2 ^ 15

/-- A new TAG of a tenant. -/
def State.newTag (s : State) (f : Nat) : State × Nat :=
  let n := (s.tenant f).nextTag
  (s.updTenant f fun t => { t with nextTag := (n + 1) % 2 ^ 32 }, n)

/-- Posts the records of one pass, ascending, under one TAG (R393, R445). -/
def postFaults (s : State) (ctx type unit who tag : Nat) (gs : List (Nat × W32)) : State :=
  (sortBy (fun a b => decide (a.1 ≤ b.1)) gs).foldl (fun s g =>
    s.postFault (ctx / 16) tag (faultRecord s g.1 g.2 ctx type unit who tag)) s

/-- The granules and sectors that accesses touch (R394). -/
def addSector (gs : List (Nat × W32)) (va n : Nat) : List (Nat × W32) :=
  let g := va / 1024
  let bit := fun k : Nat => BitVec.ofNat 32 (2 ^ (k % 1024 / 32))
  let m := bit va ||| bit (va + n - 1)
  if gs.any (fun e => e.1 == g) then gs.map fun e => if e.1 = g then (g, e.2 ||| m) else e else gs ++ [(g, m)]

/-- R393: threads wait at their word, the instruction having had no effect. -/
def parkThreads (s : State) (ts : List Nat) (widx type unit : Nat) (gs : List (Nat × W32)) : State :=
  match ts with
  | [] => s
  | t0 :: _ =>
    let c := s.ctxOf (crewOf t0)
    let r := s.newTag (c / 16)
    let s := (r.1.leave ts)
    let s := ts.foldl (fun s t => s.updThr t fun x =>
      { x with widx := widx, status := .parked { tag := r.2, type := type, unit := unit, granules := gs, posted := true } }) s
    postFaults s c type unit (whoThread (ts.foldl min t0)) r.2 gs

/-- R396: a parked thread retries: it is ready at its word again. -/
def retryThread (s : State) (t : Nat) : State :=
  let s := s.updThr t fun x =>
    { x with status := .ready, drain := x.clause.isSome && x.widx != 0, readyAt := (s.core (coreOf t)).gather, aged := false }
  evalJoin s (crewOf t)

/-- R399: an aborted thread raises PROT at its word, DETAIL 5. -/
def abortInfo (p : Park) : TrapInfo :=
  { trap := .prot, detail := 5, addr := p.granules.foldl (fun m g => min m g.1) ((p.granules.map Prod.fst).headD 0) * 1024 }

end Sys2Proof.Machine
end

