-- ==== Sys2Proof/Machine/Control.lean ====
section
/-!
DEFINITION. Control flow (R144 to R149, R203): branches, the call state (R39), the end of a thread, rejoin and priority.
-/
namespace Sys2Proof.Machine

/-- The target of a B-format transfer (R58). -/
def wofsTarget (c : Clause) (wofs : BitVec 32) : W64 := pc64 c.pc + 8 * wofs.signExtend 64

/-- R144: the checks of a transfer to a target. -/
def targetTrap (t : W64) (reg : Bool) : Option TrapInfo :=
  if !canonical t.toNat then some { trap := .prot, addr := t.toNat, detail := 0 }
  else if reg && t.extractLsb' 0 3 != 0 then some { trap := .align, addr := t.toNat }
  else none

/-- The address of the clause that issues. -/
def curClause (s : State) : Clause :=
  match curBundle s with
  | some b => b.clause
  | none => { pc := 0, cls := .vec, waits := [], yld := false, xfer := false, words := [] }

/-- A control word: each active lane goes to a place, goes on, or traps. A register target is checked before its poison
(R144, R269, R392). -/
def branchLanes (f : State → Nat → Option W64) (reg : Bool) (use : State → Nat → Option TrapInfo) (s : State)
    (ts : List Nat) : WordOut :=
  ts.foldl (fun (o : WordOut) t =>
    let first := if reg then (f s t).bind fun a => targetTrap a true else none
    match first.or (use s t) with
    | some i => { o with traps := o.traps ++ [(t, i)] }
    | none =>
      match f s t with
      | none => o
      | some a =>
        match targetTrap a reg with
        | some i => { o with traps := o.traps ++ [(t, i)] }
        | none => { o with s := jump o.s t (a.extractLsb' 0 57) }) { s := s }

/-- BRA (R145). -/
def execBra (h : Head) (wofs : BitVec 32) (s : State) : Out :=
  issueWord s h { group := 2 } (branchLanes (fun s _ => some (wofsTarget (curClause s) wofs)) false fun _ _ => none)

/-- BRA.CONS (R203): a crew whose guards differ raises MASKDIS in its threads with a true guard. -/
def execBraCons (h : Head) (wofs : BitVec 32) (s : State) : Out :=
  issueWord s h { group := 2 } fun s ts =>
    let all := ((curBundle s).map Bundle.tids).getD []
    let split (t : Nat) : Bool := all.any fun u => crewOf u == crewOf t && !ts.contains u
    branchLanes (fun s _ => some (wofsTarget (curClause s) wofs)) false
      (fun _ t => if split t then some { trap := .maskdis } else none) s ts

/-- BRX (R145). -/
def execBrx (h : Head) (a : Reg) (s : State) : Out :=
  issueWord s h { group := 2, regs := [(a, 2)] }
    (branchLanes (fun s t => some (s.r64 t a)) true fun s t => consumed s t [(a, 2)])

/-- R39: the size of a slice of the context's stack window, and the slice of a thread (R440). -/
def sliceSize (s : State) (c : Nat) : Nat := 2 ^ (8 + min ((s.ctx c).stack.toNat % 16) 8)
def sliceBase (s : State) (t : Nat) : W64 :=
  let cid := crewOf t
  let c := s.ctxOf cid
  let idx := (((s.billet? cid).map Billet.index).getD 0 * 16 + (s.crew cid).number) * 32 + laneOf t
  let win : BitVec 57 := BitVec.ofNat 57 ((s.ctx c).stack.toNat / 65536 % 2 ^ 41 * 65536)
  pc64 win + BitVec.ofNat 64 (sliceSize s c * idx)

/-- R412: the line of a write of a billet is journalled where its interval is revocable. -/
def State.journalLine (s : State) (cid : Nat) (pa : Nat) : State := s.journal (s.billetKey cid) (.global (lineOf pa))

/-- What a call-state access meets: done, or the park or trap of R146. -/
inductive StackOut where
  | ok (s : State) (e : W64)
  | trap (i : TrapInfo)
  | park (va : Nat)

/-- Writes or reads entry k of the slice; an assay crew accesses no memory and keeps its entries itself (R416). -/
def stackAccess (s : State) (t k : Nat) (val : Option W64) : StackOut :=
  if (s.crew (crewOf t)).leader.isSome then
    match val with
    | some v => .ok (s.updThr t fun x => { x with deep := v :: x.deep }) v
    | none => .ok (s.updThr t fun x => { x with deep := x.deep.drop 1 }) ((s.thr t).deep.headD 0)
  else
  let c := s.ctxOf (crewOf t)
  let va := (sliceBase s t + BitVec.ofNat 64 (8 * (k - 1))).toNat
  match translate s c 1 (if val.isSome then .write else .read) va with
  | .ok pa _ _ =>
    match val with
    | some v => .ok (performWrite (s.journalLine (crewOf t) pa) pa (toBytes v.toNat 8) t) v
    | none => .ok s (BitVec.ofNat 64 (s.readPa pa 8))
  | .prot d => .trap { trap := .prot, addr := va, detail := d }
  | .fault => .park va

/-- CALL for one thread (R39, R146): its traps, its park, or the state with the entry recorded. -/
def callOne (s : State) (t : Nat) (ret : W64) : StackOut :=
  let th := s.thr t
  let c := s.ctxOf (crewOf t)
  if sliceSize s c / 8 ≤ th.depth then
    .trap { trap := .prot, detail := 2, addr := (sliceBase s t + BitVec.ofNat 64 (sliceSize s c)).toNat }
  else
    let push (s : State) : State := s.updThr t fun x => { x with depth := x.depth + 1, cache := (ret :: x.cache).take 4 }
    match th.cache[3]? with
    | none => .ok (push s) 0
    | some old =>
      match stackAccess s t (th.depth - 3) (some old) with
      | .ok s _ => .ok (push s) 0
      | r => r

/-- The threads of a word that fault in the call state park, each for itself (R393). -/
def parkEach (s : State) (xs : List (Nat × Nat)) (type : Nat) : State :=
  xs.foldl (fun s x => parkThreads s [x.1] (curWidx s) type 0 (addSector [] x.2 8)) s

/-- CALL and CALLX lane by lane. -/
def callLanes (f : State → Nat → W64) (reg : Bool) (use : State → Nat → Option TrapInfo) (s : State) (ts : List Nat) :
    WordOut :=
  let ret : W64 := (curClause s).next.zeroExtend 64
  let r := ts.foldl (fun (o : WordOut × List (Nat × Nat)) t =>
    match (targetTrap (f s t) reg).or (use s t) with
    | some i => ({ o.1 with traps := o.1.traps ++ [(t, i)] }, o.2)
    | none =>
      match callOne o.1.s t ret with
      | .ok s' _ => ({ o.1 with s := jump s' t ((f s t).extractLsb' 0 57) }, o.2)
      | .trap i => ({ o.1 with traps := o.1.traps ++ [(t, i)] }, o.2)
      | .park va => (o.1, o.2 ++ [(t, va)])) ({ s := s }, [])
  { r.1 with s := parkEach r.1.s r.2 6 }

/-- CALL (R146). -/
def execCall (h : Head) (wofs : BitVec 32) (s : State) : Out :=
  issueWord s h { group := 2, wait := true, cmp := .load, own := true } (callLanes (fun s _ => wofsTarget (curClause s) wofs) false fun _ _ => none)

/-- CALLX (R146). -/
def execCallx (h : Head) (a : Reg) (s : State) : Out :=
  issueWord s h { group := 2, regs := [(a, 2)], wait := true, cmp := .load, own := true }
    (callLanes (fun s t => s.r64 t a) true fun s t => consumed s t [(a, 2)])

/-- The entry RET takes (R146). -/
def retEntry (s : State) (t : Nat) : StackOut :=
  match (s.thr t).cache with
  | e :: _ => .ok s e
  | [] => stackAccess s t (s.thr t).depth none

/-- RET (R146): at depth 0 it ends the thread as EXIT does. -/
def execRet (h : Head) (s : State) : Out :=
  issueWord s h { group := 2, wait := true, cmp := .load, own := true } fun s ts =>
    let ends := ts.filter fun t => (s.thr t).depth == 0
    let r := (ts.filter fun t => (s.thr t).depth != 0).foldl (fun (o : WordOut × List (Nat × Nat)) t =>
      match retEntry o.1.s t with
      | .ok s' e =>
        let a : W64 := (e.extractLsb' 0 57).signExtend 64
        if a.extractLsb' 0 3 != 0 then
          ({ o.1 with traps := o.1.traps ++ [(t, { trap := .align, addr := a.toNat })] }, o.2)
        else
          let s2 := s'.updThr t fun x => { x with depth := x.depth - 1, cache := x.cache.drop 1 }
          ({ o.1 with s := jump s2 t (a.extractLsb' 0 57) }, o.2)
      | .trap i => ({ o.1 with traps := o.1.traps ++ [(t, i)] }, o.2)
      | .park va => (o.1, o.2 ++ [(t, va)])) ({ s := s }, [])
    let s' := parkEach r.1.s r.2 6
    { r.1 with s := if ends.isEmpty then s' else endThreads s' ends false }

/-- EXIT (R147). -/
def execExit (h : Head) (s : State) : Out :=
  issueWord s h { group := 2, wait := true, cmp := .compare } fun s ts =>
    { s := if ts.isEmpty then s else endThreads s ts false }

/-- NOP (R148). -/
def execNop (h : Head) (s : State) : Out := issueWord s h { group := 2 } fun s _ => { s := s }

/-- DBNZ (R149): the count is written whether or not the branch is taken; a trap of R144 leaves it. -/
def execDbnz (h : Head) (a : Reg) (wofs : BitVec 32) (s : State) : Out :=
  issueWord s h { group := 2, regs := [(a, 1)], dsts := [a] } fun s ts =>
    let tgt := wofsTarget (curClause s) wofs
    let n (t : Nat) : W32 := s.r32 t a - 1
    let trap (t : Nat) : Option TrapInfo := (consumed s t [(a, 1)]).or (if n t = 0 then none else targetTrap tgt false)
    let good := ts.filter fun t => (trap t).isNone
    let s1 := good.foldl (fun s' t => s'.putRegs t (keepS ts t (wr32 a (n t) false))) s
    { s := good.foldl (fun s' t => if n t = 0 then s' else jump s' t (tgt.extractLsb' 0 57)) s1,
      traps := ts.filterMap fun t => (trap t).map fun i => (t, i) }

/-- JOIN (R162, R203): the thread blocks with its mask, then the crew's joins are evaluated. -/
def execJoin (h : Head) (b : OpB) (s : State) : Out :=
  issueWord s h { group := 2, regs := b.regs 1, wait := true } fun s ts =>
    let m (t : Nat) : W32 := s.b32 t b
    let trap (t : Nat) : Option TrapInfo :=
      (consumed s t (b.regs 1)).or (if (m t).getLsbD (laneOf t) then none else some { trap := .maskdis })
    let good := ts.filter fun t => (trap t).isNone
    let s1 := good.foldl (fun s' t => block s' t (curWidx s) (.join (m t))) s
    { s := ((good.map crewOf).dedup).foldl evalJoin s1,
      traps := ts.filterMap fun t => (trap t).map fun i => (t, i) }

/-- YIELD (R203, R160). -/
def execYield (h : Head) (s : State) : Out :=
  issueWord s h { group := 2 } fun s ts =>
    { s := ts.foldl (fun s t => (jump s t (curClause s).next).updThr t fun x =>
        { x with yieldTil := (s.core (coreOf t)).gather + 4 }) s }

/-- PRIO (R203): each crew takes the value of its lowest active lane. -/
def execPrio (h : Head) (b : OpB) (s : State) : Out :=
  issueWord s h { group := 2, regs := b.regs 1, wait := true } fun s ts =>
    let low := ts.filter (supplies ts)
    let trap (t : Nat) : Option TrapInfo := consumed s t (b.regs 1)
    { s := (low.filter fun t => (trap t).isNone).foldl (fun s' t =>
        s'.updCrew (crewOf t) fun c => { c with prio := Fin.ofNat 4 (s.b32 t b).toNat }) s,
      traps := low.filterMap fun t => (trap t).map fun i => (t, i) }

end Sys2Proof.Machine
end

