-- ==== Sys2Proof/Machine/Pending.lean ====
section
/-!
DEFINITION. Operations in flight (R34): when one may perform, what a load returns (R41, R254, R256), how a store becomes
visible (R249, R262), and how an operation lands (R270).
-/
namespace Sys2Proof.Machine

/-- Whether the order of accesses lets an operation in flight perform. -/
def inOrder (s : State) (p : Pend) : Bool := !p.done && ordered s p

/-- Whether it may perform now: no engine owns a line it reaches (R247). -/
def ready (s : State) (p : Pend) : Bool := inOrder s p && !(p.op.lines.any fun l => ownedLine s l.1 l.2)

/-! What a load returns. -/

/-- Whether a billet of a cluster joined the four L1s of it (R232). -/
def fusedCluster (s : State) (cl : Nat) : Bool :=
  s.billets.any fun e => e.1 / 16 == cl && (s.wps.get? e.2.wp).any fun w => w.packet.getLsbD 62

/-- The coherence agent of a core for a line (R237, R232): the core, or 1024 + cluster where the L1s are fused. -/
def agentOf (s : State) (core : Nat) : Nat := if fusedCluster s (core / 4) then 1024 + core / 4 else core

/-- The cores of an agent. -/
def agentCores (agent core : Nat) : Bool := if agent < 1024 then core == agent else core / 4 == agent - 1024

/-- The core that keeps an agent's lease time for a line (R232). -/
def leaseCore (agent line : Nat) : Nat :=
  if agent < 1024 then agent else (agent - 1024) * 4 + Nat.xor (line % 4) (line / 16 % 4)

/-- A core's own time (R243). -/
def coreTime (s : State) (c : Nat) : Int := (s.time : Int) + (s.core c).skew

def copyKey (agent line : Nat) : Nat := agent * 2 ^ 45 + line

/-- A SELF copy that the core still uses (R240). -/
def validCopy (s : State) (agent line : Nat) : Option SelfCopy :=
  match s.copies.get? (copyKey agent line) with
  | none => none
  | some c =>
    let k := leaseCore agent line
    if coreTime s k < (((s.core k).leaseBase + c.til : Nat) : Int) then some c else none

/-- MIXCHK is on in a context (R258). -/
def mixOn (s : State) (c : Nat) : Bool := (s.ctx c).ctl.getLsbD 0

/-- Whether an access is served at its home and never in an L1: by its hint (R231), or a strong one under MIXCHK (R258). -/
def Acc.atHome (s : State) (a : Acc) : Bool := a.noL1 || (a.strong && mixOn s a.ctx)

/-- The bytes other than memory's that a read under a protocol may still find: an L1's copy of the other protocol, or the home's
own where an L1 holds the line modified (R228), and what a home holds of host memory (R236). -/
def oldBytes (s : State) (agent proto a : Nat) : List Byte :=
  let h := s.home (a / 128)
  (if proto = 1 then [] else ((validCopy s agent (a / 128)).map fun x => x.data.getD (a % 128) 0).toList) ++
    (if proto = 0 ∨ h.copy.isEmpty then [] else [h.copy.getD (a % 128) 0]) ++
    (if proto = 2 then [] else ((s.stale.find? fun x => x.1 == a).map Prod.snd).toList)

/-- The byte that memory gives, or one of those. -/
def memByte (s : State) (agent proto a who : Nat) : Byte :=
  let now := Memory.read s.mem a
  match oldBytes s agent proto a with
  | [] => now
  | xs => (now :: xs).getD (Config.pick s.fresh a who % (xs.length + 1)) now

/-- The byte that a SELF copy (R240) or memory gives a thread. -/
def baseByte (s : State) (t proto : Nat) (direct : Bool) (a : Nat) : Byte :=
  let ag := agentOf s (coreOf t)
  match if proto = 1 && !direct then validCopy s ag (a / 128) else none with
  | some x => x.data.getD (a % 128) 0
  | none => memByte s ag proto a t

/-- The bytes a load returns. -/
def loadBytes (s : State) (t id : Nat) (a : Acc) : List Byte :=
  (List.range a.size).map fun k =>
    match pendByte s t id a.space (a.pa + k) with
    | some b => b
    | none =>
      match a.space with
      | .scratch => Memory.read s.scratch (a.pa + k)
      | .global => baseByte s t a.proto (a.atHome s) (a.pa + k)

/-- Register writes of a loaded value (R267). -/
def loadWrites (l : LoadTo) (size n : Nat) : List RegWrite :=
  if size ≤ 4 then
    wr32 l.dst (if l.signed then (BitVec.ofNat (8 * size) n).signExtend 32 else BitVec.ofNat 32 n) false
  else if size = 8 then wr64 l.dst (BitVec.ofNat 64 n) false
  else wr128 l.dst (BitVec.ofNat 128 n) false

/-- R273, R275: the new value. -/
def Rmw.apply (f : Rmw) (size : Nat) (old v : W64) : W64 :=
  let o := old.extractLsb' 0 32
  let w := v.extractLsb' 0 32
  let narrow (x : W32) : W64 := x.zeroExtend 64
  let f32 (x y : Nat) : Nat := FFmt.f32.round .rne false (FVal.add .rne (FFmt.f32.decode x) (FFmt.f32.decode y))
  let f64 (x y : Nat) : Nat := FFmt.f64.round .rne false (FVal.add .rne (FFmt.f64.decode x) (FFmt.f64.decode y))
  let bf (x y : Nat) : Nat := FFmt.bf16.round .rne false (FVal.add .rne (FFmt.bf16.decode x) (FFmt.bf16.decode y))
  if size = 8 then
    match f with
    | .add => old + v
    | .fadd64 => BitVec.ofNat 64 (f64 old.toNat v.toNat)
    | .smin => if old.toInt ≤ v.toInt then old else v
    | .smax => if old.toInt ≤ v.toInt then v else old
    | .umin => if old ≤ v then old else v
    | .umax => if old ≤ v then v else old
    | .and => old &&& v
    | .or => old ||| v
    | .xor => old ^^^ v
    | .exch => v
    | .fadd32 => old
    | .bfadd => old
  else
    match f with
    | .add => narrow (o + w)
    | .fadd32 => narrow (BitVec.ofNat 32 (f32 o.toNat w.toNat))
    | .bfadd =>
      narrow (BitVec.ofNat 32 (bf (o.toNat % 65536) (w.toNat % 65536) + 65536 * bf (o.toNat / 65536) (w.toNat / 65536)))
    | .smin => narrow (minS o w)
    | .smax => narrow (maxS o w)
    | .umin => narrow (minZ o w)
    | .umax => narrow (maxZ o w)
    | .and => narrow (o &&& w)
    | .or => narrow (o ||| w)
    | .xor => narrow (o ^^^ w)
    | .exch => v
    | .fadd64 => old

/-! Performing and landing. -/

def State.pend? (s : State) (id : Nat) : Option Pend := s.pend.find? fun p => p.id == id
def State.updPend (s : State) (id : Nat) (f : Pend → Pend) : State :=
  { s with pend := s.pend.map fun p => if p.id = id then f p else p }

/-- An operation has performed: what it delivers to its registers. -/
def State.finish (s : State) (id : Nat) (ws : List RegWrite) : State :=
  s.updPend id fun p =>
    let ws := ws.filter fun w => p.dests.contains w.tgt
    { p with done := true, writes := ws, dests := ws.map RegWrite.tgt }

/-- Operations that have performed and signal no counter are over, once they have no register to write; relations that name
nothing in flight go. -/
def State.sweep (s : State) : State :=
  State.prune { s with pend := s.pend.filter fun p => !(p.done && p.dc == 0 && (p.landed || p.dests.isEmpty)) }

/-- R228: bytes written under one protocol while L1s hold the line under DIR are old or new for those until CCTL. -/
def noteHeld (s : State) (a : Acc) (old : List Byte) : State :=
  if a.space == .global && a.proto != 0 && (s.home (lineOf a.pa)).dir != .i then
    { s with stale := s.stale ++ (List.range a.size).map fun k => (a.pa + k, old.getD k 0) }
  else s

/-- Writes bytes of a thread's access to its space, with the releases they stand for. -/
def writeSpace (s : State) (t : Nat) (a : Acc) (bs : List Byte) (hs : List RelHead) : State :=
  let s := s.journalFor t a.space a.pa a.size
  match a.space with
  | .scratch => (s.writeScratch a.pa bs).noteWrite .scratch a.pa bs.length hs
  | .global =>
    let old := Memory.readBytes s.mem a.pa a.size
    (noteHeld (performWrite s a.pa bs t) a old).noteWrite .global a.pa bs.length hs

/-- The bytes an access reads where all has performed. -/
def spaceBytes (s : State) (a : Acc) : List Byte :=
  match a.space with
  | .scratch => Memory.readBytes s.scratch a.pa a.size
  | .global => Memory.readBytes s.mem a.pa a.size

/-- The releases a store stands for once it performs. -/
def storeHeads (s : State) (p : Pend) (a : Acc) : List RelHead :=
  if p.stamp = 0 then writeHeads s p ((List.range a.size).flatMap fun k => s.noteAt a.space (a.pa + k))
  else p.heads.filter (RelHead.live s)

/-- An operation on memory performs: a load binds its bytes, a store reaches memory, a read-modify-write does both. -/
def performOp (s : State) (p : Pend) : State :=
  match p.op with
  | .load a l =>
    let ws := loadWrites l a.size (ofBytes (loadBytes s p.tid p.id a))
    let s := s.readDone p
    let s := if a.space == .global then a.lines.foldl (fun s l => s.watch p l) s else s
    s.finish p.id ws
  | .store a data _ =>
    (writeSpace s p.tid a data (storeHeads s p a)).updPend p.id fun q => { q with done := true, op := .store a data 6, heads := [] }
  | .rmw a f v dst =>
    let old := ofBytes (spaceBytes s a)
    let new := f.apply a.size (BitVec.ofNat 64 old) v
    let ws := match dst with
      | none => []
      | some r => loadWrites { signed := false, dst := r } a.size old
    (writeSpace (s.readDone p) p.tid a (toBytes new.toNat a.size) (writeHeads s p (readHeads s p))).finish p.id ws
  | .cas a expect new dst =>
    let old := spaceBytes s a
    let s' := s.readDone p
    let s' := if old = expect then writeSpace s' p.tid a new (writeHeads s p (readHeads s p)) else s'
    s'.finish p.id (loadWrites { signed := false, dst := dst } a.size (ofBytes old))
  | _ => s

/-- R241: what a store to a SELF line does to its core's own copy: a weak one, or one at crew or core scope, updates it. -/
def updateCopy (s : State) (t : Nat) (a : Acc) (data : List Byte) : State :=
  let ag := agentOf s (coreOf t)
  match validCopy s ag (lineOf a.pa) with
  | none => s
  | some c =>
    if a.space == .global && a.proto == 1 && (a.ord == .weak || decide (a.scope.level ≤ 2)) then
      let o := a.pa % 128
      let c : SelfCopy := { c with data := c.data.take o ++ data ++ c.data.drop (o + data.length) }
      { s with copies := Map.set s.copies (copyKey ag (lineOf a.pa)) c }
    else s

/-- A store that others are about to see takes its place in the coherence order, with the releases it stands for. -/
def stampStore (s : State) (p : Pend) (a : Acc) : State :=
  if p.stamp != 0 then s
  else
    let before := (List.range a.size).flatMap fun k => s.headsAt (fun q => q.stamp != 0 && q.id != p.id) a.space (a.pa + k)
    let hs := writeHeads s p before.dedup
    { s.updPend p.id fun q => { q with stamp := s.seq, heads := hs } with seq := s.seq + 1 }

/-- Whom a store is shown to by a step of its visibility: below 16 the instance of a level, else a core (R262). -/
def shownBy (upto p t : Nat) : Bool := if upto < 16 then shares upto p t else coreOf t == upto - 16

/-- A store in flight becomes visible to a wider set of agents (R249, R262); watched loads of those agents roll back
(R259). -/
def revealStore (s : State) (p : Pend) (upto : Nat) : State :=
  match p.op with
  | .store a data v =>
    let s := (stampStore s p a).updPend p.id fun q =>
      if upto < 16 then { q with op := .store a data (max v upto) } else { q with seen := q.seen ++ [upto - 16] }
    let s := if 2 ≤ upto ∧ upto < 16 then updateCopy s p.tid a data else s
    if a.space == .global then
      rollWatched s (lineOf a.pa) (fun f => f.tid != p.tid && shownBy upto p.tid f.tid) fun _ => true
    else s
  | _ => s

/-- Whether an earlier operation is where a step of visibility takes a later store. -/
def Pend.ahead (q : Pend) (upto : Nat) : Bool := q.done || if upto < 16 then q.visible upto else q.op.isStore && q.shown ((upto - 16) * 1024)

/-- When a store may become visible to more agents before it performs: after what its thread's order puts before it, and never one
that is multi-copy atomic (R262). -/
def mayReveal (s : State) (p : Pend) (upto : Nat) : Bool :=
  match p.op with
  | .store a _ v =>
    !p.done && a.space == .global &&
    (if upto < 16 then decide (v < upto ∧ upto ≤ 5) else decide (upto < 16 + 256) && !p.shown ((upto - 16) * 1024)) &&
    !(a.ord != .weak && decide (5 ≤ a.scope.level)) &&
    (s.pend.all fun q => !decide (q.id < p.id) || q.ahead upto || !(if q.tid = p.tid then holdsBack p q else comesFirst p q)) &&
    readsBefore s p
  | _ => false

/-- The level at which the completion point of R270 is reached. -/
def POp.completion : POp → Nat
  | .store a _ _ => if a.ord = .weak then 2 else a.scope.level
  | _ => 6

/-- R34: completed operations of a counter leave it in issue order. -/
def retireCounter (t dc : Nat) (s : State) : Nat → State
  | 0 => s
  | n + 1 =>
    match s.pend.find? fun p => p.tid == t && p.dc == dc with
    | some p => if p.landed then retireCounter t dc (s.updPend p.id fun q => { q with dc := 0 }) n else s
    | none => s

/-- The registers of an operation land (R34, R35); a fence not complete restores them too if it rolls back (R259): the
writes of an operation issued before the fence land in its snapshot as well. -/
def landWrites (s : State) (p : Pend) : State :=
  let s := p.writes.foldl (fun s w => s.landReg p.tid p w) s
  let s := { s with pend := s.pend.map fun q =>
    match q.op with
    | .fence o sc st (some snap) =>
      if !q.done && decide (p.id < q.id) && snap.threads.any (fun e => e.1 == p.tid) then
        { q with op := .fence o sc st (some { snap with threads := snap.threads.map fun e =>
            if e.1 = p.tid then (e.1, p.writes.foldl (fun t w => t.put w.tgt w.val w.poison) e.2) else e }) }
      else q
    | _ => q }
  match p.op with
  | .value => s
  | _ => if p.writes.isEmpty then s else passOn s p.tid p.writes

/-- An operation lands: its registers are written, and its counter counts down in order. -/
def landOp (s : State) (id : Nat) : State :=
  match s.pend? id with
  | none => s
  | some p =>
    let s := (landWrites s p).updPend id fun q => { q with landed := true, dests := [] }
    completeAll (raiseWatches (retireCounter p.tid p.dc s (s.pend.length + 1)).sweep)

/-- Whether an operation has reached its completion point; the copies of one STX complete together. -/
def landable (s : State) (p : Pend) : Bool :=
  !p.landed && p.visible p.op.completion && (p.done || p.op.isStore) &&
  (match p.op with
   | .store a _ _ => s.pend.all fun q => q.tid != p.tid || decide (p.id ≤ q.id) || q.done ||
       (match q.op with | .store b _ _ => b.word != a.word | _ => true)
   | _ => true)

/-- A new operation of a thread. -/
def State.addOp (s : State) (t dc : Nat) (op : POp) (dests : List Target) : State :=
  let s := s.contest t dests
  let w := ((s.billet? (crewOf t)).map Billet.wp).getD 0
  { s with
    pend := s.pend ++ [{ id := s.seq, tid := t, wp := w, word := s.fresh, dc := dc, op := op, dests := dests,
                         contested := dests.filter fun g => !(s.writers t g).isEmpty }],
    seq := s.seq + 1 }

/-- An event that its agent may not take now. -/
def idle (e : String) : Out := .refused (.notEnabled e)

end Sys2Proof.Machine
end

