-- ==== Sys2Proof/Machine/Mem.lean ====
section
/-!
DEFINITION. The meanings of group 4 (R266 to R283): addresses, checks in the order of R269, poison and page faults, and the
operations they leave in flight.
-/
namespace Sys2Proof.Machine

/-- What one lane's global address meets (R268, R269). -/
inductive LaneTr where
  | ok (pa proto : Nat)
  | trap (i : TrapInfo)
  | perm (va : Nat)
  | fault
  deriving DecidableEq, Repr

/-- PROT with its effective address. -/
def protAt (va detail : Nat) : TrapInfo := { trap := .prot, addr := va, detail := detail }

/-- One lane's translation and checks: PROT, ALIGN, POISON, then the page fault. -/
def laneTr (s : State) (t va size align : Nat) (kind : AccKind) (use : Option TrapInfo) : LaneTr :=
  let c := s.ctxOf (crewOf t)
  let priv := (s.crew (crewOf t)).priv
  let r := translate s c priv kind va
  let r2 := if va % 4096 + size ≤ 4096 then r else translate s c priv kind ((va + size - 1) % 2 ^ 64)
  match r, r2 with
  | .prot 0, _ => .trap (protAt va 0)
  | .prot _, _ => .perm va
  | _, .prot _ => .perm va
  | r, r2 =>
    if va % align ≠ 0 then .trap { trap := .align, addr := va }
    else match use with
      | some i => .trap i
      | none =>
        match r, r2 with
        | .ok pa proto _, .ok _ _ _ => .ok pa proto
        | _, _ => .fault

/-- The lanes of a global access after their checks: those that go on, those whose page faults, and the traps.  A
permission failure in one lane stops every lane (R268, R398). -/
structure GlobalOut where
  go : List (Nat × Nat × Nat × Nat)
  faults : List (Nat × Nat)
  traps : List (Nat × TrapInfo)

def globalOut (s : State) (ts : List Nat) (ea : Nat → Nat) (size align : Nat) (kind : AccKind) (use : Nat → Option TrapInfo) :
    GlobalOut :=
  let rs := ts.map fun t => (t, laneTr s t (ea t) size align kind (use t))
  let perm := rs.findSome? fun r => match r.2 with | .perm va => some va | _ => none
  match perm with
  | some va =>
    { go := [], faults := [], traps := rs.map fun r =>
        (r.1, match r.2 with
          | .trap i => if i.trap = .prot then i else protAt va 1
          | .perm v => protAt v 1
          | _ => protAt va 1) }
  | none =>
    { go := rs.filterMap fun r => match r.2 with | .ok pa proto => some (r.1, ea r.1, pa, proto) | _ => none,
      faults := rs.filterMap fun r => match r.2 with | .fault => some (r.1, ea r.1) | _ => none,
      traps := rs.filterMap fun r => match r.2 with | .trap i => some (r.1, i) | _ => none }

/-- The entries that the lanes of an access used stay in the TLBs (R228). -/
def noteLanes (s : State) (ts : List Nat) (ea : Nat → Nat) (size : Nat) : State :=
  ts.foldl (fun s t =>
    let c := s.ctxOf (crewOf t)
    let s := s.noteTlb c (ea t)
    if ea t % 4096 + size ≤ 4096 then s else s.noteTlb c ((ea t + size - 1) % 2 ^ 64)) s

/-- MIXCHK (R258): the record of the line, unless the line has left L2 since, and MIXSIZE where an overlapping strong access
differs. -/
def mixCheck (s : State) (t pa size : Nat) (strong : Bool) : Option State :=
  let c := s.ctxOf (crewOf t)
  if !strong || !mixOn s c then some s
  else
    let note : State := s.updCtx c fun x => { x with mix := Map.set x.mix (lineOf pa) (pa, size) }
    match Map.get? (s.ctx c).mix (lineOf pa) with
    | none => some note
    | some (a, n) =>
      let evicted := Config.pick s.fresh pa 258 % 2 == 1
      if a < pa + size ∧ pa < a + n ∧ (a ≠ pa ∨ n ≠ size) ∧ !evicted then none else some note

/-- MIXCHK for the lanes of an access, in lane order. -/
def mixLanes (s : State) (g : GlobalOut) (size : Nat) (strong : Bool) : State × GlobalOut :=
  g.go.foldl (fun (acc : State × GlobalOut) r =>
    match mixCheck acc.1 r.1 r.2.2.1 size strong with
    | some s => (s, { acc.2 with go := acc.2.go ++ [r] })
    | none => (acc.1, { acc.2 with traps := acc.2.traps ++ [(r.1, { trap := .mixsize, addr := r.2.1 })] }))
    (s, { g with go := [] })

/-- Watchpoints (R442): whether an access touches a watched byte. -/
def watches (s : State) (t : Nat) (scratch : Bool) (va size : Nat) (rd wr : Bool) : Bool :=
  let c := s.ctx (s.ctxOf (crewOf t))
  let hit (w : W64) : Bool :=
    w.getLsbD 63 && w.getLsbD 62 == scratch && ((w.getLsbD 60 && rd) || (w.getLsbD 61 && wr)) &&
      (let z := 2 ^ (w.toNat / 2 ^ 57 % 8)
       let a := (pc64 (w.extractLsb' 0 57)).toNat / z * z
       let a := if scratch then a % 2 ^ 57 else a
       decide (a < va + size ∧ va < a + z))
  c.wpt.any hit

def watchHit (s : State) (t : Nat) (scratch : Bool) (va size : Nat) (rd wr : Bool) : List (Nat × TrapInfo) :=
  if watches s t scratch va size rd wr then [(t, { trap := .watch, addr := va })] else []

/-- R413: a strong access wider than core ends the revocability of the interval. -/
def wide (o : Ord) (sc : Scope) : Bool := o != .weak && decide (3 ≤ sc.level)

def endInterval (s : State) (ts : List Nat) : State :=
  ((ts.map fun t => s.billetKey (crewOf t)).dedup).foldl State.irrevocable s

/-- The destination of a lane: an s register is the lowest lane's (R30). -/
def laneDst (ts : List Nat) (t : Nat) (d : Reg) : Reg := if Reg.isS d && !supplies ts t then .z else d

def destsOf (d : Reg) (n : Nat) : List Target := (wrN d (List.replicate n 0) false).map RegWrite.tgt

/-- Registers of a value of a size. -/
def regsFor (size : Nat) : Nat := if size ≤ 4 then 1 else size / 4

/-- The access of a lane. -/
def mkAcc (s : State) (t va pa proto size : Nat) (m : MOp) (word : Nat) : Acc :=
  { space := .global, pa := pa, size := size, va := va, ord := m.ord, scope := m.scope,
    rem := decide (2 ≤ m.hint.val) && m.ord.acquires && decide (5 ≤ m.scope.level), proto := proto, ctx := s.ctxOf (crewOf t),
    word := word, noL1 := m.hint.val == 2 && !(m.ord.acquires && decide (5 ≤ m.scope.level)) }

/-- An access enters the operations in flight; with order `.sc` behind a fence of its own, as one with order `.ar` (R252). -/
def State.addAccess (s : State) (t dc : Nat) (a : Acc) (op : Acc → POp) (ds : List Target) : State :=
  if a.ord = .sc then (s.addOp t 0 (.fence .sc a.scope true none) []).addOp t dc (op { a with ord := .ar }) ds
  else s.addOp t dc (op a) ds

/-- The address of a lane with a 64-bit base. -/
def ea64 (s : State) (m : MOp) (t : Nat) : Nat := addr64 (s.r64 t m.base) m.ofs
def ea32 (s : State) (m : MOp) (t : Nat) : Nat := addr32 (s.r32 t m.base) m.ofs

/-- R390: a lane whose page faults receives poisoned zeros and latches its address; an s register takes no poison (R392). -/
def poisonLane (s : State) (t dc va : Nat) (d : Reg) (n : Nat) : State :=
  let s := if Reg.isS d then s else s.addValue t dc (wrN d (List.replicate n 0) true)
  s.updThr t fun x => { x with poisonAddr := BitVec.ofNat 64 va }

/-- An s register takes no poison: the lane that supplies it traps where its page faults (R392). -/
def faultTraps (ts : List Nat) (d : Reg) (g : GlobalOut) : List (Nat × TrapInfo) :=
  if Reg.isS d then g.faults.filterMap fun r =>
    if supplies ts r.1 then some (r.1, ({ trap := .poison, addr := r.2, detail := Reg.dcode d } : TrapInfo)) else none
  else []

/-- LD (R271). -/
def loadWord (size : Nat) (signed : Bool) (h : Head) (d : Reg) (m : MOp) (s : State) : Out :=
  let n := regsFor size
  issueWord s h { group := 4, regs := [(m.base, 2), (d, n)], dsts := [d], var := true, cmp := .load, passes := true } fun s ts =>
    let g := globalOut s ts (ea64 s m) size size .read fun t => consumed s t [(m.base, 2)]
    let x := mixLanes s g size (m.ord != .weak)
    let s1 := noteLanes (if wide m.ord m.scope then endInterval x.1 ts else x.1) ts (ea64 s m) size
    let s2 := ts.foldl (fun s' t =>
      let dst := laneDst ts t d
      match x.2.go.find? (fun r => r.1 == t), x.2.faults.find? (fun r => r.1 == t) with
      | some r, _ =>
        s'.addAccess t h.dc.val (mkAcc s t r.2.1 r.2.2.1 r.2.2.2 size m s.seq)
          (fun a => .load a { signed := signed, dst := dst }) (destsOf dst n)
      | none, some r => poisonLane s' t h.dc.val r.2 dst n
      | none, none => s') s1
    { s := s2, traps := x.2.traps ++ faultTraps ts d x.2 ++ x.2.go.flatMap fun r => watchHit s r.1 false r.2.1 size true false }

/-- The threads of a bundle wait for pages together (R268, R393). -/
def parkAll (s : State) (ts : List Nat) (g : GlobalOut) (type size : Nat) : State :=
  let waiting := ts.filter fun t => !g.traps.any fun r => r.1 == t
  parkThreads s waiting (curWidx s) type 0 (g.faults.foldl (fun gs r => addSector gs r.2 size) [])

/-- R241: a store to a SELF line its core holds: a weak one, or one at crew or core scope, updates the copy at once, where
nothing of its thread comes first; another drops it. -/
def storeCopy (s : State) (id : Nat) : State :=
  match s.pend? id with
  | some p =>
    match p.op with
    | .store a _ _ =>
      let ag := agentOf s (coreOf p.tid)
      if a.proto ≠ 1 ∨ (validCopy s ag (lineOf a.pa)).isNone then s
      else if a.ord = .weak ∨ a.scope.level ≤ 2 then (if mayReveal s p 2 then revealStore s p 2 else s)
      else loseLine { s with copies := s.copies.del (copyKey ag (lineOf a.pa)) } (lineOf a.pa) (agentCores ag)
    | _ => s
  | none => s

/-- A global write word: ST, RED, ATOM, CAS. `mk` gives a lane's operation, `n` the registers DATA names. -/
def writeWord (size type n : Nat) (kind : AccKind) (rmw : Bool) (h : Head) (d : Reg) (m : MOp) (dst : Option (Reg × Nat))
    (ofs : BitVec 24) (mk : State → Nat → Acc → POp) (s : State) : Out :=
  let m := { m with ofs := ofs }
  issueWord s h { group := 4, regs := [(m.base, 2), (d, n)], dsts := (dst.map Prod.fst).toList, var := true, wait := true,
                  cmp := .compare, passes := dst.isSome } fun s ts =>
    let g := globalOut s ts (ea64 s m) size size kind fun t => consumed s t [(m.base, 2), (d, n)]
    if !g.faults.isEmpty then { s := parkAll (noteLanes s ts (ea64 s m) size) ts g type size, traps := g.traps }
    else
      let x := mixLanes s g size (rmw || m.ord != .weak)
      let s1 := noteLanes (if rmw || wide m.ord m.scope then endInterval x.1 ts else x.1) ts (ea64 s m) size
      let s2 := x.2.go.foldl (fun s' r =>
        let t := r.1
        let a := { mkAcc s t r.2.1 r.2.2.1 r.2.2.2 size m s.seq with ord := if rmw && m.ord = .weak then .rlx else m.ord }
        let ds := match dst with
          | some (q, k) => destsOf (laneDst ts t q) k
          | none => []
        let s' := s'.addAccess t h.dc.val a (mk s t) ds
        storeCopy s' (s'.seq - 1)) s1
      { s := s2, traps := x.2.traps ++ x.2.go.flatMap fun r => watchHit s r.1 false r.2.1 size rmw true }

/-- The value of a register of a size. -/
def dataOf (s : State) (t : Nat) (d : Reg) (size : Nat) : List Byte :=
  (((s.rN t d (regsFor size)).flatMap fun w => toBytes w.toNat 4)).take size

/-- ST (R271). -/
def storeWord (size : Nat) (h : Head) (d : Reg) (m : MOp) (s : State) : Out :=
  writeWord size 1 (regsFor size) .write false h d m none m.ofs (fun s t a => .store a (dataOf s t d size) 0) s

/-- ATOM (R273). -/
def atomWord (size : Nat) (f : Rmw) (h : Head) (d : Reg) (m : MOp) (s : State) : Out :=
  writeWord size 2 (size / 4) .rmw true h d m (some (d, size / 4)) m.ofs
    (fun s t a => .rmw a f (s.r64 t d) (some d)) s

/-- CAS (R274). -/
def casWord (size : Nat) (h : Head) (d : Reg) (m : MOp) (s : State) : Out :=
  writeWord size 2 (size / 2) .rmw true h d m (some (d, size / 4)) m.ofs
    (fun s t a => .cas a (dataOf s t d size) (dataOf s t (d.plus (size / 4)) size) d) s

/-- The operation of a RED (R275). -/
def redFn (size : Nat) : RedOp → Rmw
  | .add => .add | .smin => .smin | .umin => .umin | .smax => .smax | .umax => .umax | .and => .and | .or => .or
  | .xor => .xor | .fadd => if size = 8 then .fadd64 else .fadd32 | .bfadd => .bfadd

/-- RED (R275): the offset is its low 20 bits. -/
def redWord (size : Nat) (h : Head) (op : RedOp) (d : Reg) (m : MOp) (s : State) : Out :=
  writeWord size 2 (size / 4) .write true h d m none ((m.ofs.extractLsb' 0 20).signExtend 24)
    (fun s t a => .rmw a (redFn size op) (s.r64 t d) none) s

/-! Scratchpads and the constant bank. -/

/-- The scratchpad bytes a lane reaches, with the core of each, or PROT (R229, R230). -/
def scratchTargets (s : State) (t : Nat) (clus mcast : Bool) (ea size : Nat) : Option (List Nat) :=
  if !clus then (ownScratch s t ea size).map fun a => [a]
  else if mcast && ea / 2 ^ 24 % 16 != 0 then
    if ea / 2 ^ 28 ≠ 0 ∨ ea / 2 ^ 21 % 8 ≠ 0 then none
    else
      ((List.range 4).filter fun j => ea / 2 ^ (24 + j) % 2 == 1).mapM fun j => clusScratch s t (j * 2 ^ 19 + ea % 2 ^ 19) size
  else (clusScratch s t ea size).map fun a => [a]

/-- One lane of a scratchpad access: where it goes, or its trap. -/
def scratchLane (s : State) (t : Nat) (clus mcast : Bool) (ea size : Nat) (use : Option TrapInfo) :
    Except TrapInfo (List Nat) :=
  match scratchTargets s t clus mcast ea size with
  | none => .error (protAt ea 2)
  | some as =>
    if ea % size ≠ 0 then .error { trap := .align, addr := ea }
    else match use with
      | some i => .error i
      | none => .ok as

/-- Offset of a scratchpad address in the thread's own allocation, for watchpoints. -/
def ownOffset (s : State) (t a : Nat) : Option Nat :=
  match s.billet? (crewOf t) with
  | none => none
  | some b =>
    if a / 2 ^ 21 = coreOf t ∧ b.scratchBase ≤ a % 2 ^ 21 ∧ a % 2 ^ 21 < b.scratchBase + b.scratchSize then
      some (a % 2 ^ 21 - b.scratchBase)
    else none

def scratchAcc (s : State) (t ea a size : Nat) (clus : Bool) (o : Ord) (word : Nat) : Acc :=
  { space := .scratch, pa := a, size := size, va := ea, ord := o, scope := if clus then .clus else .core, rem := false,
    proto := 2, ctx := s.ctxOf (crewOf t), word := word }

/-- Scratchpad words (R272, R276): `mk` gives a lane's operation at one target. -/
def scratchWord (size n : Nat) (clus mcast rd wr irrev : Bool) (h : Head) (d : Reg) (m : MOp) (dst : Option (Reg × Nat))
    (mk : State → Nat → List Nat → Acc → POp) (s : State) : Out :=
  issueWord s h { group := 4, regs := [(m.base, 1), (d, n)], dsts := (dst.map Prod.fst).toList, var := true, wait := wr,
                  cmp := if wr then .compare else .load, passes := dst.isSome } fun s ts =>
    let use (t : Nat) : Option TrapInfo := consumed s t ((m.base, 1) :: (if wr then [(d, n)] else []))
    let rs := ts.map fun t => (t, ea32 s m t, scratchLane s t clus mcast (ea32 s m t) size (use t))
    let s1 := rs.foldl (fun s' r =>
      match r.2.2 with
      | .error _ => s'
      | .ok as =>
        let t := r.1
        let far := irrev || (clus && as.any fun a => (ownOffset s t a).isNone)
        let s' := if far then endInterval s' [t] else s'
        let ds := match dst with
          | some (q, k) => destsOf (laneDst ts t q) k
          | none => []
        (List.range as.length).foldl (fun s' i =>
          s'.addAccess t (if i + 1 = as.length then h.dc.val else 0)
            (scratchAcc s t r.2.1 (as.getD i 0) size clus m.ord s.seq) (mk s t ts) ds) s') s
    { s := s1,
      traps := rs.flatMap fun r =>
        match r.2.2 with
        | .error i => [(r.1, i)]
        | .ok as => (as.filterMap (ownOffset s r.1)).flatMap fun o => watchHit s r.1 true o size rd wr }

/-- LDS and LDX (R272). -/
def scratchLoad (size : Nat) (signed clus : Bool) (h : Head) (d : Reg) (m : MOp) (s : State) : Out :=
  scratchWord size (regsFor size) clus false true false false h d m (some (d, regsFor size))
    (fun _ t ts a => .load a { signed := signed, dst := laneDst ts t d }) s

/-- STS and STX (R272). -/
def scratchStore (size : Nat) (clus : Bool) (h : Head) (d : Reg) (m : MOp) (s : State) : Out :=
  scratchWord size (regsFor size) clus clus false true false h d m none (fun s t _ a => .store a (dataOf s t d size) 0) s

/-- ATOMS (R276): SCOPE 2 selects a cluster address. -/
def scratchAtom (f : Rmw) (h : Head) (d : Reg) (m : MOp) (s : State) : Out :=
  scratchWord 4 1 (m.scope == .clus) false true true true h d m (some (d, 1))
    (fun s t ts a => .rmw a f ((s.r32 t d).zeroExtend 64) (some (laneDst ts t d))) s

/-- ATOMS.CAS (R276). -/
def scratchCas (h : Head) (d : Reg) (m : MOp) (s : State) : Out :=
  scratchWord 4 2 (m.scope == .clus) false true true true h d m (some (d, 1))
    (fun s t _ a => .cas a (dataOf s t d 4) (dataOf s t (d.plus 1) 4) d) s

/-- The argument block of a thread's workpiece (R42); without a workpiece it is at 0 (log 22). -/
def argsOf (s : State) (t : Nat) : Nat := ((s.wpOf (crewOf t)).map fun w => pkt w.packet 64 64).getD 0

/-- The virtual address of an offset of constant bank 0 (R42). -/
def bankVa (s : State) (m : MOp) (t : Nat) : Nat := (argsOf s t + ea32 s m t) % 2 ^ 64

/-- LDC (R272): constant bank 0 through ARGS. -/
def ldcWord (size : Nat) (h : Head) (d : Reg) (m : MOp) (s : State) : Out :=
  let n := regsFor size
  issueWord s h { group := 4, regs := [(m.base, 1), (d, n)], dsts := [d], var := true, cmp := .load, passes := true } fun s ts =>
    let far (t : Nat) : Bool := decide (65536 ≤ ea32 s m t)
    let ok := ts.filter fun t => !far t
    let g := globalOut s ok (bankVa s m) size 1 .read fun t =>
      (if ea32 s m t % size = 0 then none else some { trap := .align, addr := ea32 s m t }).or (consumed s t [(m.base, 1)])
    let s2 := ok.foldl (fun s' t =>
      let dst := laneDst ts t d
      match g.go.find? (fun r => r.1 == t), g.faults.find? (fun r => r.1 == t) with
      | some r, _ =>
        s'.addOp t h.dc.val
          (.load (mkAcc s t r.2.1 r.2.2.1 r.2.2.2 size m s.seq) { signed := false, dst := dst }) (destsOf dst n)
      | none, some r => poisonLane s' t h.dc.val r.2 dst n
      | none, none => s') (noteLanes s ok (bankVa s m) size)
    { s := s2, traps := ((ts.filter far).map fun t => (t, protAt (ea32 s m t) 2)) ++ g.traps ++ faultTraps ts d g ++
        g.go.flatMap fun r => watchHit s r.1 false r.2.1 size true false }

/-! MCAS. -/

/-- One lane of MCAS up to its locks: a trap, the faulting granules, or the operation. -/
inductive McasOut where
  | trap (i : TrapInfo)
  | park (gs : List (Nat × W32))
  | go (entries : List McasEntry)

/-- Weak reads of the parameter block, byte by byte under its pages, after the thread's own stores (R41). -/
def blockByte (s : State) (t va : Nat) : Byte :=
  match translate s (s.ctxOf (crewOf t)) (s.crew (crewOf t)).priv .read va with
  | .ok pa proto _ => (pendByte s t s.seq .global pa).getD (baseByte s t proto false pa)
  | _ => 0

def blockNat (s : State) (t va n : Nat) : Nat := ofBytes ((List.range n).map fun k => blockByte s t (va + k))

/-- Granules of a block that fault. -/
def blockFaults (s : State) (t va n : Nat) : List (Nat × W32) :=
  ((List.range (n / 8)).filter fun k =>
    (match translate s (s.ctxOf (crewOf t)) (s.crew (crewOf t)).priv .read (va + 8 * k) with | .fault => true | _ => false)).foldl
    (fun gs k => addSector gs (va + 8 * k) 8) []

/-- The checks of a block: every byte for PROT, then alignment, then poison, then faults. -/
def blockStop (s : State) (t va n : Nat) (use : Option TrapInfo) : Option McasOut :=
  let perm := (List.range n).findSome? fun k =>
    match translate s (s.ctxOf (crewOf t)) (s.crew (crewOf t)).priv .read (va + k) with
    | .prot d => some (protAt va d)
    | _ => none
  match perm with
  | some i => some (.trap i)
  | none =>
    if va % 8 ≠ 0 then some (.trap { trap := .align, addr := va })
    else match use with
      | some i => some (.trap i)
      | none => let gs := blockFaults s t va n; if gs.isEmpty then none else some (.park gs)

def bytesOverlap (es : List (Nat × Nat)) : Bool :=
  (List.range es.length).any fun i => (List.range i).any fun j =>
    let a := es.getD i (0, 0)
    let b := es.getD j (0, 0)
    decide (a.1 < b.1 + b.2 ∧ b.1 < a.1 + a.2)

/-- R278 up to the locks. -/
def mcasLane (s : State) (t ea : Nat) (use : Option TrapInfo) : McasOut :=
  match blockStop s t ea 16 use with
  | some o => o
  | none =>
    let hd := blockNat s t ea 16
    let n := hd % 16
    let m := min n 8
    match blockStop s t (ea + 16) (24 * m) none with
    | some o => o
    | none =>
      let c := s.ctxOf (crewOf t)
      let priv := (s.crew (crewOf t)).priv
      let f (i o k : Nat) : Nat := blockNat s t (ea + 16 + 24 * i + o) k
      let z (i : Nat) : Nat := if hd / 2 ^ (8 + i) % 2 = 1 then 8 else 4
      let idx := List.range m
      let tr := idx.map fun i => (i, f i 0 8, translate s c priv .rmw (f i 0 8))
      let canon := tr.findSome? fun e => if canonical e.2.1 then none else some (protAt e.2.1 0)
      let perm := tr.findSome? fun e => match e.2.2 with | .prot d => some (protAt e.2.1 d) | _ => none
      let flt := (tr.filter fun e => match e.2.2 with | .fault => true | _ => false).foldl
        (fun gs e => addSector gs e.2.1 (z e.1)) []
      let al := tr.findSome? fun e => if e.2.1 % z e.1 = 0 then none else some ({ trap := .align, addr := e.2.1 } : TrapInfo)
      match canon.or perm with
      | some i => .trap i
      | none =>
        if !flt.isEmpty then .park flt
        else match al with
          | some i => .trap i
          | none =>
            let es : List McasEntry := tr.filterMap fun e =>
              match e.2.2 with
              | .ok pa proto _ =>
                some { proto := proto, va := e.2.1, pa := pa, size := z e.1, expect := toBytes (f e.1 8 8) (z e.1),
                       new := toBytes (f e.1 16 8) (z e.1) }
              | _ => none
            if n = 0 ∨ 8 < n ∨ bytesOverlap (es.map fun e => (e.pa, e.size)) then .trap { trap := .mcasparam, addr := ea }
            else .go es

/-- The lines of an MCAS, rising. -/
def mcasLines (es : List McasEntry) : List Nat := sortNat ((es.map fun e => lineOf e.pa).dedup)

/-- Bytes of a parameter block with its entries, as far as its header reads. -/
def blockSize (s : State) (t ea : Nat) : Nat := 16 + 24 * min (blockNat s t ea 16 % 16) 8

/-- Whether the read of a block must wait (R41, R247): for the thread's own read-modify-writes, or for a line an engine owns. -/
def blockWaits (s : State) (t ea : Nat) : Bool :=
  (s.pend.any fun p => p.tid == t && !p.done && p.op.isRmw) ||
    (List.range (blockSize s t ea / 8)).any fun k =>
      match translate s (s.ctxOf (crewOf t)) (s.crew (crewOf t)).priv .read (ea + 8 * k) with
      | .ok pa _ _ => ownedLine s .global (lineOf pa)
      | _ => false

/-- MIXCHK for the entries of an MCAS, each on its own (R258). -/
def mixEntries (s : State) (t : Nat) (es : List McasEntry) : Except TrapInfo State :=
  es.foldl (fun r e => r.bind fun s' =>
    match mixCheck s' t e.pa e.size true with
    | some x => .ok x
    | none => .error { trap := .mixsize, addr := e.va }) (.ok s)

/-- The lowest effective address of an MCAS that touches a watched byte (R442): its block's reads and its entries. -/
def mcasWatch (s : State) (t ea : Nat) (es : List McasEntry) : List (Nat × TrapInfo) :=
  let hits := ((if watches s t false ea 16 true false then [ea] else []) ++
    (if watches s t false (ea + 16) (24 * es.length) true false then [ea + 16] else []) ++
    (es.filter fun e => watches s t false e.va e.size true true).map McasEntry.va)
  match sortNat hits with
  | [] => []
  | a :: _ => [(t, { trap := .watch, addr := a })]

/-- The entries a block and the words it names were translated with stay in the TLBs (R228). -/
def noteMcas (s : State) (t ea : Nat) : State :=
  let c := s.ctxOf (crewOf t)
  let n := blockSize s t ea
  let s := (s.noteTlb c ea).noteTlb c ((ea + n - 1) % 2 ^ 64)
  (List.range ((n - 16) / 24)).foldl (fun s' i => s'.noteTlb c (blockNat s t (ea + 16 + 24 * i) 8)) s

/-- MCAS (R278): each lane for itself. -/
def execMcas (h : Head) (d : Reg) (m : MOp) (s : State) : Out :=
  issueWord s h { group := 4, regs := [(m.base, 2), (d, 1)], dsts := [d], var := true, wait := true, cmp := .compare,
                  passes := true, orders := true } fun s ts =>
    if ts.any fun t => (consumed s t [(m.base, 2)]).isNone && blockWaits s t (ea64 s m t) then { s := s, stall := true } else
    ts.foldl (fun (o : WordOut) t =>
      let dst := laneDst ts t d
      let s' := noteMcas o.s t (ea64 s m t)
      match mcasLane s t (ea64 s m t) (consumed s t [(m.base, 2)]) with
      | .trap i => { o with traps := o.traps ++ [(t, i)] }
      | .park gs => { o with s := parkThreads s' [t] (curWidx s) 2 0 gs }
      | .go es =>
        match mixEntries s' t es with
        | .error i => { o with traps := o.traps ++ [(t, i)] }
        | .ok s' =>
          { o with
            s := (endInterval s' [t]).addOp t h.dc.val
              (.mcas { mkAcc s t (ea64 s m t) 0 0 0 m s.seq with ord := .ar } es (mcasLines es) [] s.time dst) (destsOf dst 1)
            traps := o.traps ++ mcasWatch s t (ea64 s m t) es }) { s := s }

/-! FENCE, CCTL, PREF, PTST, PCLR. -/

/-- FENCE (R280, R259). -/
def execFence (h : Head) (sc : Scope) (od : Ord) (strict : Bool) (s : State) : Out :=
  issueWord s h { group := 4, var := true } fun s ts =>
    let s := if 3 ≤ sc.level then endInterval s ts else s
    let all := ((curBundle s).map Bundle.tids).getD []
    let snap : Snapshot := { threads := all.map fun t =>
                               let x := s.thr t
                               let y := { x with widx := curWidx s }
                               (t, y.goTo y.afterWord.1 y.afterWord.2),
                             last := s.seq + ts.length - 1 }
    { s := ts.foldl (fun s t => s.addOp t h.dc.val (.fence od sc strict (some snap)) []) s }

/-- CCTL (R281). -/
def execCctl (h : Head) (inv pg : Bool) (m : MOp) (s : State) : Out :=
  issueWord s h { group := 4, regs := [(m.base, 2)], var := true, wait := true, cmp := .load } fun s ts =>
    let g := globalOut s ts (ea64 s m) 1 1 .read fun t => consumed s t [(m.base, 2)]
    let s1 := noteLanes s ts (ea64 s m) 1
    if !g.faults.isEmpty then { s := parkAll s1 ts g 8 1, traps := g.traps }
    else
      { s := g.go.foldl (fun s' r =>
          let l := lineOf r.2.2.1
          let ls := if pg then (List.range 32).map (l / 32 * 32 + ·) else [l]
          s'.addOp r.1 h.dc.val (.cctl ls inv m.scope) []) s1,
        traps := g.traps }

/-- PREF (R282): an address that does not translate is dropped; it never traps, whatever its base holds. With `.h2` nothing is
installed in L1 (R231). -/
def execPref (h : Head) (m : MOp) (s : State) : Out :=
  issueWord s h { group := 4, regs := [(m.base, 2)], var := true, cmp := .load } fun s ts =>
    { s := ts.foldl (fun s' t =>
        let c := s.ctxOf (crewOf t)
        match translate s c (s.crew (crewOf t)).priv .read (ea64 s m t) with
        | .ok pa proto _ => s'.addOp t h.dc.val (.pref (lineOf pa) (if m.hint.val = 2 then 2 else proto) c) []
        | _ => s'.addValue t h.dc.val []) (noteLanes s ts (ea64 s m) 1) }

def MovW.count : MovW → Nat
  | .w32 => 1 | .w64 => 2 | .w128 => 4

/-- PTST (R283). -/
def execPtst (h : Head) (pd : Fin 8) (mw : MovW) (a : Reg) (s : State) : Out :=
  issueWord s h { group := 4, regs := [(a, MovW.count mw)] }
    (fixedLanes fun s t => { ws := wrP pd.val (s.isPoisoned t [(a, MovW.count mw)]) false })

/-- PCLR (R283): the stored values stay. -/
def execPclr (h : Head) (mw : MovW) (a : Reg) (s : State) : Out :=
  issueWord s h { group := 4, regs := [(a, MovW.count mw)] }
    (fixedLanes fun s t =>
      { ws := (List.range (MovW.count mw)).flatMap fun k =>
          match a.plus k with
          | .v n => wr32 (.v n) ((s.thr t).vReg n) false
          | _ => [] })

/-- LD.S8 (R271). -/
def execLdS8 (h : Head) (d : Reg) (m : MOp) (s : State) : Out :=
  loadWord 1 true h d m s

/-- LDS.S8 (R272). -/
def execLdsS8 (h : Head) (d : Reg) (m : MOp) (s : State) : Out :=
  scratchLoad 1 true false h d m s

/-- LD.Z8 (R271). -/
def execLdZ8 (h : Head) (d : Reg) (m : MOp) (s : State) : Out :=
  loadWord 1 false h d m s

/-- LDS.Z8 (R272). -/
def execLdsZ8 (h : Head) (d : Reg) (m : MOp) (s : State) : Out :=
  scratchLoad 1 false false h d m s

/-- LD.S16 (R271). -/
def execLdS16 (h : Head) (d : Reg) (m : MOp) (s : State) : Out :=
  loadWord 2 true h d m s

/-- LDS.S16 (R272). -/
def execLdsS16 (h : Head) (d : Reg) (m : MOp) (s : State) : Out :=
  scratchLoad 2 true false h d m s

/-- LD.Z16 (R271). -/
def execLdZ16 (h : Head) (d : Reg) (m : MOp) (s : State) : Out :=
  loadWord 2 false h d m s

/-- LDS.Z16 (R272). -/
def execLdsZ16 (h : Head) (d : Reg) (m : MOp) (s : State) : Out :=
  scratchLoad 2 false false h d m s

/-- LD.B32 (R271). -/
def execLdB32 (h : Head) (d : Reg) (m : MOp) (s : State) : Out :=
  loadWord 4 false h d m s

/-- LDS.B32 (R272). -/
def execLdsB32 (h : Head) (d : Reg) (m : MOp) (s : State) : Out :=
  scratchLoad 4 false false h d m s

/-- LDX.B32 (R272). -/
def execLdxB32 (h : Head) (d : Reg) (m : MOp) (s : State) : Out :=
  scratchLoad 4 false true h d m s

/-- LDC.B32 (R272). -/
def execLdcB32 (h : Head) (d : Reg) (m : MOp) (s : State) : Out :=
  ldcWord 4 h d m s

/-- LD.B64 (R271). -/
def execLdB64 (h : Head) (d : Reg) (m : MOp) (s : State) : Out :=
  loadWord 8 false h d m s

/-- LDS.B64 (R272). -/
def execLdsB64 (h : Head) (d : Reg) (m : MOp) (s : State) : Out :=
  scratchLoad 8 false false h d m s

/-- LDX.B64 (R272). -/
def execLdxB64 (h : Head) (d : Reg) (m : MOp) (s : State) : Out :=
  scratchLoad 8 false true h d m s

/-- LDC.B64 (R272). -/
def execLdcB64 (h : Head) (d : Reg) (m : MOp) (s : State) : Out :=
  ldcWord 8 h d m s

/-- LD.B128 (R271). -/
def execLdB128 (h : Head) (d : Reg) (m : MOp) (s : State) : Out :=
  loadWord 16 false h d m s

/-- LDS.B128 (R272). -/
def execLdsB128 (h : Head) (d : Reg) (m : MOp) (s : State) : Out :=
  scratchLoad 16 false false h d m s

/-- LDX.B128 (R272). -/
def execLdxB128 (h : Head) (d : Reg) (m : MOp) (s : State) : Out :=
  scratchLoad 16 false true h d m s

/-- ST.B8 (R271). -/
def execStB8 (h : Head) (d : Reg) (m : MOp) (s : State) : Out :=
  storeWord 1 h d m s

/-- STS.B8 (R272). -/
def execStsB8 (h : Head) (d : Reg) (m : MOp) (s : State) : Out :=
  scratchStore 1 false h d m s

/-- ST.B16 (R271). -/
def execStB16 (h : Head) (d : Reg) (m : MOp) (s : State) : Out :=
  storeWord 2 h d m s

/-- STS.B16 (R272). -/
def execStsB16 (h : Head) (d : Reg) (m : MOp) (s : State) : Out :=
  scratchStore 2 false h d m s

/-- ST.B32 (R271). -/
def execStB32 (h : Head) (d : Reg) (m : MOp) (s : State) : Out :=
  storeWord 4 h d m s

/-- STS.B32 (R272). -/
def execStsB32 (h : Head) (d : Reg) (m : MOp) (s : State) : Out :=
  scratchStore 4 false h d m s

/-- STX.B32 (R272). -/
def execStxB32 (h : Head) (d : Reg) (m : MOp) (s : State) : Out :=
  scratchStore 4 true h d m s

/-- ST.B64 (R271). -/
def execStB64 (h : Head) (d : Reg) (m : MOp) (s : State) : Out :=
  storeWord 8 h d m s

/-- STS.B64 (R272). -/
def execStsB64 (h : Head) (d : Reg) (m : MOp) (s : State) : Out :=
  scratchStore 8 false h d m s

/-- STX.B64 (R272). -/
def execStxB64 (h : Head) (d : Reg) (m : MOp) (s : State) : Out :=
  scratchStore 8 true h d m s

/-- ST.B128 (R271). -/
def execStB128 (h : Head) (d : Reg) (m : MOp) (s : State) : Out :=
  storeWord 16 h d m s

/-- STS.B128 (R272). -/
def execStsB128 (h : Head) (d : Reg) (m : MOp) (s : State) : Out :=
  scratchStore 16 false h d m s

/-- STX.B128 (R272). -/
def execStxB128 (h : Head) (d : Reg) (m : MOp) (s : State) : Out :=
  scratchStore 16 true h d m s

/-- ATOM.AddB32 (R273). -/
def execAtomAddB32 (h : Head) (d : Reg) (m : MOp) (s : State) : Out :=
  atomWord 4 .add h d m s

/-- ATOM.AddB64 (R273). -/
def execAtomAddB64 (h : Head) (d : Reg) (m : MOp) (s : State) : Out :=
  atomWord 8 .add h d m s

/-- ATOM.FaddF32 (R273). -/
def execAtomFaddF32 (h : Head) (d : Reg) (m : MOp) (s : State) : Out :=
  atomWord 4 .fadd32 h d m s

/-- ATOM.FaddF64 (R273). -/
def execAtomFaddF64 (h : Head) (d : Reg) (m : MOp) (s : State) : Out :=
  atomWord 8 .fadd64 h d m s

/-- ATOM.FaddBf16x2 (R273). -/
def execAtomFaddBf16x2 (h : Head) (d : Reg) (m : MOp) (s : State) : Out :=
  atomWord 4 .bfadd h d m s

/-- ATOM.MinS32 (R273). -/
def execAtomMinS32 (h : Head) (d : Reg) (m : MOp) (s : State) : Out :=
  atomWord 4 .smin h d m s

/-- ATOM.MinZ32 (R273). -/
def execAtomMinZ32 (h : Head) (d : Reg) (m : MOp) (s : State) : Out :=
  atomWord 4 .umin h d m s

/-- ATOM.MaxS32 (R273). -/
def execAtomMaxS32 (h : Head) (d : Reg) (m : MOp) (s : State) : Out :=
  atomWord 4 .smax h d m s

/-- ATOM.MaxZ32 (R273). -/
def execAtomMaxZ32 (h : Head) (d : Reg) (m : MOp) (s : State) : Out :=
  atomWord 4 .umax h d m s

/-- ATOM.AndB32 (R273). -/
def execAtomAndB32 (h : Head) (d : Reg) (m : MOp) (s : State) : Out :=
  atomWord 4 .and h d m s

/-- ATOM.OrB32 (R273). -/
def execAtomOrB32 (h : Head) (d : Reg) (m : MOp) (s : State) : Out :=
  atomWord 4 .or h d m s

/-- ATOM.XorB32 (R273). -/
def execAtomXorB32 (h : Head) (d : Reg) (m : MOp) (s : State) : Out :=
  atomWord 4 .xor h d m s

/-- ATOM.ExchB32 (R273). -/
def execAtomExchB32 (h : Head) (d : Reg) (m : MOp) (s : State) : Out :=
  atomWord 4 .exch h d m s

/-- ATOM.ExchB64 (R273). -/
def execAtomExchB64 (h : Head) (d : Reg) (m : MOp) (s : State) : Out :=
  atomWord 8 .exch h d m s

/-- CAS.B32 (R274). -/
def execCasB32 (h : Head) (d : Reg) (m : MOp) (s : State) : Out :=
  casWord 4 h d m s

/-- CAS.B64 (R274). -/
def execCasB64 (h : Head) (d : Reg) (m : MOp) (s : State) : Out :=
  casWord 8 h d m s

/-- CAS.B128 (R274). -/
def execCasB128 (h : Head) (d : Reg) (m : MOp) (s : State) : Out :=
  casWord 16 h d m s

/-- RED.B32 (R275). -/
def execRedB32 (h : Head) (op : RedOp) (d : Reg) (m : MOp) (s : State) : Out :=
  redWord 4 h op d m s

/-- RED.B64 (R275). -/
def execRedB64 (h : Head) (op : RedOp) (d : Reg) (m : MOp) (s : State) : Out :=
  redWord 8 h op d m s

/-- ATOMS.ADD.B32 (R276). -/
def execAtomsAddB32 (h : Head) (d : Reg) (m : MOp) (s : State) : Out :=
  scratchAtom .add h d m s

/-- ATOMS.CAS.B32 (R276). -/
def execAtomsCasB32 (h : Head) (d : Reg) (m : MOp) (s : State) : Out :=
  scratchCas h d m s

/-- ATOMS.FADD.F32 (R276). -/
def execAtomsFaddF32 (h : Head) (d : Reg) (m : MOp) (s : State) : Out :=
  scratchAtom .fadd32 h d m s

end Sys2Proof.Machine
end

