-- ==== Sys2Proof/Machine/Rollback.lean ====
section
/-!
DEFINITION. Rollback (R415): the journal back in reverse and the checkpoint restored, with its record (R421); and how a billet
consumes an uncorrectable error that stands at a place it reads (R414, R436).
-/
namespace Sys2Proof.Machine

/-- The threads of a billet, and their crews. -/
def billetThreads (s : State) (b : Billet) : List Nat :=
  s.tids.filter fun t => (b.crews ++ b.assay).contains (crewOf t)

/-- The billet of a command. -/
def Command.billet (c : Command) : Nat := c.core * 4 + c.pos

/-- WHERE of a record: die, core or slice, channel or cluster. -/
def whereWord (die unit chan : Nat) : Nat := die % 4 * 2 ^ 30 + unit % 64 * 2 ^ 24 + chan % 256 * 2 ^ 16

/-- WHERE of a unit of a kind (R414): cores for kinds 1 to 4, home slices, channels, wavelengths; an agent for kind 8. -/
def whereUnit (kind unit : Nat) : Nat :=
  match kind with
  | 5 => whereWord (unit / 64) unit 0
  | 6 => whereWord (unit / 32) 0 (unit % 32)
  | 7 => whereWord 0 0 unit
  | _ => whereWord (unit / 64) unit 0

/-- A record to a tenant about a billet. -/
def postBillet (s : State) (k code kind addr : Nat) : State :=
  match s.billets.get? k with
  | none => s
  | some b =>
    match s.wps.get? b.wp with
    | none => s
    | some x => s.postEvent x.tenant (recoveryRecord s code kind x.ident.toNat b.index (whereWord (dieOf (k / 4)) (k / 4) 0) addr)

/-! Rollback (R415). -/

/-- A lane's word and poison bit of a journalled register. -/
def restoreReg (t : Thread) (r : Nat) (w : W32) (poison : Bool) : Thread :=
  { t with
    v := Map.set t.v r w
    poison := (t.poison.filter fun n => n != r) ++ (if poison then [r] else []) }

/-- One journal entry goes back. -/
def undoEntry (s : State) (e : JEntry) : State :=
  match e.unit with
  | .reg c r => (crewTids c).foldl (fun s t =>
      if (s.threads.get? t).isNone then s
      else s.updThr t fun x =>
        restoreReg x r (BitVec.ofNat 32 (ofBytes ((e.content.drop (4 * laneOf t)).take 4))) (e.flags.getLsbD (laneOf t))) s
  | .scratch l => s.writeScratch (128 * l) e.content
  | .acc l => { s with acc := Memory.writeBytes s.acc (128 * l) e.content }
  | .global l => performWrite s (128 * l) e.content engineTid

/-- A thread of a checkpoint with the v registers the journal has given back. -/
def fromCheckpoint (cur old : Thread) (now : Nat) : Thread :=
  { old with v := cur.v, poison := cur.poison, readyAt := now, aged := false, yieldTil := 0,
             clause := if old.status == .ready && old.widx == 0 then none else old.clause,
             mon0 := { old.mon0 with fired := old.mon0.fired || old.mon0.armed }
             mon1 := { old.mon1 with fired := old.mon1.fired || old.mon1.armed } }

/-- Waits on the objects of an allocation are looked at again. -/
def recheckObjects (s : State) (b : Nat) (n : Nat) : State :=
  let inside (a : Nat) : Bool := decide (b ≤ a ∧ a < b + n)
  let objs := (s.threads.filterMap fun e => match e.2.status with
    | .blocked (.stage o _ _) => if inside o then some (2 * o) else none
    | .blocked (.qpush o _ _ _ _) => if inside o then some (2 * o + 1) else none
    | .blocked (.qpop o _ _ _ _) => if inside o then some (2 * o + 1) else none
    | _ => none).dedup
  wakeWaitv (objs.foldl (fun s o => if objIsQueue o then queueChanged s (objAddr o) else wakeStage s (objAddr o)) s)

/-- Operations in flight go without effect, with the places and locks they have at homes and scratchpads. -/
def State.cancel (s : State) (gone : Pend → Bool) : State :=
  let ids := (s.pend.filter gone).map Pend.id
  { s with
    pend := s.pend.filter fun p => !gone p
    scratchWait := s.scratchWait.filter fun e => !ids.contains e.2
    homes := s.homes.map fun e =>
      (e.1, { e.2 with lock := e.2.lock.filter fun k => !ids.contains k, queue := e.2.queue.filter fun k => !ids.contains k,
                       writers := e.2.writers.filter fun k => !ids.contains k }) }

/-- R415: a revocable billet goes back to its checkpoint; a record of the code follows. -/
def rollback (s : State) (k code kind addr : Nat) : State :=
  match s.billets.get? k with
  | none => s
  | some b =>
    match b.ckpt with
    | none => s
    | some c =>
      let ts := billetThreads s b
      let s := s.leave ts
      let mine (q : Command) : Bool := q.wp == b.wp && q.set == b.set && q.billet == k && decide (c.since ≤ q.id)
      let s := s.cancel fun p => ts.contains p.tid && decide (c.since ≤ p.id)
      let s : State := { s with
        anvil := s.anvil.filter fun o => !(o.tids.any ts.contains && decide (c.since ≤ o.id))
        ladle := s.ladle.filter fun q => !mine q
        trav := s.trav.filter fun q => !mine q
        frozen := s.frozen.filter fun f => !ts.contains f.2
        know := s.know.filter fun x => !(ts.contains x.tid && decide (c.since ≤ x.op))
        reads := s.reads.filter fun x => !(ts.contains x.tid && decide (c.since ≤ x.op))
        relFences := s.relFences.filter fun x => !(ts.contains x.tid && decide (c.since ≤ x.op)) }
      let s := b.journal.foldl undoEntry s
      let now := (s.core (k / 4)).gather
      let s := c.threads.foldl (fun s e => s.updThr e.1 fun x => fromCheckpoint x e.2 now) s
      let s : State := { s with
        crews := c.crews.foldl (fun r e => Map.set r e.1 e.2) s.crews
        groups := c.groups.foldl (fun r g => if (s.groups.get? g.1).isSome then Map.set r g.1 g.2 else r) s.groups }
      let s := s.updBillet k fun x => { x with journal := [] }
      let s := recheckObjects s (scratchAddr (k / 4) b.scratchBase) b.scratchSize
      let s := postBillet s k code kind addr
      (b.crews ++ b.assay).foldl (fun s c => resolveMask c (evalJoin s c) 64) s

/-- Whether a billet can be rolled back. -/
def revocable (s : State) (k : Nat) : Bool := (s.billets.get? k).any fun b => !b.irrevocable && b.ckpt.isSome

/-! Errors consumed (R414, R415). -/

/-- R414, R415: an error consumed in an irrevocable interval ends the context with UECC. -/
def ueccEnd (s : State) (k kind addr : Nat) : State :=
  match (s.billets.get? k).bind fun b => s.wps.get? b.wp with
  | none => s
  | some x => terminateCtx (asyncTrap s x.ctx { trap := .uecc, addr := addr, detail := kind } (k / 4)) x.ctx Trap.uecc.code

/-- The physical address a record gives for an error. -/
def errAddr (kind a : Nat) : Nat := if kind < 4 then 0 else a

/-- A billet consumes an uncorrectable error of a kind at a place. -/
def consumeBy (s : State) (k kind a : Nat) : State :=
  if revocable s k then rollback s k 1 kind (errAddr kind a) else ueccEnd s k kind (errAddr kind a)

/-- The uncorrectable error that stands at a line (R414, R436): its kind and its place. A line of memory carries the mark of its
home; an error of an L1 (kind 4) meets the reads that the L1 takes part in. -/
def errorAt (s : State) (sp : Space) (line : Nat) (l1 : Bool) : Option (Nat × Nat) :=
  match sp with
  | .global =>
    if (s.home line).bad != 0 then some ((s.home line).bad, 128 * line)
    else if l1 then s.errors.find? fun e => e.1 == 4 && lineOf e.2 == line
    else none
  | .scratch => s.errors.find? fun e => e.1 == 2 && lineOf e.2 == line

/-- An error is gone once it is consumed. -/
def State.dropError (s : State) (e : Nat × Nat) : State :=
  if 5 ≤ e.1 then s.updHome (lineOf e.2) fun h => { h with bad := 0 } else { s with errors := s.errors.erase e }

/-- A line of memory is marked as poisoned at its home (R414). -/
def State.markBad (s : State) (line kind : Nat) : State := s.updHome line fun h => { h with bad := if h.bad = 0 then kind else h.bad }

/-- Whether an operation reads what it reaches, for its thread. -/
def POp.readsData : POp → Bool
  | .load .. => true
  | .rmw _ _ _ dst => dst.isSome
  | .cas .. => true
  | .mcas .. => true
  | op => op.obj?.isSome

/-- The error that an operation would consume if it performed now: a thread that has ended consumes none. -/
def errorFor (s : State) (p : Pend) : Option (Nat × Nat) :=
  if p.done || !p.op.readsData || (s.threads.get? p.tid).isNone then none
  else
    let l1 := match p.op.acc? with | some a => a.proto != 2 && !a.atHome s | none => false
    p.op.lines.findSome? fun l => errorAt s l.1 l.2 l1

/-- An operation is over without effect. -/
def dropOp (s : State) (id : Nat) : State :=
  completeAll (raiseWatches ((s.updPend id fun p => { p with done := true, landed := true, writes := [], dests := [] }).cancel
    fun p => p.id == id && p.dc == 0).sweep)

/-- The thread of an operation consumes an error: its billet does, or the handler's context ends (R404); the operation has no
effect. -/
def consumeFor (s : State) (p : Pend) (kind a : Nat) : State :=
  let cid := crewOf p.tid
  let s' := if cid % 32 = handlerSlot then terminateCtx s (s.ctxOf cid) Trap.uecc.code else consumeBy s (s.billetKey cid) kind a
  dropOp s' p.id

/-- An operation goes on with `f`, unless it consumes an error there first. -/
def orConsume (s : State) (p : Pend) (f : Out) : Out :=
  match errorFor s p with
  | none => f
  | some e => if ready s p then .next (consumeFor (s.dropError e) p e.1 e.2) else f

end Sys2Proof.Machine
end

