-- ==== Sys2Proof/Machine/Coherence.lean ====
section
/-!
DEFINITION. The steps of homes, L1s and crucibles (R237 to R247): how operations in flight are served, the DIR and SELF
protocols, probes, leases, MCAS locks (R278), fences (R280) and landing (R34).  Memory holds the bytes as performed; the
state a home keeps says who must be asked first.
-/
namespace Sys2Proof.Machine

def isDrawerPa (pa : Nat) : Bool := decide (pa < 2 ^ 51 ∧ 2 ^ 50 ≤ pa)
def isHostPa (pa : Nat) : Bool := decide (2 ^ 51 ≤ pa)

/-! The ports to the drawers. -/

def State.port (s : State) (p : Nat) : Port := (s.ports.get? p).getD {}
def State.updPort (s : State) (p : Nat) (f : Port → Port) : State := { s with ports := s.ports.set p (f (s.port p)) }

/-- The drawer of a physical address (R222). -/
def drawerOf (pa : Nat) : Nat := pa / 2 ^ 46 % 16

/-- L_n (R454): the ports in use to a drawer, ascending; one that retrains stays in it (R458). -/
def portsTo (s : State) (n : Nat) : List Nat :=
  (List.range 16).filter fun p =>
    let x := s.port p
    x.en && (x.state == 2 || x.state == 3) && x.drawer == n

/-- The port of a request (R454). -/
def portFor (s : State) (pa : Nat) : Option Nat :=
  let l := portsTo s (drawerOf pa)
  l[pa / 128 % 128 % max 1 l.length]?

/-- R455: an entry of a table in force, where it gives its slot: class and tenant; r = 0 outbound, 1 inbound. -/
def slotAt (s : State) (p r n : Nat) : Option (Nat × Nat) :=
  let x := ((s.slotTab.get? (64 * p + 32 * r + n / 4)).getD 0).toNat / 2 ^ (16 * (n % 4)) % 65536
  if x / 32768 = 1 then some (x / 256 % 4, x % 64) else none

/-- R455: whether a table in force gives a tenant a slot of a class. -/
def hasSlot (s : State) (p r tenant cls : Nat) : Bool := (List.range 128).any fun n => slotAt s p r n == some (cls, tenant)

/-- The latency of a request sent in a slot of a port, in slots of 4 ns (R456): none where no answer comes. -/
def slotLatency (s : State) (p n : Nat) : Option Nat :=
  match slotAt s p 0 n with
  | some (0, f) => (List.range 128).find? fun k => decide ((s.port p).svc ≤ k) && slotAt s p 1 ((n + k) % 128) == some (1, f)
  | _ => none

/-! Lines. -/

/-- The mask of the bytes an access touches in its line (R239). -/
def byteMask (pa size : Nat) : BitVec 128 := BitVec.ofNat 128 ((2 ^ size - 1) * 2 ^ (pa % 128))

/-- Whether the part keeps anything of a line, in an L1 or in L2. -/
def HomeLine.held (h : HomeLine) : Bool := h.dir != .i || h.lmax != 0 || h.l2

/-- R400: one request that a home forwards to the backing store of a DRAWER or HOST page is counted per tenant and 64 KiB
granule. -/
def countKey (tenant granule : Nat) : Nat := tenant * 2 ^ 40 + granule

/-- The counter entries of a die with room for one more: full, an entry without its pending bit gives way, whichever; none where
every entry has it. -/
def countRoom (s : State) (die : Nat) : Option (Map AccessCount) :=
  let mine := s.counts.filter fun e => e.1 / 2 ^ 40 % 4 == die
  if mine.length < 8192 then some s.counts
  else
    let idle := mine.filter fun e => !e.2.pend
    (idle[Config.pick s.fresh die 401 % idle.length]?).map fun e => Map.del s.counts e.1

def countAccess (s : State) (tenant pa : Nat) : State :=
  let thr := (s.tenant tenant).acThr.toNat % 2 ^ 20
  if thr = 0 || !(isDrawerPa pa || isHostPa pa) then s
  else
    let die := homeOf s pa / 64
    let k := countKey (tenant * 4 + die) (pa / 65536)
    let room := if (s.counts.get? k).isSome then some s.counts else countRoom s die
    match room with
    | none => s
    | some m =>
      let c : AccessCount := (m.get? k).getD { granule := pa / 65536, count := 0 }
      if c.pend then s
      else if c.count + 1 < thr then { s with counts := m.set k { c with count := c.count + 1 } }
      else
        ({ s with counts := m.set k { c with count := 0, pend := true } }).postNotify tenant
          (toBytes (pa / 65536 * 65536) 8 ++ toBytes thr 4 ++ toBytes s.time 4)

/-- Ways as a list of numbers. -/
def waysOf (mask : Nat) : List Nat := (List.range 16).filter fun k => mask.testBit k

/-- The ways of a die's decoded blocks (R233): 15 down to 16 - RTWAYS. -/
def partitionWays (s : State) (die : Nat) : List Nat :=
  (List.range 16).filter fun k => decide (16 ≤ k + min 8 (((s.l2cfg.get? die).getD 0).toNat % 16))

/-- R235: the active ranges of a die, the lowest first, and the ways they cover. -/
def activeRanges (s : State) (die : Nat) : List Nat × List Nat :=
  (List.range 16).foldl (fun acc n =>
    let ctl := (s.rngCtl.get? (die * 16 + n)).getD 0
    let ws := waysOf (ctl.toNat % 65536)
    let rt := partitionWays s die
    let all := (acc.2 ++ ws ++ rt).dedup
    if !ctl.getLsbD 31 || decide (12 < ws.length) || ws.any rt.contains || decide (12 < all.length) then acc
    else (acc.1 ++ [n], acc.2 ++ ws)) ([], [])

def rangeActive (s : State) (die n : Nat) : Bool := (activeRanges s die).1.contains n

/-- R234: an access samples the lowest active range of its home's die that holds its line. -/
def sampleRange (s : State) (pa : Nat) : State :=
  let die := homeOf s pa / 64
  let hit := (List.range 16).find? fun n =>
    let k := die * 16 + n
    let lo := ((s.rngBase.get? k).getD 0).toNat / 65536 % 2 ^ 36
    let hi := ((s.rngLim.get? k).getD 0).toNat / 65536 % 2 ^ 36
    rangeActive s die n && decide (lo ≤ pa / 65536 ∧ pa / 65536 ≤ hi)
  match hit with
  | none => s
  | some n =>
    let k := die * 16 + n
    let ratio := min (((s.rngCtl.get? k).getD 0).toNat / 65536 % 512) 256
    { s with rngAcc := s.rngAcc.set k (((s.rngAcc.get? k).getD 0) + BitVec.ofNat 8 ratio) }

/-- A slice writes back what it holds of a line to the backing store (R236), a request of the tenant that wrote it (R400). -/
def writeBack (s : State) (line : Nat) : State :=
  match (s.home line).dirty with
  | some f => (countAccess s f (128 * line)).updHome line fun h => { h with dirty := none }
  | none => s

/-- A request of a context reaches a home: its range is sampled, and it goes on to the backing store (R236) unless the slice holds
the line and has not evicted it since; the slice keeps a line that is not UNC. -/
def atHome (s : State) (ctx proto pa : Nat) (write : Bool) : State :=
  let s := sampleRange s pa
  let gone := Config.pick s.fresh pa 400 % 2 == 1
  let s := if (s.home (lineOf pa)).dirty.isSome && gone then writeBack s (lineOf pa) else s
  let s := if proto == 2 || !(s.home (lineOf pa)).l2 || gone then countAccess s (ctx / 16) pa else s
  if proto = 2 then s
  else s.updHome (lineOf pa) fun h => { h with l2 := true, dirty := if write then some (ctx / 16) else h.dirty }

/-! Requests at a home, in order of arrival (R237). -/

/-- Whether a request that waits at a line still asks for it: an operation whose order lets it perform, or a command of an engine
that does not own the line yet. -/
def asks (s : State) (line id : Nat) : Bool :=
  (match s.pend? id with
   | some q => inOrder s q
   | none => false) ||
  (s.ladle ++ s.trav).any fun c => c.id == id && !c.owned.contains (.global, line)

/-- No request that reached the home before it is still to be served. -/
def turn (s : State) (line id : Nat) : Bool := ((s.home line).queue.takeWhile fun j => j != id).all fun j => !asks s line j

def State.queueUp (s : State) (line id : Nat) : State :=
  if (s.home line).queue.contains id then s
  else s.updHome line fun h => { h with queue := (h.queue.filter fun j => (s.pend? j).isSome ||
    (s.ladle ++ s.trav).any fun c => c.id == j) ++ [id] }

def State.unqueue (s : State) (line id : Nat) : State :=
  if (s.home line).queue.contains id then s.updHome line fun h => { h with queue := h.queue.filter fun j => j != id } else s

/-- R447: the requests of a thread to one line reach its home in the order it issued them. -/
def issuedFirst (s : State) (p : Pend) (line : Nat) : Bool :=
  s.pend.all fun q => q.tid != p.tid || !decide (q.id < p.id) || q.done || !q.op.lines.contains (.global, line) ||
    (s.home line).queue.contains q.id || (s.home line).writers.contains q.id

/-! DIR. -/

/-- A probe is sent, unless one is already out. -/
def sendProbe (s : State) (line agent : Nat) (inval : Bool) : State :=
  if s.probes.any fun p => p.line == line && p.agent == agent then s
  else { s with probes := s.probes ++ [{ line := line, agent := agent, inval := inval, since := s.time, again := false,
                                         answered := false }] }

/-- R238, R239: a request of an agent at the home of a DIR line: served now, or after the probes it sends. -/
def dirRequest (s : State) (line agent : Nat) (write : Bool) (mask : BitVec 128) : State × Bool :=
  let h := s.home line
  let grantM (s : State) (n : Nat) : State :=
    s.updHome line fun h =>
      if 3 ≤ n then { h with dir := .p [(agent, mask)], count := n, copy := Memory.readBytes s.mem (128 * line) 128 }
      else { h with dir := .m agent, count := n, copy := Memory.readBytes s.mem (128 * line) 128 }
  match h.dir with
  | .i => if write then (grantM s 0, true) else (s.updHome line fun h => { h with dir := .s [agent] }, true)
  | .s set =>
    let others := set.filter fun x => x != agent
    if !write then (s.updHome line fun h => { h with dir := .s (if set.contains agent then set else set ++ [agent]) }, true)
    else if others.isEmpty then (grantM s h.count, true)
    else (others.foldl (fun s x => sendProbe s line x true) s, false)
  | .m b =>
    if b = agent then (s, true)
    else if s.probes.any fun p => p.line == line && p.agent == b then (s, false)
    else
      let s := sendProbe s line b write
      (if write then s.updHome line fun h => { h with count := h.count + 1 } else s, false)
  | .p ms =>
    let clash := ms.any fun m => m.1 != agent && (m.2 &&& mask) != 0
    if clash then (ms.foldl (fun s m => sendProbe s line m.1 true) s, false)
    else if !write then (s, true)
    else
      let mine := ((ms.find? fun m => m.1 == agent).map Prod.snd).getD 0
      (s.updHome line fun h => { h with dir := .p ((agent, mine ||| mask) :: ms.filter fun m => m.1 != agent) }, true)

/-- An atomic at the crucible: every agent's copy is recalled, and the state is I afterwards (R245). -/
def dirRecall (s : State) (line : Nat) : State × Bool :=
  match (s.home line).dir with
  | .i => (s, true)
  | .s set => if set.isEmpty then (s.updHome line fun h => { h with dir := .i, count := 0 }, true)
              else (set.foldl (fun s x => sendProbe s line x true) s, false)
  | .m b => (sendProbe s line b true, false)
  | .p ms => if ms.isEmpty then (s.updHome line fun h => { h with dir := .i, count := 0 }, true)
             else (ms.foldl (fun s m => sendProbe s line m.1 true) s, false)

/-- CORE_PROBE (R238, R246): an agent that sleeps wakes, and writes back or drops its copy; monitors fire on a loss, watched loads
roll back. -/
def execCoreProbe (line agent : Nat) (s : State) : Out :=
  match s.probes.find? fun p => p.line == line && p.agent == agent && !p.answered with
  | none => idle "CORE_PROBE"
  | some p =>
    let s := s.updCore (leaseCore agent line) fun c => { c with gated := false }
    let s := if p.inval then loseLine s line (agentCores agent) else rollWatched s line (fun _ => true) (agentCores agent)
    .next { s with probes := s.probes.map fun q => if q.line = line ∧ q.agent = agent then { q with answered := true } else q }

/-- The home's own bytes once masked ones have been written back (R239). -/
def mergeBytes (s : State) (line : Nat) (copy : List Byte) (mask : BitVec 128) : List Byte :=
  (List.range 128).map fun k => if mask.getLsbD k then Memory.read s.mem (128 * line + k) else copy.getD k 0

/-- The home's state once an agent has answered. -/
def probeDone (s : State) (line agent : Nat) (inval : Bool) : State :=
  let s : State := { s with probes := s.probes.filter fun q => !(q.line == line && q.agent == agent) }
  s.updHome line fun h =>
    match h.dir with
    | .i => h
    | .s set => { h with dir := .s (if inval then set.filter fun x => x != agent else set) }
    | .m b => if b = agent then { h with dir := .s (if inval then [] else [agent]), copy := [] } else h
    | .p ms =>
      let rest := ms.filter fun m => m.1 != agent
      let mine := ((ms.find? fun m => m.1 == agent).map Prod.snd).getD 0
      if rest.isEmpty then { h with dir := .i, count := 0, copy := [] }
      else { h with dir := .p rest, copy := mergeBytes s line h.copy mine }

/-- PROBE_ACK (R238). -/
def execProbeAck (line agent : Nat) (s : State) : Out :=
  match s.probes.find? fun p => p.line == line && p.agent == agent && p.answered with
  | none => idle "PROBE_ACK"
  | some p => .next (probeDone s line agent p.inval)

/-- HOME_EVICT_NOTICE (R238, R239): an agent evicts its copy; its monitors on the line fire (R179). -/
def execHomeEvictNotice (line agent : Nat) (s : State) : Out :=
  let has := match (s.home line).dir with
    | .i => false
    | .s set => set.contains agent
    | .m b => b == agent
    | .p ms => ms.any fun m => m.1 == agent
  if !has then idle "HOME_EVICT_NOTICE"
  else
    let s := fireMonitors s line fun t => agentCores agent (coreOf t)
    .next ((probeDone s line agent true).updHome line fun h =>
      match h.dir with
      | .s [] => { h with dir := .i, count := 0 }
      | _ => h)

/-- PROBE_TIMEOUT (R246): sent again, then the agent has failed: the line is the home's own copy, and an uncorrectable error
of kind 8 stands against the agent. -/
def execProbeTimeout (line agent : Nat) (s : State) : Out :=
  match s.probes.find? fun p => p.line == line && p.agent == agent && !p.answered with
  | none => idle "PROBE_TIMEOUT"
  | some p =>
    let limit := if (s.core (leaseCore agent line)).gated then 400 else 40
    if s.time < p.since + limit then idle "PROBE_TIMEOUT"
    else if !p.again then
      .next { s with probes := s.probes.map fun q =>
        if q.line = line ∧ q.agent = agent then { q with again := true, since := s.time } else q }
    else
      let h := s.home line
      let back (s : State) (mask : BitVec 128) : State :=
        (List.range 128).foldl (fun s k =>
          if mask.getLsbD k then s.writePa (128 * line + k) [h.copy.getD k 0] else s) s
      let s := match h.dir with
        | .m b => if b = agent then back s (BitVec.allOnes 128) else s
        | .p ms => match ms.find? fun m => m.1 == agent with
          | some m => back s m.2
          | none => s
        | _ => s
      .next { probeDone s line agent true with errors := s.errors ++ [(8, agent)] }

/-! SELF. -/

/-- The slice base and a line's lease end (R242), the part's own at a drawer with it (R451). -/
def sliceB (s : State) (home : Nat) : Nat := (s.sliceBase.get? home).getD 0
def leaseEnd (s : State) (line : Nat) : Nat :=
  let h := s.home line
  max h.dlease (if h.lmax = 0 then 0 else sliceB s (homeOf s (128 * line)) + h.lmax.toNat)

/-- The lease length of a context (R240). -/
def leaseLen (s : State) (c : Nat) : Nat := max 16 (min 4096 (s.ctx c).lease.toNat)

/-- Whether a core may hold SELF copies (R243). -/
def holdsCopies (s : State) (agent line : Nat) : Bool :=
  let c := s.core (leaseCore agent line)
  c.resync && !c.gated

/-- A rebase is due before the slice serves anything (R242). -/
def rebaseDue (s : State) (line : Nat) : Bool :=
  decide (sliceB s (homeOf s (128 * line)) + 61438 ≤ s.time)

/-- The end of a lease granted now: not past the part's own at a drawer (R451). -/
def newLease (s : State) (line ctx : Nat) : Nat :=
  let l := s.time + leaseLen s ctx
  if isDrawerPa (128 * line) then min l (s.home line).dlease else l

/-- A lease is granted (R240): the line's latest lease end. -/
def noteLease (s : State) (line ctx : Nat) : State :=
  let b := sliceB s (homeOf s (128 * line))
  s.updHome line fun h => { h with lmax := BitVec.ofNat 16 (max (b + h.lmax.toNat) (newLease s line ctx) - b) }

/-- The copy that goes with it (R240). -/
def grantLease (s : State) (agent line ctx : Nat) : State :=
  let l := newLease s line ctx
  let base := (s.core (leaseCore agent line)).leaseBase
  let s := noteLease s line ctx
  if l < 100 + base then s
  else
    let c : SelfCopy := { data := Memory.readBytes s.mem (128 * line) 128, til := l - 100 - base }
    { s with copies := Map.set s.copies (copyKey agent line) c }

/-- SLICE_REBASE (R242). -/
def execSliceRebase (home : Nat) (s : State) : Out :=
  let b := sliceB s home
  if s.time < b + 61438 then idle "SLICE_REBASE"
  else
    let b' := s.time - 1
    .next { s with
      sliceBase := s.sliceBase.set home b'
      homes := s.homes.map fun e =>
        if homeOf s (128 * e.1) = home ∧ e.2.lmax ≠ 0 then
          (e.1, { e.2 with lmax := if b + e.2.lmax.toNat ≤ s.time then 0 else BitVec.ofNat 16 (b + e.2.lmax.toNat - b') })
        else e }

/-- An agent's copy of a line goes: watched loads of its cores roll back (R259), monitors fire (R179). -/
def dropCopy (s : State) (agent line : Nat) : State :=
  loseLine { s with copies := s.copies.del (copyKey agent line) } line (agentCores agent)

/-- The copies an agent keeps by the time of a core. -/
def copiesOf (s : State) (core : Nat) : List (Nat × Nat) :=
  (s.copies.map fun e => (e.1 / 2 ^ 45, e.1 % 2 ^ 45)).filter fun k => leaseCore k.1 k.2 == core

/-- SELF_COPY_EXPIRE (R240): a copy whose lease end less 100 has come is dropped. -/
def execSelfCopyExpire (agent line : Nat) (s : State) : Out :=
  match s.copies.get? (copyKey agent line) with
  | none => idle "SELF_COPY_EXPIRE"
  | some _ => if (validCopy s agent line).isSome then idle "SELF_COPY_EXPIRE" else .next (dropCopy s agent line)

/-- CORE_LEASE_REBASE (R242). -/
def execCoreLeaseRebase (core : Nat) (s : State) : Out :=
  let b := (s.core core).leaseBase
  let now := coreTime s core
  if now < ((b + 61438 : Nat) : Int) then idle "CORE_LEASE_REBASE"
  else
    let b' := (now - 1).toNat
    let gone := (copiesOf s core).filter fun k => (validCopy s k.1 k.2).isNone
    let s := gone.foldl (fun s k => dropCopy s k.1 k.2) s
    let mine (k : Nat) : Bool := leaseCore (k / 2 ^ 45) (k % 2 ^ 45) == core
    let s : State := { s with
      copies := s.copies.map fun e => if mine e.1 then (e.1, { e.2 with til := b + e.2.til - b' }) else e }
    .next (s.updCore core fun c => { c with leaseBase := b' })

/-- CORE_TIME_CHECK (R243): every 1,024 ticks a core compares its time, `fast` or `slow` by so many ticks; 100 ticks or a
stopped clock drop its copies, until it is in step again. -/
def execCoreTimeCheck (core fast slow : Nat) (s : State) : Out :=
  if s.time % 1024 ≠ 0 then idle "CORE_TIME_CHECK"
  else
    let skew : Int := (fast : Int) - slow
    let off := (s.core core).gated || decide (100 ≤ skew ∨ skew ≤ -100)
    let s := if off then (copiesOf s core).foldl (fun s k => dropCopy s k.1 k.2) s else s
    .next (s.updCore core fun c => { c with skew := skew, resync := !off })

/-! Service of operations. -/

/-- Another operation's MCAS lock holds the line (R265). -/
def lockedBy (s : State) (line id : Nat) : Bool :=
  match (s.home line).lock with
  | some k => k != id
  | none => false

/-- What an operation asks of a line. -/
inductive Ask where
  | read | write | atomic
  deriving DecidableEq, Repr

def POp.ask : POp → Ask
  | .store .. => .write
  | .rmw .. => .atomic
  | .cas .. => .atomic
  | .mcas .. => .atomic
  | _ => .read

/-- Whether the part must ask the drawer for a line first (R451, R452): it holds it in no way that serves the request. -/
def asksDrawer (s : State) (k : Ask) (proto : Nat) (dom : Bool) (line : Nat) : Bool :=
  let h := s.home line
  isDrawerPa (128 * line) &&
    (match k, proto with
     | .read, 0 => h.hold == .no
     | .read, 1 => decide (h.dlease ≤ s.time)
     | .write, 0 => h.hold != .owned
     | .atomic, 0 => dom || h.hold != .owned
     | _, _ => true)

/-- What the drawer's answer gives the part: a line to share or to own, or a lease (R451). -/
def gainHold (s : State) (k : Ask) (proto ctx : Nat) (dom : Bool) (line : Nat) : State :=
  s.updHome line fun h =>
    match k, proto with
    | .read, 0 => { h with hold := if h.hold == .owned then .owned else .shared }
    | .read, 1 => { h with dlease := max h.dlease (s.time + leaseLen s ctx) }
    | .write, 0 => { h with hold := .owned }
    | .atomic, 0 => { h with hold := if dom then .no else .owned }
    | _, _ => h

/-- Its answer has come, or is not needed. -/
def linkDone (s : State) (p : Pend) (a : Acc) : Bool :=
  p.link == 2 || !asksDrawer s p.op.ask a.proto (a.scope == .dom) (lineOf a.pa)

/-- A write that other parts read at its drawer as a release at domain scope comes after what it stands for (R450, R252). -/
def domReady (s : State) (p : Pend) : Bool :=
  !(p.op.ranges.any fun r => r.1 == .global && isDrawerPa r.2.1) ||
    (writeHeads s p (readHeads s p)).all fun h => decide (h.level < 6) || !h.live s

/-- What a home makes of a request now: not here, waiting (with what it sent), or served. -/
inductive Serve where
  | no
  | wait (s : State)
  | yes (s : State)

/-- An access of a thread that comes to a line an engine owns is a recall that waits (R247, R435). -/
def noteRecall (s : State) (p : Pend) (l : Space × Nat) : State :=
  if ownedLine s l.1 l.2 then bumpPerf s (s.ctxOf (crewOf p.tid)) (coreOf p.tid) 3 1 else s

/-- A request waits at the home, in the place it has there. -/
def Serve.queued (s : State) (line : Nat) (p : Pend) : Serve :=
  if (s.home line).queue.contains p.id then .no else .wait ((noteRecall s p (.global, line)).queueUp line p.id)

/-- A read or a write that its L1 does not serve is a miss of it (R435). -/
def noteMiss (s : State) (p : Pend) (a : Acc) : State :=
  if p.op.ask == .atomic || a.proto == 2 || a.atHome s then s else bumpPerf s a.ctx (coreOf p.tid) 2 1

/-- A request at the home of its line (R237): one that may come and has its turn is served by `f`, which sends probes where it must
wait; another waits. -/
def serveAt (s : State) (p : Pend) (a : Acc) (f : State → State × Bool) : Serve :=
  let line := lineOf a.pa
  if !inOrder s p || !issuedFirst s p line || !linkDone s p a || !domReady s p then .no
  else if lockedBy s line p.id || ownedLine s .global line || !turn s line p.id then Serve.queued s line p
  else
    let r := f s
    if r.2 then .yes (noteMiss (atHome (r.1.unqueue line p.id) a.ctx a.proto a.pa (p.op.ask != .read)) p a) else .wait (r.1.queueUp line p.id)

/-- R231, R258: a read that no L1 takes part in: the latest data come to the home. -/
def dirFetch (s : State) (line : Nat) : State × Bool :=
  match (s.home line).dir with
  | .m b => (sendProbe s line b false, false)
  | .p ms => if ms.isEmpty then (s, true) else (ms.foldl (fun s m => sendProbe s line m.1 true) s, false)
  | _ => (s, true)

/-- A read (R238, R240, R244). -/
def serveRead (s : State) (p : Pend) (a : Acc) : Serve :=
  let line := lineOf a.pa
  let ag := agentOf s (coreOf p.tid)
  let direct := a.atHome s
  match a.proto with
  | 0 =>
    let hit := !direct && (match (s.home line).dir with
      | .i => false
      | .s set => set.contains ag
      | .m b => b == ag
      | .p ms => ms.any fun m => m.1 == ag && (byteMask a.pa a.size &&& ~~~m.2) == 0)
    if hit then (if ready s p then .yes s else .no)
    else serveAt s p a fun s => if direct then dirFetch s line else dirRequest s line ag false (byteMask a.pa a.size)
  | 1 =>
    if !direct && (validCopy s ag line).isSome then (if ready s p then .yes s else .no)
    else if rebaseDue s line then .no
    else if !(s.home line).writers.isEmpty then
      (if inOrder s p && issuedFirst s p line && linkDone s p a then Serve.queued s line p else .no)
    else serveAt s p a fun s => (if holdsCopies s ag line && !direct then grantLease s ag line a.ctx else s, true)
  | _ => serveAt s p a fun s => (s, true)

/-- A write to a SELF line (R241): it waits with the others for the last lease end. -/
def serveSelf (s : State) (p : Pend) (a : Acc) : Serve :=
  let line := lineOf a.pa
  if rebaseDue s line || (s.home line).writers.contains p.id then .no
  else if s.time < leaseEnd s line || !(s.home line).writers.isEmpty then
    if !inOrder s p || !issuedFirst s p line || !linkDone s p a || !domReady s p then .no
    else if lockedBy s line p.id || ownedLine s .global line || !turn s line p.id then Serve.queued s line p
    else .wait ((s.unqueue line p.id).updHome line fun h => { h with writers := h.writers ++ [p.id] })
  else serveAt s p a fun s => (s, true)

/-- A write or ownership request (R238, R239, R241). -/
def serveWrite (s : State) (p : Pend) (a : Acc) : Serve :=
  let line := lineOf a.pa
  let ag := agentOf s (coreOf p.tid)
  match a.proto with
  | 0 => serveAt s p a fun s => if a.atHome s then dirRecall s line else dirRequest s line ag true (byteMask a.pa a.size)
  | 1 => serveSelf s p a
  | _ => serveAt s p a fun s => (s, true)

/-- An atomic (R245): in the L1 that holds a DIR line modified at crew or core scope, else in the crucible; at domain scope the
drawer's (R452). -/
def serveAtomic (s : State) (p : Pend) (a : Acc) : Serve :=
  let line := lineOf a.pa
  let ag := agentOf s (coreOf p.tid)
  match a.proto with
  | 0 =>
    if a.scope.level ≤ 2 ∧ (s.home line).dir = .m ag ∧ !a.atHome s then (if ready s p then .yes s else .no)
    else serveAt s p a fun s => dirRecall s line
  | 1 => serveSelf s p a
  | _ => serveAt s p a fun s => (s, true)

def Serve.out (e : String) (r : Serve) (f : State → State) : Out :=
  match r with
  | .no => idle e
  | .wait s => .next s
  | .yes s => .next (f s)

/-- An operation performs once served, unless it consumes an error there (R414); counters and workpieces may follow. -/
def performAt (id : Nat) (s : State) : State :=
  match s.pend? id with
  | none => s
  | some p =>
    match errorFor s p with
    | some e => consumeFor (s.dropError e) p e.1 e.2
    | none => completeAll (raiseWatches (performOp s p).sweep)

/-- HOME_READ_REQUEST: a load, or a prefetch (R282), is served. -/
def execHomeReadRequest (id : Nat) (s : State) : Out :=
  match s.pend? id with
  | none => idle "HOME_READ_REQUEST"
  | some p =>
    match p.op with
    | .load a _ =>
      if a.space = .scratch then idle "HOME_READ_REQUEST"
      else (serveRead s p a).out "HOME_READ_REQUEST" (performAt id)
    | .pref line proto ctx =>
      if p.done then idle "HOME_READ_REQUEST"
      else
        let a : Acc := { space := .global, pa := 128 * line, size := 128, va := 0, ord := .weak, scope := .core, rem := false,
                         proto := proto, ctx := ctx, word := 0 }
        if proto = 2 then .next (s.finish id []).sweep
        else (serveRead s p a).out "HOME_READ_REQUEST" fun s => (s.finish id []).sweep
    | _ => idle "HOME_READ_REQUEST"

/-- HOME_WRITE_REQUEST: a store is served and performs. -/
def execHomeWriteRequest (id : Nat) (s : State) : Out :=
  match s.pend? id with
  | none => idle "HOME_WRITE_REQUEST"
  | some p =>
    match p.op with
    | .store a _ _ =>
      if a.space = .scratch then idle "HOME_WRITE_REQUEST"
      else (serveWrite s p a).out "HOME_WRITE_REQUEST" (performAt id)
    | _ => idle "HOME_WRITE_REQUEST"

/-- CRUCIBLE_ATOMIC (R245): an atomic, RED or CAS is served and performs. -/
def execCrucibleAtomic (id : Nat) (s : State) : Out :=
  match s.pend? id with
  | none => idle "CRUCIBLE_ATOMIC"
  | some p =>
    match p.op with
    | .rmw a _ _ _ =>
      if a.space = .scratch then idle "CRUCIBLE_ATOMIC"
      else (serveAtomic s p a).out "CRUCIBLE_ATOMIC" (performAt id)
    | .cas a _ _ _ =>
      if a.space = .scratch then idle "CRUCIBLE_ATOMIC"
      else (serveAtomic s p a).out "CRUCIBLE_ATOMIC" (performAt id)
    | _ => idle "CRUCIBLE_ATOMIC"

/-- SELF_WRITE_PERFORM (R241): at the last lease end the writes waiting on a line perform together, in arrival order. -/
def execSelfWritePerform (line : Nat) (s : State) : Out :=
  let ws := (s.home line).writers
  if ws.isEmpty || s.time < leaseEnd s line || (s.home line).lock.isSome || ownedLine s .global line then idle "SELF_WRITE_PERFORM"
  else .next (ws.foldl (fun s id => performAt id s) (s.updHome line fun h => { h with writers := [] }))

/-! MCAS locks (R278). -/

/-- The next line to lock. -/
def mcasNext (lines held : List Nat) : Option Nat := lines.find? fun l => !held.contains l

def unlockAll (s : State) (id : Nat) : State :=
  { s with homes := s.homes.map fun e =>
      (e.1, { e.2 with lock := e.2.lock.filter fun k => k != id, queue := e.2.queue.filter fun k => k != id }) }

/-- The comparison and the commit at one point (R265), then the locks go. -/
def mcasCommit (s : State) (p : Pend) (es : List McasEntry) (dst : Reg) : State :=
  let miss := (List.range es.length).filter fun i =>
    match es[i]? with
    | some e => Memory.readBytes s.mem e.pa e.size != e.expect
    | none => false
  let hs := writeHeads s p (readHeads s p)
  let s := s.readDone p
  let s := if miss.isEmpty then
      es.foldl (fun s e => (performWrite s e.pa e.new p.tid).noteWrite .global e.pa e.size hs) s
    else s
  let w : W32 := if miss.isEmpty then 0 else 0x100 ||| maskOf miss
  unlockAll (s.finish p.id (wr32 dst w false)) p.id

/-- MCAS_LOCKS_HELD: the MCAS takes its next lock, and commits when it holds every line. -/
def execMcasLocksHeld (id : Nat) (s : State) : Out :=
  match s.pend? id with
  | none => idle "MCAS_LOCKS_HELD"
  | some p =>
    match p.op with
    | .mcas a es lines held t0 dst =>
      match mcasNext lines held with
      | none => idle "MCAS_LOCKS_HELD"
      | some l => orConsume s p <|
        let proto := ((es.find? fun e => lineOf e.pa == l).map McasEntry.proto).getD 0
        if !inOrder s p || (isDrawerPa (128 * l) && p.link != 2) || !domReady s p then idle "MCAS_LOCKS_HELD"
        else if (s.home l).lock.isSome || ownedLine s .global l || !turn s l id ||
            (proto == 1 && (decide (s.time < leaseEnd s l) || !(s.home l).writers.isEmpty || rebaseDue s l)) then
          (Serve.queued s l p).out "MCAS_LOCKS_HELD" fun s => s
        else
          let r := if proto = 0 then dirRecall s l else (s, true)
          if !r.2 then .next (r.1.queueUp l id)
          else
            let s := (atHome r.1 a.ctx proto (128 * l) true).unqueue l id
            let s := s.updHome l fun h => { h with lock := some id }
            let s := s.updPend id fun q => { q with op := .mcas a es lines (held ++ [l]) t0 dst, link := 0 }
            .next (if (mcasNext lines (held ++ [l])).isNone then mcasCommit s p es dst else s)
    | _ => idle "MCAS_LOCKS_HELD"

/-- MCAS_LOCK_TIMEOUT (R278): waiting past 10,000 ticks, or on a stalled link (R459), ends in retry. -/
def mcasRetry (id : Nat) (stalled : State → Nat → Bool) (s : State) : Out :=
  match s.pend? id with
  | none => idle "MCAS_LOCK_TIMEOUT"
  | some p =>
    match p.op with
    | .mcas _ _ lines held t0 dst =>
      match mcasNext lines held with
      | none => idle "MCAS_LOCK_TIMEOUT"
      | some l =>
        if t0 + 10000 < s.time || stalled s l then .next (unlockAll (s.finish id (wr32 dst 0x200 false)) id)
        else idle "MCAS_LOCK_TIMEOUT"
    | _ => idle "MCAS_LOCK_TIMEOUT"

/-! Fences, promotion and landing. -/

/-- What a FENCE waits for (R280): earlier fences; to release, its thread's earlier writes throughout its instance; to acquire,
earlier reads, and what it synchronises with (R252). -/
def fenceDone (s : State) (p : Pend) (o : Ord) (sc : Scope) : Bool :=
  let early := s.pend.filter fun q => decide (q.id < p.id) && q.tid == p.tid
  !p.done && early.all (fun q => q.done || !q.op.isFence) &&
    (!o.releases || early.all fun q => q.visible sc.level || !(q.op.leaves || q.op.isRmw)) &&
    (!o.acquires || (early.all fun q => q.done || !(q.op.isLoad || q.op.isRmw)) &&
      s.sees p.tid ((fenceHeads s p.tid p.id sc.level o).flatMap RelHead.owed))

/-- The fence completes: what it learns, and what it is to the writes, and for `.sc` the fences, that come after. -/
def fenceEffect (s : State) (p : Pend) (o : Ord) (sc : Scope) : State :=
  let s := s.learn p.tid p.id ((fenceHeads s p.tid p.id sc.level o).flatMap RelHead.owed)
  let head : RelHead := { tid := p.tid, op := p.id, level := sc.level, owed := s.owed p.tid p.id }
  { s with
    relFences := if o.releases then
        (s.relFences.filter fun f => !(f.tid == p.tid && f.level == sc.level)) ++ [{ tid := p.tid, op := p.id, level := sc.level }]
      else s.relFences
    scs := if o = .sc ∧ head.live s then s.scs ++ [head] else s.scs }

/-- FENCE_COMPLETE (R280), and that of the fence an access with order `.sc` begins with. -/
def execFenceComplete (id : Nat) (s : State) : Out :=
  match s.pend? id with
  | none => idle "FENCE_COMPLETE"
  | some p =>
    match p.op with
    | .fence o sc _ _ =>
      if fenceDone s p o sc then .next (landOp ((fenceEffect s p o sc).finish id []) id) else idle "FENCE_COMPLETE"
    | _ => idle "FENCE_COMPLETE"

end Sys2Proof.Machine
end

