-- ==== Sys2Proof/Machine/Sync.lean ====
section
/-!
DEFINITION. Barriers (R209 to R211), stages (R212, R213), queues (R214 to R216), waits and monitors (R217 to R220), the
timeouts of each, and the landing of operations (R34).
-/
namespace Sys2Proof.Machine

/-! Barriers. -/

/-- The group instance a handle names for a thread's crew (R165). -/
def groupOf (s : State) (t h : Nat) : Option Nat :=
  ((crewGroups s (crewOf t)).find? fun e => e.2.handle == h && e.2.entry != 0xFFFF).map Prod.fst

/-- The billet group (R165). -/
def billetGroup (s : State) (t : Nat) : Option Nat :=
  ((crewGroups s (crewOf t)).find? fun e => e.2.entry == 0xFFFF).map Prod.fst

/-- The member key of a thread's crew. -/
def myKey (s : State) (t : Nat) : Nat := memKey (s.billetKey (crewOf t), (s.crew (crewOf t)).number)

def laneMask (t : Nat) : W32 := BitVec.ofNat 32 (2 ^ laneOf t)

/-- The place of a lane in the order a barrier unit counts arrivals of one tick: billet position, crew, lane (R169).
Lanes of different cores may share a place: among them the lower core's come first (log 80). -/
def barPlace (s : State) (t : Nat) : Nat := (s.crew (crewOf t)).pos * 512 + (s.crew (crewOf t)).number * 32 + laneOf t

def barOrder (s : State) (ts : List Nat) : List Nat := sortBy (fun a b => decide (barPlace s a ≤ barPlace s b)) ts

/-- R167: one arrival at a group. -/
def recordArrival (s : State) (g t : Nat) (m : W32) : State :=
  let k := myKey s t
  s.updGroup g fun x =>
    { x with presented := Map.set x.presented k m,
             arrived := Map.set x.arrived k (((Map.get? x.arrived k).getD 0) ||| laneMask t),
             first := some (x.first.getD s.time), start := x.first.elim s.time fun _ => x.start,
             paused := x.first.elim 0 fun _ => x.paused, lastAt := some (s.time, barPlace s t) }

/-- What one lane's arrival comes to: the next state, and a trap, a status at once, or an arrival at a group. -/
inductive Arrive where
  | trap
  | status (w : W32)
  | at (g tok : Nat)
  deriving DecidableEq, Repr

/-- R210 for one lane: the checks and the arrival. -/
def arriveOne (s : State) (g : Option Nat) (t : Nat) (m : W32) : State × Arrive :=
  match g.bind fun k => (s.group? k).map fun x => (k, x) with
  | none => (s, .trap)
  | some (k, x) =>
    if !m.getLsbD (laneOf t) then (s, .trap)
    else if x.broken then (s, .status (stWord 2 0 false))
    else
      let p := Map.get? x.presented (myKey s t)
      if p.isSome && p != some m then (breakGroup s k, .trap)
      else
        let s := if (x.members.map Prod.fst).dedup.length > 1 then s.irrevocable (s.billetKey (crewOf t)) else s
        (recordArrival (s.carry (groupKey k) t s.seq) k t m, .at k x.phase)

/-- Forms of arrival. -/
inductive ArrForm where
  | sync | arv | arvc
  deriving DecidableEq, Repr

/-- Whether an arrival reaches its unit in a later tick: one that comes after it in the order of R169 was counted in this one,
or the phase's timeout comes first (R170). -/
def arrivesLater (s : State) (g : Option Nat) (t : Nat) : Bool :=
  (g.bind s.group?).any fun x => x.due s.time || x.lastAt.any fun l => l.1 == s.time && decide (barPlace s t < l.2)

/-- A thread observes a group: what was in flight before the arrivals there happens before what follows (R169, R252). -/
def State.observe (s : State) (g t : Nat) : State := s.learnFrom (groupKey g) t (s.seq - 1)

/-- BAR.SYNC, BAR.ARV, BAR.ARVC and BBAR (R210): a bundle's arrivals are counted together, and a phase
they complete completes once, after the last of them (log 84). -/
def arriveWord (f : ArrForm) (bb : Bool) (h : Head) (hn : Nat) (d : Reg) (b : OpB) (s : State) : Out :=
  issueWord s h { group := 3, regs := (d, 1) :: b.regs 1, dsts := [d], wait := true, cmp := .compare, passes := true,
                  settle := some (if bb then 2 else 3) } fun s ts =>
    let pois := ts.filterMap fun t => (consumed s t (b.regs 1)).map fun i => (t, i)
    let good := barOrder s (ts.filter fun t => (consumed s t (b.regs 1)).isNone)
    let x := curWidx s
    if good.any fun t => arrivesLater s (if bb then billetGroup s t else groupOf s t hn) t then { s := s, stall := true } else
    let r := good.foldl (fun (acc : State × List (Nat × Arrive)) t =>
      let a := arriveOne acc.1 (if bb then billetGroup acc.1 t else groupOf acc.1 t hn) t (s.b32 t b)
      let s' := match f, a.2 with
        | .sync, .at g tok => block a.1 t x (.bar g tok d true false)
        | .sync, .status w => release (block a.1 t x (.bar 0 0 d false false)) t (keepS ts t (wr32 d w false))
        | _, _ => a.1
      (s', acc.2 ++ [(t, a.2)])) (s, [])
    let gs := (r.2.filterMap fun p => match p.2 with | .at g _ => some g | _ => none).dedup
    let lanes (g : Nat) : List Nat := r.2.filterMap fun p => match p.2 with | .at k _ => if k = g then some p.1 else none | _ => none
    let s2 := gs.foldl (fun s g => evalPhase s g (lanes g)) r.1
    let moved (g tok : Nat) : Bool := (s2.group? g).any fun y => y.phase != tok
    let s3 := match f with
      | .sync => s2
      | _ => r.2.foldl (fun s' p =>
        match p.2 with
        | .trap => s'
        | .status w => s'.giveRegs p.1 (keepS ts p.1 (wr32 d w false))
        | .at g tok => (s'.observe g p.1).giveRegs p.1 (keepS ts p.1 (wr32 d (stWord 0 tok (f == .arvc && moved g tok)) false))) s2
    { s := s3, traps := pois ++ r.2.filterMap fun p => match p.2 with | .trap => some (p.1, { trap := .maskdis }) | _ => none }

/-- BAR.SYNC (R210). -/
def execBarSync (h : Head) (hn : Fin 4) (d : Reg) (b : OpB) (s : State) : Out := arriveWord .sync false h hn.val d b s

/-- BAR.ARV (R210). -/
def execBarArv (h : Head) (hn : Fin 4) (d : Reg) (b : OpB) (s : State) : Out := arriveWord .arv false h hn.val d b s

/-- BAR.ARVC (R210). -/
def execBarArvc (h : Head) (hn : Fin 4) (d : Reg) (b : OpB) (s : State) : Out := arriveWord .arvc false h hn.val d b s

/-- BBAR (R210): its release is the checkpoint's (R411). -/
def execBbar (h : Head) (d : Reg) (b : OpB) (s : State) : Out := arriveWord .sync true h 0 d b s

/-- BAR.WAIT and BAR.TRY (R210). -/
def waitWord (wait : Bool) (h : Head) (hn : Nat) (d a : Reg) (b : OpB) (s : State) : Out :=
  issueWord s h { group := 3, regs := [(d, 1), (a, 1)] ++ b.regs 1, dsts := [d], wait := true, cmp := .compare,
                  passes := true } fun s ts =>
    let use (t : Nat) : Option TrapInfo :=
      (consumed s t ((a, 1) :: b.regs 1)).or
        (if (groupOf s t hn).isNone || !(s.b32 t b).getLsbD (laneOf t) then some { trap := .maskdis } else none)
    let x := curWidx s
    { s := (ts.filter fun t => (use t).isNone).foldl (fun s' t =>
        match (groupOf s t hn).bind fun g => (s.group? g).map fun y => (g, y) with
        | none => s'
        | some (g, y) =>
          let tok := (s.r32 t a).toNat / 65536
          let w := if y.broken then stWord 2 0 false else if y.isDone tok then stWord 0 tok false else stWord 1 tok false
          if wait then
            let s' := block s' t x (.bar g tok d false false)
            if y.broken || y.isDone tok then release s' t (keepS ts t (wr32 d w false)) else s'
          else (s'.observe g t).giveRegs t (keepS ts t (wr32 d w false))) s,
      traps := ts.filterMap fun t => (use t).map fun i => (t, i) }

/-- BAR.WAIT (R210). -/
def execBarWait (h : Head) (hn : Fin 4) (d a : Reg) (b : OpB) (s : State) : Out := waitWord true h hn.val d a b s

/-- BAR.TRY (R210). -/
def execBarTry (h : Head) (hn : Fin 4) (d a : Reg) (b : OpB) (s : State) : Out := waitWord false h hn.val d a b s

/-- BAR.LEAVE (R211). -/
def execBarLeave (h : Head) (hn : Fin 4) (b : OpB) (s : State) : Out :=
  issueWord s h { group := 3, regs := b.regs 1, wait := true, cmp := .compare, settle := some 3 } fun s ts =>
    let use (t : Nat) : Option TrapInfo :=
      (consumed s t (b.regs 1)).or
        (if (groupOf s t hn.val).isNone || !(s.b32 t b).getLsbD (laneOf t) then some { trap := .maskdis } else none)
    let good := ts.filter fun t => (use t).isNone
    let s1 := good.foldl (fun s' t =>
      match groupOf s t hn.val with
      | none => s'
      | some g => s'.updGroup g fun y =>
          if y.broken then y
          else { y with left := Map.set y.left (myKey s t) (((Map.get? y.left (myKey s t)).getD 0) ||| s.b32 t b) }) s
    { s := ((good.filterMap fun t => groupOf s t hn.val).dedup).foldl (fun s g => evalPhase s g []) s1,
      traps := ts.filterMap fun t => (use t).map fun i => (t, i) }

/-- R211, R202: a reset wakes the waiters with BROKEN and restores the membership. -/
def resetGroup (s : State) (g : Nat) : State :=
  (breakGroup s g).updGroup g fun y =>
    { y with broken := false, left := [], out := [], arrived := [], presented := [], first := none, paused := 0, pausedAt := none,
             timeout := y.tableTimeout }

/-- BAR.RESET (R211): once for a bundle and group. -/
def execBarReset (h : Head) (hn : Fin 4) (s : State) : Out :=
  issueWord s h { group := 3, wait := true, cmp := .compare } fun s ts =>
    { s := ((ts.filterMap fun t => groupOf s t hn.val).dedup).foldl resetGroup s,
      traps := (ts.filter fun t => (groupOf s t hn.val).isNone).map fun t => (t, { trap := .maskdis }) }

/-- GRPQ (R211). Selector 2 gives the lanes that made an arrival in the phase, and not those that have left (log 85). -/
def grpqValue (s : State) (t : Nat) (y : Group) (sel : Nat) : W32 :=
  let k := myKey s t
  match sel with
  | 0 => stWord (if y.broken then 2 else 0) y.phase false
  | 1 => maskOf ((List.range (s.crew (crewOf t)).width).filter fun l => !((Map.get? y.left k).getD 0).getLsbD l)
  | 2 => (Map.get? y.arrived k).getD 0
  | _ => BitVec.ofNat 32 y.timeout

def execGrpq (h : Head) (hn sel : Fin 4) (d : Reg) (s : State) : Out :=
  issueWord s h { group := 3, regs := [(d, 1)], dsts := [d], wait := true, cmp := .load, passes := true } fun s ts =>
    let val (t : Nat) : Option W32 :=
      (groupOf s t hn.val).bind fun g => (s.group? g).map fun y => grpqValue s t y sel.val
    { s := ts.foldl (fun s' t =>
        match val t with
        | some w => s'.giveRegs t (keepS ts t (wr32 d w false))
        | none => s') s,
      traps := (ts.filter fun t => (val t).isNone).map fun t => (t, { trap := .maskdis }) }

/-- The set member a member entry stands for, resident or ended. -/
def setMember (s : State) (g : Group) (m : Nat × Nat) : Nat :=
  match Map.get? g.gone (memKey m) with
  | some x => x.member
  | none => ((s.billets.get? m.1).map Billet.member).getD 0

/-- The PC of a lane of a member crew in the diagnostic block. -/
def memberPc (s : State) (g : Group) (m : Nat × Nat) (l : Nat) : Nat :=
  match Map.get? g.gone (memKey m) with
  | some x => x.pcs.getD l 0
  | none => lanePc s ((memberCrew s g m).getD 0) l

/-- R171: the diagnostic block, one entry for each crew that is a member. -/
def diagBlock (s : State) (g : Group) : List Byte :=
  let ms := sortBy (fun a b : (Nat × Nat) => decide (setMember s g a * 16 + a.2 ≤ setMember s g b * 16 + b.2))
    (g.members.filter fun m => !g.out.contains (memKey m))
  toBytes g.entry 2 ++ toBytes g.handle 1 ++ toBytes ms.length 1 ++ toBytes g.timeout 4 ++
    toBytes (g.first.getD 0) 8 ++ toBytes (s.time - (g.elapsed s.time - g.timeout)) 8 ++ toBytes 0 8 ++
    ms.flatMap fun m =>
      let left := (Map.get? g.left (memKey m)).getD 0
      let arr := (Map.get? g.arrived (memKey m)).getD 0
      let pm := (Map.get? g.presented (memKey m)).getD 0
      let live := memberLive s g m
      let miss := (if pm = 0 then maskOf live else pm &&& ~~~arr) &&& ~~~left
      let lanes := (List.range 32).filter fun l => miss.getLsbD l
      toBytes (setMember s g m) 1 ++ toBytes m.2 1 ++ toBytes 0 2 ++ toBytes pm.toNat 4 ++ toBytes miss.toNat 4 ++
        toBytes (maskOf (lanes.filter fun l => !live.contains l)).toNat 4 ++ lanes.flatMap fun l => toBytes (memberPc s g m l) 8

/-- The threads that trap when a phase times out (R170), lowest first: blocked in an arrival or a wait on the phase. -/
def bartimeThreads (s : State) (g : Nat) (x : Group) : List Nat :=
  barOrder s ((s.onGroup g).filter fun t =>
    match (s.thr t).status with
    | .blocked (.bar _ tok _ arrived _) => (arrived || tok == x.phase) && !x.isDone tok
    | _ => false)

/-- R170, R444: the blocked threads of the phase trap, the lowest with the diagnostic block, and the group breaks. -/
def bartimeFires (s : State) (g : Nat) (x : Group) : State :=
  let ts := bartimeThreads s g x
  let info : TrapInfo := { trap := .bartime, detail := x.entry * 65536 + x.handle }
  let traps := (List.range ts.length).map fun i =>
    (ts.getD i 0, if i = 0 then { info with diag := diagBlock s x } else info)
  breakGroup (raise s traps) g

/-- BARTIME (R170). -/
def execBartime (g : Nat) (s : State) : Out :=
  match s.group? g with
  | none => idle "BARTIME"
  | some x => if x.due s.time then .next (bartimeFires s g x) else idle "BARTIME"

/-! Stages and queues. -/

/-- What an object operand comes to (R201). -/
def objLane (s : State) (t : Nat) (m : SOp) (n : Nat) (use : Option TrapInfo) : Except TrapInfo Nat :=
  let va := addr32 (s.r32 t m.base) m.ofs
  match objScratch s t m.clus va n with
  | none => .error (protAt va 2)
  | some a =>
    if va % n ≠ 0 then .error { trap := .align, addr := va }
    else match use with
      | some i => .error i
      | none => .ok a

/-- A thread belongs to an object it uses (R182); another member's object ends revocability (R413). -/
def useObj (s : State) (t key : Nat) : State :=
  let s := if (ownOffset s t (objAddr key)).isNone then s.irrevocable (s.billetKey (crewOf t)) else s
  if s.objUse.contains (t, key) then s else { s with objUse := s.objUse ++ [(t, key)] }

/-- A word on objects (R201): `mk` gives one lane's act on the object at an address, or its trap. -/
def objWord (size : Nat) (queue : Bool) (h : Head) (d : Reg) (n : Nat) (m : SOp) (src : Bool) (attr : WordAttr)
    (mk : State → State → List Nat → Nat → Nat → Except TrapInfo State) (s : State) : Out :=
  issueWord s h { attr with group := 3, regs := [(m.base, 1), (d, n)], wait := true } fun s ts =>
    ts.foldl (fun (o : WordOut) t =>
      match objLane s t m size (consumed s t ((m.base, 1) :: (if src then [(d, n)] else []))) with
      | .error i => { o with traps := o.traps ++ [(t, i)] }
      | .ok a =>
        match mk s (useObj o.s t (2 * a + queue.toNat)) ts t a with
        | .ok s' => { o with s := s' }
        | .error i => { o with traps := o.traps ++ [(t, i)] }) { s := s }

/-- Stage updates (R212): in flight until applied at the scratchpad. -/
def stageWord (f : W32 → StageUpd) (h : Head) (d : Reg) (m : SOp) (s : State) : Out :=
  objWord 16 false h d 1 m true { group := 3, var := true, cmp := .compare } (fun s s' _ t a =>
    .ok (s'.addOp t h.dc.val (.stage a (f (s.r32 t d))) [])) s

/-- STGINIT (R212). -/
def execStginit (h : Head) (d : Reg) (m : SOp) (s : State) : Out := stageWord (fun v => .init (v.toNat % 65536)) h d m s

/-- STGOWE (R212). -/
def execStgowe (h : Head) (d : Reg) (m : SOp) (s : State) : Out := stageWord (fun v => .owe v.toNat) h d m s

/-- STGADD (R212). -/
def execStgadd (h : Head) (d : Reg) (m : SOp) (s : State) : Out := stageWord (fun v => .add v.toInt) h d m s

/-- STGARV (R212). -/
def execStgarv (h : Head) (m : SOp) (s : State) : Out := stageWord (fun _ => .arrive) h .z m s

/-- STGINVAL (R212). -/
def execStginval (h : Head) (m : SOp) (s : State) : Out := stageWord (fun _ => .inval) h .z m s

/-- STGTRY (R213). -/
def execStgtry (h : Head) (d : Reg) (m : SOp) (s : State) : Out :=
  objWord 16 false h d 1 m true { group := 3, var := true, cmp := .compare, passes := true, dsts := [d] } (fun s s' ts t a =>
    let dst := laneDst ts t d
    .ok (s'.addOp t h.dc.val (.stgTry a ((s.r32 t d).getLsbD 16) dst) (destsOf dst 1))) s

/-- STGWAIT (R213). -/
def execStgwait (h : Head) (d : Reg) (m : SOp) (s : State) : Out :=
  objWord 16 false h d 1 m true { group := 3, cmp := .compare, passes := true, dsts := [d], settle := some 0 }
    (fun s s' ts t a =>
      .ok (wakeStage (block s' t (curWidx s) (.stage a ((s.r32 t d).getLsbD 16) (laneDst ts t d))) a)) s

/-- The checks of QINIT (R214). -/
def qinitTrap (s : State) (t a : Nat) (m : SOp) (v : W64) : Option TrapInfo :=
  let va := addr32 (s.r32 t m.base) m.ofs
  let ring := v.toNat % 2 ^ 32
  let cap := v.toNat / 2 ^ 32 % 65536
  let size := if v.getLsbD 48 then 32 else 16
  let pow := (List.range 12).any fun k => cap == 2 ^ (k + 1)
  let al := allocOf s a
  let room := match s.billets.find? fun e => decide (e.1 / 4 = al.1) && decide (e.2.scratchBase = al.2) with
    | some e => e.2.scratchSize
    | none => 0
  if !pow || ring % size ≠ 0 then some { trap := .align, addr := va }
  else if room < ring + cap * size then some (protAt va 2)
  else none

/-- QINIT (R214). -/
def execQinit (h : Head) (d : Reg) (m : SOp) (s : State) : Out :=
  objWord 32 true h d 2 m true { group := 3, var := true, cmp := .compare } (fun s s' _ t a =>
    let v := s.r64 t d
    match qinitTrap s t a m v with
    | some i => .error i
    | none => .ok (s'.addOp t h.dc.val (.qinit a (v.toNat % 2 ^ 32) (v.toNat / 2 ^ 32 % 65536) (v.getLsbD 48)) [])) s

/-- The v register of a payload quad. -/
def vIndex : Reg → Nat
  | .v n => n
  | _ => 0

/-- QPUSH and QPUSH.W (R215). -/
def pushWord (wide : Bool) (h : Head) (d : Reg) (m : SOp) (s : State) : Out :=
  let n := if wide then 8 else 4
  let st := vIndex d + n
  issueWord s h { group := 3, regs := [(m.base, 1), (d, n + 1)], dsts := [.v st], wait := true, cmp := .compare, passes := true,
                  settle := some 3 } fun s ts =>
    ts.foldl (fun (o : WordOut) t =>
      match objLane s t m 32 (consumed s t [(m.base, 1), (d, n)]) with
      | .error i => { o with traps := o.traps ++ [(t, i)] }
      | .ok a =>
        if (o.s.queueAt a).wide != wide then
          { o with traps := o.traps ++ [(t, { trap := .align, addr := addr32 (s.r32 t m.base) m.ofs })] }
        else
          let s' := useObj o.s t (2 * a + 1)
          let s' := block (s'.carry (objKey (2 * a + 1)) t s'.seq) t (curWidx s) (.qpush a wide (s.rN t d n) st s'.seq)
          { o with s := queueChanged (journalQueue { s' with seq := s'.seq + 1 } t a) a }) { s := s }

/-- QPUSH (R215). -/
def execQpush (h : Head) (d : Reg) (m : SOp) (s : State) : Out := pushWord false h d m s

/-- QPUSH.W (R215). -/
def execQpushW (h : Head) (d : Reg) (m : SOp) (s : State) : Out := pushWord true h d m s

/-- QPOP and QPOP.W (R215). -/
def popWord (wide : Bool) (h : Head) (d : Reg) (m : SOp) (s : State) : Out :=
  let n := if wide then 8 else 4
  let st := vIndex d + n
  issueWord s h { group := 3, regs := [(m.base, 1), (d, n + 1)], dsts := [d, .v st], wait := true, cmp := .compare,
                  passes := true, settle := some 0 } fun s ts =>
    ts.foldl (fun (o : WordOut) t =>
      match objLane s t m 32 (consumed s t [(m.base, 1)]) with
      | .error i => { o with traps := o.traps ++ [(t, i)] }
      | .ok a =>
        if (o.s.queueAt a).wide != wide then
          { o with traps := o.traps ++ [(t, { trap := .align, addr := addr32 (s.r32 t m.base) m.ofs })] }
        else
          let s' := useObj o.s t (2 * a + 1)
          let s' := block s' t (curWidx s) (.qpop a wide (vIndex d) st s'.seq)
          { o with s := queueChanged (journalQueue { s' with seq := s'.seq + 1 } t a) a }) { s := s }

/-- QPOP (R215). -/
def execQpop (h : Head) (d : Reg) (m : SOp) (s : State) : Out := popWord false h d m s

/-- QPOP.W (R215). -/
def execQpopW (h : Head) (d : Reg) (m : SOp) (s : State) : Out := popWord true h d m s

/-- QTRYPUSH (R215). -/
def execQtrypush (h : Head) (d : Reg) (m : SOp) (s : State) : Out :=
  let st := vIndex d + 8
  issueWord s h { group := 3, regs := [(m.base, 1), (d, 9)], dsts := [.v st], var := true, wait := true, cmp := .compare,
                  passes := true } fun s ts =>
    ts.foldl (fun (o : WordOut) t =>
      match objLane s t m 32 (consumed s t [(m.base, 1)]) with
      | .error i => { o with traps := o.traps ++ [(t, i)] }
      | .ok a =>
        match consumed s t [(d, if (s.queueAt a).wide then 8 else 4)] with
        | some i => { o with traps := o.traps ++ [(t, i)] }
        | none =>
          { o with s := (useObj o.s t (2 * a + 1)).addOp t h.dc.val (.qtryPush a (s.rN t d 8) st) [.v st] }) { s := s }

/-- QTRYPOP and QPEEK (R215). -/
def tryPopWord (peek : Bool) (h : Head) (d : Reg) (m : SOp) (s : State) : Out :=
  let b := vIndex d
  objWord 32 true h d 9 m false { group := 3, var := true, cmp := .compare, passes := true, dsts := [d, .v (b + 8)] }
    (fun _ s' _ t a => .ok (s'.addOp t h.dc.val (.qtryPop a peek b (b + 8)) ((List.range 9).map fun k => .v (b + k)))) s

/-- QTRYPOP (R215). -/
def execQtrypop (h : Head) (d : Reg) (m : SOp) (s : State) : Out := tryPopWord false h d m s

/-- QPEEK (R215). -/
def execQpeek (h : Head) (d : Reg) (m : SOp) (s : State) : Out := tryPopWord true h d m s

/-- QCOUNT (R215). -/
def execQcount (h : Head) (d : Reg) (m : SOp) (s : State) : Out :=
  objWord 32 true h d 1 m false { group := 3, var := true, cmp := .compare, passes := true, dsts := [d] } (fun _ s' ts t a =>
    let dst := laneDst ts t d
    .ok (s'.addOp t h.dc.val (.qcount a dst) (destsOf dst 1))) s

/-- QBREAK (R214). -/
def execQbreak (h : Head) (m : SOp) (s : State) : Out :=
  objWord 32 true h .z 1 m false { group := 3, var := true, cmp := .compare } (fun _ s' _ t a =>
    .ok (s'.addOp t h.dc.val (.qbreak a) [])) s

/-! Waits and monitors. -/

/-- The check of WAITV's descriptors by R201. -/
def descTrap (s : State) (t : Nat) (d : W32) : Option TrapInfo :=
  let a := d.toNat % 2 ^ 23
  let chk (va n : Nat) : Option TrapInfo :=
    match objScratch s t (d.getLsbD 23) va n with
    | none => some (protAt va 2)
    | some _ => if va % n = 0 then none else some { trap := .align, addr := va }
  match descKind d with
  | 1 => chk (a / 2 * 2) 16
  | 2 => chk a 32
  | 3 => chk a 32
  | _ => none

/-- WAITV (R218). -/
def waitvWord (all : Bool) (h : Head) (d a b c : Reg) (s : State) : Out :=
  issueWord s h { group := 3, regs := [(d, 1), (a, 4), (b, 1), (c, 2)], dsts := [d], wait := true, cmp := .compare,
                  passes := true, settle := some 0 } fun s ts =>
    let use (t : Nat) : Option TrapInfo :=
      ((s.rN t a 4).findSome? (descTrap s t)).or (consumed s t [(a, 4), (b, 1), (c, 2)])
    let good := ts.filter fun t => (use t).isNone
    let s1 := good.foldl (fun s' t =>
      block s' t (curWidx s) (.waitv all (s.rN t a 4) s.time (s.r32 t b) (s.r64 t c) (laneDst ts t d))) s
    { s := wakeWaitv s1, traps := ts.filterMap fun t => (use t).map fun i => (t, i) }

/-- WAITV.ANY (R218). -/
def execWaitvAny (h : Head) (d a b c : Reg) (s : State) : Out := waitvWord false h d a b c s

/-- WAITV.ALL (R218). -/
def execWaitvAll (h : Head) (d a b c : Reg) (s : State) : Out := waitvWord true h d a b c s

/-- A blocked WAITV is tested again as time passes. -/
def waitvTick (e : String) (t : Nat) (s : State) : Out :=
  match (s.thr t).status with
  | .blocked (.waitv all ds t0 tmo dl dst) =>
    match waitvTest s t all ds t0 tmo dl with
    | some w => .next (release s t (wr32 dst w false))
    | none => idle e
  | _ => idle e

/-- WAITV_TIMEOUT (R218). -/
def execWaitvTimeout (t : Nat) (s : State) : Out := waitvTick "WAITV_TIMEOUT" t s

/-- WAITV_DEADLINE (R218): a condition on domain time comes to hold. -/
def execWaitvDeadline (t : Nat) (s : State) : Out := waitvTick "WAITV_DEADLINE" t s

/-- MONITOR (R219): armed once it lands; a page that cannot be read arms it fired. -/
def execMonitor (h : Head) (mn : Fin 2) (base : Reg) (ofs : BitVec 24) (s : State) : Out :=
  issueWord s h { group := 3, regs := [(base, 2)], var := true, wait := true, cmp := .load } fun s ts =>
    let va (t : Nat) : Nat := addr64 (s.r64 t base) ofs
    let use (t : Nat) : Option TrapInfo :=
      (if canonical (va t) then none else some (protAt (va t) 0)).or (consumed s t [(base, 2)])
    { s := (ts.filter fun t => (use t).isNone).foldl (fun s' t =>
        match translate s (s.ctxOf (crewOf t)) (s.crew (crewOf t)).priv .read (va t) with
        | .ok pa _ _ => s'.addOp t h.dc.val (.monitor mn.val (lineOf pa) false) []
        | _ => s'.addOp t h.dc.val (.monitor mn.val 0 true) []) (noteLanes s ts va 1),
      traps := ts.filterMap fun t => (use t).map fun i => (t, i) }

/-- UNMONITOR (R219). -/
def execUnmonitor (h : Head) (mask : Fin 4) (s : State) : Out :=
  issueWord s h { group := 3, wait := true } fun s ts =>
    { s := ts.foldl (fun s t => s.updThr t fun x =>
        { x with mon0 := if mask.val % 2 = 1 then {} else x.mon0, mon1 := if 2 ≤ mask.val then {} else x.mon1 }) s }

/-- MONTEST (R219). -/
def execMontest (h : Head) (d : Reg) (s : State) : Out :=
  issueWord s h { group := 3, regs := [(d, 1)], dsts := [d], wait := true, cmp := .load, passes := true } fun s ts =>
    { s := ts.foldl (fun s' t =>
        let x := s.thr t
        let w : Nat := x.mon0.fired.toNat + 2 * x.mon1.fired.toNat + 256 * x.mon0.armed.toNat + 512 * x.mon1.armed.toNat
        s'.giveRegs t (keepS ts t (wr32 d (BitVec.ofNat 32 w) false))) s }

/-- SLEEP (R220). -/
def execSleep (h : Head) (b : OpB) (s : State) : Out :=
  issueWord s h { group := 3, regs := b.regs 1, wait := true } fun s ts =>
    let use (t : Nat) : Option TrapInfo := consumed s t (b.regs 1)
    { s := (ts.filter fun t => (use t).isNone).foldl (fun s' t =>
        let n := (s.b32 t b).toNat
        if n = 0 then jump s' t (curClause s).next else block s' t (curWidx s) (.sleep (s.time + n))) s,
      traps := ts.filterMap fun t => (use t).map fun i => (t, i) }

/-- SLEEP_WAKE (R220). -/
def execSleepWake (t : Nat) (s : State) : Out :=
  match (s.thr t).status with
  | .blocked (.sleep til) => if til ≤ s.time then .next (release s t []) else idle "SLEEP_WAKE"
  | _ => idle "SLEEP_WAKE"

/-! Landing. -/

/-- R182: STGINIT or QINIT leaves its object with the threads that use it from then on: the one that executed it (log 77), and
those with an operation on it that comes after. -/
def forgetUsers (s : State) (p : Pend) : State :=
  match p.op with
  | .stage a (.init _) => keepUsers (2 * a)
  | .qinit a _ _ _ => keepUsers (2 * a + 1)
  | _ => s
where
  keepUsers (key : Nat) : State :=
    { s with objUse := s.objUse.filter fun e => e.2 != key || e.1 == p.tid ||
        s.pend.any fun q => q.tid == e.1 && q.id != p.id && !q.done && q.op.obj? == some key }

/-- An act on an object that others synchronise with: an arrival, bytes owed, or a push (R174, R176). -/
def POp.publishes : POp → Bool
  | .stage _ .arrive => true
  | .stage _ (.owe _) => true
  | .qtryPush .. => true
  | _ => false

/-- What an act on an object carries to others, or observes (R252). -/
def objActs (s : State) (p : Pend) : State :=
  match p.op.obj? with
  | none => s
  | some k =>
    match p.op with
    | .stgTry .. => s.learnFrom (objKey k) p.tid p.id
    | .qtryPop .. => s.learnFrom (objKey k) p.tid p.id
    | op => if op.publishes then s.carry (objKey k) p.tid p.id else s

/-- The copies of a line that CCTL reaches (R281): L1s of the issuing core, its cluster or the part, and with these the line at its
home slice. What they hold modified goes to the next level; `.wbi` removes them. -/
def cctlLine (t : Nat) (inv : Bool) (lvl : Nat) (s : State) (l : Nat) : State :=
  let mine (agent : Nat) : Bool :=
    if lvl ≤ 2 then agent == agentOf s (coreOf t)
    else if lvl = 3 then (if agent < 1024 then agent / 4 else agent - 1024) == coreOf t / 4
    else true
  let s := match (s.home l).dir with
    | .i => s
    | .p ms => (ms.map Prod.fst).foldl (fun s a => probeDone (loseLine s l (agentCores a)) l a true) s
    | .s set => if inv then (set.filter mine).foldl (fun s a => probeDone (loseLine s l (agentCores a)) l a true) s else s
    | .m b =>
      if !mine b then s else if inv then probeDone (loseLine s l (agentCores b)) l b true else probeDone s l b false
  let s := if inv then ((s.copies.filter fun e => e.1 % 2 ^ 45 == l && mine (e.1 / 2 ^ 45)).map Prod.fst).foldl
    (fun s k => dropCopy s (k / 2 ^ 45) l) s else s
  if lvl < 4 then s
  else
    let s := writeBack s l
    if !inv then s
    else
      let s : State := { s with
        stale := s.stale.filter fun c => c.1 / 128 != l
        ctxs := s.ctxs.map fun e => (e.1, { e.2 with mix := Map.del e.2.mix l }) }
      s.updHome l fun h =>
          { h with dir := (match h.dir with | .s [] => .i | d => d), count := (match h.dir with | .s [] => 0 | _ => h.count),
                   l2 := false, hold := .no, dlease := 0 }

/-- Operations that perform at a scratchpad or a thread's monitors, with what they deliver. A NOTYET status of a queue
word has VALUE 0 (R215, log 86). -/
def performSync (s0 : State) (p : Pend) : Option State :=
  let s := objActs s0 p
  if p.op.publishes && !settledBefore s0 p.tid p.id 3 then none else
  match p.op with
  | .stage a u => some ((stageUpdate (forgetUsers (s.journalFor p.tid .scratch a 16) p) a u).finish p.id [])
  | .stgTry a par dst =>
    let x := s.stage a
    let w := if x.broken then stWord 2 0 false else stWord (if x.phase = par then 1 else 0) x.phase.toNat false
    some (s.finish p.id (wr32 dst w false))
  | .qinit a ring cap wide =>
    let ts := s.blockedBy fun w => (pushOrder a w).isSome || (popOrder a w).isSome
    let s := (s.journalFor p.tid .scratch a 32).setQueue a { s.queueAt a with broken := true }
    let s := ts.foldl (fun s t =>
      match (s.thr t).status with
      | .blocked (.qpush _ _ _ st _) => release s t (wr32 (.v st) (stWord 2 0 false) false)
      | .blocked (.qpop _ _ _ st _) => release s t (wr32 (.v st) (stWord 2 0 false) false)
      | _ => s) s
    let s := s.setQueue a { head := 0, tail := 0, cap := cap, wide := wide, broken := false, ring := ring }
    some ((queueChanged (forgetUsers s p) a).finish p.id [])
  | .qtryPush a pl st =>
    let q := s.queueAt a
    if q.broken then some (s.finish p.id (wr32 (.v st) (stWord 2 0 false) false))
    else if q.space = 0 then some (s.finish p.id (wr32 (.v st) (stWord 1 0 false) false))
    else
      let s := queuePush (journalQueue s p.tid a) a pl
      some ((queueChanged s a).finish p.id (wr32 (.v st) (stWord 0 (s.queueAt a).space false) false))
  | .qtryPop a peek b st =>
    let q := s.queueAt a
    if q.broken then some (s.finish p.id (wr32 (.v st) (stWord 2 0 false) false))
    else if q.count = 0 then some (s.finish p.id (wr32 (.v st) (stWord 1 0 false) false))
    else
      let ws := headEntry s a
      let s := if peek then s else queueDrop (journalQueue s p.tid a) a
      let n := (s.queueAt a).count
      some ((if peek then s else queueChanged s a).finish p.id
        (wrN (.v b) ws false ++ wr32 (.v st) (stWord 0 n false) false))
  | .qcount a dst =>
    let q := s.queueAt a
    some (s.finish p.id (wr32 dst (if q.broken then stWord 2 0 false else stWord 0 q.count false) false))
  | .qbreak a => some ((queueChanged ((s.journalFor p.tid .scratch a 32).markBroken (2 * a + 1)) a).finish p.id [])
  | .monitor m line fired =>
    let mon : Monitor := { armed := true, fired := fired, line := line }
    some (wakeWaitv ((s.updThr p.tid fun x => if m = 0 then { x with mon0 := mon } else { x with mon1 := mon }).finish p.id []))
  | .cctl lines inv sc => some ((lines.foldl (cctlLine p.tid inv sc.level) s).finish p.id [])
  | _ => none

/-- A scratchpad access performs where it lands. -/
def performLocal (s : State) (p : Pend) : Option State :=
  match p.op.acc? with
  | some a => if a.space = .scratch then some (performOp s p) else none
  | none => performSync s p

/-- An operation that may act at scratchpad lines, some of which an engine owns, waits there; the next engine comes after it
(R247). -/
def State.waitScratch (s : State) (p : Pend) : Option State :=
  let new := (p.op.lines.filter fun l => l.1 == .scratch && ownedLine s .scratch l.2 && !s.scratchWait.contains (l.2, p.id))
  if inOrder s p && !new.isEmpty then
    some (new.foldl (fun s l => noteRecall s p l) { s with scratchWait := s.scratchWait ++ new.map fun l => (l.2, p.id) }) else none

/-- VARLAT_LAND (R34): an operation whose result is there lands; one that acts at a scratchpad performs first. -/
def execVarlatLand (id : Nat) (s : State) : Out :=
  match s.pend? id with
  | none => idle "VARLAT_LAND"
  | some p => orConsume s p <|
    let acts := if p.done then none
      else if ready s p then
        (performLocal s p).map fun s => { s with scratchWait := s.scratchWait.filter fun e => e.2 != id }
      else s.waitScratch p
    let s' := acts.getD s
    match s'.pend? id with
    | none => .next (completeAll s')
    | some q => if landable s' q then .next (landOp s' id) else if acts.isSome then .next s' else idle "VARLAT_LAND"

end Sys2Proof.Machine
end

