-- ==== Sys2Proof/Machine/Fetch.lean ====
section
/-!
DEFINITION. From clause to bundle: the fetch and its checks (R50, R51, R334), breakpoints (R442), the gathering stage
(R156 to R160), aging and the start of handler crews (R404).
-/
namespace Sys2Proof.Machine

/-- One step of the CRC of R23: a byte enters, most significant bit first. -/
def crcBit (c : Nat) : Nat := if c / 32768 % 2 = 1 then Nat.xor (c * 2 % 65536) 0x1021 else c * 2 % 65536

def crcByte (c : Nat) (b : Byte) : Nat :=
  crcBit (crcBit (crcBit (crcBit (crcBit (crcBit (crcBit (crcBit (Nat.xor c (b.toNat * 256)))))))))

/-- R23, over the bytes of the words. -/
def crc16 (bs : List Byte) : Nat := bs.foldl crcByte 0xFFFF

/-- The opcodes marked X (R71, R72, R76). -/
def isXfer (op : Nat) : Bool :=
  (decide (0x080 ≤ op) && decide (op ≤ 0x086)) || op == 0x088 || op == 0x089 || op == 0x08B || op == 0x0C0 || op == 0x0C3 ||
    op == 0x0C7 || op == 0x0CE || (decide (0x0D1 ≤ op) && decide (op ≤ 0x0D4)) || op == 0x0DA || op == 0x0DB || op == 0x0DF ||
    (decide (0x1C0 ≤ op) && decide (op ≤ 0x1C3)) || op == 0x1D2

def clsOf (n : Nat) : Cls :=
  match n % 4 with
  | 0 => .vec | 1 => .cpy | 2 => .mtx | _ => .sys

def Role.cls : Role → Cls
  | .vec => .vec | .cpy => .cpy | .mtx => .mtx

def wordOp (w : Nat) : Nat := w / 2 ^ 55 % 512

/-- A header and its words as a clause. -/
def mkClause (pc : BitVec 57) (h : Nat) (ws : List Nat) : Clause :=
  { pc := pc, cls := clsOf (h / 2 ^ 58), waits := (List.range 6).map fun k => h / 2 ^ (36 + 3 * k) % 8,
    yld := h / 2 ^ 34 % 2 == 1, xfer := h / 2 ^ 35 % 2 == 1, words := ws }

/-- What a fetch comes to. -/
inductive FetchOut where
  | ok (c : Clause)
  | trap (i : TrapInfo)
  | park (va : Nat)
  /-- A clause of another class: the one after it (R334). -/
  | pass (next : BitVec 57)

/-- The outcome of execute permission over [va, va + n): PROT, a page fault, or none. -/
def fetchStop (s : State) (c priv va n : Nat) : Option FetchOut :=
  match firstStop s c priv .fetch va (n / 8) with
  | none => none
  | some (a, .prot d) => some (.trap (protAt a d))
  | some (a, _) => some (.park a)

def wordsOf (bs : List Byte) : Nat → List Nat
  | 0 => []
  | n + 1 => ofBytes (bs.take 8) :: wordsOf (bs.drop 8) n

def icKey (s : State) (t : Nat) (pc : BitVec 57) : Nat := (coreOf t * 1024 + s.ctxOf (crewOf t)) * 2 ^ 57 + pc.toNat

/-- What a fetch finds of a clause where the instruction cache holds another version of it (R37): memory's words, the cached
ones, or a mix, word by word; word 0 is the header. -/
def clauseWord (s : State) (t : Nat) (pc : BitVec 57) (i now : Nat) : Nat :=
  match s.icache.get? (icKey s t pc) with
  | none => now
  | some old =>
    match Config.pick s.fresh t pc.toNat % 3, old[i]? with
    | 0, some w => w
    | 1, some w => if Config.pick s.fresh t (pc.toNat + 8 * i) % 2 = 1 then w else now
    | _, _ => now

/-- FetchClause (R51) at a PC; the class check is last. A fetch that looks for the first clause of the crew's role makes only
the checks before it of the clauses it passes over (R334). -/
def fetchClause (s : State) (t : Nat) (select : Bool) (pc : BitVec 57) : FetchOut × List Nat :=
  let c := s.ctxOf (crewOf t)
  let cr := s.crew (crewOf t)
  let va := (pc64 pc).toNat
  match fetchStop s c cr.priv va 8 with
  | some o => (o, [])
  | none =>
    let h := clauseWord s t pc 0 (ofBytes ((readVa s c cr.priv .fetch va 8).getD []))
    let n := h / 2 ^ 54 % 16 + 1
    let mal (k : Nat) : FetchOut := .trap { trap := .malformed, cause := k }
    if h / 2 ^ 60 % 16 ≠ 12 then (mal 1, [h])
    else if h / 2 ^ 32 % 4 ≠ 0 ∨ h % 65536 ≠ 0 then (mal 2, [h])
    else match fetchStop s c cr.priv ((va + 8) % 2 ^ 64) (8 * n) with
      | some o => (o, [h])
      | none =>
        let crcOk (w : List Nat) : Bool := crc16 (w.flatMap fun x => toBytes x 8) == h / 65536 % 65536
        let again := wordsOf ((readVa s c cr.priv .fetch ((va + 8) % 2 ^ 64) (8 * n)).getD []) n
        let first := (List.range n).map fun i => clauseWord s t pc (i + 1) (again.getD i 0)
        let body := if crcOk first then first else again
        if !crcOk body then (.trap { trap := .fetchecc, addr := va }, h :: body)
        else
          let mid := (List.range (n - 1)).any fun k => isXfer (wordOp (body.getD k 0))
          let last := isXfer (wordOp (body.getD (n - 1) 0))
          let cl := mkClause pc h body
          if mid || last != cl.xfer then (mal 3, h :: body)
          else if cl.cls = cr.role.cls then (.ok cl, h :: body)
          else if cl.cls ≠ .sys ∨ select then (.pass cl.next, h :: body)
          else (if cr.priv ≤ 1 then .ok cl else .trap { trap := .cls, cause := 0x11 }, h :: body)

/-- R334: the first clause of the crew's role among four. -/
def fetchSelect (s : State) (t : Nat) (select : Bool) (pc : BitVec 57) : Nat → FetchOut × BitVec 57 × List Nat
  | 0 => (.trap { trap := .cls, cause := 0x10 }, (s.thr t).pc, [])
  | n + 1 =>
    let r := fetchClause s t select pc
    match r.1 with
    | .pass next => fetchSelect s t select next n
    | o => (o, pc, r.2)

/-- The first breakpoint register that stops a thread at a clause (R442): one it does not pass there (R425). -/
def breakpointAt (s : State) (t : Nat) (pc : BitVec 57) : Option Nat :=
  let passed := match (s.thr t).bpPass with
    | some (p, ns) => if p = pc then ns else []
    | none => []
  (List.range 4).find? fun n =>
    let b := (s.ctx (s.ctxOf (crewOf t))).bp.getD n 0
    b.getLsbD 63 && b.toNat % 2 ^ 57 / 8 == pc.toNat / 8 && !passed.contains n

/-- The trap of a breakpoint register (R442). -/
def breakInfo (n : Nat) : TrapInfo := { trap := .brk, detail := 0xFFFFFFF0 + n }

/-- A thread stopped by a breakpoint register, which it passes once when it resumes there (R425). -/
def Thread.stoppedBy (x : Thread) (pc : BitVec 57) (n : Nat) : Thread :=
  { x with bpPass := match x.bpPass with
      | some (p, ns) => if p = pc then some (pc, n :: ns) else some (pc, [n])
      | none => some (pc, [n]) }

/-- A thread holds the clause it has fetched, at its word; a word past the end of the clause is the next clause (R48). -/
def Thread.holds (x : Thread) (pc : BitVec 57) (c : Clause) : Thread :=
  if x.widx < c.words.length then { x with pc := pc, clause := some c, select := false }
  else { x with pc := c.next, widx := 0, clause := none, select := false, drain := false }

/-- FETCH_CLAUSE (R51): a ready thread without a clause fetches the one at its PC. -/
def execFetchClause (t : Nat) (s : State) : Out :=
  let th := s.thr t
  if th.status != .ready || th.clause.isSome || (s.threads.get? t).isNone || s.inFlight t then idle "FETCH_CLAUSE"
  else
    let r := fetchSelect s t th.select th.pc (if th.select then 4 else 1)
    let pc := r.2.1
    let c := s.ctxOf (crewOf t)
    let va := (pc64 pc).toNat
    let s := (s.noteTlb c va).noteTlb c ((va + 8 * (r.2.2.length - 1)) % 2 ^ 64)
    let s := if r.2.2.isEmpty then s else { s with icache := s.icache.set (icKey s t pc) r.2.2 }
    match r.1 with
    | .ok c =>
      match if th.widx = 0 then breakpointAt s t pc else none with
      | some n =>
        .next (raiseCompared (s.updThr t fun x => { x.stoppedBy pc n with pc := pc, select := false }) [(t, breakInfo n)])
      | none => .next (s.updThr t fun x => x.holds pc c)
    | .trap i => .next (raiseCompared (s.updThr t fun x => { x with pc := pc, widx := 0 }) [(t, i)])
    | .pass _ => .next (raiseCompared s [(t, { trap := .cls, cause := 0x10 })])
    | .park va => .next (parkThreads s [t] 0 3 0 (addSector [] va 8))

/-! The gathering stage. -/

/-- R32 step 2 for a fresh clause, R48 for a thread that goes on inside one or was resumed. -/
def countersOk (s : State) (t : Nat) (th : Thread) (c : Clause) : Bool :=
  if th.drain then (List.range 6).all fun k => counter s t (k + 1) == 0
  else if th.widx != 0 then true
  else (List.range 6).all fun k =>
    let w := c.waits.getD k 7
    w == 7 || decide (counter s t (k + 1) ≤ w)

/-- A leader whose assay queue is full is not ready (R416). -/
def assayFull (s : State) (t : Nat) : Bool :=
  s.crews.any fun e => e.2.leader == some (crewOf t) &&
    decide (64 ≤ (e.2.passed.filter fun p => p.1 == laneOf t).length)

/-- Where a thread stands: its bundle's place, or its own. -/
def State.place (s : State) (t : Nat) : BitVec 57 × Nat :=
  match s.bundles.find? fun b => b.2.tids.contains t with
  | some b => (b.2.clause.pc, b.2.widx)
  | none => ((s.thr t).pc, (s.thr t).widx)

/-- R407, R408: no bundle forms of the threads of a victim, but that an assay crew runs up to its leader. -/
def heldVictim (s : State) (t : Nat) : Bool :=
  ((s.billet? (crewOf t)).any Billet.victim) &&
    (match (s.crew (crewOf t)).leader with
     | none => true
     | some l => s.place t == s.place (l * 32 + laneOf t))

/-- R156, without the yield. -/
def readyBut (s : State) (t : Nat) (th : Thread) : Bool :=
  th.status == .ready && !th.suspended && !s.inFlight t && !strictOpen s t && !assayFull s t && !heldVictim s t &&
    (match th.clause with
     | none => false
     | some c => countersOk s t th c)

/-- R156: the hold of a yield covers the 4 gather cycles after it (R160). -/
def threadReady (s : State) (t : Nat) (th : Thread) : Bool :=
  readyBut s t th && (th.yieldTil == 0 || decide (th.yieldTil < (s.core (coreOf t)).gather))

/-- The port of a thread's next clause: 0 VEC, 1 OTHER. -/
def portOf (th : Thread) : Nat :=
  match th.clause with
  | some c => if c.cls = .vec then 0 else 1
  | none => 1

/-- What R157 groups by: billet position, role, PC, word and the clause as fetched. -/
structure GKey where
  pos : Nat
  role : Role
  pc : BitVec 57
  widx : Nat
  words : List Nat
  deriving DecidableEq, Repr

def gkey (s : State) (t : Nat) (th : Thread) : GKey :=
  { pos := (s.crew (crewOf t)).pos, role := (s.crew (crewOf t)).role, pc := th.pc, widx := th.widx,
    words := (th.clause.map Clause.words).getD [] }

/-- The thread kept in a lane: the aged one with the earliest ready time, else the one in the lowest slot (R157). -/
def keepOf (xs : List (Nat × Thread)) : Option (Nat × Thread) :=
  let aged := sortBy (fun a b : (Nat × Thread) => decide (a.2.readyAt ≤ b.2.readyAt)) (xs.filter fun x => x.2.aged)
  match aged with
  | x :: _ => some x
  | [] => (sortBy (fun a b : (Nat × Thread) => decide (slotOf a.1 ≤ slotOf b.1)) xs).head?

/-- The order of keys in R157 (smaller first). -/
def keyRank (s : State) (k : GKey) (kept : List (Nat × Thread)) : List Nat :=
  let aged := kept.filter fun x => x.2.aged
  let early := (aged.map fun x => x.2.readyAt).foldl min (2 ^ 64)
  let prio := (kept.map fun x => (s.crew (crewOf x.1)).prio.val).foldl max 0
  [if aged.isEmpty then 1 else 0, early, 3 - prio, 32 - kept.length, k.pos, k.pc.toNat, k.widx]

def lexLe : List Nat → List Nat → Bool
  | [], _ => true
  | _ :: _, [] => false
  | a :: as, b :: bs => if a < b then true else if b < a then false else lexLe as bs

/-- Gather (R157) for one port. -/
def gatherPort (core port : Nat) (s : State) : State :=
  if (s.bundles.get? (core * 2 + port)).isSome then s
  else
    let cand := s.threads.filter fun e => coreOf e.1 == core && threadReady s e.1 e.2 && portOf e.2 == port
    let keys := (cand.map fun e => gkey s e.1 e.2).dedup
    let kept (k : GKey) : List (Nat × Thread) :=
      (List.range 32).filterMap fun l => keepOf (cand.filter fun e => laneOf e.1 == l && gkey s e.1 e.2 == k)
    let best := (sortBy (fun a b : (GKey × List (Nat × Thread)) => lexLe (keyRank s a.1 a.2) (keyRank s b.1 b.2))
      (keys.map fun k => (k, kept k))).head?
    match best with
    | none => s
    | some (k, xs) =>
      match (xs.head?).bind fun x => x.2.clause with
      | none => s
      | some c =>
        let ts := xs.map Prod.fst
        let ctx := s.ctxOf (crewOf (ts.headD 0))
        let s := bumpPerf (bumpPerf s ctx core 0 1) ctx core 7 (xs.filter fun x => x.2.aged).length
        let b : Bundle := { tids := ts, widx := k.widx, clause := c }
        let s : State := { s with bundles := s.bundles.set (core * 2 + port) b }
        ts.foldl (fun s t => s.updThr t fun x => { x with aged := false, drain := false, bpPass := none, yieldTil := 0 }) s

/-- What a gather cycle makes of a thread of its core: one not ready becomes ready later, one ready for 256 cycles is aged
(R157). -/
def gatherNote (s : State) (now t : Nat) (x : Thread) : Thread :=
  if !readyBut s t x then { x with readyAt := now + 1, aged := false }
  else if x.readyAt + 256 ≤ now then { x with aged := true } else x

/-- Threads about to execute word 0 of a clause a breakpoint register names (R442). -/
def brokenAt (s : State) (core : Nat) : List (Nat × Nat) :=
  s.threads.filterMap fun e =>
    if coreOf e.1 == core && threadReady s e.1 e.2 && e.2.widx == 0 then (breakpointAt s e.1 e.2.pc).map fun n => (e.1, n)
    else none

/-- GATHER_CYCLE (R157): threads at a breakpoint stop there (R442), then each free port forms a bundle. -/
def execGatherCycle (core : Nat) (s : State) : Out :=
  if (s.core core).retired && s.threads.all (fun e => coreOf e.1 != core) then idle "GATHER_CYCLE"
  else
    let s := s.updCore core fun c => { c with gather := c.gather + 1 }
    let now := (s.core core).gather
    let s1 : State := { s with
      threads := s.threads.map fun e => if coreOf e.1 = core then (e.1, gatherNote s now e.1 e.2) else e }
    let bs := brokenAt s1 core
    let s2 := bs.foldl (fun s b => s.updThr b.1 fun x => x.stoppedBy x.pc b.2) s1
    let s3 := if bs.isEmpty then s1 else raiseCompared s2 (bs.map fun b => (b.1, breakInfo b.2))
    .next (gatherPort core 1 (gatherPort core 0 s3))

/-- THREAD_AGED (R157): ready for 256 gather cycles without issuing. -/
def execThreadAged (t : Nat) (s : State) : Out :=
  let th := s.thr t
  if readyBut s t th && !th.aged && decide (th.readyAt + 256 ≤ (s.core (coreOf t)).gather) then
    .next (s.updThr t fun x => { x with aged := true })
  else idle "THREAD_AGED"

/-- YIELD_HOLD_EXPIRE (R160). -/
def execYieldHoldExpire (t : Nat) (s : State) : Out :=
  let th := s.thr t
  if th.yieldTil != 0 && decide (th.yieldTil ≤ (s.core (coreOf t)).gather) then
    .next (s.updThr t fun x => { x with yieldTil := 0 })
  else idle "YIELD_HOLD_EXPIRE"

/-- Records of a context that stand unread for a core, whose threads' earlier operations are over (R46). -/
def unreadOn (s : State) (c core : Nat) : Bool :=
  let x := s.ctx c
  x.served.any fun r => r.2.1 == core && decide ((BitVec.ofNat 32 r.1 - x.trapHead).toNat < x.trapUsed) &&
    (match r.2.2 with | some t => s.drained t | none => true)

/-- HANDLER_START (R404): a handler crew of a context starts on a core that serves one of its records. -/
def execHandlerStart (core c : Nat) (s : State) : Out :=
  let x := s.ctx c
  if (s.core core).handlerCtx.isSome || !x.live || x.handler = 0 || !unreadOn s c core then idle "HANDLER_START"
  else
    let cid := core * 32 + handlerSlot
    let s := s.updCore core fun k => { k with handlerCtx := some c, gated := false }
    let s := s.setCrew cid { prio := 3, role := .vec, budget := 64, width := 1, number := 0, pos := 4, priv := 1 }
    .next (s.setThr (cid * 32) { pc := BitVec.ofNat 57 (x.handler.toNat % 2 ^ 57 / 8 * 8),
                                 readyAt := (s.core core).gather })

end Sys2Proof.Machine
end

