-- ==== Sys2Proof/Machine/Launch.lean ====
section
/-!
DEFINITION. From launch packet to resident billet: the queues and their registers (R184, R185, R198), the checks of a
packet (R188), dependencies and conditions (R189, R190), Pick and placement (R192, R193), victims (R195) and misses (R194).
-/
namespace Sys2Proof.Machine

/-! Packet fields (R186). -/

def pktRole (p : BitVec 512) (c : Nat) : Nat := pkt p (352 + 2 * c) 2
def pktBudget (p : BitVec 512) (role : Nat) : Nat :=
  match role with
  | 1 => pkt p 155 5
  | 2 => pkt p 150 5
  | _ => pkt p 145 5
def pktArgs (p : BitVec 512) : Nat := pkt p 64 64
def pktSet (p : BitVec 512) : Nat := pkt p 59 2 + 1
def pktBillets (p : BitVec 512) : Nat := pkt p 168 24 + 1
def pktScratch (p : BitVec 512) : Nat := pkt p 160 8 * 4096
def pktAssay (p : BitVec 512) : Bool := p.getLsbD 63
def pktFused (p : BitVec 512) : Bool := p.getLsbD 62
def pktCrews (p : BitVec 512) : List Nat := (List.range 16).filter fun c => pktRole p c != 0
def pktMtx (p : BitVec 512) : Bool := (pktCrews p).any fun c => pktRole p c == 3
def roleOf (n : Nat) : Role :=
  match n with
  | 2 => .cpy
  | 3 => .mtx
  | _ => .vec

/-! Group-table entries (R164). -/

def geValid (e : BitVec 128) : Bool := e.getLsbD 103
def geHandle (e : BitVec 128) : Nat := e.toNat / 2 ^ 96 % 4
def geTimeout (e : BitVec 128) : Nat := let t := e.toNat / 2 ^ 64 % 2 ^ 32; if t = 0 then 1000000 else t
def geMembers (e : BitVec 128) : List (Nat × Nat) :=
  ((List.range 64).filter fun i => e.getLsbD i).map fun i => (i / 16, i % 16)

/-- R165: whether the table may be launched. -/
def tableOk (p : BitVec 512) (t : List (BitVec 128)) : Bool :=
  let vs := t.filter geValid
  let all := vs.flatMap fun e => (geMembers e).map fun m => (m, geHandle e)
  vs.all (fun e => !(geMembers e).isEmpty && (geMembers e).all fun m => decide (m.1 < pktSet p) && pktRole p m.2 != 0) &&
    all.dedup.length == all.length && all.all fun x => decide ((all.filter fun y => y.1 == x.1).length ≤ 4)

/-! Queues: 0 to 15, and the amplification ring as 16 (R198). -/

def queueCtx (s : State) (f q : Nat) : Nat :=
  if q = 16 then (((s.tenant f).amp.head?).map Prod.snd).getD 0
  else f * 16 + (s.tenant f).bind.toNat / 2 ^ (4 * q) % 16

def queueOn (s : State) (f q : Nat) : Bool := if q = 16 then (s.tenant f).ampEn else ((s.tenant f).queue q).en
def queueHead (s : State) (f q : Nat) : W32 := if q = 16 then (s.tenant f).ampHead else ((s.tenant f).queue q).hd
def queuePrio (s : State) (f q : Nat) : Nat :=
  if q = 16 then (s.tenant f).ampPrio.val else ((s.tenant f).queue q).prio.val
def headPacket (s : State) (f q : Nat) : Option HeadPacket :=
  if q = 16 then (s.tenant f).ampHeadPkt else ((s.tenant f).queue q).headPkt
def setHead (s : State) (f q : Nat) (h : Option HeadPacket) : State :=
  if q = 16 then s.updTenant f fun t => { t with ampHeadPkt := h } else s.updQueue f q fun x => { x with headPkt := h }
def LaunchQueue.log2 (x : LaunchQueue) : Nat := if 4 ≤ x.log2n.val ∧ x.log2n.val ≤ 16 then x.log2n.val else 16

/-- HEAD advances past a consumed packet (R185). -/
def advanceQueue (s : State) (f q : Nat) : State :=
  if q = 16 then
    s.updTenant f fun t => { t with ampHead := bump t.ampHead, ampHeadPkt := none, amp := t.amp.drop 1 }
  else s.updQueue f q fun x => { x with hd := bump x.hd, headPkt := none }

/-- A launch-error record (R197) with no workpiece. -/
def launchError (s : State) (f q code deadline : Nat) : State :=
  s.postEvent f (launchRecord 2 code q 0 (queueHead s f q).toNat 0 deadline s.time)

/-- R188: a packet is refused: its record, and HEAD goes past it. -/
def refusePacket (s : State) (f q code deadline : Nat) : State := advanceQueue (launchError s f q code deadline) f q

/-- A head packet given back whose miss is posted, of a queue (R194). -/
def missedPacket (s : State) (f q : Nat) : Option (BitVec 512) :=
  if q = 16 then (s.tenant f).ampMissed else ((s.tenant f).queue q).missed
def setMissed (s : State) (f q : Nat) (p : Option (BitVec 512)) : State :=
  if q = 16 then s.updTenant f fun t => { t with ampMissed := p } else s.updQueue f q fun x => { x with missed := p }

/-- R185: a head packet that is not in progress is given back: it is no workpiece any more, and is read afresh later. -/
def giveBack (s : State) (f q : Nat) : State :=
  match headPacket s f q with
  | none => s
  | some h =>
    match s.wps.get? h.wp with
    | none => setHead s f q none
    | some x =>
      if x.begun then s
      else setMissed (setHead { s with wps := s.wps.del h.wp } f q none) f q (if x.missed then some x.packet else none)

/-- R185: a queue error. -/
def queueError (s : State) (f q code : Nat) : State :=
  (giveBack (launchError s f q code 0) f q).updQueue f q fun x => { x with en := false, err := true }

/-- LQTAIL_WRITE (R185). -/
def execLqtailWrite (f q v : Nat) (s : State) : Out :=
  if !s.windowOn || decide (64 ≤ f ∨ 16 ≤ q) then idle "LQTAIL_WRITE" else
  let s := s.updQueue f q fun x => { x with tail := BitVec.ofNat 32 v }
  let x := (s.tenant f).queue q
  .next (if 2 ^ x.log2 < (x.tail - x.hd).toNat then queueError s f q 1 else s)

/-- LQCTL_WRITE (R184, R185): clearing EN gives back a head packet not yet in progress. -/
def execLqctlWrite (f q v : Nat) (s : State) : Out :=
  if !s.windowOn || decide (64 ≤ f ∨ 16 ≤ q) then idle "LQCTL_WRITE" else
  let old := (s.tenant f).queue q
  let en := v / 2 ^ 31 % 2 == 1
  let log2n : Fin 32 := Fin.ofNat 32 (v % 32)
  let bad := old.en && log2n != old.log2n
  let s := (if en then s else giveBack s f q).updQueue f q fun x =>
    { x with en := en, err := x.err && v / 2 ^ 30 % 2 != 1, prio := Fin.ofNat 8 (v / 2 ^ 16 % 8), log2n := log2n }
  .next (if bad then queueError s f q 2 else s)

/-- AMPCTL_WRITE (R198). -/
def execAmpctlWrite (f v : Nat) (s : State) : Out :=
  if !s.windowOn || decide (64 ≤ f) then idle "AMPCTL_WRITE" else
  let en := v / 2 ^ 31 % 2 == 1
  .next ((if en then s else giveBack s f 16).updTenant f fun t =>
    { t with ampEn := en, ampPrio := Fin.ofNat 8 (v / 2 ^ 16 % 8) })

/-! The head read (R188, R476). -/

def readAs (s : State) (c va n : Nat) : Option Nat := (readVa s c 2 .read va n).map ofBytes

/-- A read of a word as an acquire at domain scope has what it synchronises with (R189, R190, R252). -/
def acquired (s : State) (c va n : Nat) : Bool :=
  match translate s c 2 .read va with
  | .ok pa _ _ => (List.range n).all fun k =>
      (s.headsAt (fun q => decide (5 ≤ q.op.vis)) .global (pa + k)).all fun h => decide (h.level < 5) || !h.live s
  | _ => true

/-- The group table (R164): 256 entries, empty without GTEN. -/
def readTable (s : State) (c : Nat) (p : BitVec 512) : Option (List (BitVec 128)) :=
  if !p.getLsbD 144 then some []
  else (readVa s c 2 .read ((pktArgs p + pkt p 128 16) % 2 ^ 64) 4096).map fun bs =>
    (List.range 256).map fun i => BitVec.ofNat 128 (ofBytes ((bs.drop (16 * i)).take 16))

/-- The crew widths (R187): 32 without WTEN. -/
def readWidths (s : State) (c : Nat) (p : BitVec 512) : Option (List Nat) :=
  if !p.getLsbD 57 then some (List.replicate 16 32)
  else
    let ofs := pkt p 128 16 + if p.getLsbD 144 then 0x1000 else 0
    (readVa s c 2 .read ((pktArgs p + ofs) % 2 ^ 64) 16).map fun bs => bs.map fun b => b.toNat % 32 + 1

/-- R188's checks of the packet alone: the lowest code that applies. A reserved bit is checked, as R188 says of a launch packet
against R6 (log 76). -/
def fieldCode (p : BitVec 512) : Option Nat :=
  let addrBad (a m : Nat) : Bool := !canonical a || a % m != 0
  let budgetBad := (pktCrews p).any (fun c => pktBudget p (pktRole p c) == 0) || decide (28 < pkt p 155 5) ||
    decide (28 < pkt p 150 5) || decide (28 < pkt p 145 5)
  if pkt p 0 57 % 8 ≠ 0 ∨ addrBad (pktArgs p) 16 ∨ addrBad (pkt p 256 64) 8 ∨ addrBad (pkt p 384 64) 4 ∨
      addrBad (pkt p 448 64 / 8 * 8) 8 ∨ pkt p 449 2 ≠ 0 ∨ p.getLsbD 58 then some 0x10
  else if (pktCrews p).isEmpty || budgetBad then some 0x11
  else if 128 < pkt p 160 8 ∨ 0xF000 < pkt p 128 16 ∨ pkt p 128 16 % 16 ≠ 0 then some 0x12
  else if pktBillets p % pktSet p ≠ 0 then some 0x13
  else if pktAssay p ∧ 8 < (pktCrews p).length then some 0x14
  else none

/-- Whether the entry clause header can be fetched. -/
def entryOk (s : State) (c : Nat) (p : BitVec 512) : Bool :=
  match translate s c 2 .fetch (pc64 (BitVec.ofNat 57 (pkt p 0 57))).toNat with
  | .ok _ _ _ => true
  | _ => false

/-- R188: the refusal code, or what the launch goes on with. -/
def checkPacket (s : State) (c : Nat) (p : BitVec 512) : Except Nat (List (BitVec 128) × List Nat) :=
  match fieldCode p with
  | some k => .error k
  | none =>
    let t := readTable s c p
    let bad := match t with | some t => !tableOk p t | none => false
    if bad then .error 0x15
    else
      match t, readWidths s c p with
      | some t, some w => if entryOk s c p then .ok (t, w) else .error 0x16
      | _, _ => .error 0x16

/-- The 64 bytes of the packet at the head. -/
def packetBytes (s : State) (f q : Nat) : Option (BitVec 512) :=
  if q = 16 then ((s.tenant f).amp.head?).map Prod.fst
  else
    let x := (s.tenant f).queue q
    let base := x.base.toNat / 4096 * 4096
    (readAs s (queueCtx s f q) ((base + 64 * (x.hd.toNat % 2 ^ x.log2)) % 2 ^ 64) 64).map (BitVec.ofNat 512)

/-- A miss record (R194). -/
def postMiss (s : State) (w : Nat) : State :=
  match s.wps.get? w with
  | none => s
  | some x => (s.postEvent x.tenant (wpRecord s x 1 0)).updWp w fun x => { x with missed := true }

def missDue (s : State) (x : Workpiece) : Bool :=
  x.live && !x.missed && pktDeadline x.packet != 0 && decide (pktDeadline x.packet ≤ s.time)

/-- LAUNCH_PACKET_HEAD (R185, R188): the packet is read once; refused, or it becomes the head with its identifier. -/
def execLaunchPacketHead (f q : Nat) (s : State) : Out :=
  let pending := if q = 16 then !(s.tenant f).amp.isEmpty
    else ((s.tenant f).queue q).tail != ((s.tenant f).queue q).hd
  if !queueOn s f q || !pending || (headPacket s f q).isSome || s.power != 0 then idle "LAUNCH_PACKET_HEAD"
  else
    let c := queueCtx s f q
    if !(s.ctx c).live then .next (refusePacket s f q 0x17 0)
    else match packetBytes s f q with
      | none => .next (refusePacket s f q 0x16 0)
      | some p =>
        match checkPacket s c p with
        | .error k => .next (refusePacket s f q k (pktDeadline p))
        | .ok (t, w) =>
          let id := (s.tenant f).nextIdent
          let wp : Workpiece := { ident := BitVec.ofNat 32 id, tenant := f, ctx := c, queue := q,
                                  index := (queueHead s f q).toNat, packet := p, table := t, widths := w,
                                  missed := missedPacket s f q == some p }
          let k := s.seq
          let s : State := { s with wps := s.wps.set k wp, seq := k + 1 }
          let s := s.updTenant f fun t => { t with nextIdent := (id + 1) % 2 ^ 32 }
          let s := setHead (setMissed s f q none) f q (some { wp := k, depMet := pkt p 256 64 == 0, polled := s.time })
          .next (if missDue s wp then postMiss s k else s)

/-- A head packet refused after its read (R189, R190): its workpiece is no more. -/
def refuseHead (s : State) (f q w code : Nat) : State :=
  let d := ((s.wps.get? w).map fun x => pktDeadline x.packet).getD 0
  refusePacket { s with wps := s.wps.del w } f q code d

/-- DEP_POLL (R189): the dependency counter is read again. -/
def execDepPoll (f q : Nat) (s : State) : Out :=
  match headPacket s f q with
  | none => idle "DEP_POLL"
  | some h =>
    match s.wps.get? h.wp with
    | none => idle "DEP_POLL"
    | some x =>
      if h.depMet || s.power != 0 || !acquired s x.ctx (pkt x.packet 256 64) 8 then idle "DEP_POLL"
      else match readAs s x.ctx (pkt x.packet 256 64) 8 with
        | none => .next (refuseHead s f q h.wp 0x18)
        | some v => .next (setHead s f q (some { h with depMet := decide (pkt x.packet 320 32 ≤ v), polled := s.time }))

/-- DEADLINE_MISS (R194). -/
def execDeadlineMiss (w : Nat) (s : State) : Out :=
  match s.wps.get? w with
  | none => idle "DEADLINE_MISS"
  | some x => if missDue s x && s.power == 0 then .next (postMiss s w) else idle "DEADLINE_MISS"

/-! Placement (R193). -/

/-- What a set asks of its cores: a workpiece's packet, the number of billets, their barrier units and codebook slots, and a
cluster it may not have (R417). -/
structure Need where
  wp : Nat
  packet : BitVec 512
  size : Nat
  units : List Nat
  books : List (List Nat)
  avoid : Option Nat := none
  deriving DecidableEq, Repr

def billetsOn (s : State) (core : Nat) : List (Nat × Billet) := s.billets.filter fun e => e.1 / 4 == core

/-- Barrier units of a core in use (R166). A group that spans billets keeps its unit when its lowest member ends, as long as
another is there (R154, log 79). -/
def unitsUsed (s : State) (core : Nat) : Nat := (s.groups.filter fun e => e.2.unit == core).length

def freeSlots (s : State) (core : Nat) : List Nat :=
  (List.range 16).filter fun k => (s.crews.get? (core * 32 + k)).isNone

/-- R193, R304, R295: a core takes member j of a set. -/
def coreFits (s : State) (n : Need) (core j : Nat) : Bool :=
  let bs := billetsOn s core
  let crews := (pktCrews n.packet).length * (if pktAssay n.packet then 2 else 1)
  !(s.core core).retired && !(s.core core).doomed && decide (bs.length < 4) && bs.all (fun e => e.2.wp != n.wp) &&
    decide (crews ≤ (freeSlots s core).length) &&
    decide ((bs.map fun e => e.2.scratchSize).foldl (· + ·) 0 + pktScratch n.packet ≤ Config.scratchBytes) &&
    decide (unitsUsed s core + n.units.getD j 0 ≤ 64) &&
    (!pktMtx n.packet || bs.all fun e => !((s.wps.get? e.2.wp).any fun w => pktMtx w.packet)) &&
    (n.books.getD j []).all fun b => (s.core core).books.all fun e => e.1 != b

/-- Choices of k of the cores 0 to 3, in ascending order. -/
def choices : Nat → List Nat → List (List Nat)
  | 0, _ => [[]]
  | _ + 1, [] => []
  | k + 1, c :: cs => ((choices k cs).map fun r => c :: r) ++ choices (k + 1) cs

def clusterFits (s : State) (n : Need) (cl : Nat) : Option (List Nat) :=
  let held := s.billets.any fun e => e.1 / 16 == cl
  if n.avoid.any (fun c => c / 4 == cl) || (held && fusedCluster s cl != pktFused n.packet) then none
  else (choices n.size ((List.range 4).map fun k => cl * 4 + k)).find? fun cs =>
    (List.range cs.length).all fun j => coreFits s n (cs.getD j 0) j

/-- The cores of the first cluster that fits. -/
def findCores (s : State) (n : Need) : Option (List Nat) := (List.range 64).findSome? (clusterFits s n)

/-- The group entries of a set as (index, entry), valid ones. -/
def groupEntries (t : List (BitVec 128)) : List (Nat × BitVec 128) :=
  ((List.range t.length).map fun i => (i, t.getD i 0)).filter fun e => geValid e.2

def unitsOf (p : BitVec 512) (t : List (BitVec 128)) : List Nat :=
  (List.range (pktSet p)).map fun j =>
    1 + ((groupEntries t).filter fun e => ((geMembers e.2).head?.map Prod.fst) == some j).length

/-- What a set of a workpiece not placed yet asks. -/
def setNeed (w : Nat) (x : Workpiece) : Need :=
  { wp := w, packet := x.packet, size := pktSet x.packet, units := unitsOf x.packet x.table, books := [] }

/-- The threads and crew record of one crew at its start (R28, R151). -/
def startCrew (s : State) (cid number pos : Nat) (x : Workpiece) (leader : Option Nat) : State :=
  let role := pktRole x.packet number
  let width := x.widths.getD number 32
  let multi := ((pktCrews x.packet).map (pktRole x.packet)).dedup.length > 1
  let s := s.setCrew cid { role := roleOf role, budget := 8 * pktBudget x.packet role, width := width, number := number,
                           pos := pos, priv := 2, leader := leader }
  (List.range width).foldl (fun s l =>
    s.setThr (cid * 32 + l) { pc := BitVec.ofNat 57 (pkt x.packet 0 57), select := multi,
                              readyAt := (s.core (cid / 32)).gather + 1 }) s

/-- The lowest free billet position of a core. -/
def freePos (s : State) (core : Nat) : Nat :=
  ((List.range 4).find? fun p => (s.billets.get? (core * 4 + p)).isNone).getD 0

/-- One billet starts on a core (R152, R193). -/
def startBillet (s : State) (w : Nat) (x : Workpiece) (set j core : Nat) : State × Nat :=
  let pos := freePos s core
  let k := core * 4 + pos
  let cs := pktCrews x.packet
  let slots := freeSlots s core
  let lead := (List.range cs.length).map fun i => core * 32 + slots.getD i 0
  let assay := if pktAssay x.packet then (List.range cs.length).map fun i => core * 32 + slots.getD (cs.length + i) 0 else []
  let b : Billet := { wp := w, index := set * pktSet x.packet + j, set := set, member := j, crews := lead, assay := assay,
                      scratchBase := pos * 2 ^ 19, scratchSize := pktScratch x.packet }
  let s : State := { s with billets := s.billets.set k b }
  let s := s.updCore core fun c => { c with gated := false }
  let s := (List.range cs.length).foldl (fun s i => startCrew s (lead.getD i 0) (cs.getD i 0) pos x none) s
  let s := (List.range assay.length).foldl (fun s i =>
    startCrew s (assay.getD i 0) (cs.getD i 0) pos x (some (lead.getD i 0))) s
  (s, k)

/-- The group instances of a set (R163, R166) and the billet groups. -/
def startGroups (s : State) (w : Nat) (x : Workpiece) (set : Nat) (keys : List Nat) : State :=
  let s := (groupEntries x.table).foldl (fun s e =>
    let g : Group := { wp := w, set := set, entry := e.1, handle := geHandle e.2, timeout := geTimeout e.2,
                       tableTimeout := geTimeout e.2, members := (geMembers e.2).map fun m => (keys.getD m.1 0, m.2),
                       unit := keys.getD (((geMembers e.2).map Prod.fst).headD 0) 0 / 4 }
    { s with groups := s.groups.set s.seq g, seq := s.seq + 1 }) s
  keys.foldl (fun s k =>
    let g : Group := { wp := w, set := set, entry := 0xFFFF, handle := 0, timeout := 1000000, tableTimeout := 1000000,
                       members := (pktCrews x.packet).map fun c => (k, c), unit := k / 4 }
    { s with groups := s.groups.set s.seq g, seq := s.seq + 1 }) s

/-! Save areas (R407, R409) and the start of an interval (R411). -/

def alignUp (n a : Nat) : Nat := (n + a - 1) / a * a

/-- Where the regions of a billet's section lie, and its size (R409): crews, scratchpad, groups, ladle commands, traversal
commands, accumulator, codebooks, journal, end. -/
def sectionLayout (p : BitVec 512) (ngroups : Nat) (ladle : List Command) (ntrav nbooks : Nat) (journal : Bool) : List Nat :=
  let crews := (pktCrews p).foldl (fun n c => n + 0x800 + 132 * (8 * pktBudget p (pktRole p c))) 0 * (if pktAssay p then 2 else 1)
  let o1 := alignUp (0x100 + crews) 4096
  let o2 := alignUp (o1 + pktScratch p) 128
  let o3 := alignUp (o2 + 128 * ngroups) 128
  let o4 := alignUp (ladle.foldl (fun n c => n + 128 + (c.total / 32 + 7) / 8) o3) 64
  let e4 := o4 + 64 * ntrav
  let o5 := if pktMtx p then alignUp e4 1024 else e4
  let o6 := alignUp (if pktMtx p then o5 + Config.accBytes else o5) 2048
  let o7 := if journal then alignUp (o6 + 2048 * nbooks) 4096 else o6 + 2048 * nbooks
  [0x100, o1, o2, o3, o4, o5, o6, o7, alignUp (if journal then o7 + 4096 + 65536 else o7) 4096]

def sectionSize (p : BitVec 512) (ngroups : Nat) (ladle : List Command) (ntrav nbooks : Nat) (journal : Bool) : Nat :=
  (sectionLayout p ngroups ladle ntrav nbooks journal).getD 8 0

/-- What of a resident billet counts in its section: the groups of its barrier units, its commands, its codebook slots. -/
def unitGroups (s : State) (k : Nat) : List (Nat × Group) :=
  s.groups.filter fun g => ((g.2.members.map Prod.fst).head?) == some k &&
    ((s.billets.get? k).any fun b => b.wp == g.2.wp && b.set == g.2.set)
def billetCmds (q : List Command) (k : Nat) (b : Billet) : List Command :=
  q.filter fun c => c.wp == b.wp && c.set == b.set && c.core * 4 + c.pos == k
def billetBooks (s : State) (k : Nat) : List Nat :=
  sortNat (((s.core (k / 4)).books.filter fun x => x.2 == k).map Prod.fst)

def billetLayout (s : State) (k : Nat) (b : Billet) (p : BitVec 512) : List Nat :=
  sectionLayout p (unitGroups s k).length (billetCmds s.ladle k b) (billetCmds s.trav k b).length
    (billetBooks s k).length (!b.irrevocable)

/-- The save slots of a context that hold journals of resident billets (R411), but for one set's. -/
def journalSlots (s : State) (c : Nat) (but : Option (Nat × Nat)) : List Nat :=
  s.billets.filterMap fun e =>
    if ((s.wps.get? e.2.wp).any fun x => x.ctx == c) && but != some (e.2.wp, e.2.set) then e.2.slot else none

/-- The slots of a context: the lowest free one that holds a size.  A set may take one that holds a journal of its own. -/
def freeSlot (s : State) (c size : Nat) (own : Option (Nat × Nat)) : Option Nat :=
  let x := s.ctx c
  if x.saveCfg.toNat % 65536 * 65536 < size then none
  else (List.range (min 64 (x.saveCfg.toNat / 65536))).find? fun k =>
    !x.saveUse.getLsbD k && !(journalSlots s c own).contains k

/-- The save slot that holds a billet's journal (R411), if the context enables it: the one it holds, or a free one. -/
def journalSlot (s : State) (k : Nat) : Option Nat :=
  match s.billets.get? k with
  | none => none
  | some b =>
    match s.wps.get? b.wp with
    | none => none
    | some x =>
      if !(s.ctx x.ctx).ctl.getLsbD 2 then none
      else b.slot.or (freeSlot s x.ctx (sectionSize x.packet 0 [] 0 0 true) none)

/-- A checkpoint (R411): the threads without their v registers, the crews, and the single-billet groups; the journal
empties. -/
def takeCheckpoint (s : State) (k : Nat) : State :=
  match s.billets.get? k with
  | none => s
  | some b =>
    let ts := billetThreads s b
    let ck : Checkpoint := {
      threads := (s.threads.filter fun e => ts.contains e.1).map fun e => (e.1, { e.2 with v := [], poison := [], widx := (s.place e.1).2 }),
      crews := s.crews.filter fun e => (b.crews ++ b.assay).contains e.1,
      groups := s.groups.filter fun e => e.2.wp == b.wp && e.2.members.all fun m => m.1 == k,
      since := s.seq }
    let slot := journalSlot s k
    s.updBillet k fun b => { b with ckpt := some ck, journal := [], irrevocable := slot.isNone, slot := slot, missAt := none }

/-- Places one set of a workpiece, if it fits. -/
def placeSet (s : State) (w : Nat) (x : Workpiece) : Option State :=
  let set := x.placed
  (findCores s (setNeed w x)).map fun cores =>
    let r := (List.range cores.length).foldl (fun (acc : State × List Nat) j =>
      let b := startBillet acc.1 w x set j (cores.getD j 0)
      (b.1, acc.2 ++ [b.2])) (s, [])
    let s := startGroups r.1 w x set r.2
    let s := r.2.foldl (fun s k => takeCheckpoint s k) s
    s.updWp w fun y => { y with placed := y.placed + 1, started := y.started + pktSet x.packet }

def setsOf (x : Workpiece) : Nat := pktBillets x.packet / pktSet x.packet

/-- As many of the next sets as fit. -/
def placeSets (w : Nat) (s : State) : Nat → State
  | 0 => s
  | n + 1 =>
    match s.wps.get? w with
    | none => s
    | some x =>
      if setsOf x ≤ x.placed then s
      else match placeSet s w x with
        | some s' => placeSets w s' n
        | none => s

/-- Billets of a set. -/
def setBillets (s : State) (wp set : Nat) : List (Nat × Billet) :=
  s.billets.filter fun e => e.2.wp == wp && e.2.set == set

/-- The size of a set's save area as it stands. -/
def setSize (s : State) (wp set : Nat) : Nat :=
  match s.wps.get? wp with
  | none => 0
  | some x => (setBillets s wp set).foldl (fun n e => n + (billetLayout s e.1 e.2 x.packet).getD 8 0) 0

end Sys2Proof.Machine
end

