-- ==== Sys2Proof/Machine/Engine.lean ====
section
/-!
DEFINITION. What the engines share: PUSH (R320 to R322), what a command reads and writes and when it may (R247, R263, R294),
its fault records (R393, R445), its stage (R293, R358) and its end (R298, R359).
-/
namespace Sys2Proof.Machine

def Command.fld (c : Command) (lo n : Nat) : Nat := c.image.toNat / 2 ^ lo % 2 ^ n
def Command.kind (c : Command) : Nat := c.fld 0 8

def noStage : Nat := 0xFFFFFFFF

/-! PUSH. -/

def ladleQueue (s : State) (core : Nat) : List Command := s.ladle.filter fun c => c.core == core && !c.running
def travQueue (s : State) (cluster : Nat) : List Command := s.trav.filter fun c => c.core / 4 == cluster && !c.running

/-- R321: whether a queue has no free entry. -/
def queueFull (s : State) (t q : Nat) : Bool :=
  match q with
  | 0 => decide (64 ≤ (ladleQueue s (coreOf t)).length)
  | 1 => decide (32 ≤ (travQueue s (coreOf t / 4)).length)
  | _ => decide (4096 ≤ ((s.tenant (s.ctxOf (crewOf t) / 16)).amp).length)

/-- The 64 bytes of sixteen registers, lowest first. -/
def pushImage (s : State) (t : Nat) (src : Reg) : BitVec 512 :=
  BitVec.ofNat 512 (ofBytes ((s.rN t src 16).flatMap fun w => toBytes w.toNat 4))

/-- One command enters its queue. -/
def enqueue (s : State) (t q : Nat) (im : BitVec 512) : State :=
  let cid := crewOf t
  let c : Command := { id := s.seq, image := im, core := coreOf t, pos := (s.crew cid).pos,
                       wp := ((s.billet? cid).map Billet.wp).getD 0,
                       set := ((s.billet? cid).map Billet.set).getD 0, ctx := s.ctxOf cid, priv := (s.crew cid).priv, tid := t,
                       after := s.owed t s.seq }
  match q with
  | 0 => { s with ladle := s.ladle ++ [c], seq := s.seq + 1 }
  | 1 => { s with trav := s.trav ++ [c], seq := s.seq + 1 }
  | _ => s.updTenant (c.ctx / 16) fun x => { x with amp := x.amp ++ [(im, c.ctx)] }

/-- One lane of a PUSH: PROT (R198), then POISON, then the queue. -/
def pushLane (s0 s : State) (t q : Nat) (src : Reg) (pd : Nat) : State × Option TrapInfo :=
  let amp := ((s0.wpOf (crewOf t)).map fun w => w.packet.getLsbD 61).getD false
  if q = 2 ∧ !amp then (s, some { trap := .prot, detail := 1 })
  else match consumed s0 t [(src, 16)] with
    | some i => (s, some i)
    | none =>
      let full := queueFull s t q
      let s := if full then s
        else
          let s := enqueue s t q (pushImage s0 t src)
          if q = 0 then s else s.irrevocable (s.billetKey (crewOf t))
      (s.giveRegs t (wrP pd full false), none)

/-- PUSH (R321), in lane order. -/
def execPush (h : Head) (q : Fin 3) (src : Reg) (pd : Fin 8) (s : State) : Out :=
  issueWord s h { group := 5, queue := some q.val, regs := [(src, 16)], wait := true, cmp := .compare, passes := true, pdst := some pd,
                  settle := if q.val = 2 then some 6 else none } fun s ts =>
    let r := ts.foldl (fun (o : WordOut) t =>
      let x := pushLane s o.s t q.val src pd.val
      { s := x.1, traps := o.traps ++ (x.2.toList.map fun i => (t, i)) }) { s := s }
    r

/-! Reads and writes of a command. -/

/-- The level of an engine's position (R249): a ladle is at its core, a traversal unit at its cluster. -/
def engineLevel (s : State) (c : Command) : Nat := if s.trav.any fun x => x.id == c.id then 3 else 2

/-- Whether a command's engine sees a store in flight. -/
def Pend.atEngine (p : Pend) (lvl core : Nat) : Bool :=
  p.done || (decide (lvl ≤ p.op.vis) && shares p.op.vis p.tid (core * 1024)) || (lvl == 2 && p.op.isStore && p.seen.contains core)

/-- R263: everything the pusher did or saw before the PUSH has reached the engine. -/
def cmdReady (s : State) (c : Command) : Bool :=
  s.pend.all fun p =>
    (placeOf p.tid != c.tid || p.wp != c.wp || !decide (p.id < c.id) || p.visible (engineLevel s c)) &&
      (!c.after.contains p.id || p.atEngine (engineLevel s c) c.core)

/-- A byte as a command's engine reads it: a store in flight that it sees, or memory and what else its home may give. -/
def engineByte (s : State) (c : Command) (proto a : Nat) : Byte :=
  match s.lastStore (fun p => p.atEngine (engineLevel s c) c.core) .global a with
  | some q => q.byteAt a
  | none => memByte s engineTid proto a c.core

/-- The scratchpads as an engine may read them beside threads that write there (R7, R294, R308): of each byte that a store in flight
could write now, the old or the new. -/
def raceView (s : State) : State :=
  let ps := s.pend.filter fun p => inOrder s p && p.op.isStore && p.op.lines.any fun l => l.1 == .scratch
  ps.foldl (fun v p =>
    match p.op with
    | .store a data _ =>
      (List.range a.size).foldl (fun v k =>
        if Config.pick s.fresh (a.pa + k) 294 % 2 = 1 then v.writeScratch (a.pa + k) [data.getD k 0] else v) v
    | _ => v) s

/-- n bytes at a virtual address that a command reads or writes. -/
structure Touch where
  va : Nat
  n : Nat
  w : Bool
  deriving DecidableEq, Repr

def Touch.ends (x : Touch) : List Nat := [x.va % 2 ^ 64, (x.va + x.n - 1) % 2 ^ 64]

/-- Whether an address lies in a granule a command is parked on. -/
def parkedAt (c : Command) (va : Nat) : Bool := c.parks.any fun p => p.granules.any fun g => g.1 == va / 1024

/-- One translation for a command; what it is parked on stays a page fault until a retry (R396). -/
def cmdTr (s : State) (c : Command) (va : Nat) (w : Bool) : Tr :=
  if parkedAt c va then .fault else translate s c.ctx c.priv (if w then .write else .read) va

/-- The byte at a virtual address; 0 where it does not translate. -/
def cmdByte (s : State) (c : Command) (va : Nat) : Byte :=
  match cmdTr s c (va % 2 ^ 64) false with
  | .ok pa proto _ => engineByte s c proto pa
  | _ => 0

def cmdNat (s : State) (c : Command) (va n : Nat) : Nat := ofBytes ((List.range n).map fun k => cmdByte s c (va + k))

def touchProt (s : State) (c : Command) (xs : List Touch) : Bool :=
  xs.any fun x => x.ends.any fun a => match cmdTr s c a x.w with | .prot _ => true | _ => false

/-- The places of touches that meet a page fault. -/
def touchFaults (s : State) (c : Command) (xs : List Touch) : List (Nat × Bool) :=
  xs.flatMap fun x => (x.ends.filter fun a => match cmdTr s c a x.w with | .fault => true | _ => false).map fun a => (a, x.w)

/-- The lines of touches, with the protocol each is reached under. -/
def touchPages (s : State) (c : Command) (w : Bool) (xs : List Touch) : List (Nat × Nat) :=
  ((xs.filter fun x => x.w == w).flatMap fun x => x.ends.filterMap fun a =>
    match cmdTr s c a w with | .ok pa proto _ => some (lineOf pa, proto) | _ => none).dedup

def touchLines (s : State) (c : Command) (w : Bool) (xs : List Touch) : List Nat :=
  ((touchPages s c w xs).map Prod.fst).dedup

/-- Other commands that own a line: earlier ones (R294), or any. -/
def ownedByOther (s : State) (c : Command) (earlier : Bool) (l : Space × Nat) : Bool :=
  (s.ladle ++ s.trav).any (fun o => o.id != c.id && (!earlier || decide (o.id < c.id)) && o.owned.contains l) ||
    s.anvil.any fun o => (!earlier || decide (o.id < c.id)) && o.owned.contains l

def updCmd (q : List Command) (id : Nat) (f : Command → Command) : List Command :=
  q.map fun c => if c.id = id then f c else c

def State.updEngine (s : State) (id : Nat) (f : Command → Command) : State :=
  { s with ladle := updCmd s.ladle id f, trav := updCmd s.trav id f }

def State.dropEngine (s : State) (id : Nat) : State :=
  { s with ladle := s.ladle.filter fun c => c.id != id, trav := s.trav.filter fun c => c.id != id }

/-- What a request of an engine for lines comes to: not here, waiting (with what it sent), or had. -/
inductive Take where
  | no
  | wait (s : State)
  | yes (s : State)

def Take.queued (s : State) (line id : Nat) : Take := if (s.home line).queue.contains id then .no else .wait (s.queueUp line id)

def Take.out (e : String) (r : Take) (f : State → Out) : Out :=
  match r with
  | .no => idle e
  | .wait s => .next s
  | .yes s => f s

/-- Whether the drawer of a line lets an agent have it now (R454, R455, R458); with no port to it the line will carry an error. -/
def agentLink (s : State) (ctx : Nat) (k : Ask) (proto line : Nat) : Bool :=
  !asksDrawer s k proto false line ||
    (match portFor s (128 * line) with
     | none => true
     | some q => (s.port q).state == 2 && hasSlot s q 0 (ctx / 16) 0 && hasSlot s q 1 (ctx / 16) 1)

/-- A request of an agent of the part for a context that its home serves: counted, and the drawer's answer with it. -/
def agentServed (s : State) (ctx : Nat) (k : Ask) (proto line : Nat) : State :=
  let asked := asksDrawer s k proto false line
  let s := if asked && (portFor s (128 * line)).isNone then s.markBad line 7
    else if asked then gainHold s k proto ctx false line
    else s
  atHome s ctx proto (128 * line) (k != .read)

def engineLink (s : State) (c : Command) (k : Ask) (proto line : Nat) : Bool := agentLink s c.ctx k proto line

def engineServed (s : State) (c : Command) (k : Ask) (proto line : Nat) : State := agentServed (s.unqueue line c.id) c.ctx k proto line

/-- R247: a destination line in memory: the other owners and locks first, its DIR copies recalled, its leases over. -/
def takeGlobal (s : State) (c : Command) (line proto : Nat) : Take :=
  if ownedByOther s c false (.global, line) || (s.home line).lock.isSome || !turn s line c.id ||
      decide (s.time < leaseEnd s line) || !(s.home line).writers.isEmpty then Take.queued s line c.id
  else if !engineLink s c .write proto line then .no
  else
    let r := dirRecall s line
    if r.2 then
      .yes ((engineServed (loseLine r.1 line fun _ => true) c .write proto line).updEngine c.id fun x =>
        { x with owned := x.owned ++ [(.global, line)] })
    else .wait (r.1.queueUp line c.id)

/-- A destination line in a scratchpad: those that waited there for its last owner come first. -/
def takeScratch (s : State) (c : Command) (line : Nat) : Take :=
  if ownedByOther s c false (.scratch, line) || s.scratchWait.any (fun e => e.1 == line && s.open e.2) then .no
  else .yes (s.updEngine c.id fun x => { x with owned := x.owned ++ [(.scratch, line)] })

/-- R247: the lines a command asks for, in ascending order; it keeps those it has had. -/
def takeEach (c : Command) (moved : Bool) (s : State) : List (Space × Nat × Nat) → Take
  | [] => .yes s
  | l :: ls =>
    match (match l.1 with | .global => takeGlobal s c l.2.1 l.2.2 | .scratch => takeScratch s c l.2.1) with
    | .yes s => takeEach c true s ls
    | .wait s => .wait s
    | .no => if moved then .wait s else .no

/-- No earlier access of the pusher to a line is on its way. -/
def pusherDone (s : State) (c : Command) (l : Space × Nat) : Bool :=
  s.pend.all fun p => !decide (p.id < c.id) || p.done || placeOf p.tid != c.tid || !p.op.lines.contains l

/-- A command takes lines, with their protocols: memory first, then scratchpads. -/
def takeLines (s : State) (c : Command) (gs : List (Nat × Nat)) (ss : List Nat) : Take :=
  let mine := ((s.ladle ++ s.trav).find? fun x => x.id == c.id).elim [] Command.owned
  let ls : List (Space × Nat × Nat) :=
    ((sortBy (fun a b : (Nat × Nat) => decide (a.1 ≤ b.1)) gs).map fun g => (Space.global, g.1, g.2)) ++
      (sortNat ss).map fun l => (Space.scratch, l, 0)
  let new := ls.filter fun l => !mine.contains (l.1, l.2.1)
  if new.all fun l => pusherDone s c (l.1, l.2.1) then takeEach c false s new else .no

/-- Whether the billet a command writes for is still resident. -/
def targetLive (s : State) (c : Command) (t : Nat × Nat) : Bool := (s.billets.get? t.1).any fun b => b.wp == c.wp && b.set == c.set

/-- The uncorrectable error that a command's billet consumes where its engine is about to read lines (R414). -/
def engineError (s : State) (c : Command) (ls : List (Space × Nat)) : Option (Nat × Nat) :=
  if targetLive s c (c.billet, 0) then ls.findSome? fun l => errorAt s l.1 l.2 false else none

def consumeAt (s : State) (k : Nat) (e : Nat × Nat) : State := consumeBy (s.dropError e) k e.1 e.2

/-- R237: the lines in memory a command is about to read come to their homes: what an L1 holds modified is recalled, and a read of
a SELF line waits for the writes before it. -/
def fetchLines (s : State) (c : Command) (gs : List (Nat × Nat)) : Take :=
  let gs := gs.filter fun g => !c.owned.contains (.global, g.1)
  if gs.any (fun g => !(s.home g.1).writers.isEmpty || !engineLink s c .read g.2 g.1) then .no
  else match engineError s c (gs.map fun g => (.global, g.1)) with
  | some e => .wait (consumeAt s c.billet e)
  | none => match gs.find? fun g => ((s.home g.1).queue.contains c.id && !turn s g.1 c.id) || !(dirFetch s g.1).2 with
    | some g => if (s.home g.1).queue.contains c.id then .no else .wait ((dirFetch s g.1).1.queueUp g.1 c.id)
    | none => .yes (gs.foldl (fun s g => engineServed s c .read g.2 g.1) s)

/-! Fault records of a command (R393, R445). -/

def whoEngine (unit core : Nat) : Nat :=
  if unit = 1 then core / 64 % 4 * 2 ^ 30 + core % 64 * 2 ^ 24 else core / 64 % 4 * 2 ^ 30 + core / 4 % 16 * 2 ^ 24

/-- One translation pass over what is outstanding: granules that fault and are not yet recorded post their records under one
TAG, in ascending order. -/
def passCommand (s : State) (unit : Nat) (c : Command) (xs : List Touch) : State :=
  let known (a : Nat) : Bool := c.parks.any fun p => p.granules.any fun g => g.1 == a / 1024
  let fs := (touchFaults s c xs).filter fun f => !known f.1
  if fs.isEmpty then s
  else
    let gs := sortBy (fun a b : (Nat × W32) => decide (a.1 ≤ b.1)) (fs.foldl (fun gs f => addSector gs f.1 1) [])
    let ty (g : Nat) : Nat := if fs.any (fun f => f.1 / 1024 == g && !f.2) then 4 else 5
    let r := s.newTag (c.ctx / 16)
    let s := r.1.updEngine c.id fun x =>
      { x with parks := x.parks ++ [{ tag := r.2, type := ty ((gs.headD (0, 0)).1), unit := unit, granules := gs, posted := true }] }
    gs.foldl (fun s g => s.postFault (c.ctx / 16) r.2
      (faultRecord s g.1 g.2 c.ctx (ty g.1) unit (whoEngine unit c.core) r.2)) s

/-! Stages and the end of a command. -/

def stageOk (s : State) (t : Nat × Nat) (stage : Nat) : Bool :=
  stage % 16 == 0 && (s.billets.get? t.1).any fun b => decide (stage + 16 ≤ b.scratchSize)

/-- The stages of a command: the same offset in every target (R285). -/
def stageAddrs (s : State) (c : Command) (stage : Nat) : List Nat :=
  if stage = noStage then []
  else (c.targets.filter fun t => targetLive s c t && stageOk s t stage).map fun t => t.2 + stage

/-- R412: scratchpad lines of the command's own billet are journalled before the engine writes them. -/
def journalOwn (s : State) (c : Command) (a n : Nat) : State :=
  match s.billets.get? c.billet with
  | none => s
  | some b =>
    let base := scratchAddr c.core b.scratchBase
    if b.wp == c.wp && b.set == c.set && decide (base ≤ a ∧ a < base + b.scratchSize) then
      (List.range ((a + n - 1) / 128 + 1 - a / 128)).foldl (fun s i => s.journal c.billet (.scratch (a / 128 + i))) s
    else s

/-- R293, R358: completed bytes are accounted. -/
def accountStage (s : State) (c : Command) (stage bytes : Nat) : State :=
  (stageAddrs s c stage).foldl (fun s a => stageUpdate (journalOwn s c a 16) a (.complete bytes)) s

/-- R298, R359: a command fails: its stages break, its lines go, and a record is posted. -/
def failCommand (s : State) (c : Command) (unit code addr stage : Nat) : State :=
  let s := (stageAddrs s c stage).foldl (fun s a => wakeStage ((journalOwn s c a 16).markBroken (2 * a)) a) s
  let s := s.dropEngine c.id
  let ident := ((s.wps.get? c.wp).map Workpiece.ident).getD 0
  let s := s.postEvent (c.ctx / 16) (toBytes (if unit = 1 then 3 else 5) 1 ++ toBytes code 1 ++ toBytes (unit - 1) 1 ++ [0] ++
    toBytes ident.toNat 4 ++ toBytes addr 8 ++ toBytes (c.fld 0 64) 8 ++ toBytes s.time 8)
  completeAll s

/-- The lowest code of the checks that fail. -/
def lowestCode (xs : List (Bool × Nat)) : Option Nat :=
  (sortNat ((xs.filter fun x => x.1).map Prod.snd)).head?

/-- A write of a command to scratchpad, for a target still resident; journalled for the billet it acts for (R412). -/
def cmdScratch (s : State) (c : Command) (t : Nat × Nat) (ofs : Nat) (bs : List Byte) : State :=
  if targetLive s c t then
    (if t.1 = c.billet then s.journal t.1 (.scratch ((t.2 + ofs) / 128)) else s).writeScratch (t.2 + ofs) bs
  else s

/-- A write of one byte of a command to memory; journalled for its billet where it is a TQSTORE's (R412). -/
def cmdStore (s : State) (c : Command) (va : Nat) (mask b : Byte) : State :=
  match cmdTr s c (va % 2 ^ 64) true with
  | .ok pa _ _ =>
    let s := if targetLive s c (c.billet, 0) then s.journal c.billet (.global (lineOf pa)) else s
    performWrite s pa [(Memory.read s.mem pa &&& ~~~mask) ||| (b &&& mask)] engineTid
  | _ => s

end Sys2Proof.Machine
end

