-- ==== Sys2Proof/Machine/Formats.lean ====
section
/-!
DEFINITION. The narrow element formats, block scales, quantisation, storage formats and the dot-product order
(R95 to R110).
-/
namespace Sys2Proof.Machine

/-- The element types the engines know (R80, R289). -/
inductive Elem where
  | f64 | f32 | f16 | bf16 | e4m3 | e5m2 | e2m1 | bx8 | bx4 | s8 | s4 | s32 | z8 | s16 | z16 | z32 | s64 | z64 | cb3 | vq8
  deriving DecidableEq, Repr

/-- A narrow floating format (R97): mantissa and exponent widths, bias and the code of its largest finite value. -/
structure MiniFmt where
  mw : Nat
  ew : Nat
  bias : Nat
  maxCode : Nat
  emaxElem : Int
  deriving DecidableEq, Repr

def MiniFmt.e4m3 : MiniFmt := ⟨3, 4, 7, 0x7E, 8⟩
def MiniFmt.e5m2 : MiniFmt := ⟨2, 5, 15, 0x7B, 15⟩
def MiniFmt.e2m1 : MiniFmt := ⟨1, 2, 1, 0x7, 2⟩

/-- The value of an element code, before its scale (R97). -/
def MiniFmt.decode (f : MiniFmt) (x : Nat) : FVal :=
  let s := x / 2 ^ (f.mw + f.ew) % 2 == 1
  let e := x / 2 ^ f.mw % 2 ^ f.ew
  let m := x % 2 ^ f.mw
  if f.maxCode < x % 2 ^ (f.mw + f.ew) then (if f.mw = 2 ∧ m = 0 then .inf s else .nan)
  else if e = 0 then (if m = 0 then .zero s else .fin s m (1 - (f.bias : Int) - f.mw))
  else .fin s (2 ^ f.mw + m) ((e : Int) - f.bias - f.mw)

/-- SatRound (R103): to nearest even, a magnitude above the largest finite value becomes it. -/
def MiniFmt.satRound (f : MiniFmt) : FVal → Nat
  | .nan => f.maxCode
  | .inf n => n.toNat * 2 ^ (f.mw + f.ew) + f.maxCode
  | .zero n => n.toNat * 2 ^ (f.mw + f.ew)
  | .fin n m e =>
    let emin : Int := 1 - f.bias
    let lg : Int := (Nat.log2 m : Int) + e
    let q := max (lg - f.mw) (emin - f.mw)
    let y := if lg + f.mw + 3 < emin then 0 else roundAt .rne n m e q
    let mag := ((q + f.mw + f.bias - 1) * 2 ^ f.mw + y).toNat
    n.toNat * 2 ^ (f.mw + f.ew) + min mag f.maxCode

/-- The factor of an E8M0 byte (R98) applied to a value. -/
def scaleE8 (k : Nat) (v : FVal) : FVal :=
  if k = 0xFF then .nan else v.scale ((k : Int) - 127)

/-- A BX element (R100, R101): selector, sign, magnitude; a block with 0xFF in either byte is NaN (R102). -/
def bxDecode (eight : Bool) (hi lo x : Nat) : FVal :=
  if hi = 0xFF ∨ lo = 0xFF then .nan
  else
    let mw : Nat := if eight then 6 else 2
    let e := if x / 2 ^ (mw + 1) % 2 = 1 then lo else hi
    let s := x / 2 ^ mw % 2 == 1
    let m := x % 2 ^ mw
    if m = 0 then .zero s else .fin s m ((e : Int) - 127 - (mw - 1 : Nat))

/-- Floor(log2 |x|) of a nonzero finite value; none for a zero. -/
def FVal.lg : FVal → Option Int
  | .fin _ m e => some ((Nat.log2 m : Int) + e)
  | _ => none

/-- Floor(log2(amax)) of a block; none when every element is zero (R103). -/
def blockLg (xs : List FVal) : Option Int :=
  xs.foldl (fun a x => match a, x.lg with
    | none, l => l
    | a, none => a
    | some a, some l => some (max a l)) none

/-- DeriveScale for an MX format (R103, R104): scale byte and element codes. -/
def deriveMx (f : MiniFmt) (xs : List FVal) : Nat × List Nat :=
  if xs.any (fun x => x.isNan || x.isInf) then (0xFF, xs.map fun _ => 0)
  else match blockLg xs with
    | none => (0, xs.map fun x => x.neg.toNat * 2 ^ (f.mw + f.ew))
    | some l =>
      let k := (max (l - f.emaxElem + 127) 0).toNat
      (k, xs.map fun x => f.satRound (x.scale (127 - (k : Int))))

/-- One BX element under two candidate exponents (R103): the code, ties to E_hi. -/
def bxQuant (eight : Bool) (h l : Nat) (x : FVal) : Nat :=
  let mw : Nat := if eight then 6 else 2
  let u : Int := if eight then 5 else 1
  match x with
  | .fin n m e =>
    let q (k : Nat) : Nat := min (roundAt .rne false m (e + u - ((k : Int) - 127)) 0) (2 ^ mw - 1)
    let e0 := min e (min ((h : Int) - 127 - u) ((l : Int) - 127 - u))
    let err (k : Nat) : Nat :=
      ((m * 2 ^ (e - e0).toNat : Int) - (q k * 2 ^ ((k : Int) - 127 - u - e0).toNat : Int)).natAbs
    if err l < err h then 2 ^ (mw + 1) + n.toNat * 2 ^ mw + q l else n.toNat * 2 ^ mw + q h
  | x => x.neg.toNat * 2 ^ mw

/-- DeriveScale for a BX format (R103, R104): E_hi, E_lo and element codes. -/
def deriveBx (eight : Bool) (xs : List FVal) : Nat × Nat × List Nat :=
  if xs.any (fun x => x.isNan || x.isInf) then (0xFF, 0xFF, xs.map fun _ => 0)
  else match blockLg xs with
    | none => (0, 0, xs.map fun x => bxQuant eight 0 0 x)
    | some lg =>
      let d : Int := if eight then 3 else 2
      let h := (max (lg + 127) 0).toNat
      let l := (max ((h : Int) - d) 0).toNat
      (h, l, xs.map fun x => bxQuant eight h l x)

/-- The quotient x / s of a KV quantisation (R297): a NaN scale makes every quotient NaN, an infinite one every quotient
of a number 0. -/
def kvQuot (x s : FVal) : FVal :=
  if s.isInf && !x.isNan then .zero (x.neg != s.neg) else FVal.div x s

/-- Quantisation under a separate scale to S8 (R107): an infinite x stores the bound of its own sign, whatever the scale;
a quotient that is NaN stores 0, as a NaN x does (log 75). -/
def quantS8 (x s : FVal) : Byte :=
  match x with
  | .inf n => if n then 0x80 else 0x7F
  | _ => BitVec.ofInt 8 (floatToInt .rne (-128) 127 (kvQuot x s))

/-- Quantisation under a separate scale to E4M3 (R107): the code of a NaN where x or the quotient is one (log 75). -/
def quantE4M3 (x s : FVal) : Byte :=
  if (kvQuot x s).isNan then 0x7F else BitVec.ofNat 8 (MiniFmt.e4m3.satRound (kvQuot x s))

/-- Dot (R108) for a floating accumulator: groups of sixteen exact products, one rounding each. -/
def dotF (f : FFmt) : Nat → Nat → List FVal → Nat
  | 0, acc, _ => acc
  | k + 1, acc, ps =>
    if ps.isEmpty then acc
    else dotF f k (f.round .rne false (FVal.sum .rne (f.decode acc :: ps.take 16))) (ps.drop 16)

/-- Dot for S32 (R110). -/
def dotI (acc : W32) (ps : List Int) : W32 := BitVec.ofInt 32 (acc.toInt + ps.foldl (· + ·) 0)

end Sys2Proof.Machine
end

