-- ==== Sys2Proof/Machine/Ladle.lean ====
section
/-!
DEFINITION. The ladle (R284 to R300, R323, R324): tensor maps, the canonical layout, what each 32-byte sector of a command
reads and writes, the checks at issue, and the steps that issue a command and complete a sector.
-/
namespace Sys2Proof.Machine

/-! Tensor maps (R286). -/

structure TMap where
  base : Nat
  aux : Nat
  fmt : Nat
  ctype : Nat
  rank : Nat
  kv : Bool
  fill : Nat
  dim : List Nat
  win : Nat
  stride : List Nat
  box : List Nat
  deriving DecidableEq, Repr

def bytesAt (bs : List Byte) (o n : Nat) : Nat := ofBytes ((bs.drop o).take n)

/-- STRIDE[0] stands as 0; BOX holds extents. -/
def TMap.ofBytes (b : List Byte) : TMap :=
  { base := bytesAt b 0 8, aux := bytesAt b 8 8, fmt := bytesAt b 16 1, ctype := bytesAt b 17 1, rank := bytesAt b 18 1,
    kv := bytesAt b 19 1 % 2 == 1, fill := bytesAt b 20 4, dim := (List.range 9).map fun i => bytesAt b (24 + 4 * i) 4,
    win := bytesAt b 60 2, stride := (List.range 9).map fun i => if i = 0 then 0 else bytesAt b (64 + 6 * (i - 1)) 6,
    box := (List.range 9).map fun i => bytesAt b (112 + i) 1 + 1 }

/-- Bits of an element (R287); 0 for a reserved code. -/
def fmtBits (f : Nat) : Nat :=
  match f with
  | 0 => 64 | 1 => 32 | 2 => 16 | 3 => 16 | 4 => 8 | 5 => 8 | 6 => 4 | 7 => 8 | 8 => 4 | 9 => 8 | 10 => 4
  | 11 => 8 | 12 => 16 | 13 => 32 | 14 => 64 | 16 => 3 | 17 => 2 | _ => 0

/-- Scale bytes of a block: 1 MX, 2 BX, 0 otherwise. -/
def fmtScales (f : Nat) : Nat := if 4 ≤ f ∧ f ≤ 6 then 1 else if f = 7 ∨ f = 8 then 2 else 0

/-- The element container in bytes (R289). -/
def fmtContainer (f : Nat) : Nat := if f = 16 then 4 else max 1 (fmtBits f / 8)

/-- The value of an element code under its block's scale bytes (R97 to R102). -/
def fmtValue (f hi lo x : Nat) : FVal :=
  match f with
  | 0 => FFmt.f64.decode x
  | 1 => FFmt.f32.decode x
  | 2 => FFmt.f16.decode x
  | 3 => FFmt.bf16.decode x
  | 4 => scaleE8 hi (MiniFmt.e4m3.decode x)
  | 5 => scaleE8 hi (MiniFmt.e5m2.decode x)
  | 6 => scaleE8 hi (MiniFmt.e2m1.decode x)
  | 7 => bxDecode true hi lo x
  | 8 => bxDecode false hi lo x
  | 9 => FVal.ofInt (BitVec.ofNat 8 x).toInt
  | 10 => FVal.ofInt (BitVec.ofNat 4 x).toInt
  | _ => FVal.ofInt x

/-- The pairs of R288 by kind. -/
def pairOk (kind : Nat) (m : TMap) : Bool :=
  let plain (f : Nat) : Bool := fmtScales f == 0 && f != 16 && f != 17
  match kind with
  | 1 => m.fmt == m.ctype && m.fmt != 16 && m.fmt != 17
  | 2 => m.fmt == m.ctype && m.fmt != 16 && m.fmt != 17
  | 3 => ((m.fmt == 16 || m.fmt == 17) && m.ctype == 3) ||
      ((fmtScales m.fmt != 0 || m.fmt == 2 || m.fmt == 3) && (m.ctype == 1 || m.ctype == 3))
  | 4 =>
    if m.kv then m.ctype == 3 && (m.fmt == 4 || m.fmt == 9)
    else ((m.ctype == 1 || m.ctype == 3) && fmtScales m.fmt != 0) ||
      (m.ctype == 1 && (m.fmt == 1 || m.fmt == 2 || m.fmt == 3)) || (m.fmt == m.ctype && plain m.fmt)
  | 5 => m.ctype != 16 && m.ctype != 17
  | _ => true

/-- R298, code 0x02, but for the address. -/
def mapBad (kind : Nat) (m : TMap) : Bool :=
  m.rank == 0 || decide (9 < m.rank) || (kind == 2 && m.rank != 2) || fmtBits m.ctype == 0 ||
    (kind != 5 && fmtBits m.fmt == 0) || !pairOk kind m

/-! Geometry of the canonical box (R291, R292, R293). -/

def ceilDiv (a b : Nat) : Nat := (a + b - 1) / b

def TMap.ext (m : TMap) : Nat := m.box.getD 0 1
def TMap.lineBytes (m : TMap) : Nat := ceilDiv (m.ext * fmtBits m.ctype) 8
def TMap.chunks (m : TMap) : Nat := ceilDiv m.lineBytes 128
def TMap.lines (m : TMap) (kind : Nat) : Nat :=
  if kind = 4 && m.kv then 1 else ((m.box.take m.rank).drop 1).foldl (· * ·) 1
def TMap.rows (m : TMap) (kind : Nat) : Nat := m.chunks * m.lines kind
def TMap.blocks (m : TMap) : Nat := m.ext / 32

/-- The flags ZMAP and NFS, for the kinds that use them. -/
def Command.zmap (c : Command) : Bool := c.fld 8 1 == 1 && decide (1 ≤ c.kind ∧ c.kind ≤ 3)
def Command.nfs (c : Command) : Bool := c.fld 9 1 == 1 && decide (1 ≤ c.kind ∧ c.kind ≤ 3)
def Command.coord (c : Command) (i : Nat) : Int := (BitVec.ofNat 32 (c.fld (192 + 32 * i) 32)).toInt
def Command.dst (c : Command) : Nat := c.fld 160 32
def Command.stageOfs (c : Command) : Nat := if c.kind = 7 then noStage else c.fld 128 32
def Command.mapAddr (c : Command) : Nat := c.fld 64 64
def Command.mcast (c : Command) : Nat :=
  if c.kind = 1 ∨ c.kind = 2 ∨ c.kind = 3 ∨ c.kind = 5 then c.fld 480 4 else 0

def stripBytes (c : Command) (m : TMap) : Nat :=
  if c.kind = 1 ∨ c.kind = 2 then alignUp (m.lines c.kind * m.blocks * fmtScales m.fmt) 32 else 0
def zmapBits (c : Command) (m : TMap) : Nat := ceilDiv (m.lines c.kind) 16 * ceilDiv m.ext 32
def zmapBytes (c : Command) (m : TMap) : Nat := if c.zmap then alignUp (ceilDiv (zmapBits c m) 8) 32 else 0
def nfsBytes (c : Command) (m : TMap) : Nat := if c.nfs then alignUp (ceilDiv (ceilDiv (m.rows c.kind) 8) 8) 32 else 0

/-- T (R293). -/
def cmdTotal (c : Command) (m : TMap) : Nat :=
  match c.kind with
  | 6 => 2048
  | 7 => 0
  | 4 => 128 * m.rows 4
  | k => 128 * m.rows k + stripBytes c m + zmapBytes c m + nfsBytes c m

/-! Where elements lie (R289, R290). -/

/-- Coordinates 1 to RANK - 1 of line r; the gather list gives the one of a TGATHER. -/
def lineCoords (s : State) (c : Command) (m : TMap) (r : Nat) : List Int :=
  if c.kind = 2 then
    [(BitVec.ofNat 32 (ofBytes (Memory.readBytes s.scratch (c.base + c.fld (192 + 32 * 8) 32 + 4 * r) 4))).toInt]
  else
    ((List.range m.rank).drop 1).map fun i =>
      c.coord i + ((r / (((m.box.take i).drop 1).foldl (· * ·) 1) % m.box.getD i 1 : Nat) : Int)

/-- Whether a line lies in range in its own dimensions. -/
def lineIn (m : TMap) (xs : List Int) : Bool :=
  (List.range xs.length).all fun i => decide (0 ≤ xs.getD i 0 ∧ xs.getD i 0 < (m.dim.getD (i + 1) 0 : Int))

def lineOffset (m : TMap) (xs : List Int) : Nat :=
  (List.range xs.length).foldl (fun n i => n + (xs.getD i 0).toNat * m.stride.getD (i + 1) 0) 0

def lineIndex (m : TMap) (xs : List Int) : Nat :=
  (List.range xs.length).foldl (fun n i => n + (xs.getD i 0).toNat * (((m.dim.take (i + 1)).drop 1).foldl (· * ·) 1)) 0

/-- Coordinate 0 of element i of a line, if the element is in range. -/
def elemAt (c : Command) (m : TMap) (xs : List Int) (i : Nat) : Option Nat :=
  let x := c.coord 0 + (i : Int)
  if lineIn m xs && decide (0 ≤ x ∧ x < (m.dim.getD 0 0 : Int)) then some x.toNat else none

/-- The bit address of an element. -/
def elemBit (m : TMap) (xs : List Int) (x : Nat) : Nat :=
  8 * (m.base / fmtContainer m.fmt * fmtContainer m.fmt + lineOffset m xs) + x * fmtBits m.fmt

def tableVa (m : TMap) (xs : List Int) (x : Nat) : Nat :=
  m.aux / 16 * 16 + 16 * (x / 128 + m.dim.getD 0 0 / 128 * lineIndex m xs)

def scaleVa (m : TMap) (xs : List Int) (x : Nat) : Nat :=
  m.aux + fmtScales m.fmt * (lineIndex m xs * (m.dim.getD 0 0 / 32) + x / 32)

/-- The bytes that hold n bits at a bit address. -/
def bitTouch (a n : Nat) (w : Bool) : Touch := { va := a / 8, n := (a + n - 1) / 8 + 1 - a / 8, w := w }

def bitRead (s : State) (c : Command) (a n : Nat) : Nat :=
  cmdNat s c (a / 8) ((a + n - 1) / 8 + 1 - a / 8) / 2 ^ (a % 8) % 2 ^ n

/-- What reading an element touches: its bits, a CB3 table, and its scales where they count. -/
def elemTouches (m : TMap) (scales : Bool) (xs : List Int) (x : Nat) : List Touch :=
  bitTouch (elemBit m xs x) (fmtBits m.fmt) false ::
    ((if m.fmt = 16 then [{ va := tableVa m xs x, n := 16, w := false : Touch }] else []) ++
     (if scales && fmtScales m.fmt != 0 then [{ va := scaleVa m xs x, n := fmtScales m.fmt, w := false }] else []))

/-- The storage code of an element: a table or codebook entry for CB3 and VQ8 (R105, R106). -/
def elemCode (s : State) (c : Command) (m : TMap) (xs : List Int) (x : Nat) : Nat :=
  match m.fmt with
  | 16 => cmdNat s c (tableVa m xs x + 2 * bitRead s c (elemBit m xs x) 3) 2
  | 17 =>
    let v := (cmdByte s c (elemBit m xs x / 8)).toNat
    ofBytes (Memory.readBytes s.book (c.core * Config.codebookBytes + 2048 * (m.aux % 8) + 8 * v + 2 * (x % 4)) 2)
  | f => bitRead s c (elemBit m xs x) (fmtBits f)

def elemScales (s : State) (c : Command) (m : TMap) (xs : List Int) (x : Nat) : Nat × Nat :=
  ((cmdByte s c (scaleVa m xs x)).toNat, (cmdByte s c (scaleVa m xs x + 1)).toNat)

/-- Round to a canonical floating type: RNE, subnormals kept. -/
def toCtype (ctype : Nat) (v : FVal) : Nat :=
  match ctype with
  | 0 => FFmt.f64.round .rne false v
  | 1 => FFmt.f32.round .rne false v
  | 2 => FFmt.f16.round .rne false v
  | _ => FFmt.bf16.round .rne false v

/-- FILL as an element (R289). -/
def fillCode (m : TMap) : Nat :=
  if m.ctype = 0 then FFmt.f64.round .rne false (FFmt.f32.decode m.fill) else m.fill % 2 ^ fmtBits m.ctype

/-- The canonical element i of line r (R285, R288). -/
def canonCode (s : State) (c : Command) (m : TMap) (r i : Nat) : Nat :=
  if c.kind = 5 then fillCode m
  else
    let xs := lineCoords s c m r
    match elemAt c m xs i with
    | none => fillCode m
    | some x =>
      let code := elemCode s c m xs x
      if c.kind = 3 && m.fmt != 16 && m.fmt != 17 then
        let k := elemScales s c m xs x
        toCtype m.ctype (fmtValue m.fmt k.1 k.2 code)
      else code

/-! The canonical layout (R291). -/

/-- Where byte b of a line lies from D. -/
def canonOffset (nl r lineByte : Nat) : Nat :=
  let q := lineByte / 128 * nl + r
  let b := lineByte % 128
  128 * q + 16 * Nat.xor (b / 16) (q % 8) + b % 16

/-- A byte of the destination that was accounted and kept. -/
def Command.keptAt (c : Command) (ofs : Nat) : Option Byte := (c.kept.find? fun e => e.1 == ofs / 32).map fun e => e.2.getD (ofs % 32) 0

/-- Where the first byte of a canonical element lies from D, and where its block's scales do. -/
def elemOffset (c : Command) (m : TMap) (r i : Nat) : Nat := canonOffset (m.lines c.kind) r (i * fmtBits m.ctype / 8)
def scaleOffset (c : Command) (m : TMap) (r i : Nat) : Nat :=
  128 * m.rows c.kind + fmtScales m.ctype * (r * m.blocks + i / 32)

/-- The canonical element that a zero map or a summary tells of: as kept, or as its source has it (R446). -/
def toldCode (s : State) (c : Command) (m : TMap) (r i : Nat) : Nat :=
  let bits := fmtBits m.ctype
  let at_ (b : Nat) : Option Byte := c.keptAt (canonOffset (m.lines c.kind) r b)
  match at_ (i * bits / 8) with
  | none => canonCode s c m r i
  | some b =>
    if bits < 8 then b.toNat / 16 ^ (i % 2) % 16
    else ofBytes ((List.range (bits / 8)).map fun n => (at_ (i * bits / 8 + n)).getD 0)

/-- Its block's scales: 0 for a block out of range. -/
def toldScales (s : State) (c : Command) (m : TMap) (r i : Nat) : Nat × Nat :=
  match c.keptAt (scaleOffset c m r i) with
  | some b => (b.toNat, ((c.keptAt (scaleOffset c m r i + 1)).getD 0).toNat)
  | none =>
    match elemAt c m (lineCoords s c m r) i with
    | some x => elemScales s c m (lineCoords s c m r) x
    | none => (0, 0)

/-- The value of a canonical element, its block's scales included. -/
def canonValue (s : State) (c : Command) (m : TMap) (r i : Nat) : FVal :=
  let k := if fmtScales m.ctype = 0 then (0, 0) else toldScales s c m r i
  fmtValue m.ctype k.1 k.2 (toldCode s c m r i)

/-- The line and the byte of it that the j-th byte of data sector k holds. -/
def sectorByte (nl k j : Nat) : Nat × Nat :=
  let q := k / 4
  let piece := 2 * (k % 4) + j / 16
  (q % nl, q / nl * 128 + 16 * Nat.xor piece (q % 8) + j % 16)

/-- The elements that a byte of a line holds. -/
def byteElems (m : TMap) (lineByte : Nat) : List Nat :=
  let bits := fmtBits m.ctype
  if m.lineBytes ≤ lineByte then []
  else if 8 ≤ bits then [lineByte / (bits / 8)]
  else (List.range 2).filterMap fun h => if 2 * lineByte + h < m.ext then some (2 * lineByte + h) else none

/-- The elements of data sector k: the line and the elements in order. -/
def sectorElems (m : TMap) (nl k : Nat) : Nat × List Nat :=
  ((sectorByte nl k 0).1, ((List.range 32).flatMap fun j => byteElems m (sectorByte nl k j).2).dedup)

/-- One byte of a line from its elements. -/
def packByte (m : TMap) (lineByte : Nat) (code : Nat → Nat) : Byte :=
  let bits := fmtBits m.ctype
  BitVec.ofNat 8 (if 8 ≤ bits then
      ((byteElems m lineByte).foldl (fun n e => n + code e / 2 ^ (8 * (lineByte % (bits / 8))) % 256) 0)
    else (byteElems m lineByte).foldl (fun n e => n + code e % 16 * 16 ^ (e % 2)) 0)

/-- The 32 bytes of destination sector k of a load (R291, R292). -/
def loadSector (s : State) (c : Command) (m : TMap) (k : Nat) : List Byte :=
  let nl := m.lines c.kind
  let data := 4 * m.rows c.kind
  let strip := stripBytes c m / 32
  let zm := zmapBytes c m / 32
  (List.range 32).map fun j =>
    if k < data then
      let p := sectorByte nl k j
      packByte m p.2 fun e => canonCode s c m p.1 e
    else if k < data + strip then
      let n := 32 * (k - data) + j
      let e := fmtScales m.fmt
      let r := n / e / m.blocks
      let xs := lineCoords s c m r
      if nl ≤ r then 0
      else match elemAt c m xs (32 * (n / e % m.blocks)) with
        | some x => cmdByte s c (scaleVa m xs x + n % e)
        | none => 0
    else
      let isZ := decide (k < data + strip + zm)
      let n := if isZ then 32 * (k - data - strip) + j else 32 * (k - data - strip - zm) + j
      let bit (z : Nat) : Bool :=
        if isZ then
          let h := ceilDiv m.ext 32
          decide (z < zmapBits c m) && (List.range 16).all fun dr => (List.range 32).all fun di =>
            let r := 16 * (z / h) + dr
            let i := 32 * (z % h) + di
            decide (nl ≤ r ∨ m.ext ≤ i) || (canonValue s c m r i).isZero
        else
          (List.range 8).any fun dq =>
            let q := 8 * z + dq
            decide (q < m.rows c.kind) && (List.range 4).any fun o =>
              let se := sectorElems m nl (4 * q + o)
              se.2.any fun i => (canonValue s c m se.1 i).isNan || (canonValue s c m se.1 i).isInf
      BitVec.ofNat 8 (((List.range 8).map fun b => if bit (8 * n + b) then 2 ^ b else 0).foldl (· + ·) 0)

/-- What destination sector k of a load reads. -/
def loadTouches (s : State) (c : Command) (m : TMap) (k : Nat) : List Touch :=
  let nl := m.lines c.kind
  let data := 4 * m.rows c.kind
  let strip := stripBytes c m / 32
  let zm := zmapBytes c m / 32
  let ofElem (sc : Bool) (r i : Nat) : List Touch :=
    let xs := lineCoords s c m r
    match elemAt c m xs i with
    | some x => elemTouches m sc xs x
    | none => []
  let told (r i : Nat) : List Touch :=
    let xs := lineCoords s c m r
    match elemAt c m xs i with
    | none => []
    | some x =>
      (if (c.keptAt (elemOffset c m r i)).isSome then [] else elemTouches m (c.kind = 3) xs x) ++
        (if fmtScales m.ctype = 0 || (c.keptAt (scaleOffset c m r i)).isSome then []
         else [{ va := scaleVa m xs x, n := fmtScales m.fmt, w := false }])
  if c.kind = 5 then []
  else if c.kind = 6 then [{ va := c.mapAddr + 32 * k, n := 32, w := false }]
  else if k < data then
    let se := sectorElems m nl k
    se.2.flatMap (ofElem (c.kind = 3) se.1)
  else if k < data + strip then
    (List.range 32).flatMap fun j =>
      let n := 32 * (k - data) + j
      let e := fmtScales m.fmt
      let r := n / e / m.blocks
      let xs := lineCoords s c m r
      if nl ≤ r then []
      else match elemAt c m xs (32 * (n / e % m.blocks)) with
        | some x => [{ va := scaleVa m xs x + n % e, n := 1, w := false }]
        | none => []
  else if k < data + strip + zm then
    let h := ceilDiv m.ext 32
    (List.range 256).flatMap fun b =>
      let z := 256 * (k - data - strip) + b
      if zmapBits c m ≤ z then []
      else (List.range 16).flatMap fun dr => (List.range 32).flatMap fun di =>
        let r := 16 * (z / h) + dr
        let i := 32 * (z % h) + di
        if nl ≤ r ∨ m.ext ≤ i then [] else told r i
  else
    (List.range 2048).flatMap fun dq =>
      let q := 2048 * (k - data - strip - zm) + dq
      if m.rows c.kind ≤ q then []
      else (List.range 4).flatMap fun o =>
        let se := sectorElems m nl (4 * q + o)
        se.2.flatMap (told se.1)

/-! TQSTORE (R296, R297). -/

/-- A source element: canonical bytes of the scratchpad. -/
def srcCode (s : State) (c : Command) (m : TMap) (r i : Nat) : Nat :=
  let bits := fmtBits m.ctype
  let a (lb : Nat) : Nat := c.base + c.dst + canonOffset (m.lines 4) r lb
  if 8 ≤ bits then ofBytes ((List.range (bits / 8)).map fun b => Memory.read s.scratch (a (i * (bits / 8) + b)))
  else (Memory.read s.scratch (a (i / 2))).toNat / 16 ^ (i % 2) % 16

def srcValue (s : State) (c : Command) (m : TMap) (r i : Nat) : FVal := fmtValue m.ctype 0 0 (srcCode s c m r i)

/-- The source sectors that complete together with sector k: those of its block, or of the whole command in the KV mode. -/
def sectorGroup (m : TMap) (k : Nat) : List Nat :=
  let nl := m.lines 4
  if m.kv then List.range (4 * m.rows 4)
  else if fmtScales m.fmt = 0 then [k]
  else
    let se := sectorElems m nl k
    match se.2.head? with
    | none => [k]
    | some e => (List.range (4 * m.rows 4)).filter fun j =>
        let x := sectorElems m nl j
        x.1 == se.1 && x.2.any fun i => i / 32 == e / 32

/-- One masked byte to be written at a virtual address. -/
structure Put where
  va : Nat
  mask : Byte
  val : Byte
  deriving DecidableEq, Repr

def putBytes (va : Nat) (bs : List Byte) : List Put :=
  (List.range bs.length).map fun i => { va := va + i, mask := 0xFF, val := bs.getD i 0 }

/-- n bits at a bit address, within bytes for n = 4. -/
def putBits (a n x : Nat) : List Put :=
  if 8 ≤ n then putBytes (a / 8) (toBytes x (n / 8))
  else [{ va := a / 8, mask := BitVec.ofNat 8 (15 * 2 ^ (a % 8)), val := BitVec.ofNat 8 (x % 16 * 2 ^ (a % 8)) }]

/-- The bytes derived from source sector k outside the KV mode. -/
def storePuts (s : State) (c : Command) (m : TMap) (k : Nat) : List Put :=
  let se := sectorElems m (m.lines 4) k
  let xs := lineCoords s c m se.1
  if fmtScales m.fmt = 0 then
    se.2.flatMap fun i =>
      match elemAt c m xs i with
      | none => []
      | some x =>
        let code := if m.fmt = m.ctype then srcCode s c m se.1 i else toCtype m.fmt (srcValue s c m se.1 i)
        putBits (elemBit m xs x) (fmtBits m.fmt) code
  else
    match se.2.head? with
    | none => []
    | some e =>
      let b := e / 32
      match elemAt c m xs (32 * b) with
      | none => []
      | some x0 =>
        let vs := (List.range 32).map fun i => srcValue s c m se.1 (32 * b + i)
        let q : List Nat × List Nat :=
          match m.fmt with
          | 4 => let r := deriveMx MiniFmt.e4m3 vs; ([r.1], r.2)
          | 5 => let r := deriveMx MiniFmt.e5m2 vs; ([r.1], r.2)
          | 6 => let r := deriveMx MiniFmt.e2m1 vs; ([r.1], r.2)
          | f => let r := deriveBx (f == 7) vs; ([r.1, r.2.1], r.2.2)
        ((List.range 32).flatMap fun i => putBits (elemBit m xs (x0 + i)) (fmtBits m.fmt) (q.2.getD i 0)) ++
          putBytes (scaleVa m xs x0) (q.1.map (BitVec.ofNat 8))

/-! The KV mode. -/

def kvRing (m : TMap) (k : Nat) : Nat := m.aux + 2 * m.dim.getD 0 0 * k
def kvScale (m : TMap) (ch : Nat) : Nat := m.aux + 2 * m.dim.getD 0 0 * m.win + 4 * ch
def kvRow (m : TMap) (u : Nat) : Nat := m.base / fmtContainer m.fmt * fmtContainer m.fmt + u * m.stride.getD 1 0

/-- The token, if it is in range. -/
def kvToken (c : Command) (m : TMap) : Option Nat :=
  if 0 ≤ c.coord 1 ∧ c.coord 1 < (m.dim.getD 1 0 : Int) then some (c.coord 1).toNat else none

/-- The scale of a channel: as stored, or derived from the ring; the flag tells a derived one. -/
def kvScaleOf (s : State) (c : Command) (m : TMap) (ch : Nat) : Nat × Bool :=
  let sc := cmdNat s c (kvScale m ch) 4
  if sc % 2 ^ 31 ≠ 0 then (sc, false)
  else
    let vals := (List.range m.win).map fun k => FFmt.bf16.decode (cmdNat s c (kvRing m k + 2 * ch) 2)
    match blockLg vals with
    | none => (FFmt.f32.oneBits, true)
    | some l => (FFmt.f32.round .rne false (.fin false 1 (l - (if m.fmt = 4 then 8 else 6))), true)

/-- What the command writes (R297). -/
def kvPuts (s : State) (c : Command) (m : TMap) : List Put :=
  match kvToken c m with
  | none => []
  | some t =>
    let n := m.dim.getD 0 0
    let src := putBytes (kvRing m (t % m.win)) ((List.range n).flatMap fun ch => toBytes (srcCode s c m 0 ch) 2)
    if t < m.win then src
    else
      let u := t - m.win
      ((List.range n).flatMap fun ch =>
        let k := kvScaleOf s c m ch
        let x := FFmt.bf16.decode (cmdNat s c (kvRing m (u % m.win) + 2 * ch) 2)
        let f := FFmt.f32.decode k.1
        let b := if m.fmt = 4 then quantE4M3 x f else quantS8 x f
        (if k.2 then putBytes (kvScale m ch) (toBytes k.1 4) else []) ++ [{ va := kvRow m u + ch, mask := 0xFF, val := b }]) ++
        src

/-- What the KV mode reads: scales and the row, and the whole ring where a scale is to be derived. -/
def kvTouches (s : State) (c : Command) (m : TMap) : List Touch :=
  match kvToken c m with
  | none => []
  | some t =>
    let n := m.dim.getD 0 0
    let row (k : Nat) : List Touch := (List.range (n / 8)).map fun i => { va := kvRing m k + 16 * i, n := 16, w := false }
    if t < m.win then []
    else
      ((List.range (n / 4)).map fun i => { va := kvScale m (4 * i), n := 16, w := false }) ++ row ((t - m.win) % m.win) ++
        (if (List.range n).any fun ch => cmdNat s c (kvScale m ch) 4 % 2 ^ 31 == 0 then
          (List.range m.win).flatMap row else [])

/-- The bytes a TQSTORE writes with sector k. -/
def sectorPuts (s : State) (c : Command) (m : TMap) (k : Nat) : List Put :=
  if c.kind != 4 then [] else if m.kv then kvPuts s c m else storePuts s c m k

/-- Everything sector k reads or writes in memory. -/
def sectorTouches (s : State) (c : Command) (m : TMap) (k : Nat) : List Touch :=
  if c.kind = 4 then
    (if m.kv then kvTouches s c m else []) ++ (sectorPuts s c m k).map fun p => { va := p.va, n := 1, w := true }
  else loadTouches s c m k

/-- The destination lines of sector k in memory, as they translate now with their protocols, and in the targets' scratchpads. -/
def sectorPages (s : State) (c : Command) (m : TMap) (k : Nat) : List (Nat × Nat) :=
  if c.kind = 4 then touchPages s c true (sectorTouches s c m k) else []

def sectorPads (c : Command) (k : Nat) : List Nat :=
  if c.kind = 4 ∨ c.kind = 6 then [] else c.targets.map fun t => (t.2 + c.dst + 32 * k) / 128

def sectorLines (s : State) (c : Command) (m : TMap) (k : Nat) : List (Space × Nat) :=
  ((sectorPages s c m k).map fun g => (Space.global, g.1)) ++ (sectorPads c k).map fun l => (Space.scratch, l)

/-- The lines of some sectors are taken (R247). -/
def takeSectors (s : State) (c : Command) (m : TMap) (ks : List Nat) : Take :=
  takeLines s c (ks.flatMap (sectorPages s c m)).dedup (ks.flatMap (sectorPads c)).dedup

/-- The lines sector k reads: in memory, and the source rows or the gather list in scratchpad. -/
def sectorSources (s : State) (c : Command) (m : TMap) (k : Nat) : List (Space × Nat) :=
  ((touchLines s c false (sectorTouches s c m k)).map fun l => (Space.global, l)) ++
    (if c.kind = 4 then
       (if m.kv then (List.range (m.rows 4)).map fun i => (Space.scratch, (c.base + c.dst) / 128 + i)
        else [(Space.scratch, (c.base + c.dst + 32 * k) / 128)])
     else if c.kind = 2 then
       (List.range (m.lines 2)).map fun r => (Space.scratch, (c.base + c.fld (192 + 32 * 8) 32 + 4 * r) / 128)
     else [])

def cmdSectors (c : Command) : List Nat := List.range (c.total / 32)
def openSectors (c : Command) : List Nat := (cmdSectors c).filter fun k => !c.done.contains k

/-! Checks at issue (R298). -/

/-- The targets a command names: its own billet, or the members of its mask. -/
def cmdTargets (s : State) (c : Command) : List (Nat × Nat) :=
  let own := match s.billets.get? c.billet with
    | some b => if b.wp = c.wp ∧ b.set = c.set then some b else none
    | none => none
  match own with
  | none => []
  | some b =>
    if c.mcast = 0 then [(c.billet, scratchAddr c.core b.scratchBase)]
    else (setBillets s b.wp b.set).filterMap fun e =>
      if c.mcast / 2 ^ e.2.member % 2 = 1 then some (e.1, scratchAddr (e.1 / 4) e.2.scratchBase) else none

def fitsTargets (s : State) (ts : List (Nat × Nat)) (ofs n : Nat) : Bool :=
  ts.all fun t => (s.billets.get? t.1).any fun b => decide (ofs + n ≤ b.scratchSize)

/-- The multiple of R290 that DIM[0], c[0] and the box extent must be. -/
def fmtMultiple (kind : Nat) (m : TMap) : Nat :=
  if kind = 5 then 1 else if m.fmt = 16 then 128 else if m.fmt = 17 then 4 else if fmtScales m.fmt != 0 && !(kind = 4 && m.kv) then 32 else 1

def constraintBad (c : Command) (m : TMap) : Bool :=
  let n := fmtMultiple c.kind m
  let idx := List.range m.rank
  idx.any (fun i => m.dim.getD i 0 == 0) || (c.kind == 4 && m.kv && m.win == 0) ||
    m.dim.getD 0 0 % n != 0 || c.coord 0 % (n : Int) != 0 || m.ext % n != 0 ||
    (c.kind != 5 && (idx.drop 1).any fun i => m.stride.getD i 0 % fmtContainer m.fmt != 0) ||
    (c.kind == 4 && m.kv && (m.rank != 2 || m.dim.getD 0 0 % 64 != 0 || decide (4096 < m.win) || c.coord 0 != 0 ||
      m.ext != m.dim.getD 0 0))

/-- The billet that a slot of a core's codebooks is tagged for (R295). -/
def bookTag (s : State) (core slot : Nat) : Option Nat := ((s.core core).books.find? fun e => e.1 == slot).map Prod.snd

/-- A VQ8 decode comes after an earlier TCBLOAD of its slot (R295). -/
def bookBusy (s : State) (c : Command) (m : TMap) : Bool :=
  c.kind == 3 && m.fmt == 17 && s.ladle.any fun o =>
    o.core == c.core && decide (o.id < c.id) && o.running && o.kind == 6 && o.fld 192 3 == m.aux % 8

/-- The codes of a TMAPLD with its map. -/
def loadCodes (m : TMap) : List (Bool × Nat) :=
  [(m.rank == 0 || decide (9 < m.rank) || fmtBits m.ctype == 0 || fmtBits m.fmt == 0, 2),
   ((List.range m.rank).any fun i => m.dim.getD i 0 == 0, 7)]

/-- The codes of a command with its map. -/
def mapCodes (s : State) (c : Command) (m : TMap) : List (Bool × Nat) :=
  let bad2 := mapBad c.kind m
  let t := cmdTotal c m
  let slotTag := (bookTag s c.core (m.aux % 8)).bind fun k => (s.billets.get? k).map Billet.wp
  [(bad2, 2),
   (!bad2 && (c.dst % 128 != 0 || !fitsTargets s c.targets c.dst t ||
     (c.kind == 2 && !fitsTargets s [(c.billet, 0)] (c.fld (192 + 32 * 8) 32) (4 * m.lines 2))), 3),
   (!bad2 && c.kind == 3 && m.fmt == 17 && slotTag != some c.wp, 6),
   (!bad2 && constraintBad c m, 7)]

def stageCode (s : State) (c : Command) : Bool × Nat :=
  (c.stageOfs != noStage && c.targets.any fun t => !stageOk s t c.stageOfs, 4)

def mcastCode (s : State) (c : Command) : Bool × Nat :=
  (decide (((s.wps.get? c.wp).map fun w => 2 ^ pktSet w.packet).getD 16 ≤ c.mcast), 5)

/-! Issue. -/

/-- What reading the map comes to (R300). -/
inductive MapRead where
  | ok (bs : List Byte)
  | fail (code : Nat)
  | park

/-- The map a command has read, or finds in the cache (R300); TMAPLD always reads memory. -/
def hadMap (s : State) (c : Command) : Option (List Byte) :=
  if c.kind = 7 then none
  else if !c.map.isEmpty then some c.map
  else ((s.core c.core).maps.find? fun e => e.1 == c.ctx && e.2.1 == c.mapAddr).map fun e => e.2.2

def readMap (s : State) (c : Command) : MapRead :=
  let a := c.mapAddr
  match hadMap s c with
  | some bs => .ok bs
  | none =>
    if a % 128 ≠ 0 then .fail 2
    else if !canonical a then .fail 8
    else match cmdTr s c a false with
      | .ok _ _ _ => .ok ((List.range 128).map fun i => cmdByte s c (a + i))
      | .prot _ => .fail 8
      | .fault => .park

/-- R300: at most eight maps stay; which one leaves is open. -/
def cacheMap (s : State) (c : Command) (bs : List Byte) : State :=
  s.updCore c.core fun k =>
    let rest := k.maps.filter fun e => !(e.1 == c.ctx && e.2.1 == c.mapAddr)
    let rest := if rest.length < 8 then rest else rest.eraseIdx (Config.pick s.fresh c.core 300 % 8)
    { k with maps := rest ++ [(c.ctx, c.mapAddr, bs)] }

/-- The end of a command whose sectors are all accounted. -/
def endIfDone (s : State) (id : Nat) : State :=
  match s.ladle.find? fun c => c.id == id with
  | none => s
  | some c => if (openSectors c).isEmpty then completeAll (s.dropEngine id) else s

/-- A command that has its lines starts; what faults is recorded (R284, R393). -/
def runLadle (c : Command) (m : TMap) (s : State) : State :=
  let s := s.updEngine c.id fun x => { x with running := true }
  let own := targetLive s c (c.billet, 0)
  let s := if own && c.targets.any fun t => t.1 != c.billet then s.irrevocable c.billet else s
  let s := if c.kind = 6 then
      s.updCore c.core fun k =>
        { k with books := (k.books.filter fun e => e.1 != c.fld 192 3) ++ if own then [(c.fld 192 3, c.billet)] else [] }
    else s
  endIfDone (passCommand s 1 c ((cmdSectors c).flatMap (sectorTouches s c m))) c.id

/-- The line of a command's map, with its protocol. -/
def mapPage (s : State) (c : Command) : List (Nat × Nat) :=
  match cmdTr s c c.mapAddr false with
  | .ok pa proto _ => [(lineOf pa, proto)]
  | _ => []

/-- R294: what a command reads at issue, its map and a gather list, waits for earlier commands that own the lines. -/
def issueWaits (s : State) (c : Command) : Bool :=
  let list := if c.kind = 2 then
      (List.range 512).map fun i => (Space.scratch, (c.base + c.fld (192 + 32 * 8) 32) / 128 + i)
    else []
  (((mapPage s c).map fun g => (Space.global, g.1)) ++ list).any (ownedByOther s c true)

/-- A command with its map: the lowest code of the checks that fail, or the lines it is to write, and the start (R284, R298). -/
def checkLadle (ev : String) (s : State) (c : Command) (m : TMap) (codes : List (Bool × Nat)) : Out :=
  let fail (code : Nat) : Out := .next (failCommand s c 1 code c.mapAddr c.stageOfs)
  match lowestCode ((c.kind == 0 || decide (7 < c.kind), 1) :: stageCode s c :: mcastCode s c :: codes) with
  | some code => fail code
  | none =>
    let c := { c with total := cmdTotal c m }
    if touchProt s c ((cmdSectors c).flatMap (sectorTouches s c m)) then fail 8
    else (takeSectors (s.updEngine c.id fun _ => c) c m (cmdSectors c)).out ev fun s => .next (runLadle c m s)

/-- A command at the head of its core's queue issues (R284): map, checks, ownership. -/
def issueLadle (kinds : Nat → Bool) (ev : String) (id : Nat) (s : State) : Out :=
  match s.ladle.find? fun c => c.id == id with
  | none => idle ev
  | some c =>
    if !kinds c.kind || c.running || !c.parks.isEmpty || !cmdReady s c ||
        ((ladleQueue s c.core).head?.map Command.id) != some id then idle ev
    else
      let base := ((s.billets.get? c.billet).map fun b => scratchAddr c.core b.scratchBase).getD 0
      let c := { c with targets := cmdTargets s c, base := base }
      if c.kind = 0 ∨ 7 < c.kind then .next (failCommand s c 1 1 c.mapAddr c.stageOfs)
      else if issueWaits s c then idle ev
      else if c.kind = 6 then
        let tag := bookTag s c.core (c.fld 192 3)
        checkLadle ev s c (TMap.ofBytes []) [(c.mapAddr % 8 != 0, 3), (tag.isSome && tag != some c.billet, 6), (!canonical c.mapAddr, 8)]
      else (fetchLines s c (if (hadMap s c).isSome then [] else mapPage s c)).out ev fun s =>
        match readMap s c with
        | .park => .next (passCommand s 1 c ((List.range 4).map fun i => { va := c.mapAddr + 32 * i, n := 32, w := false }))
        | .fail k => checkLadle ev s c (TMap.ofBytes []) [(true, k), (c.kind != 7 && c.dst % 128 != 0, 3)]
        | .ok bs =>
          let s := cacheMap s c bs
          let m := TMap.ofBytes bs
          checkLadle ev s { c with map := bs } m (if c.kind = 7 then loadCodes m else mapCodes s c m)

def execTcopy (id : Nat) (s : State) : Out := issueLadle (fun k => k == 1 || k == 0 || decide (7 < k)) "TCOPY" id s
def execTgather (id : Nat) (s : State) : Out := issueLadle (· == 2) "TGATHER" id s
def execTdecode (id : Nat) (s : State) : Out := issueLadle (· == 3) "TDECODE" id s
def execTqstore (id : Nat) (s : State) : Out := issueLadle (· == 4) "TQSTORE" id s
def execTfill (id : Nat) (s : State) : Out := issueLadle (· == 5) "TFILL" id s
def execTcbload (id : Nat) (s : State) : Out := issueLadle (· == 6) "TCBLOAD" id s
def execTmapld (id : Nat) (s : State) : Out := issueLadle (· == 7) "TMAPLD" id s

/-! Sectors. -/

/-- The writes of sector k, then its account (R174, R293). -/
def doSector (s : State) (c : Command) (m : TMap) (k : Nat) : State :=
  match c.kind with
  | 4 => (sectorPuts (raceView s) c m k).foldl (fun s p => cmdStore s c p.va p.mask p.val) s
  | 6 =>
    let bs := (List.range 32).map fun j => cmdByte s c (c.mapAddr + 32 * k + j)
    { s with book := Memory.writeBytes s.book (c.core * Config.codebookBytes + 2048 * c.fld 192 3 + 32 * k) bs }
  | _ =>
    let bs := loadSector s c m k
    c.targets.foldl (fun s t => cmdScratch s c t (c.dst + 32 * k) bs) s

/-- The bytes of a sector that a zero map or a summary of the command is still to tell of (R446). -/
def keepSector (s : State) (c : Command) (m : TMap) (k : Nat) : List (Nat × List Byte) :=
  if (c.zmap || c.nfs) && decide (32 * k < 128 * m.rows c.kind + stripBytes c m) then [(k, loadSector s c m k)] else []

/-- Sector k is written, with those of its group, and accounted; lines with nothing left to write are released (R247, R293). -/
def completeSector (c : Command) (m : TMap) (k : Nat) (s : State) : State :=
  let g := if c.kind = 4 then (sectorGroup m k).filter fun j => !c.done.contains j else [k]
  let c' := { c with done := c.done ++ g, kept := c.kept ++ keepSector s c m k }
  let left := (openSectors c').flatMap (sectorLines s c' m)
  let ended := (g.flatMap (sectorLines s c m)).filter fun l => !left.contains l
  let s := (doSector s c m k).updEngine c.id fun x =>
    { x with done := c'.done, kept := c'.kept, owned := x.owned.filter fun l => !ended.contains l }
  endIfDone (accountStage (bumpPerf s c.ctx c.core 4 g.length) c c.stageOfs (32 * g.length)) c.id

/-- LADLE_SECTOR_COMPLETE (R293): sector k of a command, with those written together with it.  A page that no longer
translates parks what is outstanding (R445), or fails the command (R298). -/
def execLadleSectorComplete (id k : Nat) (s : State) : Out :=
  let ev := "LADLE_SECTOR_COMPLETE"
  match s.ladle.find? fun c => c.id == id with
  | none => idle ev
  | some c =>
    let m := TMap.ofBytes c.map
    let ts := sectorTouches s c m k
    if !c.running || !(openSectors c).contains k || bookBusy s c m then idle ev
    else if touchProt s c ts then .next (failCommand s c 1 8 c.mapAddr c.stageOfs)
    else if !(touchFaults s c ts).isEmpty then
      if (touchFaults s c ts).all fun f => parkedAt c f.1 then idle ev
      else .next (passCommand s 1 c ((openSectors c).flatMap (sectorTouches s c m)))
    else if (sectorSources s c m k).any (ownedByOther s c true) then idle ev
    else match engineError s c ((sectorSources s c m k).filter fun l => l.1 == .scratch) with
      | some e => .next (consumeAt s c.billet e)
      | none => (takeSectors s c m [k]).out ev fun s =>
        (fetchLines s c (touchPages s c false ts)).out ev fun s => .next (completeSector c m k s)

/-- R396, R446: a command retried: the granules of one TAG are translated again. -/
def retryLadle (s : State) (c : Command) (tag : Nat) : State :=
  let c := { c with parks := c.parks.filter fun p => p.tag != tag }
  let s := s.updEngine c.id fun _ => c
  if !c.running then s
  else
    let m := TMap.ofBytes c.map
    let ts := (openSectors c).flatMap (sectorTouches s c m)
    if touchProt s c ts then failCommand s c 1 8 c.mapAddr c.stageOfs else passCommand s 1 c ts

end Sys2Proof.Machine
end

