-- ==== Sys2Proof/Machine/Anvil.lean ====
section
/-!
DEFINITION. Matrix instructions: the rendezvous latch (R180, R181, R303), the checks at its release (R307, R327), the
accumulator memory (R309), MMA and the other instructions of the anvil (R310 to R318, R326 to R333).
-/
namespace Sys2Proof.Machine

/-! Types of MMA (R301, R310). -/

def MatT.bits : MatT → Nat
  | .f64 => 64 | .f32 => 32 | .bf16 => 16 | .f16 => 16 | .e4m3 => 8 | .e5m2 => 8 | .e2m1 => 4 | .bx8 => 8 | .bx4 => 4
  | .s8 => 8 | .s4 => 4

def MatT.k (t : MatT) : Nat := 512 / t.bits
def MatT.fmt : MatT → Nat
  | .f64 => 0 | .f32 => 1 | .bf16 => 3 | .f16 => 2 | .e4m3 => 4 | .e5m2 => 5 | .e2m1 => 6 | .bx8 => 7 | .bx4 => 8
  | .s8 => 9 | .s4 => 10
def MatT.isInt : MatT → Bool
  | .s8 => true | .s4 => true | _ => false
/-- Exponent bytes per block. -/
def MatT.e (t : MatT) : Nat := fmtScales t.fmt
/-- Scale registers per 32 rows (U). -/
def MatT.u (t : MatT) : Nat := ceilDiv (t.k / 32 * t.e) 4
def MatT.acc (t : MatT) : FFmt := if t = .f64 then FFmt.f64 else FFmt.f32

/-- Bytes of an accumulator element (R325). -/
def MatOp.z : MatOp → Nat
  | .mma t _ _ _ _ _ _ _ _ => if t = .f64 then 8 else 4
  | .mzero _ w => if w then 8 else 4
  | .mdrain k _ _ _ => if k = 1 then 8 else 4
  | .mload _ _ w => if w then 8 else 4
  | .mstore _ _ _ w => if w then 8 else 4
  | .mscl _ _ w => if w then 8 else 4
  | .maddc _ _ w => if w then 8 else 4
  | .mcopy _ _ w => if w then 8 else 4
  | .mstat _ _ w => if w then 8 else 4

/-- Region origins an instruction names. -/
def MatOp.regions : MatOp → List Nat
  | .mma _ _ _ _ _ a _ _ _ => [a]
  | .mzero a _ => [a]
  | .mdrain _ _ a _ => [a]
  | .mload _ a _ => [a]
  | .mstore _ _ a _ => [a]
  | .mscl _ a _ => [a]
  | .maddc _ a _ => [a]
  | .mcopy a b _ => [a, b]
  | .mstat _ a _ => [a]

/-! The latch. -/

def liveTids (s : State) (cid : Nat) : List Nat :=
  (crewTids cid).filter fun t => (s.threads.get? t).isSome && (s.thr t).status != .ended

/-- A crew at the latch: every live thread waits there at one word; the operation and when the last arrived. -/
structure AtLatch where
  op : MatOp
  pc : BitVec 57
  widx : Nat
  gang : BitVec 16
  since : Nat
  deriving DecidableEq, Repr

def latchOf (s : State) (t : Nat) : Option (MatOp × Nat) :=
  match (s.thr t).status with
  | .latch op _ since => some (op, since)
  | _ => none

def crewLatch (s : State) (cid : Nat) : Option AtLatch :=
  match liveTids s cid with
  | [] => none
  | t0 :: ts =>
    match latchOf s t0 with
    | none => none
    | some (op, since) =>
      let x := s.thr t0
      if ts.all fun t => (latchOf s t).any (fun l => l.1 == op) && (s.thr t).pc == x.pc && (s.thr t).widx == x.widx then
        some { op := op, pc := x.pc, widx := x.widx, gang := (s.crew cid).gang,
               since := ts.foldl (fun m t => max m (((latchOf s t).map Prod.snd).getD 0)) since }
      else none

def gangNumbers (g : BitVec 16) : List Nat := (List.range 16).filter fun n => g.getLsbD n

/-- The crew of a billet with a number. -/
def crewByNumber (s : State) (cid n : Nat) : Option Nat :=
  (s.billet? cid).bind fun b => b.crews.find? fun c => (s.crew c).number == n

/-- R181, but for the time limit: a crew at the latch fails. -/
def gangFault (s : State) (cid : Nat) (x : AtLatch) : Bool :=
  let ns := gangNumbers x.gang
  decide (ns.length < 2 ∨ 6 < ns.length) || !x.gang.getLsbD (s.crew cid).number ||
    ns.any fun n =>
      match crewByNumber s cid n with
      | none => true
      | some c =>
        (s.crew c).role != .mtx || (liveTids s c).isEmpty ||
          (match crewLatch s c with
           | none => false
           | some y => y.gang != x.gang || y.op != x.op || y.pc != x.pc || y.widx != x.widx)

def gangInfo (s : State) (t : Nat) : Nat × TrapInfo :=
  (t, { trap := .gangfail, detail := (s.crew (crewOf t)).gang.toNat })

/-- The crews of the billet of a crew that stand at the latch. -/
def latchCrews (s : State) (cid : Nat) : List (Nat × AtLatch) :=
  match s.billet? cid with
  | none => []
  | some b => b.crews.filterMap fun c => (crewLatch s c).map fun x => (c, x)

/-- How often a lane has passed the matrix word at a place, over the slowest of its crew (R303). -/
def matTurn (s : State) (place : BitVec 57 × Nat) (t : Nat) : Nat :=
  (((s.crew (crewOf t)).matSeen.find? fun e => e.1 == place.1 && e.2.1 == place.2 && e.2.2.1 == laneOf t).map
    fun e => e.2.2.2).getD 0

/-- Lanes of a crew pass a matrix word; turns that every live lane has had are forgotten. -/
def passMat (place : BitVec 57 × Nat) (ts : List Nat) (s : State) (cid : Nat) : State :=
  let live := liveTids s cid
  let turn (t : Nat) : Nat := matTurn s place t + (ts.contains t).toNat
  let low := live.foldl (fun m t => min m (turn t)) (turn (live.headD 0))
  s.updCrew cid fun c => { c with matSeen :=
    (c.matSeen.filter fun e => !(e.1 == place.1 && e.2.1 == place.2)) ++
      (live.filter fun t => decide (low < turn t)).map fun t => (place.1, place.2, laneOf t, turn t - low) }

/-- The body of a matrix word (R303, R180): threads wait at the latch; the guard disagrees where lanes of a crew pass the word
and others, in this bundle or another, do not, and then these raise GANGFAIL, as those of a crew with no gang do. -/
def latchBody (h : Head) (op : MatOp) (s : State) (ts : List Nat) : WordOut :=
  let all := ((curBundle s).map Bundle.tids).getD []
  let w := curWidx s
  let place := (((curBundle s).map fun b => b.clause.pc).getD 0, w)
  let waiting (cid : Nat) : List Nat := (crewTids cid).filter fun t =>
    (latchOf s t).isSome && (s.thr t).widx == w && (s.thr t).pc == place.1
  let cids := (all.map crewOf).dedup
  let off (cid : Nat) : List Nat := all.filter fun t => crewOf t == cid && !ts.contains t
  let apart (cid t : Nat) : Bool :=
    (off cid).any (fun u => matTurn s place u == matTurn s place t) ||
      (liveTids s cid).any fun u => decide (matTurn s place t < matTurn s place u)
  let fails := cids.flatMap fun cid =>
    (ts.filter fun t => crewOf t == cid && ((s.crew cid).gang == 0 || apart cid t)) ++ (waiting cid).filter (apart cid)
  let good := ts.filter fun t => !fails.contains t
  let s1 := good.foldl (fun s t => (s.leave [t]).updThr t fun y =>
      { y with widx := w, status := .latch op h.dc.val s.time }) s
  { s := cids.foldl (fun s cid => passMat place (off cid ++ fails.filter fun t => crewOf t == cid) s cid) s1,
    traps := fails.map (gangInfo s) }

/-- A matrix word: class MTX, its v spans within the budget, a compare point of an assay pair (R416). -/
def matWord (h : Head) (op : MatOp) (regs : List (Reg × Nat)) (dsts : List Reg) (s : State) : Out :=
  issueWord s h { group := 5, regs := regs, dsts := dsts, var := true, wait := true, cmp := .compare,
                  passes := !dsts.isEmpty } (latchBody h op)

/-! Descriptors (R305 to R307). -/

structure Desc where
  member : Nat
  d : Nat
  nl : Nat
  row0 : Nat
  half : Nat
  side : Nat
  zb : Nat
  deriving DecidableEq, Repr

def Desc.ofNat (x : Nat) : Desc :=
  { member := x / 2 ^ 62 % 4, d := x / 2 ^ 50 % 4096 * 128, nl := x / 2 ^ 38 % 4096 + 1, row0 := x / 2 ^ 29 % 512 * 8,
    half := x / 2 ^ 24 % 32, side := x / 2 ^ 10 % 16384 * 32, zb := x / 2 ^ 7 % 8 + 1 }

/-- Row of the canonical region of line r, and where byte b of its K-slice lies from D. -/
def Desc.q (d : Desc) (r : Nat) : Nat := d.half / 2 * d.nl + r
def Desc.byte (d : Desc) (r b : Nat) : Nat :=
  let q := d.q r
  let x := 64 * (d.half % 2) + b
  128 * q + 16 * Nat.xor (x / 16) (q % 8) + x % 16

/-- The zero-map bit of line r and K-block h (R313). -/
def Desc.zbit (d : Desc) (t : MatT) (r h : Nat) : Nat := r / 16 * d.zb + (d.half * (512 / t.bits) + 32 * h) / 32

/-- Blocks of K. -/
def MatT.kb (t : MatT) : Nat := ceilDiv t.k 32

/-- R307 for one descriptor with its lines. -/
def descBad (s : State) (cid : Nat) (t : MatT) (zs isB : Bool) (d : Desc) : Bool :=
  let n := if isB then 128 else 64
  match memberBillet s cid d.member with
  | none => true
  | some (_, b) =>
    decide (d.nl < d.row0 + n) ||
      (List.range n).any fun i =>
        let r := d.row0 + i
        (List.range 4).any (fun p => decide (b.scratchSize < d.d + d.byte r (16 * p) + 16)) ||
          (zs && d.side != 0 &&
            (if isB then (List.range t.kb).any fun h => decide (b.scratchSize ≤ d.d + d.side + d.zbit t r h / 8)
             else decide (b.scratchSize ≤ d.d + d.side + d.q r / 8 / 8)))

/-! Release (R307, R311, R327). -/

/-- A register of a crew by lane: a value for lanes with no live thread, another for a poisoned register. -/
def laneRegs (s : State) (cid r : Nat) (absent poisoned : W32) : List W32 :=
  (List.range 32).map fun l =>
    let t := cid * 32 + l
    if (s.threads.get? t).isNone || (s.thr t).status == .ended then absent
    else
      let v := s.rdReg t (.v r)
      if v.2 then poisoned else v.1

/-- Row registers, n of each member from its own base; column registers, n of the first member. -/
def rowRegs (s : State) (gang : List Nat) (base n : Nat) (absent poisoned : W32) : List W32 :=
  gang.flatMap fun c => (List.range n).flatMap fun i => laneRegs s c (base + i) absent poisoned

def colRegs (s : State) (gang : List Nat) (base n : Nat) (absent poisoned : W32) : List W32 :=
  (List.range n).flatMap fun i => laneRegs s (gang.headD 0) (base + i) absent poisoned

def crewS (s : State) (cid n : Nat) : W32 := (s.rdReg ((liveTids s cid).headD (cid * 32)) (.s n)).1
def crewS64 (s : State) (cid n : Nat) : Nat := (crewS s cid (n + 1) ++ crewS s cid n).toNat

/-- The checks of a scratchpad offset of the billet: within the allocation, and aligned. -/
def offsetProt (s : State) (cid ofs n : Nat) : Option TrapInfo :=
  match ownScratch s (cid * 32) ofs n with
  | some _ => none
  | none => some { trap := .prot, detail := 2, addr := ofs }

def offsetAlign (ofs align : Nat) : Option TrapInfo :=
  if ofs % align ≠ 0 then some { trap := .align, addr := ofs } else none

def stageProt (s : State) (cid stage : Nat) : Option TrapInfo := if stage = noStage then none else offsetProt s cid stage 16
def stageAlign (stage : Nat) : Option TrapInfo := if stage = noStage then none else offsetAlign stage 16

/-- R327: the checks that raise PROT (descriptors, region, offset, stage) come before those that raise ALIGN (R47). -/
def matTrap (s : State) (gang : List Nat) (op : MatOp) : Option TrapInfo :=
  let g := gang.length
  let c0 := gang.headD 0
  let prot : TrapInfo := { trap := .prot, detail := 2 }
  let region : Option TrapInfo :=
    if op.regions.any fun a => decide (Config.accBytes < 1024 * a + 64 * g * 128 * op.z) then some prot else none
  match op with
  | .mma t sa sb _ _ _ zs _ rel =>
    let a := gang.any fun c => descBad s c t zs false (Desc.ofNat (crewS64 s c sa))
    let b := descBad s c0 t zs true (Desc.ofNat (crewS64 s c0 sb))
    let stage := if rel then (crewS s c0 (sb + 2)).toNat else noStage
    (if a || b then some prot else none).or (region.or ((stageProt s c0 stage).or (stageAlign stage)))
  | .mload sd _ _ =>
    let d := (crewS s c0 sd).toNat
    region.or ((offsetProt s c0 d (64 * g * 128 * op.z)).or (offsetAlign d 128))
  | .mstore sd ss _ _ =>
    let d := (crewS s c0 sd).toNat
    let stage := (crewS s c0 ss).toNat
    region.or ((offsetProt s c0 d (64 * g * 128 * op.z)).or ((stageProt s c0 stage).or
      ((offsetAlign d 128).or (stageAlign stage))))
  | _ => region

/-- Destination registers of an instruction in each thread. -/
def matDests (op : MatOp) : List Target :=
  match op with
  | .mdrain k d _ _ => (List.range (if k = 0 then 16 else if k = 1 then 32 else 8)).map fun i => .v (d + i)
  | .mstat d _ _ => [.v d]
  | _ => []

def ownBase (s : State) (cid : Nat) : Nat :=
  ((s.billet? cid).map fun b => scratchAddr (cid / 32) b.scratchBase).getD 0

/-- The lines an MSTORE writes (R318). -/
def storePads (s : State) (gang : List Nat) (op : MatOp) : List Nat :=
  match op with
  | .mstore sd _ _ _ =>
    let d := ownBase s (gang.headD 0) + (crewS s (gang.headD 0) sd).toNat
    (List.range (64 * gang.length * op.z)).map (d / 128 + ·)
  | _ => []

/-- Whether an MSTORE may take its lines (R247): no engine owns one, no thread waits there, and no earlier access of the gang's
threads to one is on its way. -/
def padsFree (s : State) (gang : List Nat) (op : MatOp) : Bool :=
  (storePads s gang op).all fun l =>
    !ownedLine s .scratch l && !(s.scratchWait.any fun e => e.1 == l && s.open e.2) &&
      s.pend.all fun p => p.done || !gang.contains (crewOf p.tid) || !p.op.lines.contains (.scratch, l)

/-- The operation as the anvil takes it: everything read at the release. -/
def makeOp (s : State) (gang : List Nat) (op : MatOp) : AnvilOp :=
  let c0 := gang.headD 0
  let base := ownBase s c0
  let x : AnvilOp :=
    { id := s.seq, op := op, core := c0 / 32, billet := s.billetKey c0, wp := ((s.billet? c0).map Billet.wp).getD 0,
      gang := gang, tids := gang.flatMap (liveTids s) }
  let stageAt (ofs : Nat) : Option Nat := if ofs = noStage then none else some (base + ofs)
  match op with
  | .mma t sa sb vs vt _ _ _ rel =>
    { x with descA := gang.map fun c => crewS64 s c sa, descB := crewS64 s c0 sb,
             stage := if rel then stageAt (crewS s c0 (sb + 2)).toNat else none,
             rowVals := rowRegs s gang vs (2 * t.u) 0x7F7F7F7F 0xFFFFFFFF,
             colVals := colRegs s gang vt (4 * t.u) 0x7F7F7F7F 0xFFFFFFFF }
  | .mload sd _ _ => { x with offD := base + (crewS s c0 sd).toNat }
  | .mstore sd ss _ _ =>
    let d := base + (crewS s c0 sd).toNat
    { x with offD := d, stage := stageAt (crewS s c0 ss).toNat,
             owned := (storePads s gang op).map fun l => (Space.scratch, l) }
  | .mscl vs _ _ => { x with rowVals := rowRegs s gang vs 2 0x3F800000 0x7FC00000 }
  | .maddc vt _ _ => { x with colVals := colRegs s gang vt 4 0x80000000 0x7FC00000 }
  | _ => x

/-- The issue cycles of an instruction (R301, R435): those of the instructions beside MMA are not stated. -/
def issueCycles (s : State) (o : AnvilOp) : Nat :=
  match o.op with
  | .mma t _ _ _ _ _ _ _ _ =>
    (match t with | .f64 => 64 | .f32 => 64 | _ => 32) * o.gang.length
  | _ => Config.pick s.fresh o.id 301

/-- The time limit of R181, that of the billet group; none arises from a broken one (R183). -/
def latchLimit (s : State) (cid : Nat) : Option Nat :=
  match (crewGroups s cid).find? fun g => g.2.entry == 0xFFFF with
  | some g => if g.2.broken then none else some g.2.timeout
  | none => some 1000000

/-- The crews of a gang, in member order. -/
def gangOf (s : State) (cid : Nat) (x : AtLatch) : List Nat := (gangNumbers x.gang).filterMap (crewByNumber s cid)

/-- When the first crew of a gang, and the last, reached the latch. -/
def latchFirst (s : State) (cid : Nat) (x : AtLatch) : Nat :=
  ((latchCrews s cid).filter fun c => c.2.gang == x.gang).foldl (fun m c => min m c.2.since) x.since
def latchLast (s : State) (cid : Nat) (x : AtLatch) : Nat :=
  ((latchCrews s cid).filter fun c => c.2.gang == x.gang).foldl (fun m c => max m c.2.since) x.since

/-- Whether the time limit passed before the last crew came: at a time, if it is not here yet. -/
def latchLate (s : State) (cid : Nat) (x : AtLatch) (at_ : Nat) : Bool :=
  (latchLimit s cid).any fun l => decide (latchFirst s cid x + l < at_)

/-- Every crew of a gang is at the latch, in time, and none fails. -/
def gangComplete (s : State) (cid : Nat) (x : AtLatch) : Bool :=
  ((gangOf s cid x).all fun c => (crewLatch s c).any fun y => !gangFault s c y) && !latchLate s cid x (latchLast s cid x)

/-- The order in which complete latches of a billet release: as they came, those of one time by lowest crew number (R303). -/
def latchRank (s : State) (cid : Nat) (x : AtLatch) : Nat × Nat := (latchLast s cid x, (gangNumbers x.gang).headD 16)

def releasesFirst (s : State) (cid : Nat) (x : AtLatch) : Bool :=
  let r := latchRank s cid x
  (latchCrews s cid).all fun c =>
    let q := latchRank s c.1 c.2
    !gangComplete s c.1 c.2 || decide (r.1 < q.1 ∨ (r.1 = q.1 ∧ r.2 ≤ q.2))

/-- GANG_LATCH_RELEASE (R180, R181): what the crews at the latch of a billet come to: those that fail raise GANGFAIL; a gang
that is complete issues, or raises the traps of R327. -/
def execGangLatchRelease (cid : Nat) (s : State) : Out :=
  match crewLatch s cid with
  | none => idle "GANG_LATCH_RELEASE"
  | some x =>
    let fails := (latchCrews s cid).filter fun c => gangFault s c.1 c.2
    if !fails.isEmpty then
      .next (raise s (sortBy (fun a b => decide (a.1 ≤ b.1)) ((fails.flatMap fun c => liveTids s c.1).map (gangInfo s))))
    else if !gangComplete s cid x || !releasesFirst s cid x then idle "GANG_LATCH_RELEASE"
    else
      let gang := gangOf s cid x
      let ts := gang.flatMap (liveTids s)
      match matTrap s gang x.op with
      | some i => .next (raise s (sortBy (fun a b => decide (a.1 ≤ b.1)) (ts.map fun t => (t, i))))
      | none =>
        if !padsFree s gang x.op then idle "GANG_LATCH_RELEASE" else
        let o := makeOp s gang x.op
        let dc (t : Nat) : Nat := match (s.thr t).status with | .latch _ d _ => d | _ => 0
        let s1 : State := { s with anvil := s.anvil ++ [o], seq := s.seq + 1 }
        let s1 := bumpPerf s1 (s.ctxOf cid) (cid / 32) 5 (issueCycles s o)
        .next (ts.foldl (fun s' t =>
          let s2 := s'.addOp t (dc t) (.unit o.id) (matDests x.op)
          settle s2 t (s2.thr t).afterWord.1 (s2.thr t).afterWord.2) { s1 with fresh := s1.fresh + 1 })

/-- The threads of a gang that has waited too long at the latch (R181), if it has. -/
def gangTimedOut (s : State) (cid : Nat) : List Nat :=
  match crewLatch s cid with
  | none => []
  | some x =>
    if gangComplete s cid x || !latchLate s cid x s.time then []
    else ((latchCrews s cid).filter fun c => c.2.gang == x.gang).flatMap fun c => liveTids s c.1

/-- Threads raise GANGFAIL, in the order of their places. -/
def gangfail (s : State) (ts : List Nat) : State := raise s ((sortNat ts).map (gangInfo s))

/-- GANGFAIL_TIMEOUT (R181). -/
def execGangfailTimeout (cid : Nat) (s : State) : Out :=
  let ts := gangTimedOut s cid
  if ts.isEmpty then idle "GANGFAIL_TIMEOUT" else .next (gangfail s ts)

/-! Accumulator memory (R309). -/

def accAddr (core acc z m n : Nat) : Nat := core * Config.accBytes + 1024 * acc + (128 * m + n) * z
def accRead (s : State) (core acc z m n : Nat) : Nat := ofBytes (Memory.readBytes s.acc (accAddr core acc z m n) z)

/-- Writes a whole region, row by row; each line is journalled first (R412). -/
def accWrite (s : State) (o : AnvilOp) (acc : Nat) (f : Nat → Nat → Nat) : State :=
  let z := o.op.z
  let k := o.billet
  let bs := (List.range (64 * o.gang.length)).flatMap fun m => (List.range 128).flatMap fun n => toBytes (f m n) z
  let a := accAddr o.core acc z 0 0
  let s := (List.range (64 * o.gang.length * z)).foldl (fun s i => s.journal k (.acc (a / 128 + i))) s
  { s with acc := Memory.writeBytes s.acc a bs }

/-! MMA (R306, R310 to R314). -/

/-- The base of a tile: the member's allocation and D. -/
def tileBase (s : State) (cid : Nat) (d : Desc) : Nat :=
  match memberBillet s cid d.member with
  | some (k, b) => scratchAddr (k / 4) b.scratchBase + d.d
  | none => 0

/-- Element k of the K-slice of line r, as its code. -/
def tileCode (s : State) (base : Nat) (d : Desc) (t : MatT) (r k : Nat) : Nat :=
  if 8 ≤ t.bits then
    ofBytes ((List.range (t.bits / 8)).map fun i => Memory.read s.scratch (base + d.byte r (k * (t.bits / 8) + i)))
  else (Memory.read s.scratch (base + d.byte r (k / 2))).toNat / 16 ^ (k % 2) % 16

/-- Byte t of the scales of a row or column, from the registers read at the release. -/
def scaleByte (vals : List W32) (first lane t : Nat) : Nat :=
  (vals.getD (32 * (first + t / 4) + lane) 0).toNat / 256 ^ (t % 4) % 256

/-- Exponents of K-block kb: E_hi and E_lo (the one byte of MX stands for both). -/
def scalePair (mt : MatT) (sh : Bool) (vals : List W32) (first lane kb : Nat) : Nat × Nat :=
  if mt.e = 0 then (0, 0)
  else
    let b (e : Nat) : Nat := scaleByte vals first lane (kb * mt.e + e + 2 * sh.toNat)
    if mt.e = 1 then (b 0, b 0) else (b 0, b 1)

def sideBit (s : State) (base : Nat) (d : Desc) (i : Nat) : Bool :=
  (Memory.read s.scratch (base + d.side + i / 8)).getLsbD (i % 8)

/-- R312 and R313: the new value of an element. -/
def mmaElem (s : State) (o : AnvilOp) (t : MatT) (acc : Nat) (zs sh : Bool) (m n : Nat) : Nat :=
  let c := m / 64
  let da := Desc.ofNat (o.descA.getD c 0)
  let db := Desc.ofNat o.descB
  let ba := tileBase s (o.gang.getD c 0) da
  let bb := tileBase s (o.gang.headD 0) db
  let ra := da.row0 + m % 64
  let rb := db.row0 + n
  let sa (h : Nat) : Nat × Nat := scalePair t sh o.rowVals (c * (2 * t.u) + t.u * (m % 64 / 32)) (m % 32) h
  let sb (h : Nat) : Nat × Nat := scalePair t sh o.colVals (t.u * (n / 32)) (n % 32) h
  let skip (h : Nat) : Bool :=
    zs && db.side != 0 && da.side != 0 && sideBit s bb db (db.zbit t rb h) && !sideBit s ba da (da.q ra / 8) &&
      (t.e == 0 || ((sa h).1 != 0xFF && (sa h).2 != 0xFF && (sb h).1 != 0xFF && (sb h).2 != 0xFF))
  let ks := (List.range t.kb).flatMap fun h =>
    if skip h then [] else (List.range (min 32 t.k)).map fun i => 32 * h + i
  let old := accRead s o.core acc o.op.z m n
  if t.isInt then
    let v (base : Nat) (d : Desc) (r k : Nat) : Int :=
      let x := tileCode s base d t r k
      if t = .s8 then (BitVec.ofNat 8 x).toInt else (BitVec.ofNat 4 x).toInt
    (dotI (BitVec.ofNat 32 old) (ks.map fun k => v ba da ra k * v bb db rb k)).toNat
  else
    let v (base : Nat) (d : Desc) (r : Nat) (sc : Nat × Nat) (k : Nat) : FVal :=
      fmtValue t.fmt sc.1 sc.2 (tileCode s base d t r k)
    dotF t.acc ks.length old (ks.map fun k => FVal.mul (v ba da ra (sa (k / 32)) k) (v bb db rb (sb (k / 32)) k))

/-! The other effects. -/

def accF (z : Nat) : FFmt := if z = 8 then FFmt.f64 else FFmt.f32

/-- MSCL and MADDC of one element (R332). -/
def sclElem (z old : Nat) (f : W32) : Nat :=
  (accF z).round .rne false (FVal.mul ((accF z).decode old) (FFmt.f32.decode f.toNat))
def addcElem (z old : Nat) (f : W32) : Nat :=
  (accF z).round .rne false (FVal.add .rne ((accF z).decode old) (FFmt.f32.decode f.toNat))

/-- Where element (m, n) of a canonical tile of the region lies (R318, R331). -/
def canonElem (g z m n : Nat) : Nat := canonOffset (64 * g) m (n * z)

/-- The registers MDRAIN and MSTAT write in lane l of member c (R317, R333). -/
def drainWrites (s : State) (o : AnvilOp) (c l : Nat) : List RegWrite :=
  match o.op with
  | .mdrain k d acc cg =>
    (List.range 2).flatMap fun h =>
      let r := 64 * c + 32 * h + l
      let e (j : Nat) : Nat := accRead s o.core acc o.op.z r (8 * cg + j)
      match k.val with
      | 0 => (List.range 8).flatMap fun j => wr32 (.v (d + 2 * j + h)) (BitVec.ofNat 32 (e j)) false
      | 1 => (List.range 8).flatMap fun j => wr64 (.v (d + 4 * j + 2 * h)) (BitVec.ofNat 64 (e j)) false
      | kk => (List.range 4).flatMap fun i =>
          let f := if kk = 2 then FFmt.bf16 else FFmt.f16
          let cv (j : Nat) : Nat := f.round .rne false (FFmt.f32.decode (e j))
          wr32 (.v (d + 2 * i + h)) (BitVec.ofNat 32 (cv (2 * i) + 65536 * cv (2 * i + 1))) false
  | .mstat d acc _ =>
    let row (h : Nat) : List FVal := (List.range 128).map fun n =>
      (accF o.op.z).decode (accRead s o.core acc o.op.z (64 * c + 32 * h + l) n)
    let b (p : Bool) (k : Nat) : Nat := if p then 2 ^ k else 0
    wr32 (.v d) (BitVec.ofNat 32 (b ((row 0).any FVal.isNan) 0 + b ((row 0).any FVal.isInf) 1 +
      b ((row 1).any FVal.isNan) 2 + b ((row 1).any FVal.isInf) 3)) false
  | _ => []

/-- The member index of a thread. -/
def memberOf (o : AnvilOp) (t : Nat) : Nat := (o.gang.findIdx? fun c => c == crewOf t).getD 0

def State.updAnvil (s : State) (id : Nat) (f : AnvilOp → AnvilOp) : State :=
  { s with anvil := s.anvil.map fun o => if o.id = id then f o else o }

/-- What an operation delivers, once it has read the accumulators, to the registers of its threads. -/
def deliverOp (s : State) (o : AnvilOp) (done : Bool) : State :=
  { s with pend := s.pend.map fun p =>
      if p.op = .unit o.id then { p with done := done, writes := drainWrites s o (memberOf o p.tid) (laneOf p.tid) } else p }

/-- The tile of an MSTORE is written, its lines go, and its 32-byte sectors are accounted one by one (R247, R318). -/
def storeTile (s : State) (o : AnvilOp) : State :=
  let g := o.gang.length
  let z := o.op.z
  let k := o.billet
  let s := o.owned.foldl (fun s l => s.journal k (.scratch l.2)) s
  let s := (List.range (64 * g)).foldl (fun s m => (List.range 128).foldl (fun s n =>
    s.writeScratch (o.offD + canonElem g z m n) (toBytes (o.data.getD (128 * m + n) 0) z)) s) s
  let s := s.updAnvil o.id fun x => { x with owned := [] }
  match o.stage with
  | some a =>
    (List.range (64 * g * 4 * z)).foldl (fun s _ => stageUpdate s a (.complete 32)) (s.journal k (.scratch (a / 128)))
  | none => s

/-- Whether the billet of an operation is still there: nothing is left to change once it is gone. -/
def AnvilOp.here (o : AnvilOp) (s : State) : Bool := (s.billets.get? o.billet).any fun b => b.wp == o.wp

/-- The effect of one instruction on accumulators and registers, in execution order; its operand reads with it, and the release
stage after them (R315).  An MSTORE has its counters done once it has read the accumulators; it writes later (R331). -/
def applyOp (s : State) (o : AnvilOp) : State :=
  let z := o.op.z
  let view := raceView s
  let s : State := if !o.here s then s else match o.op with
    | .mma t _ _ _ _ acc zs sh _ =>
      let s' := accWrite s o acc (mmaElem view o t acc zs sh)
      match o.stage with
      | some a => stageUpdate (s'.journal o.billet (.scratch (a / 128))) a .arrive
      | none => s'
    | .mzero acc _ => accWrite s o acc fun _ _ => 0
    | .mload _ acc _ =>
      accWrite s o acc fun m n => ofBytes (Memory.readBytes view.scratch (o.offD + canonElem o.gang.length z m n) z)
    | .mstore _ _ acc _ =>
      (deliverOp s o true).updAnvil o.id fun x =>
        { x with data := (List.range (64 * o.gang.length)).flatMap fun m => (List.range 128).map fun n => accRead s o.core acc z m n }
    | .mscl _ acc _ => accWrite s o acc fun m n =>
        sclElem z (accRead s o.core acc z m n) (o.rowVals.getD (64 * (m / 64) + m % 64) 0x3F800000)
    | .maddc _ acc _ => accWrite s o acc fun m n => addcElem z (accRead s o.core acc z m n) (o.colVals.getD n 0x80000000)
    | .mcopy acc src _ => accWrite s o acc fun m n => accRead s o.core src z m n
    | .mdrain .. => deliverOp s o false
    | .mstat .. => deliverOp s o false
  s.updAnvil o.id fun x => { x with read := true }

/-- Scratchpad lines an instruction reads: tiles, and under `.zs` zero maps and summaries (R308, R313). -/
def opSources (s : State) (o : AnvilOp) : List (Space × Nat) :=
  match o.op with
  | .mma t _ _ _ _ _ zs _ _ =>
    let db := Desc.ofNat o.descB
    let bb := tileBase s (o.gang.headD 0) db
    let tile (base : Nat) (d : Desc) (n : Nat) : List Nat := (List.range n).map fun i => base + 128 * d.q (d.row0 + i)
    let side (a : Bool) (base : Nat) (d : Desc) : List Nat :=
      if !zs || d.side = 0 then []
      else if a then (List.range 64).map fun i => base + d.side + d.q (d.row0 + i) / 8 / 8
      else (List.range 128).flatMap fun i => (List.range t.kb).map fun h => base + d.side + d.zbit t (d.row0 + i) h / 8
    let as := (List.range o.gang.length).flatMap fun c =>
      let d := Desc.ofNat (o.descA.getD c 0)
      let b := tileBase s (o.gang.getD c 0) d
      tile b d 64 ++ side true b d
    ((as ++ tile bb db 128 ++ side false bb db).map (· / 128)).dedup.map fun l => (Space.scratch, l)
  | .mload .. => (List.range (64 * o.gang.length * o.op.z)).map fun i => (Space.scratch, o.offD / 128 + i)
  | _ => []

def hasOperands : MatOp → Bool
  | .mma .. => true
  | .mload .. => true
  | _ => false

/-- Whether another engine command still owns a line that an operation reads (R308): any but a later one of the same anvil. -/
def readBlocked (s : State) (o : AnvilOp) (l : Space × Nat) : Bool :=
  (s.ladle ++ s.trav).any (fun c => c.owned.contains l) ||
    s.anvil.any fun x => (x.core != o.core || decide (x.id < o.id)) && x.owned.contains l

/-- Whether an instruction may take effect now: one that reads scratchpads comes after what happens before it (R263, R316), and
waits for the lines that engines own. The others are not ordered against memory (R330, R333). -/
def opReady (s : State) (o : AnvilOp) : Bool :=
  !hasOperands o.op || (o.tids.all (fun t => settledBefore s t o.id 2) && !((opSources s o).any (readBlocked s o)))

/-- The uncorrectable error that the billet of an instruction consumes where its anvil reads (R414): a scratchpad line, or a line of
accumulators. -/
def opError (s : State) (o : AnvilOp) : Option (Nat × Nat) :=
  let z := o.op.z
  let accs : List Nat := match o.op with
    | .mma _ _ _ _ _ acc _ _ _ => [acc]
    | .mstore _ _ acc _ => [acc]
    | .mscl _ acc _ => [acc]
    | .maddc _ acc _ => [acc]
    | .mcopy _ src _ => [src]
    | .mdrain _ _ acc _ => [acc]
    | .mstat _ acc _ => [acc]
    | .mzero .. => []
    | .mload .. => []
  if !o.here s then none
  else ((opSources s o).findSome? fun l => errorAt s l.1 l.2 false).or
    (accs.findSome? fun acc => s.errors.find? fun e => e.1 == 3 &&
      decide (accAddr o.core acc z 0 0 ≤ e.2 ∧ e.2 < accAddr o.core acc z 0 0 + 64 * o.gang.length * 128 * z))

def anvilOps (s : State) (core : Nat) : List AnvilOp := s.anvil.filter fun o => o.core == core

/-- Instructions without operand reads take their effect as they come up; none where one must still wait. -/
def catchUp (id : Nat) (s : State) : List AnvilOp → Option State
  | [] => some s
  | o :: rest =>
    if o.id = id then some s
    else if o.read then catchUp id s rest
    else if hasOperands o.op || !opReady s o || (opError s o).isSome then none
    else catchUp id (applyOp s o) rest

/-- ANVIL_OPERANDS_READ (R303, R315): an instruction takes its effect, its operand reads with it, after every earlier one. -/
def execAnvilOperandsRead (id : Nat) (s : State) : Out :=
  match s.anvil.find? fun o => o.id == id with
  | none => idle "ANVIL_OPERANDS_READ"
  | some o =>
    if o.read || !opReady s o then idle "ANVIL_OPERANDS_READ"
    else match catchUp id s (anvilOps s o.core) with
      | none => idle "ANVIL_OPERANDS_READ"
      | some s => match opError s o with
        | some e => .next (consumeAt s o.billet e)
        | none => .next (applyOp s o)

/-- ANVIL_INSTR_COMPLETE (R315): the oldest instruction completes: its counters and registers follow, and an MSTORE writes its
tile. -/
def execAnvilInstrComplete (id : Nat) (s : State) : Out :=
  match s.anvil.find? fun o => o.id == id with
  | none => idle "ANVIL_INSTR_COMPLETE"
  | some o =>
    if ((anvilOps s o.core).head?.map AnvilOp.id) != some id || (!o.read && hasOperands o.op) then idle "ANVIL_INSTR_COMPLETE"
    else match if o.read then none else opError s o with
    | some e => .next (consumeAt s o.billet e)
    | none =>
      let s : State := if o.read then s else applyOp s o
      let s : State := match o.op with
        | .mstore .. =>
          match s.anvil.find? fun (x : AnvilOp) => x.id == id with
          | none => s
          | some now => if now.here s then storeTile s now else s
        | _ => s
      let s : State := { s with
        anvil := s.anvil.filter fun x => x.id != id
        pend := s.pend.map fun p =>
          if p.op = .unit id then
            { p with done := true, writes := p.writes.filter fun w => p.dests.contains w.tgt } else p }
      .next (completeAll s.sweep)

/-! The words. -/

def vIdx : Reg → Nat
  | .v n => n
  | .s n => n
  | .z => 0

def mmaPlain (t : MatT) (h : Head) (sa sb : Reg) (acc : Fin 512) (zs rel : Bool) (s : State) : Out :=
  matWord h (.mma t (vIdx sa) (vIdx sb) 0 0 acc.val zs false rel)
    ([(sa, 2), (sb, 2)] ++ (if rel then [(sb.plus 2, 1)] else [])) [] s

def mmaBlock (t : MatT) (h : Head) (sa sb vs vt : Reg) (acc : Fin 512) (zs sh rel : Bool) (s : State) : Out :=
  matWord h (.mma t (vIdx sa) (vIdx sb) (vIdx vs) (vIdx vt) acc.val zs sh rel)
    ([(sa, 2), (sb, 2), (vs, 2 * t.u), (vt, 4 * t.u)] ++ (if rel then [(sb.plus 2, 1)] else [])) [] s

def execMmaF64 (h : Head) (sa sb : Reg) (acc : Fin 512) (zs rel : Bool) (s : State) : Out := mmaPlain .f64 h sa sb acc zs rel s
def execMmaF32 (h : Head) (sa sb : Reg) (acc : Fin 512) (zs rel : Bool) (s : State) : Out := mmaPlain .f32 h sa sb acc zs rel s
def execMmaBf16 (h : Head) (sa sb : Reg) (acc : Fin 512) (zs rel : Bool) (s : State) : Out := mmaPlain .bf16 h sa sb acc zs rel s
def execMmaF16 (h : Head) (sa sb : Reg) (acc : Fin 512) (zs rel : Bool) (s : State) : Out := mmaPlain .f16 h sa sb acc zs rel s
def execMmaS8 (h : Head) (sa sb : Reg) (acc : Fin 512) (zs rel : Bool) (s : State) : Out := mmaPlain .s8 h sa sb acc zs rel s
def execMmaS4 (h : Head) (sa sb : Reg) (acc : Fin 512) (zs rel : Bool) (s : State) : Out := mmaPlain .s4 h sa sb acc zs rel s
def execMmaE4m3 (h : Head) (sa sb vs vt : Reg) (acc : Fin 512) (zs sh rel : Bool) (s : State) : Out :=
  mmaBlock .e4m3 h sa sb vs vt acc zs sh rel s
def execMmaE5m2 (h : Head) (sa sb vs vt : Reg) (acc : Fin 512) (zs sh rel : Bool) (s : State) : Out :=
  mmaBlock .e5m2 h sa sb vs vt acc zs sh rel s
def execMmaE2m1 (h : Head) (sa sb vs vt : Reg) (acc : Fin 512) (zs rel : Bool) (s : State) : Out :=
  mmaBlock .e2m1 h sa sb vs vt acc zs false rel s
def execMmaBx8 (h : Head) (sa sb vs vt : Reg) (acc : Fin 512) (zs rel : Bool) (s : State) : Out :=
  mmaBlock .bx8 h sa sb vs vt acc zs false rel s
def execMmaBx4 (h : Head) (sa sb vs vt : Reg) (acc : Fin 512) (zs rel : Bool) (s : State) : Out :=
  mmaBlock .bx4 h sa sb vs vt acc zs false rel s

/-- MZERO, MCOPY (R329). -/
def execMzero (h : Head) (acc : Fin 512) (w64 : Bool) (s : State) : Out := matWord h (.mzero acc.val w64) [] [] s
def execMcopy (h : Head) (acc src : Fin 512) (w64 : Bool) (s : State) : Out := matWord h (.mcopy acc.val src.val w64) [] [] s

/-- MDRAIN (R330). -/
def mdrain (k : Fin 4) (n : Nat) (h : Head) (d : Reg) (acc : Fin 512) (cg : Fin 16) (s : State) : Out :=
  matWord h (.mdrain k (vIdx d) acc.val cg.val) [(d, n)] [d] s
def execMdrainF32 (h : Head) (d : Reg) (acc : Fin 512) (cg : Fin 16) (s : State) : Out := mdrain 0 16 h d acc cg s
def execMdrainF64 (h : Head) (d : Reg) (acc : Fin 512) (cg : Fin 16) (s : State) : Out := mdrain 1 32 h d acc cg s
def execMdrainBf16 (h : Head) (d : Reg) (acc : Fin 512) (cg : Fin 16) (s : State) : Out := mdrain 2 8 h d acc cg s
def execMdrainF16 (h : Head) (d : Reg) (acc : Fin 512) (cg : Fin 16) (s : State) : Out := mdrain 3 8 h d acc cg s

/-- MLOAD, MSTORE (R331). -/
def execMload (h : Head) (sd : Reg) (acc : Fin 512) (w64 : Bool) (s : State) : Out :=
  matWord h (.mload (vIdx sd) acc.val w64) [(sd, 1)] [] s
def execMstore (h : Head) (sd ss : Reg) (acc : Fin 512) (w64 : Bool) (s : State) : Out :=
  matWord h (.mstore (vIdx sd) (vIdx ss) acc.val w64) [(sd, 1), (ss, 1)] [] s

/-- MSCL, MADDC (R332). -/
def execMscl (h : Head) (vs : Reg) (acc : Fin 512) (w64 : Bool) (s : State) : Out :=
  matWord h (.mscl (vIdx vs) acc.val w64) [(vs, 2)] [] s
def execMaddc (h : Head) (vt : Reg) (acc : Fin 512) (w64 : Bool) (s : State) : Out :=
  matWord h (.maddc (vIdx vt) acc.val w64) [(vt, 4)] [] s

/-- MSTAT (R333). -/
def execMstat (h : Head) (d : Reg) (acc : Fin 512) (w64 : Bool) (s : State) : Out :=
  matWord h (.mstat (vIdx d) acc.val w64) [(d, 1)] [d] s

end Sys2Proof.Machine
end

