-- ==== Sys2Proof/Machine/Rays.lean ====
section
/-!
DEFINITION. The arithmetic of rays (R361, R365 to R367, R369): boxes of nodes, leaf tests, and the projection of the
coverage unit.  Operands and results are FP32 bit patterns.
-/
namespace Sys2Proof.Machine

/-- One FP32 operation under RNE, on values (R85). -/
def r32v (x : FVal) : FVal := FFmt.f32.decode (FFmt.f32.round .rne false x)
def r64v (x : FVal) : FVal := FFmt.f64.decode (FFmt.f64.round .rne false x)
def f32v (n : Nat) : FVal := FFmt.f32.decode n
def f32b (x : FVal) : Nat := FFmt.f32.round .rne false x

/-- x ≤ y; false where either is NaN. -/
def FVal.le (x y : FVal) : Bool := !x.isNan && !y.isNan && !FVal.lt y x

def FVal.finite : FVal → Bool
  | .nan => false
  | .inf _ => false
  | _ => true

/-! Boxes (R361). -/

/-- A box: its low and high corners. -/
structure Box where
  lo : List Nat
  hi : List Nat
  deriving DecidableEq, Repr

/-- Child k's box from ORG, EXP and its 72 bits; none where it is empty. -/
def childBox (org exp : List Nat) (q : Nat) : Option Box :=
  let lo (a : Nat) : Nat := q / 2 ^ (12 * a) % 4096
  let hi (a : Nat) : Nat := q / 2 ^ (36 + 12 * a) % 4096
  let axes : List Nat := [0, 1, 2]
  let step (a n : Nat) : FVal := FVal.ofScaled false n (((exp.getD a 0 : Nat) : Int) - 127)
  if axes.any fun a => decide (hi a < lo a) then none
  else if axes.any fun a => exp.getD a 0 == 255 || !(f32v (org.getD a 0)).finite then
    some { lo := List.replicate 3 (FFmt.f32.infBits true), hi := List.replicate 3 (FFmt.f32.infBits false) }
  else
    some { lo := axes.map fun a => FFmt.f32.round .rdn false (FVal.add .rdn (f32v (org.getD a 0)) (step a (lo a))),
           hi := axes.map fun a => FFmt.f32.round .rup false (FVal.add .rup (f32v (org.getD a 0)) (step a (hi a))) }

/-- A ray: origin, direction, interval. -/
structure Ray where
  o : List Nat
  d : List Nat
  tmin : Nat
  tmax : Nat
  deriving DecidableEq, Repr

/-- One axis of R367: none where the ray misses, else the entry and exit parameters where the axis has them.  Where an
infinite origin meets an infinite side the specification states no parameter: the axis then passes or not freely (log 91). -/
def slabAxis (lo hi o d : Nat) : Option (Option (Nat × Nat)) :=
  let x := f32v o
  let y := f32v d
  if y.isZero then (if FVal.le (f32v lo) x && FVal.le x (f32v hi) then some none else none)
  else
    let p := FVal.div (FVal.sub .rne (f32v lo) x) y
    let q := FVal.div (FVal.sub .rne (f32v hi) x) y
    if p.isNan || q.isNan then (if Config.pick lo hi o % 2 = 1 then some none else none)
    else
      let a := if FVal.lt q p then q else p
      let b := if FVal.lt q p then p else q
      some (some (FFmt.f32.round .rdn false a, FFmt.f32.round .rup false b))

/-- SlabHit (R367): tnear where the box is hit between TMIN and a limit. -/
def slabHit (b : Box) (r : Ray) (tmax : Nat) : Option Nat :=
  if (r.o ++ r.d).any fun n => (f32v n).isNan then none
  else
    let axes := (List.range 3).map fun a => slabAxis (b.lo.getD a 0) (b.hi.getD a 0) (r.o.getD a 0) (r.d.getD a 0)
    if axes.any Option.isNone then none
    else
      let ps := axes.filterMap fun x => x.bind id
      let near := ps.foldl (fun m p => if FVal.lt (f32v m) (f32v p.1) then p.1 else m) (FFmt.f32.infBits true)
      let far := ps.foldl (fun m p => if FVal.lt (f32v p.2) (f32v m) then p.2 else m) (FFmt.f32.infBits false)
      if FVal.le (f32v near) (f32v far) && FVal.le (f32v near) (f32v tmax) && FVal.le (f32v r.tmin) (f32v far) &&
          FVal.le (f32v r.tmin) (f32v tmax) then some near
      else none

/-! Leaf tests. -/

/-- What a leaf test computes: t, u, v, u + v, and whether its own rule hits. -/
structure LeafHit where
  t : Nat
  u : Nat
  v : Nat
  s : Nat
  hit : Bool
  deriving DecidableEq, Repr

def nanLeaf : LeafHit := { t := 0x7FC00000, u := 0x7FC00000, v := 0x7FC00000, s := 0x7FC00000, hit := false }

/-- R365 from o' and d'. -/
def affineT (ou ov ow du dv dw : Nat) : LeafHit :=
  let w := f32v dw
  if w.isZero || w.isNan then nanLeaf
  else
    let t := r32v (FVal.div (f32v ow).flip w)
    let u := r32v (FVal.add .rne (f32v ou) (FVal.mul t (f32v du)))
    let v := r32v (FVal.add .rne (f32v ov) (FVal.mul t (f32v dv)))
    let s := r32v (FVal.add .rne u v)
    let hit := FVal.le (.zero false) u && FVal.le (.zero false) v && FVal.le s (.fin false 1 0) && t.finite
    { t := f32b t, u := f32b u, v := f32b v, s := f32b s, hit := hit }

/-- R385, R365: a row of M on a vector, exact and rounded once. -/
def rowDot (rnd : Rnd) (ftz : Bool) (row x : List Nat) : Nat :=
  FFmt.f32.round rnd ftz (FVal.sum rnd ((row.zip x).map fun p =>
    FVal.mul (f32v (FFmt.f32.operand ftz false false p.1)) (f32v (FFmt.f32.operand ftz false false p.2))))

/-- R365 from the matrix: rows u, v, w of four. -/
def affineTest (m : List Nat) (r : Ray) : LeafHit :=
  let row (c : Nat) : List Nat := (m.drop (4 * c)).take 4
  let o (c : Nat) : Nat := rowDot .rne false (row c) (r.o ++ [FFmt.f32.oneBits])
  let d (c : Nat) : Nat := rowDot .rne false ((row c).take 3) r.d
  affineT (o 0) (o 1) (o 2) (d 0) (d 1) (d 2)

/-- R366: the axis of largest |D|, lowest on a tie. -/
def largestAxis (d : List Nat) : Nat :=
  let mag (a : Nat) : Nat := d.getD a 0 % 2 ^ 31
  if mag 1 ≤ mag 0 ∧ mag 2 ≤ mag 0 then 0 else if mag 2 ≤ mag 1 then 1 else 2

/-- The signed areas of R366 with a rounding. -/
def edgeAreas (rnd : FVal → FVal) (x y : Nat → FVal) : List FVal :=
  let cross (i j : Nat) : FVal := rnd (FVal.sub .rne (rnd (FVal.mul (x i) (y j))) (rnd (FVal.mul (y i) (x j))))
  [cross 1 2, cross 2 0, cross 0 1]

/-- R366: the watertight test on vertices V0, V1, V2 (nine values). -/
def watertight (vs : List Nat) (r : Ray) : LeafHit :=
  let kz := largestAxis r.d
  let dz := f32v (r.d.getD kz 0)
  let k1 := (kz + 1) % 3
  let k2 := (kz + 2) % 3
  let swap := FVal.lt dz (.zero false) && !dz.isNan
  let kx := if swap then k2 else k1
  let ky := if swap then k1 else k2
  let sx := r32v (FVal.div (f32v (r.d.getD kx 0)) dz)
  let sy := r32v (FVal.div (f32v (r.d.getD ky 0)) dz)
  let sz := r32v (FVal.div (.fin false 1 0) dz)
  let p (i a : Nat) : FVal := r32v (FVal.sub .rne (f32v (vs.getD (3 * i + a) 0)) (f32v (r.o.getD a 0)))
  let px (i : Nat) : FVal := r32v (FVal.sub .rne (p i kx) (r32v (FVal.mul sx (p i kz))))
  let py (i : Nat) : FVal := r32v (FVal.sub .rne (p i ky) (r32v (FVal.mul sy (p i kz))))
  let pz (i : Nat) : FVal := r32v (FVal.mul sz (p i kz))
  let a := edgeAreas r32v px py
  let a := if a.any FVal.isZero then edgeAreas r64v px py else a
  let neg (x : FVal) : Bool := x.neg && !x.isZero && !x.isNan
  let pos (x : FVal) : Bool := !x.neg && !x.isZero && !x.isNan
  let u := a.getD 0 .nan
  let v := a.getD 1 .nan
  let w := a.getD 2 .nan
  let det := r32v (FVal.add .rne (r32v (FVal.add .rne u v)) w)
  let miss := (a.any neg && a.any pos) || det.isZero
  let num := r32v (FVal.add .rne (r32v (FVal.add .rne (r32v (FVal.mul u (pz 0))) (r32v (FVal.mul v (pz 1)))))
    (r32v (FVal.mul w (pz 2))))
  let t := r32v (FVal.div num det)
  let bu := r32v (FVal.div v det)
  let bv := r32v (FVal.div w det)
  { t := f32b t, u := f32b bu, v := f32b bv, s := f32b (r32v (FVal.add .rne bu bv)), hit := !miss && !t.isNan }

/-- A leaf record (R362) as it was read. -/
structure LeafRec where
  vs : List Nat
  m : List Nat
  ident : Nat
  xf : Bool
  deriving DecidableEq, Repr

def LeafRec.ofNat (n : Nat) : LeafRec :=
  { vs := (List.range 9).map fun i => n / 2 ^ (32 * i) % 2 ^ 32, m := (List.range 12).map fun i => n / 2 ^ (288 + 32 * i) % 2 ^ 32,
    ident := n / 2 ^ 672 % 2 ^ 32, xf := n / 2 ^ 704 % 2 == 1 }

def LeafRec.test (l : LeafRec) (r : Ray) : LeafHit := if l.xf then affineTest l.m r else watertight l.vs r

/-- TMIN ≤ t ≤ a limit. -/
def inInterval (r : Ray) (tmax t : Nat) : Bool := FVal.le (f32v r.tmin) (f32v t) && FVal.le (f32v t) (f32v tmax)

/-! Coverage (R369). -/

/-- A camera block (R357). -/
structure Camera where
  e : List Nat
  d0 : List Nat
  dx : List Nat
  dy : List Nat
  tmin : Nat
  tmax : Nat
  deriving DecidableEq, Repr

/-- R358: the pixel ray. -/
def Camera.ray (c : Camera) (px py : Nat) : Ray :=
  let half (n : Nat) : FVal := FVal.ofScaled false (2 * n + 1 : Nat) (-1)
  { o := c.e, tmin := c.tmin, tmax := c.tmax,
    d := (List.range 3).map fun a => f32b (FVal.sum .rne
      [f32v (c.d0.getD a 0), FVal.mul (half px) (f32v (c.dx.getD a 0)), FVal.mul (half py) (f32v (c.dy.getD a 0))]) }

def cross32 (a b : List FVal) : List FVal :=
  let g (xs : List FVal) (i : Nat) : FVal := xs.getD (i % 3) .nan
  (List.range 3).map fun i =>
    r32v (FVal.sub .rne (r32v (FVal.mul (g a (i + 1)) (g b (i + 2)))) (r32v (FVal.mul (g a (i + 2)) (g b (i + 1)))))

def dot32 (a b : List FVal) : FVal :=
  let p (i : Nat) : FVal := r32v (FVal.mul (a.getD i .nan) (b.getD i .nan))
  r32v (FVal.add .rne (r32v (FVal.add .rne (p 0) (p 1))) (p 2))

/-- A projected vertex, or none where the leaf is not projected. -/
def project (c : Camera) (v : List Nat) : Option (Int × Int) :=
  let r := (List.range 3).map fun a => r32v (FVal.sub .rne (f32v (v.getD a 0)) (f32v (c.e.getD a 0)))
  let f (xs : List Nat) : List FVal := xs.map f32v
  let n := dot32 r (cross32 (f c.dx) (f c.dy))
  let x := r32v (FVal.div (dot32 r (cross32 (f c.dy) (f c.d0))) n)
  let y := r32v (FVal.div (dot32 r (cross32 (f c.d0) (f c.dx))) n)
  if FVal.le n (.zero false) || n.isNan || !x.finite || !y.finite then none
  else
    let big (z : FVal) : Bool := FVal.le (.fin false 1 40) z || FVal.le z (.fin true 1 40)
    if big x || big y then none
    else
      let i (z : FVal) : Int := FVal.toIntRound .rne (FVal.scale 8 z)
      if 2 ^ 30 ≤ (i x).natAbs ∨ 2 ^ 30 ≤ (i y).natAbs then none else some (i x, i y)

/-- R369: whether the sample of a pixel is covered by a projected triangle. -/
def covered (p : List (Int × Int)) (px py : Nat) : Bool :=
  let sx : Int := 256 * px + 128
  let sy : Int := 256 * py + 128
  let at_ (i : Nat) : Int × Int := p.getD (i % 3) (0, 0)
  let e (i : Nat) : Int :=
    ((at_ (i + 1)).1 - (at_ i).1) * (sy - (at_ i).2) - ((at_ (i + 1)).2 - (at_ i).2) * (sx - (at_ i).1)
  let flip := decide (e 0 + e 1 + e 2 < 0)
  (List.range 3).all fun i =>
    let v := if flip then -e i else e i
    let a := if flip then at_ (i + 1) else at_ i
    let b := if flip then at_ i else at_ (i + 1)
    decide (0 < v) || (v == 0 && (decide (b.2 < a.2) || (b.2 == a.2 && decide (a.1 < b.1))))

/-- R369: the depth and ID a leaf gives the sample of a pixel, if it is assigned to it. -/
def assigned (c : Camera) (l : LeafRec) (px py : Nat) : Option (Nat × Nat) :=
  let r := c.ray px py
  let h := l.test r
  let ps := (List.range 3).map fun i => project c ((l.vs.drop (3 * i)).take 3)
  let cov := if ps.all Option.isSome then covered (ps.filterMap id) px py else h.hit
  if cov && inInterval r r.tmax h.t && l.ident != 0xFFFFFFFF then some (h.t, l.ident) else none

/-! The frustum of a tile (R370). -/

/-- The sum and the products of vectors, exact. -/
def dot3 (a b : List FVal) : FVal := FVal.sum .rne ((a.zip b).map fun p => FVal.mul p.1 p.2)

def cross3 (a b : List FVal) : List FVal :=
  let g (xs : List FVal) (i : Nat) : FVal := xs.getD (i % 3) .nan
  (List.range 3).map fun i =>
    FVal.sub .rne (FVal.mul (g a (i + 1)) (g b (i + 2))) (FVal.mul (g a (i + 2)) (g b (i + 1)))

/-- The direction through a pixel corner. -/
def Camera.corner (c : Camera) (x y : Nat) : List FVal :=
  (List.range 3).map fun a => FVal.sum .rne
    [f32v (c.d0.getD a 0), FVal.mul (FVal.ofInt x) (f32v (c.dx.getD a 0)), FVal.mul (FVal.ofInt y) (f32v (c.dy.getD a 0))]

/-- The corners of a box as seen from the eye. -/
def boxCorners (c : Camera) (b : Box) : List (List FVal) :=
  (List.range 8).map fun k => (List.range 3).map fun a =>
    FVal.sub .rne (f32v ((if k / 2 ^ a % 2 = 1 then b.hi else b.lo).getD a 0)) (f32v (c.e.getD a 0))

/-- R370: whether a box meets the frustum of a tile: one that a side plane separates from it, for intervals that begin in front of
the eye, does not; the rounding of the test may let such a box through (log 92). -/
def Camera.meets (c : Camera) (tx ty : Nat) (b : Box) : Bool :=
  let cs := [c.corner (8 * tx) (8 * ty), c.corner (8 * tx + 8) (8 * ty), c.corner (8 * tx + 8) (8 * ty + 8),
             c.corner (8 * tx) (8 * ty + 8)]
  let mid := (List.range 3).map fun a => FVal.sum .rne (cs.map fun d => d.getD a .nan)
  let vs := boxCorners c b
  let apart (i : Nat) : Bool :=
    let n := cross3 (cs.getD i []) (cs.getD ((i + 1) % 4) [])
    let m := dot3 n mid
    let side (x : FVal) : Bool := if FVal.lt (.zero false) m then FVal.lt x (.zero false) else FVal.lt (.zero false) x
    (FVal.lt (.zero false) m || FVal.lt m (.zero false)) && vs.all fun v => side (dot3 n v)
  let finite := (cs.flatten ++ vs.flatten).all FVal.finite
  !finite || FVal.lt (f32v c.tmin) (.zero false) || !((List.range 4).any apart) ||
    Config.pick ((b.lo ++ b.hi).foldl (fun n x => n * 2 ^ 32 + x) 0) (tx * 2 ^ 32 + ty) 370 % 2 == 1

/-- (depth, ID) order, unsigned. -/
def pairLt (a b : Nat × Nat) : Bool := decide (a.1 < b.1) || (a.1 == b.1 && decide (a.2 < b.2))

end Sys2Proof.Machine
end

