-- ==== Sys2Proof/Machine/Planisher.lean ====
section
/-!
DEFINITION. The planishers and the predictive surfaces they serve (R335 to R354, R389).
-/
namespace Sys2Proof.Machine

/-! Formats and descriptors. -/

/-- R337: a pixel format: its channels as (low bit, width), the bytes of a pixel, and whether it is RAW only. -/
structure SFmt where
  code : Nat
  chans : List (Nat × Nat)
  bpp : Nat
  raw : Bool
  deriving DecidableEq, Repr

def sfmt (code : Nat) : Option SFmt :=
  match code with
  | 0 => some ⟨0, [(0, 8), (8, 8), (16, 8), (24, 8)], 4, false⟩
  | 1 => some ⟨1, [(0, 10), (10, 10), (20, 10), (30, 2)], 4, false⟩
  | 2 => some ⟨2, [(0, 16), (16, 16), (32, 16), (48, 16)], 8, false⟩
  | 3 => some ⟨3, [(0, 16), (16, 16)], 4, false⟩
  | 4 => some ⟨4, [(0, 32)], 4, false⟩
  | 5 => some ⟨5, [(0, 32)], 4, false⟩
  | 8 => some ⟨8, [(0, 16), (16, 16), (32, 16), (48, 16)], 8, true⟩
  | 9 => some ⟨9, [(0, 32)], 4, true⟩
  | 10 => some ⟨10, [(0, 32), (32, 32)], 8, true⟩
  | _ => none

/-- Worst-case chunks of a block (R337) and bits of a level (R340). -/
def SFmt.wc (f : SFmt) : Nat := (256 * f.bpp + 59) / 60
def SFmt.lw (f : SFmt) : Nat := if f.code ≤ 1 then 16 else 32
def SFmt.width (f : SFmt) (c : Nat) : Nat := (f.chans.getD c (0, 0)).2

/-- The channels of a pixel word, four with absent ones 0, and the word of channels. -/
def SFmt.split (f : SFmt) (n : Nat) : List Nat :=
  (List.range 4).map fun c => match f.chans[c]? with | some x => n / 2 ^ x.1 % 2 ^ x.2 | none => 0
def SFmt.join (f : SFmt) (cs : List Nat) : Nat :=
  ((List.range f.chans.length).map fun c => cs.getD c 0 % 2 ^ f.width c * 2 ^ (f.chans.getD c (0, 0)).1).foldl (· + ·) 0

/-- R336: bits of a descriptor, and what they say. -/
def dfld (d : BitVec 512) (lo n : Nat) : Nat := d.toNat / 2 ^ lo % 2 ^ n

/-- A surface as one access finds it. -/
structure Surf where
  idx : Nat
  desc : BitVec 512
  va : Nat
  fmt : SFmt
  deriving DecidableEq, Repr

def descW (d : BitVec 512) : Nat := dfld d 184 16 + 1
def descH (d : BitVec 512) : Nat := dfld d 168 16 + 1
def descBW (d : BitVec 512) : Nat := (descW d + 15) / 16
def descBH (d : BitVec 512) : Nat := (descH d + 15) / 16
def descFrozen (d : BitVec 512) : Bool := d.getLsbD 160
def descPooled (d : BitVec 512) : Bool := d.getLsbD 161
def descRec (d : BitVec 512) (b : Nat) : Nat := (dfld d 448 64 + 32 * b) % 2 ^ 64
def descChunk (d : BitVec 512) (n : Nat) : Nat := (dfld d 384 64 + 64 * n) % 2 ^ 64
def descPool (d : BitVec 512) : Nat := dfld d 320 64

def noChunk : Nat := 0xFFFFFFFF

/-! What a planisher reads and writes (R338). -/

/-- Why a surface operation goes no further: PROT at an address (a page's or a check's), a page fault with the home slice of the
planisher that met it where the record names one, a wait on a pool, or a line that is not to be had now. -/
inductive SErr where
  | prot (addr : Nat) (page : Bool := false)
  | fault (va : Nat) (home : Option Nat)
  | wait (pool : Nat) (blk : Option (Nat × Nat))
  | busy
  deriving DecidableEq, Repr

/-- For whom a planisher acts: context and privilege, and the home slice it lies at where that is known. -/
structure Who where
  ctx : Nat
  priv : Nat
  home : Option Nat := none
  deriving DecidableEq, Repr

/-- The work of planishers: what it finds, or why it goes no further, and the state it leaves either way. -/
abbrev Plan (α : Type) := ExceptT SErr (StateM State) α

/-- Work whose failure is a value. -/
def attempt {α : Type} (p : Plan α) : Plan (Except SErr α) := fun s => (.ok (p s).1, (p s).2)

/-- The planisher that reads where no record says which: a free choice (log 53). -/
def Who.slice (w : Who) (s : State) : Nat := w.home.getD (Config.pick s.fresh w.ctx w.priv % 256)

/-- One planisher translation, with the page's protocol: records and chunks need SURF. -/
def planTr (w : Who) (k : AccKind) (surf : Bool) (va : Nat) : Plan (Nat × Nat) := do
  match translate (← get) w.ctx w.priv k va with
  | .ok pa proto sf => if surf && !sf then throw (.prot va true) else pure (pa, proto)
  | .prot _ => throw (.prot va true)
  | .fault => throw (.fault va w.home)

/-- The physical addresses of n bytes, no more than two pages of them, with their protocols. -/
def planSpan (w : Who) (k : AccKind) (surf : Bool) (va n : Nat) : Plan (List (Nat × Nat)) := do
  let lo ← planTr w k surf (va % 2 ^ 64)
  let hi ← planTr w k surf ((va + n - 1) % 2 ^ 64)
  pure ((List.range n).map fun i =>
    if va % 4096 + i < 4096 then (lo.1 + i, lo.2) else (hi.1 + i + 1 - n, hi.2))

/-- The bytes at physical addresses as the planisher's die sees them (R249), once no engine owns them (R247). -/
def planBytes (w : Who) (pas : List (Nat × Nat)) : Plan (List Byte) := do
  let s ← get
  if pas.any fun p => ownedLine s .global (lineOf p.1) then throw .busy
  else pure (pas.map fun p => dieByte s (w.slice s / 64) p.1)

def planRead (w : Who) (surf : Bool) (va n : Nat) : Plan (List Byte) := do
  planBytes w (← planSpan w .read surf va n)

/-- Lines a planisher is to write are its home's: no engine or MCAS has them, no lease runs, no L1 holds them modified (R238 to
R241, R247, R265). -/
def planLines (w : Who) : List (Nat × Nat) → Plan Unit
  | [] => pure ()
  | (pa, proto) :: rest => do
    let line := lineOf pa
    let s ← get
    if (s.home line).lock.isSome || ownedLine s .global line || decide (s.time < leaseEnd s line) ||
        !(s.home line).writers.isEmpty || !agentLink s w.ctx .write proto line then throw .busy
    else
      let r := dirRecall s line
      set r.1
      if r.2 then
        set (agentServed (loseLine r.1 line fun _ => true) w.ctx .write proto line)
        planLines w rest
      else throw .busy

/-- The first of the addresses on each line. -/
def lineHeads (pas : List (Nat × Nat)) : List (Nat × Nat) :=
  pas.foldl (fun r p => if r.any fun q => lineOf q.1 == lineOf p.1 then r else r ++ [p]) []

/-- Checks a write of n bytes, and has its lines. -/
def planTake (w : Who) (surf : Bool) (va n : Nat) : Plan Unit := do
  planLines w (lineHeads (← planSpan w .write surf va n))

/-- Writes bytes at lines it has; a release at device scope is what every write performed at once is (R348). -/
def planWrite (w : Who) (surf : Bool) (va : Nat) (bs : List Byte) : Plan Unit := do
  let pas ← planSpan w .write surf va bs.length
  modify fun s => (pas.zip bs).foldl (fun s x => performWrite s x.1.1 [x.2] engineTid) s

/-- Addresses and sizes checked, all pages before any line, before any write. -/
def planCheck (w : Who) (xs : List (Nat × Nat)) : Plan Unit := do
  xs.forM fun x => do let _ ← planSpan w .write true x.1 x.2
  xs.forM fun x => planTake w true x.1 x.2

/-- R353. -/
def surfEvent (s : State) (ctx code surf b addr count : Nat) : State :=
  s.postEvent (ctx / 16) (toBytes 4 1 ++ toBytes code 1 ++ toBytes surf 2 ++ toBytes b 4 ++ toBytes addr 8 ++
    toBytes count 8 ++ toBytes s.time 8)

/-- A surface of a context, and the descriptor that the planisher of a home slice holds of it. -/
def descKey (ctx surf : Nat) : Nat := ctx * 4096 + surf
def heldKey (home ctx surf : Nat) : Nat := home * 2 ^ 40 + descKey ctx surf

def descVa (s : State) (ctx surf : Nat) : Nat := ((s.ctx ctx).surfTab.toNat + 64 * surf) % 2 ^ 64

/-- The descriptor a planisher finds (R335): one it holds, or the table's, which it then holds.  `at_` says which planisher a
descriptor leads to; none where the access names no block. -/
def readDesc (w : Who) (surf : Nat) (at_ : BitVec 512 → Option Nat) : Plan (BitVec 512) := do
  let s ← get
  let held := (s.descs.filter fun e => e.1 % 2 ^ 40 == descKey w.ctx surf && (at_ e.2).all fun h => e.1 / 2 ^ 40 == h).map Prod.snd
  match held[Config.pick s.fresh w.ctx surf % (held.length + 1)]? with
  | some d => pure d
  | none => do
    let d := BitVec.ofNat 512 (ofBytes (← planRead w false (descVa s w.ctx surf) 64))
    match at_ d with
    | some h => modify fun s => { s with descs := Map.set s.descs (heldKey h w.ctx surf) d }
    | none => pure ()
    pure d

/-- The home slice of a block's record (R345), where its page translates. -/
def recHome (s : State) (w : Who) (d : BitVec 512) (b : Nat) : Option Nat :=
  match translate s w.ctx w.priv .read (descRec d b) with
  | .ok pa _ _ => some (homeOf s pa)
  | _ => none

/-- R373: the block of a coordinate, where it lies in the grid. -/
def blockAt (d : BitVec 512) (x y : Nat) : Option Nat :=
  if x / 16 < descBW d ∧ y / 16 < descBH d then some (y / 16 * descBW d + x / 16) else none

/-- The surface an instruction names (R337), as the planisher of the block at a coordinate finds it. -/
def getSurf (w : Who) (surf : Nat) (xy : Option (Nat × Nat)) : Plan Surf := do
  let s ← get
  let d ← readDesc w surf fun d => (xy.bind fun p => blockAt d p.1 p.2).bind (recHome s w d)
  let va := descVa s w.ctx surf
  match sfmt (dfld d 164 4) with
  | some f => if d.getLsbD 159 then pure ⟨surf, d, va, f⟩ else throw (.prot va)
  | none => throw (.prot va)

/-! Decoding (R339 to R344). -/

/-- R339, R373: the transform block of a pixel of a block and the pixel's place in it, and back. -/
def tOf (p : Nat) : Nat := p / 64 * 4 + p % 16 / 4
def iOf (p : Nat) : Nat := p / 16 % 4 * 4 + p % 4
def pixOf (t i : Nat) : Nat := (t / 4 * 4 + i / 4) * 16 + t % 4 * 4 + i % 4

/-- The matrix T of R344. -/
def tMat (i x : Nat) : Int :=
  (([16, 16, 16, 16, 21, 9, -9, -21, 16, -16, -16, 16, 9, -21, 21, -9] : List Int)).getD (4 * i + x) 0

/-- R344: one residual from 16 levels. -/
def invT (levels : List Int) (step x y : Nat) : Int :=
  let sum (f : Nat → Int) : Int := f 0 + f 1 + f 2 + f 3
  let col (j : Nat) : Int := (sum (fun i => tMat i y * (levels.getD (4 * i + j) 0 * (step : Int))) + 16) / 32
  (sum (fun j => tMat j x * col j) + 16) / 32

def clampI (x lo hi : Int) : Int := if x < lo then lo else if hi < x then hi else x

/-- A quantiser step of 0 acts as 1 (R339). -/
def stepOf (n : Nat) : Nat := if n = 0 then 1 else n

/-- R341: channel c of pixel p. -/
def pixelChan (f : SFmt) (step : Nat) (pred : List Nat) (tbs : List TBlock) (p c : Nat) : Nat :=
  let w := f.width c
  let q := pred.getD (4 * p + c) 0
  match tbs.getD (tOf p) (.coef []) with
  | .bypass r => (q + r.getD (4 * iOf p + c) 0) % 2 ^ w
  | .coef l =>
    (clampI ((q : Int) + invT ((l.drop (16 * c)).take 16) (stepOf step) (iOf p % 4) (iOf p / 4)) 0 (2 ^ w - 1 : Int)).toNat

def SurfBlock.fmt (b : SurfBlock) : SFmt := (sfmt (dfld b.desc 164 4)).getD ⟨0, [], 4, true⟩
def SurfBlock.chan (b : SurfBlock) (p c : Nat) : Nat := pixelChan b.fmt b.step b.pred b.tbs p c
def SurfBlock.chans (b : SurfBlock) (p : Nat) : List Nat := (List.range 4).map fun c => b.chan p c
def SurfBlock.word (b : SurfBlock) (p : Nat) : Nat := b.fmt.join (b.chans p)

/-- Takes n bytes of a stream, zero beyond its end (R340). -/
def takeBytes (bs : List Byte) (n : Nat) : Nat × List Byte := (ofBytes (bs.take n), bs.drop n)

def signedOf (n w : Nat) : Int := if 2 ^ (w - 1) ≤ n then (n : Int) - 2 ^ w else n

/-- The levels of one channel after its mask. -/
def readLevels (lw mask : Nat) : Nat → List Byte → List Int × List Byte
  | 0, bs => ([], bs)
  | n + 1, bs =>
    if mask / 2 ^ (15 - n) % 2 = 1 then
      let x := takeBytes bs (lw / 8)
      let r := readLevels lw mask n x.2
      (signedOf x.1 lw :: r.1, r.2)
    else
      let r := readLevels lw mask n bs
      (0 :: r.1, r.2)

/-- The channels of a COEF transform block. -/
def readCoef (lw : Nat) : Nat → List Byte → List Int × List Byte
  | 0, bs => ([], bs)
  | n + 1, bs =>
    let g := takeBytes bs 2
    let r := readLevels lw g.1 16 g.2
    let rest := readCoef lw n r.2
    (r.1 ++ rest.1, rest.2)

/-- n packed pixels. -/
def readPixels (f : SFmt) : Nat → List Byte → List Nat × List Byte
  | 0, bs => ([], bs)
  | n + 1, bs =>
    let x := takeBytes bs f.bpp
    let r := readPixels f n x.2
    (f.split x.1 ++ r.1, r.2)

/-- The transform blocks of a PRED or ANCHOR stream from block t up. -/
def readTBlocks (f : SFmt) (nz byp : Nat) : Nat → List Byte → List TBlock
  | 0, _ => []
  | n + 1, bs =>
    let t := 15 - n
    if nz / 2 ^ t % 2 = 0 then .coef [] :: readTBlocks f nz byp n bs
    else if byp / 2 ^ t % 2 = 1 then
      let r := readPixels f 16 bs
      .bypass r.1 :: readTBlocks f nz byp n r.2
    else
      let r := readCoef f.lw f.chans.length bs
      .coef r.1 :: readTBlocks f nz byp n r.2

/-- A RAW stream: raster order becomes transform-block order. -/
def rawTBlocks (f : SFmt) (bs : List Byte) : List TBlock :=
  let px := (readPixels f 256 bs).1
  (List.range 16).map fun t => .bypass ((List.range 64).map fun k => px.getD (4 * pixOf t (k / 4) + k % 4) 0)

/-- The chunks of a block and their payload: at most n, ending early where the list does (R340). -/
def readChunks (w : Who) (d : BitVec 512) : Nat → Nat → Plan (List Nat × List Byte)
  | 0, _ => pure ([], [])
  | n + 1, c =>
    if c = noChunk then pure ([], [])
    else do
      let bs ← planRead w true (descChunk d c) 64
      let r ← readChunks w d n (ofBytes (bs.take 4))
      pure (c :: r.1, bs.drop 4 ++ r.2)


/-- R342: the blocks of the reference that the taps of a block read, ascending. -/
def clampN (x : Int) (hi : Nat) : Nat := (clampI x 0 (hi : Int)).toNat

def tapBlocks (d r : BitVec 512) (b : Nat) (mvx mvy : Int) : List Nat :=
  let x0 := ((16 * (b % descBW d) : Nat) : Int) + mvx / 4
  let y0 := ((16 * (b / descBW d) : Nat) : Int) + mvy / 4
  let span (a : Int) (hi : Nat) : List Nat :=
    let lo := clampN a hi / 16
    (List.range (clampN (a + 16) hi / 16 + 1 - lo)).map (lo + ·)
  (span y0 (descH r - 1)).flatMap fun y => (span x0 (descW r - 1)).map fun x => y * descBW r + x

/-- R342: the prediction of every pixel of a block from the decoded blocks of the reference. -/
def predict (d r : BitVec 512) (f : SFmt) (b : Nat) (mvx mvy : Int) (blocks : List (Nat × SurfBlock)) : List Nat :=
  let fx := (mvx % 4).toNat
  let fy := (mvy % 4).toNat
  let tap (x y : Int) (c : Nat) : Nat :=
    let px := clampN x (descW r - 1)
    let py := clampN y (descH r - 1)
    match Map.get? blocks (py / 16 * descBW r + px / 16) with
    | some k => k.chan (py % 16 * 16 + px % 16) c
    | none => 0
  (List.range 1024).map fun n =>
    let p := n / 4
    let c := n % 4
    let x := ((16 * (b % descBW d) + p % 16 : Nat) : Int) + mvx / 4
    let y := ((16 * (b / descBW d) + p / 16 : Nat) : Int) + mvy / 4
    if f.chans.length ≤ c then 0
    else ((4 - fx) * (4 - fy) * tap x y c + fx * (4 - fy) * tap (x + 1) y c + (4 - fx) * fy * tap x (y + 1) c +
      fx * fy * tap (x + 1) (y + 1) c + 8) / 16

/-- The prediction of a block that predicts from no reference: BASE, or 0. -/
def flatPred (f : SFmt) (base : Nat) : List Nat := (List.range 1024).map fun n => (f.split base).getD (n % 4) 0
def zeroPred : List Nat := List.replicate 1024 0

/-- R343: the reference of a PRED block, or none where the prediction fails on its descriptor.  The planisher of the block reads
it. -/
def reference (w : Who) (d : BitVec 512) (ref : Nat) : Plan (Option (Nat × BitVec 512)) :=
  if dfld d 205 3 ≤ ref then pure none
  else do
    let r := dfld d (208 + 12 * ref) 12
    let x ← readDesc w r fun _ => w.home
    pure (if x.getLsbD 159 && dfld x 164 4 == dfld d 164 4 && descFrozen x then some (r, x) else none)

def heldBlock (s : State) (ctx surf b : Nat) : Option SurfBlock :=
  s.surfs.find? fun x => x.ctx == ctx && x.surf == surf && x.b == b

def State.dropBlock (s : State) (k : SurfBlock) : State :=
  { s with surfs := s.surfs.filter fun x => !(x.ctx == k.ctx && x.surf == k.surf && x.b == k.b) }

def State.putBlock (s : State) (k : SurfBlock) : State := { s.dropBlock k with surfs := (s.dropBlock k).surfs ++ [k] }

/-! Encoding (R348 to R352). -/

/-- The largest DEPTH among reference blocks, held or as their records say (R349). -/
def refDepth (w : Who) (r : Nat) (rd : BitVec 512) : List Nat → Plan Nat
  | [] => pure 0
  | b :: rest => do
    let d ← match heldBlock (← get) w.ctx r b with
      | some k => pure k.depth
      | none => do pure (ofBytes (← planRead { w with home := none } true (descRec rd b) 32) / 2 ^ 37 % 8)
    let m ← refDepth w r rd rest
    pure (max d m)

/-- R349 rule 2: the new DEPTH of a PRED block. -/
def newDepth (w : Who) (k : SurfBlock) : Plan Nat := do
  match ← reference w k.desc k.ref with
  | none => pure 1
  | some (r, rd) => do
    let m ← refDepth w r rd (tapBlocks k.desc rd k.b k.mvx k.mvy)
    pure (1 + m)

/-- The levels or residuals of a transform block for a stream: none where a COEF block holds only zeros. -/
def tbBytes (f : SFmt) (t : TBlock) : Option (Bool × List Byte) :=
  match t with
  | .bypass r =>
    some (true, (List.range 16).flatMap fun i => toBytes (f.join ((r.drop (4 * i)).take 4)) f.bpp)
  | .coef l =>
    if (l.take (16 * f.chans.length)).all (· == 0) then none
    else some (false, (List.range f.chans.length).flatMap fun c =>
      let ls := (List.range 16).map fun k => l.getD (16 * c + k) 0
      let mask := ((List.range 16).map fun k => if ls.getD k 0 = 0 then 0 else 2 ^ k).foldl (· + ·) 0
      toBytes mask 2 ++ (ls.filter (· != 0)).flatMap fun x => toBytes (BitVec.ofInt f.lw x).toNat (f.lw / 8))

/-- R349 rule 4: a coded form a BOUNDED encode may choose; it counts only within the bound. -/
def freeForm (s : State) (k : SurfBlock) : Nat × List TBlock :=
  let f := k.fmt
  let v (t i : Nat) : Nat := Config.pick s.fresh (k.b * 16 + t) i
  (Config.pick s.fresh k.b k.surf % 65536,
   (List.range 16).map fun t =>
     if v t 64 % 2 = 1 then .bypass ((List.range 64).map fun i => v t i % 2 ^ f.width (i % 4))
     else .coef ((List.range (16 * f.chans.length)).map fun i => signedOf (v t i % 2 ^ f.lw) f.lw))

/-- Whether a coded form keeps every pixel within BOUND. -/
def withinBound (k : SurfBlock) (pred : List Nat) (x : Nat × List TBlock) : Bool :=
  (List.range 256).all fun p => (List.range k.fmt.chans.length).all fun c =>
    let a := pixelChan k.fmt x.1 pred x.2 p c
    let b := k.chan p c
    decide (max a b - min a b ≤ dfld k.desc (256 + 16 * c) 16)

/-- What an encode stores: the fields that may change and the stream. -/
structure Coded where
  mode : Nat
  depth : Nat
  base : Nat
  step : Nat
  nz : Nat
  byp : Nat
  stream : List Byte
  deriving DecidableEq, Repr

/-- R349. -/
def encodeForm (s : State) (k : SurfBlock) (depth : Nat) : Coded :=
  let f := k.fmt
  let raws := (List.range 256).flatMap fun p => toBytes (k.word p) f.bpp
  let rawForm : Coded := { mode := 0, depth := 0, base := k.base, step := k.step, nz := 0, byp := 0, stream := raws }
  let deep := k.mode = 1 ∧ 4 < depth
  let solid := k.mode = 2 ∧ (List.range 256).all fun p => k.chans p == f.split k.base
  if f.raw ∨ k.mode = 0 then rawForm
  else if solid then { rawForm with mode := 2, stream := [] }
  else
    let mode := if k.mode = 2 ∨ deep then 3 else k.mode
    let pred := if deep then zeroPred else k.pred
    let exact : List TBlock :=
      if deep then (List.range 16).map fun t => .bypass ((List.range 64).map fun n => k.chan (pixOf t (n / 4)) (n % 4))
      else k.tbs
    let free := freeForm s k
    let form := if dfld k.desc 162 2 = 1 ∧ withinBound k pred free = true then free else (k.step, exact)
    let ts := (form.2.map fun t => tbBytes f t).zipIdx
    let nz := (ts.map fun x => if x.1.isSome then 2 ^ x.2 else 0).foldl (· + ·) 0
    let byp := (ts.map fun x => match x.1 with | some (true, _) => 2 ^ x.2 | _ => 0).foldl (· + ·) 0
    let stream := ts.flatMap fun x => match x.1 with | some y => y.2 | none => []
    if 60 * f.wc < stream.length then rawForm
    else { mode := mode, depth := if mode = 1 then depth else 0, base := if deep then 0 else k.base, step := form.1,
           nz := nz, byp := byp, stream := stream }

/-- R339: the 32 bytes of a record. -/
def recordOf (k : SurfBlock) (x : Coded) (chunks : List Nat) : Nat :=
  k.version % 2 ^ 32 * 2 ^ 224 + chunks.headD noChunk * 2 ^ 192 + x.nz * 2 ^ 176 + x.byp * 2 ^ 160 +
    chunks.length * 2 ^ 152 + x.step % 65536 * 2 ^ 136 + (BitVec.ofInt 14 k.mvx).toNat * 2 ^ 122 +
    (BitVec.ofInt 14 k.mvy).toNat * 2 ^ 108 + k.ref % 4 * 2 ^ 106 + x.mode * 2 ^ 104 + x.base % 2 ^ 64 * 2 ^ 40 +
    x.depth * 2 ^ 37


/-- R351: the first k chunks of the free list, with the chunk after them; none where the list is shorter. -/
def poolChunks (w : Who) (d : BitVec 512) : Nat → Nat → Plan (Option (List Nat × Nat))
  | 0, c => pure (some ([], c))
  | n + 1, c =>
    if c = noChunk then pure none
    else do
      let bs ← planRead w true (descChunk d c) 4
      let r ← poolChunks w d n (ofBytes bs)
      pure (r.map fun x => (c :: x.1, x.2))

/-- R351: the pool's word after a take or return. -/
def writePool (s : State) (pa count free : Nat) : State :=
  performWrite s pa (toBytes (free % 2 ^ 32) 4 ++ toBytes (count % 2 ^ 32) 4) engineTid

/-- R351: the one LOW record of a pool until COUNT reaches LOW again. -/
def poolRecord (s : State) (k : SurfBlock) (pa before after low : Nat) : State :=
  let s : State := if low ≤ before then { s with poolLow := s.poolLow.filter fun x => x != pa } else s
  if after < low then
    if s.poolLow.contains pa then s
    else surfEvent { s with poolLow := pa :: s.poolLow } k.ctx 1 k.surf k.b (descPool k.desc) after
  else { s with poolLow := s.poolLow.filter fun x => x != pa }

/-- Chunks of a list linked in order, each with its payload (R340). -/
def writeChunks (w : Who) (d : BitVec 512) (cs : List Nat) (stream : List Byte) : Plan Unit :=
  match cs with
  | [] => pure ()
  | c :: rest => do
    let pay := stream.take 60 ++ List.replicate (60 - (stream.take 60).length) 0
    planWrite w true (descChunk d c) (toBytes (rest.headD noChunk) 4 ++ pay)
    writeChunks w d rest (stream.drop 60)

/-- What an encode found: it ran, or its pool, with the COUNT shown, cannot supply it (R352). -/
inductive Encoded where
  | done
  | short (count : Nat)

/-- The pool object's word has its crucible's place in coherence order: no store that others see is still on its way (R254). -/
def poolFree (s : State) (pa : Nat) : Bool :=
  s.pend.all fun q => q.done || q.stamp == 0 || !q.op.isStore ||
    !(q.op.ranges.any fun r => r.1 == .global && decide (r.2.1 < pa + 16) && decide (pa < r.2.1 + r.2.2))

/-- R348, R349, R351: one encode of a block; every page is checked and every line had before the first write. -/
def encodeBlock (k : SurfBlock) : Plan Encoded := do
  let w : Who := ⟨k.ctx, k.priv, some k.home⟩
  let d := k.desc
  let depth ← if k.mode = 1 ∧ !k.fmt.raw then newDepth w k else pure 0
  let x := encodeForm (← get) k depth
  let n := (x.stream.length + 59) / 60
  if descPooled d then do
    let pas ← planSpan w .rmw false (descPool d) 16
    let pa := (pas.headD (0, 0)).1
    if !poolFree (← get) pa then throw .busy
    else
      let s ← get
      let count := s.readPa (pa + 4) 4
      let low := s.readPa (pa + 8) 4
      let got ← if n ≤ count then poolChunks w d n (s.readPa pa 4) else pure none
      match got with
      | none => pure (.short count)
      | some (cs, next) => do
        planCheck w (cs.map (fun c => (descChunk d c, 64)) ++ (descRec d k.b, 32) ::
          (k.old.getLast?.toList.map fun c => (descChunk d c, 4)))
        planLines w (lineHeads pas)
        if n = 0 then pure ()
        else modify fun s => poolRecord (writePool s pa (count + 2 ^ 32 - n) next) k pa count ((count + 2 ^ 32 - n) % 2 ^ 32) low
        writeChunks w d cs x.stream
        planWrite w true (descRec d k.b) (toBytes (recordOf k x cs) 32)
        match k.old.head?, k.old.getLast? with
        | some first, some last => do
          planWrite w true (descChunk d last) (toBytes ((← get).readPa pa 4) 4)
          modify fun s =>
            let count := s.readPa (pa + 4) 4 + k.old.length
            let s := writePool s pa count first
            if low ≤ count % 2 ^ 32 then { s with poolLow := s.poolLow.filter fun x => x != pa } else s
          pure .done
        | _, _ => pure .done
  else do
    let cs := (List.range n).map fun i => (k.b * k.fmt.wc + i) % 2 ^ 32
    planCheck w (cs.map (fun c => (descChunk d c, 64)) ++ [(descRec d k.b, 32)])
    writeChunks w d cs x.stream
    planWrite w true (descRec d k.b) (toBytes (recordOf k x cs) 32)
    pure .done

/-- R352: a block whose encode the pool cannot supply is pinned; the record is posted once. -/
def pinBlock (s : State) (k : SurfBlock) (count : Nat) : State :=
  if k.pinned.isSome then s
  else (surfEvent s k.ctx 3 k.surf k.b (descPool k.desc) count).putBlock { k with pinned := some s.time }

/-- A held block is to leave its way for an access: whether it left.  A dirty one is encoded, at the privilege of the access that
makes it leave (R338); an encode that fails stops an access of its own context, and keeps the block for another's (log 94). -/
def evictBlock (w : Who) (k : SurfBlock) : Plan Bool := do
  if !k.dirty then do
    modify fun s => s.dropBlock k
    pure true
  else match ← attempt (encodeBlock (if k.ctx = w.ctx then { k with priv := w.priv } else k)) with
    | .ok .done => do
      modify fun s => s.dropBlock k
      pure true
    | .ok (.short n) => do
      modify fun s => pinBlock s k n
      pure false
    | .error .busy => throw .busy
    | .error e => if k.ctx = w.ctx then throw e else pure false

/-! The blocks of a planisher (R345, R350). -/

/-- R233: the ways a home's die gives to decoded blocks. -/
def rtWays (s : State) (home : Nat) : Nat := min 8 (((Map.get? s.l2cfg (home / 64)).getD 0).toNat % 16)

def setOf (pa : Nat) : Nat := Nat.xor (pa / 128 % 1024) (pa / 2 ^ 17 % 1024)

/-- So many of these blocks leave, in this order; whether they did. -/
def evictSome (w : Who) : Nat → List SurfBlock → Plan Bool
  | 0, _ => pure true
  | _, [] => pure false
  | n + 1, k :: rest => do
    if ← evictBlock w k then evictSome w n rest else evictSome w (n + 1) rest

/-- Those of a set that may leave its ways, in an order the specification leaves open. -/
def evictOrder (s : State) (ks : List SurfBlock) : List SurfBlock :=
  let cands := ks.filter fun k => k.pinned.isNone
  match cands with
  | [] => []
  | _ => cands.rotateLeft (Config.pick s.fresh cands.length 233)

/-- A way for a decoded block: a free one, or that of an unpinned block. -/
def makeRoom (w : Who) (home set : Nat) : Plan Bool := do
  let s ← get
  let here := s.surfs.filter fun k => k.home == home && k.set == set
  if rtWays s home = 0 then pure false
  else evictSome w (here.length + 1 - rtWays s home) (evictOrder s here)

/-- Keeps a decoded block where a way can take it. -/
def keepBlock (w : Who) (k : SurfBlock) : Plan Unit := do
  if ← makeRoom w k.home k.set then modify fun s => s.putBlock k else pure ()

/-- R233: a partition of a die shrinks: the blocks in the ways it leaves are evicted, those that cannot be stay (R352). -/
def shrinkWays (s : State) (die : Nat) : State :=
  let sets := ((s.surfs.filter fun k => k.home / 64 == die).map fun k => (k.home, k.set)).dedup
  sets.foldl (fun s x =>
    let here := s.surfs.filter fun k => k.home == x.1 && k.set == x.2
    (evictOrder s here).foldl (fun s k =>
      if (s.surfs.filter fun k => k.home == x.1 && k.set == x.2).length ≤ rtWays s x.1 then s
      else (evictBlock ⟨k.ctx, k.priv, some k.home⟩ k s).2) s) s

/-- The state of a block from its record and stream, without its prediction (R346). -/
def blockOf (s : State) (w : Who) (surf b : Nat) (d : BitVec 512) (f : SFmt) (pa rec : Nat) (cs : List Nat)
    (stream : List Byte) : SurfBlock :=
  let fld (lo n : Nat) : Nat := rec / 2 ^ lo % 2 ^ n
  let mode := if f.raw then 0 else fld 104 2
  { ctx := w.ctx, surf := surf, b := b, priv := w.priv, desc := d, home := homeOf s pa, set := setOf pa,
    mode := mode, ref := fld 106 2, mvx := signedOf (fld 122 14) 14, mvy := signedOf (fld 108 14) 14,
    step := fld 136 16, version := fld 224 32, base := fld 40 64, depth := fld 37 3,
    pred := if mode = 0 ∨ mode = 1 then zeroPred else flatPred f (fld 40 64),
    tbs := if mode = 0 then rawTBlocks f stream
      else if mode = 2 then List.replicate 16 (.coef [])
      else readTBlocks f (fld 176 16) (fld 160 16) 16 stream,
    old := cs }

/-- R389, steps 2 and 3: a block from its record and chunks, without its prediction. -/
def readBlock (w : Who) (surf b : Nat) (d : BitVec 512) (f : SFmt) (whole : Bool) : Plan SurfBlock := do
  let pas ← planSpan { w with home := none } .read true (descRec d b) 32
  let pa := (pas.headD (0, 0)).1
  let w := { w with home := some (homeOf (← get) pa) }
  let rec' := ofBytes (← planBytes w pas)
  if !whole && !f.raw && rec' / 2 ^ 104 % 4 == 1 then pure (blockOf (← get) w surf b d f pa rec' [] [])
  else do
    let x ← readChunks w d (min (rec' / 2 ^ 152 % 256) f.wc) (rec' / 2 ^ 192 % 2 ^ 32)
    pure (blockOf (← get) w surf b d f pa rec' x.1 x.2)

/-- The prediction of a PRED block from its reference's blocks, which `ask` requests, each once, in ascending order (R389, step 4);
none where it fails (R343). -/
def predicted (w : Who) (ask : Nat → BitVec 512 → Nat → Plan (Option SurfBlock)) (k : SurfBlock) : Plan (Option (List Nat)) := do
  match ← reference { w with home := some k.home } k.desc k.ref with
  | none => pure none
  | some (rs, rd) => do
    let ks ← (tapBlocks k.desc rd k.b k.mvx k.mvy).mapM fun rb => do pure ((← ask rs rd rb).map fun z => (rb, z))
    pure (if ks.all Option.isSome then some (predict k.desc rd k.fmt k.b k.mvx k.mvy (ks.filterMap id)) else none)

/-- R389: a block at its home at a chain position, under the descriptor its access found (R335): the one held, or one decoded and
kept where a way can take it.  The answer is none where the block would be the fifth PRED block of its chain (R343); the first
argument counts the positions left. -/
def getBlock (w : Who) : Nat → Nat → BitVec 512 → SFmt → Nat → Plan (Option SurfBlock)
  | 0, surf, d, f, b => do
    match heldBlock (← get) w.ctx surf b with
    | some k => pure (if k.mode = 1 then none else some { k with desc := d })
    | none => do
      let k ← readBlock w surf b d f false
      if k.mode = 1 then pure none
      else do
        keepBlock { w with home := some k.home } k
        pure (some k)
  | n + 1, surf, d, f, b => do
    match heldBlock (← get) w.ctx surf b with
    | some k => pure (some { k with desc := d })
    | none => do
      let k ← readBlock w surf b d f true
      let k ← if k.mode ≠ 1 then pure k
        else do
          match ← predicted w (fun rs rd rb => getBlock w n rs rd f rb) k with
          | some p => pure { k with pred := p }
          | none => do
            modify fun s => surfEvent s w.ctx 2 surf b (descVa s w.ctx surf) 0
            pure k
      keepBlock { w with home := some k.home } k
      pure (some k)

/-- The block a thread's access names: chain position 1 (R389). -/
def accessBlock (w : Who) (x : Surf) (b : Nat) : Plan SurfBlock := do
  match ← getBlock w 4 x.idx x.desc x.fmt b with
  | some k => pure k
  | none => throw (.prot x.va)

/-- R342, R343: the prediction of a block whose mode, reference or vector an operation changed, and whether it failed. -/
def repredict (w : Who) (k : SurfBlock) : Plan (SurfBlock × Bool) :=
  if k.mode = 0 then pure ({ k with pred := zeroPred }, false)
  else if k.mode ≠ 1 then pure ({ k with pred := flatPred k.fmt k.base }, false)
  else do
    let p ← predicted w (fun rs rd rb => getBlock w 3 rs rd k.fmt rb) k
    pure ({ k with pred := p.getD zeroPred }, p.isNone)

/-! Operations on a block (R347). -/

/-- The write of channels of one pixel: the channel values with their mask. -/
def writePixel (k : SurfBlock) (p word : Nat) (q : Nat → Bool) : SurfBlock :=
  let f := k.fmt
  let t := tOf p
  let resid := match k.tbs.getD t (.coef []) with
    | .bypass r => (List.range 64).map fun n => r.getD n 0
    | .coef _ => (List.range 64).map fun n =>
        let w := f.width (n % 4)
        (k.chan (pixOf t (n / 4)) (n % 4) + 2 ^ w - k.pred.getD (4 * pixOf t (n / 4) + n % 4) 0 % 2 ^ w) % 2 ^ w
  let v := f.split word
  let resid := (List.range 64).map fun n =>
    let w := f.width (n % 4)
    if n / 4 = iOf p ∧ q (n % 4) = true then (v.getD (n % 4) 0 + 2 ^ w - k.pred.getD (4 * p + n % 4) 0 % 2 ^ w) % 2 ^ w
    else resid.getD n 0
  { k with tbs := k.tbs.set t (.bypass resid) }

/-- The write of coefficient levels of one channel. -/
def writeLevels (k : SurfBlock) (t c : Nat) (ls : List (Nat × Int)) : SurfBlock :=
  let f := k.fmt
  let old := match k.tbs.getD t (.coef []) with
    | .bypass _ => (List.range 64).map fun _ => (0 : Int)
    | .coef l => (List.range 64).map fun n => l.getD n 0
  let lim := (2 ^ (f.lw - 1) : Int)
  let new := ls.foldl (fun l x => l.set (16 * c + x.1) (clampI x.2 (-lim) (lim - 1))) old
  { k with tbs := k.tbs.set t (.coef new) }

/-- R352: a block of the context pinned 100,000 ticks on a pool. -/
def poolTimedOut (s : State) (ctx pool : Nat) : Bool :=
  s.surfs.any fun k => k.ctx == ctx && k.timedOut && k.pinned.isSome && descPool k.desc == pool

/-- R383: an SREL of the surface is under way. -/
def marked (s : State) (ctx surf : Nat) : Bool := s.frozen.any fun f => f.1 == descKey ctx surf
/-- One write-class operation on a block: it is applied where the block is held, and otherwise decoded, and encoded at once
where no way can take it (R350).  The block keeps its way while the operation decodes others; an operation that does not take
place leaves it as it was.  `op` says whether it recomputed a prediction that failed (R343).  An operation that waits again leaves
no more than it did when it first waited (R352). -/
def surfApply (w : Who) (x : Surf) (b : Nat) (op : SurfBlock → Plan (SurfBlock × Bool)) : Plan Unit := do
  let s0 ← get
  let pool := descPool x.desc
  let late := (heldBlock s0 w.ctx x.idx b).isNone && descPooled x.desc && poolTimedOut s0 w.ctx pool
  let g ← attempt (accessBlock w x b)
  match g with
  | .error (.prot a p) => throw (.prot a p)
  | .error e => throw (if late then .wait pool none else e)
  | .ok k =>
    if late then throw (.wait pool none)
    else
      let here := heldBlock (← get) w.ctx x.idx b
      match here with
      | some k => modify fun s => s.putBlock { k with pinned := some 0 }
      | none => pure ()
      let y ← attempt (op k)
      match here with
      | some k => modify fun s => s.putBlock k
      | none => pure ()
      match y with
      | .error e => throw e
      | .ok y =>
        let k := { y.1 with version := (y.1.version + 1) % 2 ^ 32, dirty := true, desc := x.desc, priv := w.priv }
        let failed (s : State) : State := if y.2 then surfEvent s w.ctx 2 x.idx b (descVa s w.ctx x.idx) 0 else s
        if here.isSome then modify fun s => failed (s.putBlock k)
        else match ← encodeBlock k with
          | .done => modify fun s => { failed s with encWait := s.encWait.filter fun e => e != (w.ctx, x.idx, b) }
          | .short n => do
            if s0.encWait.contains (w.ctx, x.idx, b) then set s0 else pure ()
            throw (.wait pool (some (b, n)))

/-- The checks of R347 on a write-class operation. -/
def writable (w : Who) (x : Surf) (rawOk : Bool) : Plan Unit := do
  if descFrozen x.desc || marked (← get) w.ctx x.idx || (x.fmt.raw && !rawOk) then throw (.prot x.va) else pure ()

def inSurface (d : BitVec 512) (x y : Nat) : Bool := decide (x < descW d ∧ y < descH d)
def pixAt (x y : Nat) : Nat := y % 16 * 16 + x % 16

/-- Pixel words at coordinates of one transform block; those outside read 0 (R373). -/
def readPixelsAt (w : Who) (x : Surf) (ps : List (Nat × Nat)) : Plan (List Nat) :=
  match (ps.find? fun p => inSurface x.desc p.1 p.2).bind fun p => blockAt x.desc p.1 p.2 with
  | none => pure (ps.map fun _ => 0)
  | some b => do
    let k ← accessBlock w x b
    pure (ps.map fun p => if inSurface x.desc p.1 p.2 then k.word (pixAt p.1 p.2) else 0)

/-- R374, R379: the channels a store writes. -/
def storeChans (f : SFmt) (bits mask : Nat) (c : Nat) : Bool :=
  decide (c < f.chans.length) && decide ((f.chans.getD c (0, 0)).1 + f.width c ≤ bits) && mask / 2 ^ c % 2 == 1

/-- One pixel write of R347 over the pixels of one transform block. -/
def writePixelsAt (w : Who) (x : Surf) (bits mask : Nat) (ps : List (Nat × Nat × Nat)) : Plan Unit := do
  writable w x true
  let ins := ps.filter fun p => inSurface x.desc p.1 p.2.1
  let q := storeChans x.fmt bits mask
  match (ins.head?).bind fun p => blockAt x.desc p.1 p.2.1 with
  | none => pure ()
  | some b =>
    if !(List.range 4).any q then pure ()
    else surfApply w x b fun k => pure (ins.foldl (fun k p => writePixel k (pixAt p.1 p.2.1) p.2.2 q) k, false)

/-! The planisher's own steps. -/

/-- R352: an uncached encode that its pool cannot supply waits, and its record is posted once. -/
def noteWait (s : State) (c surf b n pool : Nat) : State :=
  if s.encWait.contains (c, surf, b) then s
  else surfEvent { s with encWait := (c, surf, b) :: s.encWait } c 3 surf b pool n

/-- A held block leaves its way (R345, R348, R233); a pinned one never does (R352). -/
def execPlanisherEvictEncode (ctx surf b : Nat) (s : State) : Out :=
  match heldBlock s ctx surf b with
  | some k =>
    if k.pinned.isSome then idle "PLANISHER_EVICT_ENCODE"
    else
      let s := (evictBlock ⟨k.ctx, k.priv, some k.home⟩ k s).2
      .next { s with fresh := s.fresh + 1 }
  | none => idle "PLANISHER_EVICT_ENCODE"

/-- R401: threads whose SURFPOOL has the default action go on once the pool supplies. -/
def resumePool (s : State) (ctx pool : Nat) : State :=
  if (s.ctx ctx).handler ≠ 0 ∨ poolTimedOut s ctx pool then s
  else (s.tids.filter fun t => s.ctxOf (crewOf t) == ctx && (match (s.thr t).status with
    | .trapped i => i.trap == .surfpool && i.addr == pool
    | _ => false)).foldl (fun s t => resumeThread s t false false) s

/-- R352: the encode of a pinned block is tried again; the block leaves its way where it runs. -/
def execPoolWordChangeRetry (ctx surf b : Nat) (s : State) : Out :=
  match heldBlock s ctx surf b with
  | some k =>
    if k.pinned.isNone then idle "POOL_WORD_CHANGE_RETRY"
    else match encodeBlock k s with
      | (.ok .done, s) =>
        let s := resumePool (s.dropBlock k) ctx (descPool k.desc)
        .next { s with fresh := s.fresh + 1 }
      | (_, s) => .next { s with fresh := s.fresh + 1 }
  | none => idle "POOL_WORD_CHANGE_RETRY"

/-- R352: a block pinned for 100,000 ticks. -/
def execSurfpoolPinTimeout (ctx surf b : Nat) (s : State) : Out :=
  match heldBlock s ctx surf b with
  | some k =>
    match k.pinned with
    | some t => if t + 100000 ≤ s.time && !k.timedOut then .next (s.putBlock { k with timedOut := true }) else idle "SURFPOOL_PIN_TIMEOUT"
    | none => idle "SURFPOOL_PIN_TIMEOUT"
  | none => idle "SURFPOOL_PIN_TIMEOUT"

end Sys2Proof.Machine
end

