-- ==== Sys2Proof/Machine/Surfaces.lean ====
section
/-!
DEFINITION. The surface words (R373 to R383).
-/
namespace Sys2Proof.Machine

/-- Coordinates of a quad and of a row of four (R378). -/
def quadAt (x y : Nat) : List (Nat × Nat) := (List.range 4).map fun e => (x / 2 * 2 + e % 2, y / 2 * 2 + e / 2)
def rowAt (x y : Nat) : List (Nat × Nat) := (List.range 4).map fun e => (x / 4 * 4 + e, y)

/-! The surface words. -/

def whoOf (s : State) (t : Nat) : Who := ⟨s.ctxOf (crewOf t), (s.crew (crewOf t)).priv, none⟩

/-- R373: the surface index and the coordinate of a lane. -/
def surfIdx (s : State) (t : Nat) (a : Reg) : Nat := (s.r32 t a).toNat % 4096
def coordX (s : State) (t : Nat) (b : Reg) : Nat := (s.r32 t b).toNat % 65536
def coordY (s : State) (t : Nat) (b : Reg) : Nat := (s.r32 t b).toNat / 65536

/-- What one lane does, its operands read before the word: its register writes. -/
abbrev LaneOp := State → Nat → Plan (List RegWrite)

/-- The surface of a lane at its coordinate. -/
def laneSurf (s : State) (t : Nat) (a b : Reg) : Plan Surf :=
  getSurf (whoOf s t) (surfIdx s t a) (some (coordX s t b, coordY s t b))

/-- How the work of a lane ends (R375, R377): PROT, POISON, SURFPOOL, then the page fault; none while it waits. -/
def laneEnd (s0 s : State) (t surf : Nat) (regs : List (Reg × Nat)) (r : Except SErr (List RegWrite)) : Option LaneEnd :=
  match r, consumed s0 t regs with
  | .error (.prot a _), _ => some (.refused { trap := .prot, addr := a, detail := 4 })
  | _, some i => some (.refused i)
  | .ok ws, none => some (.accepted ws)
  | .error (.wait pool _), none =>
    if poolTimedOut s (s.ctxOf (crewOf t)) pool then some (.refused { trap := .surfpool, addr := pool, detail := surf }) else none
  | .error (.fault va home), none => some (.faulted va (home.getD (Config.pick s.fresh t va % 256)))
  | .error .busy, none => none

/-- One lane at its planisher: a lane refused or parked has had no effect, and one that waits on a pool posts its record once. -/
def runLane (s0 : State) (t : Nat) (surf : Nat) (regs : List (Reg × Nat)) (op : LaneOp) (s : State) : State × Option LaneEnd :=
  let x := op s0 t s
  let done (s' : State) : State :=
    match x.1 with
    | .error (.wait pool (some (b, n))) => noteWait s' (s'.ctxOf (crewOf t)) surf b n pool
    | .ok _ => if (consumed s0 t regs).isSome then s else s'
    | _ => s'
  (done x.2, laneEnd s0 x.2 t surf regs x.1)

/-- The lanes that no planisher has accepted or refused yet, in lane order, up to the first that must wait (R377). -/
def runLanes (f : Nat → State → State × Option LaneEnd) (had : List (Nat × LaneEnd)) :
    List Nat → State → State × List (Nat × LaneEnd) × Bool
  | [], s => (s, [], false)
  | t :: ts, s =>
    if had.any fun e => e.1 == t then runLanes f had ts s
    else
      match f t s with
      | (s, none) => (s, [], true)
      | (s, some e) =>
        let r := runLanes f had ts s
        (r.1, (t, e) :: r.2.1, r.2.2)

/-- What the lanes of the word in issue have come to so far. -/
def State.laneEnds (s : State) : List (Nat × LaneEnd) := ((curBundle s).map Bundle.lanes).getD []

def State.setLaneEnds (s : State) (xs : List (Nat × LaneEnd)) : State :=
  match s.cur with
  | none => s
  | some b =>
    match s.bundles.get? b with
    | none => s
    | some x => { s with bundles := s.bundles.set b { x with lanes := xs } }

/-- R338, R393, R394: only the thread whose own access faults parks; its record names the planisher that met the fault. -/
def parkSurface (s : State) (t widx va home : Nat) : State :=
  let c := s.ctxOf (crewOf t)
  let r := s.newTag (c / 16)
  let gs := addSector [] va 1
  let s := (r.1.leave [t]).updThr t fun x =>
    { x with widx := widx, status := .parked { tag := r.2, type := 7, unit := 3, granules := gs, posted := true } }
  postFaults s c 7 3 (home / 64 * 2 ^ 30 + home % 64 * 2 ^ 24) r.2 gs

/-- R435: surface operations issued, one a lane (log 56). -/
def countSurf (s : State) (xs : List (Nat × LaneEnd)) : State :=
  xs.foldl (fun s x =>
    match x.2 with
    | .accepted _ => bumpPerf s (s.ctxOf (crewOf x.1)) (coreOf x.1) 6 1
    | _ => s) s

/-- A surface word (R377): its lanes act, each once; the bundle goes on when every lane has been accepted or refused.  `each` is
what an accepted lane or one that met a page fault does then. -/
def surfWord (ts : List Nat) (f : Nat → State → State × Option LaneEnd) (fin : State → Nat → LaneEnd → WordOut) (s : State) : WordOut :=
  let had := s.laneEnds
  let r := runLanes f had ts (endInterval s ts)
  let ends := had ++ r.2.1
  if r.2.2 then { s := r.1.setLaneEnds ends, stall := true }
  else
    let mine := ends.filter fun x => ts.contains x.1
    mine.foldl (fun (o : WordOut) x =>
      match x.2 with
      | .refused i => { o with traps := o.traps ++ [(x.1, i)] }
      | e => let y := fin o.s x.1 e; { s := y.s, traps := o.traps ++ y.traps }) { s := countSurf (r.1.setLaneEnds []) mine }

/-- The end of a lane of a write-class word, SFLUSH, SREL, or a query of a descriptor: applied, its counter follows; or parked. -/
def endWrite (dc : Nat) (ts : List Nat) (s : State) (t : Nat) : LaneEnd → WordOut
  | .accepted ws => { s := if dc = 0 ∧ ws.isEmpty then s else s.addValue t dc (keepS ts t ws) }
  | .faulted va home => { s := parkSurface s t (curWidx s) va home }
  | .refused i => { s := s, traps := [(t, i)] }

/-- The end of a lane of a surface load: its registers land later; a page fault poisons them, and SLD.D's predicate is 0 (R338);
an s register takes no poison (R392). -/
def endLoad (dc : Nat) (ts : List Nat) (d : Reg) (n : Nat) (pd : Option (Fin 8)) (s : State) (t : Nat) : LaneEnd → WordOut
  | .accepted ws => { s := s.addValue t dc (keepS ts t ws) }
  | .faulted va _ =>
    let s' := s.updThr t fun y => { y with poisonAddr := BitVec.ofNat 64 va }
    if Reg.isS d && supplies ts t then { s := s', traps := [(t, { trap := .poison, addr := va, detail := Reg.dcode d })] }
    else
      let ws := (if Reg.isS d then [] else wrN d (List.replicate n 0) true) ++
        (match pd with | some p => wrP p.val false false | none => [])
      { s := s'.addValue t dc ws }
  | .refused i => { s := s, traps := [(t, i)] }

/-- R379 to R381: a write-class word. -/
def surfWrite (h : Head) (a b : Reg) (data : List (Reg × Nat)) (op : LaneOp) (s : State) : Out :=
  let regs := (a, 1) :: (b, 1) :: data
  issueWord s h { group := 6, regs := regs, var := true, wait := true, cmp := .compare, orders := true } fun s ts =>
    surfWord ts (fun t => runLane s t (surfIdx s t a) regs op) (endWrite h.dc.val ts) s

/-- R378, R382: a surface load; `pd` is the predicate an SLD.D writes, and `poisons` whether a page fault poisons it. -/
def surfLoad (h : Head) (a b : Reg) (data : List (Reg × Nat)) (d : Reg) (n : Nat) (pd : Option (Fin 8)) (op : LaneOp)
    (poisons : Bool) (s : State) : Out :=
  let regs := (a, 1) :: (b, 1) :: data
  issueWord s h { group := 6, regs := regs ++ [(d, n)], dsts := [d], var := true, wait := true, cmp := .load, passes := true,
                  orders := true, pdst := pd } fun s ts =>
    surfWord ts (fun t => runLane s t (surfIdx s t a) regs op)
      (if poisons then endLoad h.dc.val ts d n pd else endWrite h.dc.val ts) s

/-- Low4 of R378. -/
def low4 (n : Nat) : W32 := BitVec.ofNat 32 n

/-- A load of pixels. -/
def pixelLoad (a b : Reg) (ps : Nat → Nat → List (Nat × Nat)) (out : List Nat → List RegWrite) : LaneOp := fun s t => do
  let x ← laneSurf s t a b
  let vs ← readPixelsAt (whoOf s t) x (ps (coordX s t b) (coordY s t b))
  pure (out vs)

/-- SLD.P (R378). -/
def execSldP (h : Head) (w64 : Bool) (d a b : Reg) (s : State) : Out :=
  surfLoad h a b [] d (if w64 then 2 else 1) none
    (pixelLoad a b (fun x y => [(x, y)]) fun ps =>
      if w64 then wr64 d (BitVec.ofNat 64 (ps.headD 0)) false else wr32 d (low4 (ps.headD 0)) false) true s

/-- SLD.Q (R378). -/
def execSldQ (h : Head) (d a b : Reg) (s : State) : Out :=
  surfLoad h a b [] d 4 none (pixelLoad a b quadAt fun ps => wrN d (ps.map low4) false) true s

/-- SLD.B (R378). -/
def execSldB (h : Head) (d a b : Reg) (s : State) : Out :=
  surfLoad h a b [] d 4 none (pixelLoad a b rowAt fun ps => wrN d (ps.map low4) false) true s


/-- SLD.D (R378): D32 and VIS64 only. -/
def execSldD (h : Head) (pd : Fin 8) (d a b c : Reg) (s : State) : Out :=
  surfLoad h a b [(c, 1)] d 1 (some pd) (fun s t => do
    let x ← laneSurf s t a b
    if x.fmt.code ≠ 5 ∧ x.fmt.code ≠ 10 then throw (.prot x.va)
    else do
      let vs ← readPixelsAt (whoOf s t) x [(coordX s t b, coordY s t b)]
      let v := low4 (vs.headD 0)
      pure (wr32 d v false ++ wrP pd.val (decide (s.r32 t c < v)) false)) true s

/-- A store of pixels (R379). -/
def pixelStore (a b : Reg) (bits mask : Nat) (ps : State → Nat → Nat → Nat → List (Nat × Nat × Nat)) : LaneOp := fun s t => do
  let x ← laneSurf s t a b
  writePixelsAt (whoOf s t) x bits mask (ps s t (coordX s t b) (coordY s t b))
  pure []

/-- The data word of a store. -/
def surfData (s : State) (t : Nat) (w64 : Bool) (c : Reg) : Nat := if w64 then (s.r64 t c).toNat else (s.r32 t c).toNat

/-- SST.P (R379). -/
def execSstP (h : Head) (w64 : Bool) (a b c : Reg) (s : State) : Out :=
  surfWrite h a b [(c, if w64 then 2 else 1)]
    (pixelStore a b (if w64 then 64 else 32) 15 fun s t x y => [(x, y, surfData s t w64 c)]) s

/-- The pixels of a quad or row with their words. -/
def zipWords (ps : List (Nat × Nat)) (ws : List W32) : List (Nat × Nat × Nat) :=
  (ps.zip ws).map fun x => (x.1.1, x.1.2, x.2.toNat)

/-- SST.Q (R379). -/
def execSstQ (h : Head) (a b c : Reg) (s : State) : Out :=
  surfWrite h a b [(c, 4)] (pixelStore a b 32 15 fun s t x y => zipWords (quadAt x y) (s.rN t c 4)) s

/-- SST.B (R379). -/
def execSstB (h : Head) (a b c : Reg) (s : State) : Out :=
  surfWrite h a b [(c, 4)] (pixelStore a b 32 15 fun s t x y => zipWords (rowAt x y) (s.rN t c 4)) s

/-- SST.M (R379). -/
def execSstM (h : Head) (w64 : Bool) (mask : Fin 16) (a b c : Reg) (s : State) : Out :=
  surfWrite h a b [(c, if w64 then 2 else 1)]
    (pixelStore a b (if w64 then 64 else 32) mask.val fun s t x y => [(x, y, surfData s t w64 c)]) s

/-- A coefficient write (R380). -/
def levelWrite (a b : Reg) (ch : Nat) (ls : State → Nat → List (Nat × Int)) : LaneOp := fun s t => do
  let x ← laneSurf s t a b
  if x.fmt.chans.length ≤ ch then throw (.prot x.va)
  else do
    writable (whoOf s t) x false
    match blockAt x.desc (coordX s t b) (coordY s t b) with
    | none => pure []
    | some n => do
      surfApply (whoOf s t) x n fun k => pure (writeLevels k (tOf (pixAt (coordX s t b) (coordY s t b))) ch (ls s t), false)
      pure []

/-- SCOEF (R380). -/
def execScoef (h : Head) (k : Fin 16) (ch : Fin 4) (a b c : Reg) (s : State) : Out :=
  surfWrite h a b [(c, 1)] (levelWrite a b ch.val fun s t => [(k.val, (s.r32 t c).toInt)]) s

/-- SCOEF.B (R380). -/
def execScoefB (h : Head) (i ch : Fin 4) (a b c : Reg) (s : State) : Out :=
  surfWrite h a b [(c, 4)]
    (levelWrite a b ch.val fun s t => (List.range 4).map fun j => (4 * i.val + j, (s.r32 t (c.plus j)).toInt)) s

/-- A change of a block's fields (R381); `again` recomputes the prediction. -/
def blockChange (a b : Reg) (rawOk again : Bool) (f : State → Nat → SurfBlock → SurfBlock) : LaneOp := fun s t => do
  let x ← laneSurf s t a b
  writable (whoOf s t) x rawOk
  match blockAt x.desc (coordX s t b) (coordY s t b) with
  | none => pure []
  | some n => do
    surfApply (whoOf s t) x n fun k => if again then repredict (whoOf s t) (f s t k) else pure (f s t k, false)
    pure []

/-- SMV (R381). -/
def execSmv (h : Head) (a b c : Reg) (s : State) : Out :=
  surfWrite h a b [(c, 1)] (blockChange a b false true fun s t k =>
    let v (n : Nat) : Int := clampI (signedOf n 16) (-8192) 8191
    { k with mode := 1, mvx := v ((s.r32 t c).toNat % 65536), mvy := v ((s.r32 t c).toNat / 65536) }) s

/-- SREF (R381). -/
def execSref (h : Head) (r : Fin 4) (a b : Reg) (s : State) : Out :=
  surfWrite h a b [] (blockChange a b false true fun _ _ k => { k with mode := 1, ref := r.val }) s

/-- SRATE (R381). -/
def execSrate (h : Head) (a b c : Reg) (s : State) : Out :=
  surfWrite h a b [(c, 1)] (blockChange a b true false fun s t k => { k with step := (s.r32 t c).toNat % 65536 }) s

/-- SANCHOR (R381). -/
def execSanchor (h : Head) (w64 : Bool) (a b c : Reg) (s : State) : Out :=
  surfWrite h a b [(c, if w64 then 2 else 1)] (blockChange a b false true fun s t k =>
    { k with mode := 3, base := surfData s t w64 c % 2 ^ (8 * k.fmt.bpp) }) s

/-- R382: what a query of a block shows. -/
def queryBlock (k : SurfBlock) (sel : Nat) : W32 :=
  match sel with
  | 0 => BitVec.ofNat 32 (k.mode + k.ref * 4 + k.depth * 16 + k.dirty.toNat * 128 +
      (k.tbs.zipIdx.map fun x => match x.1 with | .bypass _ => 2 ^ (16 + x.2) | .coef _ => 0).foldl (· + ·) 0)
  | 1 => BitVec.ofInt 16 k.mvy ++ BitVec.ofInt 16 k.mvx
  | 2 => BitVec.ofNat 32 k.version
  | _ => BitVec.ofNat 32 (k.step % 65536)

/-- SQRY (R382): its forms that read a descriptor alone wait for a page as a store does (R338). -/
def execSqry (h : Head) (sel : Fin 6) (d a b : Reg) (s : State) : Out :=
  surfLoad h a b [] d 1 none (fun s t => do
    let x ← if sel.val < 4 then laneSurf s t a b else getSurf (whoOf s t) (surfIdx s t a) none
    if sel.val = 4 then pure (wr32 d (BitVec.ofNat 32 (descW x.desc - 1 + (descH x.desc - 1) * 65536)) false)
    else if sel.val = 5 then
      pure (wr32 d (BitVec.ofNat 32 (dfld x.desc 164 4 + dfld x.desc 162 2 * 16 + dfld x.desc 161 1 * 64 + dfld x.desc 160 1 * 128 +
        dfld x.desc 205 3 * 256)) false)
    else match blockAt x.desc (coordX s t b) (coordY s t b) with
      | none => pure (wr32 d 0 false)
      | some n => do pure (wr32 d (queryBlock (← accessBlock (whoOf s t) x n) sel.val) false)) (sel.val < 4) s

/-! Flush and release (R383). -/

/-- Encodes and discards the blocks of a surface. -/
def flushBlocks (w : Who) : List SurfBlock → Plan Unit
  | [] => pure ()
  | k :: rest => do
    if !k.dirty then modify fun s => s.dropBlock k
    else match ← encodeBlock { k with priv := w.priv } with
      | .done => modify fun s => s.dropBlock k
      | .short n => do
        modify fun s => pinBlock s k n
        throw (.wait (descPool k.desc) none)
    flushBlocks w rest

/-- SREL's mark of a surface, by thread. -/
def State.mark (s : State) (key t : Nat) : State := { s with frozen := (key, t) :: s.frozen.filter fun f => f != (key, t) }
def State.unmark (s : State) (key t : Nat) : State := { s with frozen := s.frozen.filter fun f => f != (key, t) }

/-- What SFLUSH and SREL do for a lane: the checks, SREL's mark, every block, the descriptors, and SREL's write of FROZEN. -/
def flushSurf (w : Who) (surf t : Nat) (rel bad : Bool) : Plan Unit := do
  let va := descVa (← get) w.ctx surf
  let _ ← getSurf w surf none
  if rel then do let _ ← planSpan w .rmw false va 64
  if bad then pure ()
  else do
    if rel then modify fun s => s.mark (descKey w.ctx surf) t
    flushBlocks w ((← get).surfs.filter fun k => k.ctx == w.ctx && k.surf == surf)
    if rel then planTake w false ((va + 20) % 2 ^ 64) 1
    modify fun s => { s with descs := s.descs.filter fun e => e.1 % 2 ^ 40 != descKey w.ctx surf }
    if rel then do
      let b ← planRead w false ((va + 20) % 2 ^ 64) 1
      planWrite w false ((va + 20) % 2 ^ 64) (b.map fun x => x ||| 1)

/-- One lane of SFLUSH or SREL: its mark goes unless it waits with it. -/
def flushLane (a : Reg) (rel : Bool) (s0 : State) (t : Nat) (s : State) : State × Option LaneEnd :=
  let w := whoOf s0 t
  let surf := surfIdx s0 t a
  let x := flushSurf w surf t rel (consumed s0 t [(a, 1)]).isSome s
  let e := laneEnd s0 x.2 t surf [(a, 1)] (x.1.map fun _ => [])
  (if e.isNone then x.2 else x.2.unmark (descKey w.ctx surf) t, e)

/-- SFLUSH and SREL (R383): accepted when complete (R377). -/
def flushWord (h : Head) (a : Reg) (rel : Bool) (s : State) : Out :=
  issueWord s h { group := 6, regs := [(a, 1)], var := true, wait := true, cmp := .compare, orders := true } fun s ts =>
    surfWord ts (fun t => flushLane a rel s t) (endWrite h.dc.val ts) s

/-- SFLUSH (R383). -/
def execSflush (h : Head) (a : Reg) (s : State) : Out := flushWord h a false s

/-- SREL (R383). -/
def execSrel (h : Head) (a : Reg) (s : State) : Out := flushWord h a true s

end Sys2Proof.Machine
end

