-- ==== Sys2Proof/Machine/Traversal.lean ====
section
/-!
DEFINITION. The traversal unit (R355 to R372): BEAM and RAY commands, their checks, the walk of a structure, and the steps
that start a command and complete an item.
-/
namespace Sys2Proof.Machine

/-! The command (R356). -/

def Command.count (c : Command) : Nat := c.fld 480 32
def Command.first (c : Command) : Nat := c.fld 448 32
def Command.travStage (c : Command) : Nat := c.fld 416 32
def Command.out (c : Command) : Nat := c.fld 352 64
def Command.param (c : Command) : Nat := c.fld 288 64
def Command.nleaves (c : Command) : Nat := c.fld 256 32
def Command.nnodes (c : Command) : Nat := c.fld 224 32
def Command.leafBase (c : Command) : Nat := c.fld 160 64
def Command.nodeBase (c : Command) : Nat := c.fld 96 64
def Command.visits (c : Command) : Nat := if c.fld 64 32 = 0 then 4096 else c.fld 64 32
def Command.surface (c : Command) : Nat := c.fld 16 12
def Command.dtest (c : Command) : Bool := c.fld 9 1 == 1
def Command.anyHit (c : Command) : Bool := c.fld 8 1 == 1
def Command.beam (c : Command) : Bool := c.kind == 1

/-! Reads (R263), and what stops one. -/

inductive TErr where
  | prot
  | fault (va : Nat) (type : Nat)
  | wait (pool : Nat) (blk : Option (Nat × Nat))
  | busy
  deriving DecidableEq, Repr

/-- n bytes at a virtual address, read weakly; a page fault names the byte that met it. -/
def travRead (s : State) (c : Command) (va n : Nat) : Except TErr Nat :=
  let bad := (List.range n).find? fun k =>
    (k == 0 || (va + k) % 4096 == 0) && (match cmdTr s c ((va + k) % 2 ^ 64) false with | .ok _ _ _ => false | _ => true)
  match bad with
  | none => .ok (cmdNat s c va n)
  | some k =>
    match cmdTr s c ((va + k) % 2 ^ 64) false with
    | .fault => .error (.fault ((va + k) % 2 ^ 64) 4)
    | _ => .error .prot

def word32s (n lo k : Nat) : List Nat := (List.range k).map fun i => n / 2 ^ (lo + 32 * i) % 2 ^ 32

/-- R360: a node and the box and reference of a child. -/
def nodeOrg (n : Nat) : List Nat := word32s n 0 3
def nodeExp (n : Nat) : List Nat := (List.range 3).map fun a => n / 2 ^ (96 + 8 * a) % 256
def nodeBox (n k : Nat) : Option Box := childBox (nodeOrg n) (nodeExp n) (n / 2 ^ (256 + 72 * k) % 2 ^ 72)
def nodeHas (n k : Nat) : Bool := n / 2 ^ (120 + k) % 2 == 1
def nodeRef (n k : Nat) : Nat := n / 2 ^ (192 + 8 * k) % 256
def nodeFirst (n : Nat) : Nat := n / 2 ^ 128 % 2 ^ 32
def leafFirst (n : Nat) : Nat := n / 2 ^ 160 % 2 ^ 32

def nodeTouch (c : Command) (i : Nat) : Touch := { va := (c.nodeBase + 128 * i) % 2 ^ 64, n := 128, w := false }
def leafTouch (c : Command) (j : Nat) : Touch := { va := (c.leafBase + 96 * j) % 2 ^ 64, n := 96, w := false }
def readNode (s : State) (c : Command) (i : Nat) : Except TErr Nat := travRead s c (nodeTouch c i).va 128
def readLeaf (s : State) (c : Command) (j : Nat) : Except TErr LeafRec := (travRead s c (leafTouch c j).va 96).map LeafRec.ofNat

/-! The walk (R363, R364). -/

/-- The nearest hit so far: t, ID, leaf index, u, v. -/
structure Best where
  t : Nat
  ident : Nat
  index : Nat
  u : Nat
  v : Nat
  deriving DecidableEq, Repr

/-- A walk: the nodes to visit, nearest first, the best hit, the visits, the STATUS, whether it stopped, and what it read. -/
structure Walk where
  stack : List Nat := [0]
  best : Option Best := none
  visits : Nat := 0
  status : Nat := 0
  stop : Bool := false
  read : List Touch := []
  deriving DecidableEq, Repr

/-- Which of two hits is nearer (R364). -/
def nearer (a b : Best) : Bool :=
  FVal.lt (f32v a.t) (f32v b.t) || (!FVal.lt (f32v b.t) (f32v a.t) &&
    (decide (a.ident < b.ident) || (a.ident == b.ident && decide (a.index < b.index))))

/-- What a walk asks of a leaf: the hit it gives, if any; and of a child box: whether to go in, and its order. -/
structure Walker where
  leaf : LeafRec → Nat → Option Best
  enter : Nat → Nat → Box → Option Best → Bool
  near : Box → Nat
  anyHit : Bool
  less : Best → Best → Bool := nearer

/-- A run of leaves, in ascending index; one past NLEAVES stops the ray (R363). -/
def walkLeaves (s : State) (c : Command) (k : Walker) (w : Walk) : Nat → Nat → Except TErr Walk
  | 0, _ => .ok w
  | n + 1, j =>
    if w.stop then .ok w
    else if c.nleaves ≤ j then .ok { w with status := 2, stop := true }
    else do
      let l ← readLeaf s c j
      let w : Walk := { w with read := leafTouch c j :: w.read }
      let w' : Walk := match k.leaf l j with
        | none => w
        | some h =>
          { w with best := (match w.best with | none => some h | some b => some (if k.less h b then h else b)), stop := k.anyHit }
      walkLeaves s c k w' n (j + 1)

/-- The children of a node that exist and are not empty, in the order of R364. -/
def childOrder (k : Walker) (n : Nat) : List (Nat × Box) :=
  let cs := (List.range 8).filterMap fun i => if nodeHas n i then (nodeBox n i).map fun b => (i, b) else none
  sortBy (fun a b => !FVal.lt (f32v (k.near b.2)) (f32v (k.near a.2))) cs

/-- The children of one node: leaves are tested, inner nodes are returned to push. -/
def walkChildren (s : State) (c : Command) (k : Walker) (i n : Nat) (w : Walk) : List (Nat × Box) → Except TErr (Walk × List Nat)
  | [] => .ok (w, [])
  | (j, b) :: rest =>
    if w.stop then .ok (w, [])
    else if !k.enter i j b w.best then walkChildren s c k i n w rest
    else
      let r := nodeRef n j
      if 128 ≤ r then do
        let w' ← walkLeaves s c k w (r % 8 + 1) (leafFirst n + r / 8 % 16)
        walkChildren s c k i n w' rest
      else do
        let x ← walkChildren s c k i n w rest
        .ok (x.1, (nodeFirst n + r) :: x.2)

/-- R364, with as many visits as the first argument allows. -/
def rayWalk (s : State) (c : Command) (k : Walker) : Nat → Walk → Except TErr Walk
  | fuel, w =>
    match w.stack with
    | [] => .ok w
    | i :: rest =>
      if w.stop then .ok w
      else if c.nnodes ≤ i then .ok { w with status := 2, stop := true }
      else match fuel with
        | 0 => .ok { w with visits := w.visits + 1, status := 1, stop := true }
        | fuel + 1 => do
          let n ← readNode s c i
          let x ← walkChildren s c k i n { w with stack := rest, visits := w.visits + 1, read := nodeTouch c i :: w.read }
            (childOrder k n)
          rayWalk s c k fuel { x.1 with stack := x.2 ++ x.1.stack }

/-- tnear of a box, before any limit (R367). -/
def boxNear (r : Ray) (b : Box) : Nat :=
  let ps := (List.range 3).filterMap fun a =>
    (slabAxis (b.lo.getD a 0) (b.hi.getD a 0) (r.o.getD a 0) (r.d.getD a 0)).bind id
  ps.foldl (fun m p => if FVal.lt (f32v m) (f32v p.1) then p.1 else m) (FFmt.f32.infBits true)

/-- The walker of a RAY (R364). -/
def rayWalker (c : Command) (r : Ray) : Walker :=
  { leaf := fun l j =>
      let h := l.test r
      if h.hit && inInterval r r.tmax h.t && l.ident != 0xFFFFFFFF then
        some { t := h.t, ident := l.ident, index := j, u := h.u, v := h.v }
      else none,
    enter := fun _ _ b best => (slabHit b r ((best.map Best.t).getD r.tmax)).isSome,
    near := boxNear r, anyHit := c.anyHit }

/-- R357: the 32 bytes of a result. -/
def rayResult (w : Walk) : List Byte :=
  (match w.best with
   | none => toBytes 0xFFFFFFFF 4 ++ toBytes 0 12
   | some b => toBytes b.ident 4 ++ toBytes b.t 4 ++ toBytes b.u 4 ++ toBytes b.v 4) ++
  toBytes w.status 1 ++ toBytes 0 3 ++ toBytes (min w.visits (2 ^ 32 - 1)) 4 ++ toBytes 0 8

/-- A RAY's ray j. -/
def runRay (s : State) (c : Command) (j : Nat) : Except TErr (List Byte × List Touch) := do
  let n ← travRead s c ((c.param + 32 * j) % 2 ^ 64) 32
  let r : Ray := { o := word32s n 0 3, tmin := n / 2 ^ 96 % 2 ^ 32, d := word32s n 128 3, tmax := n / 2 ^ 224 % 2 ^ 32 }
  let w ← rayWalk s c (rayWalker c r) c.visits {}
  .ok (rayResult { w with visits := if w.status = 1 then c.visits else w.visits }, w.read)

/-! Beams (R368 to R370). -/

/-- R357: the camera block. -/
def readCamera (s : State) (c : Command) : Except TErr Camera := do
  let n ← travRead s c c.param 64
  .ok { e := word32s n 0 3, d0 := word32s n 96 3, dx := word32s n 192 3, dy := word32s n 288 3,
        tmin := n / 2 ^ 384 % 2 ^ 32, tmax := n / 2 ^ 416 % 2 ^ 32 }

/-- R368: the tile of a Morton index: even bits give x, odd bits y. -/
def evenBits : Nat → Nat → Nat
  | 0, _ => 0
  | n + 1, m => m % 2 + 2 * evenBits n (m / 4)

/-- A pixel ray of a beam: the ray, where it is, and its walk (R370). -/
structure PixelWalk where
  px : Nat
  py : Nat
  ray : Ray
  walk : Walk
  deriving DecidableEq, Repr

def PixelWalk.live (p : PixelWalk) : Bool := !p.walk.stop

/-- The nearest depth a pixel ray has (R370). -/
def PixelWalk.depth (p : PixelWalk) : Nat := ((p.walk.best.map Best.t).getD p.ray.tmax)

/-- Whether a box is no farther along a pixel ray than its depth. -/
def PixelWalk.within (p : PixelWalk) (b : Box) : Bool :=
  !((p.ray.o ++ p.ray.d).any fun n => (f32v n).isNan) && !FVal.lt (f32v p.depth) (f32v (boxNear p.ray b))

/-- What R369 assigns to a pixel of a leaf. -/
def leafPixel (cam : Camera) (px py : Nat) (l : LeafRec) (j : Nat) : Option Best :=
  (assigned cam l px py).map fun p => { t := p.1, ident := p.2, index := j, u := 0, v := 0 }

/-- The walker of one pixel ray on its own (R364), in the order of R368. -/
def pixelWalker (cam : Camera) (px py : Nat) : Walker :=
  let r := cam.ray px py
  { leaf := leafPixel cam px py, enter := fun _ _ b best => (slabHit b r ((best.map Best.t).getD r.tmax)).isSome,
    near := boxNear r, anyHit := false, less := fun a b => pairLt (a.t, a.ident) (b.t, b.ident) }

/-- The live pixel rays of a beam each take a step. -/
def eachLive (ps : List PixelWalk) (f : PixelWalk → Except TErr Walk) : Except TErr (List PixelWalk) :=
  ps.mapM fun p => if p.live then (f p).map fun w => { p with walk := w } else .ok p

/-- A run of leaves that the live pixel rays test. -/
def beamLeaves (s : State) (c : Command) (cam : Camera) (only : PixelWalk → Bool) (n j : Nat) (ps : List PixelWalk) :
    Except TErr (List PixelWalk) :=
  eachLive ps fun p => if only p then walkLeaves s c (pixelWalker cam p.px p.py) p.walk n j else .ok p.walk

/-- The children of a node that the beam visited: skipped, tested or pushed by it, or, where a child is near for some pixels and not
for all, walked by each pixel ray on its own (R370). -/
def beamChildren (s : State) (c : Command) (cam : Camera) (meets : Box → Bool) (n : Nat) (ps : List PixelWalk) :
    List (Nat × Box) → Except TErr (List PixelWalk × List Nat)
  | [] => .ok (ps, [])
  | (j, b) :: rest =>
    let live := ps.filter PixelWalk.live
    if !meets b || !(live.any fun p => p.within b) then beamChildren s c cam meets n ps rest
    else
      let r := nodeRef n j
      let all := live.all fun p => p.within b
      let own (p : PixelWalk) : Bool := all || (slabHit b p.ray p.depth).isSome
      if 128 ≤ r then do
        let ps ← beamLeaves s c cam own (r % 8 + 1) (leafFirst n + r / 8 % 16) ps
        beamChildren s c cam meets n ps rest
      else if all then do
        let x ← beamChildren s c cam meets n ps rest
        .ok (x.1, (nodeFirst n + r) :: x.2)
      else do
        let ps ← eachLive ps fun p =>
          if own p then
            (rayWalk s c (pixelWalker cam p.px p.py) (c.visits - p.walk.visits) { p.walk with stack := [nodeFirst n + r] })
          else .ok p.walk
        beamChildren s c cam meets n ps rest

/-- The order of a beam's children: the least tnear along its pixel rays, then the number (log 92). -/
def beamOrder (ps : List PixelWalk) (n : Nat) : List (Nat × Box) :=
  let least (b : Box) : Nat := (ps.map fun p => boxNear p.ray b).foldl
    (fun m x => if FVal.lt (f32v x) (f32v m) then x else m) (FFmt.f32.infBits false)
  childOrder { leaf := fun _ _ => none, enter := fun _ _ _ _ => true, near := least, anyHit := false } n

/-- R370: the descent of a tile. A visit of the beam is one of each live pixel ray. -/
def beamWalk (s : State) (c : Command) (cam : Camera) (meets : Box → Bool) : Nat → List Nat → List PixelWalk →
    Except TErr (List PixelWalk)
  | 0, _, ps => .ok ps
  | _, [], ps => .ok ps
  | fuel + 1, i :: rest, ps =>
    let each (f : Walk → Walk) : List PixelWalk := ps.map fun p => if p.live then { p with walk := f p.walk } else p
    if c.nnodes ≤ i then .ok (each fun w => { w with status := 2, stop := true })
    else do
      let ps := each fun w =>
        if c.visits ≤ w.visits then { w with visits := w.visits + 1, status := 1, stop := true } else { w with visits := w.visits + 1 }
      if ps.any PixelWalk.live then do
        let n ← readNode s c i
        let ps := ps.map fun p => if p.live then { p with walk := { p.walk with read := nodeTouch c i :: p.walk.read } } else p
        let x ← beamChildren s c cam meets n ps (beamOrder (ps.filter PixelWalk.live) n)
        beamWalk s c cam meets fuel (x.2 ++ rest) x.1
      else .ok ps

/-- The leaves of a structure that the frustum of a tile reaches, as far as they can be read: what R369 assigns comes from
these, whatever a beam skips. -/
def beamReach (s : State) (c : Command) (meets : Box → Bool) : Nat → List Nat → List (Nat × LeafRec)
  | 0, _ => []
  | _, [] => []
  | fuel + 1, i :: rest =>
    if c.nnodes ≤ i then beamReach s c meets fuel rest
    else match readNode s c i with
      | .error _ => beamReach s c meets fuel rest
      | .ok n =>
        let cs := ((List.range 8).filter fun k => nodeHas n k && (nodeBox n k).any meets).map (nodeRef n)
        let leaves := (cs.filter fun r => decide (128 ≤ r)).flatMap fun r =>
          (List.range (r % 8 + 1)).filterMap fun k =>
            let j := leafFirst n + r / 8 % 16 + k
            if c.nleaves ≤ j then none else match readLeaf s c j with | .ok l => some (j, l) | .error _ => none
        leaves ++ beamReach s c meets fuel (((cs.filter fun r => decide (r < 128)).map (nodeFirst n + ·)) ++ rest)

/-- The value of a pixel: the least (depth, ID), or all ones. -/
def pixelBest (best : Option Best) : Nat × Nat := (best.map fun b => (b.t, b.ident)).getD (0xFFFFFFFF, 0xFFFFFFFF)

/-- R368: what R369 gives a pixel over some leaves. -/
def pixelValue (cam : Camera) (px py : Nat) (ls : List (Nat × LeafRec)) : Nat × Nat :=
  pixelBest (ls.foldl (fun best l =>
    match leafPixel cam px py l.2 l.1 with
    | none => best
    | some h => match best with
      | some b => if pairLt (h.t, h.ident) (b.t, b.ident) then some h else some b
      | none => some h) none)

/-- R368, R370, R363: the values and STATUS of the pixels of a tile that lie in the surface. A ray that stops has the nearest of
the leaves it tested. -/
def tilePixels (s : State) (c : Command) (cam : Camera) (tx ty : Nat) (inside : Nat → Nat → Bool) :
    Except TErr (List (Nat × Nat × (Nat × Nat) × Nat) × List Touch) := do
  let meets := cam.meets tx ty
  let at_ := ((List.range 64).map fun i => (8 * tx + i % 8, 8 * ty + i / 8)).filter fun p => inside p.1 p.2
  let ps ← beamWalk s c cam meets (c.visits + 1) [0] (at_.map fun p => { px := p.1, py := p.2, ray := cam.ray p.1 p.2, walk := {} })
  let ls := if ps.any fun p => p.walk.status == 0 then beamReach s c meets (64 * c.visits) [0] else []
  .ok (ps.map fun p =>
    (p.px, p.py, if p.walk.status = 0 then pixelValue cam p.px p.py ls else pixelBest p.walk.best, p.walk.status),
    (ps.flatMap fun p => p.walk.read).dedup)

def TErr.ofSurf : SErr → TErr
  | .prot .. => .prot
  | .fault va _ => .fault va 7
  | .wait p b => .wait p b
  | .busy => .busy

def Command.who (c : Command) : Who := ⟨c.ctx, c.priv, none⟩

/-- One pixel write of a BEAM: a planisher operation (R368). -/
def beamPixel (c : Command) (x : Surf) (px py : Nat) (v : Nat × Nat) : Plan Unit :=
  match blockAt x.desc px py with
  | none => pure ()
  | some b => do
    writable c.who x true
    surfApply c.who x b fun k =>
      let old := k.chans (pixAt px py)
      let keep := c.dtest && pairLt (old.getD 0 0, old.getD 1 0) v
      pure (if keep then k else writePixel k (pixAt px py) (v.1 + v.2 * 2 ^ 32) fun ch => decide (ch < 2), false)

/-- What a tile that could not be done leaves: the blocks its evictions pinned are pinned, and nothing is written (R352). -/
def keepPins (s tried : State) : State :=
  (s.surfs.filter fun k => k.pinned.isNone && (heldBlock tried k.ctx k.surf k.b).any fun x => x.pinned.isSome).foldl (fun s k =>
    (evictBlock ⟨k.ctx, k.priv, some k.home⟩ k s).2) s

/-- A BEAM's tile m: its pixel writes, the largest STATUS (R357), and what it read; and the state after it. -/
def runTile (s : State) (c : Command) (m : Nat) : Except TErr (Nat × List Touch) × State :=
  let tx := evenBits 17 m
  let ty := evenBits 17 (m / 2)
  match readCamera s c, getSurf c.who c.surface (some (8 * tx, 8 * ty)) s with
  | .error e, _ => (.error e, s)
  | _, (.error e, s) => (.error (TErr.ofSurf e), s)
  | .ok cam, (.ok x, s) =>
    match tilePixels s c cam tx ty (inSurface x.desc) with
    | .error e => (.error e, s)
    | .ok rs =>
      match (rs.1.forM fun r => beamPixel c x r.1 r.2.1 r.2.2.1 : Plan Unit) s with
      | (.error e, tried) => (.error (TErr.ofSurf e), keepPins s tried)
      | (.ok _, s) => (.ok ((rs.1.map fun r => r.2.2.2).foldl max 0, rs.2), s)

/-! Checks and failure (R359). -/

/-- R359, R401: the command fails, and TRAVFAULT is raised for its context. -/
def failTrav (s : State) (c : Command) (code : Nat) : State :=
  let s := failCommand s c 2 code c.nodeBase c.travStage
  asyncTrap s c.ctx { trap := .travfault, addr := c.nodeBase, detail := code } c.core

/-- The addresses of R359, code 0x02. -/
def travMisaligned (c : Command) : Bool :=
  c.nodeBase % 128 != 0 || c.leafBase % 32 != 0 || c.param % (if c.beam then 16 else 32) != 0 ||
    c.out % (if c.beam then 4 else 32) != 0 ||
    [c.nodeBase, c.leafBase, c.param, c.out].any fun a => !canonical a

/-- The places a command writes in memory, item by item. -/
def itemOut (c : Command) (j : Nat) : List Touch :=
  if c.beam then (if c.out = 0 then [] else [{ va := (c.out + 4 * j) % 2 ^ 64, n := 4, w := true }])
  else [{ va := (c.out + 32 * j) % 2 ^ 64, n := 32, w := true }]

def travItems (c : Command) : List Nat := (List.range c.count).map (c.first + ·)
def openItems (c : Command) : List Nat := (travItems c).filter fun j => !c.done.contains j

def itemPages (s : State) (c : Command) (j : Nat) : List (Nat × Nat) := touchPages s c true (itemOut c j)

/-- The bytes a command reads whatever its structure: the camera, or its rays. -/
def paramTouches (c : Command) : List Touch :=
  if c.beam then [{ va := c.param, n := 64, w := false }]
  else (openItems c).map fun j => { va := (c.param + 32 * j) % 2 ^ 64, n := 32, w := false }

def travStageBad (s : State) (c : Command) : Bool :=
  c.travStage != noStage && !(c.targets.any fun t => stageOk s t c.travStage)

/-- The end of a command whose items are all accounted. -/
def endTrav (s : State) (id : Nat) : State :=
  match s.trav.find? fun c => c.id == id with
  | none => s
  | some c => if c.total ≤ c.done.length then completeAll (s.dropEngine id) else s

/-- A surface page fault of a command: a record of TYPE 0x07 (R393, R394). -/
def parkTrav (s : State) (c : Command) (va type : Nat) (item : Option Nat) : State :=
  if type = 4 then passCommand s 2 c [{ va := va, n := 1, w := false }]
  else if c.parks.any fun p => p.granules.any fun g => g.1 == va / 1024 then s
  else
    let r := s.newTag (c.ctx / 16)
    let gs := addSector [] va 1
    let s := r.1.updEngine c.id fun x =>
      { x with parks := x.parks ++ [{ tag := r.2, type := type, unit := 2, granules := gs, posted := true, item := item }] }
    postFaults s c.ctx type 2 (whoEngine 2 c.core) r.2 gs

/-- The surface a BEAM names, if it can be had (R337). -/
def travSurf (s : State) (c : Command) : Except SErr (Option Surf) :=
  if c.beam then (getSurf c.who c.surface none s).1.map some else .ok none

/-- R359, code 0x04: the surface is no VIS64 surface that may be written. -/
def travSurfBad (s : State) (c : Command) : Except SErr (Option Surf) → Bool
  | .ok x => x.any fun x => x.fmt.code != 10 || descFrozen x.desc || marked s c.ctx c.surface
  | .error (.prot _ page) => !page
  | _ => false

/-- The codes of R359. -/
def travCodes (s : State) (c : Command) (surf : Except SErr (Option Surf)) : List (Bool × Nat) :=
  let pages := { va := c.nodeBase, n := 128, w := false } :: paramTouches c ++ (travItems c).flatMap (itemOut c)
  let denied := match surf with | .error (.prot _ page) => page | _ => false
  [(c.kind != 1 && c.kind != 2, 1), (travMisaligned c, 2), (travStageBad s c, 3), (travSurfBad s c surf, 4), (c.nnodes == 0, 5),
   (denied || touchProt s c pages, 8)]

/-- A command of the queue starts (R355): in order, at most four at once, after its checks and with its OUT lines. -/
def startTrav (beam : Bool) (ev : String) (id : Nat) (s : State) : Out :=
  match s.trav.find? fun c => c.id == id with
  | none => idle ev
  | some c =>
    let run := s.trav.filter fun x => x.core / 4 == c.core / 4 && x.running
    if c.running || !c.parks.isEmpty || !cmdReady s c || decide (4 ≤ run.length) || (c.kind == 2) == beam ||
        ((travQueue s (c.core / 4)).head?.map Command.id) != some id then idle ev
    else
      let base := ((s.billets.get? c.billet).map fun b => scratchAddr c.core b.scratchBase).getD 0
      let c := { c with targets := [(c.billet, base)], base := base, total := c.count }
      let surf := travSurf s c
      match lowestCode (travCodes s c surf) with
      | some code => .next (failTrav s c code)
      | none =>
        match surf with
        | .error .busy => idle ev
        | .error (.fault va _) => .next { (parkTrav s c va 7 none) with fresh := s.fresh + 1 }
        | _ =>
          (takeLines (s.updEngine c.id fun _ => c) c ((openItems c).flatMap (itemPages s c)).dedup []).out ev fun s =>
            .next (endTrav (passCommand (s.updEngine id fun x => { x with running := true }) 2 c
              (paramTouches c ++ (travItems c).flatMap (itemOut c))) id)

/-- BEAM (R368); a command of no known kind fails here too. -/
def execBeam (id : Nat) (s : State) : Out := startTrav true "BEAM" id s

/-- RAY (R364). -/
def execRay (id : Nat) (s : State) : Out := startTrav false "RAY" id s

/-- The writes of item j, the result of a ray, or the pixels and status word of a tile; and what it read. -/
def runItem (s : State) (c : Command) (j : Nat) : Except TErr (List Touch) × State :=
  if c.beam then
    match runTile s c j with
    | (.error e, s) => (.error e, s)
    | (.ok r, s) =>
      (.ok r.2, (itemOut c j).foldl (fun s x => (toBytes r.1 4).zipIdx.foldl (fun s b => cmdStore s c (x.va + b.2) 0xFF b.1) s) s)
  else
    match runRay s c j with
    | .error e => (.error e, s)
    | .ok r => (.ok r.2, r.1.zipIdx.foldl (fun s b => cmdStore s c (c.out + 32 * j + b.2) 0xFF b.1) s)

/-- A tile waits on a pool: the lowest that does holds those behind it, and the time runs from the first (R371). -/
def stickItem (s : State) (id j : Nat) : State :=
  s.updEngine id fun x => { x with stuck := some ((x.stuck.map fun y => (min j y.1, y.2)).getD (j, s.time)) }

/-- An item is done: accounted, its lines released where nothing is left to write. -/
def completeItem (c : Command) (j : Nat) (s : State) : State :=
  let c' := { c with done := c.done ++ [j] }
  let left := (openItems c').flatMap (itemPages s c')
  let ended := (itemPages s c j).filter fun l => !left.contains l
  let s := s.updEngine c.id fun x =>
    { x with done := c'.done, owned := x.owned.filter fun l => !(ended.any fun g => (Space.global, g.1) == l),
             stuck := x.stuck.filter fun y => y.1 != j }
  let s := endTrav (accountStage s c c.travStage (if c.beam then 512 else 32)) c.id
  { s with fresh := s.fresh + 1 }

/-- TRAV_ITEM_COMPLETE (R358): item j of a command is done and accounted; a page parks it, a denied one fails the command,
and a tile that waits on a pool holds those behind it (R371). -/
def execTravItemComplete (id j : Nat) (s : State) : Out :=
  let ev := "TRAV_ITEM_COMPLETE"
  match s.trav.find? fun c => c.id == id with
  | none => idle ev
  | some c =>
    let behind := c.stuck.any fun x => decide (x.1 < j)
    let outs := itemOut c j
    let params := if c.beam then paramTouches c else [{ va := (c.param + 32 * j) % 2 ^ 64, n := 32, w := false }]
    if !c.running || !(openItems c).contains j || behind || (c.parks.any fun p => p.item == some j) then idle ev
    else if touchProt s c outs then .next (failTrav s c 8)
    else if !(touchFaults s c outs).isEmpty then
      if (touchFaults s c outs).all fun f => parkedAt c f.1 then idle ev else .next (passCommand s 2 c outs)
    else (takeLines s c (itemPages s c j) []).out ev fun s =>
      match runItem s c j with
      | (.error .prot, _) => .next (failTrav s c 8)
      | (.error .busy, s) => .next { s with fresh := s.fresh + 1 }
      | (.error (.fault va ty), s) =>
        if parkedAt c va then idle ev else .next { (parkTrav s c va ty (some j)) with fresh := s.fresh + 1 }
      | (.error (.wait pool blk), s) =>
        if c.stuck.any fun x => x.1 == j then idle ev
        else
          let s := match blk with
            | some (b, n) => noteWait s c.ctx c.surface b n pool
            | none => s
          .next { stickItem s id j with fresh := s.fresh + 1 }
      | (.ok read, _) =>
        (fetchLines s c (touchPages s c false (params ++ read))).out ev fun s =>
          match runItem s c j with
          | (.ok _, s) => .next (completeItem c j s)
          | (.error _, _) => idle ev

/-- R371: a tile that has waited on a pool for 100,000 ticks raises TRAVFAULT once. -/
def execTravfaultPoolTimeout (id : Nat) (s : State) : Out :=
  match s.trav.find? fun c => c.id == id with
  | none => idle "TRAVFAULT_POOL_TIMEOUT"
  | some c =>
    match c.stuck with
    | some (_, t0) =>
      if t0 + 100000 ≤ s.time && !c.raised then
        .next (asyncTrap (s.updEngine id fun x => { x with raised := true }) c.ctx
          { trap := .travfault, addr := c.nodeBase, detail := 0x0A } c.core)
      else idle "TRAVFAULT_POOL_TIMEOUT"
    | none => idle "TRAVFAULT_POOL_TIMEOUT"

/-- R396, R397: a command retried: what one TAG parked is translated again. -/
def retryTrav (s : State) (c : Command) (tag : Nat) : State :=
  let c := { c with parks := c.parks.filter fun p => p.tag != tag }
  let s := s.updEngine c.id fun _ => c
  if !c.running then s
  else
    let ts := paramTouches c ++ (openItems c).flatMap (itemOut c)
    if touchProt s c ts then failTrav s c 8 else passCommand s 2 c ts

end Sys2Proof.Machine
end

