-- ==== Sys2Proof/Machine/Save.lean ====
section
/-!
DEFINITION. The save and the restore of a set (R407 to R410): when a set may be saved, the image in its save area, what the
part keeps, and the places its billets take when they come back.
-/
namespace Sys2Proof.Machine

/-! The image (R409). -/

/-- Bytes of a save area whose layout the rule does not give (log 60). -/
def freeBytes (s : State) (tag n : Nat) : List Byte :=
  (List.range n).map fun i => BitVec.ofNat 8 (Config.pick s.fresh tag i)

/-- The state field of a lane (R409). -/
def stateCode (t : Thread) : Nat :=
  match t.status with
  | .ended => 0
  | .ready => if t.yieldTil = 0 then 1 else 6
  | .blocked _ => 2
  | .latch _ _ _ => 2
  | .mask _ => 3
  | .parked _ => 4
  | .trapped _ => 5
  | .held _ => 5
  | .assay _ _ _ => 1
  | .watching _ => 1

def laneState (s : State) (t : Nat) : Nat :=
  match s.threads.get? t with
  | none => 7
  | some x => stateCode x + x.suspended.toNat * 16 + x.widx % 16 * 256 + x.depth % 65536 * 65536

def laneTag (t : Thread) : Nat :=
  match t.status with
  | .parked p => p.tag
  | _ => 0

/-- The wait data of a lane (R409), from its first byte (log 60): the mask of a join or of a mask-form operation, the token of
a barrier, the parity of a stage, the deadline of a WAITV or a SLEEP. -/
def waitData (t : Thread) : Nat :=
  match t.status with
  | .mask c => c.mask.toNat
  | .blocked (.join m) => m.toNat
  | .blocked (.bar _ tok _ _ _) => tok
  | .blocked (.stage _ parity _) => parity.toNat
  | .blocked (.waitv _ _ _ _ deadline _) => deadline.toNat
  | .blocked (.sleep til) => til
  | _ => 0

/-- One crew section. -/
def crewImage (s : State) (cid : Nat) : List Byte :=
  let c := s.crew cid
  let ts := crewTids cid
  let pcs := ts.flatMap fun t => toBytes (pc64 (if (s.thr t).status = .ended then (s.thr t).endPc else (s.thr t).pc)).toNat 8
  pcs ++ ts.flatMap (fun t => toBytes (laneState s t) 4) ++ ts.flatMap (fun t => toBytes (waitData (s.thr t)) 16) ++
    (ts.map fun t => BitVec.ofNat 8 (s.thr t).p.toNat) ++
    (List.range 31).flatMap (fun r => toBytes ((c.s.get? r).getD 0).toNat 4) ++
    toBytes (c.gang.toNat + c.prio.val * 65536) 4 ++ freeBytes s (cid + 1) 32 ++
    ts.flatMap (fun t => toBytes (laneTag (s.thr t)) 4) ++
    ts.flatMap (fun t => toBytes (s.thr t).poisonAddr.toNat 8) ++ List.replicate 0x240 0 ++
    (List.range c.budget).flatMap (fun r => (s.unitContent (.reg cid r)).1) ++
    (List.range c.budget).flatMap (fun r => toBytes (s.unitContent (.reg cid r)).2.toNat 4)

/-- A ladle command: its 64 bytes, then eight bytes each (log 60) for its TAG, its T, its bytes accounted and where its bitmap
lies in the section. -/
def ladleImage (c : Command) (bitmap : Nat) : List Byte :=
  toBytes c.image.toNat 64 ++ toBytes ((c.parks.head?.map Park.tag).getD 0) 8 ++ toBytes c.total 8 ++
    toBytes (min c.total (32 * c.done.length)) 8 ++ toBytes bitmap 8 ++ List.replicate 32 0

/-- The sectors already accounted, a bit each. -/
def bitmapImage (c : Command) : List Byte :=
  toBytes ((c.done.map fun k => 2 ^ k).foldl (· + ·) 0) ((c.total / 32 + 7) / 8)

/-- The ladle commands of a section and after them their bitmaps. -/
def ladleImages (base : Nat) (cs : List Command) : List Byte :=
  let size (c : Command) : Nat := (c.total / 32 + 7) / 8
  (List.range cs.length).flatMap (fun i =>
    match cs[i]? with
    | some c => ladleImage c (base + 128 * cs.length + ((cs.take i).map size).foldl (· + ·) 0)
    | none => []) ++ cs.flatMap bitmapImage

/-- The items accounted without a gap from the first. -/
def Command.passed (c : Command) : Nat := ((List.range c.done.length).takeWhile fun i => c.done.contains i).length

/-- A traversal command with FIRST advanced and COUNT reduced past the items accounted; one accounted beyond an open item is
held by the part (log 60). -/
def travImage (c : Command) : List Byte :=
  toBytes (c.image.toNat % 2 ^ 448 + (c.first + c.passed) % 2 ^ 32 * 2 ^ 448 + (c.count - c.passed) % 2 ^ 32 * 2 ^ 480) 64

def journalImage (s : State) (b : Billet) : List Byte :=
  b.journal.reverse.flatMap fun e => freeBytes s 61 8 ++ e.content ++ toBytes e.flags.toNat 8

/-- The header. -/
def headerImage (s : State) (k : Nat) (b : Billet) (x : Workpiece) (lay : List Nat) : List Byte :=
  let p := x.packet
  let flags := (pktMtx p).toNat + (pktAssay p).toNat * 2 + (!b.irrevocable).toNat * 4 +
    (pktFused p).toNat * 8
  let slots := (billetBooks s k).map fun n => 2 ^ n
  [1] ++ toBytes (pktCrews p).length 1 ++ toBytes b.member 1 ++ toBytes flags 1 ++ toBytes x.ident.toNat 4 ++
    toBytes b.index 4 ++ toBytes b.scratchSize 4 ++ toBytes (pktDeadline p) 8 ++ toBytes (slots.foldl (· + ·) 0) 2 ++
    toBytes (unitGroups s k).length 2 ++
    toBytes (pkt p 145 5 + pkt p 150 5 * 32 + pkt p 155 5 * 1024) 4 ++
    (lay.take 8).flatMap (fun o => toBytes o 4) ++ List.replicate 192 0

/-- The parts of a billet section, by offset. -/
def sectionImage (s : State) (k : Nat) (b : Billet) (x : Workpiece) : List (Nat × List Byte) :=
  let lay := billetLayout s k b x.packet
  let core := k / 4
  let cmds := billetCmds s.ladle k b
  [(0, headerImage s k b x lay),
   (lay.getD 0 0, (b.crews ++ b.assay).flatMap (crewImage s)),
   (lay.getD 1 0, Memory.readBytes s.scratch (scratchAddr core b.scratchBase) b.scratchSize),
   (lay.getD 2 0, freeBytes s 62 (128 * (unitGroups s k).length)),
   (lay.getD 3 0, ladleImages (lay.getD 3 0) cmds),
   (lay.getD 4 0, (billetCmds s.trav k b).flatMap travImage),
   (lay.getD 5 0, if pktMtx x.packet then Memory.readBytes s.acc (core * Config.accBytes) Config.accBytes else []),
   (lay.getD 6 0, (billetBooks s k).flatMap fun n =>
      Memory.readBytes s.book (core * Config.codebookBytes + 2048 * n) 2048),
   (lay.getD 7 0, if b.irrevocable then [] else freeBytes s 63 4096 ++ journalImage s b)]

/-- The part writes an image by virtual address at P1, line by line; a place that does not translate is passed over. -/
def saveBytes (s : State) (c va : Nat) (bs : List Byte) : Nat → State
  | 0 => s
  | n + 1 =>
    if bs.isEmpty then s
    else
      let m := 128 - va % 128
      let s := match translate s c 1 .write va with
        | .ok pa _ _ => performWrite s pa (bs.take m) engineTid
        | _ => s
      saveBytes s c (va + m) (bs.drop m) n

def saveImage (s : State) (c base : Nat) (xs : List (Nat × List Byte)) : State :=
  xs.foldl (fun s x => saveBytes s c ((base + x.1) % 2 ^ 64) x.2 (x.2.length / 128 + 2)) s

/-! When a set may be saved, and its save (R408). -/

def setThreads (s : State) (bs : List (Nat × Billet)) : List Nat := bs.flatMap fun e => billetThreads s e.2

/-- An assay thread has reached its leader (R408 step 4). -/
def caughtUp (s : State) (t : Nat) : Bool :=
  match (s.crew (crewOf t)).leader with
  | none => true
  | some l => s.place t == s.place (l * 32 + laneOf t)

/-- Steps 1 and 2 of R408 for a set of billets: no bundle but of assay crews that wait for their leader, no matrix
instruction, no operation in flight, of its own or one that a release has told it of. -/
def quiet (s : State) (bs : List (Nat × Billet)) : Bool :=
  let ts := setThreads s bs
  ts.all (fun t => (!s.inFlight t || (s.crew (crewOf t)).leader.isSome) && caughtUp s t) &&
    s.pend.all (fun p => !ts.contains p.tid) && s.know.all (fun k => !ts.contains k.tid || !s.open k.store) &&
    s.anvil.all fun a => !(a.tids.any ts.contains)

/-- Threads leave their bundles at their words. -/
def stopAtWord (s : State) (ts : List Nat) : State :=
  (ts.foldl (fun s t => let w := (s.place t).2; s.updThr t fun x => { x with widx := w }) s).leave ts

/-- R408 step 4: a call-state cache goes to its stack slice. -/
def spillCache (s : State) (t : Nat) : State :=
  if (s.crew (crewOf t)).leader.isSome then s
  else
  let th := s.thr t
  let r := (List.range th.cache.length).foldl (fun (o : Option State) i =>
    o.bind fun s => match stackAccess s t (th.depth - i) (some (th.cache.getD i 0)) with
      | .ok s _ => some s
      | _ => none) (some s)
  match r with
  | some s => s.updThr t fun x => { x with cache := [] }
  | none => s

/-- A thread as it is saved: an assay pair runs its word again, and a monitor has lost its line. -/
def Thread.toSave (t : Thread) : Thread :=
  { t with
    status := (match t.status with | .assay _ _ _ => .ready | st => st)
    clause := if t.status == .ready && t.widx == 0 then none else t.clause
    mon0 := { t.mon0 with fired := t.mon0.fired || t.mon0.armed }
    mon1 := { t.mon1 with fired := t.mon1.fired || t.mon1.armed }
    cmpOk := false }

/-- Entries of a memory in [a, a + n). -/
def cellsIn (m : List Host.Cell) (a n : Nat) : List Host.Cell := m.filter fun c => decide (a ≤ c.1 ∧ c.1 < a + n)

/-- What the part keeps of one billet. The groups whose lowest member has ended stay with the set's first billet. -/
def keepBillet (s : State) (first : Bool) (k base : Nat) (b : Billet) : SavedBillet :=
  let core := k / 4
  let rest := s.groups.filter fun g => first && g.2.wp == b.wp && g.2.set == b.set &&
    (match (g.2.members.map Prod.fst).head? with
     | some h => !((s.billets.get? h).any fun y => y.wp == b.wp && y.set == b.set)
     | none => true)
  { key := k
    base := base
    billet := { b with slot := none }
    crews := s.crews.filter fun e => (b.crews ++ b.assay).contains e.1
    threads := (s.threads.filter fun e => (b.crews ++ b.assay).contains (crewOf e.1)).map fun e => (e.1, e.2.toSave)
    groups := unitGroups s k ++ rest
    objs := s.objUse.filter fun e => (b.crews ++ b.assay).contains (crewOf e.1)
    scratch := cellsIn s.scratch (scratchAddr core b.scratchBase) b.scratchSize
    acc := if ((s.wps.get? b.wp).any fun w => pktMtx w.packet) then cellsIn s.acc (core * Config.accBytes) Config.accBytes else []
    books := (billetBooks s k).map fun n => (n, Memory.readBytes s.book (core * Config.codebookBytes + 2048 * n) 2048)
    ladle := (billetCmds s.ladle k b).map fun c => { c with owned := [] }
    trav := (billetCmds s.trav k b).map fun c => { c with owned := [], running := false } }

/-- R402: bit 2 of FLAGS of the records that wait while their thread's set is saved, and the core that serves them. -/
def TrapRecord.moved (r : TrapRecord) (core : Nat) (tid : Option Nat) (saved : Bool) : TrapRecord :=
  let f := ((r.bytes.getD 3 0).toNat % 4 + if saved then 4 else 0)
  { r with bytes := r.bytes.take 3 ++ [BitVec.ofNat 8 f] ++ r.bytes.drop 4, core := core, tid := tid }

/-- The number that stands for the core of a saved set. -/
def savedCore (uid : Nat) : Nat := 2 ^ 20 + uid

/-- The serving core of the records of a set's threads while it is saved (R404). -/
def moveRecords (s : State) (c : Nat) (ts : List Nat) (core : Nat → Nat) (tid : Nat → Nat) (saved : Bool) : State :=
  s.updCtx c fun x =>
    { x with
      waiting := x.waiting.map fun r => match r.tid with
        | some t => if ts.contains t then r.moved (core t) (some (tid t)) saved else r
        | none => r
      served := x.served.map fun r => match r.2.2 with
        | some t => if ts.contains t then (r.1, core t, some (tid t)) else r
        | none => r }

/-- The threads of a saved set under names no resident thread has. -/
def savedTid (uid t : Nat) : Nat := (uid + 1) * 2 ^ 40 + t

/-- The save of a set into a slot of its context. -/
def saveSet (s : State) (w set slot : Nat) (x : Workpiece) : State :=
  let bs := setBillets s w set
  let ts := setThreads s bs
  let uid := s.seq
  let s := stopAtWord { s with seq := s.seq + 1 } ts
  let s := ts.foldl spillCache s
  let s : State := { s with groups := s.groups.map fun g =>
    if g.2.wp = w ∧ g.2.set = set then (g.1, { g.2 with pausedAt := g.2.pausedAt.or (some s.time) }) else g }
  let c := s.ctx x.ctx
  let base := c.saveBase.toNat + slot * (c.saveCfg.toNat % 65536 * 65536)
  let r := bs.foldl (fun (o : State × Nat × List (Nat × Nat)) e =>
    match s.billets.get? e.1 with
    | none => o
    | some b => (saveImage o.1 x.ctx o.2.1 (sectionImage s e.1 b x), o.2.1 + (billetLayout s e.1 b x.packet).getD 8 0,
        o.2.2 ++ [(e.1, o.2.1)])) (s, base, [])
  let s := r.1
  let kept := r.2.2.filterMap fun e => (s.billets.get? e.1).map fun b =>
    keepBillet s (some e.1 == bs.head?.map Prod.fst) e.1 (e.2 % 2 ^ 64) b
  let gone : List Nat := kept.flatMap fun k => (k.ladle ++ k.trav).map Command.id
  let s : State := { s with
    ladle := s.ladle.filter fun q => !gone.contains q.id
    trav := s.trav.filter fun q => !gone.contains q.id
    frozen := s.frozen.filter fun f => !ts.contains f.2
    saved := s.saved ++ [{ uid := uid, wp := w, set := set, slot := slot, billets := kept, savedAt := s.time,
                            avoid := bs.findSome? fun e => e.2.avoid }] }
  let s := ts.foldl State.orphan s
  let s := bs.foldl (fun s e => (s.updCore (e.1 / 4) fun k => { k with maps := [] }).freeBillet e.1) s
  let s := s.updCtx x.ctx fun y => { y with saveUse := y.saveUse ||| BitVec.ofNat 64 (2 ^ slot) }
  let s := moveRecords s x.ctx ts (fun _ => savedCore uid) (savedTid uid) true
  { s with fresh := s.fresh + 1 }

/-- SET_SAVE (R408): a victim set that has come to rest; a set of a retired core, or one saved for D3hot, that finds no slot
ends its context (R420, R474). -/
def execSetSave (w set : Nat) (s : State) : Out :=
  let bs := setBillets s w set
  match s.wps.get? w with
  | none => idle "SET_SAVE"
  | some x =>
    if bs.isEmpty || !(bs.all fun e => e.2.victim) || !quiet s bs then idle "SET_SAVE"
    else match freeSlot s x.ctx (setSize s w set) (some (w, set)) with
      | none =>
        if s.power ≠ 0 then .next (terminateCtx s x.ctx 0)
        else if bs.any fun e => (s.core (e.1 / 4)).retired || e.2.avoid == some (e.1 / 4) then .next (terminateCtx s x.ctx 0x14)
        else idle "SET_SAVE"
      | some slot => .next (saveSet s w set slot x)

/-! The restore (R410). -/

/-- Old places to new ones. -/
structure Move where
  keys : List (Nat × Nat) := []
  crews : List (Nat × Nat) := []
  bases : List (Nat × Nat × Nat) := []
  deriving DecidableEq, Repr

/-- A billet that has ended keeps a key no resident billet has. -/
def Move.key (m : Move) (k : Nat) : Nat := ((m.keys.find? fun e => e.1 == k).map Prod.snd).getD k
def Move.cid (m : Move) (c : Nat) : Nat := ((m.crews.find? fun e => e.1 == c).map Prod.snd).getD c
def Move.tid (m : Move) (t : Nat) : Nat := m.cid (crewOf t) * 32 + laneOf t
def Move.addr (m : Move) (a : Nat) : Nat :=
  match m.bases.find? fun b => decide (b.1 ≤ a ∧ a < b.1 + b.2.1) with
  | some b => b.2.2 + (a - b.1)
  | none => a
def Move.obj (m : Move) (o : Nat) : Nat := 2 * m.addr (objAddr o) + o % 2
def Move.memKey (m : Move) (k : Nat) : Nat := m.key (k / 16) * 16 + k % 16
def Move.masks (m : Move) (x : Map W32) : Map W32 := x.foldl (fun r e => Map.set r (m.memKey e.1) e.2) []

def Move.wait (m : Move) : Wait → Wait
  | .stage o p d => .stage (m.addr o) p d
  | .qpush o w pl st k => .qpush (m.addr o) w pl st k
  | .qpop o w b st k => .qpop (m.addr o) w b st k
  | w => w

def Move.status (m : Move) (dt : Nat) : Status → Status
  | .blocked w => .blocked (m.wait w)
  | .latch op dc since => .latch op dc (since + dt)
  | st => st

def Move.thread (m : Move) (dt now : Nat) (t : Thread) : Thread :=
  { t with status := m.status dt t.status, readyAt := now, aged := false, yieldTil := 0 }

def Move.crew (m : Move) (pos : Nat) (c : Crew) : Crew := { c with pos := pos, leader := c.leader.map m.cid }

def Move.group (m : Move) (g : Group) : Group :=
  { g with members := g.members.map (fun e => (m.key e.1, e.2)), presented := m.masks g.presented,
           arrived := m.masks g.arrived, left := m.masks g.left, out := g.out.map m.memKey }

/-- A group's timer goes on where it stopped (R170). -/
def Group.resumed (g : Group) (now : Nat) : Group :=
  { g with paused := g.paused + (match g.pausedAt with | some a => now - a | none => 0), pausedAt := none }

def Move.line (m : Move) (l : Nat) : Nat := m.addr (128 * l) / 128

/-- The accumulator lines of a core. -/
def Move.accLine (m : Move) (l : Nat) : Nat :=
  let per := Config.accBytes / 128
  match m.keys.find? fun e => e.1 / 4 == l / per with
  | some e => e.2 / 4 * per + l % per
  | none => l

def Move.unit (m : Move) : JUnit → JUnit
  | .reg c r => .reg (m.cid c) r
  | .scratch l => .scratch (m.line l)
  | .acc l => .acc (m.accLine l)
  | .global l => .global l

def Move.ckpt (m : Move) (pos now : Nat) (c : Checkpoint) : Checkpoint :=
  { c with
    threads := c.threads.foldl (fun r e => Map.set r (m.tid e.1) (m.thread 0 now e.2)) []
    crews := c.crews.foldl (fun r e => Map.set r (m.cid e.1) (m.crew pos e.2)) []
    groups := c.groups.map fun e => (e.1, m.group e.2) }

def Move.command (m : Move) (c : Command) : Command :=
  let k := m.key c.billet
  { c with core := k / 4, pos := k % 4, tid := m.tid c.tid, targets := c.targets.map (fun t => (m.key t.1, m.addr t.2)),
           base := m.addr c.base, after := [] }

/-- What a saved set asks (R410): R193's conditions, its codebook slots and a barrier unit for each of its groups. -/
def savedNeed (v : SavedSet) (x : Workpiece) : Need :=
  { wp := v.wp, packet := x.packet, size := v.billets.length, units := v.billets.map fun b => b.groups.length,
    books := v.billets.map fun b => b.books.map Prod.fst, avoid := v.avoid }

/-- The cores for the saved billets of a set (R410). -/
def restoreCores (s : State) (v : SavedSet) (x : Workpiece) : Option (List Nat) := findCores s (savedNeed v x)

/-- The new places of one saved billet on a core. -/
def placeSaved (s : State) (m : Move) (b : SavedBillet) (core : Nat) : Move :=
  let pos := freePos s core
  let slots := freeSlots s core
  let old := b.billet.crews ++ b.billet.assay
  { keys := m.keys ++ [(b.key, core * 4 + pos)]
    crews := m.crews ++ (List.range old.length).map fun i => (old.getD i 0, core * 32 + slots.getD i 0)
    bases := m.bases ++ [(scratchAddr (b.key / 4) b.billet.scratchBase, b.billet.scratchSize, scratchAddr core (pos * 2 ^ 19))] }

def putCells (m : List Host.Cell) (f : Nat → Nat) (cs : List Host.Cell) : List Host.Cell :=
  cs.foldl (fun m c => Memory.write m (f c.1) c.2) m

def clearCells (m : List Host.Cell) (a n : Nat) : List Host.Cell := m.filter fun c => !decide (a ≤ c.1 ∧ c.1 < a + n)

/-- One saved billet takes its place. -/
def restoreBillet (s : State) (m : Move) (dt : Nat) (b : SavedBillet) : State :=
  let k := m.key b.key
  let core := k / 4
  let pos := k % 4
  let now := (s.core core).gather + 1
  let base := scratchAddr core (pos * 2 ^ 19)
  let y : Billet := { b.billet with crews := b.billet.crews.map m.cid, assay := b.billet.assay.map m.cid,
                                    scratchBase := pos * 2 ^ 19, victim := false,
                                    journal := b.billet.journal.map fun e => { e with unit := m.unit e.unit },
                                    ckpt := b.billet.ckpt.map (m.ckpt pos now) }
  let s : State := { s with
    billets := s.billets.set k y
    crews := b.crews.foldl (fun r e => Map.set r (m.cid e.1) (m.crew pos e.2)) s.crews
    threads := b.threads.foldl (fun r e => Map.set r (m.tid e.1) (m.thread dt now e.2)) s.threads
    objUse := s.objUse ++ b.objs.map fun e => (m.tid e.1, m.obj e.2)
    groups := b.groups.foldl (fun r g => Map.set r g.1 { (m.group g.2).resumed s.time with unit := core }) s.groups
    scratch := putCells (clearCells s.scratch base b.billet.scratchSize) m.addr b.scratch
    acc := if ((s.wps.get? b.billet.wp).any fun w => pktMtx w.packet) then
        putCells (clearCells s.acc (core * Config.accBytes) Config.accBytes)
          (fun a => core * Config.accBytes + a % Config.accBytes) b.acc
      else s.acc
    ladle := s.ladle ++ b.ladle.map m.command
    trav := s.trav ++ b.trav.map m.command }
  let s := b.books.foldl (fun s e =>
    let s : State := { s with book := Memory.writeBytes s.book (core * Config.codebookBytes + 2048 * e.1) e.2 }
    s.updCore core fun x => { x with books := x.books ++ [(e.1, k)] }) s
  s.updCore core fun x => { x with gated := false }

/-- R410: a ladle command takes ownership again of the lines of its open sectors. -/
def retakeLines (s : State) (c : Command) : State :=
  match s.ladle.find? fun q => q.id == c.id with
  | none => s
  | some c =>
    if !c.running then s
    else match takeSectors s c (TMap.ofBytes c.map) (openSectors c) with
      | .no => s
      | .wait s => s
      | .yes s => s

/-- The unit a retry or an abort reaches (R396, R399): threads, ladle commands and traversal commands with a TAG. -/
def replayTag (s : State) (f tag : Nat) (abort : Bool) : State :=
  let ts := (s.threads.filter fun e => s.ctxOf (crewOf e.1) / 16 == f &&
    (match e.2.status with | .parked p => p.tag == tag | _ => false)).map Prod.fst
  let hit (c : Command) : Bool := c.ctx / 16 == f && c.parks.any fun p => p.tag == tag
  let ls := s.ladle.filter hit
  let vs := s.trav.filter hit
  let s := s.updTenant f fun x => { x with fq := { x.fq with held := x.fq.held.filter fun e => e.1 != tag } }
  let s := if abort then
      raise s (ts.filterMap fun t => match (s.thr t).status with | .parked p => some (t, abortInfo p) | _ => none)
    else ts.foldl retryThread s
  let s := ls.foldl (fun s c => if abort then failCommand s c 1 9 c.mapAddr c.stageOfs else retryLadle s c tag) s
  vs.foldl (fun s c => if abort then failTrav s c 9 else retryTrav s c tag) s

/-- A request that waited for the restore (R405, R410, R427, R430), for the threads at their new places. -/
def applyLater (f : Nat) (m : Move) (s : State) (l : Later) : State :=
  match l with
  | .rte t next step => resumeThread s (m.tid t) next step
  | .kill t => if (s.thr (m.tid t)).status = .ended then s else endThreads s [m.tid t] true
  | .replay tag abort => replayTag s f tag abort
  | .jrnl k roll =>
    if !roll then s.irrevocable (m.key k)
    else if revocable s (m.key k) then rollback s (m.key k) 1 0 0
    else s

/-- A journal needs a save slot again; without one the interval is irrevocable (R411). -/
def retakeSlot (s : State) (k : Nat) : State :=
  match s.billets.get? k with
  | none => s
  | some b =>
    if b.irrevocable then s
    else
      let slot := journalSlot s k
      s.updBillet k fun y => { y with slot := slot, irrevocable := slot.isNone }

/-- A saved set comes back on cores. -/
def restoreSet (s : State) (v : SavedSet) (x : Workpiece) (cores : List Nat) : State :=
  let dt := s.time - v.savedAt
  let m := (List.range v.billets.length).foldl (fun m i =>
    match v.billets[i]? with
    | some b => placeSaved s m b (cores.getD i 0)
    | none => m) ({} : Move)
  let s : State := { s with saved := s.saved.filter fun y => y.uid != v.uid }
  let s := v.billets.foldl (fun s b => restoreBillet s m dt b) s
  let s := (v.billets.flatMap SavedBillet.ladle).foldl retakeLines s
  let s := s.updCtx x.ctx fun y => { y with saveUse := y.saveUse &&& ~~~(BitVec.ofNat 64 (2 ^ v.slot)) }
  let s := (m.keys.map Prod.snd).foldl retakeSlot s
  let ts := v.billets.flatMap fun b => b.threads.map fun e => savedTid v.uid e.1
  let s := moveRecords s x.ctx ts (fun t => coreOf (m.tid (t % 2 ^ 40))) (fun t => m.tid (t % 2 ^ 40)) false
  let s := v.later.foldl (applyLater (x.ctx / 16) m) s
  m.crews.foldl (fun s c => resolveMask c.2 (evalJoin s c.2) 64) s

end Sys2Proof.Machine
end

