-- ==== Sys2Proof/Machine/Pick.lean ====
section
/-!
DEFINITION. Pick (R192): its candidates, which are workpieces with sets not placed and saved sets (R410), their turns, and the
victims it marks (R195).
-/
namespace Sys2Proof.Machine

/-- A candidate of Pick (R192): a workpiece with sets not placed, or a saved set by its number. -/
structure Cand where
  wp : Nat
  tenant : Nat
  queue : Nat
  saved : Option Nat := none
  rank : List Nat
  deriving DecidableEq, Repr

/-- The order of R192; of one queue's, the workpiece read first, then the lower set (log 81). -/
def candRank (s : State) (w set : Nat) (x : Workpiece) : List Nat :=
  let d := pktDeadline x.packet
  [if d = 0 then 1 else 0, d, 7 - queuePrio s x.tenant x.queue, x.tenant, x.queue, w, set]

/-- Whether a workpiece has its turn: the head packet of an enabled queue whose dependency is met and whose condition can be
read, or one in progress. -/
def waitsForPick (s : State) (w : Nat) (x : Workpiece) : Bool :=
  x.live && decide (x.placed < setsOf x) && (x.begun || pkt x.packet 384 64 == 0 || acquired s x.ctx (pkt x.packet 384 64) 4) &&
    (headPacket s x.tenant x.queue).any fun h => h.wp == w && (h.depMet && queueOn s x.tenant x.queue || x.begun)

def candidates (s : State) : List Cand :=
  let new := s.wps.filterMap fun e =>
    if waitsForPick s e.1 e.2 then
      some { wp := e.1, tenant := e.2.tenant, queue := e.2.queue, rank := candRank s e.1 e.2.placed e.2 : Cand }
    else none
  let back := s.saved.filterMap fun v => (s.wps.get? v.wp).map fun x =>
    { wp := v.wp, tenant := x.tenant, queue := x.queue, saved := some v.uid, rank := candRank s v.wp v.set x : Cand }
  sortBy (fun a b => lexLe a.rank b.rank) (new ++ back)

/-- What a candidate's set asks of its cores. -/
def Cand.need (c : Cand) (s : State) (x : Workpiece) : Option Need :=
  match c.saved with
  | none => some (setNeed c.wp x)
  | some u => (s.saved.find? fun v => v.uid == u).map fun v => savedNeed v x

/-- What COND says of a workpiece not yet in progress (R190): none where its read fails, else whether it goes on. -/
def condOf (s : State) (x : Workpiece) : Option Bool :=
  let a := pkt x.packet 384 64
  if x.begun || a == 0 then some true else (readAs s x.ctx a 4).map fun v => v != 0

/-- A packet's turn: its condition (R190), then its sets. -/
def pickPacket (s : State) (c : Cand) (x : Workpiece) : State :=
  match condOf s x with
  | none => refuseHead s c.tenant c.queue c.wp 0x18
  | some false => completeWp (advanceQueue s c.tenant c.queue) c.wp x
  | some true =>
    let s := placeSets c.wp (s.updWp c.wp fun y => { y with begun := true }) (setsOf x)
    match s.wps.get? c.wp with
    | some y => if setsOf y ≤ y.placed then advanceQueue s c.tenant c.queue else s
    | none => s

/-- A saved set's turn: it comes back if one cluster grants it all it asks (R410). -/
def pickSaved (s : State) (u : Nat) (x : Workpiece) : State :=
  match s.saved.find? fun v => v.uid == u with
  | none => s
  | some v =>
    match restoreCores s v x with
    | some cores => restoreSet s v x cores
    | none => s

/-- One candidate's turn. -/
def pickOne (s : State) (c : Cand) : State :=
  match s.wps.get? c.wp with
  | none => s
  | some x =>
    match c.saved with
    | some u => pickSaved s u x
    | none => if x.live then pickPacket s c x else s

/-! Victims (R195). -/

/-- How late a billet is: its order among victims. -/
def victimRank (s : State) (k : Nat) (b : Billet) : List Nat :=
  match s.wps.get? b.wp with
  | none => [0, 0, 0]
  | some x =>
    let d := pktDeadline x.packet
    [if d = 0 then 0 else 2 ^ 64 - d, queuePrio s x.tenant x.queue, k % 4]

/-- Sets of a cluster that may be chosen for a candidate of deadline d, by the margin of its context (R195, R407), latest first; billets that tie come in the
order of their cores (log 81). -/
def victimSets (s : State) (cl d margin : Nat) : List (Nat × Nat) :=
  let bs := s.billets.filter fun e => e.1 / 16 == cl && !e.2.victim &&
    (match s.wps.get? e.2.wp with
     | none => false
     | some x =>
       let dl := pktDeadline x.packet
       (dl == 0 || decide (d + margin < dl)) &&
         (freeSlot s x.ctx (setSize s e.2.wp e.2.set) (some (e.2.wp, e.2.set))).isSome)
  ((sortBy (fun a b : (Nat × Billet) => lexLe (victimRank s a.1 a.2) (victimRank s b.1 b.2)) bs).map
    fun e => (e.2.wp, e.2.set)).dedup

/-- The state as if sets had left. -/
def without (s : State) (vs : List (Nat × Nat)) : State :=
  ((s.billets.filter fun e => vs.contains (e.2.wp, e.2.set)).map Prod.fst).foldl State.freeBillet s

/-- The fewest victims in their order that free enough in a cluster. -/
def victimsFor (s : State) (n : Need) (cl : Nat) (vs : List (Nat × Nat)) : Option (List (Nat × Nat)) :=
  ((List.range vs.length).map fun i => vs.take (i + 1)).find? fun xs => (clusterFits (without s xs) n cl).isSome

/-- The billets of sets. -/
def billetCount (s : State) (vs : List (Nat × Nat)) : Nat := (vs.map fun v => (setBillets s v.1 v.2).length).foldl (· + ·) 0

/-- R195: victims are marked in the one cluster that needs fewest, the lowest of those that need equally few (log 81).  While
victims marked before will free enough, no more are. -/
def markVictims (s : State) (n : Need) (d margin : Nat) : State :=
  let t := without s ((s.billets.filter fun e => e.2.victim).map fun e => (e.2.wp, e.2.set)).dedup
  if d = 0 || (findCores t n).isSome then s
  else
    let opts := (List.range 64).filterMap fun cl => victimsFor t n cl (victimSets t cl d margin)
    match (sortBy (fun a b : List (Nat × Nat) => decide (billetCount s a ≤ billetCount s b)) opts).head? with
    | none => s
    | some vs =>
      { s with billets := s.billets.map fun e =>
          (e.1, if vs.contains (e.2.wp, e.2.set) then { e.2 with victim := true } else e.2) }

/-- The first candidate where a set of it has fitted nowhere: victims are looked for (R195). -/
def preempt (s : State) (first : Cand) : State :=
  match (candidates s).find? fun c => c.wp == first.wp && c.saved == first.saved, s.wps.get? first.wp with
  | some c, some x =>
    match c.need s x with
    | some n => if x.begun then markVictims s n (pktDeadline x.packet) (s.ctx x.ctx).pmargin.toNat else s
    | none => s
  | _, _ => s

/-- PICK (R192, R195). -/
def execPick (s : State) : Out :=
  match candidates s with
  | [] => idle "PICK"
  | c :: cs => if s.power != 0 then idle "PICK" else .next (preempt ((c :: cs).foldl pickOne s) c)

/-- Whether a candidate that comes before a rank fits now (R192, R410). -/
def betterFits (s : State) (rank : List Nat) : Bool :=
  (candidates s).any fun c => !lexLe rank c.rank && (s.wps.get? c.wp).any fun x =>
    (c.saved.isSome || condOf s x == some true) && (c.need s x).any fun n => (findCores s n).isSome

/-- SET_RESTORE (R410): a saved set's turn, where no candidate before it fits. -/
def execSetRestore (w set : Nat) (s : State) : Out :=
  match s.saved.find? fun v => v.wp == w && v.set == set with
  | none => idle "SET_RESTORE"
  | some v =>
    match s.wps.get? w with
    | none => idle "SET_RESTORE"
    | some x =>
      if s.power ≠ 0 then idle "SET_RESTORE"
      else match restoreCores s v x with
      | none => idle "SET_RESTORE"
      | some cores =>
        if betterFits s (candRank s w set x) then idle "SET_RESTORE"
        else .next (restoreSet s v x cores)

end Sys2Proof.Machine
end

