-- ==== Sys2Proof/Machine/Recovery.lean ====
section
/-!
DEFINITION. Recovery: checkpoints (R411), errors that strike (R414), assay pairs (R416, R417), lasting faults and retired
units (R418, R420), and the rebuild of the schedulers (R419).
-/
namespace Sys2Proof.Machine

/-! Retired units (R420). -/

/-- A capability byte counts down for a die (R420). -/
def capDown (w : W32) (die : Nat) : W32 :=
  if w.toNat / 2 ^ (8 * (die % 4)) % 256 = 0 then w else w - BitVec.ofNat 32 (2 ^ (8 * (die % 4)))

/-- The sets with a billet on a core. -/
def setsOn (s : State) (core : Nat) : List (Nat × Nat) :=
  ((billetsOn s core).map fun e => (e.2.wp, e.2.set)).dedup

/-- R420: a set of a retired core is to be saved; where no slot is free its context ends. -/
def evictSet (s : State) (x : Nat × Nat) : State :=
  match s.wps.get? x.1 with
  | none => s
  | some w =>
    if (freeSlot s w.ctx (setSize s x.1 x.2) (some x)).isNone then terminateCtx s w.ctx 0x14
    else { s with billets := s.billets.map fun e =>
      (e.1, if e.2.wp = x.1 ∧ e.2.set = x.2 then { e.2 with victim := true } else e.2) }

/-- A core is retired for a fault of a kind. -/
def retireCore (s : State) (kind core : Nat) : State :=
  if (s.core core).retired then s
  else
    let s := s.updCore core fun c => { c with retired := true, doomed := false }
    let s := (setsOn s core).foldl evictSet s
    let s : State := { s with capCores := capDown s.capCores (dieOf core) }
    s.postAll (recoveryRecord s 4 kind 0 0 (whereUnit kind core) 0)

/-- Whether the set that a core is to be retired for is still to leave it, or to come back elsewhere (R417). -/
def leaving (s : State) (core : Nat) : Bool :=
  s.billets.any (fun e => e.2.avoid == some core && e.1 / 16 == core / 4) || s.saved.any fun v => v.avoid == some core

/-- R417: once the set is restored on another cluster, the core is retired. -/
def retireDoomed (s : State) : State :=
  ((s.cores.filter fun e => e.2.doomed && !leaving s e.1).map Prod.fst).foldl (fun s c => retireCore s 1 c) s

/-- Firmware remaps a home slice (R223) after writing back its lines: copies go, leases end, and a slice of the die that is
not retired serves them. -/
def retireSlice (s : State) (slice : Nat) : State :=
  if s.retired.contains (5, slice) then s
  else
    let s : State := { s with retired := s.retired ++ [(5, slice)] }
    let mine := (s.homes.filter fun h => homeOf s (128 * h.1) == slice).map Prod.fst
    let s := mine.foldl (fun s l => loseLine s l fun _ => true) s
    let s : State := { s with
      copies := s.copies.filter fun e => !mine.contains (e.1 % 2 ^ 45)
      probes := s.probes.filter fun p => !mine.contains p.line
      homes := s.homes.map fun h =>
        if mine.contains h.1 then (h.1, { h.2 with dir := .i, count := 0, copy := [], lmax := 0 }) else h }
    let live := (List.range 64).filter fun k => !s.retired.contains (5, slice / 64 * 64 + k)
    let heir := live.getD (Config.pick s.fresh slice 223 % max 1 live.length) 0
    let s : State := { s with
      sliceMap := (List.range 64).foldl (fun m k =>
        if (s.sliceMap.get? (slice / 64 * 64 + k)).getD k = slice % 64 then Map.set m (slice / 64 * 64 + k) heir else m) s.sliceMap
      capSlices := capDown s.capSlices (slice / 64)
      fresh := s.fresh + 1 }
    s.postAll (recoveryRecord s 4 5 0 0 (whereUnit 5 slice) 0)

/-- The lines of a retired DRAM channel that firmware cannot copy to spare rows, among those of its die that hold anything: which
lines the channel holds and which of them are copied is free (R420). -/
def lostLines (s : State) (unit : Nat) : List Nat :=
  ((s.mem.map fun (c : Host.Cell) => c.1 / 128) ++ s.homes.map Prod.fst).dedup.filter fun l =>
    !isDrawerPa (128 * l) && !isHostPa (128 * l) && homeOf s (128 * l) / 64 == unit / 32 &&
      Config.pick l unit 420 % 32 == unit % 32 && Config.pick l s.fresh 421 % 2 == 1

/-- A DRAM channel or a wavelength (R420). -/
def retireCount (s : State) (kind unit : Nat) : State :=
  if s.retired.contains (kind, unit) then s
  else
    let s : State := { s with retired := s.retired ++ [(kind, unit)] }
    let s : State := if kind = 6 then
        (lostLines s unit).foldl (fun s l => s.markBad l 6) { s with capChan := capDown s.capChan (unit / 32), fresh := s.fresh + 1 }
      else { s with capWaves := s.capWaves - 1 }
    s.postAll (recoveryRecord s 4 kind 0 0 (whereUnit kind unit) 0)

/-- R418, R420: the unit that a lasting fault of a kind retires. -/
def retireUnit (s : State) (kind unit : Nat) : State :=
  match kind with
  | 5 => retireSlice s unit
  | 6 => retireCount s 6 unit
  | 7 => retireCount s 7 unit
  | 8 => s
  | k => retireCore s k unit

/-- The tenants with a billet where a test holds. -/
def tenantsAt (s : State) (f : Nat → Bool) : List Nat :=
  ((s.billets.filter fun e => f (e.1 / 4)).filterMap fun e => (s.wps.get? e.2.wp).map Workpiece.tenant).dedup

/-! Errors (R414, R418). -/

/-- The window of R418 and R419. -/
def errWindow : Nat := 2 ^ 24

/-- The location of an error in its unit (R418): a line of a scratchpad or of accumulators; which row of a register file, way of a
cache or row of a DRAM an address has is free; a wavelength is its unit. -/
def errPlace (kind a : Nat) : Nat :=
  match kind with
  | 2 => a / 128
  | 3 => a / 128
  | 7 => 0
  | 8 => 0
  | k => Config.pick k 418 (a / 128)

/-- A location of the error log: the kind (and 16 more for a correctable error), the unit and the place in it. -/
def errKey (kind unit a : Nat) : Nat := (errPlace (kind % 16) a * 2 ^ 20 + unit) * 32 + kind

/-- Errors of a location within the window. -/
def errCount (s : State) (key : Nat) : Nat :=
  (s.errLog.filter fun e => e.1 == key && decide (s.time ≤ e.2.1 + errWindow)).length

def noteError (s : State) (key : Nat) : State :=
  { s with errLog := (s.errLog.filter fun e => decide (s.time ≤ e.2.1 + errWindow)) ++ [(key, s.time, 0)] }

/-- The tenants that a fault of a unit affects: those on the core, or every one. -/
def affected (s : State) (kind unit : Nat) : List Nat := if kind ≤ 4 then tenantsAt s (· == unit) else List.range 64

/-- R418: an uncorrectable error strikes a location; the second within the window is lasting: a record to the tenants it affects, and
the unit is retired. -/
def strike (s : State) (fs : List Nat) (kind unit a : Nat) : State :=
  let key := errKey kind unit a
  let again := errCount s key != 0
  let s := noteError s key
  if again then
    retireUnit (fs.foldl (fun s f => s.postEvent f (recoveryRecord s 3 kind 0 0 (whereUnit kind unit) (errAddr kind a))) s) kind unit
  else s

/-- Whether data of a line are on their way to a billet: to an operation of a thread of it, or to a command. -/
def readsLine (s : State) (k : Nat) (b : Billet) (line : Nat) : Bool :=
  s.pend.any (fun p => (billetThreads s b).contains p.tid && p.op.readsData && !p.landed && p.op.lines.contains (.global, line)) ||
    (s.ladle ++ s.trav).any fun c => c.running && c.billet == k && c.wp == b.wp && c.set == b.set

/-- Whether a billet may consume an error of a kind at a place of a unit (R414): one of its core's memories, one whose data are
on their way to it, or one that the homes recorded against an agent of its core (R246). -/
def mayConsume (s : State) (k : Nat) (b : Billet) (kind unit a : Nat) : Bool :=
  let line := readsLine s k b (lineOf a)
  match kind with
  | 1 => unit == k / 4
  | 2 => unit == k / 4
  | 3 => unit == k / 4
  | 4 => unit == k / 4 && line
  | 5 => unit == homeOf s a && line
  | 6 => line
  | 7 => line
  | 8 => s.errors.contains (8, unit) && agentCores unit (k / 4)
  | _ => false

/-- UECC_CONSUME (R414): billet k consumes an uncorrectable error that strikes a unit at a place; one that no billet consumes marks
its memory line.  Injected ones do not count towards R418, nor do those of an assay billet or of an agent. -/
def execUeccConsume (k kind unit a : Nat) (s : State) : Out :=
  match s.billets.get? k with
  | none =>
    if kind = 0 ∨ 7 < kind ∨ (kind = 5 ∧ unit ≠ homeOf s a) then idle "UECC_CONSUME"
    else
      let s := if 4 ≤ kind then s.markBad (lineOf a) kind else s
      .next (strike s (affected s kind unit) kind unit a)
  | some b =>
    if !mayConsume s k b kind unit a then idle "UECC_CONSUME"
    else
      let row := if kind = 1 then s.errors.find? fun e => e.1 == 1 && e.2 / 2 ^ 32 == unit else none
      let f := ((s.wps.get? b.wp).map Workpiece.tenant).toList
      let s := match row with
        | some e => s.dropError e
        | none => if kind = 8 then { s with errors := s.errors.erase (8, unit) } else s
      let s := consumeBy s k kind a
      .next (if row.isSome || !b.assay.isEmpty || kind = 8 then s else strike s f kind unit a)

/-- CORRECTABLE_ERROR (R418): the 256th at a location within the window makes its fault lasting. -/
def execCorrectableError (kind unit a : Nat) (s : State) : Out :=
  if kind = 0 ∨ 7 < kind then idle "CORRECTABLE_ERROR"
  else
    let key := errKey (16 + kind) unit a
    let s := noteError s key
    if errCount s key < 256 then .next s
    else
      let s := (affected s kind unit).foldl (fun s f =>
        (s.postEvent f (recoveryRecord s 6 kind 0 0 (whereUnit kind unit) (errAddr kind a))).postEvent f
          (recoveryRecord s 3 kind 0 0 (whereUnit kind unit) (errAddr kind a))) s
      .next (retireUnit s kind unit)

/-! Checkpoints (R411). -/

/-- The billet group of a billet. -/
def groupOfBillet (s : State) (k : Nat) : Option (Nat × Group) :=
  (s.billets.get? k).bind fun b => s.groups.find? fun g =>
    g.2.entry == 0xFFFF && g.2.wp == b.wp && g.2.set == b.set && g.2.members.any fun m => m.1 == k

/-- The threads whose BBAR phase has completed, with their destination and status word. -/
def bbarDone (s : State) (g : Nat) (x : Group) : List (Nat × Reg × W32) :=
  s.threads.filterMap fun e => match e.2.status with
    | .blocked (.bar h tok dst _ last) => if h = g ∧ x.isDone tok then some (e.1, dst, stWord 0 tok last) else none
    | _ => none

/-- CHECKPOINT (R411): the billet's commands have ended and its operations are done; its threads leave BBAR. -/
def execCheckpoint (k : Nat) (s : State) : Out :=
  match s.billets.get? k, groupOfBillet s k with
  | some b, some g =>
    let ts := billetThreads s b
    let ws := bbarDone s g.1 g.2
    if ws.isEmpty || !(billetCmds s.ladle k b).isEmpty || !(billetCmds s.trav k b).isEmpty ||
        s.pend.any (fun p => ts.contains p.tid) then idle "CHECKPOINT"
    else .next (takeCheckpoint (ws.foldl (fun s w => release s w.1 (wr32 w.2.1 w.2.2 false)) s) k)
  | _, _ => idle "CHECKPOINT"

/-! Assay pairs (R416, R417). -/

/-- The assay thread of a leader. -/
def assayOf (s : State) (t : Nat) : Option Nat :=
  (s.crews.find? fun e => e.2.leader == some (crewOf t)).map fun e => e.1 * 32 + laneOf t

/-- What a compare point is known by when a billet runs again. -/
def comparePoint (s : State) (t : Nat) : Nat × Nat × Nat :=
  ((s.crew (crewOf t)).number * 32 + laneOf t, (s.thr t).pc.toNat, (s.thr t).widx)

/-- R417: a mismatch rolls back; the second before the point is passed is lasting: the set is saved and restored on another cluster,
or its context ends where no slot is free (R420), and the core is retired then; in an irrevocable interval the context ends. -/
def mismatch (s : State) (k : Nat) (pt : Nat × Nat × Nat) : State :=
  let core := k / 4
  match s.billets.get? k with
  | none => s
  | some b =>
    let f := ((s.wps.get? b.wp).map Workpiece.tenant).getD 0
    let lasting (s : State) : State := s.postEvent f (recoveryRecord s 3 1 0 0 (whereUnit 1 core) 0)
    if !revocable s k then retireCore (lasting (ueccEnd s k 1 0)) 1 core
    else
      let s := rollback s k 2 1 0
      if b.missAt.isNone then s.updBillet k fun x => { x with missAt := some pt }
      else
        let s : State := { s with billets := s.billets.map fun e =>
          (e.1, if e.2.wp = b.wp ∧ e.2.set = b.set then { e.2 with avoid := some core, missAt := none } else e.2) }
        retireDoomed (evictSet ((lasting s).updCore core fun c => { c with doomed := true }) (b.wp, b.set))

/-- What one side of a pair has come to: nothing yet, its end, or a compare point. -/
def pairSide (s : State) (t : Nat) : Option (Option (List Nat × Option TrapInfo × Nat × Nat)) :=
  match (s.thr t).status with
  | .ended => some none
  | .assay d tr _ => some (some (d, tr, (s.thr t).pc.toNat, (s.thr t).widx))
  | _ => none

/-- A pair has passed a compare point with a match (R417). -/
def passPoint (s : State) (t : Nat) : State :=
  let pt := comparePoint s t
  s.updBillet (s.billetKey (crewOf t)) fun b => { b with missAt := if b.missAt = some pt then none else b.missAt }

/-- A pair has matched at a word: its threads run it. -/
def runPair (s : State) (t u : Nat) : State :=
  [t, u].foldl (fun s x => s.updThr x fun y =>
    { y with status := .ready, cmpOk := true, readyAt := (s.core (coreOf t)).gather, aged := false }) (passPoint s t)

/-- The leaders' threads that came to traps at the same word together with one, each with its assay thread. -/
def trapMates (s : State) (t since : Nat) : List (Nat × Nat × TrapInfo) :=
  let x := s.thr t
  s.threads.filterMap fun e =>
    match e.2.status with
    | .assay _ (some i) n =>
      if coreOf e.1 == coreOf t && e.2.pc == x.pc && e.2.widx == x.widx && n == since then (assayOf s e.1).map fun u => (e.1, u, i)
      else none
    | _ => none

/-- Pairs that met the same traps take them, together (R443); where a trap only lets its thread go on, the pair goes on. -/
def trapPairs (s : State) (ms : List (Nat × Nat × TrapInfo)) : State :=
  let s := ms.foldl (fun s m => (passPoint s m.1).updThr m.2.1 fun y => { y with status := .trapped m.2.2 }) s
  let s := raise s (ms.map fun m => (m.1, m.2.2))
  ms.foldl (fun s m =>
    match s.threads.get? m.1 with
    | some x => if x.status == .ready then s.updThr m.2.1 fun y => { y.goTo x.pc x.widx with status := .ready } else s
    | none => s) s

/-- ASSAY_COMPARE (R416): a leader's thread and its assay thread stand at compare points, or one has ended. -/
def execAssayCompare (t : Nat) (s : State) : Out :=
  match assayOf s t with
  | none => idle "ASSAY_COMPARE"
  | some u =>
    match pairSide s t, pairSide s u with
    | some (some x), some y =>
      if some x != y then .next (mismatch s (s.billetKey (crewOf t)) (comparePoint s t))
      else match x.2.1, (s.thr t).status with
        | some _, .assay _ _ since =>
          let ms := trapMates s t since
          if ms.all fun m => pairSide s m.1 == pairSide s m.2.1 then .next (trapPairs s ms) else idle "ASSAY_COMPARE"
        | _, _ => .next (runPair s t u)
    | some none, some (some _) => .next (mismatch s (s.billetKey (crewOf t)) (comparePoint s u))
    | _, _ => idle "ASSAY_COMPARE"

/-- ASSAY_TIMEOUT (R416): at a matrix word the assay thread has not come within the billet group's timeout. -/
def execAssayTimeout (t : Nat) (s : State) : Out :=
  match assayOf s t, (s.thr t).status with
  | some u, .assay _ _ since =>
    let k := s.billetKey (crewOf t)
    let limit := ((groupOfBillet s k).map fun g => g.2.timeout).getD 1000000
    let mtx := ((s.thr t).clause.map fun c => c.cls == .mtx).getD false
    if mtx && (pairSide s u).isNone && decide (since + limit ≤ s.time) then .next (mismatch s k (comparePoint s t))
    else idle "ASSAY_TIMEOUT"
  | _, _ => idle "ASSAY_TIMEOUT"

/-! Schedulers (R419). -/

/-- SCHEDULER_REBUILD (R419): the bundles of a cluster have drained; its threads are ready from now, and a second time within
the window retires its cores. -/
def execSchedulerRebuild (cl : Nat) (s : State) : Out :=
  if decide (64 ≤ cl) || s.bundles.any (fun b => b.1 / 8 == cl) then idle "SCHEDULER_REBUILD"
  else
    let key := errKey 0 cl 0
    let again := errCount s key != 0
    let s := noteError s key
    let s : State := { s with
      threads := s.threads.map fun e =>
        if coreOf e.1 / 4 = cl then (e.1, { e.2 with readyAt := (s.core (coreOf e.1)).gather, aged := false }) else e }
    let s := (tenantsAt s fun c => c / 4 == cl).foldl (fun s f =>
      s.postEvent f (recoveryRecord s 5 0 0 0 (whereWord (cl / 16) 0 (cl % 16)) 0)) s
    .next (if again then (List.range 4).foldl (fun s i => retireCore s 0 (4 * cl + i)) s else s)

/-- BARRIER_PARITY_ERROR (R419, R182). -/
def execBarrierParityError (g : Nat) (s : State) : Out :=
  if (s.group? g).isNone then idle "BARRIER_PARITY_ERROR" else .next (breakGroup s g)

end Sys2Proof.Machine
end

