-- ==== Sys2Proof/Machine/Ports.lean ====
section
/-!
DEFINITION. The Nymken ports of the part: their registers (R455), the writes to their slot tables (R457), and retraining (R458).
-/
namespace Sys2Proof.Machine

/-- The bits of a SLOT register that are not reserved (R455). -/
def slotMask : W64 := 0x833F833F833F833F

/-- A write to SLOT (R457): it collects in the shadow copy. -/
def writeSlot (s : State) (k : Nat) (v : W64) : State := { s with slotShadow := s.slotShadow.set k (v &&& slotMask) }

/-- A read of SLOT: what was last written (R438). -/
def readSlot (s : State) (k : Nat) : W64 := ((s.slotShadow.get? k).or (s.slotTab.get? k)).getD 0

/-- The window of 2^20 slots of 4 ns a tick of 10 ns falls in (R455). -/
def flitWindow (s : State) : Nat := s.time * 5 / 2 ^ 21

def Port.failed (x : Port) (now : Nat) : Nat := if x.window = now then x.uflits else 0

/-- PORTSTAT (R455). -/
def portStat (s : State) (p : Nat) : W64 :=
  let x := s.port p
  BitVec.ofNat 64 (x.state % 8 * 2 ^ 61 + x.svc % 256 * 2 ^ 40 + x.livew % 256 * 2 ^ 32 + x.drawer % 16 * 2 ^ 28 +
    x.dport % 64 * 2 ^ 22 + x.failed (flitWindow s))

/-- PORTCTL (R455). -/
def portCtl (s : State) (p : Nat) : W64 :=
  let x := s.port p
  BitVec.ofNat 64 (x.en.toNat * 2 ^ 31 + x.thresh % 65536)

/-- R458: a port that is up retrains. -/
def startRetrain (s : State) (p : Nat) : State :=
  if (s.port p).state = 2 then s.updPort p fun x => { x with state := 3, since := s.time, waiting := [] } else s

/-- SWAP (R457). -/
def askSwap (s : State) (p : Nat) : State := s.updPort p fun x => { x with swap := true }

/-- A write to PORTCTL (R455): EN brings a port that is down to training, and takes one out of use (log 57). -/
def writePortCtl (s : State) (p v : Nat) : State :=
  let en := v / 2 ^ 31 % 2 == 1
  let s := s.updPort p fun x =>
    { x with thresh := v % 65536, en := en,
             state := if x.state = 4 then 4 else if en then (if x.state = 0 then 1 else x.state) else 0 }
  let s := if v / 2 ^ 30 % 2 = 1 then askSwap s p else s
  if v / 2 ^ 29 % 2 = 1 then startRetrain s p else s

end Sys2Proof.Machine
end

