-- ==== Sys2Proof/Machine/Domain.lean ====
section
/-!
DEFINITION. The load-store domain as the part sees it: requests to drawers and their answers (R451 to R456), requests that
wait on a port (R458, R459), MCAS messages (R460), promotion (R461), slot tables (R457), domain time (R449) and drawers that
come and go (R222).
-/
namespace Sys2Proof.Machine

/-! Requests to drawers. -/

/-- The physical address, size and tenant of a request of an operation to memory. -/
def requestOf (p : Pend) : Option (Nat × Nat) :=
  match p.op with
  | .load a _ => if a.space = .global then some (a.pa, a.ctx / 16) else none
  | .store a _ _ => if a.space = .global then some (a.pa, a.ctx / 16) else none
  | .rmw a _ _ _ => if a.space = .global then some (a.pa, a.ctx / 16) else none
  | .cas a _ _ _ => if a.space = .global then some (a.pa, a.ctx / 16) else none
  | .pref line _ ctx => some (128 * line, ctx / 16)
  | _ => none

/-- Whether the part needs the drawer for an operation (R451, R452). -/
def needsDrawer (s : State) (p : Pend) : Bool :=
  match p.op with
  | .pref line proto _ => proto != 2 && asksDrawer s .read proto false line
  | op => match op.acc? with
    | some a => !linkDone s { p with link := 0 } a
    | none => false

/-- R458: a request completes as an uncorrectable error of kind 7: the billet whose register it was for consumes it (R414); a
handler thread ends the context it serves; one that no register waits for marks its line. -/
def linkError (s : State) (p : Pend) (pa : Nat) : State :=
  if p.op.readsData && (s.threads.get? p.tid).isSome then consumeFor s p 7 pa else dropOp (s.markBad (lineOf pa) 7) p.id

/-- DRAWER_REQUEST (R451, R454, R455): the request goes out on its port, waits while that retrains, or meets no port. -/
def execDrawerRequest (id : Nat) (s : State) : Out :=
  match s.pend? id with
  | none => idle "DRAWER_REQUEST"
  | some p =>
    match requestOf p with
    | none => idle "DRAWER_REQUEST"
    | some (pa, f) =>
      if !ready s p || !needsDrawer s p || p.link = 2 then idle "DRAWER_REQUEST"
      else
        match portFor s pa with
        | none =>
          if p.link < 3 || decide (p.link - 3 + 5000 ≤ s.time) then .next (linkError s p pa) else idle "DRAWER_REQUEST"
        | some q =>
          let x := s.port q
          if p.link = 1 then idle "DRAWER_REQUEST"
          else if x.state = 3 then
            if 3 ≤ p.link then idle "DRAWER_REQUEST"
            else
              .next ((s.updPend id fun y => { y with link := 3 + s.time }).updPort q fun y =>
                { y with waiting := (y.waiting ++ [(p.op.acc?.map Acc.ctx).getD (f * 16)]).dedup })
          else if !hasSlot s q 0 f 0 then idle "DRAWER_REQUEST"
          else .next (s.updPend id fun y => { y with link := 1 })

/-- DRAWER_RESPONSE (R455, R456): the answer arrives in a slot of its tenant. -/
def execDrawerResponse (id : Nat) (s : State) : Out :=
  match s.pend? id with
  | none => idle "DRAWER_RESPONSE"
  | some p =>
    match requestOf p with
    | none => idle "DRAWER_RESPONSE"
    | some (pa, f) =>
      match portFor s pa with
      | none => idle "DRAWER_RESPONSE"
      | some q =>
        if p.link = 1 ∧ (s.port q).state = 2 ∧ hasSlot s q 1 f 1 then
          let page := match p.op with
            | .pref _ proto ctx => (proto, ctx, false)
            | op => (op.acc?.map fun a : Acc => (a.proto, a.ctx, a.scope == Scope.dom)).getD (2, 0, false)
          .next (gainHold (s.updPend id fun y => { y with link := 2 }) p.op.ask page.1 page.2.1 page.2.2 (lineOf pa))
        else idle "DRAWER_RESPONSE"

/-- DRAWER_PROBE (R451, R238): the drawer recalls or invalidates the part's copy of a line; a lease first runs out. -/
def execDrawerProbe (line : Nat) (inval : Bool) (s : State) : Out :=
  let h := s.home line
  let up := (portsTo s (drawerOf (128 * line))).any fun p => (s.port p).state == 2
  if !isDrawerPa (128 * line) || !h.held || !up || h.lock.isSome || ownedLine s .global line ||
      decide (s.time < leaseEnd s line) then idle "DRAWER_PROBE"
  else
    let modified := match h.dir with | .m _ => true | .p _ => true | _ => false
    let merged := match h.dir with | .p _ => true | _ => false
    let s := if inval || merged then loseLine s line fun _ => true
      else if modified then rollWatched s line (fun _ => true) fun _ => true
      else s
    let s : State := { s with
      probes := s.probes.filter fun p => p.line != line
      pend := s.pend.map fun p => if p.link = 2 ∧ p.op.lines.contains (.global, line) then { p with link := 0 } else p
      copies := if inval then s.copies.filter fun e => e.1 % 2 ^ 45 != line else s.copies }
    .next (s.updHome line fun h =>
      if inval then { h with dir := .i, count := 0, copy := [], lmax := 0, l2 := false, dirty := none, hold := .no, dlease := 0 }
      else
        let h : HomeLine := { h with dirty := none, hold := if h.hold = .no then .no else .shared }
        match h.dir with
        | .m b => { h with dir := .s [b], copy := [] }
        | .p _ => { h with dir := .s [], count := 0, copy := [] }
        | _ => h)

/-! MCAS (R278, R459, R460). -/

/-- Whether a lock request for a line is refused: its port retrains, or there is none. -/
def linkStalled (s : State) (line : Nat) : Bool :=
  isDrawerPa (128 * line) &&
    (match portFor s (128 * line) with
     | none => true
     | some q => (s.port q).state == 3)

/-- MCAS_LOCK_TIMEOUT (R278, R459). -/
def execMcasLockTimeout (id : Nat) (s : State) : Out := mcasRetry id linkStalled s

/-- DRAWER_MCAS_MESSAGE (R460): the lock request and its grant travel in MCAS slots; on a stalled link the MCAS returns
retry. -/
def execDrawerMcasMessage (id : Nat) (s : State) : Out :=
  match s.pend? id with
  | none => idle "DRAWER_MCAS_MESSAGE"
  | some p =>
    match p.op with
    | .mcas a _ lines held _ dst =>
      match mcasNext lines held with
      | none => idle "DRAWER_MCAS_MESSAGE"
      | some l =>
        if !isDrawerPa (128 * l) || p.link = 2 || p.done || !ready s p then idle "DRAWER_MCAS_MESSAGE"
        else if linkStalled s l then .next (unlockAll (s.finish id (wr32 dst 0x200 false)) id)
        else
          match portFor s (128 * l) with
          | none => idle "DRAWER_MCAS_MESSAGE"
          | some q =>
            if hasSlot s q 0 (a.ctx / 16) 2 && hasSlot s q 1 (a.ctx / 16) 2 then
              .next (s.updPend id fun y => { y with link := 2 })
            else idle "DRAWER_MCAS_MESSAGE"
    | _ => idle "DRAWER_MCAS_MESSAGE"

/-! Promotion (R261, R461). -/

/-- Stores of the part on drawer lines that have not performed there. -/
def drawerOwed (s : State) : List Nat :=
  (s.pend.filter fun q => !q.done && (match q.op with
    | .store a _ _ => a.space == .global && isDrawerPa a.pa
    | _ => false)).map Pend.id

def revealAll (s : State) (ids : List Nat) : State :=
  ids.foldl (fun s i =>
    match s.pend? i with
    | some q => revealStore s q 5
    | none => s) s

/-- The narrow releases that an acquire would promote, forgotten at its bytes. -/
def forgetNarrow (s : State) (p : Pend) : State :=
  let keep (hs : List RelHead) : List RelHead := hs.filter fun h => shares h.level h.tid p.tid
  let on (sp : Space) (a : Nat) : Bool := p.op.ranges.any fun r => r.1 == sp && decide (r.2.1 ≤ a ∧ a < r.2.1 + r.2.2)
  { s with
    notes := s.notes.map fun n => if on n.space n.pa then { n with heads := keep n.heads } else n
    pend := s.pend.map fun q => if q.id != p.id && q.op.overlaps p.op then { q with heads := keep q.heads } else q }

/-- PROMOTION_REQUEST (R261, R461): the writes that a narrow release stands for become visible to every agent, for operation
`id`; or (0) the part answers the acquire of another part at a drawer, once its writes there have performed.  A link that
retrains holds it up; with no port to the drawer it completes with no write-back. -/
def execPromotionRequest (id : Nat) (s : State) : Out :=
  if id = 0 then
    if (drawerOwed s).isEmpty then .next s else idle "PROMOTION_REQUEST"
  else
    match s.pend? id with
    | none => idle "PROMOTION_REQUEST"
    | some p =>
      let ids := promotionOwed s p
      match p.op.acc? with
      | none => idle "PROMOTION_REQUEST"
      | some a =>
        if ids.isEmpty then idle "PROMOTION_REQUEST"
        else if !(isDrawerPa a.pa && a.scope == .dom) then .next (revealAll s ids)
        else
          match portFor s a.pa with
          | none => .next (forgetNarrow s p)
          | some q => if (s.port q).state = 3 then idle "PROMOTION_REQUEST" else .next (revealAll s ids)

/-! Ports. -/

/-- FLIT_CHECK_FAIL (R453, R455, R458): the flit is resent; its window counts it, and more than THRESH start retraining. -/
def execFlitCheckFail (p : Nat) (s : State) : Out :=
  let x := s.port p
  if 16 ≤ p ∨ x.state ≠ 2 then idle "FLIT_CHECK_FAIL"
  else
    let w := flitWindow s
    let n := min 65535 (x.failed w + 1)
    let s := s.updPort p fun x => { x with uflits := n, window := w }
    .next (if max 1 x.thresh < n then startRetrain s p else s)

/-- Requests that were routed to a port go out again: those it had not answered, and those that wait. -/
def resend (s s' : State) (p : Nat) (drop : Bool) : State :=
  { s' with pend := s'.pend.map fun y =>
      match requestOf y with
      | none => y
      | some (pa, _) =>
        if y.link = 0 ∨ y.link = 2 ∨ portFor s pa ≠ some p then y
        else if (portsTo s' (drawerOf pa)).isEmpty then { y with link := if 3 ≤ y.link then y.link else 3 + s.time }
        else if 3 ≤ y.link ∨ drop then { y with link := 0 } else y }

/-- PORT_RETRAIN_END (R458): retraining succeeds within 4,000 ticks, or the port is retired. -/
def execPortRetrainEnd (p : Nat) (ok : Bool) (s : State) : Out :=
  let x := s.port p
  if 16 ≤ p ∨ x.state ≠ 3 ∨ (ok = true ∧ x.since + 4000 < s.time) then idle "PORT_RETRAIN_END"
  else
    let s' := s.updPort p fun x =>
      { x with state := if ok then 2 else 4, uflits := 0,
               stall := if x.waiting.isEmpty then none else some (s.time - x.since, !ok) }
    .next (resend s s' p (!ok))

/-- LINK_STALL_END (R459): a LINKSTALL record for each context that had a waiting request. -/
def execLinkStallEnd (p : Nat) (s : State) : Out :=
  let x := s.port p
  match x.stall with
  | none => idle "LINK_STALL_END"
  | some (len, retired) =>
    let i : TrapInfo := { trap := .linkstall, detail := p % 16 + 16 * retired.toNat + 65536 * min 65535 len }
    .next ((x.waiting.foldl (fun s c => asyncTrap s c i 0) s).updPort p fun y => { y with waiting := [], stall := none })

/-- SLOT_TABLE_SWAP_APPLY (R457): the written tables of both directions of a port come into force. -/
def execSlotTableSwapApply (p : Nat) (s : State) : Out :=
  if 16 ≤ p ∨ (s.port p).swap = false then idle "SLOT_TABLE_SWAP_APPLY"
  else
    let mine (k : Nat) : Bool := decide (64 * p ≤ k ∧ k < 64 * p + 64)
    let s : State := { s with
      slotTab := (s.slotShadow.filter fun e => mine e.1).foldl (fun m e => Map.set m e.1 e.2) s.slotTab }
    .next (s.updPort p fun x => { x with swap := false })

/-- PORTCTL_SWAP (R457): firmware asks for the written tables of a port. -/
def execPortctlSwap (p : Nat) (s : State) : Out :=
  if 16 ≤ p then idle "PORTCTL_SWAP" else .next (askSwap s p)

/-- PORTCTL_RETRAIN (R458): firmware retrains a port that is up. -/
def execPortctlRetrain (p : Nat) (s : State) : Out :=
  if 16 ≤ p ∨ (s.port p).state ≠ 2 then idle "PORTCTL_RETRAIN" else .next (startRetrain s p)

/-- PORT_TRAINING_COMPLETE (R458): a port that firmware brings up enters L_n. -/
def execPortTrainingComplete (p : Nat) (s : State) : Out :=
  if 16 ≤ p ∨ (s.port p).state ≠ 1 then idle "PORT_TRAINING_COMPLETE"
  else .next (s.updPort p fun x => { x with state := 2, uflits := 0 })

/-! Domain time and drawers. -/

/-- DOMAIN_TIME_SLEW (R449): every 1,024 ticks the count, `fast` or `slow` by so many ticks, moves by at most one. -/
def execDomainTimeSlew (fast slow : Nat) (s : State) : Out :=
  if s.time % 1024 ≠ 0 ∨ s.slewAt = some s.time ∨ s.refDrawer.isNone then idle "DOMAIN_TIME_SLEW"
  else
    let s' : State := { s with slewAt := some s.time }
    .next (if slow < fast then { s' with hold := s.hold + 1 }
      else if fast < slow then { s' with time := s.time + 1 } else s')

/-- The drawers of the domain, ascending. -/
def drawersOf (s : State) : List Nat := (List.range 16).filter fun n => ((s.drwSize.get? n).getD 0) != 0

/-- A drawer leaves: DRWSIZE reads 0 and the part holds none of its lines. -/
def drawerGone (s : State) (n : Nat) : State :=
  let gone (l : Nat) : Bool := isDrawerPa (128 * l) && drawerOf (128 * l) == n
  let ls := (s.homes.filter fun h => gone h.1).map Prod.fst
  let s := ls.foldl (fun s l => loseLine s l fun _ => true) s
  { s with
    drwSize := s.drwSize.set n 0
    homes := s.homes.filter fun h => !gone h.1
    copies := s.copies.filter fun e => !gone (e.1 % 2 ^ 45)
    probes := s.probes.filter fun p => !gone p.line }

/-- REFERENCE_CHANGE (R449): the reference drawer leaves, and the next lowest-numbered takes over. -/
def execReferenceChange (s : State) : Out :=
  match s.refDrawer with
  | none => idle "REFERENCE_CHANGE"
  | some n =>
    let s := drawerGone s n
    .next { s with refDrawer := (drawersOf s).head? }

/-- DRAWER_LEAVES_DOMAIN (R222): a drawer other than the reference leaves (size 0) or joins; the lowest-numbered is the reference
(R449). -/
def execDrawerLeavesDomain (n size : Nat) (s : State) : Out :=
  let old := (s.drwSize.get? n).getD 0
  if 16 ≤ n ∨ s.refDrawer = some n ∨ (old = 0) = (size = 0) ∨ 2 ^ 44 < size then idle "DRAWER_LEAVES_DOMAIN"
  else if size = 0 then .next (drawerGone s n)
  else
    let s : State := { s with drwSize := s.drwSize.set n (BitVec.ofNat 64 size) }
    .next { s with refDrawer := (drawersOf s).head? }

end Sys2Proof.Machine
end

