-- ==== Sys2Proof/Machine/SysRegs.lean ====
section
/-!
DEFINITION. The system registers (R439 to R442, R233 to R235, R455): their reads and writes, the threads a target names
(R422), the debug window (R441), and the trap ring as its reader changes it (R403).
-/
namespace Sys2Proof.Machine

/-! Targets (R422). -/

/-- Whether a workpiece is the one a target names in a context. -/
def wpNamed (s : State) (c tgt w : Nat) : Bool :=
  (s.wps.get? w).any fun x => x.ctx == c && x.ident.toNat == tgt / 2 ^ 32 % 2 ^ 32

/-- The resident billet a target names. -/
def targetBillet (s : State) (c tgt : Nat) : Option (Nat × Billet) :=
  s.billets.find? fun e => wpNamed s c tgt e.2.wp && e.2.index == tgt % 2 ^ 24

/-- The crews a target names, an assay crew after its leader (R416). -/
def targetCrews (s : State) (c tgt : Nat) : List Nat :=
  match targetBillet s c tgt with
  | none => []
  | some e => (e.2.crews ++ e.2.assay).filter fun k => (s.crew k).number == tgt / 2 ^ 24 % 16

/-- The lanes of those crews under a mask that hold a live thread. -/
def targetThreads (s : State) (c tgt : Nat) (mask : W32) : List Nat :=
  (targetCrews s c tgt).flatMap fun k => (crewTids k).filter fun t =>
    mask.getLsbD (laneOf t) && (s.threads.get? t).any fun x => x.status != .ended

/-- The saved billet a target names, with its set. -/
def savedBillet (s : State) (c tgt : Nat) : Option (SavedSet × SavedBillet) :=
  s.saved.findSome? fun v =>
    if wpNamed s c tgt v.wp then (v.billets.find? fun b => b.billet.index == tgt % 2 ^ 24).map fun b => (v, b) else none

/-- The crews of it that a target names, as they were numbered. -/
def savedCrews (b : SavedBillet) (tgt : Nat) : List Nat :=
  (b.billet.crews ++ b.billet.assay).filter fun k => (b.crews.get? k).any fun x => x.number == tgt / 2 ^ 24 % 16

def savedThreads (b : SavedBillet) (tgt : Nat) (mask : W32) : List Nat :=
  (savedCrews b tgt).flatMap fun k => (crewTids k).filter fun t =>
    mask.getLsbD (laneOf t) && (b.threads.get? t).any fun x => x.status != .ended

/-- The address of a lane's state word in a saved section (R409). -/
def SavedBillet.laneWord (b : SavedBillet) (t : Nat) : Option Nat :=
  let cs := b.billet.crews ++ b.billet.assay
  (cs.findIdx? fun k => k == crewOf t).map fun i =>
    b.base + 0x100 + (((cs.take i).map fun k => 0x800 + 132 * ((b.crews.get? k).getD {}).budget).foldl (· + ·) 0) + 0x100 +
      4 * laneOf t

/-- Requests to a saved set wait for its restore. -/
def addLater (s : State) (uid : Nat) (ls : List Later) : State :=
  { s with saved := s.saved.map fun v => if v.uid = uid then { v with later := v.later ++ ls } else v }

/-! The debug window (R441). -/

/-- The thread DBGSEL and DBGLANE name: resident, saved, or none. -/
inductive DbgThread where
  | here (t : Nat)
  | saved (x : Thread)
  | none

def dbgThread (s : State) (c : Nat) : DbgThread :=
  let x := s.ctx c
  let lane := x.dbgLane.toNat % 32
  let live (t : Thread) : Bool := t.status != .ended
  match (targetCrews s c x.dbgSel.toNat).head? with
  | some k => if (s.threads.get? (k * 32 + lane)).any live then .here (k * 32 + lane) else .none
  | none =>
    match savedBillet s c x.dbgSel.toNat with
    | none => .none
    | some (_, b) =>
      match ((savedCrews b x.dbgSel.toNat).head?).bind fun k => b.threads.get? (k * 32 + lane) with
      | some t => if live t then .saved t else .none
      | none => .none

/-- STOP (R440): trapped, suspended or held. -/
def Thread.stopped (t : Thread) : Bool :=
  t.suspended || (match t.status with | .trapped _ => true | .held _ => true | _ => false)

/-- DBGSTAT (R440). -/
def dbgStat (s : State) (c : Nat) : W32 :=
  match dbgThread s c with
  | .here t => if (s.thr t).stopped then 1 else 0
  | .saved t => if t.stopped then 3 else 2
  | .none => 4

/-- Whether the thread of the debug window still has earlier operations under way (R46). -/
def dbgBusy (s : State) (c : Nat) : Bool :=
  match dbgThread s c with
  | .here t => (s.thr t).stopped && !s.drained t
  | _ => false

/-- DBGDATA as read (R441): 0 where the item is not listed or the thread is not stopped here. -/
def dbgRead (s : State) (c : Nat) : W32 :=
  match dbgThread s c with
  | .here t =>
    let x := s.thr t
    let k := s.crew (crewOf t)
    let i := (s.ctx c).dbgIdx.toNat % 1024
    if !x.stopped then 0
    else if i < 0xE0 then (if i < k.budget then x.vReg i else 0)
    else if i ≤ 0xFE then (k.s.get? (i - 0xE0)).getD 0
    else if i = 0x100 then x.pc.extractLsb' 0 32
    else if i = 0x101 then (x.pc.extractLsb' 32 25).zeroExtend 32
    else if i = 0x102 then x.p.zeroExtend 32
    else if 0x200 ≤ i ∧ i < 0x2E0 ∧ i - 0x200 < k.budget then (if x.poison.contains (i - 0x200) then 1 else 0)
    else 0
  | _ => 0

/-- A write to DBGDATA (R441). -/
def dbgWrite (s : State) (c : Nat) (v : W32) : State :=
  match dbgThread s c with
  | .here t =>
    let x := s.thr t
    let k := s.crew (crewOf t)
    let i := (s.ctx c).dbgIdx.toNat % 1024
    let unit (n : Nat) : State := s.journal (s.billetKey (crewOf t)) (.reg (crewOf t) n)
    let setPc (pc : BitVec 57) : State :=
      s.updThr t fun y => { y with pc := pc, widx := 0, clause := none, pcWritten := y.trap?.isSome }
    if !x.stopped then s
    else if i < 0xE0 then
      (if i < k.budget then (unit i).updThr t fun y => { y with v := Map.set y.v i v } else s)
    else if i ≤ 0xFE then s.updCrew (crewOf t) fun y => { y with s := Map.set y.s (i - 0xE0) v }
    else if i = 0x100 then setPc (x.pc.extractLsb' 32 25 ++ (v.extractLsb' 3 29 ++ (0 : BitVec 3)))
    else if i = 0x101 then setPc (v.extractLsb' 0 25 ++ x.pc.extractLsb' 0 32)
    else if i = 0x102 then s.updThr t fun y => { y with p := v.extractLsb' 0 7 }
    else if 0x200 ≤ i ∧ i < 0x2E0 ∧ i - 0x200 < k.budget then
      let n := i - 0x200
      (unit n).updThr t fun y =>
        { y with poison := (y.poison.filter fun m => m != n) ++ (if v.getLsbD 0 then [n] else []) }
    else s
  | _ => s

/-! The trap ring as software reads it (R403). -/

/-- The records that wait are written as space appears; one that cannot be written ends the context of its thread, or is
dropped. -/
def flushTraps (c : Nat) (s : State) : Nat → State
  | 0 => s
  | n + 1 =>
    match (s.ctx c).waiting with
    | [] => s
    | r :: rest =>
      if 1024 < (s.ctx c).trapUsed + r.entries.length then s
      else if (trapWriteAll s c r.entries).isSome then flushTraps c (trapFlush c s 1) n
      else if r.tid.isSome then terminateCtx s c (r.bytes.headD 0).toNat
      else flushTraps c (s.updCtx c fun x => { x with waiting := rest }) n

def setTrapHead (s : State) (c : Nat) (v : W32) : State :=
  let s := s.updCtx c fun x =>
    { x with trapHead := v
             served := x.served.filter fun r => decide ((BitVec.ofNat 32 r.1 - v).toNat < (x.trapTail - v).toNat) }
  flushTraps c s ((s.ctx c).waiting.length + 1)

/-! Context registers. -/

/-- A read of a context register (R439, R440). -/
def readCtxReg (s : State) (c n : Nat) : W64 :=
  let x := s.ctx c
  let w (v : W32) : W64 := v.zeroExtend 64
  match n with
  | 0x00 => BitVec.ofNat 64 (c % 65536)
  | 0x01 => w x.ctl
  | 0x02 => x.root
  | 0x03 => x.handler
  | 0x04 => x.trapBase
  | 0x05 => w x.trapHead
  | 0x06 => w x.trapTail
  | 0x07 => x.surfTab
  | 0x08 => w x.lease
  | 0x09 => x.stack
  | 0x0A => x.saveBase
  | 0x0B => w x.saveCfg
  | 0x0C => x.saveUse
  | 0x10 => x.bp.getD 0 0
  | 0x11 => x.bp.getD 1 0
  | 0x12 => x.bp.getD 2 0
  | 0x13 => x.bp.getD 3 0
  | 0x14 => x.wpt.getD 0 0
  | 0x15 => x.wpt.getD 1 0
  | 0x16 => x.wpt.getD 2 0
  | 0x17 => x.wpt.getD 3 0
  | 0x18 => x.dbgSel
  | 0x19 => w x.dbgLane
  | 0x1A => w x.dbgIdx
  | 0x1B => w (dbgRead s c)
  | 0x1C => w (dbgStat s c)
  | _ => 0

/-- An invalidation of translations begins (R439, R440): `id` waits for it. -/
def startInval (s : State) (c id : Nat) (v : W64) : State :=
  s.updCtx c fun x =>
    { x with inval := x.inval ++ [(id, if v.getLsbD 0 then none else some ((pc64 (v.extractLsb' 0 57)).toNat / 4096 * 4096))] }

/-- R411: without JEN no interval of the context is revocable. -/
def endJournals (s : State) (c : Nat) : State :=
  ((s.billets.filter fun e => (s.wps.get? e.2.wp).any fun w => w.ctx == c).map Prod.fst).foldl State.irrevocable s

/-- A write of a context register (R439, R440, R442); `host` may also set CTXCTL.SYS (R468). Reserved and read-only fields
stay. -/
def writeCtxReg (s : State) (c n id : Nat) (host : Bool) (v : W64) : State :=
  let lo : W32 := v.extractLsb' 0 32
  let up (f : Context → Context) : State := s.updCtx c f
  match n with
  | 0x01 =>
    let s := up fun x => { x with ctl := (if host then lo &&& 0x17 else (x.ctl &&& 0x10) ||| (lo &&& 7)) }
    if lo.getLsbD 2 then s else endJournals s c
  | 0x02 => up fun x => { x with root := v }
  | 0x03 => up fun x => { x with handler := v }
  | 0x04 => up fun x => { x with trapBase := v }
  | 0x05 => setTrapHead s c lo
  | 0x07 => up fun x => { x with surfTab := v }
  | 0x08 => up fun x => { x with lease := lo &&& 0x1FFF }
  | 0x09 => up fun x => { x with stack := v &&& 0x01FFFFFFFFFF000F }
  | 0x0A => up fun x => { x with saveBase := v }
  | 0x0B => up fun x => { x with saveCfg := lo }
  | 0x0D => startInval s c id v
  | 0x10 => up fun x => { x with bp := x.bp.set 0 (v &&& 0x81FFFFFFFFFFFFFF) }
  | 0x11 => up fun x => { x with bp := x.bp.set 1 (v &&& 0x81FFFFFFFFFFFFFF) }
  | 0x12 => up fun x => { x with bp := x.bp.set 2 (v &&& 0x81FFFFFFFFFFFFFF) }
  | 0x13 => up fun x => { x with bp := x.bp.set 3 (v &&& 0x81FFFFFFFFFFFFFF) }
  | 0x14 => up fun x => { x with wpt := x.wpt.set 0 v }
  | 0x15 => up fun x => { x with wpt := x.wpt.set 1 v }
  | 0x16 => up fun x => { x with wpt := x.wpt.set 2 v }
  | 0x17 => up fun x => { x with wpt := x.wpt.set 3 v }
  | 0x18 => up fun x => { x with dbgSel := v }
  | 0x19 => up fun x => { x with dbgLane := lo &&& 0x1F }
  | 0x1A => up fun x => { x with dbgIdx := lo &&& 0x3FF }
  | 0x1B => dbgWrite s c lo
  | _ => s

/-! Registers of the part. -/

/-- Which register of a die a number of 0x0200 to 0x02FF names: L2CFG, or register k of range n (R439). -/
def readDieReg (s : State) (n : Nat) : W64 :=
  let die := n / 64 % 4
  let k := n % 64
  if k = 0 then ((s.l2cfg.get? die).getD 0).zeroExtend 64
  else
    let r := die * 16 + (k - 1) / 3
    match (k - 1) % 3 with
    | 0 => (s.rngBase.get? r).getD 0
    | 1 => (s.rngLim.get? r).getD 0
    | _ =>
      let ctl := (s.rngCtl.get? r).getD 0
      let err := ctl.getLsbD 31 && !rangeActive s die ((k - 1) / 3)
      (ctl ||| (if err then 0x40000000 else 0)).zeroExtend 64

def writeDieReg (s : State) (n : Nat) (v : W64) : State :=
  let die := n / 64 % 4
  let k := n % 64
  if k = 0 then shrinkWays { s with l2cfg := s.l2cfg.set die ((v.extractLsb' 0 32) &&& 0xF) } die
  else
    let r := die * 16 + (k - 1) / 3
    match (k - 1) % 3 with
    | 0 => { s with rngBase := s.rngBase.set r (v &&& 0x000FFFFFFFFF0000) }
    | 1 => { s with rngLim := s.rngLim.set r (v &&& 0x000FFFFFFFFF0000) }
    | _ => { s with rngCtl := s.rngCtl.set r ((v.extractLsb' 0 32) &&& 0x81FFFFFF) }

/-- SYSR (R438): the value of a listed register, for a served context. -/
def readSysReg (s : State) (c n : Nat) : W64 :=
  if n < 0x100 then readCtxReg s c n
  else if n = 0x100 then (s.ctx c).pmargin.zeroExtend 64
  else if n = 0x101 then s.ctxSel.zeroExtend 64
  else if n < 0x300 then readDieReg s n
  else if n = 0x800 then s.capCores.zeroExtend 64
  else if n = 0x801 then s.capSlices.zeroExtend 64
  else if n = 0x802 then s.capChan.zeroExtend 64
  else if n = 0x803 then s.capWaves.zeroExtend 64
  else if n < 0x1000 then (s.drwSize.get? (n - 0x804)).getD 0
  else if n < 0x1400 then readSlot s (n - 0x1000)
  else if n < 0x1410 then portCtl s (n - 0x1400)
  else portStat s (n - 0x1410)

/-- SYSW (R438): the write of a listed register; `id` is the operation that waits for a translation invalidation. -/
def writeSysReg (s : State) (c n id : Nat) (v : W64) : State :=
  if n < 0x100 then writeCtxReg s c n id false v
  else if n = 0x100 then s.updCtx c fun x => { x with pmargin := v.extractLsb' 0 32 }
  else if n = 0x101 then { s with ctxSel := v.extractLsb' 0 32 &&& 0xFFFF }
  else if n < 0x300 then writeDieReg s n v
  else if n < 0x1000 then s
  else if n < 0x1400 then writeSlot s (n - 0x1000) v
  else if n < 0x1410 then writePortCtl s (n - 0x1400) v.toNat
  else s

end Sys2Proof.Machine
end

