-- ==== Sys2Proof/Machine/System.lean ====
section
/-!
DEFINITION. The trap, system and debug instructions (R422 to R438).
-/
namespace Sys2Proof.Machine

/-! What they share. -/

/-- The served context (R422): that of CTXSEL for the hub controller's thread, else that of the handler crew. -/
def served (s : State) (t : Nat) : Nat :=
  if (s.crew (crewOf t)).priv = 0 then s.ctxSel.toNat % 65536 else s.ctxOf (crewOf t)

/-- A V* word that is complete: it signals its counter, if it names one. -/
def signal (s : State) (t : Nat) (h : Head) : State := if h.dc.val = 0 then s else s.addValue t h.dc.val []

/-- A word of group 7 that acts lane by lane, each with the operands and the served context from before the word; a poisoned
operand traps (R392). -/
def sysWord (h : Head) (regs : List (Reg × Nat)) (var : Bool) (settle : Option Nat) (act : State → State → Nat → State)
    (s : State) : Out :=
  issueWord s h { group := 7, regs := regs, var := var, wait := true, priv := 1, settle := settle } fun s ts =>
    let good := ts.filter fun t => (consumed s t regs).isNone
    { s := good.foldl (fun s' t => act s s' t) s,
      traps := ts.filterMap fun t => (consumed s t regs).map fun i => (t, i) }

def target (s : State) (t : Nat) (a : Reg) : Nat := (s.r64 t a).toNat

/-! Traps and resumption. -/

/-- The trap of TRAP and BRK at their word (R423). -/
def trapWord (h : Head) (i : TrapInfo) (s : State) : Out :=
  issueWord s h { group := 7, anyClass := true, wait := true } fun s ts => { s := s, traps := ts.map fun t => (t, i) }

/-- TRAP (R423). -/
def execTrap (h : Head) (imm : BitVec 32) (s : State) : Out := trapWord h { trap := .swtrap, detail := imm.toNat } s

/-- BRK (R423). -/
def execBrk (h : Head) (imm : BitVec 32) (s : State) : Out := trapWord h { trap := .brk, detail := imm.toNat } s

/-- R424, R405: the named lanes that are trapped resume, or will when their set is restored. -/
def rteAll (s : State) (c tgt : Nat) (mask : W32) (next step : Bool) : State :=
  let s := (targetThreads s c tgt mask).foldl (fun s t => resumeThread s t next step) s
  match savedBillet s c tgt with
  | some (v, b) => addLater s v.uid ((savedThreads b tgt mask).map fun t => .rte t next step)
  | none => s

/-- RTE (R424). -/
def execRte (h : Head) (nxt : Bool) (a : Reg) (b : OpB) (s : State) : Out :=
  sysWord h ((a, 2) :: b.regs 1) false none (fun s s' t => rteAll s' (served s t) (target s t a) (s.b32 t b) nxt false) s

/-- RTE.STEP (R424, R425). -/
def execRteStep (h : Head) (nxt : Bool) (a : Reg) (b : OpB) (s : State) : Out :=
  sysWord h ((a, 2) :: b.regs 1) false none (fun s s' t => rteAll s' (served s t) (target s t a) (s.b32 t b) nxt true) s

/-! Stopping and ending threads. -/

/-- R426: the suspend flag of lanes of a saved billet, in what the part holds and in the lane state words of its section. -/
def suspendSaved (s : State) (c : Nat) (v : SavedSet) (b : SavedBillet) (ts : List Nat) (on : Bool) : State :=
  let s : State := { s with saved := s.saved.map fun y =>
    if y.uid != v.uid then y
    else { y with billets := y.billets.map fun z =>
      if z.key != b.key then z
      else { z with threads := z.threads.map fun e => (e.1, if ts.contains e.1 then { e.2 with suspended := on } else e.2) } } }
  ts.foldl (fun s t =>
    match b.laneWord t with
    | none => s
    | some a =>
      match translate s c 1 .write (a % 2 ^ 64) with
      | .ok pa _ _ =>
        let x := Memory.read s.mem pa
        performWrite s pa [if on then x ||| 16 else x &&& ~~~16] engineTid
      | _ => s) s

/-- R426: the suspend flag of the named lanes; joins of their crews are looked at again (R162). -/
def suspendAll (s : State) (c tgt : Nat) (mask : W32) (on : Bool) : State :=
  let ts := targetThreads s c tgt mask
  let s := ts.foldl (fun s t => s.updThr t fun x => { x with suspended := on }) s
  let s := ((ts.map crewOf).dedup).foldl evalJoin s
  match savedBillet s c tgt with
  | some (v, b) => suspendSaved s c v b (savedThreads b tgt mask) on
  | none => s

/-- SUSPEND (R426). -/
def execSuspend (h : Head) (a : Reg) (b : OpB) (s : State) : Out :=
  sysWord h ((a, 2) :: b.regs 1) true none
    (fun s s' t => signal (suspendAll s' (served s t) (target s t a) (s.b32 t b) true) t h) s

/-- RESUME (R426). -/
def execResume (h : Head) (a : Reg) (b : OpB) (s : State) : Out :=
  sysWord h ((a, 2) :: b.regs 1) true none
    (fun s s' t => signal (suspendAll s' (served s t) (target s t a) (s.b32 t b) false) t h) s

/-- R427, R182: the named lanes end as killed threads. -/
def killAll (s : State) (c tgt : Nat) (mask : W32) : State :=
  let ts := targetThreads s c tgt mask
  let s := if ts.isEmpty then s else endThreads s ts true
  match savedBillet s c tgt with
  | some (v, b) => addLater s v.uid ((savedThreads b tgt mask).map .kill)
  | none => s

/-- KILLCREW (R427): the named lanes end, or the served context is terminated. -/
def execKillcrew (h : Head) (ctx : Bool) (a : Reg) (b : OpB) (s : State) : Out :=
  if ctx then sysWord h [] true none (fun s s' t => signal (terminateCtx s' (served s t) 0) t h) s
  else sysWord h ((a, 2) :: b.regs 1) true none
    (fun s s' t => signal (killAll s' (served s t) (target s t a) (s.b32 t b)) t h) s

/-! Debug mailbox and trap ring. -/

/-- Mailbox messages wholly written complete their DBGMB (R428). -/
def mailDone (s : State) (f : Nat) : State :=
  { s with pend := s.pend.map fun p =>
      if p.op == .unit 0 && p.link == f + 1 && !((s.tenant f).dm.held.any fun e => e.1 == p.id) then { p with done := true } else p }

/-- DBGMB for a crew: the message of R428, and the operation that waits until it is written. -/
def dbgmbLane (s : State) (t : Nat) (h : Head) (c tgt : Nat) (mask tag : W32) : State :=
  let msg : Option (List Byte) :=
    match (targetCrews s c tgt).head? with
    | some k => some (debugMessage s k tgt mask tag)
    | none => (savedBillet s c tgt).bind fun vb => ((savedCrews vb.2 tgt).head?).map fun k =>
        debugMessage { s with threads := vb.2.threads } k tgt mask tag
  match msg with
  | none => signal s t h
  | some m =>
    let id := s.seq
    let s := if h.dc.val = 0 then s else
      let s := s.addOp t h.dc.val (.unit 0) []
      s.updPend id fun p => { p with link := c / 16 + 1 }
    mailDone (s.postMailbox (c / 16) id m) (c / 16)

/-- DBGMB (R428). -/
def execDbgmb (h : Head) (a : Reg) (b : OpB) (c : Reg) (s : State) : Out :=
  sysWord h ((a, 2) :: b.regs 1 ++ [(c, 1)]) true none
    (fun s s' t => dbgmbLane s' t h (served s t) (target s t a) (s.b32 t b) (s.r32 t c)) s

/-- The bytes of the record at the head of a trap ring; a place that is not readable reads as a free value (log 58). -/
def headRecord (s : State) (c : Nat) : List Byte :=
  let x := s.ctx c
  let va := x.trapBase.toNat + 64 * (x.trapHead.toNat % 1024)
  (List.range 64).map fun j =>
    match translate s c 1 .read ((va + j) % 2 ^ 64) with
    | .ok pa _ _ => Memory.read s.mem pa
    | _ => BitVec.ofNat 8 (Config.pick s.fresh va j)

/-- Whether the thread of the record at the head of a trap ring still has earlier operations under way (R46). -/
def headBusy (s : State) (c : Nat) : Bool :=
  let x := s.ctx c
  x.trapHead != x.trapTail && x.served.any fun r => BitVec.ofNat 32 r.1 == x.trapHead &&
    (match r.2.2 with | some t => !s.drained t | none => false)

/-- TREC for a lane (R429). -/
def trecLane (s : State) (t : Nat) (h : Head) (c : Nat) (pd : Fin 8) (d : Reg) : State :=
  let x := s.ctx c
  if x.trapHead = x.trapTail then s.addValue t h.dc.val (wrP pd.val false false)
  else
    let bs := headRecord s c
    let ws := (List.range 15).map fun j => BitVec.ofNat 32 (ofBytes ((bs.drop (4 * j)).take 4))
    let n := ofBytes ((bs.drop 44).take 4) / 64
    let s := s.addValue t h.dc.val
      (wrN d (ws ++ [BitVec.ofNat 32 (x.trapHead.toNat % 1024)]) false ++ wrP pd.val true false)
    setTrapHead s c (x.trapHead + 1 + BitVec.ofNat 32 n)

/-- TREC (R429). -/
def execTrec (h : Head) (pd : Fin 8) (d : Reg) (s : State) : Out :=
  issueWord s h { group := 7, regs := [(d, 16)], dsts := [d], pdst := some pd, var := true, wait := true, priv := 1 } fun s ts =>
    if ts.any fun t => headBusy s (served s t) then { s := s, stall := true }
    else { s := ts.foldl (fun s' t => trecLane s' t h (served s t) pd d) s }

/-! Journal, watchdog, caches, time, interrupts, counters. -/

/-- JRNL on the billet a target names (R430). -/
def jrnlBillet (s : State) (c tgt : Nat) (roll : Bool) : State :=
  match targetBillet s c tgt with
  | some e =>
    if !roll then s.irrevocable e.1
    else if revocable s e.1 then rollback s e.1 1 0 0
    else s
  | none =>
    match savedBillet s c tgt with
    | some (v, b) => addLater s v.uid [.jrnl b.key roll]
    | none => s

/-- JRNL (R430). -/
def execJrnl (h : Head) (roll : Bool) (a : Reg) (s : State) : Out :=
  sysWord h [(a, 2)] true none (fun s s' t => signal (jrnlBillet s' (served s t) (target s t a) roll) t h) s

/-- R431: a new timeout; a running timer restarts, a broken instance is unchanged. -/
def Group.watch (g : Group) (now timeout : Nat) : Group :=
  if g.broken then g
  else
    let g := { g with timeout := if timeout = 0 then 1000000 else timeout }
    if g.first.isNone then g
    else { g with start := now, paused := 0, pausedAt := g.pausedAt.map fun _ => now }

/-- Whether an instance is the one a handle names for a crew, or its billet group. -/
def Group.named (g : Group) (k number hn : Nat) (ofBillet : Bool) : Bool :=
  g.members.contains (k, number) && (if ofBillet then g.entry == 0xFFFF else g.entry != 0xFFFF && g.handle == hn)

/-- WDOG on the group instance of a crew (R431). -/
def wdogGroup (s : State) (c tgt hn : Nat) (ofBillet : Bool) (timeout : Nat) : State :=
  match targetBillet s c tgt with
  | some e =>
    match ((targetCrews s c tgt).head?).bind fun k =>
        (crewGroups s k).find? fun g => g.2.named e.1 (s.crew k).number hn ofBillet with
    | some g => s.updGroup g.1 fun x => x.watch s.time timeout
    | none => s
  | none =>
    match savedBillet s c tgt with
    | none => s
    | some (v, b) =>
      { s with saved := s.saved.map fun y =>
          if y.uid != v.uid then y
          else { y with billets := y.billets.map fun z =>
            { z with groups := z.groups.map fun g =>
              if !(savedCrews b tgt).isEmpty && g.2.named b.key (tgt / 2 ^ 24 % 16) hn ofBillet then
                (g.1, g.2.watch s.time timeout) else g } } }

/-- WDOG (R431). -/
def execWdog (h : Head) (hn : Fin 4) (ofBillet : Bool) (a b : Reg) (s : State) : Out :=
  sysWord h [(a, 2), (b, 1)] false none
    (fun s s' t => wdogGroup s' (served s t) (target s t a) hn.val ofBillet (s.r32 t b).toNat) s

/-- Whether a clause of n words at a PC holds a byte of [a, a + n). -/
def clauseIn (pc : BitVec 57) (words a n : Nat) : Bool :=
  let va := (pc64 pc).toNat
  n == 0 || decide (va < a + n ∧ a < va + 8 * words)

/-- IINV (R432): the clauses of the served context leave every instruction cache, and a thread that has not begun one
fetches it again. -/
def dropClauses (s : State) (c a n : Nat) : State :=
  { s with
    icache := s.icache.filter fun e =>
      !(e.1 / 2 ^ 57 % 1024 == c && clauseIn (BitVec.ofNat 57 (e.1 % 2 ^ 57)) e.2.length a n)
    threads := s.threads.map fun e =>
      match e.2.clause with
      | some k =>
        if e.2.status == .ready && e.2.widx == 0 && !s.inFlight e.1 && s.ctxOf (crewOf e.1) == c &&
            clauseIn k.pc (k.words.length + 1) a n then (e.1, { e.2 with clause := none }) else e
      | none => e }

/-- IINV (R432). -/
def execIinv (h : Head) (a : Reg) (b : OpB) (s : State) : Out :=
  sysWord h ((a, 2) :: b.regs 1) true (some 5)
    (fun s s' t => signal (dropClauses s' (served s t) (target s t a) (s.b32 t b).toNat) t h) s

/-- TIME (R433). -/
def execTime (h : Head) (d : Reg) (s : State) : Out :=
  issueWord s h { group := 7, regs := [(d, 2)], dsts := [d], priv := 1 }
    (fixedLanes fun s _ => { ws := wr64 d (BitVec.ofNat 64 s.time) false })

/-- IRQ (R434). -/
def execIrq (h : Head) (b : OpB) (s : State) : Out :=
  sysWord h (b.regs 1) true (some 5) (fun s s' t =>
    let n := (s.b32 t b).toNat
    signal (if n ≤ 31 then s'.msix (served s t / 16) n else s') t h) s

/-- A count of PERFR (R435). -/
def perfCount (s : State) (c core n : Nat) : W64 := if n ≤ 7 then (Map.get? (s.ctx c).perf (core * 8 + n)).getD 0 else 0

/-- PERFR (R435). -/
def execPerfr (h : Head) (d : Reg) (b : OpB) (s : State) : Out :=
  issueWord s h { group := 7, regs := b.regs 1 ++ [(d, 2)], dsts := [d], var := true, priv := 1 }
    (varLanes h.dc.val fun s t =>
      { ws := wr64 d (perfCount s (served s t) (coreOf t) (s.b32 t b).toNat) false, trap := consumed s t (b.regs 1) })

/-! System registers (R438). -/

/-- R77, R438: an access above the thread's privilege. -/
def sysDenied (s : State) (t : Nat) (r : Nat) (write : Bool) : Bool :=
  match SReg.info r with
  | none => false
  | some i =>
    let p := (s.crew (crewOf t)).priv
    let need := if write then i.wr else i.rd
    (need < p) || (write && i.sys && p == 1 && !(s.ctx (served s t)).ctl.getLsbD 4)

def sysTrap (s : State) (t : Nat) (r : Nat) (write : Bool) (regs : List (Reg × Nat)) : Option TrapInfo :=
  if sysDenied s t r write then some { trap := .prot, cause := 0x40, detail := 3 } else consumed s t regs

/-- The words of a system register (R438). -/
def sysWords (r : Nat) : Nat := if (SReg.info r).any fun i => i.width == 64 then 2 else 1

/-- SYSR (R438); a read of the debug window waits for what its thread issued before it stopped (R46). -/
def execSysr (h : Head) (d : Reg) (r : BitVec 16) (s : State) : Out :=
  let n := sysWords r.toNat
  issueWord s h { group := 7, regs := [(d, n)], dsts := [d], var := true, priv := 1 } fun s ts =>
    if r = 0x1B && ts.any fun t => (sysTrap s t 0x1B false []).isNone && dbgBusy s (served s t) then { s := s, stall := true }
    else varLanes h.dc.val (fun s t =>
      let v := readSysReg s (served s t) r.toNat
      { ws := if n = 2 then wr64 d v false else wr32 d (v.extractLsb' 0 32) false, trap := sysTrap s t r.toNat false [] }) s ts

/-- The value of a SYSW's register. -/
def sysValue (s : State) (t : Nat) (d : Reg) (n : Nat) : W64 :=
  if n = 2 then s.r64 t d else (s.r32 t d).zeroExtend 64

/-- SYSW for a lane: a translation invalidation completes later (R439), every other write now. -/
def syswLane (s : State) (t : Nat) (h : Head) (c r : Nat) (v : W64) : State :=
  if r = 0x0D then
    let id := s.seq
    let s := writeSysReg s c r (if h.dc.val = 0 then 0 else id) v
    if h.dc.val = 0 then s else s.addOp t h.dc.val (.unit 0) []
  else signal (writeSysReg s c r 0 v) t h

/-- SYSW (R438); a write of the debug window waits in the same way (R424). -/
def execSysw (h : Head) (d : Reg) (r : BitVec 16) (s : State) : Out :=
  let n := sysWords r.toNat
  issueWord s h { group := 7, regs := [(d, n)], var := true, wait := true, priv := 1 } fun s ts =>
    let good := ts.filter fun t => (sysTrap s t r.toNat true [(d, n)]).isNone
    if r = 0x1B && good.any fun t => dbgBusy s (served s t) then { s := s, stall := true }
    else
      { s := good.foldl (fun s' t => syswLane s' t h (served s t) r.toNat (sysValue s t d n)) s,
        traps := ts.filterMap fun t => (sysTrap s t r.toNat true [(d, n)]).map fun i => (t, i) }

/-- DBGDATA_WRITE (R441): a write through the debug window of a context. -/
def execDbgdataWrite (c v : Nat) (s : State) : Out :=
  if (s.ctx c).live && !dbgBusy s c then .next (dbgWrite s c (BitVec.ofNat 32 v)) else idle "DBGDATA_WRITE"

/-- TLBINV_WRITE (R440, R468): the host's write begins an invalidation. -/
def execTlbinvWrite (c v : Nat) (s : State) : Out :=
  if (s.ctx c).live then
    .next ((writeCtxReg s c 0x0D 0 true (BitVec.ofNat 64 v)).updCtx c fun x => { x with busy := true })
  else idle "TLBINV_WRITE"

/-- TLBINV_COMPLETE (R439, R468): every TLB has dropped the entries. -/
def execTlbinvComplete (c : Nat) (s : State) : Out :=
  match (s.ctx c).inval with
  | [] => idle "TLBINV_COMPLETE"
  | r :: rest =>
    let s := s.updCtx c fun x =>
      { x with inval := rest, busy := x.busy && rest.any (fun y => y.1 == 0),
               tlb := match r.2 with
                 | none => []
                 | some va => x.tlb.filter fun e => !e.covers va }
    .next (if r.1 = 0 then s else s.finish r.1 [])

/-! Firmware only (R436, R437). -/

/-- The place of an error in the memories of a core, by its descriptor (R436). -/
def errorPlace (kind a : Nat) : Nat :=
  let core := a / 2 ^ 62 * 64 + a / 2 ^ 56 % 64
  let ofs := a % 2 ^ 32
  match kind with
  | 1 => core * 2 ^ 32 + ofs
  | 2 => scratchAddr core ofs
  | 3 => core * Config.accBytes + ofs
  | _ => a

/-- R436: a location is marked; a mark of memory stands at its home.  A correctable error is corrected where it is read: it shows
nowhere, and an injected one does not count. -/
def injectError (s : State) (a : Nat) (b : W32) : State :=
  let kind := b.toNat % 16
  if kind = 0 ∨ 8 < kind ∨ !b.getLsbD 4 then s
  else if 5 ≤ kind then s.updHome (lineOf a) fun h => { h with bad := kind }
  else { s with errors := s.errors ++ [(kind, errorPlace kind a)] }

/-- ERRINJ (R436). -/
def execErrinj (h : Head) (a b : Reg) (s : State) : Out :=
  issueWord s h { group := 7, regs := [(a, 2), (b, 1)], var := true, wait := true, priv := 0 } fun s ts =>
    let regs := [(a, 2), (b, 1)]
    let good := ts.filter fun t => (consumed s t regs).isNone
    { s := good.foldl (fun s' t => signal (injectError s' (s.r64 t a).toNat (s.r32 t b)) t h) s,
      traps := ts.filterMap fun t => (consumed s t regs).map fun i => (t, i) }

/-- HALT (R437). -/
def execHalt (h : Head) (s : State) : Out :=
  issueWord s h { group := 7, wait := true, priv := 0 } fun s ts =>
    { s := ts.foldl (fun s' t => block s' t (curWidx s) .halt) s }

/-- FIRMWARE_WAKE (R437). -/
def execFirmwareWake (s : State) : Out :=
  let ts := s.blockedBy fun w => w == .halt
  if ts.isEmpty then idle "FIRMWARE_WAKE" else .next (ts.foldl (fun s t => release s t []) s)

end Sys2Proof.Machine
end

