-- ==== Sys2Proof/Machine/Replay.lean ====
section
/-!
DEFINITION. What the host does with the rings: replays (R396, R399), the heads of the queues (R395, R400, R466), FQCTL (R395)
and ACCLR (R400).
-/
namespace Sys2Proof.Machine

/-- The tags of a tenant's parked units. -/
def parkedTags (s : State) (f : Nat) : List Nat :=
  let ts := s.threads.filterMap fun e => match e.2.status with
    | .parked p => if s.ctxOf (crewOf e.1) / 16 = f then some p.tag else none
    | _ => none
  let cs := (s.ladle ++ s.trav).flatMap fun c => if c.ctx / 16 = f then c.parks.map Park.tag else []
  (ts ++ cs).dedup

/-- The saved sets of a tenant that hold a unit parked under a tag, and the tags. -/
def savedTags (s : State) (f : Nat) : List (Nat × Nat) :=
  (s.saved.filter fun v => (s.wps.get? v.wp).any fun w => w.tenant == f).flatMap fun v =>
    (v.billets.flatMap fun b =>
      (b.threads.filterMap fun e => match e.2.status with | .parked p => some p.tag | _ => none) ++
        (b.ladle ++ b.trav).flatMap fun c => c.parks.map Park.tag).dedup.map fun t => (v.uid, t)

/-- R396, R410: the unit parked under a tag retries or is aborted; one of a saved set when that is restored. -/
def replay (s : State) (f tag : Nat) (abort : Bool) : State :=
  let s := ((savedTags s f).filter fun x => x.2 == tag).foldl (fun s x => addLater s x.1 [.replay tag abort]) s
  if (parkedTags s f).contains tag then replayTag s f tag abort else s

/-- FQREPLAY with ALL = 0 and ABORT = 0 (R396). -/
def execFqreplayRetry (f tag : Nat) (s : State) : Out :=
  if !s.windowOn || decide (64 ≤ f) then idle "FQREPLAY_RETRY" else .next (replay s f (tag % 2 ^ 32) false)

/-- FQREPLAY with ABORT = 1 (R399): `v` holds TAG in its low half and ALL as bit 62, with which it has no effect
(R396). -/
def execFqreplayAbort (f v : Nat) (s : State) : Out :=
  if !s.windowOn || decide (64 ≤ f) then idle "FQREPLAY_ABORT"
  else if v / 2 ^ 62 % 2 = 1 then .next s
  else .next (replay s f (v % 2 ^ 32) true)

/-- FQREPLAY with ALL = 1 and ABORT = 0 (R396). -/
def execFqreplayRetryAll (f : Nat) (s : State) : Out :=
  if !s.windowOn || decide (64 ≤ f) then idle "FQREPLAY_RETRY_ALL"
  else .next (((parkedTags s f ++ (savedTags s f).map Prod.snd).dedup).foldl (fun s t => replay s f t false) s)

/-- FQHEAD_WRITE (R395). -/
def execFqheadWrite (f v : Nat) (s : State) : Out :=
  if !s.windowOn || decide (64 ≤ f) then idle "FQHEAD_WRITE"
  else .next ((s.updTenant f fun t => { t with fq := { t.fq with hd := BitVec.ofNat 32 v } }).flushFaults f)

/-- FQCTL_WRITE (R395). -/
def execFqctlWrite (f v : Nat) (s : State) : Out :=
  if !s.windowOn || decide (64 ≤ f) then idle "FQCTL_WRITE"
  else .next ((s.updTenant f fun t =>
    { t with fqEn := v / 2 ^ 31 % 2 == 1, fqOvf := t.fqOvf && v / 2 ^ 30 % 2 != 1, fqIrq := v / 2 ^ 28 % 2 == 1 }).flushFaults f)

/-- NQHEAD_WRITE (R400). -/
def execNqheadWrite (f v : Nat) (s : State) : Out :=
  if !s.windowOn || decide (64 ≤ f) then idle "NQHEAD_WRITE"
  else .next ((s.updTenant f fun t => { t with nq := { t.nq with hd := BitVec.ofNat 32 v } }).flushNotify f)

/-- ACCLR_WRITE (R400): the pending bit of a granule's counters goes. -/
def execAcclrWrite (f v : Nat) (s : State) : Out :=
  if !s.windowOn || decide (64 ≤ f) then idle "ACCLR_WRITE"
  else .next { s with
    counts := s.counts.map fun e =>
      if (List.range 4).any fun d => e.1 == countKey (f * 4 + d) (v % 2 ^ 64 / 65536) then (e.1, { e.2 with pend := false }) else e }

/-- EQHEAD_WRITE (R466). -/
def execEqheadWrite (f v : Nat) (s : State) : Out :=
  if !s.windowOn || decide (64 ≤ f) then idle "EQHEAD_WRITE"
  else .next ((s.updTenant f fun t => { t with eq := { t.eq with hd := BitVec.ofNat 32 v } }).flushEvents f)

/-- DMHEAD_WRITE (R466, R428). -/
def execDmheadWrite (f v : Nat) (s : State) : Out :=
  if !s.windowOn || decide (64 ≤ f) then idle "DMHEAD_WRITE"
  else .next (mailDone ((s.updTenant f fun t => { t with dm := { t.dm with hd := BitVec.ofNat 32 v } }).flushMailbox f) f)

end Sys2Proof.Machine
end

