-- ==== Sys2Proof/Machine/Host.lean ====
section
/-!
DEFINITION. The host's hand on the part: the tenant window (R465 to R468), interrupts (R469), function-level reset (R470),
the hallmark unit (R471), bring-up (R472), cooling (R473) and D3hot (R474).  Beside them, a word whose opcode is unallocated
(R67).
-/
namespace Sys2Proof.Machine

/-- R67, R78: every thread of the bundle raises UNDEF. -/
def execUnallocatedOpcode (_op : Fin 512) (s : State) : Out :=
  match s.cur with
  | none => .refused .noBundle
  | some b =>
    match s.bundles.get? b with
    | none => .refused .noBundle
    | some x =>
      if x.tids.any (strictOpen s) || x.tids.any (openFence s) then .next s
      else .next (trapBundle s b x { trap := .undef, cause := 0x20 })

/-! The tenant window. -/

def nibble (v q : Nat) : Nat := v / 16 ^ q % 16

/-- LQCTL and AMPCTL as they read (R184, R198), FQCTL (R395), and CTXCMD (R468). -/
def lqctlRead (q : LaunchQueue) : Nat :=
  q.en.toNat * 2 ^ 31 + q.err.toNat * 2 ^ 30 + q.prio.val * 2 ^ 16 + q.log2n.val

def fqctlRead (t : Tenant) : Nat :=
  t.fqEn.toNat * 2 ^ 31 + t.fqOvf.toNat * 2 ^ 30 +
    (if (t.fq.tail - t.fq.hd).toNat = 4096 then 2 ^ 29 else 0) + t.fqIrq.toNat * 2 ^ 28

def ctxcmdRead (x : Context) : Nat := x.live.toNat * 2 ^ 31 + x.busy.toNat * 2 ^ 30

/-- What the host reads of a register of the window (R465); write-only fields and offsets not listed read 0. -/
def windowRead (s : State) (f off : Nat) : Nat :=
  let t := s.tenant f
  let slot := f * 16 + (off - 0x1000) / 0x200
  let o := (off - 0x1000) % 0x200
  if off < 0x200 then
    let q := t.queue (off / 0x20)
    match off % 0x20 with
    | 0x00 => q.base.toNat
    | 0x08 => lqctlRead q
    | 0x0C => q.tail.toNat
    | 0x10 => q.hd.toNat
    | _ => 0
  else if 0x1000 ≤ off ∧ off < 0x3000 then
    if o = 0x1F0 then ctxcmdRead (s.ctx slot)
    else if !(s.ctx slot).live then 0
    else if o = 0x1E8 then (s.ctx slot).pmargin.toNat
    else if o % 8 = 0 ∧ o / 8 ≤ 0x0D then (readCtxReg s slot (o / 8)).toNat
    else 0
  else match off with
    | 0x200 => t.ampEn.toNat * 2 ^ 31 + t.ampPrio.val * 2 ^ 16
    | 0x400 => t.fq.base.toNat
    | 0x408 => t.fq.hd.toNat
    | 0x40C => t.fq.tail.toNat
    | 0x410 => fqctlRead t
    | 0x480 => t.nq.base.toNat
    | 0x488 => t.nq.hd.toNat
    | 0x48C => t.nq.tail.toNat
    | 0x490 => t.acThr.toNat
    | 0x4A0 => t.acLost.toNat
    | 0x500 => t.eq.base.toNat
    | 0x508 => t.eq.hd.toNat
    | 0x50C => t.eq.tail.toNat
    | 0x580 => t.dm.base.toNat
    | 0x588 => t.dm.hd.toNat
    | 0x58C => t.dm.tail.toNat
    | 0x600 => t.bind.toNat
    | _ => 0

/-- CTXBIND_WRITE (R467): a changed nibble of an enabled queue stays, and the queue errs with code 0x02. -/
def execCtxbindWrite (f v : Nat) (s : State) : Out :=
  if !s.windowOn || decide (64 ≤ f) then idle "CTXBIND_WRITE"
  else
    let old := (s.tenant f).bind.toNat
    let clash (q : Nat) : Bool := ((s.tenant f).queue q).en && nibble v q != nibble old q
    let new := (List.range 16).foldl (fun n q => n + (if clash q then nibble old q else nibble v q) * 16 ^ q) 0
    let s' := s.updTenant f fun t => { t with bind := BitVec.ofNat 64 new }
    .next (((List.range 16).filter clash).foldl (fun s q => queueError s f q 2) s')

/-- CTXCMD_CREATE (R468). -/
def execCtxcmdCreate (f k : Nat) (s : State) : Out :=
  if !s.windowOn || decide (64 ≤ f ∨ 16 ≤ k) then idle "CTXCMD_CREATE"
  else
    let c := f * 16 + k
    if (s.ctx c).live || (s.ctx c).busy then .next s
    else .next { s with ctxs := s.ctxs.set c { live := true } }

/-- The decoded blocks of a context leave the planishers, the dirty ones encoded (R348, R352). -/
def dropSurfaces (s : State) (c : Nat) : State :=
  let s := (s.surfs.filter fun k => k.ctx == c && k.dirty).foldl (fun s k =>
    (attempt (encodeBlock k) s).2) s
  { s with surfs := s.surfs.filter fun k => k.ctx != c
           descs := s.descs.filter fun e => e.1 % 2 ^ 40 / 4096 != c }

/-- A context ends for good (R468): terminated, its saved sets discarded, its slot empty. -/
def destroyCtx (s : State) (c : Nat) : State :=
  let s := dropSurfaces (terminateCtx s c 0) c
  { s with ctxs := s.ctxs.set c {} }

/-- CTXCMD_DESTROY (R468). -/
def execCtxcmdDestroy (f k : Nat) (s : State) : Out :=
  if !s.windowOn || decide (64 ≤ f ∨ 16 ≤ k) then idle "CTXCMD_DESTROY"
  else if (s.ctx (f * 16 + k)).live then .next (destroyCtx s (f * 16 + k))
  else .next s

/-- Registers of the window whose write is a row of its own. -/
def ownRow (off : Nat) : Bool :=
  (decide (off < 0x200) && (off % 0x20 == 8 || off % 0x20 == 12)) || off == 0x200 || off == 0x408 || off == 0x410 ||
    off == 0x418 || off == 0x488 || off == 0x498 || off == 0x508 || off == 0x588 || off == 0x600 ||
    (decide (0x1000 ≤ off ∧ off < 0x3000) && ((off - 0x1000) % 0x200 == 0x1F0 || (off - 0x1000) % 0x200 == 0x68))

/-- A write to a context register, or PMARGIN, of slot k (R465, R468). -/
def writeSlotReg (s : State) (c o : Nat) (v : W64) : State :=
  if !(s.ctx c).live then s
  else if o % 8 = 0 ∧ o / 8 ≤ 0x0D then writeCtxReg s c (o / 8) 0 true v
  else if o = 0x1E8 ∧ (s.ctx c).ctl.getLsbD 4 then s.updCtx c fun x => { x with pmargin := v.extractLsb' 0 32 }
  else s

/-- REGISTER_WRITE (R465): a write to a register of the window with no row of its own; offset 0x10000 + n is the mask of entry
n of the MSI-X table (R464).  A write to an offset not listed has no effect. -/
def execRegisterWrite (f off v : Nat) (s : State) : Out :=
  if !s.windowOn || decide (64 ≤ f) || ownRow off then idle "REGISTER_WRITE"
  else
    let x := BitVec.ofNat 64 v
    let up (g : Tenant → Tenant) : Out := .next (s.updTenant f g)
    if off < 0x200 ∧ off % 0x20 = 0 then
      let q := off / 0x20
      let old := (s.tenant f).queue q
      let s := s.updQueue f q fun y => { y with base := x }
      .next (if old.en ∧ old.base ≠ x then queueError s f q 2 else s)
    else if off = 0x400 then up fun t => { t with fq := { t.fq with base := x } }
    else if off = 0x480 then up fun t => { t with nq := { t.nq with base := x } }
    else if off = 0x490 then up fun t => { t with acThr := BitVec.ofNat 32 (v % 2 ^ 20) }
    else if off = 0x500 then up fun t => { t with eq := { t.eq with base := x } }
    else if off = 0x580 then up fun t => { t with dm := { t.dm with base := x } }
    else if 0x1000 ≤ off ∧ off < 0x3000 then
      .next (writeSlotReg s (f * 16 + (off - 0x1000) / 0x200) ((off - 0x1000) % 0x200) x)
    else if 0x10000 ≤ off ∧ off < 0x10020 then
      up fun t => { t with msixMask :=
        if v % 2 = 1 then t.msixMask ||| BitVec.ofNat 32 (2 ^ (off - 0x10000)) else t.msixMask }
    else .next s

/-- MSIX_VECTOR_UNMASK (R469): a pending message of the vector is posted. -/
def execMsixVectorUnmask (f vec : Nat) (s : State) : Out :=
  if !s.windowOn || decide (64 ≤ f ∨ 32 ≤ vec) then idle "MSIX_VECTOR_UNMASK"
  else
    let bit := BitVec.ofNat 32 (2 ^ vec)
    let due := (s.tenant f).msixPend.getLsbD vec
    let s := s.updTenant f fun t => { t with msixMask := t.msixMask &&& ~~~bit, msixPend := t.msixPend &&& ~~~bit }
    .next (if due then s.msix f vec else s)

/-- FUNCTION_LEVEL_RESET (R470): every context of the tenant ends, the records of that are discarded (no event enters a full
queue), and every register of the window returns to its reset value. -/
def execFunctionLevelReset (f : Nat) (s : State) : Out :=
  if 64 ≤ f then idle "FUNCTION_LEVEL_RESET"
  else
    let s := s.updTenant f fun t => { t with eq := { base := 0, hd := 0, tail := 1024, held := [] } }
    let live := (List.range 16).filter fun k => (s.ctx (f * 16 + k)).live
    let s := live.foldl (fun s k => destroyCtx s (f * 16 + k)) s
    .next { s with
      tenants := s.tenants.set f { nextIdent := (s.tenant f).nextIdent, nextTag := (s.tenant f).nextTag }
      wps := s.wps.map fun e => if e.2.tenant = f then (e.1, { e.2 with live := false }) else e
      counts := s.counts.filter fun e => e.1 / 2 ^ 42 != f
      irqs := s.irqs.filter fun i => i.1 != f }

/-! The hallmark unit (R471). -/

/-- ATTESTATION_REQUEST (R471): the report's bytes 0 to 255. -/
def execAttestationRequest (nonce : Nat) (s : State) : Out :=
  if s.measurement.isEmpty then idle "ATTESTATION_REQUEST"
  else
    let r := freeBytes s 4711 64 ++ (s.measurement ++ List.replicate 64 0).take 64 ++ toBytes nonce 32 ++
      toBytes s.capCores.toNat 4 ++ toBytes s.capSlices.toNat 4 ++ toBytes s.capChan.toNat 4 ++ toBytes s.capWaves.toNat 4 ++
      freeBytes s 4712 64 ++ toBytes s.time 8 ++ toBytes 0 8
    .next { s with attest := s.attest ++ [r], fresh := s.fresh + 1 }

/-! Bring-up (R472). -/

/-- A step of bring-up fails: the part is in recovery, and STATUS names the step. -/
def failAt (s : State) (step : Nat) : State := { s with recovery := true, status := step, power := 0 }

/-- Step 4: failing units are retired; no tenant is told before step 7. -/
def retireAll (s : State) (bad : List (Nat × Nat)) : State :=
  let ts := s.tenants
  { bad.foldl (fun s u => retireUnit s u.1 u.2) { s with tenants := [] } with tenants := ts }

/-- Step 5: ports, slot tables and drawer sizes. A port with fewer than 3 live wavelengths is retired (R458). -/
def trainPorts (s : State) (x : BringUp) : State :=
  let tab : Map W64 := (x.slots.filter fun e => decide (e.1 < 1024)).foldl (fun m e => Map.set m e.1 (e.2 &&& slotMask)) []
  { s with
    ports := (x.ports.filter fun p => decide (p.port < 16)).foldl (fun m p =>
      Map.set m p.port { state := if p.livew < 3 then 4 else if p.en then 2 else 0, svc := p.svc, livew := p.livew,
                         drawer := p.drawer % 16, dport := p.dport % 64, en := p.en, thresh := p.thresh % 65536 }) []
    slotTab := tab
    slotShadow := []
    drwSize := (x.drawers.filter fun d => decide (d.1 < 16)).foldl (fun m d => Map.set m d.1 (BitVec.ofNat 64 d.2)) [] }

/-- The latency of the link that the reference is read over, in ticks (R449, R456): which request slot carries the read is open
(log 93). -/
def linkTicks (s : State) (drawer : Nat) : Nat :=
  let ls := (portsTo s drawer).flatMap fun p => (List.range 128).filterMap (slotLatency s p)
  4 * ls.getD (Config.pick s.fresh drawer 449 % max 1 ls.length) 0 / 10

/-- Step 6: domain time from the reference, which is the lowest drawer, or from 0 where the part is its own (R449). A part that has
kept its count through D3hot never goes back. -/
def takeTime (s : State) (x : BringUp) (kept : Bool) : State :=
  match (drawersOf s).head? with
  | some n =>
    let t := x.reference.getD 0 + linkTicks s n
    { s with refDrawer := some n, time := if kept then max s.time t else t, hold := 0 }
  | none => { s with refDrawer := none, time := if kept then s.time else 0, hold := 0 }

/-- The step of bring-up that fails, from the first one run: the one named, or step 6 where the reference cannot be read. -/
def failing (first : Nat) (x : BringUp) : Option Nat :=
  if first ≤ x.fail ∧ x.fail ≤ 6 then some x.fail
  else if !x.drawers.isEmpty && x.reference.isNone then some 6
  else if x.fail = 7 then some 7 else none

/-- POWER_GOOD_BRINGUP (R472), in one step. -/
def execPowerGoodBringup (x : BringUp) (s : State) : Out :=
  if s.ready || s.recovery then idle "POWER_GOOD_BRINGUP"
  else
    let hall (s : State) : State := { s with measurement := x.measurement, module := x.module }
    match failing 1 x with
    | some n =>
      let s := if 2 < n then hall s else s
      let s := if 4 < n then retireAll s x.bad else s
      .next (failAt (if 5 < n then trainPorts s x else s) n)
    | none => .next { takeTime (trainPorts (retireAll (hall s) x.bad) x) x false with ready := true, status := 0 }

/-! Cooling (R473). -/

/-- THERMAL_THROTTLE (R473): the arithmetic clock goes down a step of 100 MHz. -/
def execThermalThrottle (s : State) : Out :=
  if 14 ≤ s.clockStep then idle "THERMAL_THROTTLE" else .next { s with clockStep := s.clockStep + 1 }

/-- Every live context ends (R406). -/
def terminateAll (s : State) : State :=
  ((s.ctxs.filter fun e => e.2.live).map Prod.fst).foldl (fun s c => terminateCtx s c 0) s

/-- THERMAL_SHUTDOWN (R473). -/
def execThermalShutdown (s : State) : Out :=
  if s.recovery then idle "THERMAL_SHUTDOWN"
  else
    let s := terminateAll s
    let s := s.postAll (recoveryRecord s 4 0 0 0 0 0)
    .next { s with recovery := true }

/-! D3hot (R474). -/

/-- Whether nothing runs on the part any more: sets, handlers, operations and engines. -/
def drained (s : State) : Bool :=
  s.billets.isEmpty && s.threads.all (fun e => decide (hubCore ≤ coreOf e.1)) && s.pend.isEmpty && s.ladle.isEmpty &&
    s.trav.isEmpty && s.anvil.isEmpty

/-- Step 3: dirty blocks are encoded; one that cannot take its chunks ends its context. -/
def encodeAll (s : State) : State :=
  let s := (s.surfs.filter fun k => k.dirty).foldl (fun s k =>
    match encodeBlock k s with
    | (.ok .done, s) => s
    | (_, s) => terminateCtx s k.ctx 0) s
  { s with surfs := [], descs := [] }

/-- Steps 3 and 4: every line is written back and given up; the cores, homes, ports and fabric stop. -/
def powerDown (s : State) : State :=
  let s := encodeAll s
  { s with
    homes := s.homes.map fun h => (h.1, { ({} : HomeLine) with bad := h.2.bad })
    copies := []
    probes := []
    notes := []
    know := []
    reads := []
    relFences := []
    scs := []
    carried := []
    scratchWait := []
    stale := []
    icache := []
    counts := []
    sliceBase := []
    bundles := []
    scratch := []
    acc := []
    book := []
    cores := s.cores.map fun c =>
      (c.1, { c.2 with gated := true, resync := false, leaseBase := 0, handlerCtx := none, books := [], maps := [] })
    ctxs := s.ctxs.map fun c => (c.1, { c.2 with tlb := [] })
    ports := s.ports.map fun p => (p.1, { p.2 with state := if p.2.state = 4 then 4 else 0, swap := false, waiting := [], stall := none })
    power := 2 }

/-- D3HOT_ENTRY (R474): the host's write stops placement and marks every resident set; the part reports D3hot once
the sets are saved and the rest is done. -/
def execD3hotEntry (s : State) : Out :=
  if !s.ready || s.recovery then idle "D3HOT_ENTRY"
  else if s.power = 0 then
    .next { s with power := 1, billets := s.billets.map fun e => (e.1, { e.2 with victim := true }) }
  else if s.power = 1 ∧ drained s then .next (powerDown s)
  else idle "D3HOT_ENTRY"

/-- D0_RETURN (R474): steps 3 to 7 again; retired units stay, domain time goes on, and deadlines that passed are posted. -/
def execD0Return (x : BringUp) (s : State) : Out :=
  if s.power ≠ 2 then idle "D0_RETURN"
  else
    match failing 3 x with
    | some n =>
      let s := if 4 < n then retireAll s x.bad else s
      .next (failAt (if 5 < n then trainPorts s x else s) n)
    | none =>
      let s : State := { takeTime (trainPorts (retireAll s x.bad) x) x true with ready := true, status := 0, power := 0 }
      .next ((s.wps.filter fun e => missDue s e.2).map Prod.fst |>.foldl postMiss s)

end Sys2Proof.Machine
end

