-- ==== Sys2Proof/Machine/Agents.lean ====
section
/-!
DEFINITION. What a step does beside one instruction: the word a bundle issues and its decoding errors (R78), time
(R4, R449, R473), stores that become visible (R262), what the host and other parts write (R236, R448), and the place of a
word that is to be issued next.
-/
namespace Sys2Proof.Machine

/-- The trap of a word that does not decode (R67, R78). -/
def decodeTrap : DecodeErr → TrapInfo
  | .dc7 => { trap := .malformed, cause := 0x04 }
  | .unallocated => { trap := .undef, cause := 0x20 }
  | .bimm => { trap := .malformed, cause := 0x08 }
  | .reserved => { trap := .malformed, cause := 0x05 }
  | .code => { trap := .malformed, cause := 0x06 }
  | .regKind => { trap := .malformed, cause := 0x07 }
  | .pushQueue => { trap := .undef, cause := 0x21 }

/-- A word that does not decode traps every thread of its bundle, once no fence of theirs is open (R259). -/
def badWord (b : Nat) (x : Bundle) (e : DecodeErr) (s : State) : Out :=
  if x.tids.any (strictOpen s) || x.tids.any (openFence s) then .next s
  else .next (trapBundle s b x (decodeTrap e))

/-- The next word of a bundle. -/
def Bundle.word (x : Bundle) : Nat := x.clause.words.getD x.widx 0

/-- Cycles of the arithmetic clock in one tick (R4, R473). -/
def tickCycles (s : State) : Nat := max 1 (Config.cyclesPerTick - s.clockStep)

/-- An event, where it may happen. -/
def ifEnabled (f : State → Out) (s : State) : State :=
  match f s with
  | .next s' => s'
  | _ => s

/-- What domain time brings about by itself when it reaches a limit: misses (R194), timeouts of waits (R217, R220), of phases
(R170), of gangs (R181), of blocks and commands that wait on a pool (R352, R371) and of probes (R246). -/
def fireDue (s : State) : State :=
  let s := (s.wps.map Prod.fst).foldl (fun s w => ifEnabled (execDeadlineMiss w) s) s
  let s := wakeWaitv s
  let s := (s.threads.map Prod.fst).foldl (fun s t => ifEnabled (execSleepWake t) s) s
  let s := (s.groups.map Prod.fst).foldl (fun s g => ifEnabled (execBartime g) s) s
  let s := (s.crews.map Prod.fst).foldl (fun s c => ifEnabled (execGangfailTimeout c) s) s
  let s := s.surfs.foldl (fun s k => ifEnabled (execSurfpoolPinTimeout k.ctx k.surf k.b) s) s
  let s := s.trav.foldl (fun s c => ifEnabled (execTravfaultPoolTimeout c.id) s) s
  s.probes.foldl (fun s p => ifEnabled (execProbeTimeout p.line p.agent) s) s

/-- One tick: domain time goes on and what is due happens, or the tick is withheld (R449). -/
def tick (s : State) : State :=
  match s.hold with
  | 0 => retireDoomed (fireDue { s with time := s.time + 1 })
  | h + 1 => { s with hold := h }

def ticks : Nat → State → State
  | 0, s => s
  | n + 1, s => ticks n (tick s)

/-- Time passes, in cycles of the arithmetic clock (R4). -/
def passTime (n : Nat) (s : State) : State :=
  ticks ((s.sub + n) / tickCycles s) { s with sub := (s.sub + n) % tickCycles s }

/-- After an event that set domain time (R449, R472), what is due happens; a core whose set has left it is retired (R417). -/
def afterEvent (before : Nat) (o : Out) : Out :=
  match o with
  | .next s => .next (retireDoomed (if s.time = before then s else fireDue s))
  | o => o

/-- A store in flight becomes visible to the agents of a wider level, or to another core (R249, R262). -/
def revealStep (id lvl : Nat) (s : State) : Out :=
  match s.pend? id with
  | none => idle "REVEAL"
  | some p => if mayReveal s p lvl then .next (revealStore s p lvl) else idle "REVEAL"

/-- Old bytes a home may still give for host data it holds (R236). -/
def noteStale (s : State) (addr n : Nat) : State :=
  (List.range n).foldl (fun s i =>
    let a := addr + i
    if (s.home (lineOf a)).held && !(s.stale.any fun c => c.1 == a) then
      { s with stale := s.stale ++ [(a, Memory.read s.mem a)] }
    else s) s

/-- Whether other parts may write bytes of drawers: they exist, and the part holds none of their lines and no lease on them
(R448, R451). -/
def foreign (s : State) (addr n : Nat) : Bool :=
  (List.range n).all fun i =>
    let a := addr + i
    let h := s.home (lineOf a)
    isDrawerPa a && populated s a && h.dir == .i && h.hold == .no && decide (leaseEnd s (lineOf a) ≤ s.time) && h.lock.isNone &&
      !ownedLine s .global (lineOf a)

/-- The host's bytes: monitors on their lines fire (R179). -/
def hostWrite (s : State) (addr : Nat) (data : List Byte) : State :=
  (List.range ((addr + data.length + 127) / 128 - addr / 128)).foldl (fun s i => fireMonitors s (addr / 128 + i) fun _ => true)
    (s.writePa addr data)

/-- A write from outside the part: by the host to host memory (R236), or by another part to a drawer. -/
def outsideStore (addr : Nat) (data : List Byte) (s : State) : Out :=
  if 2 ^ 51 ≤ addr ∧ addr + data.length ≤ 2 ^ 52 then
    .next (hostWrite (noteStale s addr data.length) addr data)
  else if foreign s addr data.length then .next (performWrite s addr data engineTid)
  else idle "OUTSIDE_STORE"

/-- The bundle that issues when nothing else is asked for: the one of the lowest place. -/
def State.firstBundle (s : State) : Option Nat := s.bundles.head?.map Prod.fst

/-! The place of a word that is to be issued next. -/

/-- The class of a clause that may hold a word (R53). -/
def wordClass (w : Nat) : Cls :=
  let op := bits w 55 9
  if op / 64 = 5 then (if op = 0x140 ∧ bits w 44 4 = 0 then .cpy else if op = 0x140 then .vec else .mtx)
  else if op / 64 = 7 ∧ op ≠ 0x1C0 ∧ op ≠ 0x1C1 then .sys else .vec

/-- The crew that issues it: a crew of core 0, its handler crew for a system word (R404), or the hub controller for a
word of firmware (R436, R437). -/
def wordCrew (w : Nat) : Nat :=
  let op := bits w 55 9
  if op = 0x1D1 ∨ op = 0x1D2 then hubCore * 32
  else if wordClass w = .sys then handlerSlot else 0

def wordPriv (w : Nat) : Nat :=
  let op := bits w 55 9
  if op = 0x1D1 ∨ op = 0x1D2 then 0 else if wordClass w = .sys then 1 else 2

def Cls.role : Cls → Role
  | .vec => .vec | .cpy => .cpy | .mtx => .mtx | .sys => .vec

/-- The bundle of that crew. -/
def wordBundle (w : Nat) : Nat := coreOf (wordCrew w * 32) * 2

/-- A state with a word in a bundle of one thread, about to issue. -/
def placeWord (s : State) (w : Nat) : State :=
  let c := wordCrew w
  let cl : Clause := { pc := 0, cls := wordClass w, waits := [7, 7, 7, 7, 7, 7], yld := false, xfer := false, words := [w] }
  { s with
    agenda := .issue (wordBundle w) :: s.agenda
    bundles := s.bundles.set (wordBundle w) { tids := [c * 32], widx := 0, clause := cl }
    threads := s.threads.set (c * 32) { clause := some cl }
    crews := s.crews.set c { budget := 224, width := 1, priv := wordPriv w, role := (wordClass w).role } }

end Sys2Proof.Machine
end

