-- ==== Sys2Proof/Machine/Crew.lean ====
section
/-!
DEFINITION. The crew operations of group 2 (R199, R204 to R208).
-/
namespace Sys2Proof.Machine

/-- R199: each thread takes the bundle form or the mask form by its own mask.  `mk` gives what a thread contributes. -/
def crewBody (c : Reg) (mk : State → Nat → CrewArg) (s : State) (ts : List Nat) : WordOut :=
  let m (t : Nat) : W32 := s.r32 t c
  let bad := ts.filterMap fun t => (consumed s t [(c, 1)]).map fun i => (t, i)
  let ok := ts.filter fun t => (consumed s t [(c, 1)]).isNone
  let arg (t : Nat) : CrewArg := { mk s t with mask := m t, arrival := s.seq, widx := curWidx s, pc := (curClause s).pc }
  let inBundle := ok.filter fun t => m t == 0
  let masked := ok.filter fun t => m t != 0
  let dis := (masked.filter fun t => !(m t).getLsbD (laneOf t)).map fun t => (t, ({ trap := .maskdis } : TrapInfo))
  let wait := masked.filter fun t => (m t).getLsbD (laneOf t)
  let r := ((inBundle.map crewOf).dedup).foldl (fun (acc : State × List (Nat × TrapInfo)) cid =>
    let d := crewDeliver acc.1 cid ((inBundle.filter fun t => crewOf t == cid).map fun t => (laneOf t, arg t))
    (d.1, acc.2 ++ d.2)) ({ s with seq := s.seq + 1 }, [])
  let s1 := wait.foldl (fun s' t => (s'.leave [t]).updThr t fun x =>
    { x with status := .mask (arg t), widx := curWidx s }) r.1
  { s := ((wait.map crewOf).dedup).foldl (fun s c => resolveMask c s 64) s1, traps := bad ++ dis ++ r.2 }

/-- A contribution with the poison of its source operands. -/
def crewArg (s : State) (t : Nat) (kind : CrewKind) (dst : Reg) (pd : Fin 8) (dc : Nat) (srcs : List (Reg × Nat)) (a : W64)
    (b : W32) (q : Bool) : CrewArg :=
  { kind := kind, dst := dst, pd := pd, dc := dc, pc := 0, widx := 0, mask := 0, a := a,
    aPoison := (s.taint t srcs).1, aCode := (s.taint t srcs).2, b := b, q := q, arrival := 0 }

/-- LXCH (R204): width 1 or 2 registers. -/
def lxchWord (mode : Fin 4) (wide : Bool) (h : Head) (sw : Fin 6) (pd : Fin 8) (d a : Reg) (b : OpB) (c : Reg)
    (s : State) : Out :=
  let n := if wide then 2 else 1
  issueWord s h { group := 2, regs := [(d, n), (a, n)] ++ b.regs 1 ++ [(c, 1)], dsts := [d], var := true, wait := true }
    (crewBody c fun s t =>
      crewArg s t (.lxch mode wide (2 ^ sw.val)) d pd h.dc.val ((a, n) :: b.regs 1)
        (if wide then s.r64 t a else (s.r32 t a).zeroExtend 64) (s.b32 t b) false)

/-- CPQ (R205). -/
def cpqWord (k : Fin 5) (h : Head) (pci : Fin 8) (cneg : Bool) (pd : Fin 8) (d c : Reg) (s : State) : Out :=
  issueWord s h { group := 2, regs := [(d, 1), (c, 1)], dsts := [d], var := true, wait := true }
    (crewBody c fun s t => crewArg s t (.cpq k) d pd h.dc.val [] 0 0 (Bool.xor (s.rdPred t pci.val) cneg))

/-- VGRP and CRED (R205, R206): one 32-bit source. -/
def groupWord (k : CrewKind) (h : Head) (pd : Fin 8) (d a c : Reg) (s : State) : Out :=
  issueWord s h { group := 2, regs := [(d, 1), (a, 1), (c, 1)], dsts := [d], var := true, wait := true }
    (crewBody c fun s t => crewArg s t k d pd h.dc.val [(a, 1)] ((s.r32 t a).zeroExtend 64) 0 false)


/-- LXCH.AT.B32 (R204). -/
def execLxchAtB32 (h : Head) (sw : Fin 6) (pd : Fin 8) (d a : Reg) (b : OpB) (c : Reg) (s : State) : Out :=
  lxchWord 0 false h sw pd d a b c s

/-- LXCH.ROT.B32 (R204). -/
def execLxchRotB32 (h : Head) (sw : Fin 6) (pd : Fin 8) (d a : Reg) (b : OpB) (c : Reg) (s : State) : Out :=
  lxchWord 1 false h sw pd d a b c s

/-- LXCH.DIST.B32 (R204). -/
def execLxchDistB32 (h : Head) (sw : Fin 6) (pd : Fin 8) (d a : Reg) (b : OpB) (c : Reg) (s : State) : Out :=
  lxchWord 2 false h sw pd d a b c s

/-- LXCH.MIR.B32 (R204). -/
def execLxchMirB32 (h : Head) (sw : Fin 6) (pd : Fin 8) (d a : Reg) (b : OpB) (c : Reg) (s : State) : Out :=
  lxchWord 3 false h sw pd d a b c s

/-- LXCH.AT.B64 (R204). -/
def execLxchAtB64 (h : Head) (sw : Fin 6) (pd : Fin 8) (d a : Reg) (b : OpB) (c : Reg) (s : State) : Out :=
  lxchWord 0 true h sw pd d a b c s

/-- LXCH.ROT.B64 (R204). -/
def execLxchRotB64 (h : Head) (sw : Fin 6) (pd : Fin 8) (d a : Reg) (b : OpB) (c : Reg) (s : State) : Out :=
  lxchWord 1 true h sw pd d a b c s

/-- LXCH.DIST.B64 (R204). -/
def execLxchDistB64 (h : Head) (sw : Fin 6) (pd : Fin 8) (d a : Reg) (b : OpB) (c : Reg) (s : State) : Out :=
  lxchWord 2 true h sw pd d a b c s

/-- LXCH.MIR.B64 (R204). -/
def execLxchMirB64 (h : Head) (sw : Fin 6) (pd : Fin 8) (d a : Reg) (b : OpB) (c : Reg) (s : State) : Out :=
  lxchWord 3 true h sw pd d a b c s

/-- CPQ.ALL (R205). -/
def execCpqAll (h : Head) (pci : Fin 8) (cneg : Bool) (pd : Fin 8) (d c : Reg) (s : State) : Out :=
  cpqWord 0 h pci cneg pd d c s

/-- CPQ.ANY (R205). -/
def execCpqAny (h : Head) (pci : Fin 8) (cneg : Bool) (pd : Fin 8) (d c : Reg) (s : State) : Out :=
  cpqWord 1 h pci cneg pd d c s

/-- CPQ.SAME (R205). -/
def execCpqSame (h : Head) (pci : Fin 8) (cneg : Bool) (pd : Fin 8) (d c : Reg) (s : State) : Out :=
  cpqWord 2 h pci cneg pd d c s

/-- CPQ.MASK (R205). -/
def execCpqMask (h : Head) (pci : Fin 8) (cneg : Bool) (d c : Reg) (s : State) : Out :=
  cpqWord 3 h pci cneg 7 d c s

/-- CPQ.NUM (R205). -/
def execCpqNum (h : Head) (pci : Fin 8) (cneg : Bool) (d c : Reg) (s : State) : Out :=
  cpqWord 4 h pci cneg 7 d c s

/-- VGRP.PART (R205). -/
def execVgrpPart (h : Head) (d a c : Reg) (s : State) : Out :=
  groupWord .vgrpPart h 7 d a c s

/-- VGRP.UNI (R205). -/
def execVgrpUni (h : Head) (pd : Fin 8) (d a c : Reg) (s : State) : Out :=
  groupWord .vgrpUni h pd d a c s

/-- CRED.ADDB32 (R206). -/
def execCredAddB32 (h : Head) (d a c : Reg) (s : State) : Out :=
  groupWord (.cred 0) h 7 d a c s

/-- CRED.MINS32 (R206). -/
def execCredMinS32 (h : Head) (d a c : Reg) (s : State) : Out :=
  groupWord (.cred 1) h 7 d a c s

/-- CRED.MINZ32 (R206). -/
def execCredMinZ32 (h : Head) (d a c : Reg) (s : State) : Out :=
  groupWord (.cred 2) h 7 d a c s

/-- CRED.MAXS32 (R206). -/
def execCredMaxS32 (h : Head) (d a c : Reg) (s : State) : Out :=
  groupWord (.cred 3) h 7 d a c s

/-- CRED.MAXZ32 (R206). -/
def execCredMaxZ32 (h : Head) (d a c : Reg) (s : State) : Out :=
  groupWord (.cred 4) h 7 d a c s

/-- CRED.AND (R206). -/
def execCredAnd (h : Head) (d a c : Reg) (s : State) : Out :=
  groupWord (.cred 5) h 7 d a c s

/-- CRED.OR (R206). -/
def execCredOr (h : Head) (d a c : Reg) (s : State) : Out :=
  groupWord (.cred 6) h 7 d a c s

/-- CRED.XOR (R206). -/
def execCredXor (h : Head) (d a c : Reg) (s : State) : Out :=
  groupWord (.cred 7) h 7 d a c s

/-- CRED.FADDF32 (R206). -/
def execCredFaddF32 (h : Head) (d a c : Reg) (s : State) : Out :=
  groupWord (.cred 8) h 7 d a c s

/-- CRED.FMINF32 (R206). -/
def execCredFminF32 (h : Head) (d a c : Reg) (s : State) : Out :=
  groupWord (.cred 9) h 7 d a c s

/-- LEAD (R207): fixed latency. -/
def execLead (h : Head) (pd : Fin 8) (d c : Reg) (s : State) : Out :=
  issueWord s h { group := 2, regs := [(d, 1), (c, 1)], dsts := [d], wait := true }
    (crewBody c fun s t => crewArg s t .lead d pd 0 [] 0 0 false)

/-- MEMB (R207): fixed latency. -/
def execMemb (h : Head) (d c : Reg) (s : State) : Out :=
  issueWord s h { group := 2, regs := [(d, 1), (c, 1)], dsts := [d], wait := true }
    (crewBody c fun s t => crewArg s t .memb d 7 0 [] 0 0 false)

/-- SMOV (R207): each crew takes lane L, L from its lowest active lane, where a poisoned L raises
POISON (log 83). -/
def execSmov (h : Head) (d a : Reg) (b : OpB) (s : State) : Out :=
  issueWord s h { group := 2, regs := [(d, 1), (a, 1)] ++ b.regs 1, dsts := [d], wait := true } fun s ts =>
    let low := ts.filter (supplies ts)
    low.foldl (fun (o : WordOut) t =>
      match consumed s t (b.regs 1) with
      | some i => { o with traps := o.traps ++ [(t, i)] }
      | none =>
        let u := crewOf t * 32 + (s.b32 t b).toNat % 32
        if !ts.contains u then o
        else match consumed s u [(a, 1)] with
          | some i => { o with traps := o.traps ++ [(u, i)] }
          | none => { o with s := o.s.putRegs u (wr32 d (s.r32 u a) false) }) { s := s }

/-- GANG (R208). -/
def execGang (h : Head) (b : OpB) (s : State) : Out :=
  issueWord s h { group := 2, regs := b.regs 1, wait := true } fun s ts =>
    let trap (t : Nat) : Option TrapInfo := consumed s t (b.regs 1)
    let low := ts.filter (supplies ts)
    { s := (low.filter fun t => (trap t).isNone).foldl (fun s' t =>
        s'.updCrew (crewOf t) fun c => { c with gang := (s.b32 t b).extractLsb' 0 16 }) s,
      traps := low.filterMap fun t => (trap t).map fun i => (t, i) }

/-- PSAVE (R208). -/
def execPsave (h : Head) (d : Reg) (s : State) : Out :=
  issueWord s h { group := 2, regs := [(d, 1)], dsts := [d] }
    (fixedLanes fun s t =>
      { ws := wr32 d (BitVec.ofNat 32 (128 + (((List.range 7).map fun i => (s.rdPred t i).toNat * 2 ^ i).foldl (· + ·) 0))) false })

/-- PLOAD (R208). -/
def execPload (h : Head) (a : Reg) (s : State) : Out :=
  issueWord s h { group := 2, regs := [(a, 1)] }
    (fixedLanes fun s t =>
      { ws := (List.range 7).flatMap fun i => wrP i ((s.r32 t a).getLsbD i) (s.taint t [(a, 1)]).1,
        code := (s.taint t [(a, 1)]).2 })

end Sys2Proof.Machine
end

