-- ==== Sys2Proof/Machine/Elementary.lean ====
section
/-!
DEFINITION. SFN (R139): the exact values of its functions to far more bits than a format holds, and a result within the
stated bound of them.  A fixed-point number with p fraction bits is an integer.
-/
namespace Sys2Proof.Machine

/-- The odd powers of z over their exponents: atanh z, or with z2 = -z^2 as step atan z; `t` is the next power. -/
def oddSeries (p : Nat) (z2 : Int) : Nat → Int → Nat → Int
  | 0, _, _ => 0
  | n + 1, t, k => t / k + oddSeries p z2 n (t * z2 / 2 ^ p) (k + 2)

def atanhFx (p : Nat) (z : Int) : Int := oddSeries p (z * z / 2 ^ p) (p / 3 + 8) z 1

/-- atan(1/n), for n at least 5. -/
def atanInv (p n : Nat) : Int := oddSeries p (-(2 ^ p / (n * n : Nat))) (p / 4 + 8) (2 ^ p / n) 1

/-- ln 2 = 2 atanh(1/3); pi = 16 atan(1/5) - 4 atan(1/239). -/
def ln2Fx (p : Nat) : Int := 2 * atanhFx p (2 ^ p / 3)
def piFx (p : Nat) : Int := 16 * atanInv p 5 - 4 * atanInv p 239

/-- The terms t, t * y / (k + 1), and so on. -/
def expSeries (p : Nat) (y : Int) : Nat → Int → Nat → Int
  | 0, _, _ => 0
  | n + 1, t, k => t + expSeries p y n (t * y / 2 ^ p / (k + 1)) (k + 1)

/-- e^y for y from 0 to 1. -/
def expFx (p : Nat) (y : Int) : Int := expSeries p y (p / 4 + 24) (2 ^ p) 0

/-- The terms of sin or cos of r: each is the one before times -r^2 / ((k + 1)(k + 2)). -/
def circSeries (p : Nat) (r2 : Int) : Nat → Int → Nat → Int
  | 0, _, _ => 0
  | n + 1, t, k => t + circSeries p r2 n (-(t * r2 / 2 ^ p) / ((k + 1) * (k + 2))) (k + 2)

def sinFx (p : Nat) (r : Int) : Int := circSeries p (r * r / 2 ^ p) (p / 8 + 24) r 1
def cosFx (p : Nat) (r : Int) : Int := circSeries p (r * r / 2 ^ p) (p / 8 + 24) (2 ^ p) 0

/-- (-1)^n * m * 2^e with p fraction bits. -/
def fixedOf (p : Nat) (n : Bool) (m : Nat) (e : Int) : Int :=
  let x := if 0 ≤ e + p then m * 2 ^ (e + p).toNat else m / 2 ^ (-(e + p)).toNat
  if n then -(x : Int) else x

/-- Fraction bits for an operand of that size: the result keeps 300 bits and more, whatever its size. -/
def fixedBits (m : Nat) (e : Int) : Nat := 320 + ((Nat.log2 m : Int) + e).natAbs

/-- 2^x. -/
def exp2Val (n : Bool) (m : Nat) (e : Int) : FVal :=
  if 12 ≤ (Nat.log2 m : Int) + e then .fin false 1 (if n then -4096 else 4096)
  else
    let p := fixedBits m e
    let x := fixedOf p n m e
    .fin false (expFx p (x % 2 ^ p * ln2Fx p / 2 ^ p)).toNat (x / 2 ^ p - p)

/-- log2 x of a positive x: its exponent, and the logarithm of a number from 3/4 to 3/2. -/
def log2Val (m : Nat) (e : Int) : FVal :=
  let p := 320
  let l := Nat.log2 m + (decide (3 * 2 ^ Nat.log2 m < 2 * m)).toNat
  let z : Int := ((m : Int) - 2 ^ l) * 2 ^ p / (m + 2 ^ l)
  FVal.ofScaled false ((e + l) * 2 ^ p + 2 * atanhFx p z * 2 ^ p / ln2Fx p) (-p)

/-- sin or cos x: x less the nearest multiple of pi/2, and the quadrant. -/
def circVal (cos : Bool) (n : Bool) (m : Nat) (e : Int) : FVal :=
  let p := fixedBits m e
  let x := fixedOf p n m e
  let h := piFx p / 2
  let q := (2 * x + h) / (2 * h)
  let r := x - q * h
  let k := (q + cos.toNat) % 4
  let v := if k % 2 = 0 then sinFx p r else cosFx p r
  FVal.ofScaled false (if 2 ≤ k then -v else v) (-p)

/-- tanh x = (1 - t) / (1 + t) with t = e^(-2|x|), always below 1 in size. -/
def tanhVal (n : Bool) (m : Nat) (e : Int) : FVal :=
  if 10 ≤ (Nat.log2 m : Int) + e then .fin n (2 ^ 320 - 1) (-320)
  else
    let p := fixedBits m e
    let y := -2 * fixedOf p false m e
    let k := y / ln2Fx p
    let t := expFx p (y - k * ln2Fx p) / 2 ^ (-k).toNat
    .fin n (min ((2 ^ p - t) * 2 ^ p / (2 ^ p + t)).toNat (2 ^ p - 1)) (-p)

/-- Whether a bit pattern is within k units in the last place of an exact value that the format's range holds; infinity stands
for the next power of two, and a zero has the sign of the value it stands for (R88). -/
def FFmt.within (f : FFmt) (k : Nat) (v : FVal) (x : Nat) : Bool :=
  match v with
  | .fin n m e =>
    let lg : Int := (Nat.log2 m : Int) + e
    let q := max (lg - f.fw) (1 - (f.bias : Int) - f.fw)
    let r : FVal := match f.decode x with
      | .inf n => .fin n 1 (f.bias + 1)
      | r => r
    let e0 := min q (FVal.minExp v r)
    decide (lg ≤ f.bias) && !r.isNan && (!r.isZero || r.neg == n) && decide ((r.scaled e0 - v.scaled e0).natAbs ≤ k * 2 ^ (q - e0).toNat)
  | _ => false

/-- The part's own result of a function where it is within the bound; else the exact value rounded, which always is. -/
def FFmt.ownResult (f : FFmt) (fn x k : Nat) (v : FVal) : Nat :=
  let r := Config.sfn (f.fw == 52) fn x % 2 ^ (f.fw + f.ew + 1)
  if f.within k v r then r else f.round .rne false v

/-- A value that the format holds is returned exactly, any other within the bound. -/
def FFmt.exactOr (f : FFmt) (fn x k : Nat) (v : FVal) : Nat :=
  if f.round .rdn false v = f.round .rup false v then f.round .rdn false v else f.ownResult fn x k v

def isPow2 (m : Nat) : Bool := 2 ^ Nat.log2 m == m

/-- SFN (R139) on an operand already read, before FTZ of the result and SAT: special values, the results that are exact, and
the part's own within the stated bound. -/
def FFmt.sfn (f : FFmt) (fn : SfnFn) (x : Nat) : Nat :=
  match f.decode x, fn with
  | .nan, _ => f.nanBits
  | .zero n, .rcp => f.infBits n
  | .inf n, .rcp => f.signed n 0
  | .fin n m e, .rcp => f.exactOr fn.code x 1 (FVal.div (.fin false 1 0) (.fin n m e))
  | .zero n, .rsq => f.infBits n
  | .inf n, .rsq => if n then f.nanBits else 0
  | .fin n m e, .rsq => if n then f.nanBits else f.ownResult fn.code x 1 (FVal.rsqrt (.fin false m e))
  | v, .sqrt => f.round .rne false (FVal.sqrt v)
  | .inf n, .exp2 => if n then 0 else f.infBits false
  | .zero _, .exp2 => f.oneBits
  | .fin n m e, .exp2 =>
    if (Nat.log2 m : Int) + e < 12 ∧ (0 ≤ e ∨ m % 2 ^ (-e).toNat = 0) then
      f.exactOr fn.code x 1 (.fin false 1 (fixedOf 0 n m e))
    else f.ownResult fn.code x 1 (exp2Val n m e)
  | .zero _, .log2 => f.infBits true
  | .inf n, .log2 => if n then f.nanBits else f.infBits false
  | .fin n m e, .log2 =>
    if n then f.nanBits
    else if isPow2 m then f.round .rne false (FVal.ofInt ((Nat.log2 m : Int) + e)) else f.ownResult fn.code x 1 (log2Val m e)
  | .zero n, .sin => f.signed n 0
  | .fin n m e, .sin => f.ownResult fn.code x 1 (circVal false n m e)
  | .zero _, .cos => f.oneBits
  | .fin n m e, .cos => f.ownResult fn.code x 1 (circVal true n m e)
  | .inf _, .sin => f.nanBits
  | .inf _, .cos => f.nanBits
  | .zero n, .tanh => f.signed n 0
  | .inf n, .tanh => f.signed n f.oneBits
  | .fin n m e, .tanh => f.ownResult fn.code x (if f.fw = 23 then 2 else 1) (tanhVal n m e)

end Sys2Proof.Machine
end

