-- ==== Sys2Proof/Machine/Integer.lean ====
section
/-!
DEFINITION. The meanings of group 0 (R117 to R130): integer and bit arithmetic, comparison, predicate logic and moves.
Each reads all its operands before it writes (R112), carries poison to its result (R391) and touches no memory (R114).
-/
namespace Sys2Proof.Machine

/-- A word whose lanes compute register results from register sources at once (R33). -/
def aluWord (g : Nat) (h : Head) (dst : List (Reg × Nat)) (srcs : List (Reg × Nat))
    (ws : State → Nat → Bool → List RegWrite) (s : State) : Out :=
  issueWord s h { group := g, regs := dst ++ srcs, dsts := dst.map Prod.fst }
    (fixedLanes fun s t => { ws := ws s t (s.taint t srcs).1, code := (s.taint t srcs).2 })

/-- The same with variable latency (R116). -/
def varWord (g : Nat) (h : Head) (dst : List (Reg × Nat)) (srcs : List (Reg × Nat))
    (ws : State → Nat → Bool → List RegWrite) (s : State) : Out :=
  issueWord s h { group := g, regs := dst ++ srcs, dsts := dst.map Prod.fst, var := true }
    (varLanes h.dc.val fun s t => { ws := ws s t (s.taint t srcs).1, code := (s.taint t srcs).2 })

/-- Two 32-bit operands, one 32-bit result. -/
def int32 (h : Head) (d a : Reg) (b : OpB) (f : W32 → W32 → W32) (s : State) : Out :=
  aluWord 0 h [(d, 1)] ((a, 1) :: b.regs 1) (fun s t p => wr32 d (f (s.r32 t a) (s.b32 t b)) p) s

/-- Two 64-bit operands, one 64-bit result. -/
def int64 (h : Head) (d a : Reg) (b : OpB) (f : W64 → W64 → W64) (s : State) : Out :=
  aluWord 0 h [(d, 2)] ((a, 2) :: b.regs 2) (fun s t p => wr64 d (f (s.r64 t a) (s.b64 t b)) p) s

/-- Three 32-bit operands. -/
def int3 (h : Head) (d a b c : Reg) (f : W32 → W32 → W32 → W32) (s : State) : Out :=
  aluWord 0 h [(d, 1)] [(a, 1), (b, 1), (c, 1)]
    (fun s t p => wr32 d (f (s.r32 t a) (s.r32 t b) (s.r32 t c)) p) s

/-- One 32-bit operand. -/
def int1 (h : Head) (d a : Reg) (f : W32 → W32) (s : State) : Out :=
  aluWord 0 h [(d, 1)] [(a, 1)] (fun s t p => wr32 d (f (s.r32 t a)) p) s

/-- Shifts of 64 bits: the count is a 32-bit operand (R122). -/
def shift64 (h : Head) (d a : Reg) (b : OpB) (f : W64 → W32 → W64) (s : State) : Out :=
  aluWord 0 h [(d, 2)] ((a, 2) :: b.regs 1) (fun s t p => wr64 d (f (s.r64 t a) (s.b32 t b)) p) s

/-- Widening multiply-add (R118). -/
def madw (h : Head) (d a b c : Reg) (f : W32 → W32 → W64 → W64) (s : State) : Out :=
  aluWord 0 h [(d, 2)] [(a, 1), (b, 1), (c, 2)]
    (fun s t p => wr64 d (f (s.r32 t a) (s.r32 t b) (s.r64 t c)) p) s

/-- ADDC and SUBC (R117). -/
def carryWord (h : Head) (pci pco : Fin 8) (cneg : Bool) (d a : Reg) (b : OpB) (f : W32 → W32 → Bool → W32 × Bool)
    (s : State) : Out :=
  aluWord 0 h [(d, 1)] ((a, 1) :: b.regs 1)
    (fun s t p =>
      let r := f (s.r32 t a) (s.b32 t b) (Bool.xor (s.rdPred t pci.val) cneg)
      wr32 d r.1 p ++ wrP pco.val r.2 p) s

/-- DIV and REM (R119). -/
def div32 (h : Head) (d a : Reg) (b : OpB) (f : W32 → W32 → W32) (s : State) : Out :=
  varWord 0 h [(d, 1)] ((a, 1) :: b.regs 1) (fun s t p => wr32 d (f (s.r32 t a) (s.b32 t b)) p) s

def div64 (h : Head) (d a : Reg) (b : OpB) (f : W64 → W64 → W64) (s : State) : Out :=
  varWord 0 h [(d, 2)] ((a, 2) :: b.regs 2) (fun s t p => wr64 d (f (s.r64 t a) (s.b64 t b)) p) s

/-- ICMP (R126): the truth goes to dst and to pd. -/
def icmp32 (h : Head) (cmp : ICmp) (pd : Fin 8) (d a : Reg) (b : OpB) (f : W32 → Int) (s : State) : Out :=
  aluWord 0 h [(d, 1)] ((a, 1) :: b.regs 1)
    (fun s t p =>
      let r := ICmp.holds cmp (f (s.r32 t a)) (f (s.b32 t b))
      wr32 d (truthWord r) p ++ wrP pd.val r p) s

def icmp64 (h : Head) (cmp : ICmp) (pd : Fin 8) (d a : Reg) (b : OpB) (f : W64 → Int) (s : State) : Out :=
  aluWord 0 h [(d, 1)] ((a, 2) :: b.regs 2)
    (fun s t p =>
      let r := ICmp.holds cmp (f (s.r64 t a)) (f (s.b64 t b))
      wr32 d (truthWord r) p ++ wrP pd.val r p) s


/-- ADD.B32 (R117). -/
def execAddB32 (h : Head) (d a : Reg) (b : OpB) (s : State) : Out :=
  int32 h d a b (· + ·) s

/-- ADD.B64 (R117). -/
def execAddB64 (h : Head) (d a : Reg) (b : OpB) (s : State) : Out :=
  int64 h d a b (· + ·) s

/-- ADD3.B32 (R117). -/
def execAdd3B32 (h : Head) (d a b c : Reg) (s : State) : Out :=
  int3 h d a b c (fun x y z => x + y + z) s

/-- ADDC.B32 (R117). -/
def execAddcB32 (h : Head) (pci pco : Fin 8) (cneg : Bool) (d a : Reg) (b : OpB) (s : State) : Out :=
  carryWord h pci pco cneg d a b addCarry s

/-- ADDS.S32 (R117). -/
def execAddsS32 (h : Head) (d a : Reg) (b : OpB) (s : State) : Out :=
  int32 h d a b addSat s

/-- SUB.B32 (R117). -/
def execSubB32 (h : Head) (d a : Reg) (b : OpB) (s : State) : Out :=
  int32 h d a b (· - ·) s

/-- SUB.B64 (R117). -/
def execSubB64 (h : Head) (d a : Reg) (b : OpB) (s : State) : Out :=
  int64 h d a b (· - ·) s

/-- SUBC.B32 (R117). -/
def execSubcB32 (h : Head) (pci pco : Fin 8) (cneg : Bool) (d a : Reg) (b : OpB) (s : State) : Out :=
  carryWord h pci pco cneg d a b subCarry s

/-- SUBS.S32 (R117). -/
def execSubsS32 (h : Head) (d a : Reg) (b : OpB) (s : State) : Out :=
  int32 h d a b subSat s

/-- MUL.B32 (R118). -/
def execMulB32 (h : Head) (d a : Reg) (b : OpB) (s : State) : Out :=
  int32 h d a b (· * ·) s

/-- MUL.B64 (R118). -/
def execMulB64 (h : Head) (d a : Reg) (b : OpB) (s : State) : Out :=
  int64 h d a b (· * ·) s

/-- MULH.S32 (R118). -/
def execMulhS32 (h : Head) (d a : Reg) (b : OpB) (s : State) : Out :=
  int32 h d a b mulhS s

/-- MULH.Z32 (R118). -/
def execMulhZ32 (h : Head) (d a : Reg) (b : OpB) (s : State) : Out :=
  int32 h d a b mulhZ s

/-- MAD.B32 (R118). -/
def execMadB32 (h : Head) (d a b c : Reg) (s : State) : Out :=
  int3 h d a b c (fun x y z => x * y + z) s

/-- MADW.S32 (R118). -/
def execMadwS32 (h : Head) (d a b c : Reg) (s : State) : Out :=
  madw h d a b c madwS s

/-- MADW.Z32 (R118). -/
def execMadwZ32 (h : Head) (d a b c : Reg) (s : State) : Out :=
  madw h d a b c madwZ s

/-- DIV.S32 (R119). -/
def execDivS32 (h : Head) (d a : Reg) (b : OpB) (s : State) : Out :=
  div32 h d a b (fun x y => (divremS x y).1) s

/-- DIV.Z32 (R119). -/
def execDivZ32 (h : Head) (d a : Reg) (b : OpB) (s : State) : Out :=
  div32 h d a b (fun x y => (divremZ x y).1) s

/-- DIV.S64 (R119). -/
def execDivS64 (h : Head) (d a : Reg) (b : OpB) (s : State) : Out :=
  div64 h d a b (fun x y => (divremS x y).1) s

/-- DIV.Z64 (R119). -/
def execDivZ64 (h : Head) (d a : Reg) (b : OpB) (s : State) : Out :=
  div64 h d a b (fun x y => (divremZ x y).1) s

/-- REM.S32 (R119). -/
def execRemS32 (h : Head) (d a : Reg) (b : OpB) (s : State) : Out :=
  div32 h d a b (fun x y => (divremS x y).2) s

/-- REM.Z32 (R119). -/
def execRemZ32 (h : Head) (d a : Reg) (b : OpB) (s : State) : Out :=
  div32 h d a b (fun x y => (divremZ x y).2) s

/-- MIN.S32 (R120). -/
def execMinS32 (h : Head) (d a : Reg) (b : OpB) (s : State) : Out :=
  int32 h d a b minS s

/-- MIN.Z32 (R120). -/
def execMinZ32 (h : Head) (d a : Reg) (b : OpB) (s : State) : Out :=
  int32 h d a b minZ s

/-- MAX.S32 (R120). -/
def execMaxS32 (h : Head) (d a : Reg) (b : OpB) (s : State) : Out :=
  int32 h d a b maxS s

/-- MAX.Z32 (R120). -/
def execMaxZ32 (h : Head) (d a : Reg) (b : OpB) (s : State) : Out :=
  int32 h d a b maxZ s

/-- CLAMP.S32 (R120). -/
def execClampS32 (h : Head) (d a b c : Reg) (s : State) : Out :=
  int3 h d a b c clampS s

/-- CLAMP.Z32 (R120). -/
def execClampZ32 (h : Head) (d a b c : Reg) (s : State) : Out :=
  int3 h d a b c clampZ s

/-- ABS.S32 (R120). -/
def execAbsS32 (h : Head) (sat : Bool) (d a : Reg) (s : State) : Out :=
  int1 h d a (absS32 sat) s

/-- NEG.S32 (R120). -/
def execNegS32 (h : Head) (sat : Bool) (d a : Reg) (s : State) : Out :=
  int1 h d a (negS32 sat) s

/-- AND (R121). -/
def execAndB (h : Head) (d a : Reg) (b : OpB) (s : State) : Out :=
  int32 h d a b (· &&& ·) s

/-- OR (R121). -/
def execOrB (h : Head) (d a : Reg) (b : OpB) (s : State) : Out :=
  int32 h d a b (· ||| ·) s

/-- XOR (R121). -/
def execXorB (h : Head) (d a : Reg) (b : OpB) (s : State) : Out :=
  int32 h d a b (· ^^^ ·) s

/-- ANDN (R121). -/
def execAndn (h : Head) (d a : Reg) (b : OpB) (s : State) : Out :=
  int32 h d a b (fun x y => x &&& ~~~y) s

/-- NOT (R121). -/
def execNotB (h : Head) (d a : Reg) (s : State) : Out :=
  int1 h d a (~~~ ·) s

/-- SHL.B32 (R122). -/
def execShlB32 (h : Head) (d a : Reg) (b : OpB) (s : State) : Out :=
  int32 h d a b shl s

/-- SHL.B64 (R122). -/
def execShlB64 (h : Head) (d a : Reg) (b : OpB) (s : State) : Out :=
  shift64 h d a b shl s

/-- SHR.B32 (R122). -/
def execShrB32 (h : Head) (d a : Reg) (b : OpB) (s : State) : Out :=
  int32 h d a b shr s

/-- SHR.B64 (R122). -/
def execShrB64 (h : Head) (d a : Reg) (b : OpB) (s : State) : Out :=
  shift64 h d a b shr s

/-- SAR.B32 (R122). -/
def execSarB32 (h : Head) (d a : Reg) (b : OpB) (s : State) : Out :=
  int32 h d a b sar s

/-- SAR.B64 (R122). -/
def execSarB64 (h : Head) (d a : Reg) (b : OpB) (s : State) : Out :=
  shift64 h d a b sar s

/-- ROT.B32 (R122). -/
def execRotB32 (h : Head) (right : Bool) (d a : Reg) (b : OpB) (s : State) : Out :=
  int32 h d a b (rot32 right) s

/-- FSH (R122). -/
def execFsh (h : Head) (right : Bool) (d a b c : Reg) (s : State) : Out :=
  int3 h d a b c (fsh32 right) s

/-- BFX.S32 (R123). -/
def execBfxS32 (h : Head) (d a : Reg) (b : OpB) (s : State) : Out :=
  int32 h d a b (bfx true) s

/-- BFX.Z32 (R123). -/
def execBfxZ32 (h : Head) (d a : Reg) (b : OpB) (s : State) : Out :=
  int32 h d a b (bfx false) s

/-- BFI (R123). -/
def execBfi (h : Head) (d a b c : Reg) (s : State) : Out :=
  int3 h d a b c bfi s

/-- BMSK (R123). -/
def execBmsk (h : Head) (d : Reg) (b : OpB) (s : State) : Out :=
  aluWord 0 h [(d, 1)] (b.regs 1) (fun s t p => wr32 d (bmsk (s.b32 t b)) p) s

/-- POPC (R123). -/
def execPopc (h : Head) (d a : Reg) (s : State) : Out :=
  int1 h d a popc s

/-- CLZ (R123). -/
def execClz (h : Head) (d a : Reg) (s : State) : Out :=
  int1 h d a clz s

/-- BREV (R123). -/
def execBrev (h : Head) (d a : Reg) (s : State) : Out :=
  int1 h d a brev s

/-- BSWZ (R124). -/
def execBswz (h : Head) (d a b c : Reg) (s : State) : Out :=
  int3 h d a b c bswz s

/-- SEL (R125): the result carries the poison bit of the operand it selects and no other (R391). -/
def execSel (h : Head) (pc : Fin 8) (pneg : Bool) (d a : Reg) (b : OpB) (s : State) : Out :=
  issueWord s h { group := 0, regs := [(d, 1), (a, 1)] ++ b.regs 1, dsts := [d] }
    (fixedLanes fun s t =>
      let first := Bool.xor (s.rdPred t pc.val) pneg
      let p := s.taint t (if first then [(a, 1)] else b.regs 1)
      { ws := wr32 d (if first then s.r32 t a else s.b32 t b) p.1, code := p.2 })

/-- ICMP.S32 (R126). -/
def execIcmpS32 (h : Head) (cmp : ICmp) (pd : Fin 8) (d a : Reg) (b : OpB) (s : State) : Out :=
  icmp32 h cmp pd d a b BitVec.toInt s

/-- ICMP.Z32 (R126). -/
def execIcmpZ32 (h : Head) (cmp : ICmp) (pd : Fin 8) (d a : Reg) (b : OpB) (s : State) : Out :=
  icmp32 h cmp pd d a b (fun x => (x.toNat : Int)) s

/-- ICMP.S64 (R126). -/
def execIcmpS64 (h : Head) (cmp : ICmp) (pd : Fin 8) (d a : Reg) (b : OpB) (s : State) : Out :=
  icmp64 h cmp pd d a b BitVec.toInt s

/-- ICMP.Z64 (R126). -/
def execIcmpZ64 (h : Head) (cmp : ICmp) (pd : Fin 8) (d a : Reg) (b : OpB) (s : State) : Out :=
  icmp64 h cmp pd d a b (fun x => (x.toNat : Int)) s

/-- IDOT4.S8 (R128). -/
def execIdot4S8 (h : Head) (sat : Bool) (d a b c : Reg) (s : State) : Out :=
  int3 h d a b c (idot4S sat) s

/-- IDOT4.Z8 (R128). -/
def execIdot4Z8 (h : Head) (sat : Bool) (d a b c : Reg) (s : State) : Out :=
  int3 h d a b c (idot4Z sat) s

/-- SAD (R128). -/
def execSad (h : Head) (d a b c : Reg) (s : State) : Out :=
  int3 h d a b c sad s

/-- LEA (R129). -/
def execLea (h : Head) (sh : Fin 8) (zx : Bool) (d a : Reg) (b : OpB) (s : State) : Out :=
  aluWord 0 h [(d, 2)] ((a, 2) :: b.regs 1) (fun s t p => wr64 d (lea zx sh.val (s.r64 t a) (s.b32 t b)) p) s

/-- The registers of a MOV width (R130). -/
def movWords : MovW → Nat
  | .w32 => 1
  | .w64 => 2
  | .w128 => 4

/-- MOV (R130): bits unchanged, each register with its own poison bit (R391). -/
def execMov (h : Head) (mw : MovW) (d a : Reg) (s : State) : Out :=
  let n := movWords mw
  aluWord 0 h [(d, n)] [(a, n)] (fun s t _ => ((List.range n).flatMap fun k =>
    wr32 (d.plus k) (s.r32 t (a.plus k)) (s.rdReg t (a.plus k)).2)) s

/-- MOVI (R130). -/
def execMovi (h : Head) (md : MoviMode) (d : Reg) (imm : BitVec 32) (s : State) : Out :=
  match md with
  | .w32 => aluWord 0 h [(d, 1)] [] (fun _ _ p => wr32 d imm p) s
  | .sx64 => aluWord 0 h [(d, 2)] [] (fun _ _ p => wr64 d (imm.signExtend 64) p) s
  | .zx64 => aluWord 0 h [(d, 2)] [] (fun _ _ p => wr64 d (imm.zeroExtend 64) p) s

/-- The special registers (R43). An assay crew reads its leader's values but for SLOT (R416); a handler thread reads LANE
and the time, and 0 elsewhere (R404), and so does the hub controller's thread (log 13). -/
def specialReg (s : State) (t : Nat) (r : SpecialReg) : W32 :=
  let cid := crewOf t
  let c := s.crew cid
  let b := s.billet? cid
  let bare := slotOf t == handlerSlot || coreOf t == hubCore
  let v : Nat :=
    match r with
    | .lane => laneOf t
    | .slot => if bare then 0 else slotOf t
    | .crew => if bare then 0 else c.number
    | .billet => if bare then 0 else (b.map Billet.index).getD 0
    | .core => if bare then 0 else coreOf t % 64
    | .cluster => if bare then 0 else coreOf t % 64 / 4
    | .die => if bare then 0 else coreOf t / 64
    | .module => if bare then 0 else s.module
    | .workpiece => if bare then 0 else ((s.wpOf cid).map fun w => w.ident.toNat).getD 0
    | .width => if bare then 0 else c.width
    | .gang => if bare then 0 else c.gang.toNat
    | .timelo => s.time % 2 ^ 32
    | .timehi =>
      match (s.thr t).timeHi with
      | some x => x.toNat
      | none => s.time / 2 ^ 32 % 2 ^ 32
  BitVec.ofNat 32 v

/-- Whether a special register reads domain time (R45), which an assay crew takes from its leader (R416). -/
def srIsTime : SpecialReg → Bool
  | .timelo => true
  | .timehi => true
  | _ => false

/-- R45: a read of TIMELO latches the high half of the same sample. -/
def latchTime (s : State) (ts : List Nat) : State :=
  ts.foldl (fun s t => s.updThr t fun x => { x with timeHi := some (BitVec.ofNat 32 (s.time / 2 ^ 32)) }) s

/-- MOVS (R44). -/
def execMovs (h : Head) (d : Reg) (r : SpecialReg) (s : State) : Out :=
  issueWord s h { group := 0, regs := [(d, 1)], dsts := [d], cmp := if srIsTime r then .load else .free, passes := srIsTime r }
    (fun s ts =>
      let f : State → Nat → LaneOut := fun s t => { ws := wr32 d (specialReg s t r) false }
      let o := fixedLanes f s ts
      let s' := if r = .timelo then latchTime o.s ts else o.s
      { o with s := if srIsTime r then (laneGood s ts f).foldl (fun s x => passOn s x.1 x.2) s' else s' })

/-- PLOP (R127). -/
def execPlop (h : Head) (pd pa pb pc : Fin 8) (lut : BitVec 8) (s : State) : Out :=
  issueWord s h { group := 0 }
    (fixedLanes fun s t =>
      { ws := wrP pd.val (plopBit lut (s.rdPred t pa.val) (s.rdPred t pb.val) (s.rdPred t pc.val)) false })

end Sys2Proof.Machine
end

