-- ==== Sys2Proof/Machine/Floating.lean ====
section
/-!
DEFINITION. The meanings of group 1 (R131 to R143): floating-point arithmetic, comparison and conversion, each rounded
once by RoundToFormat (R91).
-/
namespace Sys2Proof.Machine

/-- Operands as the modifiers read them (R131). -/
def opA (f : FFmt) (m : FMods) (x : Nat) : Nat := f.operand m.ftz m.absA m.negA x
def opB (f : FFmt) (m : FMods) (x : Nat) : Nat := f.operand m.ftz m.absB m.negB x
def opC (f : FFmt) (m : FMods) (x : Nat) : Nat := f.operand m.ftz m.absC m.negC x

/-- A result rounded and saturated as the modifiers ask (R90, R91). -/
def fin (f : FFmt) (m : FMods) (v : FVal) : Nat :=
  let r := f.round m.rnd m.ftz v
  if m.sat then f.sat01 r else r

def satIf (f : FFmt) (sat : Bool) (x : Nat) : Nat := if sat then f.sat01 x else x

/-- The three computations of R132 on one element. -/
def faddEl (f : FFmt) (m : FMods) (a b _c : Nat) : Nat :=
  fin f m (FVal.add m.rnd (f.decode (opA f m a)) (f.decode (opB f m b)))
def fmulEl (f : FFmt) (m : FMods) (a b _c : Nat) : Nat :=
  fin f m (FVal.mul (f.decode (opA f m a)) (f.decode (opB f m b)))
def ffmaEl (f : FFmt) (m : FMods) (a b c : Nat) : Nat :=
  fin f m (FVal.add m.rnd (FVal.mul (f.decode (opA f m a)) (f.decode (opB f m b))) (f.decode (opC f m c)))
def fdivEl (f : FFmt) (m : FMods) (a b : Nat) : Nat :=
  fin f m (FVal.div (f.decode (opA f m a)) (f.decode (opB f m b)))
def fsqrtEl (f : FFmt) (m : FMods) (a : Nat) : Nat := fin f m (FVal.sqrt (f.decode (opA f m a)))
/-- R135. -/
def fminEl (f : FFmt) (m : FMods) (a b : Nat) : Nat := f.minNum (opA f m a) (opB f m b)
def fmaxEl (f : FFmt) (m : FMods) (a b : Nat) : Nat := f.maxNum (opA f m a) (opB f m b)
def fmed3El (f : FFmt) (m : FMods) (a b c : Nat) : Nat :=
  let x := opA f m a
  let y := opB f m b
  f.maxNum (f.minNum x y) (f.minNum (f.maxNum x y) (opC f m c))

/-- Scalar forms by width. -/
def f32bin (h : Head) (d a : Reg) (b : OpB) (f : Nat → Nat → Nat) (s : State) : Out :=
  aluWord 1 h [(d, 1)] ((a, 1) :: b.regs 1)
    (fun s t p => wr32 d (BitVec.ofNat 32 (f (s.r32 t a).toNat (s.bF32 t b).toNat)) p) s
def f64bin (h : Head) (d a : Reg) (b : OpB) (f : Nat → Nat → Nat) (s : State) : Out :=
  aluWord 1 h [(d, 2)] ((a, 2) :: b.regs 2)
    (fun s t p => wr64 d (BitVec.ofNat 64 (f (s.r64 t a).toNat (s.bF64 t b).toNat)) p) s
def fpair (h : Head) (d a : Reg) (b : OpB) (f : Nat → Nat → Nat → Nat) (s : State) : Out :=
  aluWord 1 h [(d, 1)] ((a, 1) :: b.regs 1) (fun s t p => wr32 d (packed2 f (s.r32 t a) (s.bPair t b) 0) p) s
def f32tri (h : Head) (d a b c : Reg) (f : Nat → Nat → Nat → Nat) (s : State) : Out :=
  aluWord 1 h [(d, 1)] [(a, 1), (b, 1), (c, 1)]
    (fun s t p => wr32 d (BitVec.ofNat 32 (f (s.r32 t a).toNat (s.r32 t b).toNat (s.r32 t c).toNat)) p) s
def f64tri (h : Head) (d a b c : Reg) (f : Nat → Nat → Nat → Nat) (s : State) : Out :=
  aluWord 1 h [(d, 2)] [(a, 2), (b, 2), (c, 2)]
    (fun s t p => wr64 d (BitVec.ofNat 64 (f (s.r64 t a).toNat (s.r64 t b).toNat (s.r64 t c).toNat)) p) s
def fpair3 (h : Head) (d a b c : Reg) (f : Nat → Nat → Nat → Nat) (s : State) : Out :=
  aluWord 1 h [(d, 1)] [(a, 1), (b, 1), (c, 1)]
    (fun s t p => wr32 d (packed2 f (s.r32 t a) (s.r32 t b) (s.r32 t c)) p) s

/-- One operand of wa bits to a result of wd bits (32 or 64). -/
def fun1 (h : Head) (d a : Reg) (wd wa : Nat) (f : Nat → Nat) (s : State) : Out :=
  aluWord 1 h [(d, wd)] [(a, wa)]
    (fun s t p =>
      let x := if wa = 2 then (s.r64 t a).toNat else (s.r32 t a).toNat
      if wd = 2 then wr64 d (BitVec.ofNat 64 (f x)) p else wr32 d (BitVec.ofNat 32 (f x)) p) s

/-- The same with variable latency (R116). -/
def funVar1 (h : Head) (d a : Reg) (w : Nat) (f : Nat → Nat) (s : State) : Out :=
  varWord 1 h [(d, w)] [(a, w)]
    (fun s t p =>
      if w = 2 then wr64 d (BitVec.ofNat 64 (f (s.r64 t a).toNat)) p
      else wr32 d (BitVec.ofNat 32 (f (s.r32 t a).toNat)) p) s

/-- FCMP (R136) on one pair of elements. -/
def fcmpEl (f : FFmt) (cmp : FCmp) (ftz : Bool) (a b : Nat) : Bool :=
  FCmp.holds cmp (f.decode (f.operand ftz false false a)) (f.decode (f.operand ftz false false b))

/-- The packed comparison: one truth a half (R136). Where pd and pd1 are one predicate it keeps the upper half's (log 78). -/
def fcmpPair (h : Head) (f : FFmt) (cmp : FCmp) (pd pd1 : Fin 8) (ftz : Bool) (d a : Reg) (b : OpB) (s : State) : Out :=
  aluWord 1 h [(d, 1)] ((a, 1) :: b.regs 1)
    (fun s t p =>
      let x := (s.r32 t a).toNat
      let y := (s.bPair t b).toNat
      let t0 := fcmpEl f cmp ftz (x % 65536) (y % 65536)
      let t1 := fcmpEl f cmp ftz (x / 65536) (y / 65536)
      wr32 d (BitVec.ofNat 32 (t0.toNat * 0xFFFF + t1.toNat * 0xFFFF0000)) p ++ wrP pd.val t0 p ++ wrP pd1.val t1 p) s

/-- FSCALE (R138). -/
def fscaleEl (f : FFmt) (m : FMods) (a : Nat) (k : W32) : Nat :=
  fin f m (FVal.scale k.toInt (f.decode (opA f m a)))

/-- FRND (R138) with FTZ on the operand and SAT. -/
def frndEl (f : FFmt) (m : FMods) (a : Nat) : Nat := satIf f m.sat (f.frnd m.rnd (opA f m a))

/-- SFN (R139). -/
def sfnEl (f : FFmt) (fn : SfnFn) (absA negA sat ftz : Bool) (a : Nat) : Nat :=
  satIf f sat (f.flush ftz (f.sfn fn (f.operand ftz absA negA a)))

/-- Float to float (R92). -/
def cvtFF (src dst : FFmt) (m : FMods) (a : Nat) : Nat := fin dst m (src.decode (src.operand m.ftz false false a))
/-- Float to integer (R93). -/
def cvtFI (src : FFmt) (m : FMods) (lo hi : Int) (a : Nat) : Int :=
  floatToInt m.rnd lo hi (src.decode (src.operand m.ftz false false a))
/-- Integer to float (R94). -/
def cvtIF (dst : FFmt) (m : FMods) (x : Int) : Nat := fin dst m (FVal.ofInt x)

/-- The half of a packed word (R143). -/
def halfOf (hi : Bool) (x : Nat) : Nat := if hi then x / 65536 % 65536 else x % 65536

/-- FTSUM (R141): the rounded sum and its exact error. -/
def ftsum (m : FMods) (a b : Nat) : Nat × Nat :=
  let f := FFmt.f64
  let x := f.decode (opA f m a)
  let y := f.decode (opB f m b)
  let r := f.round .rne false (FVal.add .rne x y)
  let v := f.decode r
  if v.isNan || v.isInf then (r, 0)
  else
    let e := FVal.sum .rne [x, y, v.flip]
    (r, if e.isZero then 0 else f.round .rne false e)


/-- FADD.F32 (R132). -/
def execFaddF32 (h : Head) (m : FMods) (d a : Reg) (b : OpB) (s : State) : Out :=
  f32bin h d a b (fun x y => faddEl .f32 m x y 0) s

/-- FADD.F64 (R132). -/
def execFaddF64 (h : Head) (m : FMods) (d a : Reg) (b : OpB) (s : State) : Out :=
  f64bin h d a b (fun x y => faddEl .f64 m x y 0) s

/-- FADD.F16X2 (R132). -/
def execFaddF16x2 (h : Head) (m : FMods) (d a : Reg) (b : OpB) (s : State) : Out :=
  fpair h d a b (faddEl .f16 m) s

/-- FADD.BF16X2 (R132). -/
def execFaddBf16x2 (h : Head) (m : FMods) (d a : Reg) (b : OpB) (s : State) : Out :=
  fpair h d a b (faddEl .bf16 m) s

/-- FMUL.F32 (R132). -/
def execFmulF32 (h : Head) (m : FMods) (d a : Reg) (b : OpB) (s : State) : Out :=
  f32bin h d a b (fun x y => fmulEl .f32 m x y 0) s

/-- FMUL.F64 (R132). -/
def execFmulF64 (h : Head) (m : FMods) (d a : Reg) (b : OpB) (s : State) : Out :=
  f64bin h d a b (fun x y => fmulEl .f64 m x y 0) s

/-- FMUL.F16X2 (R132). -/
def execFmulF16x2 (h : Head) (m : FMods) (d a : Reg) (b : OpB) (s : State) : Out :=
  fpair h d a b (fmulEl .f16 m) s

/-- FMUL.BF16X2 (R132). -/
def execFmulBf16x2 (h : Head) (m : FMods) (d a : Reg) (b : OpB) (s : State) : Out :=
  fpair h d a b (fmulEl .bf16 m) s

/-- FFMA.F32 (R132). -/
def execFfmaF32 (h : Head) (m : FMods) (d a b c : Reg) (s : State) : Out :=
  f32tri h d a b c (ffmaEl .f32 m) s

/-- FFMA.F64 (R132). -/
def execFfmaF64 (h : Head) (m : FMods) (d a b c : Reg) (s : State) : Out :=
  f64tri h d a b c (ffmaEl .f64 m) s

/-- FFMA.F16X2 (R132). -/
def execFfmaF16x2 (h : Head) (m : FMods) (d a b c : Reg) (s : State) : Out :=
  fpair3 h d a b c (ffmaEl .f16 m) s

/-- FFMA.BF16X2 (R132). -/
def execFfmaBf16x2 (h : Head) (m : FMods) (d a b c : Reg) (s : State) : Out :=
  fpair3 h d a b c (ffmaEl .bf16 m) s

/-- FFMAW (R133). -/
def execFfmaw (h : Head) (m : FMods) (d a b c : Reg) (s : State) : Out :=
  aluWord 1 h [(d, 2)] [(a, 1), (b, 1), (c, 2)]
    (fun s t p =>
      let x := FFmt.f32.decode (opA .f32 m (s.r32 t a).toNat)
      let y := FFmt.f32.decode (opB .f32 m (s.r32 t b).toNat)
      let z := FFmt.f64.decode (opC .f64 m (s.r64 t c).toNat)
      wr64 d (BitVec.ofNat 64 (fin .f64 m (FVal.add m.rnd (FVal.mul x y) z))) p) s

/-- FDIV.F32 (R134). -/
def execFdivF32 (h : Head) (m : FMods) (d a : Reg) (b : OpB) (s : State) : Out :=
  varWord 1 h [(d, 1)] ((a, 1) :: b.regs 1)
    (fun s t p => wr32 d (BitVec.ofNat 32 (fdivEl .f32 m (s.r32 t a).toNat (s.bF32 t b).toNat)) p) s

/-- FDIV.F64 (R134). -/
def execFdivF64 (h : Head) (m : FMods) (d a : Reg) (b : OpB) (s : State) : Out :=
  varWord 1 h [(d, 2)] ((a, 2) :: b.regs 2)
    (fun s t p => wr64 d (BitVec.ofNat 64 (fdivEl .f64 m (s.r64 t a).toNat (s.bF64 t b).toNat)) p) s

/-- FSQRT.F32 (R134). -/
def execFsqrtF32 (h : Head) (m : FMods) (d a : Reg) (s : State) : Out :=
  funVar1 h d a 1 (fsqrtEl .f32 m) s

/-- FSQRT.F64 (R134). -/
def execFsqrtF64 (h : Head) (m : FMods) (d a : Reg) (s : State) : Out :=
  funVar1 h d a 2 (fsqrtEl .f64 m) s

/-- FMIN.F32 (R135). -/
def execFminF32 (h : Head) (m : FMods) (d a : Reg) (b : OpB) (s : State) : Out :=
  f32bin h d a b (fminEl .f32 m) s

/-- FMIN.F64 (R135). -/
def execFminF64 (h : Head) (m : FMods) (d a : Reg) (b : OpB) (s : State) : Out :=
  f64bin h d a b (fminEl .f64 m) s

/-- FMAX.F32 (R135). -/
def execFmaxF32 (h : Head) (m : FMods) (d a : Reg) (b : OpB) (s : State) : Out :=
  f32bin h d a b (fmaxEl .f32 m) s

/-- FMAX.F64 (R135). -/
def execFmaxF64 (h : Head) (m : FMods) (d a : Reg) (b : OpB) (s : State) : Out :=
  f64bin h d a b (fmaxEl .f64 m) s

/-- FMED3.F32 (R135). -/
def execFmed3F32 (h : Head) (m : FMods) (d a b c : Reg) (s : State) : Out :=
  f32tri h d a b c (fmed3El .f32 m) s

/-- FMED3.F64 (R135). -/
def execFmed3F64 (h : Head) (m : FMods) (d a b c : Reg) (s : State) : Out :=
  f64tri h d a b c (fmed3El .f64 m) s

/-- FCMP.F32 (R136). -/
def execFcmpF32 (h : Head) (cmp : FCmp) (pd : Fin 8) (ftz : Bool) (d a : Reg) (b : OpB) (s : State) : Out :=
  aluWord 1 h [(d, 1)] ((a, 1) :: b.regs 1)
    (fun s t p =>
      let r := fcmpEl .f32 cmp ftz (s.r32 t a).toNat (s.bF32 t b).toNat
      wr32 d (truthWord r) p ++ wrP pd.val r p) s

/-- FCMP.F64 (R136). -/
def execFcmpF64 (h : Head) (cmp : FCmp) (pd : Fin 8) (ftz : Bool) (d a : Reg) (b : OpB) (s : State) : Out :=
  aluWord 1 h [(d, 1)] ((a, 2) :: b.regs 2)
    (fun s t p =>
      let r := fcmpEl .f64 cmp ftz (s.r64 t a).toNat (s.bF64 t b).toNat
      wr32 d (truthWord r) p ++ wrP pd.val r p) s

/-- FCMP.F16X2 (R136). -/
def execFcmpF16x2 (h : Head) (cmp : FCmp) (pd pd1 : Fin 8) (ftz : Bool) (d a : Reg) (b : OpB) (s : State) : Out :=
  fcmpPair h .f16 cmp pd pd1 ftz d a b s

/-- FCMP.BF16X2 (R136). -/
def execFcmpBf16x2 (h : Head) (cmp : FCmp) (pd pd1 : Fin 8) (ftz : Bool) (d a : Reg) (b : OpB) (s : State) : Out :=
  fcmpPair h .bf16 cmp pd pd1 ftz d a b s

/-- FCLASS.F32 (R137). -/
def execFclassF32 (h : Head) (pd : Fin 8) (d a : Reg) (b : OpB) (s : State) : Out :=
  aluWord 1 h [(d, 1)] ((a, 1) :: b.regs 1)
    (fun s t p =>
      let k := fclassMask .f32 (s.r32 t a).toNat
      wr32 d (BitVec.ofNat 32 k) p ++ wrP pd.val (BitVec.ofNat 9 k &&& (s.b32 t b).extractLsb' 0 9 != 0) p) s

/-- FCLASS.F64 (R137). -/
def execFclassF64 (h : Head) (pd : Fin 8) (d a : Reg) (b : OpB) (s : State) : Out :=
  aluWord 1 h [(d, 1)] ((a, 2) :: b.regs 1)
    (fun s t p =>
      let k := fclassMask .f64 (s.r64 t a).toNat
      wr32 d (BitVec.ofNat 32 k) p ++ wrP pd.val (BitVec.ofNat 9 k &&& (s.b32 t b).extractLsb' 0 9 != 0) p) s

/-- FRND.F32 (R138). -/
def execFrndF32 (h : Head) (m : FMods) (d a : Reg) (s : State) : Out :=
  fun1 h d a 1 1 (frndEl .f32 m) s

/-- FRND.F64 (R138). -/
def execFrndF64 (h : Head) (m : FMods) (d a : Reg) (s : State) : Out :=
  fun1 h d a 2 2 (frndEl .f64 m) s

/-- FSCALE.F32 (R138). -/
def execFscaleF32 (h : Head) (m : FMods) (d a : Reg) (b : OpB) (s : State) : Out :=
  aluWord 1 h [(d, 1)] ((a, 1) :: b.regs 1)
    (fun s t p => wr32 d (BitVec.ofNat 32 (fscaleEl .f32 m (s.r32 t a).toNat (s.b32 t b))) p) s

/-- FSCALE.F64 (R138). -/
def execFscaleF64 (h : Head) (m : FMods) (d a : Reg) (b : OpB) (s : State) : Out :=
  aluWord 1 h [(d, 2)] ((a, 2) :: b.regs 1)
    (fun s t p => wr64 d (BitVec.ofNat 64 (fscaleEl .f64 m (s.r64 t a).toNat (s.b32 t b))) p) s

/-- FEXP.F32 (R138). -/
def execFexpF32 (h : Head) (ftz : Bool) (d a : Reg) (s : State) : Out :=
  fun1 h d a 1 1 (fun x => (FFmt.f32.fexp ftz x).toNat) s

/-- FEXP.F64 (R138). -/
def execFexpF64 (h : Head) (ftz : Bool) (d a : Reg) (s : State) : Out :=
  fun1 h d a 1 2 (fun x => (FFmt.f64.fexp ftz x).toNat) s

/-- SFN.F32 (R139). -/
def execSfnF32 (h : Head) (fn : SfnFn) (absA negA sat ftz : Bool) (d a : Reg) (s : State) : Out :=
  funVar1 h d a 1 (sfnEl .f32 fn absA negA sat ftz) s

/-- SFN.F64 (R139). -/
def execSfnF64 (h : Head) (fn : SfnFn) (absA negA sat ftz : Bool) (d a : Reg) (s : State) : Out :=
  funVar1 h d a 2 (sfnEl .f64 fn absA negA sat ftz) s

/-- FDOT2.BF16 (R140). -/
def execFdot2Bf16 (h : Head) (m : FMods) (d a b c : Reg) (s : State) : Out :=
  aluWord 1 h [(d, 1)] [(a, 1), (b, 1), (c, 1)]
    (fun s t p =>
      let el (hi : Bool) : FVal :=
        FVal.mul (FFmt.bf16.decode (opA .bf16 m (halfOf hi (s.r32 t a).toNat)))
          (FFmt.bf16.decode (opB .bf16 m (halfOf hi (s.r32 t b).toNat)))
      let z := FFmt.f32.decode (opC .f32 m (s.r32 t c).toNat)
      wr32 d (BitVec.ofNat 32 (fin .f32 m (FVal.sum m.rnd [el false, el true, z]))) p) s

/-- FTSUM.F64 (R141). -/
def execFtsumF64 (h : Head) (m : FMods) (d a b : Reg) (s : State) : Out :=
  aluWord 1 h [(d, 4)] [(a, 2), (b, 2)]
    (fun s t p =>
      let r := ftsum m (s.r64 t a).toNat (s.r64 t b).toNat
      wr64 d (BitVec.ofNat 64 r.1) p ++ wr64 (d.plus 2) (BitVec.ofNat 64 r.2) p) s

/-- CREL.F32 (R142). -/
def execCrelF32 (h : Head) (sat ftz : Bool) (d a b : Reg) (s : State) : Out :=
  aluWord 1 h [(d, 1)] [(a, 2), (b, 2)]
    (fun s t p =>
      let x := FFmt.f64.decode (FFmt.f64.operand ftz false false (s.r64 t a).toNat)
      let y := FFmt.f64.decode (FFmt.f64.operand ftz false false (s.r64 t b).toNat)
      wr32 d (BitVec.ofNat 32 (satIf .f32 sat (FFmt.f32.round .rne ftz (FVal.sub .rne x y)))) p) s

/-- FCVT.F32.F64 (R143, R92). -/
def execFcvtF32F64 (h : Head) (m : FMods) (d a : Reg) (s : State) : Out :=
  fun1 h d a 1 2 (cvtFF .f64 .f32 m) s

/-- FCVT.F64.F32 (R143, R92). -/
def execFcvtF64F32 (h : Head) (m : FMods) (d a : Reg) (s : State) : Out :=
  fun1 h d a 2 1 (cvtFF .f32 .f64 m) s

/-- FCVT.F32.F16 (R143, R92). -/
def execFcvtF32F16 (h : Head) (m : FMods) (hi : Bool) (d a : Reg) (s : State) : Out :=
  fun1 h d a 1 1 (fun x => cvtFF .f16 .f32 m (halfOf hi x)) s

/-- FCVT.F16X2.F32 (R143, R92). -/
def execFcvtF16x2F32 (h : Head) (m : FMods) (d a b : Reg) (s : State) : Out :=
  aluWord 1 h [(d, 1)] [(a, 1), (b, 1)]
    (fun s t p => wr32 d (BitVec.ofNat 32 (cvtFF .f32 .f16 m (s.r32 t a).toNat +
      cvtFF .f32 .f16 m (s.r32 t b).toNat * 65536)) p) s

/-- FCVT.F32.BF16 (R143, R92). -/
def execFcvtF32Bf16 (h : Head) (m : FMods) (hi : Bool) (d a : Reg) (s : State) : Out :=
  fun1 h d a 1 1 (fun x => cvtFF .bf16 .f32 m (halfOf hi x)) s

/-- FCVT.BF16X2.F32 (R143, R92). -/
def execFcvtBf16x2F32 (h : Head) (m : FMods) (d a b : Reg) (s : State) : Out :=
  aluWord 1 h [(d, 1)] [(a, 1), (b, 1)]
    (fun s t p => wr32 d (BitVec.ofNat 32 (cvtFF .f32 .bf16 m (s.r32 t a).toNat +
      cvtFF .f32 .bf16 m (s.r32 t b).toNat * 65536)) p) s

/-- FCVT.S32F32 (R143, R93). -/
def execFcvtS32F32 (h : Head) (m : FMods) (d a : Reg) (s : State) : Out :=
  fun1 h d a 1 1 (fun x => (BitVec.ofInt 32 (cvtFI .f32 m (-2 ^ 31) (2 ^ 31 - 1) x)).toNat) s

/-- FCVT.Z32F32 (R143, R93). -/
def execFcvtZ32F32 (h : Head) (m : FMods) (d a : Reg) (s : State) : Out :=
  fun1 h d a 1 1 (fun x => (BitVec.ofInt 32 (cvtFI .f32 m 0 (2 ^ 32 - 1) x)).toNat) s

/-- FCVT.F32S32 (R143, R94). -/
def execFcvtF32S32 (h : Head) (m : FMods) (d a : Reg) (s : State) : Out :=
  fun1 h d a 1 1 (fun x => cvtIF .f32 m (BitVec.ofNat 32 x).toInt) s

/-- FCVT.F32Z32 (R143, R94). -/
def execFcvtF32Z32 (h : Head) (m : FMods) (d a : Reg) (s : State) : Out :=
  fun1 h d a 1 1 (fun x => cvtIF .f32 m (x : Int)) s

/-- FCVT.S64F64 (R143, R93). -/
def execFcvtS64F64 (h : Head) (m : FMods) (d a : Reg) (s : State) : Out :=
  fun1 h d a 2 2 (fun x => (BitVec.ofInt 64 (cvtFI .f64 m (-2 ^ 63) (2 ^ 63 - 1) x)).toNat) s

/-- FCVT.Z64F64 (R143, R93). -/
def execFcvtZ64F64 (h : Head) (m : FMods) (d a : Reg) (s : State) : Out :=
  fun1 h d a 2 2 (fun x => (BitVec.ofInt 64 (cvtFI .f64 m 0 (2 ^ 64 - 1) x)).toNat) s

/-- FCVT.F64S64 (R143, R94). -/
def execFcvtF64S64 (h : Head) (m : FMods) (d a : Reg) (s : State) : Out :=
  fun1 h d a 2 2 (fun x => cvtIF .f64 m (BitVec.ofNat 64 x).toInt) s

/-- FCVT.F64Z64 (R143, R94). -/
def execFcvtF64Z64 (h : Head) (m : FMods) (d a : Reg) (s : State) : Out :=
  fun1 h d a 2 2 (fun x => cvtIF .f64 m (x : Int)) s

/-- FCVT.S32F64 (R143, R93). -/
def execFcvtS32F64 (h : Head) (m : FMods) (d a : Reg) (s : State) : Out :=
  fun1 h d a 1 2 (fun x => (BitVec.ofInt 32 (cvtFI .f64 m (-2 ^ 31) (2 ^ 31 - 1) x)).toNat) s

/-- FCVT.F64S32 (R143, R94). -/
def execFcvtF64S32 (h : Head) (m : FMods) (d a : Reg) (s : State) : Out :=
  fun1 h d a 2 1 (fun x => cvtIF .f64 m (BitVec.ofNat 32 x).toInt) s

end Sys2Proof.Machine
end

