-- ==== Sys2Proof/Machine/Graphics.lean ====
section
/-!
DEFINITION. The software traversal tests (R384 to R388).
-/
namespace Sys2Proof.Machine

/-- R384, R391: a word of fixed latency that consumes no poison: a v result takes the poison of its sources. -/
def testWord (h : Head) (d : Reg) (n : Nat) (srcs : List (Reg × Nat)) (pd : Option (Fin 8))
    (f : State → Nat → List W32 × Bool) (s : State) : Out :=
  issueWord s h { group := 6, regs := srcs ++ [(d, n)], dsts := [d], pdst := pd } (fixedLanes fun s t =>
    let r := f s t
    let poison := !Reg.isS d && (s.taint t srcs).1
    { ws := wrN d r.1 poison ++ (match pd with | some p => wrP p.val r.2 false | none => []) })

def natsOf (s : State) (t : Nat) (r : Reg) (n : Nat) : List Nat := (s.rN t r n).map BitVec.toNat

/-- TRIW (R385). -/
def execTriw (h : Head) (m : FMods) (d a b : Reg) (s : State) : Out :=
  testWord h d 1 [(a, 4), (b, 4)] none (fun s t =>
    ([BitVec.ofNat 32 (rowDot m.rnd m.ftz (natsOf s t a 4) (natsOf s t b 4))], false)) s

/-- The test of R386 on o' with TMIN and d' with Tmax. -/
def trixTest (x y : List Nat) : LeafHit :=
  let h := affineT (x.getD 0 0) (x.getD 1 0) (x.getD 2 0) (y.getD 0 0) (y.getD 1 0) (y.getD 2 0)
  { h with hit := h.hit && FVal.le (f32v (x.getD 3 0)) (f32v h.t) && FVal.le (f32v h.t) (f32v (y.getD 3 0)) }

/-- TRIX (R386). -/
def execTrix (h : Head) (pd : Fin 8) (d a b : Reg) (s : State) : Out :=
  testWord h d 4 [(a, 4), (b, 4)] (some pd) (fun s t =>
    let r := trixTest (natsOf s t a 4) (natsOf s t b 4)
    ([r.t, r.u, r.v, r.s].map (BitVec.ofNat 32), r.hit)) s

/-- TRIX.D (R386): the VIS64 pixel. -/
def execTrixD (h : Head) (pd : Fin 8) (d a b c : Reg) (s : State) : Out :=
  testWord h d 2 [(a, 4), (b, 4), (c, 1)] (some pd) (fun s t =>
    let r := trixTest (natsOf s t a 4) (natsOf s t b 4)
    (if r.hit then [BitVec.ofNat 32 r.t, s.r32 t c] else [0xFFFFFFFF, 0xFFFFFFFF], r.hit)) s

/-- R387: tn of child j. -/
def boxTest (a b c : List Nat) (j : Nat) : Nat × Bool :=
  let e := a.getD 3 0
  let q := (b.zipIdx.map fun x => x.1 * 2 ^ (32 * x.2)).foldl (· + ·) 0 / 2 ^ (72 * j) % 2 ^ 72
  let r : Ray := { o := c.take 3, tmin := c.getD 3 0, d := (c.drop 4).take 3, tmax := c.getD 7 0 }
  let miss := (FFmt.f32.infBits false, false)
  if e / 2 ^ (24 + j) % 2 = 0 then miss
  else match childBox (a.take 3) ((List.range 3).map fun i => e / 2 ^ (8 * i) % 256) q with
    | none => miss
    | some box =>
      match slabHit box r r.tmax with
      | some near => (FFmt.f32.maxNum near r.tmin, true)
      | none => miss

/-- BOX12 (R387). -/
def execBox12 (h : Head) (k pd : Fin 8) (d a b c : Reg) (s : State) : Out :=
  testWord h d 1 [(a, 4), (b, 18), (c, 8)] (some pd) (fun s t =>
    let r := boxTest (natsOf s t a 4) (natsOf s t b 18) (natsOf s t c 8) k.val
    ([BitVec.ofNat 32 r.1], r.2)) s

/-- BOX12.4 (R387). -/
def execBox12x4 (h : Head) (hf : Bool) (pd : Fin 8) (d a b c : Reg) (s : State) : Out :=
  testWord h d 4 [(a, 4), (b, 18), (c, 8)] (some pd) (fun s t =>
    let r := (List.range 4).map fun e =>
      boxTest (natsOf s t a 4) (natsOf s t b 18) (natsOf s t c 8) (4 * hf.toNat + e)
    (r.map fun x => BitVec.ofNat 32 x.1, r.any Prod.snd)) s

/-- R388: the reference of child k. -/
def childRef (a : List Nat) (cmask k : Nat) : List W32 × Bool :=
  if cmask / 2 ^ (24 + k) % 2 = 0 then ([0xFFFFFFFF, 0xFFFFFFFF], false)
  else
    let r := a.getD (2 + k / 4) 0 / 2 ^ (8 * (k % 4)) % 256
    if r < 128 then ([BitVec.ofNat 32 (a.getD 0 0 + r), 0], true)
    else ([BitVec.ofNat 32 (a.getD 1 0 + r / 8 % 16), BitVec.ofNat 32 (2 ^ 31 + r % 8 + 1)], true)

/-- NODEX (R388). -/
def execNodex (h : Head) (k pd : Fin 8) (d a b : Reg) (s : State) : Out :=
  testWord h d 2 [(a, 4), (b, 1)] (some pd) (fun s t => childRef (natsOf s t a 4) (s.r32 t b).toNat k.val) s

end Sys2Proof.Machine
end

