-- ==== Sys2Proof/Machine/Dispatch.lean ====
section
/-!
DEFINITION. One arm per instruction: the direct call of its meaning.
-/
namespace Sys2Proof.Machine

def exec (i : Instr) (s : State) : Host.Outcome State Fault Refusal :=
  match i with
  | .addB32 h d a b => Sys2Proof.Machine.execAddB32 h d a b s
  | .addB64 h d a b => Sys2Proof.Machine.execAddB64 h d a b s
  | .add3B32 h d a b c => Sys2Proof.Machine.execAdd3B32 h d a b c s
  | .addcB32 h pci pco cneg d a b => Sys2Proof.Machine.execAddcB32 h pci pco cneg d a b s
  | .addsS32 h d a b => Sys2Proof.Machine.execAddsS32 h d a b s
  | .subB32 h d a b => Sys2Proof.Machine.execSubB32 h d a b s
  | .subB64 h d a b => Sys2Proof.Machine.execSubB64 h d a b s
  | .subcB32 h pci pco cneg d a b => Sys2Proof.Machine.execSubcB32 h pci pco cneg d a b s
  | .subsS32 h d a b => Sys2Proof.Machine.execSubsS32 h d a b s
  | .mulB32 h d a b => Sys2Proof.Machine.execMulB32 h d a b s
  | .mulB64 h d a b => Sys2Proof.Machine.execMulB64 h d a b s
  | .mulhS32 h d a b => Sys2Proof.Machine.execMulhS32 h d a b s
  | .mulhZ32 h d a b => Sys2Proof.Machine.execMulhZ32 h d a b s
  | .madB32 h d a b c => Sys2Proof.Machine.execMadB32 h d a b c s
  | .madwS32 h d a b c => Sys2Proof.Machine.execMadwS32 h d a b c s
  | .madwZ32 h d a b c => Sys2Proof.Machine.execMadwZ32 h d a b c s
  | .divS32 h d a b => Sys2Proof.Machine.execDivS32 h d a b s
  | .divZ32 h d a b => Sys2Proof.Machine.execDivZ32 h d a b s
  | .divS64 h d a b => Sys2Proof.Machine.execDivS64 h d a b s
  | .divZ64 h d a b => Sys2Proof.Machine.execDivZ64 h d a b s
  | .remS32 h d a b => Sys2Proof.Machine.execRemS32 h d a b s
  | .remZ32 h d a b => Sys2Proof.Machine.execRemZ32 h d a b s
  | .minS32 h d a b => Sys2Proof.Machine.execMinS32 h d a b s
  | .minZ32 h d a b => Sys2Proof.Machine.execMinZ32 h d a b s
  | .maxS32 h d a b => Sys2Proof.Machine.execMaxS32 h d a b s
  | .maxZ32 h d a b => Sys2Proof.Machine.execMaxZ32 h d a b s
  | .clampS32 h d a b c => Sys2Proof.Machine.execClampS32 h d a b c s
  | .clampZ32 h d a b c => Sys2Proof.Machine.execClampZ32 h d a b c s
  | .absS32 h sat d a => Sys2Proof.Machine.execAbsS32 h sat d a s
  | .negS32 h sat d a => Sys2Proof.Machine.execNegS32 h sat d a s
  | .andB h d a b => Sys2Proof.Machine.execAndB h d a b s
  | .orB h d a b => Sys2Proof.Machine.execOrB h d a b s
  | .xorB h d a b => Sys2Proof.Machine.execXorB h d a b s
  | .andn h d a b => Sys2Proof.Machine.execAndn h d a b s
  | .notB h d a => Sys2Proof.Machine.execNotB h d a s
  | .shlB32 h d a b => Sys2Proof.Machine.execShlB32 h d a b s
  | .shlB64 h d a b => Sys2Proof.Machine.execShlB64 h d a b s
  | .shrB32 h d a b => Sys2Proof.Machine.execShrB32 h d a b s
  | .shrB64 h d a b => Sys2Proof.Machine.execShrB64 h d a b s
  | .sarB32 h d a b => Sys2Proof.Machine.execSarB32 h d a b s
  | .sarB64 h d a b => Sys2Proof.Machine.execSarB64 h d a b s
  | .rotB32 h right d a b => Sys2Proof.Machine.execRotB32 h right d a b s
  | .fsh h right d a b c => Sys2Proof.Machine.execFsh h right d a b c s
  | .bfxS32 h d a b => Sys2Proof.Machine.execBfxS32 h d a b s
  | .bfxZ32 h d a b => Sys2Proof.Machine.execBfxZ32 h d a b s
  | .bfi h d a b c => Sys2Proof.Machine.execBfi h d a b c s
  | .bmsk h d b => Sys2Proof.Machine.execBmsk h d b s
  | .popc h d a => Sys2Proof.Machine.execPopc h d a s
  | .clz h d a => Sys2Proof.Machine.execClz h d a s
  | .brev h d a => Sys2Proof.Machine.execBrev h d a s
  | .bswz h d a b c => Sys2Proof.Machine.execBswz h d a b c s
  | .sel h pc pneg d a b => Sys2Proof.Machine.execSel h pc pneg d a b s
  | .icmpS32 h cmp pd d a b => Sys2Proof.Machine.execIcmpS32 h cmp pd d a b s
  | .icmpZ32 h cmp pd d a b => Sys2Proof.Machine.execIcmpZ32 h cmp pd d a b s
  | .icmpS64 h cmp pd d a b => Sys2Proof.Machine.execIcmpS64 h cmp pd d a b s
  | .icmpZ64 h cmp pd d a b => Sys2Proof.Machine.execIcmpZ64 h cmp pd d a b s
  | .idot4S8 h sat d a b c => Sys2Proof.Machine.execIdot4S8 h sat d a b c s
  | .idot4Z8 h sat d a b c => Sys2Proof.Machine.execIdot4Z8 h sat d a b c s
  | .sad h d a b c => Sys2Proof.Machine.execSad h d a b c s
  | .lea h sh zx d a b => Sys2Proof.Machine.execLea h sh zx d a b s
  | .mov h mw d a => Sys2Proof.Machine.execMov h mw d a s
  | .movi h md d imm => Sys2Proof.Machine.execMovi h md d imm s
  | .movs h d r => Sys2Proof.Machine.execMovs h d r s
  | .plop h pd pa pb pc lut => Sys2Proof.Machine.execPlop h pd pa pb pc lut s
  | .faddF32 h m d a b => Sys2Proof.Machine.execFaddF32 h m d a b s
  | .faddF64 h m d a b => Sys2Proof.Machine.execFaddF64 h m d a b s
  | .faddF16x2 h m d a b => Sys2Proof.Machine.execFaddF16x2 h m d a b s
  | .faddBf16x2 h m d a b => Sys2Proof.Machine.execFaddBf16x2 h m d a b s
  | .fmulF32 h m d a b => Sys2Proof.Machine.execFmulF32 h m d a b s
  | .fmulF64 h m d a b => Sys2Proof.Machine.execFmulF64 h m d a b s
  | .fmulF16x2 h m d a b => Sys2Proof.Machine.execFmulF16x2 h m d a b s
  | .fmulBf16x2 h m d a b => Sys2Proof.Machine.execFmulBf16x2 h m d a b s
  | .ffmaF32 h m d a b c => Sys2Proof.Machine.execFfmaF32 h m d a b c s
  | .ffmaF64 h m d a b c => Sys2Proof.Machine.execFfmaF64 h m d a b c s
  | .ffmaF16x2 h m d a b c => Sys2Proof.Machine.execFfmaF16x2 h m d a b c s
  | .ffmaBf16x2 h m d a b c => Sys2Proof.Machine.execFfmaBf16x2 h m d a b c s
  | .ffmaw h m d a b c => Sys2Proof.Machine.execFfmaw h m d a b c s
  | .fdivF32 h m d a b => Sys2Proof.Machine.execFdivF32 h m d a b s
  | .fdivF64 h m d a b => Sys2Proof.Machine.execFdivF64 h m d a b s
  | .fsqrtF32 h m d a => Sys2Proof.Machine.execFsqrtF32 h m d a s
  | .fsqrtF64 h m d a => Sys2Proof.Machine.execFsqrtF64 h m d a s
  | .fminF32 h m d a b => Sys2Proof.Machine.execFminF32 h m d a b s
  | .fminF64 h m d a b => Sys2Proof.Machine.execFminF64 h m d a b s
  | .fmaxF32 h m d a b => Sys2Proof.Machine.execFmaxF32 h m d a b s
  | .fmaxF64 h m d a b => Sys2Proof.Machine.execFmaxF64 h m d a b s
  | .fmed3F32 h m d a b c => Sys2Proof.Machine.execFmed3F32 h m d a b c s
  | .fmed3F64 h m d a b c => Sys2Proof.Machine.execFmed3F64 h m d a b c s
  | .fcmpF32 h cmp pd ftz d a b => Sys2Proof.Machine.execFcmpF32 h cmp pd ftz d a b s
  | .fcmpF64 h cmp pd ftz d a b => Sys2Proof.Machine.execFcmpF64 h cmp pd ftz d a b s
  | .fcmpF16x2 h cmp pd pd1 ftz d a b => Sys2Proof.Machine.execFcmpF16x2 h cmp pd pd1 ftz d a b s
  | .fcmpBf16x2 h cmp pd pd1 ftz d a b => Sys2Proof.Machine.execFcmpBf16x2 h cmp pd pd1 ftz d a b s
  | .fclassF32 h pd d a b => Sys2Proof.Machine.execFclassF32 h pd d a b s
  | .fclassF64 h pd d a b => Sys2Proof.Machine.execFclassF64 h pd d a b s
  | .frndF32 h m d a => Sys2Proof.Machine.execFrndF32 h m d a s
  | .frndF64 h m d a => Sys2Proof.Machine.execFrndF64 h m d a s
  | .fscaleF32 h m d a b => Sys2Proof.Machine.execFscaleF32 h m d a b s
  | .fscaleF64 h m d a b => Sys2Proof.Machine.execFscaleF64 h m d a b s
  | .fexpF32 h ftz d a => Sys2Proof.Machine.execFexpF32 h ftz d a s
  | .fexpF64 h ftz d a => Sys2Proof.Machine.execFexpF64 h ftz d a s
  | .sfnF32 h fn absA negA sat ftz d a => Sys2Proof.Machine.execSfnF32 h fn absA negA sat ftz d a s
  | .sfnF64 h fn absA negA sat ftz d a => Sys2Proof.Machine.execSfnF64 h fn absA negA sat ftz d a s
  | .fdot2Bf16 h m d a b c => Sys2Proof.Machine.execFdot2Bf16 h m d a b c s
  | .ftsumF64 h m d a b => Sys2Proof.Machine.execFtsumF64 h m d a b s
  | .crelF32 h sat ftz d a b => Sys2Proof.Machine.execCrelF32 h sat ftz d a b s
  | .fcvtF32F64 h m d a => Sys2Proof.Machine.execFcvtF32F64 h m d a s
  | .fcvtF64F32 h m d a => Sys2Proof.Machine.execFcvtF64F32 h m d a s
  | .fcvtF32F16 h m hi d a => Sys2Proof.Machine.execFcvtF32F16 h m hi d a s
  | .fcvtF16x2F32 h m d a b => Sys2Proof.Machine.execFcvtF16x2F32 h m d a b s
  | .fcvtF32Bf16 h m hi d a => Sys2Proof.Machine.execFcvtF32Bf16 h m hi d a s
  | .fcvtBf16x2F32 h m d a b => Sys2Proof.Machine.execFcvtBf16x2F32 h m d a b s
  | .fcvtS32F32 h m d a => Sys2Proof.Machine.execFcvtS32F32 h m d a s
  | .fcvtZ32F32 h m d a => Sys2Proof.Machine.execFcvtZ32F32 h m d a s
  | .fcvtF32S32 h m d a => Sys2Proof.Machine.execFcvtF32S32 h m d a s
  | .fcvtF32Z32 h m d a => Sys2Proof.Machine.execFcvtF32Z32 h m d a s
  | .fcvtS64F64 h m d a => Sys2Proof.Machine.execFcvtS64F64 h m d a s
  | .fcvtZ64F64 h m d a => Sys2Proof.Machine.execFcvtZ64F64 h m d a s
  | .fcvtF64S64 h m d a => Sys2Proof.Machine.execFcvtF64S64 h m d a s
  | .fcvtF64Z64 h m d a => Sys2Proof.Machine.execFcvtF64Z64 h m d a s
  | .fcvtS32F64 h m d a => Sys2Proof.Machine.execFcvtS32F64 h m d a s
  | .fcvtF64S32 h m d a => Sys2Proof.Machine.execFcvtF64S32 h m d a s
  | .bra h wofs => Sys2Proof.Machine.execBra h wofs s
  | .braCons h wofs => Sys2Proof.Machine.execBraCons h wofs s
  | .brx h a => Sys2Proof.Machine.execBrx h a s
  | .call h wofs => Sys2Proof.Machine.execCall h wofs s
  | .callx h a => Sys2Proof.Machine.execCallx h a s
  | .ret h => Sys2Proof.Machine.execRet h s
  | .exit h => Sys2Proof.Machine.execExit h s
  | .nop h => Sys2Proof.Machine.execNop h s
  | .join h b => Sys2Proof.Machine.execJoin h b s
  | .yield_ h => Sys2Proof.Machine.execYield h s
  | .prio h b => Sys2Proof.Machine.execPrio h b s
  | .dbnz h a wofs => Sys2Proof.Machine.execDbnz h a wofs s
  | .lxchAtB32 h sw pd d a b c => Sys2Proof.Machine.execLxchAtB32 h sw pd d a b c s
  | .lxchRotB32 h sw pd d a b c => Sys2Proof.Machine.execLxchRotB32 h sw pd d a b c s
  | .lxchDistB32 h sw pd d a b c => Sys2Proof.Machine.execLxchDistB32 h sw pd d a b c s
  | .lxchMirB32 h sw pd d a b c => Sys2Proof.Machine.execLxchMirB32 h sw pd d a b c s
  | .lxchAtB64 h sw pd d a b c => Sys2Proof.Machine.execLxchAtB64 h sw pd d a b c s
  | .lxchRotB64 h sw pd d a b c => Sys2Proof.Machine.execLxchRotB64 h sw pd d a b c s
  | .lxchDistB64 h sw pd d a b c => Sys2Proof.Machine.execLxchDistB64 h sw pd d a b c s
  | .lxchMirB64 h sw pd d a b c => Sys2Proof.Machine.execLxchMirB64 h sw pd d a b c s
  | .cpqAll h pci cneg pd d c => Sys2Proof.Machine.execCpqAll h pci cneg pd d c s
  | .cpqAny h pci cneg pd d c => Sys2Proof.Machine.execCpqAny h pci cneg pd d c s
  | .cpqSame h pci cneg pd d c => Sys2Proof.Machine.execCpqSame h pci cneg pd d c s
  | .cpqMask h pci cneg d c => Sys2Proof.Machine.execCpqMask h pci cneg d c s
  | .cpqNum h pci cneg d c => Sys2Proof.Machine.execCpqNum h pci cneg d c s
  | .vgrpPart h d a c => Sys2Proof.Machine.execVgrpPart h d a c s
  | .vgrpUni h pd d a c => Sys2Proof.Machine.execVgrpUni h pd d a c s
  | .credAddB32 h d a c => Sys2Proof.Machine.execCredAddB32 h d a c s
  | .credMinS32 h d a c => Sys2Proof.Machine.execCredMinS32 h d a c s
  | .credMinZ32 h d a c => Sys2Proof.Machine.execCredMinZ32 h d a c s
  | .credMaxS32 h d a c => Sys2Proof.Machine.execCredMaxS32 h d a c s
  | .credMaxZ32 h d a c => Sys2Proof.Machine.execCredMaxZ32 h d a c s
  | .credAnd h d a c => Sys2Proof.Machine.execCredAnd h d a c s
  | .credOr h d a c => Sys2Proof.Machine.execCredOr h d a c s
  | .credXor h d a c => Sys2Proof.Machine.execCredXor h d a c s
  | .credFaddF32 h d a c => Sys2Proof.Machine.execCredFaddF32 h d a c s
  | .credFminF32 h d a c => Sys2Proof.Machine.execCredFminF32 h d a c s
  | .lead h pd d c => Sys2Proof.Machine.execLead h pd d c s
  | .memb h d c => Sys2Proof.Machine.execMemb h d c s
  | .smov h d a b => Sys2Proof.Machine.execSmov h d a b s
  | .gang h b => Sys2Proof.Machine.execGang h b s
  | .psave h d => Sys2Proof.Machine.execPsave h d s
  | .pload h a => Sys2Proof.Machine.execPload h a s
  | .barSync h hn d b => Sys2Proof.Machine.execBarSync h hn d b s
  | .barArv h hn d b => Sys2Proof.Machine.execBarArv h hn d b s
  | .barArvc h hn d b => Sys2Proof.Machine.execBarArvc h hn d b s
  | .barWait h hn d a b => Sys2Proof.Machine.execBarWait h hn d a b s
  | .barTry h hn d a b => Sys2Proof.Machine.execBarTry h hn d a b s
  | .barLeave h hn b => Sys2Proof.Machine.execBarLeave h hn b s
  | .barReset h hn => Sys2Proof.Machine.execBarReset h hn s
  | .bbar h d b => Sys2Proof.Machine.execBbar h d b s
  | .grpq h hn sel d => Sys2Proof.Machine.execGrpq h hn sel d s
  | .stginit h d m => Sys2Proof.Machine.execStginit h d m s
  | .stgowe h d m => Sys2Proof.Machine.execStgowe h d m s
  | .stgadd h d m => Sys2Proof.Machine.execStgadd h d m s
  | .stgarv h m => Sys2Proof.Machine.execStgarv h m s
  | .stgtry h d m => Sys2Proof.Machine.execStgtry h d m s
  | .stgwait h d m => Sys2Proof.Machine.execStgwait h d m s
  | .stginval h m => Sys2Proof.Machine.execStginval h m s
  | .qinit h d m => Sys2Proof.Machine.execQinit h d m s
  | .qpush h d m => Sys2Proof.Machine.execQpush h d m s
  | .qpushW h d m => Sys2Proof.Machine.execQpushW h d m s
  | .qpop h d m => Sys2Proof.Machine.execQpop h d m s
  | .qpopW h d m => Sys2Proof.Machine.execQpopW h d m s
  | .qtrypush h d m => Sys2Proof.Machine.execQtrypush h d m s
  | .qtrypop h d m => Sys2Proof.Machine.execQtrypop h d m s
  | .qpeek h d m => Sys2Proof.Machine.execQpeek h d m s
  | .qcount h d m => Sys2Proof.Machine.execQcount h d m s
  | .qbreak h m => Sys2Proof.Machine.execQbreak h m s
  | .waitvAny h d a b c => Sys2Proof.Machine.execWaitvAny h d a b c s
  | .waitvAll h d a b c => Sys2Proof.Machine.execWaitvAll h d a b c s
  | .monitor h mn base ofs => Sys2Proof.Machine.execMonitor h mn base ofs s
  | .unmonitor h mask => Sys2Proof.Machine.execUnmonitor h mask s
  | .montest h d => Sys2Proof.Machine.execMontest h d s
  | .sleep h b => Sys2Proof.Machine.execSleep h b s
  | .ldS8 h d m => Sys2Proof.Machine.execLdS8 h d m s
  | .ldZ8 h d m => Sys2Proof.Machine.execLdZ8 h d m s
  | .ldS16 h d m => Sys2Proof.Machine.execLdS16 h d m s
  | .ldZ16 h d m => Sys2Proof.Machine.execLdZ16 h d m s
  | .ldB32 h d m => Sys2Proof.Machine.execLdB32 h d m s
  | .ldB64 h d m => Sys2Proof.Machine.execLdB64 h d m s
  | .ldB128 h d m => Sys2Proof.Machine.execLdB128 h d m s
  | .stB8 h d m => Sys2Proof.Machine.execStB8 h d m s
  | .stB16 h d m => Sys2Proof.Machine.execStB16 h d m s
  | .stB32 h d m => Sys2Proof.Machine.execStB32 h d m s
  | .stB64 h d m => Sys2Proof.Machine.execStB64 h d m s
  | .stB128 h d m => Sys2Proof.Machine.execStB128 h d m s
  | .ldsS8 h d m => Sys2Proof.Machine.execLdsS8 h d m s
  | .ldsZ8 h d m => Sys2Proof.Machine.execLdsZ8 h d m s
  | .ldsS16 h d m => Sys2Proof.Machine.execLdsS16 h d m s
  | .ldsZ16 h d m => Sys2Proof.Machine.execLdsZ16 h d m s
  | .ldsB32 h d m => Sys2Proof.Machine.execLdsB32 h d m s
  | .ldsB64 h d m => Sys2Proof.Machine.execLdsB64 h d m s
  | .ldsB128 h d m => Sys2Proof.Machine.execLdsB128 h d m s
  | .stsB8 h d m => Sys2Proof.Machine.execStsB8 h d m s
  | .stsB16 h d m => Sys2Proof.Machine.execStsB16 h d m s
  | .stsB32 h d m => Sys2Proof.Machine.execStsB32 h d m s
  | .stsB64 h d m => Sys2Proof.Machine.execStsB64 h d m s
  | .stsB128 h d m => Sys2Proof.Machine.execStsB128 h d m s
  | .ldxB32 h d m => Sys2Proof.Machine.execLdxB32 h d m s
  | .ldxB64 h d m => Sys2Proof.Machine.execLdxB64 h d m s
  | .ldxB128 h d m => Sys2Proof.Machine.execLdxB128 h d m s
  | .stxB32 h d m => Sys2Proof.Machine.execStxB32 h d m s
  | .stxB64 h d m => Sys2Proof.Machine.execStxB64 h d m s
  | .stxB128 h d m => Sys2Proof.Machine.execStxB128 h d m s
  | .ldcB32 h d m => Sys2Proof.Machine.execLdcB32 h d m s
  | .ldcB64 h d m => Sys2Proof.Machine.execLdcB64 h d m s
  | .atomAddB32 h d m => Sys2Proof.Machine.execAtomAddB32 h d m s
  | .atomAddB64 h d m => Sys2Proof.Machine.execAtomAddB64 h d m s
  | .atomFaddF32 h d m => Sys2Proof.Machine.execAtomFaddF32 h d m s
  | .atomFaddF64 h d m => Sys2Proof.Machine.execAtomFaddF64 h d m s
  | .atomFaddBf16x2 h d m => Sys2Proof.Machine.execAtomFaddBf16x2 h d m s
  | .atomMinS32 h d m => Sys2Proof.Machine.execAtomMinS32 h d m s
  | .atomMinZ32 h d m => Sys2Proof.Machine.execAtomMinZ32 h d m s
  | .atomMaxS32 h d m => Sys2Proof.Machine.execAtomMaxS32 h d m s
  | .atomMaxZ32 h d m => Sys2Proof.Machine.execAtomMaxZ32 h d m s
  | .atomAndB32 h d m => Sys2Proof.Machine.execAtomAndB32 h d m s
  | .atomOrB32 h d m => Sys2Proof.Machine.execAtomOrB32 h d m s
  | .atomXorB32 h d m => Sys2Proof.Machine.execAtomXorB32 h d m s
  | .atomExchB32 h d m => Sys2Proof.Machine.execAtomExchB32 h d m s
  | .atomExchB64 h d m => Sys2Proof.Machine.execAtomExchB64 h d m s
  | .casB32 h d m => Sys2Proof.Machine.execCasB32 h d m s
  | .casB64 h d m => Sys2Proof.Machine.execCasB64 h d m s
  | .casB128 h d m => Sys2Proof.Machine.execCasB128 h d m s
  | .redB32 h op d m => Sys2Proof.Machine.execRedB32 h op d m s
  | .redB64 h op d m => Sys2Proof.Machine.execRedB64 h op d m s
  | .atomsAddB32 h d m => Sys2Proof.Machine.execAtomsAddB32 h d m s
  | .atomsCasB32 h d m => Sys2Proof.Machine.execAtomsCasB32 h d m s
  | .atomsFaddF32 h d m => Sys2Proof.Machine.execAtomsFaddF32 h d m s
  | .mcas h d m => Sys2Proof.Machine.execMcas h d m s
  | .fence h sc od strict => Sys2Proof.Machine.execFence h sc od strict s
  | .cctl h inv pg m => Sys2Proof.Machine.execCctl h inv pg m s
  | .pref h m => Sys2Proof.Machine.execPref h m s
  | .ptst h pd mw a => Sys2Proof.Machine.execPtst h pd mw a s
  | .pclr h mw a => Sys2Proof.Machine.execPclr h mw a s
  | .push h q src pd => Sys2Proof.Machine.execPush h q src pd s
  | .mmaF64 h sa sb acc zs rel => Sys2Proof.Machine.execMmaF64 h sa sb acc zs rel s
  | .mmaF32 h sa sb acc zs rel => Sys2Proof.Machine.execMmaF32 h sa sb acc zs rel s
  | .mmaBf16 h sa sb acc zs rel => Sys2Proof.Machine.execMmaBf16 h sa sb acc zs rel s
  | .mmaF16 h sa sb acc zs rel => Sys2Proof.Machine.execMmaF16 h sa sb acc zs rel s
  | .mmaE4m3 h sa sb vs vt acc zs sh rel => Sys2Proof.Machine.execMmaE4m3 h sa sb vs vt acc zs sh rel s
  | .mmaE5m2 h sa sb vs vt acc zs sh rel => Sys2Proof.Machine.execMmaE5m2 h sa sb vs vt acc zs sh rel s
  | .mmaE2m1 h sa sb vs vt acc zs rel => Sys2Proof.Machine.execMmaE2m1 h sa sb vs vt acc zs rel s
  | .mmaBx8 h sa sb vs vt acc zs rel => Sys2Proof.Machine.execMmaBx8 h sa sb vs vt acc zs rel s
  | .mmaBx4 h sa sb vs vt acc zs rel => Sys2Proof.Machine.execMmaBx4 h sa sb vs vt acc zs rel s
  | .mmaS8 h sa sb acc zs rel => Sys2Proof.Machine.execMmaS8 h sa sb acc zs rel s
  | .mmaS4 h sa sb acc zs rel => Sys2Proof.Machine.execMmaS4 h sa sb acc zs rel s
  | .mzero h acc w64 => Sys2Proof.Machine.execMzero h acc w64 s
  | .mdrainF32 h d acc cg => Sys2Proof.Machine.execMdrainF32 h d acc cg s
  | .mdrainF64 h d acc cg => Sys2Proof.Machine.execMdrainF64 h d acc cg s
  | .mdrainBf16 h d acc cg => Sys2Proof.Machine.execMdrainBf16 h d acc cg s
  | .mdrainF16 h d acc cg => Sys2Proof.Machine.execMdrainF16 h d acc cg s
  | .mload h sd acc w64 => Sys2Proof.Machine.execMload h sd acc w64 s
  | .mstore h sd ss acc w64 => Sys2Proof.Machine.execMstore h sd ss acc w64 s
  | .mscl h vs acc w64 => Sys2Proof.Machine.execMscl h vs acc w64 s
  | .maddc h vt acc w64 => Sys2Proof.Machine.execMaddc h vt acc w64 s
  | .mcopy h acc src w64 => Sys2Proof.Machine.execMcopy h acc src w64 s
  | .mstat h d acc w64 => Sys2Proof.Machine.execMstat h d acc w64 s
  | .sldP h w64 d a b => Sys2Proof.Machine.execSldP h w64 d a b s
  | .sldQ h d a b => Sys2Proof.Machine.execSldQ h d a b s
  | .sldB h d a b => Sys2Proof.Machine.execSldB h d a b s
  | .sldD h pd d a b c => Sys2Proof.Machine.execSldD h pd d a b c s
  | .sstP h w64 a b c => Sys2Proof.Machine.execSstP h w64 a b c s
  | .sstQ h a b c => Sys2Proof.Machine.execSstQ h a b c s
  | .sstB h a b c => Sys2Proof.Machine.execSstB h a b c s
  | .sstM h w64 mask a b c => Sys2Proof.Machine.execSstM h w64 mask a b c s
  | .scoef h k ch a b c => Sys2Proof.Machine.execScoef h k ch a b c s
  | .scoefB h g ch a b c => Sys2Proof.Machine.execScoefB h g ch a b c s
  | .smv h a b c => Sys2Proof.Machine.execSmv h a b c s
  | .sref h r a b => Sys2Proof.Machine.execSref h r a b s
  | .srate h a b c => Sys2Proof.Machine.execSrate h a b c s
  | .sanchor h w64 a b c => Sys2Proof.Machine.execSanchor h w64 a b c s
  | .sqry h sel d a b => Sys2Proof.Machine.execSqry h sel d a b s
  | .sflush h a => Sys2Proof.Machine.execSflush h a s
  | .srel h a => Sys2Proof.Machine.execSrel h a s
  | .trix h pd d a b => Sys2Proof.Machine.execTrix h pd d a b s
  | .trixD h pd d a b c => Sys2Proof.Machine.execTrixD h pd d a b c s
  | .triw h m d a b => Sys2Proof.Machine.execTriw h m d a b s
  | .box12 h k pd d a b c => Sys2Proof.Machine.execBox12 h k pd d a b c s
  | .box12x4 h hf pd d a b c => Sys2Proof.Machine.execBox12x4 h hf pd d a b c s
  | .nodex h k pd d a b => Sys2Proof.Machine.execNodex h k pd d a b s
  | .trap h imm => Sys2Proof.Machine.execTrap h imm s
  | .brk h imm => Sys2Proof.Machine.execBrk h imm s
  | .rte h nxt a b => Sys2Proof.Machine.execRte h nxt a b s
  | .rteStep h nxt a b => Sys2Proof.Machine.execRteStep h nxt a b s
  | .sysr h d r => Sys2Proof.Machine.execSysr h d r s
  | .sysw h d r => Sys2Proof.Machine.execSysw h d r s
  | .iinv h a b => Sys2Proof.Machine.execIinv h a b s
  | .time h d => Sys2Proof.Machine.execTime h d s
  | .dbgmb h a b c => Sys2Proof.Machine.execDbgmb h a b c s
  | .suspend h a b => Sys2Proof.Machine.execSuspend h a b s
  | .resume h a b => Sys2Proof.Machine.execResume h a b s
  | .killcrew h ctx a b => Sys2Proof.Machine.execKillcrew h ctx a b s
  | .trec h pd d => Sys2Proof.Machine.execTrec h pd d s
  | .jrnl h roll a => Sys2Proof.Machine.execJrnl h roll a s
  | .wdog h hn ofBillet a b => Sys2Proof.Machine.execWdog h hn ofBillet a b s
  | .irq h b => Sys2Proof.Machine.execIrq h b s
  | .perfr h d b => Sys2Proof.Machine.execPerfr h d b s
  | .errinj h a b => Sys2Proof.Machine.execErrinj h a b s
  | .halt h => Sys2Proof.Machine.execHalt h s
  | .bartime g => Sys2Proof.Machine.execBartime g s
  | .waitvTimeout t => Sys2Proof.Machine.execWaitvTimeout t s
  | .sleepWake t => Sys2Proof.Machine.execSleepWake t s
  | .mcasLocksHeld id => Sys2Proof.Machine.execMcasLocksHeld id s
  | .mcasLockTimeout id => Sys2Proof.Machine.execMcasLockTimeout id s
  | .fenceComplete id => Sys2Proof.Machine.execFenceComplete id s
  | .gangLatchRelease cid => Sys2Proof.Machine.execGangLatchRelease cid s
  | .gangfailTimeout cid => Sys2Proof.Machine.execGangfailTimeout cid s
  | .anvilOperandsRead id => Sys2Proof.Machine.execAnvilOperandsRead id s
  | .anvilInstrComplete id => Sys2Proof.Machine.execAnvilInstrComplete id s
  | .planisherEvictEncode ctx surf b => Sys2Proof.Machine.execPlanisherEvictEncode ctx surf b s
  | .poolWordChangeRetry ctx surf b => Sys2Proof.Machine.execPoolWordChangeRetry ctx surf b s
  | .surfpoolPinTimeout ctx surf b => Sys2Proof.Machine.execSurfpoolPinTimeout ctx surf b s
  | .firmwareWake => Sys2Proof.Machine.execFirmwareWake  s
  | .gatherCycle core => Sys2Proof.Machine.execGatherCycle core s
  | .threadAged t => Sys2Proof.Machine.execThreadAged t s
  | .yieldHoldExpire t => Sys2Proof.Machine.execYieldHoldExpire t s
  | .fetchClause t => Sys2Proof.Machine.execFetchClause t s
  | .varlatLand id => Sys2Proof.Machine.execVarlatLand id s
  | .handlerStart core c => Sys2Proof.Machine.execHandlerStart core c s
  | .lqtailWrite f q v => Sys2Proof.Machine.execLqtailWrite f q v s
  | .lqctlWrite f q v => Sys2Proof.Machine.execLqctlWrite f q v s
  | .launchPacketHead f q => Sys2Proof.Machine.execLaunchPacketHead f q s
  | .depPoll f q => Sys2Proof.Machine.execDepPoll f q s
  | .pick => Sys2Proof.Machine.execPick  s
  | .deadlineMiss w => Sys2Proof.Machine.execDeadlineMiss w s
  | .setSave w set => Sys2Proof.Machine.execSetSave w set s
  | .setRestore w set => Sys2Proof.Machine.execSetRestore w set s
  | .homeReadRequest id => Sys2Proof.Machine.execHomeReadRequest id s
  | .homeWriteRequest id => Sys2Proof.Machine.execHomeWriteRequest id s
  | .homeEvictNotice line agent => Sys2Proof.Machine.execHomeEvictNotice line agent s
  | .probeAck line agent => Sys2Proof.Machine.execProbeAck line agent s
  | .coreProbe line agent => Sys2Proof.Machine.execCoreProbe line agent s
  | .probeTimeout line agent => Sys2Proof.Machine.execProbeTimeout line agent s
  | .selfWritePerform line => Sys2Proof.Machine.execSelfWritePerform line s
  | .sliceRebase home => Sys2Proof.Machine.execSliceRebase home s
  | .selfCopyExpire agent line => Sys2Proof.Machine.execSelfCopyExpire agent line s
  | .coreTimeCheck core fast slow => Sys2Proof.Machine.execCoreTimeCheck core fast slow s
  | .crucibleAtomic id => Sys2Proof.Machine.execCrucibleAtomic id s
  | .tcopy id => Sys2Proof.Machine.execTcopy id s
  | .tgather id => Sys2Proof.Machine.execTgather id s
  | .tdecode id => Sys2Proof.Machine.execTdecode id s
  | .tqstore id => Sys2Proof.Machine.execTqstore id s
  | .tfill id => Sys2Proof.Machine.execTfill id s
  | .tcbload id => Sys2Proof.Machine.execTcbload id s
  | .tmapld id => Sys2Proof.Machine.execTmapld id s
  | .ladleSectorComplete id k => Sys2Proof.Machine.execLadleSectorComplete id k s
  | .beam id => Sys2Proof.Machine.execBeam id s
  | .ray id => Sys2Proof.Machine.execRay id s
  | .travItemComplete id j => Sys2Proof.Machine.execTravItemComplete id j s
  | .travfaultPoolTimeout id => Sys2Proof.Machine.execTravfaultPoolTimeout id s
  | .fqreplayRetry f tag => Sys2Proof.Machine.execFqreplayRetry f tag s
  | .fqreplayAbort f v => Sys2Proof.Machine.execFqreplayAbort f v s
  | .fqreplayRetryAll f => Sys2Proof.Machine.execFqreplayRetryAll f s
  | .fqheadWrite f v => Sys2Proof.Machine.execFqheadWrite f v s
  | .nqheadWrite f v => Sys2Proof.Machine.execNqheadWrite f v s
  | .acclrWrite f v => Sys2Proof.Machine.execAcclrWrite f v s
  | .eqheadWrite f v => Sys2Proof.Machine.execEqheadWrite f v s
  | .dmheadWrite f v => Sys2Proof.Machine.execDmheadWrite f v s
  | .ueccConsume k kind unit a => Sys2Proof.Machine.execUeccConsume k kind unit a s
  | .checkpoint k => Sys2Proof.Machine.execCheckpoint k s
  | .assayCompare t => Sys2Proof.Machine.execAssayCompare t s
  | .assayTimeout t => Sys2Proof.Machine.execAssayTimeout t s
  | .correctableError kind unit a => Sys2Proof.Machine.execCorrectableError kind unit a s
  | .schedulerRebuild cl => Sys2Proof.Machine.execSchedulerRebuild cl s
  | .barrierParityError g => Sys2Proof.Machine.execBarrierParityError g s
  | .drawerRequest id => Sys2Proof.Machine.execDrawerRequest id s
  | .drawerResponse id => Sys2Proof.Machine.execDrawerResponse id s
  | .drawerProbe line inval => Sys2Proof.Machine.execDrawerProbe line inval s
  | .drawerMcasMessage id => Sys2Proof.Machine.execDrawerMcasMessage id s
  | .promotionRequest id => Sys2Proof.Machine.execPromotionRequest id s
  | .flitCheckFail p => Sys2Proof.Machine.execFlitCheckFail p s
  | .portRetrainEnd p ok => Sys2Proof.Machine.execPortRetrainEnd p ok s
  | .linkStallEnd p => Sys2Proof.Machine.execLinkStallEnd p s
  | .domainTimeSlew fast slow => Sys2Proof.Machine.execDomainTimeSlew fast slow s
  | .referenceChange => Sys2Proof.Machine.execReferenceChange  s
  | .slotTableSwapApply p => Sys2Proof.Machine.execSlotTableSwapApply p s
  | .portctlSwap p => Sys2Proof.Machine.execPortctlSwap p s
  | .portctlRetrain p => Sys2Proof.Machine.execPortctlRetrain p s
  | .tlbinvWrite c v => Sys2Proof.Machine.execTlbinvWrite c v s
  | .tlbinvComplete c => Sys2Proof.Machine.execTlbinvComplete c s
  | .dbgdataWrite c v => Sys2Proof.Machine.execDbgdataWrite c v s
  | .ctxbindWrite f v => Sys2Proof.Machine.execCtxbindWrite f v s
  | .ctxcmdCreate f k => Sys2Proof.Machine.execCtxcmdCreate f k s
  | .ctxcmdDestroy f k => Sys2Proof.Machine.execCtxcmdDestroy f k s
  | .registerWrite f off v => Sys2Proof.Machine.execRegisterWrite f off v s
  | .functionLevelReset f => Sys2Proof.Machine.execFunctionLevelReset f s
  | .powerGoodBringup x => Sys2Proof.Machine.execPowerGoodBringup x s
  | .d3hotEntry => Sys2Proof.Machine.execD3hotEntry  s
  | .d0Return x => Sys2Proof.Machine.execD0Return x s
  | .thermalThrottle => Sys2Proof.Machine.execThermalThrottle  s
  | .thermalShutdown => Sys2Proof.Machine.execThermalShutdown  s
  | .attestationRequest nonce => Sys2Proof.Machine.execAttestationRequest nonce s
  | .unallocatedOpcode op => Sys2Proof.Machine.execUnallocatedOpcode op s
  | .waitvDeadline t => Sys2Proof.Machine.execWaitvDeadline t s
  | .coreLeaseRebase core => Sys2Proof.Machine.execCoreLeaseRebase core s
  | .fqctlWrite f v => Sys2Proof.Machine.execFqctlWrite f v s
  | .ampctlWrite f v => Sys2Proof.Machine.execAmpctlWrite f v s
  | .msixVectorUnmask f vec => Sys2Proof.Machine.execMsixVectorUnmask f vec s
  | .portTrainingComplete p => Sys2Proof.Machine.execPortTrainingComplete p s
  | .drawerLeavesDomain n size => Sys2Proof.Machine.execDrawerLeavesDomain n size s

end Sys2Proof.Machine
end

