-- ==== Sys2Proof/Machine/Step.lean ====
section
/-!
DEFINITION. One step of the part: the next choice of the agenda, or, when it is empty, the next word of the lowest bundle, or a
cycle of time.
-/
namespace Sys2Proof.Machine

/-- A bundle issues its next word: it is decoded and executed, or traps its threads. -/
noncomputable def issue (b : Nat) (s : State) : Host.Outcome State Fault Refusal :=
  match s.bundles.get? b with
  | none => .fault .badAgent
  | some x =>
    match decode x.word with
    | .ok i => exec i { s with cur := some b }
    | .error e => badWord b x e s

/-- An agent other than a thread acts. -/
def act (i : Instr) (s : State) : Host.Outcome State Fault Refusal :=
  if i.isWord then .refused .notAnEvent else afterEvent s.time (exec i { s with cur := none })

noncomputable def step (s : State) : Host.Outcome State Fault Refusal :=
  match s.agenda with
  | .issue b :: rest => issue b { s with agenda := rest }
  | .act i :: rest => act i { s with agenda := rest }
  | .pass n :: rest => .next (passTime n { s with agenda := rest })
  | .reveal id lvl :: rest => revealStep id lvl { s with agenda := rest }
  | .hostStore a data :: rest => outsideStore a data { s with agenda := rest }
  | [] =>
    match s.firstBundle with
    | some b => issue b s
    | none => .next (passTime 1 s)

/-- A table row's word where the next step issues it: one word of 64 bits (R54), the bits above the row's 0. -/
def State.withFetchWord (s : State) (nbits w : Nat) : State := placeWord s (w % 2 ^ nbits % 2 ^ 64)

end Sys2Proof.Machine
end

