-- ==== Sys2Proof/Safety.lean ====
section
/-!
DEFINITION. What a safe run is, and the words the statements are made of: the memories in their canonical form, a property
that every step keeps, a bundle that stands ready to issue, and what a word that completes leaves.
-/
namespace Sys2Proof.Machine

/-- Every memory of the part is in canonical form. -/
def State.memOk (s : State) : Bool := Memory.wf s.mem && Memory.wf s.scratch && Memory.wf s.acc && Memory.wf s.book

/-- The next step has a meaning and does not stop the machine. -/
def Goes (s : State) : Prop := ∃ t, step s = .next t

/-- Every step that answers a next state keeps a property. -/
def Keeps (p : State → Prop) : Prop := ∀ s t, p s → step s = .next t → p t

/-- What a register stores, whatever is in flight towards it, with its poison bit; a predicate as 0 or 1. -/
def State.stored (s : State) (t : Nat) : Target → PVal
  | .v n => ((s.thr t).vReg n, (s.thr t).poison.contains n)
  | .p n => (if (s.thr t).p.getLsbD n then 1 else 0, false)
  | .s n => (((s.crew (crewOf t)).s.get? n).getD 0, false)

/-- Bundle b, with the threads, clause and word index x, issues its next word with nothing in its way: its threads are there,
none has a FENCE open (R259), none steps (R425), its level is one of the three (R77), and its crews are no assay pair
(R416). -/
def Issuing (s : State) (b : Nat) (x : Bundle) : Bool :=
  s.cur == some b && s.bundles.get? b == some x && decide x.tids.Nodup && !x.tids.isEmpty &&
    (x.tids.all fun t => (s.threads.get? t).isSome && !openFence s t && !(s.thr t).stepping &&
      decide ((s.crew (crewOf t)).priv ≤ 2)) && !bundlePaired s x

/-- R29: no v register of a field reaches the budget of the bundle's role. -/
def Fits (s : State) (x : Bundle) (regs : List (Reg × Nat)) : Bool :=
  !overBudget (((x.tids.head?).map fun t => (s.crew (crewOf t)).budget).getD 0) regs

/-- R34: the counter a word signals can still rise in every lane that acts. -/
def CanCount (s : State) (x : Bundle) (h : Head) : Bool :=
  (activeOf s x h).all fun t => decide (counter s t h.dc.val < 63)

/-- R77: every active lane runs at a level that may use the word; level 0 is the most privileged. -/
def Privileged (s : State) (x : Bundle) (h : Head) (lvl : Nat) : Bool :=
  (activeOf s x h).all fun t => decide ((s.crew (crewOf t)).priv ≤ lvl)

/-- R392: no lane would write poison to a predicate or to an s register; of an s register the lowest active lane of the crew
is the one that writes (R30). -/
def Clean (s : State) (x : Bundle) (h : Head) (w : Nat → List RegWrite) : Bool :=
  (activeOf s x h).all fun t => (keepS (activeOf s x h) t (w t)).all fun e =>
    !e.poison || (match e.tgt with | .v _ => true | _ => false)

/-- What a write leaves to be read. -/
def RegWrite.shown (w : RegWrite) : PVal :=
  match w.tgt with
  | .v _ => (w.val, w.poison)
  | .p _ => (if w.val.getLsbD 0 then 1 else 0, false)
  | .s _ => (w.val, false)

/-- The last of the writes to a register. -/
def lastTo (ws : List RegWrite) (g : Target) : Option PVal := ((ws.filter fun w => w.tgt == g).getLast?).map RegWrite.shown

/-- The lane whose writes a register of thread u takes: its own, or the lowest active lane of its crew for an s register. -/
def writerOf (act : List Nat) (u : Nat) (g : Target) : Option Nat :=
  match g with
  | .s _ => act.find? fun t => crewOf t == crewOf u && supplies act t
  | _ => act.find? fun t => t == u

/-- Parts of the state that a register write or the advance of a bundle may change, taken away. -/
def Thread.rest (t : Thread) : Thread :=
  { t with v := [], poison := [], p := 0, pc := 0, widx := 0, clause := none, status := .ready, readyAt := 0, aged := false,
           yieldTil := 0 }
def Crew.rest (c : Crew) : Crew := { c with s := [] }
def Billet.rest (b : Billet) : Billet := { b with journal := [], irrevocable := true }
def Pend.rest (p : Pend) : Pend := { p with contested := [] }
def State.rest (s : State) : State :=
  { s with threads := [], crews := [], billets := [], bundles := [], pend := [], fresh := 0 }

/-- The frame of a word that only writes registers: everything else stays, memory and every other unit's state included; only
a billet's journal may note what the registers held (R412). -/
def SameRest (s t : State) : Prop :=
  t.rest = s.rest ∧ (∀ u, (t.thr u).rest = (s.thr u).rest) ∧ (∀ u, (s.threads.get? u).isSome → (t.threads.get? u).isSome) ∧
    (∀ c, (t.crew c).rest = (s.crew c).rest) ∧
    (∀ k, (t.billets.get? k).map Billet.rest = (s.billets.get? k).map Billet.rest)

/-- R32, R48: where the bundle stands after a word that sends it nowhere else: at its next word, or its threads at the next
clause. -/
def MovesOn (s t : State) (b : Nat) (x : Bundle) : Prop :=
  (∀ k, k ≠ b → t.bundles.get? k = s.bundles.get? k) ∧
    (∀ u, u ∉ x.tids → (t.thr u).pc = (s.thr u).pc ∧ (t.thr u).widx = (s.thr u).widx ∧ (t.thr u).status = (s.thr u).status) ∧
    (if x.widx + 1 < x.clause.words.length then
      t.bundles.get? b = some { x with widx := x.widx + 1, lanes := [] } ∧
        ∀ u, (t.thr u).pc = (s.thr u).pc ∧ (t.thr u).status = (s.thr u).status
    else t.bundles.get? b = none ∧ ∀ u ∈ x.tids, (t.thr u).pc = x.clause.next ∧ (t.thr u).widx = 0 ∧ (t.thr u).status = .ready)

/-- A fixed-latency word (R33) has written: each register holds what its lane last wrote to it, or what it held. -/
def Wrote (s t : State) (b : Nat) (x : Bundle) (h : Head) (w : Nat → List RegWrite) : Prop :=
  (∀ u g, (∀ n, g = .p n → n < 7) →
    t.stored u g = ((writerOf (activeOf s x h) u g).bind fun l => lastTo (w l) g).getD (s.stored u g)) ∧
  t.pend.map Pend.rest = s.pend.map Pend.rest ∧ SameRest s t ∧ MovesOn s t b x

/-- What a statement says of an operation in flight: its thread, the counter it signals, what it does, whether it has been
performed, and what it is to deliver. -/
def Pend.facts (p : Pend) : Nat × Nat × POp × Bool × List RegWrite := (p.tid, p.dc, p.op, p.done, p.writes)

/-- A variable-latency word (R34) has issued: no register has changed yet, and each active lane has one more operation in
flight, with its results and the counter it signals. -/
def Sent (s t : State) (b : Nat) (x : Bundle) (h : Head) (w : Nat → List RegWrite) : Prop :=
  (∀ u g, (∀ n, g = .p n → n < 7) → t.stored u g = s.stored u g) ∧
  (∃ ops : List Pend, t.pend.map Pend.rest = s.pend.map Pend.rest ++ ops.map Pend.rest ∧
    ops.map Pend.facts = (activeOf s x h).map fun u => (u, h.dc.val, POp.value, true, keepS (activeOf s x h) u (w u))) ∧
  SameRest { s with seq := s.seq + (activeOf s x h).length } t ∧ MovesOn s t b x

/-- Classes a word may stand in (R53). -/
def anyCls (_ : Cls) : Bool := true
def vecCls (c : Cls) : Bool := c == .vec
def mtxCls (c : Cls) : Bool := c == .mtx
def sysCls (c : Cls) : Bool := c == .sys

/-- A fixed-latency word completes with these register writes wherever its bundle issues, in a class it may stand in, with
its registers within the budget and no poison consumed. -/
def Writes (i : Instr) (h : Head) (cls : Cls → Bool) (regs : List (Reg × Nat)) (w : State → Nat → List RegWrite) : Prop :=
  ∀ s b x, Issuing s b x = true → cls x.clause.cls = true → Fits s x regs = true → Clean s x h (w s) = true →
    ∃ t, exec i s = .next t ∧ Wrote s t b x h (w s)

/-- A variable-latency word issues with these results to come. -/
def Sends (i : Instr) (h : Head) (cls : Cls → Bool) (regs : List (Reg × Nat)) (w : State → Nat → List RegWrite) : Prop :=
  ∀ s b x, Issuing s b x = true → cls x.clause.cls = true → Fits s x regs = true → CanCount s x h = true →
    Clean s x h (w s) = true → ∃ t, exec i s = .next t ∧ Sent s t b x h (w s)

/-- One word goes to register d with the poison of the operands. -/
def res32 (d : Reg) (src : List (Reg × Nat)) (f : State → Nat → W32) (s : State) (u : Nat) : List RegWrite :=
  wr32 d (f s u) (s.isPoisoned u src)
def res64 (d : Reg) (src : List (Reg × Nat)) (f : State → Nat → W64) (s : State) (u : Nat) : List RegWrite :=
  wr64 d (f s u) (s.isPoisoned u src)

/-- A word completes, and its effect on the lanes that act is E, whatever else the end of a word does (R32, R48). `ok` says of
the state and the operands when. -/
def Does (i : Instr) (h : Head) (cls : Cls → Bool) (regs : List (Reg × Nat)) (ok : State → Bundle → List Nat → Bool)
    (E : State → Bundle → List Nat → State) : Prop :=
  ∀ s b x, Issuing s b x = true → cls x.clause.cls = true → Fits s x regs = true → ok s x (activeOf s x h) = true →
    exec i s = .next (finishWord b x { s := E s x (activeOf s x h) })

/-- The lanes, or other parts, act one after another. -/
def each {α : Type} (f : State → α → State) (s : State) (ts : List α) : State := ts.foldl f s

/-- The threads of a bundle are of one crew. -/
def oneCrew (x : Bundle) : Bool := x.tids.all fun u => crewOf u == crewOf (x.tids.headD 0)

/-- A crew operation in its bundle form (R199): the operand C of every active lane reads 0, the lanes are of one crew, and each
has the given results to come. -/
def CrewSends (i : Instr) (h : Head) (regs : List (Reg × Nat)) (c : Reg)
    (w : State → List Nat → Nat → List RegWrite) : Prop :=
  ∀ s b x, Issuing s b x = true → Fits s x regs = true → CanCount s x h = true → oneCrew x = true →
    ((activeOf s x h).all fun u => s.rdReg u c == (0, false)) = true → Clean s x h (w s (activeOf s x h)) = true →
    ∃ t, exec i s = .next t ∧ Sent { s with seq := s.seq + 1 } t b x h (w s (activeOf s x h))

/-- The same of fixed latency: each lane has its results when the word ends. -/
def CrewWrites (i : Instr) (h : Head) (regs : List (Reg × Nat)) (c : Reg)
    (w : State → List Nat → Nat → List RegWrite) : Prop :=
  ∀ s b x, Issuing s b x = true → Fits s x regs = true → oneCrew x = true →
    ((activeOf s x h).all fun u => s.rdReg u c == (0, false)) = true → Clean s x h (w s (activeOf s x h)) = true →
    ∃ t, exec i s = .next t ∧ Wrote { s with seq := s.seq + 1 } t b x h (w s (activeOf s x h))

end Sys2Proof.Machine
end

