-- ==== Sys2Proof/Certificates/Slice0/Obligations.lean ====
section
/-!
DEFINITION. The statements for the provers.
-/
namespace Sys2Proof

namespace Machine

/-! Shapes of integer words: the operands' registers with their widths, and the value each active lane computes. -/

def OpB32 (f : W32 → W32 → W32) (i : Head → Reg → Reg → OpB → Instr) : Prop :=
  ∀ h d a b, Writes (i h d a b) h anyCls ((d, 1) :: (a, 1) :: b.regs 1)
    (res32 d ((a, 1) :: b.regs 1) fun s u => f (s.r32 u a) (s.b32 u b))

def OpB64 (f : W64 → W64 → W64) (i : Head → Reg → Reg → OpB → Instr) : Prop :=
  ∀ h d a b, Writes (i h d a b) h anyCls ((d, 2) :: (a, 2) :: b.regs 2)
    (res64 d ((a, 2) :: b.regs 2) fun s u => f (s.r64 u a) (s.b64 u b))

def Shift64 (f : W64 → W32 → W64) (i : Head → Reg → Reg → OpB → Instr) : Prop :=
  ∀ h d a b, Writes (i h d a b) h anyCls ((d, 2) :: (a, 2) :: b.regs 1)
    (res64 d ((a, 2) :: b.regs 1) fun s u => f (s.r64 u a) (s.b32 u b))

def Tri32 (f : W32 → W32 → W32 → W32) (i : Head → Reg → Reg → Reg → Reg → Instr) : Prop :=
  ∀ h d a b c, Writes (i h d a b c) h anyCls [(d, 1), (a, 1), (b, 1), (c, 1)]
    (res32 d [(a, 1), (b, 1), (c, 1)] fun s u => f (s.r32 u a) (s.r32 u b) (s.r32 u c))

def Wide (f : W32 → W32 → W64 → W64) (i : Head → Reg → Reg → Reg → Reg → Instr) : Prop :=
  ∀ h d a b c, Writes (i h d a b c) h anyCls [(d, 2), (a, 1), (b, 1), (c, 2)]
    (res64 d [(a, 1), (b, 1), (c, 2)] fun s u => f (s.r32 u a) (s.r32 u b) (s.r64 u c))

def Un32 (f : W32 → W32) (i : Head → Reg → Reg → Instr) : Prop :=
  ∀ h d a, Writes (i h d a) h anyCls [(d, 1), (a, 1)] (res32 d [(a, 1)] fun s u => f (s.r32 u a))

/-- A result and the predicate pd, both with the poison of the operands. -/
def Carry (f : W32 → W32 → Bool → W32 × Bool) (i : Head → Fin 8 → Fin 8 → Bool → Reg → Reg → OpB → Instr) : Prop :=
  ∀ h pci pco neg d a b, Writes (i h pci pco neg d a b) h anyCls ((d, 1) :: (a, 1) :: b.regs 1) fun s u =>
    let r := f (s.r32 u a) (s.b32 u b) (Bool.xor (s.rdPred u pci.val) neg)
    let p := s.isPoisoned u ((a, 1) :: b.regs 1)
    wr32 d r.1 p ++ wrP pco.val r.2 p

def Cmp32 (f : ICmp → W32 → W32 → Bool) (i : Head → ICmp → Fin 8 → Reg → Reg → OpB → Instr) : Prop :=
  ∀ h c pd d a b, Writes (i h c pd d a b) h anyCls ((d, 1) :: (a, 1) :: b.regs 1) fun s u =>
    let r := f c (s.r32 u a) (s.b32 u b)
    let p := s.isPoisoned u ((a, 1) :: b.regs 1)
    wr32 d (if r then 0xFFFFFFFF else 0) p ++ wrP pd.val r p

def Cmp64 (f : ICmp → W64 → W64 → Bool) (i : Head → ICmp → Fin 8 → Reg → Reg → OpB → Instr) : Prop :=
  ∀ h c pd d a b, Writes (i h c pd d a b) h anyCls ((d, 1) :: (a, 2) :: b.regs 2) fun s u =>
    let r := f c (s.r64 u a) (s.b64 u b)
    let p := s.isPoisoned u ((a, 2) :: b.regs 2)
    wr32 d (if r then 0xFFFFFFFF else 0) p ++ wrP pd.val r p

def Div32 (f : W32 → W32 → W32) (i : Head → Reg → Reg → OpB → Instr) : Prop :=
  ∀ h d a b, Sends (i h d a b) h anyCls ((d, 1) :: (a, 1) :: b.regs 1)
    (res32 d ((a, 1) :: b.regs 1) fun s u => f (s.r32 u a) (s.b32 u b))

def Div64 (f : W64 → W64 → W64) (i : Head → Reg → Reg → OpB → Instr) : Prop :=
  ∀ h d a b, Sends (i h d a b) h anyCls ((d, 2) :: (a, 2) :: b.regs 2)
    (res64 d ((a, 2) :: b.regs 2) fun s u => f (s.r64 u a) (s.b64 u b))

/-- The comparisons of R126 on whole numbers. -/
def compares : ICmp → Int → Int → Bool
  | .eq, x, y => decide (x = y)
  | .ne, x, y => decide (x ≠ y)
  | .lt, x, y => decide (x < y)
  | .le, x, y => decide (x ≤ y)
  | .gt, x, y => decide (y < x)
  | .ge, x, y => decide (y ≤ x)

/-- Clamp(x, -2^31, 2^31 - 1) as a word. -/
def sat32 (x : Int) : W32 := BitVec.ofInt 32 (if x < -2 ^ 31 then -2 ^ 31 else if 2 ^ 31 - 1 < x then 2 ^ 31 - 1 else x)

/-- R119: the quotient and the remainder. -/
def quotS {w : Nat} (a b : BitVec w) : BitVec w :=
  if b = 0 then BitVec.allOnes w
  else if a = BitVec.intMin w ∧ b.toInt = -1 then a else BitVec.ofInt w (a.toInt.tdiv b.toInt)
def remS {w : Nat} (a b : BitVec w) : BitVec w :=
  if b = 0 then a
  else if a = BitVec.intMin w ∧ b.toInt = -1 then 0
  else BitVec.ofInt w (a.toInt - a.toInt.tdiv b.toInt * b.toInt)
def quotZ {w : Nat} (a b : BitVec w) : BitVec w := if b = 0 then BitVec.allOnes w else BitVec.ofNat w (a.toNat / b.toNat)
def remZ {w : Nat} (a b : BitVec w) : BitVec w := if b = 0 then a else BitVec.ofNat w (a.toNat % b.toNat)

/-! Shapes of floating-point words: bit patterns in, the bit pattern of the result out. -/

def FBin32 (el : FMods → Nat → Nat → Nat) (i : Head → FMods → Reg → Reg → OpB → Instr) : Prop :=
  ∀ h m d a b, Writes (i h m d a b) h vecCls ((d, 1) :: (a, 1) :: b.regs 1)
    (res32 d ((a, 1) :: b.regs 1) fun s u => BitVec.ofNat 32 (el m (s.r32 u a).toNat (s.bF32 u b).toNat))

def FBin64 (el : FMods → Nat → Nat → Nat) (i : Head → FMods → Reg → Reg → OpB → Instr) : Prop :=
  ∀ h m d a b, Writes (i h m d a b) h vecCls ((d, 2) :: (a, 2) :: b.regs 2)
    (res64 d ((a, 2) :: b.regs 2) fun s u => BitVec.ofNat 64 (el m (s.r64 u a).toNat (s.bF64 u b).toNat))

/-- Two halves of a word, each its own element (R84). -/
def halves (el : Nat → Nat → Nat → Nat) (a b c : W32) : W32 :=
  BitVec.ofNat 16 (el (a.toNat / 65536) (b.toNat / 65536) (c.toNat / 65536)) ++
    BitVec.ofNat 16 (el (a.toNat % 65536) (b.toNat % 65536) (c.toNat % 65536))

def FPair (el : FMods → Nat → Nat → Nat) (i : Head → FMods → Reg → Reg → OpB → Instr) : Prop :=
  ∀ h m d a b, Writes (i h m d a b) h vecCls ((d, 1) :: (a, 1) :: b.regs 1)
    (res32 d ((a, 1) :: b.regs 1) fun s u => halves (fun x y _ => el m x y) (s.r32 u a) (s.bPair u b) 0)

def FTri32 (el : FMods → Nat → Nat → Nat → Nat) (i : Head → FMods → Reg → Reg → Reg → Reg → Instr) : Prop :=
  ∀ h m d a b c, Writes (i h m d a b c) h vecCls [(d, 1), (a, 1), (b, 1), (c, 1)]
    (res32 d [(a, 1), (b, 1), (c, 1)] fun s u =>
      BitVec.ofNat 32 (el m (s.r32 u a).toNat (s.r32 u b).toNat (s.r32 u c).toNat))

def FTri64 (el : FMods → Nat → Nat → Nat → Nat) (i : Head → FMods → Reg → Reg → Reg → Reg → Instr) : Prop :=
  ∀ h m d a b c, Writes (i h m d a b c) h vecCls [(d, 2), (a, 2), (b, 2), (c, 2)]
    (res64 d [(a, 2), (b, 2), (c, 2)] fun s u =>
      BitVec.ofNat 64 (el m (s.r64 u a).toNat (s.r64 u b).toNat (s.r64 u c).toNat))

def FPair3 (el : FMods → Nat → Nat → Nat → Nat) (i : Head → FMods → Reg → Reg → Reg → Reg → Instr) : Prop :=
  ∀ h m d a b c, Writes (i h m d a b c) h vecCls [(d, 1), (a, 1), (b, 1), (c, 1)]
    (res32 d [(a, 1), (b, 1), (c, 1)] fun s u => halves (el m) (s.r32 u a) (s.r32 u b) (s.r32 u c))

/-- One operand: from 32 or 64 bits to 32 or 64. -/
def F32to32 (f : Nat → Nat) (i : Head → Reg → Reg → Instr) : Prop :=
  ∀ h d a, Writes (i h d a) h vecCls [(d, 1), (a, 1)] (res32 d [(a, 1)] fun s u => BitVec.ofNat 32 (f (s.r32 u a).toNat))
def F64to64 (f : Nat → Nat) (i : Head → Reg → Reg → Instr) : Prop :=
  ∀ h d a, Writes (i h d a) h vecCls [(d, 2), (a, 2)] (res64 d [(a, 2)] fun s u => BitVec.ofNat 64 (f (s.r64 u a).toNat))
def F64to32 (f : Nat → Nat) (i : Head → Reg → Reg → Instr) : Prop :=
  ∀ h d a, Writes (i h d a) h vecCls [(d, 1), (a, 2)] (res32 d [(a, 2)] fun s u => BitVec.ofNat 32 (f (s.r64 u a).toNat))
def F32to64 (f : Nat → Nat) (i : Head → Reg → Reg → Instr) : Prop :=
  ∀ h d a, Writes (i h d a) h vecCls [(d, 2), (a, 1)] (res64 d [(a, 1)] fun s u => BitVec.ofNat 64 (f (s.r32 u a).toNat))

/-- The exact values of the operands as the modifiers read them (R131), and the one rounding of a result (R90, R91). -/
def vA (f : FFmt) (m : FMods) (x : Nat) : FVal := f.decode (f.operand m.ftz m.absA m.negA x)
def vB (f : FFmt) (m : FMods) (x : Nat) : FVal := f.decode (f.operand m.ftz m.absB m.negB x)
def vC (f : FFmt) (m : FMods) (x : Nat) : FVal := f.decode (f.operand m.ftz m.absC m.negC x)
def rounds (f : FFmt) (m : FMods) (v : FVal) : Nat :=
  if m.sat then f.sat01 (f.round m.rnd m.ftz v) else f.round m.rnd m.ftz v

def sums (f : FFmt) (m : FMods) (x y : Nat) : Nat := rounds f m (FVal.add m.rnd (vA f m x) (vB f m y))
def products (f : FFmt) (m : FMods) (x y : Nat) : Nat := rounds f m (FVal.mul (vA f m x) (vB f m y))
def fused (f : FFmt) (m : FMods) (x y z : Nat) : Nat :=
  rounds f m (FVal.add m.rnd (FVal.mul (vA f m x) (vB f m y)) (vC f m z))

/-! Control words. -/

/-- Where a word displacement leads from the clause (R58). -/
def branchTo (x : Bundle) (wofs : BitVec 32) : W64 := x.clause.pc.signExtend 64 + 8 * wofs.signExtend 64

/-- A thread goes to a place in its bundle's stead (R52). -/
def goes (a : W64) (s : State) (u : Nat) : State := jump s u (a.extractLsb' 0 57)

/-- R146: a call keeps the address of the next clause, the newest four with the thread. -/
def calls (x : Bundle) (a : W64) (s : State) (u : Nat) : State :=
  goes a (s.updThr u fun y =>
    { y with depth := y.depth + 1, cache := ((x.clause.next.zeroExtend 64) :: y.cache).take 4 }) u

def roomToCall (s : State) (u : Nat) : Bool :=
  decide ((s.thr u).depth < sliceSize s (s.ctxOf (crewOf u)) / 8) && decide ((s.thr u).cache.length < 4)

/-- A register target that R144 accepts: canonical, at a clause, and not poisoned. -/
def goodTarget (s : State) (u : Nat) (a : Reg) : Bool :=
  canonical (s.r64 u a).toNat && (s.r64 u a).extractLsb' 0 3 == 0 && !s.isPoisoned u [(a, 2)]

/-! Crew operations: the values of the participants, by thread. -/

def wide32 (s : State) (a : Reg) (v : Nat) : W64 := (s.r32 v a).zeroExtend 64

/-- LXCH (R204): the source lane is a participant, or the lane keeps its own value. -/
def exchange (mode : Fin 4) (wide : Bool) (sw : Fin 6) (pd : Fin 8) (d a : Reg) (b : OpB) (s : State) (act : List Nat)
    (u : Nat) : List RegWrite :=
  let n := if wide then 2 else 1
  let val (v : Nat) : W64 := if wide then s.r64 v a else wide32 s a v
  let from_ := ((lxchSrc mode (2 ^ sw.val) (laneOf u) (s.b32 u b)).map fun l => crewOf u * 32 + l).filter act.contains
  let p := act.any fun v => s.isPoisoned v ((a, n) :: b.regs 1)
  (if wide then wr64 d (val (from_.getD u)) p else wr32 d ((val (from_.getD u)).extractLsb' 0 32) p) ++
    wrP pd.val from_.isSome false

def census (d : Reg) (pd : Fin 8) (r : Bool) : List RegWrite :=
  wr32 d (if r then 0xFFFFFFFF else 0) false ++ wrP pd.val r false

def asked (pci : Fin 8) (neg : Bool) (s : State) (v : Nat) : Bool := Bool.xor (s.rdPred v pci.val) neg

def foldAll (f : W32 → W32 → W32) : List W32 → W32
  | [] => 0
  | v :: r => r.foldl f v

/-- CRED (R206). -/
def Reduces (f : List W32 → W32) (i : Head → Reg → Reg → Reg → Instr) : Prop :=
  ∀ h d a c, CrewSends (i h d a c) h [(d, 1), (a, 1), (c, 1)] c fun s act _ =>
    wr32 d (f (act.map fun v => s.r32 v a)) (act.any fun v => s.isPoisoned v [(a, 1)])


/-! Synchronisation. -/

/-- No lane is poisoned in these registers (R392); the counter can rise (R34); what came before is visible (R169). -/
def pure_ (s : State) (ts : List Nat) (rs : List (Reg × Nat)) : Bool := ts.all fun u => !s.isPoisoned u rs
def countable (s : State) (h : Head) (ts : List Nat) : Bool := ts.all fun u => decide (counter s u h.dc.val < 63)
def settledAt (l : Nat) (s : State) (ts : List Nat) : Bool := ts.all fun u => settled s u l

/-- Each lane, when its turn comes, finds what it needs. -/
def turns (ok : State → Nat → Bool) (f : State → Nat → State) : State → List Nat → Bool
  | _, [] => true
  | s, u :: r => ok s u && turns ok f (f s u) r

/-- R210: a lane stands in the mask it presents to a group that is there and not broken, and that the crew has presented no
other mask to. -/
def mayArrive (g : State → Nat → Option Nat) (m : Nat → W32) (s : State) (u : Nat) : Bool :=
  (m u).getLsbD (laneOf u) &&
    ((g s u).bind s.group?).any fun y => !y.broken && (Map.get? y.presented (myKey s u)).all (· == m u)

def phaseOf (s : State) (g : Nat) : Nat := ((s.group? g).map Group.phase).getD 0

/-- No arrival that comes later in the order of R169 has been counted in this tick, and no phase has timed out (R170). -/
def timely (g : State → Nat → Option Nat) (s : State) (ts : List Nat) : Bool := ts.all fun u =>
  !((g s u).bind s.group?).any fun y => y.due s.time || y.lastAt.any fun l => l.1 == s.time && decide (barPlace s u < l.2)

/-- R167, R413: one arrival, which carries to the others what its thread did before (R252); a group of several billets ends
revocability. -/
def arrives (g u : Nat) (m : W32) (s : State) : State :=
  let s1 := if ((s.group? g).any fun y => decide (1 < (y.members.map Prod.fst).dedup.length)) then
    s.irrevocable (s.billetKey (crewOf u)) else s
  recordArrival (s1.carry (groupKey g) u s1.seq) g u m

/-- A lane arrives; a blocking arrival waits for its token's phase (BAR.SYNC, BBAR). -/
def arriving (wait : Option (Nat × Reg)) (g : State → Nat → Option Nat) (m : Nat → W32) (s : State) (u : Nat) : State :=
  let k := (g s u).getD 0
  wait.elim (arrives k u (m u) s) fun w => block (arrives k u (m u) s) u w.1 (.bar k (phaseOf s k) w.2 true false)

/-- Each lane with the group it arrived at and the token it got. -/
def visits (f : State → Nat → State) (g : State → Nat → Option Nat) : State → List Nat → List (Nat × Nat × Nat)
  | _, [] => []
  | s, u :: r => (u, (g s u).getD 0, phaseOf s ((g s u).getD 0)) :: visits f g (f s u) r

/-- R167: the groups that took arrivals see whether their phase is complete. -/
def counted (ps : List (Nat × Nat × Nat)) (s : State) : State :=
  each (fun s' k => evalPhase s' k ((ps.filter fun p => p.2.1 == k).map Prod.fst)) s (ps.map fun p => p.2.1).dedup

def syncs (g : State → Nat → Option Nat) (d : Reg) (b : OpB) (s : State) (x : Bundle) (ts : List Nat) : State :=
  let f := arriving (some (x.widx, d)) g (s.b32 · b)
  counted (visits f g s (barOrder s ts)) (each f s (barOrder s ts))

/-- An arrival that goes on (BAR.ARV, BAR.ARVC): each lane takes its token; BAR.ARVC is told whether it completed the phase. -/
def tokens (told : Bool) (hn : Nat) (d : Reg) (b : OpB) (s : State) (ts : List Nat) : State :=
  let f := arriving none (groupOf · · hn) (s.b32 · b)
  let ps := visits f (groupOf · · hn) s (barOrder s ts)
  let s1 := counted ps (each f s (barOrder s ts))
  each (fun s' p => (s'.observe p.2.1 p.1).giveRegs p.1 (keepS ts p.1 (wr32 d
    (stWord 0 p.2.2 (told && (s1.group? p.2.1).any fun y => y.phase != p.2.2)) false))) s1 ps

/-- The group of a handle, and a mask that holds the lane (R210). -/
def inGroup (s : State) (hn : Nat) (b : OpB) (ts : List Nat) : Bool :=
  ts.all fun u => ((groupOf s u hn).bind s.group?).isSome && (s.b32 u b).getLsbD (laneOf u)

/-- What BAR.WAIT and BAR.TRY report of a token. -/
def report (y : Group) (tok : Nat) : W32 := stWord (if y.broken then 2 else if y.isDone tok then 0 else 1) (if y.broken then 0 else tok) false

def theGroup (s : State) (hn u : Nat) : Option (Nat × Group) :=
  (groupOf s u hn).bind fun g => (s.group? g).map fun y => (g, y)

/-- A thread takes a result that its group gives, and with a token's state what that group stands for (R252). -/
def gives (look : Bool) (d : Reg) (w : Group → W32) (hn : Nat) (s : State) (ts : List Nat) (s' : State) (u : Nat) : State :=
  (theGroup s hn u).elim s' fun y =>
    (if look then s'.observe y.1 u else s').giveRegs u (keepS ts u (wr32 d (w y.2) false))

/-- R201: an object's operand is in reach, aligned, and steered by no poison. -/
def objAt (s : State) (u : Nat) (m : SOp) (n : Nat) : Nat :=
  (objScratch s u m.clus (addr32 (s.r32 u m.base) m.ofs) n).getD 0
def objReady (s : State) (u : Nat) (m : SOp) (n : Nat) (rs : List (Reg × Nat)) : Bool :=
  (objScratch s u m.clus (addr32 (s.r32 u m.base) m.ofs) n).isSome && addr32 (s.r32 u m.base) m.ofs % n == 0 &&
    !s.isPoisoned u ((m.base, 1) :: rs)

/-- A word that sends an operation to an object. -/
def SendsTo (size : Nat) (queue : Bool) (i : Instr) (h : Head) (d : Reg) (n : Nat) (m : SOp) (src : List (Reg × Nat))
    (ok : State → Nat → Bool) (op : State → List Nat → Nat → Nat → POp × List Target) : Prop :=
  Does i h anyCls [(m.base, 1), (d, n)]
    (fun s _ ts => countable s h ts && ts.all fun u => objReady s u m size src && ok s u)
    fun s _ ts => each (fun s' u => (useObj s' u (2 * objAt s u m size + queue.toNat)).addOp u h.dc.val
      (op s ts u (objAt s u m size)).1 (op s ts u (objAt s u m size)).2) s ts

/-- A blocking queue word takes its place in the queue's order (R176); a push carries to who pops what its thread did before
(R252). -/
def queues (push : Bool) (m : SOp) (w : State → Nat → Nat → Nat → Wait) (s : State) (x : Bundle) (s' : State) (u : Nat) : State :=
  let a := objAt s u m 32
  let s1 := useObj s' u (2 * a + 1)
  let s2 := block (if push then s1.carry (objKey (2 * a + 1)) u s1.seq else s1) u x.widx (w s u a s1.seq)
  queueChanged (journalQueue { s2 with seq := s2.seq + 1 } u a) a

/-- QPUSH and QPOP with a queue of the form's width. -/
def Queues (push : Bool) (n : Nat) (wide : Bool) (i : Head → Reg → SOp → Instr) (src : Reg → List (Reg × Nat))
    (w : Reg → State → Nat → Nat → Nat → Wait) : Prop :=
  ∀ h d m, Does (i h d m) h anyCls [(m.base, 1), (d, n + 1)]
    (fun s x ts => settledAt (if push then 3 else 0) s ts && (ts.all fun u => objReady s u m 32 (src d)) &&
      turns (fun s' u => (s'.queueAt (objAt s u m 32)).wide == wide) (queues push m (w d) s x) s ts)
    fun s x ts => each (queues push m (w d) s x) s ts

/-! Memory. -/

/-- A lane's page: the physical address and the protocol, where the map lets it through (R222 to R225). -/
def pageOf (s : State) (u va : Nat) (kind : AccKind) : Option (Nat × Nat) :=
  match translate s (s.ctxOf (crewOf u)) (s.crew (crewOf u)).priv kind va with
  | .ok pa proto _ => some (pa, proto)
  | _ => none

/-- A lane's access that meets no PROT, ALIGN, POISON or watchpoint (R269, R442); its page may still be absent. -/
def mayAccess (s : State) (u va size : Nat) (kind : AccKind) (rs : List (Reg × Nat)) (rd wr : Bool) : Bool :=
  (match translate s (s.ctxOf (crewOf u)) (s.crew (crewOf u)).priv kind va with | .prot _ => false | _ => true) &&
    va % size == 0 && !s.isPoisoned u rs && (watchHit s u false va size rd wr).isEmpty

/-- MIXCHK notes an access it allows (R258). -/
def mixed (s : State) (m : MOp) (kind : AccKind) (size : Nat) (strong : Bool) (s' : State) (u : Nat) : State :=
  (mixCheck s' u ((pageOf s u (ea64 s m u) kind).getD (0, 0)).1 size strong).getD s'

def mixes (s : State) (m : MOp) (kind : AccKind) (size : Nat) (strong : Bool) (ts : List Nat) : Bool :=
  turns (fun s' u => (mixCheck s' u ((pageOf s u (ea64 s m u) kind).getD (0, 0)).1 size strong).isSome)
    (mixed s m kind size strong) s ts

/-- Nothing of the thread before it is still to be ordered before what a word does at once: no acquire is open, and what its
releasing fences stand for is visible (R252, R264). -/
def orderly (s : State) (ts : List Nat) : Bool := ts.all fun u => !openAcquire s u && !unpublished s u

def accOf (s : State) (u : Nat) (m : MOp) (size : Nat) (kind : AccKind) : Acc :=
  mkAcc s u (ea64 s m u) ((pageOf s u (ea64 s m u) kind).getD (0, 0)).1 ((pageOf s u (ea64 s m u) kind).getD (0, 0)).2 size m s.seq

def here (s : State) (m : MOp) (kind : AccKind) (u : Nat) : Bool := (pageOf s u (ea64 s m u) kind).isSome

/-- LD: a lane whose page is there has a load in flight, another takes poisoned zeros and latches its address (R271, R390). -/
def Loads (size : Nat) (signed : Bool) (i : Head → Reg → MOp → Instr) : Prop :=
  ∀ h d m, Does (i h d m) h anyCls [(m.base, 2), (d, regsFor size)]
    (fun s _ ts => countable s h ts && (ts.all fun u => mayAccess s u (ea64 s m u) size .read [(m.base, 2)] true false &&
      (here s m .read u || !Reg.isS d || !supplies ts u)) && mixes s m .read size (m.ord != .weak) (ts.filter (here s m .read)))
    fun s _ ts =>
      let s1 := each (mixed s m .read size (m.ord != .weak)) s (ts.filter (here s m .read))
      each (fun s' u =>
        if here s m .read u then s'.addAccess u h.dc.val (accOf s u m size .read)
          (fun a => .load a { signed := signed, dst := laneDst ts u d }) (destsOf (laneDst ts u d) (regsFor size))
        else poisonLane s' u h.dc.val (ea64 s m u) (laneDst ts u d) (regsFor size))
        (noteLanes (if wide m.ord m.scope then endInterval s1 ts else s1) ts (ea64 s m) size) ts

/-- A global word that writes: its lanes are all in flight, or all wait for the absent pages (R268, R271, R273 to R275, R393). -/
def WritesTo (size type n : Nat) (kind : AccKind) (rmw : Bool) (i : Head → Reg → MOp → Instr) (place : MOp → MOp)
    (dst : Nat) (op : State → Nat → Reg → Acc → POp) : Prop :=
  ∀ h d m,
    Does (i h d m) h anyCls [(m.base, 2), (d, n)]
      (fun s _ ts => countable s h ts && (ts.all fun u =>
        mayAccess s u (ea64 s (place m) u) size kind [(m.base, 2), (d, n)] rmw true && here s (place m) kind u) &&
        mixes s (place m) kind size (rmw || m.ord != .weak) ts)
      (fun s _ ts =>
        let s1 := each (mixed s (place m) kind size (rmw || m.ord != .weak)) s ts
        each (fun s' u =>
          let a := { accOf s u (place m) size kind with ord := if rmw && m.ord = .weak then .rlx else m.ord }
          let s2 := s'.addAccess u h.dc.val a (op s u d) (destsOf (laneDst ts u d) dst)
          storeCopy s2 (s2.seq - 1))
          (noteLanes (if rmw || wide m.ord m.scope then endInterval s1 ts else s1) ts (ea64 s (place m)) size) ts) ∧
    Does (i h d m) h anyCls [(m.base, 2), (d, n)]
      (fun s _ ts => countable s h ts && (ts.all fun u =>
        mayAccess s u (ea64 s (place m) u) size kind [(m.base, 2), (d, n)] rmw true) &&
        !ts.all (here s (place m) kind))
      fun s x ts => parkThreads (noteLanes s ts (ea64 s (place m)) size) ts x.widx type 0
        ((ts.filter fun u => !here s (place m) kind u).foldl (fun gs u => addSector gs (ea64 s (place m) u) size) [])

/-- A scratchpad word: one operation for each place the address names (R229, R230, R272, R276). -/
def Scratch (size n : Nat) (clus : MOp → Bool) (mcast rd wr irrev : Bool) (i : Head → Reg → MOp → Instr)
    (dst : Option Nat) (op : State → List Nat → Nat → Reg → Acc → POp) : Prop :=
  ∀ h d m, Does (i h d m) h anyCls [(m.base, 1), (d, n)]
    (fun s _ ts => countable s h ts && ts.all fun u =>
      ((scratchTargets s u (clus m) mcast (ea32 s m u) size).any fun as =>
        (as.filterMap (ownOffset s u)).all fun o => (watchHit s u true o size rd wr).isEmpty) &&
      ea32 s m u % size == 0 && !s.isPoisoned u ((m.base, 1) :: if wr then [(d, n)] else []))
    fun s _ ts => each (fun s' u =>
      let as := (scratchTargets s u (clus m) mcast (ea32 s m u) size).getD []
      each (fun s2 i => s2.addAccess u (if i + 1 = as.length then h.dc.val else 0)
        (scratchAcc s u (ea32 s m u) (as.getD i 0) size (clus m) m.ord s.seq) (op s ts u d)
        (dst.elim [] fun k => destsOf (laneDst ts u d) k))
        (if irrev || (clus m && as.any fun a => (ownOffset s u a).isNone) then endInterval s' [u] else s')
        (List.range as.length)) s ts

/-- LDC's bytes through ARGS (R42, R272). -/
def bankAt (s : State) (m : MOp) (u : Nat) : Nat := (argsOf s u + ea32 s m u) % 2 ^ 64

def Bank (size : Nat) (i : Head → Reg → MOp → Instr) : Prop :=
  ∀ h d m, Does (i h d m) h anyCls [(m.base, 1), (d, regsFor size)]
    (fun s _ ts => countable s h ts && ts.all fun u => decide (ea32 s m u < 65536) && ea32 s m u % size == 0 &&
      !s.isPoisoned u [(m.base, 1)] && (pageOf s u (bankAt s m u) .read).isSome &&
      (pageOf s u ((bankAt s m u + size - 1) % 2 ^ 64) .read).isSome && (watchHit s u false (bankAt s m u) size true false).isEmpty)
    fun s _ ts => each (fun s' u =>
      let p := (pageOf s u (bankAt s m u) .read).getD (0, 0)
      s'.addOp u h.dc.val
        (.load (mkAcc s u (bankAt s m u) p.1 p.2 size m s.seq) { signed := false, dst := laneDst ts u d })
        (destsOf (laneDst ts u d) (regsFor size))) (noteLanes s ts (bankAt s m) size) ts

/-- The entries of a lane's MCAS, where its block meets no trap and no fault (R278). -/
def entriesOf (s : State) (u va : Nat) : Option (List McasEntry) :=
  match mcasLane s u va none with
  | .go es => some es
  | _ => none

/-- A lane's MCAS goes on in a state: MIXCHK allows its entries and no watchpoint stops it (R258, R442). -/
def mcasGoes (s : State) (m : MOp) (s' : State) (u : Nat) : Bool :=
  (entriesOf s u (ea64 s m u)).any fun es => (mixEntries (noteMcas s' u (ea64 s m u)) u es).toBool &&
    (mcasWatch s u (ea64 s m u) es).isEmpty

/-- It enters the operations in flight with its entries and their lines, rising. -/
def mcasSent (s : State) (h : Head) (d : Reg) (m : MOp) (ts : List Nat) (s' : State) (u : Nat) : State :=
  let es := (entriesOf s u (ea64 s m u)).getD []
  let s1 := noteMcas s' u (ea64 s m u)
  let s2 := match mixEntries s1 u es with | .ok t => t | .error _ => s1
  (endInterval s2 [u]).addOp u h.dc.val (.mcas { mkAcc s u (ea64 s m u) 0 0 0 m s.seq with ord := .ar } es
    (mcasLines es) [] s.time (laneDst ts u d)) (destsOf (laneDst ts u d) 1)

/-! Commands and matrix words. -/

/-- R321: one lane's command goes to its queue where an entry is free, and p(pd) tells where none is. -/
def pushes (q : Nat) (src : Reg) (pd : Nat) (s s' : State) (u : Nat) : State :=
  let full := queueFull s' u q
  let put := enqueue s' u q (pushImage s u src)
  (if full then s' else if q = 0 then put else put.irrevocable (put.billetKey (crewOf u))).giveRegs u (wrP pd full false)

/-- R303, R180: the lanes of a crew have all passed the word as often, and now all of the bundle's act or none does, where none
waits there already; a crew that acts is in a gang. -/
def atOnce (s : State) (x : Bundle) (ts : List Nat) : Bool :=
  (ts.all fun u => (s.crew (crewOf u)).gang != 0) && x.tids.all fun u =>
    ((liveTids s (crewOf u)).all fun v =>
      matTurn s (x.clause.pc, x.widx) v == matTurn s (x.clause.pc, x.widx) u) &&
    (ts.contains u || ((ts.all fun v => crewOf v != crewOf u) && (crewTids (crewOf u)).all fun v => (latchOf s v).isNone))

/-- A matrix word brings its threads to the latch with the operation; lanes its guard leaves out have passed it. -/
def Latches (i : Instr) (h : Head) (regs : List (Reg × Nat)) (op : MatOp) : Prop :=
  Does i h mtxCls regs (fun s x ts => countable s h ts && atOnce s x ts)
    fun s x ts =>
      let s1 := each (fun s' u => (s'.leave [u]).updThr u fun y =>
        { y with widx := x.widx, status := .latch op h.dc.val s.time }) s ts
      each (fun s' c => passMat (x.clause.pc, x.widx) (x.tids.filter fun u => crewOf u == c && !ts.contains u) s' c) s1
        (x.tids.map crewOf).dedup

def scaled (sb : Reg) (rel : Bool) : List (Reg × Nat) := if rel then [(sb.plus 2, 1)] else []

/-! Surface words. -/

/-- What the lanes come to one after another, where each is accepted. -/
def lanes (op : Nat → Plan (List RegWrite)) : State → List Nat → Option (State × List (Nat × List RegWrite))
  | s, [] => some (s, [])
  | s, u :: r =>
    match op u s with
    | (.ok ws, s') => (lanes op s' r).map fun q => (q.1, (u, ws) :: q.2)
    | _ => none

/-- What lanes of the word that were accepted before the others waited came to (R377). -/
def before (x : Bundle) : List (Nat × List RegWrite) := x.lanes.filterMap fun e =>
  match e.2 with
  | .accepted ws => some (e.1, ws)
  | _ => none

/-- The lanes' results are in flight; a write without a counter has none. -/
def landing (h : Head) (load : Bool) (ts : List Nat) (rs : List (Nat × List RegWrite)) (s : State) : State :=
  each (fun s' r => if load || h.dc.val != 0 || !r.2.isEmpty then s'.addValue r.1 h.dc.val (keepS ts r.1 r.2) else s') s rs

/-- R435: operations issued, one a lane. -/
def tallied (rs : List (Nat × List RegWrite)) (s : State) : State :=
  each (fun s' r => bumpPerf s' (s'.ctxOf (crewOf r.1)) (coreOf r.1) 6 1) s rs

/-- A surface word none of whose lanes stops or waits: each acts once, in turn, and has its results in flight when the bundle goes
on (R377). -/
def Surface (i : Instr) (h : Head) (srcs regs : List (Reg × Nat)) (load : Bool)
    (op : State → Nat → Plan (List RegWrite)) : Prop :=
  ∀ s b x t rs, Issuing s b x = true → vecCls x.clause.cls = true → Fits s x regs = true →
    countable s h (activeOf s x h) = true → pure_ s (activeOf s x h) srcs = true → orderly s (activeOf s x h) = true →
    (∀ e ∈ x.lanes, e.1 ∈ activeOf s x h ∧ ∃ ws, e.2 = .accepted ws) →
    lanes (op s) (endInterval s (activeOf s x h)) ((activeOf s x h).filter fun u => !(x.lanes.any fun e => e.1 == u)) = some (t, rs) →
    exec i s = .next (finishWord b x
      { s := landing h load (activeOf s x h) (before x ++ rs) (tallied (before x ++ rs) (t.setLaneEnds [])) })

def SurfaceLoad (n : Nat) (i : Head → Reg → Reg → Reg → Instr) (ps : Nat → Nat → List (Nat × Nat))
    (out : Reg → List Nat → List RegWrite) : Prop :=
  ∀ h d a b, Surface (i h d a b) h [(a, 1), (b, 1)] [(a, 1), (b, 1), (d, n)] true fun s u => do
    let g ← laneSurf s u a b
    let vs ← readPixelsAt (whoOf s u) g (ps (coordX s u b) (coordY s u b))
    pure (out d vs)

/-- A lane's pixels are written; a store has no results. -/
def stores (a b : Reg) (bits mask : Nat) (ps : List (Nat × Nat × Nat)) (s : State) (u : Nat) : Plan (List RegWrite) := do
  let g ← laneSurf s u a b
  writePixelsAt (whoOf s u) g bits mask ps
  pure []

/-- A change of the block at a lane's coordinate, which a coordinate outside the grid makes none; `f` says what becomes of the block
and whether its new prediction failed. -/
def changes (a b : Reg) (raw : Bool) (f : SurfBlock → Plan (SurfBlock × Bool)) (s : State) (u : Nat) :
    Plan (List RegWrite) := do
  let g ← laneSurf s u a b
  writable (whoOf s u) g raw
  match blockAt g.desc (coordX s u b) (coordY s u b) with
  | none => pure []
  | some n => do
    surfApply (whoOf s u) g n f
    pure []

/-- SFLUSH and SREL with nothing to wait for: one lane's flush. -/
def flushes (a : Reg) (rel : Bool) (s : State) (u : Nat) : Plan (List RegWrite) := fun s' =>
  match flushLane a rel s u s' with
  | (t, some (.accepted ws)) => (.ok ws, t)
  | (t, _) => (.error .busy, t)

/-! Triangles, boxes and nodes. -/

/-- A word of fixed latency whose v results take the poison of the operands; a predicate or s register takes none (R384). -/
def Tests (i : Instr) (h : Head) (d : Reg) (n : Nat) (srcs : List (Reg × Nat)) (pd : Option (Fin 8))
    (f : State → Nat → List W32 × Bool) : Prop :=
  Writes i h vecCls (srcs ++ [(d, n)]) fun s u => wrN d (f s u).1 (!Reg.isS d && s.isPoisoned u srcs) ++
    pd.elim [] fun p => wrP p.val (f s u).2 false

def nats (s : State) (u : Nat) (r : Reg) (n : Nat) : List Nat := (s.rN u r n).map BitVec.toNat

/-! System words. -/

/-- A word of a system class whose lanes run at a level that may use it (R77). -/
def Sys (lvl : Nat) (i : Instr) (h : Head) (regs : List (Reg × Nat)) (ok : State → List Nat → Bool)
    (f : State → State → Nat → State) : Prop :=
  Does i h sysCls regs (fun s _ ts => (ts.all fun u => decide ((s.crew (crewOf u)).priv ≤ lvl)) && ok s ts)
    fun s _ ts => each (f s) s ts

def counts (h : Head) (rs : List (Reg × Nat)) (s : State) (ts : List Nat) : Bool := countable s h ts && pure_ s ts rs

/-- A word that acts on the threads a 64-bit target and a lane mask name in the served context (R422). -/
def OnTarget (i : Head → Reg → OpB → Instr) (var : Bool) (f : State → Nat → Nat → W32 → State) : Prop :=
  ∀ h a b, Sys 1 (i h a b) h ((a, 2) :: b.regs 1) (fun s ts => (!var || countable s h ts) && pure_ s ts ((a, 2) :: b.regs 1))
    fun s s' u =>
      let t := f s' (served s u) (s.r64 u a).toNat (s.b32 u b)
      if var then signal t u h else t

/-- R77, R438: a lane may read, or write, the register. -/
def mayUse (s : State) (r : BitVec 16) (write : Bool) (ts : List Nat) : Bool := ts.all fun u => !sysDenied s u r.toNat write

/-- A word that completes by raising a trap of its own in every lane that acts (R423). -/
def Raises (i : Instr) (h : Head) (info : TrapInfo) : Prop :=
  ∀ s b x, Issuing s b x = true →
    exec i s = .next (finishWord b x { s := s, traps := (activeOf s x h).map fun u => (u, info) })

/-! Events: what happens of itself. -/

/-- An event happens wherever its conditions hold, and this is what it leaves. -/
def Happens (i : Instr) (ok : State → Prop) (E : State → State) : Prop := ∀ s, ok s → exec i s = .next (E s)

/-- The order of R170: billet position, crew, lane. -/
def standing (s : State) (t : Nat) : Nat :=
  (s.crew (crewOf t)).pos * 512 + (s.crew (crewOf t)).number * 32 + laneOf t

/-- The threads a barrier holds up: they wait for its phase, in order of billet position, crew and lane (R170). -/
def barWaiters (s : State) (g : Nat) (x : Group) : List Nat :=
  sortBy (fun a b => decide (standing s a ≤ standing s b)) ((s.onGroup g).filter fun t =>
    match (s.thr t).status with
    | .blocked (.bar _ tok _ arrived _) => (arrived || tok == x.phase) && !x.isDone tok
    | _ => false)

/-- Each raises BARTIME with the entry and the handle, the first with the diagnostic block (R170). -/
def bartimeTraps (s : State) (g : Nat) (x : Group) : List (Nat × TrapInfo) :=
  let i : TrapInfo := { trap := .bartime, detail := x.entry * 65536 + x.handle }
  match barWaiters s g x with
  | [] => []
  | t :: ts => (t, { i with diag := diagBlock s x }) :: ts.map fun u => (u, i)

/-- The earlier operations of a fence's thread. -/
def earlier (s : State) (p : Pend) : List Pend := s.pend.filter fun q => decide (q.id < p.id) && q.tid == p.tid

/-- The cycle of R157 before a port chooses: what is not ready now is ready later, what has been ready for 256 cycles is
aged, and a thread at a breakpoint stops there (R442). -/
def gathered (s : State) (core : Nat) : State :=
  let s0 := s.updCore core fun c => { c with gather := c.gather + 1 }
  let now := (s0.core core).gather
  let note (t : Nat) (x : Thread) : Thread :=
    if readyBut s0 t x = false then { x with readyAt := now + 1, aged := false }
    else if x.readyAt + 256 ≤ now then { x with aged := true } else x
  let s1 : State := { s0 with threads := s0.threads.map fun e => if coreOf e.1 = core then (e.1, note e.1 e.2) else e }
  let stops := brokenAt s1 core
  if stops.isEmpty then s1
  else raiseCompared (each (fun s' e => s'.updThr e.1 fun x => x.stoppedBy x.pc e.2) s1 stops)
    (stops.map fun e => (e.1, { trap := .brk, detail := 0xFFFFFFF0 + e.2 }))

/-- Traps of several threads go in the order of the threads. -/
def sorted (ts : List (Nat × TrapInfo)) : List (Nat × TrapInfo) := sortBy (fun a b => decide (a.1 ≤ b.1)) ts

/-- The crews of a billet at the latch that are out of place (R181). -/
def outOfPlace (s : State) (cid : Nat) : List (Nat × AtLatch) := (latchCrews s cid).filter fun c => gangFault s c.1 c.2

/-- A gang has come to the latch whole and in time, no crew there is out of place, and no other gang releases before it (R180,
R181, R303). -/
def GangHere (s : State) (cid : Nat) (w : AtLatch) : Prop :=
  crewLatch s cid = some w ∧ outOfPlace s cid = [] ∧ gangComplete s cid w = true ∧ releasesFirst s cid w = true

def gangCrews (s : State) (cid : Nat) (w : AtLatch) : List Nat := (gangNumbers w.gang).filterMap (crewByNumber s cid)

/-- The crews of the billet that wait with the same gang, and since when the first of them has (R181). -/
def gangAt (s : State) (cid : Nat) (w : AtLatch) : List (Nat × AtLatch) := (latchCrews s cid).filter fun c => c.2.gang == w.gang
def gangSince (s : State) (cid : Nat) (w : AtLatch) : Nat := (gangAt s cid w).foldl (fun m c => min m c.2.since) w.since

/-- A matrix instruction has issued: it stands last in the anvil's queue, and each thread goes on with an operation under way
that the instruction's end will complete (R180, R303). -/
def issuedMatrix (s : State) (cid : Nat) (w : AtLatch) : State :=
  let gang := gangCrews s cid w
  let o := makeOp s gang w.op
  let s1 := bumpPerf { s with anvil := s.anvil ++ [o], seq := s.seq + 1 } (s.ctxOf cid) (cid / 32) 5 (issueCycles s o)
  let dc (t : Nat) : Nat := match (s.thr t).status with | .latch _ d _ => d | _ => 0
  let go (s' : State) (t : Nat) : State :=
    let s2 := s'.addOp t (dc t) (.unit o.id) (matDests w.op)
    settle s2 t (s2.thr t).afterWord.1 (s2.thr t).afterWord.2
  each go { s1 with fresh := s1.fresh + 1 } (gang.flatMap (liveTids s))

/-- The anvil's queue of a core, oldest first, is led by an instruction (R315). -/
def oldest (s : State) (o : AnvilOp) : Prop := ((anvilOps s o.core).head?.map AnvilOp.id) = some o.id

/-- An instruction leaves the anvil: its operations are done, and those not rolled back write their registers (R315). -/
def leavesAnvil (s : State) (id : Nat) : State :=
  let done (p : Pend) : Pend := { p with done := true, writes := p.writes.filter fun w => p.dests.contains w.tgt }
  let left (s : State) : State :=
    { s with anvil := s.anvil.filter fun x => x.id != id, pend := s.pend.map fun p => if p.op = .unit id then done p else p }
  completeAll (left s).sweep

/-- An MSTORE that completes writes its tile, while its billet is there (R318, R331). -/
def tileOut (s : State) (id : Nat) : State :=
  match s.anvil.find? fun x => x.id == id with
  | none => s
  | some o => match o.op with
    | .mstore .. => if o.here s then storeTile s o else s
    | _ => s

/-- A thread that may fetch: it is ready, holds no clause and no word of it is under way (R51). -/
def MayFetch (s : State) (t : Nat) : Prop :=
  (s.thr t).status = .ready ∧ (s.thr t).clause = none ∧ (s.threads.get? t).isSome ∧ s.inFlight t = false

/-- What a fetch finds: the outcome, the PC it settles on (R334 passes over clauses of another role), and what the core's
instruction cache keeps. -/
def found (s : State) (t : Nat) : FetchOut × BitVec 57 × List Nat :=
  fetchSelect s t (s.thr t).select (s.thr t).pc (if (s.thr t).select then 4 else 1)
def kept (s : State) (t : Nat) : State :=
  let va := (pc64 (found s t).2.1).toNat
  let s1 := (s.noteTlb (s.ctxOf (crewOf t)) va).noteTlb (s.ctxOf (crewOf t)) ((va + 8 * ((found s t).2.2.length - 1)) % 2 ^ 64)
  if (found s t).2.2.isEmpty then s1
  else { s1 with icache := s1.icache.set (icKey s1 t (found s t).2.1) (found s t).2.2 }

/-! Events: launches, saving, coherence, engines. -/

/-- The window of a tenant may be written (R463, R472). -/
def Window (s : State) (f : Nat) : Prop := s.windowOn = true ∧ f < 64

/-- A queue of a tenant, or its AMP queue (16), that is on, has a packet at its head not read yet, and a part in D0 (R185). -/
def HasPacket (s : State) (f q : Nat) : Prop :=
  queueOn s f q = true ∧ headPacket s f q = none ∧ s.power = 0 ∧
    (if q = 16 then (s.tenant f).amp ≠ [] else ((s.tenant f).queue q).tail ≠ ((s.tenant f).queue q).hd)

/-- The workpiece a packet makes (R188). -/
def newPiece (s : State) (f q : Nat) (p : BitVec 512) (t : List (BitVec 128)) (w : List Nat) : Workpiece :=
  { ident := BitVec.ofNat 32 (s.tenant f).nextIdent, tenant := f, ctx := queueCtx s f q, queue := q,
    index := (queueHead s f q).toNat, packet := p, table := t, widths := w, missed := missedPacket s f q == some p }

/-- It stands at the head of its queue, with the next identifier of its tenant; a deadline that has passed is posted (R188,
R194). -/
def accepted (s : State) (f q : Nat) (p : BitVec 512) (x : Workpiece) : State :=
  let s1 : State := { s with wps := s.wps.set s.seq x, seq := s.seq + 1 }
  let s2 := s1.updTenant f fun t => { t with nextIdent := ((s.tenant f).nextIdent + 1) % 2 ^ 32 }
  let s3 := setHead (setMissed s2 f q none) f q (some { wp := s.seq, depMet := pkt p 256 64 == 0, polled := s.time })
  if missDue s3 x then postMiss s3 s.seq else s3

/-- A set of a workpiece at rest and marked to leave its cores (R408). -/
def SetAtRest (s : State) (w set : Nat) : Prop :=
  setBillets s w set ≠ [] ∧ (∀ e ∈ setBillets s w set, e.2.victim = true) ∧ quiet s (setBillets s w set) = true

/-- The event of a home's service: it performs, or it asks others first. -/
def Served (i : Instr) (s : State) (r : Serve) (f : State → State) : Prop :=
  (∀ t, r = .yes t → exec i s = .next (f t)) ∧ ∀ t, r = .wait t → exec i s = .next t

/-- A probe to an agent that stands unanswered, or answered. -/
def probeAt (s : State) (line agent : Nat) (answered : Bool) : Option Probe :=
  s.probes.find? fun p => p.line == line && p.agent == agent && p.answered == answered

def onProbe (s : State) (line agent : Nat) (f : Probe → Probe) : State :=
  { s with probes := s.probes.map fun q => if q.line = line ∧ q.agent = agent then f q else q }

/-- What a home does with its own copy of a line whose owner has failed (R246): the bytes the agent had modified go back. -/
def homeCopy (s : State) (line agent : Nat) : State :=
  let put (s : State) (k : Nat) : State := s.writePa (128 * line + k) [(s.home line).copy.getD k 0]
  let back (mask : BitVec 128) : State := each put s ((List.range 128).filter fun k => mask.getLsbD k)
  match (s.home line).dir with
  | .m b => if b = agent then back (BitVec.allOnes 128) else s
  | .p ms => match ms.find? fun m => m.1 == agent with
    | some m => back m.2
    | none => s
  | _ => s

/-- An MCAS may ask for its next line: its order allows it, and the drawer's grant is at hand (R265, R451). -/
def AsksLock (s : State) (p : Pend) (l : Nat) : Prop :=
  errorFor s p = none ∧ inOrder s p = true ∧ (isDrawerPa (128 * l) = false ∨ p.link = 2) ∧ domReady s p = true

/-- The line may be locked now: first in its queue, no lock, no engine, and of a SELF line no lease (R265). -/
def MayLock (s : State) (p : Pend) (l proto : Nat) : Prop :=
  (s.home l).lock = none ∧ ownedLine s .global l = false ∧ turn s l p.id = true ∧
    (proto = 1 → leaseEnd s l ≤ s.time ∧ (s.home l).writers = [] ∧ rebaseDue s l = false)

/-- The protocol of the page of an MCAS line. -/
def lineProto (es : List McasEntry) (l : Nat) : Nat := ((es.find? fun e => lineOf e.pa == l).map McasEntry.proto).getD 0

/-- A command stands first in its engine's queue, and may be taken (R284). -/
def LadleHead (s : State) (id : Nat) (c : Command) : Prop :=
  (s.ladle.find? fun x => x.id == id) = some c ∧ c.running = false ∧ c.parks = [] ∧ cmdReady s c = true ∧
    ((ladleQueue s c.core).head?.map Command.id) = some id

/-- The command with the crews' scratchpads it writes (R284). -/
def aimed (s : State) (c : Command) : Command :=
  { c with targets := cmdTargets s c, base := ((s.billets.get? c.billet).map fun b => scratchAddr c.core b.scratchBase).getD 0 }

/-- The events of the ladle's commands that read a map, by kind. -/
noncomputable def ladleEvents : List (Nat × (Nat → Instr)) :=
  [(1, .tcopy), (2, .tgather), (3, .tdecode), (4, .tqstore), (5, .tfill), (7, .tmapld)]

/-- A command with all its sectors counted, of its map. -/
def sized (c : Command) (m : TMap) : Command := { c with total := cmdTotal c m }

/-- The checks of a command with its map and further codes; the lowest that fails is its code (R298). -/
def checks (s : State) (c : Command) (codes : List (Bool × Nat)) : Option Nat :=
  lowestCode ((false, 1) :: stageCode s c :: mcastCode s c :: codes)

/-- It starts: all it touches may be accessed, and it asks for the lines it writes; what it comes to then (R284, R285). -/
def starts (s : State) (c : Command) (m : TMap) : Option Take :=
  if touchProt s (sized c m) ((cmdSectors (sized c m)).flatMap (sectorTouches s (sized c m) m)) then none
  else some (takeSectors (s.updEngine c.id fun _ => sized c m) (sized c m) m (cmdSectors (sized c m)))

/-- A command whose map has been read: it fails with the lowest code, waits for its lines, or runs (R284, R298). -/
def Issues (i : Instr) (s0 s : State) (c : Command) (m : TMap) (codes : List (Bool × Nat)) : Prop :=
  (∀ n, checks s c codes = some n → exec i s0 = .next (failCommand s c 1 n c.mapAddr c.stageOfs)) ∧
  (checks s c codes = none → starts s c m = none → exec i s0 = .next (failCommand s (sized c m) 1 8 c.mapAddr c.stageOfs)) ∧
  (∀ t, checks s c codes = none → starts s c m = some (.wait t) → exec i s0 = .next t) ∧
  ∀ t, checks s c codes = none → starts s c m = some (.yes t) → exec i s0 = .next (runLadle (sized c m) m t)

/-- A traversal command first in its queue, one of fewer than four that run in the cluster (R356). -/
def TravHead (s : State) (id : Nat) (c : Command) : Prop :=
  (s.trav.find? fun x => x.id == id) = some c ∧ c.running = false ∧ c.parks = [] ∧ cmdReady s c = true ∧
    ((travQueue s (c.core / 4)).head?.map Command.id) = some id ∧
    (s.trav.filter fun x => x.core / 4 == c.core / 4 && x.running).length < 4

def travAimed (s : State) (c : Command) : Command :=
  let base := ((s.billets.get? c.billet).map fun b => scratchAddr c.core b.scratchBase).getD 0
  { c with targets := [(c.billet, base)], base := base, total := c.count }

/-- Its checks: of a beam's surface, whether it may be written, and whether its descriptor's page is denied (R358, R359). -/
def travChecks (s : State) (c : Command) (surf denied : Bool) : Option Nat :=
  lowestCode [(c.kind != 1 && c.kind != 2, 1), (travMisaligned c, 2), (travStageBad s c, 3), (surf, 4), (c.nnodes == 0, 5),
    (denied || touchProt s c ({ va := c.nodeBase, n := 128, w := false } :: paramTouches c ++ (travItems c).flatMap (itemOut c)), 8)]

/-- The command asks for the lines it writes, and runs once it has them. -/
def TravRuns (i : Instr) (s : State) (c : Command) : Prop :=
  let r := takeLines (s.updEngine c.id fun _ => c) c ((openItems c).flatMap (itemPages s c)).dedup []
  (∀ t, r = .wait t → exec i s = .next t) ∧ ∀ t, r = .yes t → exec i s = .next
    (endTrav (passCommand (t.updEngine c.id fun x => { x with running := true }) 2 c
      (paramTouches c ++ (travItems c).flatMap (itemOut c))) c.id)

/-- The surface of a beam, or why it is not to be had. -/
def beamSurf (s : State) (c : Command) : Except SErr Surf := (getSurf ⟨c.ctx, c.priv, none⟩ c.surface none s).1

/-- What a traversal's item reads: the parameters, and what the walk names. -/
def itemReads (s : State) (c : Command) (j : Nat) (read : List Touch) : List (Nat × Nat) :=
  touchPages s c false ((if c.kind = 1 then paramTouches c else [{ va := (c.param + 32 * j) % 2 ^ 64, n := 32, w := false }]) ++ read)

/-- Item j of a running traversal may be done: no fault of its own, and none before it waits on a pool (R371). -/
def TravItem (s : State) (c : Command) (j : Nat) : Prop :=
  (s.trav.find? fun x => x.id == c.id) = some c ∧ c.running = true ∧ j ∈ openItems c ∧ (∀ x, c.stuck = some x → j ≤ x.1) ∧
    (∀ p ∈ c.parks, p.item ≠ some j) ∧ touchProt s c (itemOut c j) = false ∧ touchFaults s c (itemOut c j) = []

/-! Events: registers of the host, recovery, the domain, power. -/

/-- A write of a register of a tenant's window: the register takes it, then what waited on the ring follows. -/
def InWindow (i : Instr) (f : Nat) (E : State → State) : Prop := Happens i (fun s => Window s f) E

/-- An operation that must reach a drawer of the domain next (R451). -/
def Outbound (s : State) (id : Nat) (p : Pend) (pa f : Nat) : Prop :=
  s.pend? id = some p ∧ requestOf p = some (pa, f) ∧ ready s p = true ∧ needsDrawer s p = true ∧ p.link ≠ 2

/-- A barrier's threads of a billet that leave BBAR, once its commands have ended and its operations are done (R411). -/
def AtCheckpoint (s : State) (k : Nat) (b : Billet) (g : Nat × Group) : Prop :=
  s.billets.get? k = some b ∧ groupOfBillet s k = some g ∧ bbarDone s g.1 g.2 ≠ [] ∧ billetCmds s.ladle k b = [] ∧
    billetCmds s.trav k b = [] ∧ ∀ p ∈ s.pend, p.tid ∉ billetThreads s b

/-- The two sides of an assay pair, and what each has come to (R416). -/
def Pair (s : State) (t u : Nat) : Prop := assayOf s t = some u

/-- An uncorrectable error strikes a location of a unit: the second within the window is lasting; the tenants it affects are told,
and the unit is retired (R418). -/
def struck (s : State) (fs : List Nat) (kind unit a : Nat) : State :=
  let t := noteError s (errKey kind unit a)
  if errCount s (errKey kind unit a) = 0 then t
  else retireUnit (each (fun t f => t.postEvent f (recoveryRecord t 3 kind 0 0 (whereUnit kind unit) (errAddr kind a))) t fs)
    kind unit

/-- A fault of a unit of a kind that has become lasting by correctable errors (R418): two records to each tenant it affects,
and the unit is retired. -/
def lastingCorrectable (s : State) (kind unit a : Nat) : State :=
  let tell (s : State) (f : Nat) : State :=
    (s.postEvent f (recoveryRecord s 6 kind 0 0 (whereUnit kind unit) (errAddr kind a))).postEvent f
      (recoveryRecord s 3 kind 0 0 (whereUnit kind unit) (errAddr kind a))
  retireUnit (each tell s (if kind ≤ 4 then tenantsAt s (· == unit) else List.range 64)) kind unit

/-- The threads of a cluster are ready from now (R419). -/
def readyNow (s : State) (cl : Nat) : State :=
  let fix (e : Nat × Thread) : Nat × Thread :=
    if coreOf e.1 / 4 = cl then (e.1, { e.2 with readyAt := (s.core (coreOf e.1)).gather, aged := false }) else e
  { s with threads := s.threads.map fix }

/-- A cluster's scheduler has been rebuilt (R419): its tenants are told, and the second time within the window its cores
retire. -/
def rebuilt (s : State) (cl : Nat) : State :=
  let s1 := readyNow (noteError s (errKey 0 cl 0)) cl
  let s2 := each (fun s f => s.postEvent f (recoveryRecord s 5 0 0 0 (whereWord (cl / 16) 0 (cl % 16)) 0)) s1
    (tenantsAt s1 fun c => c / 4 == cl)
  if errCount s (errKey 0 cl 0) ≠ 0 then each (fun s i => retireCore s 0 (4 * cl + i)) s2 (List.range 4) else s2

/-- A home's line that a drawer takes back or takes away (R451, R238): what the part asked of it is to ask again; copies stay only
where the line may stay shared, and then what the part had modified is at the drawer. -/
def recalled (s : State) (line : Nat) (inval : Bool) : State :=
  let merged : Bool := match (s.home line).dir with | .p _ => true | _ => false
  let modified : Bool := match (s.home line).dir with | .m _ => true | _ => merged
  let s1 := if inval || merged then loseLine s line fun _ => true
    else if modified then rollWatched s line (fun _ => true) fun _ => true
    else s
  let s2 : State := { s1 with
    probes := s1.probes.filter fun p => p.line != line,
    pend := s1.pend.map fun p => if p.link = 2 ∧ p.op.lines.contains (.global, line) then { p with link := 0 } else p,
    copies := if inval then s1.copies.filter fun e => e.1 % 2 ^ 45 != line else s1.copies }
  s2.updHome line fun h =>
    if inval then { h with dir := .i, count := 0, copy := [], lmax := 0, l2 := false, dirty := none, hold := .no, dlease := 0 }
    else
      let h' : HomeLine := { h with dirty := none, hold := if h.hold = .no then .no else .shared }
      match h.dir with
      | .m b => { h' with dir := .s [b], copy := [] }
      | .p _ => { h' with dir := .s [], count := 0, copy := [] }
      | _ => h'

/-- A line that a drawer may ask for now (R451). -/
def MayProbe (s : State) (line : Nat) : Prop :=
  isDrawerPa (128 * line) = true ∧ (s.home line).held = true ∧ (s.home line).lock = none ∧ ownedLine s .global line = false ∧
    leaseEnd s line ≤ s.time ∧ ∃ p ∈ portsTo s (drawerOf (128 * line)), (s.port p).state = 2

/-- What a request asks of a drawer's line: the protocol of its page, its context, and whether at domain scope (R451, R452). -/
def askedOf (p : Pend) : Nat × Nat × Bool :=
  match p.op with
  | .pref _ proto c => (proto, c, false)
  | op => (op.acc?.map fun a : Acc => (a.proto, a.ctx, a.scope == Scope.dom)).getD (2, 0, false)

/-- CTXBIND's nibbles (R467): a queue that is on keeps its own where the write would change it. -/
def nibbleClash (s : State) (f v q : Nat) : Bool :=
  ((s.tenant f).queue q).en && nibble v q != nibble (s.tenant f).bind.toNat q

def boundNibbles (s : State) (f v : Nat) : Nat :=
  (List.range 16).foldl (fun n q =>
    n + (if nibbleClash s f v q then nibble (s.tenant f).bind.toNat q else nibble v q) * 16 ^ q) 0

/-- The attestation report (R471). -/
def attested (s : State) (nonce : Nat) : List Byte :=
  freeBytes s 4711 64 ++ (s.measurement ++ List.replicate 64 0).take 64 ++ toBytes nonce 32 ++ toBytes s.capCores.toNat 4 ++
    toBytes s.capSlices.toNat 4 ++ toBytes s.capChan.toNat 4 ++ toBytes s.capWaves.toNat 4 ++ freeBytes s 4712 64 ++
    toBytes s.time 8 ++ toBytes 0 8

/-- What the steps of bring-up leave, in the order of R472. -/
def measured (s : State) (x : BringUp) : State := { s with measurement := x.measurement, module := x.module }
def trained (s : State) (x : BringUp) : State := trainPorts (retireAll s x.bad) x

/-! The machine as a whole. -/

/-- The head of a word without a guard (p7) that signals a counter, 0 for none. -/
def plain (dc : Fin 7) : Head := { neg := false, idx := 7, dc := dc }
def noMods : FMods := ⟨.rne, false, false, false, false, false, false, false, false⟩

/-- Words of the spec's own examples, with the instructions it says they are: one at least of each group of opcodes. -/
noncomputable def specWords : List (Nat × Instr) :=
  [(0x01B80A040600004F, .addcB32 (plain 0) 7 1 true (.v 10) (.v 4) (.reg (.v 6))),
   (0x0038080800018000, .addB32 (plain 0) (.v 8) (.v 8) (.imm 1)),
   (0x1A38050100648012, .icmpS32 (plain 0) .lt 2 (.v 5) (.v 1) (.imm 100)),
   (0x1EB80A0000000400, .movi (plain 0) .w32 (.v 10) 4),
   (0x1F38040000000B00, .movs (plain 0) (.v 4) .timelo),
   (0x2438030102042002, .ffmaF32 (plain 0) { noMods with rnd := .rtz, negB := true } (.v 3) (.v 1) (.v 2) (.v 4)),
   (0x45B80AFFFFFFFE00, .dbnz (plain 0) (.v 10) 0xFFFFFFFE),
   (0x47B906040001800D, .lxchMirB32 (plain 1) 5 1 (.v 6) (.v 4) (.imm 1) .z),
   (0x60380900FFFF8001, .barSync (plain 0) 1 (.v 9) (.imm 0xFFFF)),
   (0x69B80C0200004020, .qpop (plain 0) (.v 12) ⟨.v 2, 0x40, false⟩),
   (0x82BB080600004088, .ldB64 (plain 3) (.v 8) ⟨.v 6, 0x40, .dev, .acq, 0⟩),
   (0x98B8050280004020, .redB32 (plain 0) .fadd (.v 5) ⟨.v 2, 0x40, .core, .weak, 0⟩),
   (0x9BB8000000000089, .fence (plain 0) .dev .acq true),
   (0xA038201000000001, .push (plain 0) 2 (.v 16) 1),
   (0xA439E4E614184040, .mmaBx8 (plain 1) (.s 4) (.s 6) (.v 20) (.v 24) 128 true false),
   (0xC8B8140408000001, .trix (plain 0) 1 (.v 20) (.v 4) (.v 8)),
   (0xE138000408000001, .rte (plain 0) true (.v 4) (.reg (.v 8))),
   (0xE23A0A001B000000, .sysr (plain 2) (.v 10) 0x1B)]

/-- R144: the trap of a transfer to a target: a target that is not canonical, or one from a register that is not aligned. -/
def transferTrap (a : W64) (fromReg : Bool) : Option TrapInfo :=
  if canonical a.toNat = false then some { trap := .prot, addr := a.toNat, detail := 0 }
  else if fromReg = true ∧ a.toNat % 8 ≠ 0 then some { trap := .align, addr := a.toNat }
  else none

/-- A transfer word: each active lane whose target passes R144 goes there, each other raises its trap with no effect. -/
def Transfers (i : Instr) (h : Head) (regs : List (Reg × Nat)) (fromReg : Bool) (tgt : State → Bundle → Nat → W64)
    (ok : State → Nat → Bool) (go : State → Bundle → State → Nat → State) : Prop :=
  ∀ s b x, Issuing s b x = true → Fits s x regs = true → ((activeOf s x h).all (ok s)) = true →
    let bad (u : Nat) : Option TrapInfo := transferTrap (tgt s x u) fromReg
    exec i s = .next (finishWord b x
      { s := each (go s x) s ((activeOf s x h).filter fun u => (bad u).isNone),
        traps := (activeOf s x h).filterMap fun u => (bad u).map fun i => (u, i) })

/-- R53: a word in a clause of a class that may not hold it raises CLASS in every thread of its bundle. -/
def Misplaced (i : Instr) (cls : Cls → Bool) : Prop :=
  ∀ s b x, Issuing s b x = true → cls x.clause.cls = false → exec i s = .next (trapBundle s b x { trap := .cls, cause := 0x12 })

/-- A thread stands trapped at its word, out of its bundle (R403). -/
def stopped (s : State) (t : Nat) (i : TrapInfo) : State :=
  (s.leave [t]).updThr t fun x => { x with status := .trapped i, stepping := false, pcWritten := false }

/-- The billet of an anvil instruction still holds its core (R315). -/
def atWork (s : State) (o : AnvilOp) : Prop := o.here s = true

/-- R309: an element of a region of the accumulator memory of a core. -/
def element (s : State) (core acc z m n : Nat) : Nat :=
  ofBytes (Memory.readBytes s.acc (core * Config.accBytes + 1024 * acc + (128 * m + n) * z) z)

/-- Each element of a region has its value in t, and no other byte of accumulator memory has changed, nor global memory, nor a
codebook. -/
def Computed (acc : Nat) (f : State → AnvilOp → Nat → Nat → Nat) (s : State) (o : AnvilOp) (t : State) : Prop :=
  let g := o.gang.length
  let z := o.op.z
  (∀ m n, m < 64 * g → n < 128 → element t o.core acc z m n = f s o m n % 2 ^ (8 * z)) ∧
  (∀ a, (a < o.core * Config.accBytes + 1024 * acc ∨ o.core * Config.accBytes + 1024 * acc + 64 * g * 128 * z ≤ a) →
    Memory.read t.acc a = Memory.read s.acc a) ∧
  t.mem = s.mem ∧ t.book = s.book

/-- A matrix instruction gives each element of a region its value, and changes no other byte of accumulator memory, and
neither global memory nor a codebook. -/
def Computes (acc : Nat) (f : State → AnvilOp → Nat → Nat → Nat) (s : State) (o : AnvilOp) : Prop :=
  Computed acc f s o (applyOp s o)

/-- Whose register a write of thread t goes to: an s register is its crew's. -/
def hasTarget (t u : Nat) : Target → Bool
  | .s _ => crewOf u == crewOf t
  | _ => u == t

/-- PUSH enters each lane's sixteen registers as a command in its engine's queue, in lane order, and tells of a full queue
(R320, R321). -/
def PushWord : Prop :=
  ∀ h (q : Fin 3) src (pd : Fin 8),
    Does (.push h q src pd) h (fun c => if q.val = 0 then c == .cpy else c == .vec || c == .cpy) [(src, 16)]
      (fun s _ ts => (q.val != 2 || settledAt 6 s ts) && pure_ s ts [(src, 16)] &&
        (q.val != 2 || ts.all fun u => ((s.wpOf (crewOf u)).map fun w => w.packet.getLsbD 61).getD false))
      fun s _ ts => each (pushes q.val src pd.val s) s ts

/-- Every matrix word brings its threads to the rendezvous latch with its operation and registers (R180, R303, R310). -/
def MatrixWords : Prop :=
  (∀ t (i : Head → Reg → Reg → Fin 512 → Bool → Bool → Instr),
    (t, i) ∈ [(MatT.f64, Instr.mmaF64), (.f32, .mmaF32), (.bf16, .mmaBf16), (.f16, .mmaF16), (.s8, .mmaS8), (.s4, .mmaS4)] →
    ∀ h sa sb acc zs rel, Latches (i h sa sb acc zs rel) h ([(sa, 2), (sb, 2)] ++ scaled sb rel)
      (.mma t (vIdx sa) (vIdx sb) 0 0 acc.val zs false rel)) ∧
  (∀ t (i : Head → Reg → Reg → Reg → Reg → Fin 512 → Bool → Bool → Bool → Instr),
    (t, i) ∈ [(MatT.e4m3, Instr.mmaE4m3), (.e5m2, .mmaE5m2)] →
    ∀ h sa sb vs vt acc zs sh rel, Latches (i h sa sb vs vt acc zs sh rel) h
      ([(sa, 2), (sb, 2), (vs, 2 * t.u), (vt, 4 * t.u)] ++ scaled sb rel)
      (.mma t (vIdx sa) (vIdx sb) (vIdx vs) (vIdx vt) acc.val zs sh rel)) ∧
  (∀ t (i : Head → Reg → Reg → Reg → Reg → Fin 512 → Bool → Bool → Instr),
    (t, i) ∈ [(MatT.e2m1, Instr.mmaE2m1), (.bx8, .mmaBx8), (.bx4, .mmaBx4)] →
    ∀ h sa sb vs vt acc zs rel, Latches (i h sa sb vs vt acc zs rel) h
      ([(sa, 2), (sb, 2), (vs, 2 * t.u), (vt, 4 * t.u)] ++ scaled sb rel)
      (.mma t (vIdx sa) (vIdx sb) (vIdx vs) (vIdx vt) acc.val zs false rel)) ∧
  (∀ h acc w, Latches (.mzero h acc w) h [] (.mzero acc.val w)) ∧
  (∀ (k : Fin 4) n (i : Head → Reg → Fin 512 → Fin 16 → Instr),
    (k, n, i) ∈ [((0 : Fin 4), 16, Instr.mdrainF32), (1, 32, .mdrainF64), (2, 8, .mdrainBf16), (3, 8, .mdrainF16)] →
    ∀ h d acc cg, Latches (i h d acc cg) h [(d, n)] (.mdrain k (vIdx d) acc.val cg.val)) ∧
  (∀ h sd acc w, Latches (.mload h sd acc w) h [(sd, 1)] (.mload (vIdx sd) acc.val w)) ∧
  (∀ h sd ss acc w, Latches (.mstore h sd ss acc w) h [(sd, 1), (ss, 1)] (.mstore (vIdx sd) (vIdx ss) acc.val w)) ∧
  (∀ h vs acc w, Latches (.mscl h vs acc w) h [(vs, 2)] (.mscl (vIdx vs) acc.val w)) ∧
  (∀ h vt acc w, Latches (.maddc h vt acc w) h [(vt, 4)] (.maddc (vIdx vt) acc.val w)) ∧
  (∀ h acc src w, Latches (.mcopy h acc src w) h [] (.mcopy acc.val src.val w)) ∧
  ∀ h d acc w, Latches (.mstat h d acc w) h [(d, 1)] (.mstat (vIdx d) acc.val w)

/-- The crews at the latch of a billet: those out of place or late raise GANGFAIL (R181), a whole gang raises the trap of its
instruction or issues it (R180, R327), and the anvil reads operands and completes instructions in their order (R303, R315). -/
def GangAndAnvilEvents : Prop :=
  (∀ cid w, Happens (.gangLatchRelease cid) (fun s => crewLatch s cid = some w ∧ outOfPlace s cid ≠ [])
    fun s => raise s (sorted (((outOfPlace s cid).flatMap fun c => liveTids s c.1).map (gangInfo s)))) ∧
  (∀ cid w i, Happens (.gangLatchRelease cid) (fun s => GangHere s cid w ∧ matTrap s (gangCrews s cid w) w.op = some i)
    fun s => raise s (sorted (((gangCrews s cid w).flatMap (liveTids s)).map fun t => (t, i)))) ∧
  (∀ cid w, Happens (.gangLatchRelease cid) (fun s => GangHere s cid w ∧ matTrap s (gangCrews s cid w) w.op = none ∧
    padsFree s (gangCrews s cid w) w.op = true) fun s => issuedMatrix s cid w) ∧
  (∀ cid w l, Happens (.gangfailTimeout cid) (fun s => crewLatch s cid = some w ∧ gangComplete s cid w = false ∧
    latchLimit s cid = some l ∧ gangSince s cid w + l < s.time ∧ ((gangAt s cid w).flatMap fun c => liveTids s c.1) ≠ [])
    fun s => raise s ((sortNat ((gangAt s cid w).flatMap fun c => liveTids s c.1)).map (gangInfo s))) ∧
  (∀ id o s t, (s.anvil.find? fun x => x.id == id) = some o → o.read = false → opReady s o = true →
    catchUp id s (anvilOps s o.core) = some t → exec (.anvilOperandsRead id) s = .next (match opError t o with
      | none => applyOp t o
      | some e => consumeAt t o.billet e)) ∧
  (∀ id o, Happens (.anvilInstrComplete id)
    (fun s => (s.anvil.find? fun x => x.id == id) = some o ∧ o.id = id ∧ oldest s o ∧ o.read = true)
    fun s => leavesAnvil (tileOut s id) id) ∧
  ∀ id o, Happens (.anvilInstrComplete id) (fun s => (s.anvil.find? fun x => x.id == id) = some o ∧ o.id = id ∧ oldest s o ∧
    o.read = false ∧ hasOperands o.op = false) fun s => match opError s o with
      | none => leavesAnvil (tileOut (applyOp s o) id) id
      | some e => consumeAt s o.billet e

/-- A held surface block leaves its way by an encode, a pinned one is tried again whenever its pool word changes and leaves
when the encode runs, and its pin times out after 100,000 ticks (R345, R348, R352). -/
def HeldBlockEvents : Prop :=
  (∀ c m b k, Happens (.planisherEvictEncode c m b) (fun s => heldBlock s c m b = some k ∧ k.pinned = none)
    fun s =>
      let t := (evictBlock ⟨k.ctx, k.priv, some k.home⟩ k s).2
      { t with fresh := t.fresh + 1 }) ∧
  (∀ c m b k s t, heldBlock s c m b = some k → k.pinned.isSome → encodeBlock k s = (.ok .done, t) →
    exec (.poolWordChangeRetry c m b) s =
      let u := resumePool (t.dropBlock k) c (descPool k.desc)
      .next { u with fresh := u.fresh + 1 }) ∧
  (∀ c m b k r s t, heldBlock s c m b = some k → k.pinned.isSome → encodeBlock k s = (r, t) → r ≠ .ok .done →
    exec (.poolWordChangeRetry c m b) s = .next { t with fresh := t.fresh + 1 }) ∧
  ∀ c m b k t, Happens (.surfpoolPinTimeout c m b) (fun s => heldBlock s c m b = some k ∧ k.pinned = some t ∧
    t + 100000 ≤ s.time ∧ k.timedOut = false) fun s => s.putBlock { k with timedOut := true }

/-- A thread fetches the clause at its PC and holds it, or raises what the fetch finds: a breakpoint, a trap, a class its crew
may not run, or a page that is not there, which parks it (R51, R53, R334, R393, R442). -/
def FetchEvents : Prop :=
  (∀ t c, Happens (.fetchClause t) (fun s => MayFetch s t ∧ (found s t).1 = .ok c ∧
      ((s.thr t).widx ≠ 0 ∨ breakpointAt (kept s t) t (found s t).2.1 = none))
    fun s => (kept s t).updThr t fun x =>
      if x.widx < c.words.length then { x with pc := (found s t).2.1, clause := some c, select := false }
      else { x with pc := c.next, widx := 0, clause := none, select := false, drain := false }) ∧
  (∀ t c n, Happens (.fetchClause t) (fun s => MayFetch s t ∧ (found s t).1 = .ok c ∧ (s.thr t).widx = 0 ∧
      breakpointAt (kept s t) t (found s t).2.1 = some n)
    fun s => raiseCompared ((kept s t).updThr t fun x =>
      { x.stoppedBy (found s t).2.1 n with pc := (found s t).2.1, select := false })
      [(t, { trap := .brk, detail := 0xFFFFFFF0 + n })]) ∧
  (∀ t i, Happens (.fetchClause t) (fun s => MayFetch s t ∧ (found s t).1 = .trap i)
    fun s => raiseCompared ((kept s t).updThr t fun x => { x with pc := (found s t).2.1, widx := 0 }) [(t, i)]) ∧
  (∀ t n, Happens (.fetchClause t) (fun s => MayFetch s t ∧ (found s t).1 = .pass n)
    fun s => raiseCompared (kept s t) [(t, { trap := .cls, cause := 0x10 })]) ∧
  ∀ t va, Happens (.fetchClause t) (fun s => MayFetch s t ∧ (found s t).1 = .park va)
    fun s => parkThreads (kept s t) [t] 0 3 0 (addSector [] va 8)

/-- Each cycle of a core notes which threads are ready and lets its two ports form bundles; a thread that has been ready for
256 cycles is aged, a yield's hold ends, a handler crew starts on a core that serves an unread record, and firmware that has
halted wakes (R156, R157, R160, R404, R437). -/
def SchedulingEvents : Prop :=
  (∀ core, Happens (.gatherCycle core)
    (fun s => (s.core core).retired = false ∨ ∃ e ∈ s.threads, coreOf e.1 = core)
    fun s => gatherPort core 1 (gatherPort core 0 (gathered s core))) ∧
  (∀ t, Happens (.threadAged t) (fun s => readyBut s t (s.thr t) = true ∧ (s.thr t).aged = false ∧
    (s.thr t).readyAt + 256 ≤ (s.core (coreOf t)).gather) fun s => s.updThr t fun x => { x with aged := true }) ∧
  (∀ t, Happens (.yieldHoldExpire t) (fun s => (s.thr t).yieldTil ≠ 0 ∧ (s.thr t).yieldTil ≤ (s.core (coreOf t)).gather)
    fun s => s.updThr t fun x => { x with yieldTil := 0 }) ∧
  (∀ core c, Happens (.handlerStart core c) (fun s => (s.core core).handlerCtx = none ∧ (s.ctx c).live = true ∧
      (s.ctx c).handler ≠ 0 ∧ unreadOn s c core = true)
    fun s =>
      let s' := (s.updCore core fun k => { k with handlerCtx := some c, gated := false }).setCrew (core * 32 + handlerSlot)
        { prio := 3, role := .vec, budget := 64, width := 1, number := 0, pos := 4, priv := 1 }
      s'.setThr ((core * 32 + handlerSlot) * 32) { pc := BitVec.ofNat 57 ((s.ctx c).handler.toNat % 2 ^ 57 / 8 * 8),
                                                   readyAt := (s'.core core).gather }) ∧
  Happens .firmwareWake (fun s => (s.blockedBy fun w => w == .halt) ≠ [])
    fun s => each (fun s' t => release s' t []) s (s.blockedBy fun w => w == .halt)

/-- Writes of the launch registers: LQTAIL gives packets, or puts the queue in error where more than its size stand; LQCTL sets
enable, priority and size and clears the error bit; AMPCTL sets the same of the AMP queue (R184, R185, R198). -/
def LaunchRegisterWrites : Prop :=
  (∀ f q v s, Window s f → q < 16 →
    let t := s.updQueue f q fun x => { x with tail := BitVec.ofNat 32 v }
    let x := (t.tenant f).queue q
    exec (.lqtailWrite f q v) s = .next (if 2 ^ x.log2 < (x.tail - x.hd).toNat then queueError t f q 1 else t)) ∧
  (∀ f q (en err prio : Nat) (n : Fin 32) s, Window s f → q < 16 → en < 2 → err < 2 → prio < 8 →
    let x := (s.tenant f).queue q
    let t := (if en = 1 then s else giveBack s f q).updQueue f q fun y =>
      { y with en := decide (en = 1), err := y.err && decide (err = 0), prio := Fin.ofNat 8 prio, log2n := n }
    exec (.lqctlWrite f q (2 ^ 31 * en + 2 ^ 30 * err + 2 ^ 16 * prio + n.val)) s =
      .next (if x.en = true ∧ n ≠ x.log2n then queueError t f q 2 else t)) ∧
  ∀ f (en prio : Nat) s, Window s f → en < 2 → prio < 8 →
    exec (.ampctlWrite f (2 ^ 31 * en + 2 ^ 16 * prio)) s = .next ((if en = 1 then s else giveBack s f 16).updTenant f fun t =>
      { t with ampEn := decide (en = 1), ampPrio := Fin.ofNat 8 prio })

/-- A packet is read once when it comes to its queue's head: it is refused with the code of R188, or it is a workpiece whose
dependency is polled (R189), whose deadline may pass (R194), and whose billets are placed by the picker (R192, R195). -/
def LaunchEvents : Prop :=
  (∀ f q, Happens (.launchPacketHead f q) (fun s => HasPacket s f q ∧ (s.ctx (queueCtx s f q)).live = false)
    fun s => refusePacket s f q 0x17 0) ∧
  (∀ f q, Happens (.launchPacketHead f q)
    (fun s => HasPacket s f q ∧ (s.ctx (queueCtx s f q)).live = true ∧ packetBytes s f q = none)
    fun s => refusePacket s f q 0x16 0) ∧
  (∀ f q p k, Happens (.launchPacketHead f q) (fun s => HasPacket s f q ∧ (s.ctx (queueCtx s f q)).live = true ∧
    packetBytes s f q = some p ∧ checkPacket s (queueCtx s f q) p = .error k) fun s => refusePacket s f q k (pktDeadline p)) ∧
  (∀ f q p t w, Happens (.launchPacketHead f q) (fun s => HasPacket s f q ∧ (s.ctx (queueCtx s f q)).live = true ∧
    packetBytes s f q = some p ∧ checkPacket s (queueCtx s f q) p = .ok (t, w))
    fun s => accepted s f q p (newPiece s f q p t w)) ∧
  (∀ f q h x v, Happens (.depPoll f q) (fun s => headPacket s f q = some h ∧ s.wps.get? h.wp = some x ∧ h.depMet = false ∧
    s.power = 0 ∧ acquired s x.ctx (pkt x.packet 256 64) 8 = true ∧ readAs s x.ctx (pkt x.packet 256 64) 8 = some v)
    fun s => setHead s f q (some { h with depMet := decide (pkt x.packet 320 32 ≤ v), polled := s.time })) ∧
  (∀ f q h x, Happens (.depPoll f q) (fun s => headPacket s f q = some h ∧ s.wps.get? h.wp = some x ∧ h.depMet = false ∧
    s.power = 0 ∧ acquired s x.ctx (pkt x.packet 256 64) 8 = true ∧ readAs s x.ctx (pkt x.packet 256 64) 8 = none)
    fun s => refuseHead s f q h.wp 0x18) ∧
  (∀ w x, Happens (.deadlineMiss w) (fun s => s.wps.get? w = some x ∧ missDue s x = true ∧ s.power = 0) fun s => postMiss s w) ∧
  ∀ s c, (candidates s).head? = some c → s.power = 0 →
    let t := each pickOne s (candidates s)
    let here (e : Cand) : Bool := e.wp == c.wp && e.saved == c.saved
    ((candidates t).any here = false → exec .pick s = .next t) ∧
    ∀ e x n, (candidates t).find? here = some e → t.wps.get? c.wp = some x → e.need t x = some n →
      exec .pick s = .next (if x.begun = true then markVictims t n (pktDeadline x.packet) (t.ctx x.ctx).pmargin.toNat else t)

/-- A set at rest that must leave its cores is saved to a free slot of its context; without one the context ends where the set
cannot wait (R408, R420, R474).  A saved set is restored to cores that fit it (R410). -/
def SaveAndRestore : Prop :=
  (∀ w n x slot, Happens (.setSave w n) (fun s => s.wps.get? w = some x ∧ SetAtRest s w n ∧
    freeSlot s x.ctx (setSize s w n) (some (w, n)) = some slot) fun s => saveSet s w n slot x) ∧
  (∀ w n x, Happens (.setSave w n) (fun s => s.wps.get? w = some x ∧ SetAtRest s w n ∧
    freeSlot s x.ctx (setSize s w n) (some (w, n)) = none ∧ s.power ≠ 0) fun s => terminateCtx s x.ctx 0) ∧
  (∀ w n x, Happens (.setSave w n) (fun s => s.wps.get? w = some x ∧ SetAtRest s w n ∧
    freeSlot s x.ctx (setSize s w n) (some (w, n)) = none ∧ s.power = 0 ∧
    ∃ e ∈ setBillets s w n, (s.core (e.1 / 4)).retired = true ∨ e.2.avoid = some (e.1 / 4))
    fun s => terminateCtx s x.ctx 0x14) ∧
  ∀ w n v x cores, Happens (.setRestore w n) (fun s => (s.saved.find? fun v => v.wp == w && v.set == n) = some v ∧
    s.wps.get? w = some x ∧ s.power = 0 ∧ restoreCores s v x = some cores ∧
    betterFits s (candRank s w n x) = false) fun s => restoreSet s v x cores

/-- A home serves loads, prefetches, stores and atomics: each performs, or others are asked first (R238 to R241, R245, R282). -/
def HomeRequests : Prop :=
  (∀ id p a dst s, s.pend? id = some p → p.op = .load a dst → a.space ≠ .scratch →
    Served (.homeReadRequest id) s (serveRead s p a) (performAt id)) ∧
  (∀ id p line pr c s, s.pend? id = some p → p.op = .pref line pr c → p.done = false →
    (pr = 2 → exec (.homeReadRequest id) s = .next (s.finish id []).sweep) ∧
    (pr ≠ 2 → Served (.homeReadRequest id) s
      (serveRead s p { space := .global, pa := 128 * line, size := 128, va := 0, ord := .weak, scope := .core, rem := false,
                       proto := pr, ctx := c, word := 0 }) fun t => (t.finish id []).sweep)) ∧
  (∀ id p a d m s, s.pend? id = some p → p.op = .store a d m → a.space ≠ .scratch →
    Served (.homeWriteRequest id) s (serveWrite s p a) (performAt id)) ∧
  (∀ id p a x y z s, s.pend? id = some p → p.op = .rmw a x y z → a.space ≠ .scratch →
    Served (.crucibleAtomic id) s (serveAtomic s p a) (performAt id)) ∧
  (∀ id p a x y z s, s.pend? id = some p → p.op = .cas a x y z → a.space ≠ .scratch →
    Served (.crucibleAtomic id) s (serveAtomic s p a) (performAt id)) ∧
  ∀ line, Happens (.selfWritePerform line) (fun s => (s.home line).writers ≠ [] ∧ leaseEnd s line ≤ s.time ∧
      (s.home line).lock = none ∧ ownedLine s .global line = false)
    fun s => each (fun s' id => performAt id s') (s.updHome line fun h => { h with writers := [] }) (s.home line).writers

/-- A probed agent loses or writes back its copy and answers; one that evicts its copy tells the home; a silent one is asked
again after 40 ticks, 400 when its core is gated, and then has failed (R238, R239, R246). -/
def ProbeEvents : Prop :=
  (∀ line ag p, Happens (.coreProbe line ag) (fun s => probeAt s line ag false = some p) fun s =>
    let t := s.updCore (leaseCore ag line) fun c => { c with gated := false }
    let t := if p.inval then loseLine t line (agentCores ag) else rollWatched t line (fun _ => true) (agentCores ag)
    onProbe t line ag fun q => { q with answered := true }) ∧
  (∀ line ag p, Happens (.probeAck line ag) (fun s => probeAt s line ag true = some p)
    fun s => probeDone s line ag p.inval) ∧
  (∀ line ag, Happens (.homeEvictNotice line ag)
    (fun s => (∃ l, (s.home line).dir = .s l ∧ ag ∈ l) ∨ (s.home line).dir = .m ag ∨
      ∃ l m, (s.home line).dir = .p l ∧ (ag, m) ∈ l)
    fun s => (probeDone (fireMonitors s line fun t => agentCores ag (coreOf t)) line ag true).updHome line fun h =>
      match h.dir with
      | .s [] => { h with dir := .i, count := 0 }
      | _ => h) ∧
  (∀ line ag p, Happens (.probeTimeout line ag) (fun s => probeAt s line ag false = some p ∧
    p.since + (if (s.core (leaseCore ag line)).gated then 400 else 40) ≤ s.time ∧ p.again = false)
    fun s => onProbe s line ag fun q => { q with again := true, since := s.time }) ∧
  ∀ line ag p, Happens (.probeTimeout line ag) (fun s => probeAt s line ag false = some p ∧
    p.since + (if (s.core (leaseCore ag line)).gated then 400 else 40) ≤ s.time ∧ p.again = true)
    fun s => { probeDone (homeCopy s line ag) line ag true with errors := s.errors ++ [(8, ag)] }

/-- Leases: a copy whose lease has run out is dropped, a slice or a core moves its base 61,438 ticks on and the lease ends with
it, and a core whose time is off by 100 ticks drops its copies (R240, R242, R243). -/
def LeaseEvents : Prop :=
  (∀ ag line, Happens (.selfCopyExpire ag line)
    (fun s => (s.copies.get? (copyKey ag line)).isSome ∧ validCopy s ag line = none) fun s => dropCopy s ag line) ∧
  (∀ m, Happens (.sliceRebase m) (fun s => sliceB s m + 61438 ≤ s.time) fun s =>
    let ends (h : HomeLine) : BitVec 16 := if sliceB s m + h.lmax.toNat ≤ s.time then 0
      else BitVec.ofNat 16 (sliceB s m + h.lmax.toNat + 1 - s.time)
    { s with sliceBase := s.sliceBase.set m (s.time - 1),
             homes := s.homes.map fun e =>
               if homeOf s (128 * e.1) = m ∧ e.2.lmax ≠ 0 then (e.1, { e.2 with lmax := ends e.2 }) else e }) ∧
  (∀ core (now : Nat), Happens (.coreLeaseRebase core)
    (fun s => coreTime s core = (now : Int) ∧ (s.core core).leaseBase + 61438 ≤ now) fun s =>
    let b := (s.core core).leaseBase
    let t := each (fun t k => dropCopy t k.1 k.2) s ((copiesOf s core).filter fun k => (validCopy s k.1 k.2).isNone)
    let mine (k : Nat) : Bool := leaseCore (k / 2 ^ 45) (k % 2 ^ 45) == core
    let move (e : Nat × SelfCopy) : Nat × SelfCopy :=
      if mine e.1 then (e.1, { e.2 with til := b + e.2.til - (now - 1) }) else e
    State.updCore { t with copies := t.copies.map move } core fun c => { c with leaseBase := now - 1 }) ∧
  ∀ core fast slow, Happens (.coreTimeCheck core fast slow) (fun s => s.time % 1024 = 0) fun s =>
    let off : Bool := (s.core core).gated || decide (100 ≤ ((fast : Int) - slow).natAbs)
    let t := if off then each (fun t k => dropCopy t k.1 k.2) s (copiesOf s core) else s
    t.updCore core fun c => { c with skew := (fast : Int) - slow, resync := !off }

/-- An MCAS waits its turn at each line, locks its lines one by one and commits with the last, or gives up after 10,000 ticks
or on a stalled link and returns retry (R265, R278, R459). -/
def McasEvents : Prop :=
  (∀ id p a es lines held t0 dst l s, s.pend? id = some p → p.id = id → p.op = .mcas a es lines held t0 dst →
    mcasNext lines held = some l → AsksLock s p l → MayLock s p l (lineProto es l) →
    let r := if lineProto es l = 0 then dirRecall s l else (s, true)
    (r.2 = false → exec (.mcasLocksHeld id) s = .next (r.1.queueUp l id)) ∧
    (r.2 = true → exec (.mcasLocksHeld id) s = .next
      (let t := ((((atHome r.1 a.ctx (lineProto es l) (128 * l) true).unqueue l id).updHome l fun h =>
        { h with lock := some id }).updPend id fun q => { q with op := .mcas a es lines (held ++ [l]) t0 dst, link := 0 })
       if mcasNext lines (held ++ [l]) = none then mcasCommit t p es dst else t))) ∧
  (∀ id p a es lines held t0 dst l s, s.pend? id = some p → p.id = id → p.op = .mcas a es lines held t0 dst →
    mcasNext lines held = some l → AsksLock s p l → ¬ MayLock s p l (lineProto es l) → id ∉ (s.home l).queue →
    exec (.mcasLocksHeld id) s = .next ((noteRecall s p (.global, l)).queueUp l id)) ∧
  ∀ id p a es lines held t0 dst l s, s.pend? id = some p → p.op = .mcas a es lines held t0 dst →
    mcasNext lines held = some l → (t0 + 10000 < s.time ∨ linkStalled s l = true) →
    exec (.mcasLockTimeout id) s = .next (unlockAll (s.finish id (wr32 dst 0x200 false)) id)

/-- The command first in a ladle's queue starts with its map's checks passed, fails with the lowest code, or parks where its
map's page is not there; TCBLOAD starts without a map, TMAPLD only loads one (R284 to R286, R298, R393). -/
def LadleCommands : Prop :=
  (∀ k ev, (k, ev) ∈ ladleEvents → ∀ id c s, LadleHead s id c → c.kind = k → issueWaits s (aimed s c) = false →
    let r := fetchLines s (aimed s c) (if (hadMap s (aimed s c)).isSome then [] else mapPage s (aimed s c))
    (∀ t, r = .wait t → exec (ev id) s = .next t) ∧
    (∀ t bs, r = .yes t → readMap t (aimed s c) = .ok bs → Issues (ev id) s (cacheMap t (aimed s c) bs)
      { aimed s c with map := bs } (TMap.ofBytes bs)
      (if c.kind = 7 then loadCodes (TMap.ofBytes bs) else mapCodes (cacheMap t (aimed s c) bs) (aimed s c) (TMap.ofBytes bs))) ∧
    (∀ t n, r = .yes t → readMap t (aimed s c) = .fail n → Issues (ev id) s t (aimed s c) (TMap.ofBytes [])
      [(true, n), (c.kind != 7 && c.dst % 128 != 0, 3)]) ∧
    ∀ t, r = .yes t → readMap t (aimed s c) = .park → exec (ev id) s = .next (passCommand t 1 (aimed s c)
      ((List.range 4).map fun i => { va := c.mapAddr + 32 * i, n := 32, w := false }))) ∧
  (∀ id c, Happens (.tcopy id) (fun s => LadleHead s id c ∧ (c.kind = 0 ∨ 7 < c.kind))
    fun s => failCommand s (aimed s c) 1 1 c.mapAddr c.stageOfs) ∧
  ∀ id c s, LadleHead s id c → c.kind = 6 → issueWaits s (aimed s c) = false →
    let tag := bookTag s c.core (c.fld 192 3)
    Issues (.tcbload id) s s (aimed s c) (TMap.ofBytes [])
      [(c.mapAddr % 8 != 0, 3), (tag.isSome && tag != some c.billet, 6), (!canonical c.mapAddr, 8)]

/-- A sector of a running ladle command is moved once its lines are the command's and what it reads has come, is counted at the
command's stage, and gives back lines the rest does not need; the last one ends the command (R293, R285). -/
def LadleSector : Prop :=
  ∀ id k c t u s, (s.ladle.find? fun x => x.id == id) = some c → c.running = true → k ∈ openSectors c →
    let m := TMap.ofBytes c.map
    bookBusy s c m = false → touchProt s c (sectorTouches s c m k) = false → touchFaults s c (sectorTouches s c m k) = [] →
    (∀ l ∈ sectorSources s c m k, ownedByOther s c true l = false) →
    engineError s c ((sectorSources s c m k).filter fun l => l.1 == .scratch) = none →
    takeSectors s c m [k] = .yes t → fetchLines t c (touchPages t c false (sectorTouches s c m k)) = .yes u →
    let g := if c.kind = 4 then (sectorGroup m k).filter fun j => !c.done.contains j else [k]
    let c' : Command := { c with done := c.done ++ g, kept := c.kept ++ keepSector u c m k }
    let left := (openSectors c').flatMap (sectorLines u c' m)
    let v := (doSector u c m k).updEngine c.id fun x => { x with
      done := c'.done, kept := c'.kept,
      owned := x.owned.filter fun l => !((g.flatMap (sectorLines u c m)).filter fun l => !left.contains l).contains l }
    exec (.ladleSectorComplete id k) s =
      .next (endIfDone (accountStage (bumpPerf v c.ctx c.core 4 g.length) c c.stageOfs (32 * g.length)) c.id)

/-- FQREPLAY retries or aborts what is parked under a tag, or retries all; with both bits it does nothing; FQHEAD, NQHEAD,
EQHEAD and DMHEAD take what the host has read and let held records follow; FQCTL sets the fault queue; ACCLR clears a granule's
pending counters (R395 to R400, R428, R466). -/
def RingWrites : Prop :=
  (∀ f tag, InWindow (.fqreplayRetry f tag) f fun s => replay s f (tag % 2 ^ 32) false) ∧
  (∀ f tag all, tag < 2 ^ 32 → all < 2 → InWindow (.fqreplayAbort f (2 ^ 62 * all + tag)) f fun s =>
    if all = 1 then s else replay s f tag true) ∧
  (∀ f, InWindow (.fqreplayRetryAll f) f fun s =>
    each (fun s t => replay s f t false) s (parkedTags s f ++ (savedTags s f).map Prod.snd).dedup) ∧
  (∀ f v, InWindow (.fqheadWrite f v) f fun s =>
    (s.updTenant f fun t => { t with fq := { t.fq with hd := BitVec.ofNat 32 v } }).flushFaults f) ∧
  (∀ f (en ovf irq : Nat), en < 2 → ovf < 2 → irq < 2 →
    InWindow (.fqctlWrite f (2 ^ 31 * en + 2 ^ 30 * ovf + 2 ^ 28 * irq)) f fun s => (s.updTenant f fun t =>
      { t with fqEn := decide (en = 1), fqOvf := t.fqOvf && decide (ovf = 0), fqIrq := decide (irq = 1) }).flushFaults f) ∧
  (∀ f v, InWindow (.nqheadWrite f v) f fun s =>
    (s.updTenant f fun t => { t with nq := { t.nq with hd := BitVec.ofNat 32 v } }).flushNotify f) ∧
  (∀ f v, InWindow (.eqheadWrite f v) f fun s =>
    (s.updTenant f fun t => { t with eq := { t.eq with hd := BitVec.ofNat 32 v } }).flushEvents f) ∧
  (∀ f v, InWindow (.dmheadWrite f v) f fun s =>
    mailDone ((s.updTenant f fun t => { t with dm := { t.dm with hd := BitVec.ofNat 32 v } }).flushMailbox f) f) ∧
  ∀ f v s, Window s f → ∃ t, exec (.acclrWrite f v) s = .next t ∧ { t with counts := s.counts } = s ∧
    t.counts.map Prod.fst = s.counts.map Prod.fst ∧
    ∀ k c, s.counts.get? k = some c → t.counts.get? k =
      some (if (List.range 4).any (fun d => k == countKey (f * 4 + d) (v % 2 ^ 64 / 65536)) then { c with pend := false } else c)

/-- An uncorrectable error rolls its billet back or ends its context (R414 to R418); one that no billet consumes marks its
line; correctable ones count, and the 256th is lasting (R418). -/
def ErrorEvents : Prop :=
  (∀ k unit a b e, Happens (.ueccConsume k 1 unit a) (fun s => s.billets.get? k = some b ∧ mayConsume s k b 1 unit a = true ∧
    (s.errors.find? fun e => e.1 == 1 && e.2 / 2 ^ 32 == unit) = some e) fun s => consumeBy (s.dropError e) k 1 a) ∧
  (∀ k unit a b, Happens (.ueccConsume k 8 unit a) (fun s => s.billets.get? k = some b ∧ mayConsume s k b 8 unit a = true)
    fun s => consumeBy { s with errors := s.errors.erase (8, unit) } k 8 a) ∧
  (∀ k kind unit a b, kind ≠ 8 → Happens (.ueccConsume k kind unit a) (fun s => s.billets.get? k = some b ∧
      mayConsume s k b kind unit a = true ∧
      (kind = 1 → (s.errors.find? fun e => e.1 == 1 && e.2 / 2 ^ 32 == unit) = none))
    fun s => if b.assay = [] then struck (consumeBy s k kind a) ((s.wps.get? b.wp).map Workpiece.tenant).toList kind unit a
      else consumeBy s k kind a) ∧
  (∀ k kind unit a, 0 < kind → kind ≤ 7 → Happens (.ueccConsume k kind unit a)
    (fun s => s.billets.get? k = none ∧ (kind = 5 → unit = homeOf s a)) fun s =>
      let t := if 4 ≤ kind then s.markBad (lineOf a) kind else s
      struck t (if kind ≤ 4 then tenantsAt t (· == unit) else List.range 64) kind unit a) ∧
  ∀ kind unit a, 0 < kind → kind ≤ 7 → Happens (.correctableError kind unit a) (fun _ => True) fun s =>
    let t := noteError s (errKey (16 + kind) unit a)
    if errCount t (errKey (16 + kind) unit a) < 256 then t else lastingCorrectable t kind unit a

/-- A billet's checkpoint lets its threads leave BBAR and stands for a later rollback; an assay pair that agrees goes on, one
that does not, or comes too late, mismatches; a cluster's scheduler is rebuilt; a barrier with a parity error breaks
(R411, R416, R417, R419). -/
def RecoveryEvents : Prop :=
  (∀ k b g, Happens (.checkpoint k) (fun s => AtCheckpoint s k b g) fun s =>
    takeCheckpoint (each (fun s w => release s w.1 (wr32 w.2.1 w.2.2 false)) s (bbarDone s g.1 g.2)) k) ∧
  (∀ t u x, Happens (.assayCompare t) (fun s => Pair s t u ∧ pairSide s t = some (some x) ∧ pairSide s u = some (some x) ∧
      x.2.1 = none)
    fun s => each (fun s v => s.updThr v fun y =>
      { y with status := .ready, cmpOk := true, readyAt := (s.core (coreOf t)).gather, aged := false }) (passPoint s t) [t, u]) ∧
  (∀ t u x i d tr since, Happens (.assayCompare t) (fun s => Pair s t u ∧ pairSide s t = some (some x) ∧
      pairSide s u = some (some x) ∧ x.2.1 = some i ∧ (s.thr t).status = .assay d tr since ∧
      ∀ m ∈ trapMates s t since, pairSide s m.1 = pairSide s m.2.1)
    fun s => trapPairs s (trapMates s t since)) ∧
  (∀ t u x y, x ≠ y → Happens (.assayCompare t)
    (fun s => Pair s t u ∧ pairSide s t = some (some x) ∧ pairSide s u = some (some y))
    fun s => mismatch s (s.billetKey (crewOf t)) (comparePoint s t)) ∧
  (∀ t u x, Happens (.assayCompare t) (fun s => Pair s t u ∧ pairSide s t = some (some x) ∧ pairSide s u = some none)
    fun s => mismatch s (s.billetKey (crewOf t)) (comparePoint s t)) ∧
  (∀ t u x, Happens (.assayCompare t) (fun s => Pair s t u ∧ pairSide s t = some none ∧ pairSide s u = some (some x))
    fun s => mismatch s (s.billetKey (crewOf t)) (comparePoint s u)) ∧
  (∀ t u d tr since c, Happens (.assayTimeout t) (fun s => Pair s t u ∧ (s.thr t).status = .assay d tr since ∧
      (s.thr t).clause = some c ∧ c.cls = .mtx ∧ pairSide s u = none ∧
      since + ((groupOfBillet s (s.billetKey (crewOf t))).map fun g => g.2.timeout).getD 1000000 ≤ s.time)
    fun s => mismatch s (s.billetKey (crewOf t)) (comparePoint s t)) ∧
  (∀ cl, cl < 64 → Happens (.schedulerRebuild cl) (fun s => ∀ b ∈ s.bundles, b.1 / 8 ≠ cl) fun s => rebuilt s cl) ∧
  ∀ g, Happens (.barrierParityError g) (fun s => (s.group? g).isSome) fun s => breakGroup s g

/-- A request to a drawer goes out when its port has a slot, waits while the port retrains, and is an error without a port;
its answer comes back; the drawer recalls lines the part holds (R451, R454 to R456, R459, R460). -/
def DrawerTraffic : Prop :=
  (∀ id p pa f q, Happens (.drawerRequest id) (fun s => Outbound s id p pa f ∧ portFor s pa = some q ∧ p.link ≠ 1 ∧
    (s.port q).state ≠ 3 ∧ hasSlot s q 0 f 0 = true) fun s => s.updPend id fun y => { y with link := 1 }) ∧
  (∀ id p pa f q, Happens (.drawerRequest id) (fun s => Outbound s id p pa f ∧ portFor s pa = some q ∧ p.link = 0 ∧
    (s.port q).state = 3) fun s => (s.updPend id fun y => { y with link := 3 + s.time }).updPort q fun y =>
      { y with waiting := (y.waiting ++ [(p.op.acc?.map Acc.ctx).getD (f * 16)]).dedup }) ∧
  (∀ id p pa f, Happens (.drawerRequest id) (fun s => Outbound s id p pa f ∧ portFor s pa = none ∧
    (p.link < 3 ∨ p.link - 3 + 5000 ≤ s.time)) fun s => linkError s p pa) ∧
  (∀ id p pa f q, Happens (.drawerResponse id) (fun s => s.pend? id = some p ∧ requestOf p = some (pa, f) ∧
    portFor s pa = some q ∧ p.link = 1 ∧ (s.port q).state = 2 ∧ hasSlot s q 1 f 1 = true)
    fun s => gainHold (s.updPend id fun y => { y with link := 2 }) p.op.ask (askedOf p).1 (askedOf p).2.1 (askedOf p).2.2
      (lineOf pa)) ∧
  (∀ line inval, Happens (.drawerProbe line inval) (fun s => MayProbe s line) fun s => recalled s line inval) ∧
  ∀ id p a es lines held t0 dst l s, s.pend? id = some p → p.op = .mcas a es lines held t0 dst → mcasNext lines held = some l →
    isDrawerPa (128 * l) = true → p.link ≠ 2 → p.done = false → ready s p = true →
    (linkStalled s l = true → exec (.drawerMcasMessage id) s = .next (unlockAll (s.finish id (wr32 dst 0x200 false)) id)) ∧
    ∀ q, linkStalled s l = false → portFor s (128 * l) = some q → hasSlot s q 0 (a.ctx / 16) 2 = true →
      hasSlot s q 1 (a.ctx / 16) 2 = true → exec (.drawerMcasMessage id) s = .next (s.updPend id fun y => { y with link := 2 })

/-- The writes that narrow releases stand for become visible where an acquire asks (R261, R461). -/
def Promotion : Prop :=
  Happens (.promotionRequest 0) (fun s => drawerOwed s = []) (fun s => s) ∧
  (∀ id p a, id ≠ 0 → Happens (.promotionRequest id) (fun s => s.pend? id = some p ∧ p.op.acc? = some a ∧
    promotionOwed s p ≠ [] ∧ (isDrawerPa a.pa = false ∨ a.scope ≠ .dom)) fun s => revealAll s (promotionOwed s p)) ∧
  (∀ id p a q, id ≠ 0 → Happens (.promotionRequest id) (fun s => s.pend? id = some p ∧ p.op.acc? = some a ∧
    promotionOwed s p ≠ [] ∧ isDrawerPa a.pa = true ∧ a.scope = .dom ∧ portFor s a.pa = some q ∧ (s.port q).state ≠ 3)
    fun s => revealAll s (promotionOwed s p)) ∧
  ∀ id p a, id ≠ 0 → Happens (.promotionRequest id) (fun s => s.pend? id = some p ∧ p.op.acc? = some a ∧
    promotionOwed s p ≠ [] ∧ isDrawerPa a.pa = true ∧ a.scope = .dom ∧ portFor s a.pa = none)
    fun s => forgetNarrow s p

/-- A port counts failed flits and retrains past its threshold, trains, swaps its slot tables at once, and when retraining ends
is up or retired and tells each context that waited with LINKSTALL (R453, R455, R457 to R459). -/
def PortEvents : Prop :=
  (∀ p, p < 16 → Happens (.flitCheckFail p) (fun s => (s.port p).state = 2) fun s =>
    let n := min 65535 ((s.port p).failed (flitWindow s) + 1)
    let t := s.updPort p fun x => { x with uflits := n, window := flitWindow s }
    if max 1 (s.port p).thresh < n then startRetrain t p else t) ∧
  (∀ p ok, p < 16 → Happens (.portRetrainEnd p ok)
    (fun s => (s.port p).state = 3 ∧ (ok = true → s.time ≤ (s.port p).since + 4000)) fun s =>
      resend s (s.updPort p fun x =>
        { x with state := if ok then 2 else 4, uflits := 0,
                 stall := if x.waiting.isEmpty then none else some (s.time - x.since, !ok) }) p (!ok)) ∧
  (∀ p len dead, Happens (.linkStallEnd p) (fun s => (s.port p).stall = some (len, dead)) fun s =>
    let i : TrapInfo := { trap := .linkstall, detail := p % 16 + (if dead then 16 else 0) + 65536 * min 65535 len }
    (each (fun s c => asyncTrap s c i 0) s (s.port p).waiting).updPort p fun y => { y with waiting := [], stall := none }) ∧
  (∀ p, p < 16 → Happens (.portctlSwap p) (fun _ => True) fun s => askSwap s p) ∧
  (∀ p, p < 16 → Happens (.portctlRetrain p) (fun s => (s.port p).state = 2) fun s => startRetrain s p) ∧
  (∀ p, p < 16 → Happens (.portTrainingComplete p) (fun s => (s.port p).state = 1)
    fun s => s.updPort p fun x => { x with state := 2, uflits := 0 }) ∧
  ∀ p, p < 16 → ∀ s, (s.port p).swap = true → ∃ t, exec (.slotTableSwapApply p) s = .next t ∧
    (∀ k v, 64 * p ≤ k → k < 64 * p + 64 → (s.slotShadow.filter fun e => e.1 == k) = [(k, v)] → t.slotTab.get? k = some v) ∧
    (∀ k, (k < 64 * p ∨ 64 * p + 64 ≤ k) → t.slotTab.get? k = s.slotTab.get? k) ∧ (t.port p).swap = false

/-- Domain time moves by at most a tick each 1,024 towards the reference; a drawer that leaves takes its lines with it, and the
next lowest number is the reference where that one left (R222, R449). -/
def DomainTimeAndMembers : Prop :=
  (∀ fast slow, Happens (.domainTimeSlew fast slow) (fun s => s.time % 1024 = 0 ∧ s.slewAt ≠ some s.time ∧ s.refDrawer.isSome)
    fun s => { s with slewAt := some s.time, time := if fast < slow then s.time + 1 else s.time,
                      hold := if slow < fast then s.hold + 1 else s.hold }) ∧
  (∀ n, Happens .referenceChange (fun s => s.refDrawer = some n)
    fun s => { drawerGone s n with refDrawer := (drawersOf (drawerGone s n)).head? }) ∧
  (∀ n, n < 16 → Happens (.drawerLeavesDomain n 0) (fun s => s.refDrawer ≠ some n ∧ (s.drwSize.get? n).getD 0 ≠ 0)
    fun s => drawerGone s n) ∧
  ∀ n size, n < 16 → 0 < size → size ≤ 2 ^ 44 → Happens (.drawerLeavesDomain n size)
    (fun s => s.refDrawer ≠ some n ∧ (s.drwSize.get? n).getD 0 = 0)
    fun s =>
      let t : State := { s with drwSize := s.drwSize.set n (BitVec.ofNat 64 size) }
      { t with refDrawer := (drawersOf t).head? }

/-- The host's other registers: CTXBIND keeps the nibbles of queues that are on and puts them in error, CTXCMD makes and ends
contexts, TLBINV begins an invalidation that later ends, DBGDATA answers, and a vector that is unmasked sends what it owed
(R430, R439, R440, R463 to R469). -/
def HostRegisterEvents : Prop :=
  (∀ f v, InWindow (.ctxbindWrite f v) f fun s =>
    each (fun s q => queueError s f q 2) (s.updTenant f fun t => { t with bind := BitVec.ofNat 64 (boundNibbles s f v) })
      ((List.range 16).filter (nibbleClash s f v))) ∧
  (∀ f k, k < 16 → InWindow (.ctxcmdCreate f k) f fun s =>
    if (s.ctx (f * 16 + k)).live = true ∨ (s.ctx (f * 16 + k)).busy = true then s
    else { s with ctxs := s.ctxs.set (f * 16 + k) { live := true } }) ∧
  (∀ f k, k < 16 → InWindow (.ctxcmdDestroy f k) f fun s =>
    if (s.ctx (f * 16 + k)).live = true then destroyCtx s (f * 16 + k) else s) ∧
  (∀ c v, Happens (.tlbinvWrite c v) (fun s => (s.ctx c).live = true)
    fun s => (writeCtxReg s c 0x0D 0 true (BitVec.ofNat 64 v)).updCtx c fun x => { x with busy := true }) ∧
  (∀ c id va rest, Happens (.tlbinvComplete c) (fun s => (s.ctx c).inval = (id, va) :: rest) fun s =>
    let t := s.updCtx c fun x =>
      { x with inval := rest, busy := x.busy && rest.any (fun y => y.1 == 0),
               tlb := match va with
                 | none => []
                 | some va => x.tlb.filter fun e =>
                   !(e.vpn == va / e.size || (e.size == 4096 && pteBig e.pte.toNat && e.vpn / 16 == va / 65536)) }
    if id = 0 then t else t.finish id []) ∧
  (∀ c v, Happens (.dbgdataWrite c v) (fun s => (s.ctx c).live = true ∧ dbgBusy s c = false) fun s => dbgWrite s c (BitVec.ofNat 32 v)) ∧
  (∀ f vec, vec < 32 → InWindow (.msixVectorUnmask f vec) f fun s =>
    let bit := BitVec.ofNat 32 (2 ^ vec)
    let t := s.updTenant f fun t => { t with msixMask := t.msixMask &&& ~~~bit, msixPend := t.msixPend &&& ~~~bit }
    if (s.tenant f).msixPend.getLsbD vec = true then t.msix f vec else t) ∧
  ∀ f off v, ownRow off = false → InWindow (.registerWrite f off v) f fun s =>
    let x := BitVec.ofNat 64 v
    if off < 0x200 ∧ off % 0x20 = 0 then
      let t := s.updQueue f (off / 0x20) fun y => { y with base := x }
      if ((s.tenant f).queue (off / 0x20)).en = true ∧ ((s.tenant f).queue (off / 0x20)).base ≠ x then
        queueError t f (off / 0x20) 2 else t
    else if off = 0x400 then s.updTenant f fun t => { t with fq := { t.fq with base := x } }
    else if off = 0x480 then s.updTenant f fun t => { t with nq := { t.nq with base := x } }
    else if off = 0x490 then s.updTenant f fun t => { t with acThr := BitVec.ofNat 32 (v % 2 ^ 20) }
    else if off = 0x500 then s.updTenant f fun t => { t with eq := { t.eq with base := x } }
    else if off = 0x580 then s.updTenant f fun t => { t with dm := { t.dm with base := x } }
    else if 0x1000 ≤ off ∧ off < 0x3000 then writeSlotReg s (f * 16 + (off - 0x1000) / 0x200) ((off - 0x1000) % 0x200) x
    else if 0x10000 ≤ off ∧ off < 0x10020 then s.updTenant f fun t =>
      { t with msixMask := if v % 2 = 1 then t.msixMask ||| BitVec.ofNat 32 (2 ^ (off - 0x10000)) else t.msixMask }
    else s

/-- A function-level reset ends a tenant's contexts and gives its registers their reset values, but for the counters from
which its identifiers and tags come; its interrupts and counts are gone (R470). -/
def FunctionReset : Prop :=
  ∀ f, f < 64 → ∀ s, ∃ t n m, exec (.functionLevelReset f) s = .next t ∧ t.tenant f = { nextIdent := n, nextTag := m } ∧
    (∀ w x, t.wps.get? w = some x → x.tenant = f → x.live = false) ∧
    (∀ i ∈ t.irqs, i.1 ≠ f) ∧ ∀ e ∈ t.counts, e.1 / 2 ^ 42 ≠ f

/-- Bring-up runs its steps in order, or fails at one with the part in recovery; D3hot saves what is resident and powers down;
D0 runs steps 3 to 7 again; the clock throttles; a shutdown ends every context; an attestation is answered (R471 to R474). -/
def PowerEvents : Prop :=
  (∀ x, Happens (.powerGoodBringup x) (fun s => s.ready = false ∧ s.recovery = false ∧ failing 1 x = none)
    fun s => { takeTime (trained (measured s x) x) x false with ready := true, status := 0 }) ∧
  (∀ x n, Happens (.powerGoodBringup x) (fun s => s.ready = false ∧ s.recovery = false ∧ failing 1 x = some n) fun s =>
    failAt (if 5 < n then trained (measured s x) x else if 4 < n then retireAll (measured s x) x.bad
      else if 2 < n then measured s x else s) n) ∧
  Happens .d3hotEntry (fun s => s.ready = true ∧ s.recovery = false ∧ s.power = 0)
    (fun s => { s with power := 1, billets := s.billets.map fun e => (e.1, { e.2 with victim := true }) }) ∧
  Happens .d3hotEntry (fun s => s.ready = true ∧ s.recovery = false ∧ s.power = 1 ∧ drained s = true) powerDown ∧
  (∀ x, Happens (.d0Return x) (fun s => s.power = 2 ∧ failing 3 x = none) fun s =>
    let t : State := { takeTime (trained s x) x true with ready := true, status := 0, power := 0 }
    each postMiss t ((t.wps.filter fun e => missDue t e.2).map Prod.fst)) ∧
  (∀ x n, Happens (.d0Return x) (fun s => s.power = 2 ∧ failing 3 x = some n) fun s =>
    failAt (if 5 < n then trained s x else if 4 < n then retireAll s x.bad else s) n) ∧
  Happens .thermalThrottle (fun s => s.clockStep < 14) (fun s => { s with clockStep := s.clockStep + 1 }) ∧
  Happens .thermalShutdown (fun s => s.recovery = false)
    (fun s => { (terminateAll s).postAll (recoveryRecord (terminateAll s) 4 0 0 0 0 0) with recovery := true }) ∧
  ∀ nonce, Happens (.attestationRequest nonce) (fun s => s.measurement ≠ [])
    fun s => { s with attest := s.attest ++ [attested s nonce], fresh := s.fresh + 1 }

/-! Words bit by bit and byte by byte. -/

/-- The word whose bit i is f i. -/
def ofBits (f : Nat → Bool) : W32 := BitVec.ofNat 32 (((List.range 32).map fun i => (f i).toNat * 2 ^ i).foldl (· + ·) 0)

/-- R123: the position and the length a descriptor gives. -/
def posOf (b : W32) : Nat := (b.extractLsb' 0 8).toNat
def lenOf (b : W32) : Nat := min (b.extractLsb' 8 8).toNat 32

/-- Byte i of a word. -/
def byteAt (a : W32) (i : Nat) : BitVec 8 := a.extractLsb' (8 * i) 8

/-- R124: result byte i of BSWZ. -/
def swizzled (a b c : W32) (i : Nat) : BitVec 8 :=
  let ctl := byteAt b i
  let src := (ctl.extractLsb' 0 3).toNat
  let y := if src < 4 then byteAt a src else byteAt c (src - 4)
  let fill := (ctl.extractLsb' 3 2).toNat
  if fill = 0 then y else if fill = 1 then 0x00 else if fill = 2 then (if y.getLsbD 7 then 0xFF else 0x00) else 0xFF

/-! Floating-point results. -/

/-- R134: the quotient of two values: specials, else 128 bits below the binary point of m / m' and one more bit, set when
anything is left over, so that it lies on no rounding boundary that the quotient is not on. -/
def quotient (x y : FVal) : FVal :=
  match x, y with
  | .nan, _ => .nan
  | _, .nan => .nan
  | .inf _, .inf _ => .nan
  | .inf n, .zero n' => .inf (n != n')
  | .inf n, .fin n' _ _ => .inf (n != n')
  | .zero _, .zero _ => .nan
  | .zero n, .inf n' => .zero (n != n')
  | .zero n, .fin n' _ _ => .zero (n != n')
  | .fin n _ _, .zero n' => .inf (n != n')
  | .fin n _ _, .inf n' => .zero (n != n')
  | .fin n m e, .fin n' m' e' =>
    .fin (n != n') (2 * (m * 2 ^ 128 / m') + if m * 2 ^ 128 % m' = 0 then 0 else 1) (e - e' - 129)

/-- R134: the square root: specials, else the whole root of m * 2^128, or of m * 2^129 where the exponent is odd, and one
more bit, set when anything is left over. -/
def root (x : FVal) : FVal :=
  match x with
  | .nan => .nan
  | .zero n => .zero n
  | .inf n => if n then .nan else .inf false
  | .fin true _ _ => .nan
  | .fin false m e =>
    let k : Nat := if e % 2 = 0 then 128 else 129
    .fin false (2 * Nat.sqrt (m * 2 ^ k) + if Nat.sqrt (m * 2 ^ k) ^ 2 = m * 2 ^ k then 0 else 1) ((e - k) / 2 - 1)

/-- What R139 fixes of the functions of SFN beside its bound on the error: the special values, the root, and the results that
are exact. -/
def SfnFacts (f : FFmt) (F : SfnFn → Nat → Nat) : Prop :=
  ∀ x, (f.decode x = .nan → ∀ fn, F fn x = f.nanBits) ∧
    (∀ n, f.decode x = .zero n → F .rcp x = f.infBits n ∧ F .rsq x = f.infBits n ∧ F .sqrt x = f.signed n 0 ∧
      F .exp2 x = f.oneBits ∧ F .log2 x = f.infBits true ∧ F .sin x = f.signed n 0 ∧ F .cos x = f.oneBits ∧
      F .tanh x = f.signed n 0) ∧
    (∀ n, f.decode x = .inf n → F .rcp x = f.signed n 0 ∧ F .rsq x = (if n then f.nanBits else 0) ∧
      F .sqrt x = (if n then f.nanBits else f.infBits false) ∧ F .exp2 x = (if n then 0 else f.infBits false) ∧
      F .log2 x = (if n then f.nanBits else f.infBits false) ∧ F .sin x = f.nanBits ∧ F .cos x = f.nanBits ∧
      F .tanh x = f.signed n f.oneBits) ∧
    (∀ m e, f.decode x = .fin true m e → F .rsq x = f.nanBits ∧ F .sqrt x = f.nanBits ∧ F .log2 x = f.nanBits) ∧
    (∀ m e, f.decode x = .fin false m e → F .sqrt x = f.round .rne false (root (.fin false m e))) ∧
    (∀ n (k : Nat) e, f.decode x = .fin n (2 ^ k) e → F .rcp x = f.round .rne false (.fin n 1 (-((k : Int) + e)))) ∧
    (∀ (k : Nat) e, f.decode x = .fin false (2 ^ k) e → F .log2 x = f.round .rne false (FVal.ofScaled false ((k : Int) + e) 0)) ∧
    ∀ n m (e : Nat) (k : Int), f.decode x = .fin n m (-(e : Int)) → 1 - (f.bias : Int) - f.fw ≤ k → k ≤ f.bias →
      (if n then -(m : Int) else (m : Int)) = k * 2 ^ e → F .exp2 x = f.round .rne false (.fin false 1 k)

/-- The result of SFN: its function on the operand as it is read, flushed and clamped as the word says (R87, R90). -/
def sfnResult (f : FFmt) (F : SfnFn → Nat → Nat) (fn : SfnFn) (ab ng sat ftz : Bool) (x : Nat) : Nat :=
  let r := F fn (f.operand ftz ab ng x)
  let r := if ftz && f.isSubnormal r then f.signed (f.signBit r) 0 else r
  if sat then f.sat01 r else r

/-- A finite value as a number, and the order of values that are no NaN; the zeros are equal (R136). -/
def worth : FVal → Rat
  | .fin n m e =>
    let x : Rat := if 0 ≤ e then m * 2 ^ e.toNat else m / 2 ^ (-e).toNat
    if n then -x else x
  | _ => 0
def below (x y : FVal) : Bool :=
  match x, y with
  | .inf a, .inf b => a && !b
  | .inf a, _ => a
  | _, .inf b => !b
  | _, _ => decide (worth x < worth y)

/-- R135: MinNum and MaxNum on bit patterns. -/
def lesser (f : FFmt) (x y : Nat) : Nat :=
  let a := f.decode x
  let b := f.decode y
  if a.isNan && b.isNan then f.nanBits else if a.isNan then y else if b.isNan then x
  else if a.isZero && b.isZero then f.signed (a.neg || b.neg) 0
  else if below b a then y else x
def greater (f : FFmt) (x y : Nat) : Nat :=
  let a := f.decode x
  let b := f.decode y
  if a.isNan && b.isNan then f.nanBits else if a.isNan then y else if b.isNan then x
  else if a.isZero && b.isZero then f.signed (a.neg && b.neg) 0
  else if below a b then y else x

/-- R136: the truth of a comparison. -/
def truth (c : FCmp) (x y : FVal) : Bool :=
  let un := x.isNan || y.isNan
  match c with
  | .eq => !un && !below x y && !below y x
  | .ne => un || below x y || below y x
  | .lt => !un && below x y
  | .le => !un && !below y x
  | .gt => !un && below y x
  | .ge => !un && !below x y
  | .num => !un
  | .nan => un
def truths (f : FFmt) (c : FCmp) (ftz : Bool) (x y : Nat) : Bool :=
  truth c (f.decode (f.operand ftz false false x)) (f.decode (f.operand ftz false false y))

/-- R137: the bit of the class of a bit pattern. -/
def classBit (f : FFmt) (x : Nat) : Nat :=
  if f.expField x = f.emax then (if f.frac x = 0 then (if f.signBit x then 0 else 7) else 8)
  else if f.expField x = 0 then
    (if f.frac x = 0 then (if f.signBit x then 3 else 4) else if f.signBit x then 2 else 5)
  else if f.signBit x then 1 else 6

/-- R85, on the whole numbers. -/
def toWhole (rnd : Rnd) (q : Rat) : Int :=
  match rnd with
  | .rtz => if q < 0 then -(-q).floor else q.floor
  | .rup => -(-q).floor
  | .rdn => q.floor
  | .rne =>
    let n := q.floor
    if q - n < 1 / 2 then n else if 1 / 2 < q - n then n + 1 else if n % 2 = 0 then n else n + 1

/-- R138: FRND of a pattern already read: what has no fraction bits unchanged, else its whole number, with the sign it had where
that is zero. -/
def wholeFloat (f : FFmt) (rnd : Rnd) (x : Nat) : Nat :=
  match f.decode x with
  | .nan => f.nanBits
  | .inf _ => x
  | .zero _ => x
  | .fin n m e => if 0 ≤ e then x else f.round .rne false (FVal.ofScaled n (toWhole rnd (worth (.fin n m e))) 0)
def rounded (f : FFmt) (m : FMods) (x : Nat) : Nat :=
  let r := wholeFloat f m.rnd (f.operand m.ftz m.absA m.negA x)
  if m.sat then f.sat01 r else r

/-- R138: FEXP. -/
def exponent (f : FFmt) (ftz : Bool) (x : Nat) : Nat :=
  match f.decode (f.operand ftz false false x) with
  | .nan => 0x7FFFFFFF
  | .inf _ => 0x7FFFFFFF
  | .zero _ => 0x80000000
  | .fin _ m e => (BitVec.ofInt 32 (Nat.log2 m + e)).toNat

/-- R92: from format to format. -/
def converts (src dst : FFmt) (m : FMods) (x : Nat) : Nat := rounds dst m (src.decode (src.operand m.ftz false false x))

/-- R93: to the integers from lo to hi. -/
def toInteger (src : FFmt) (m : FMods) (lo hi : Int) (x : Nat) : Int :=
  match src.decode (src.operand m.ftz false false x) with
  | .nan => 0
  | .inf n => if n then lo else hi
  | v => let n := toWhole m.rnd (worth v); if hi < n then hi else if n < lo then lo else n

/-- R94: from an integer. -/
def fromInteger (dst : FFmt) (m : FMods) (n : Int) : Nat :=
  rounds dst m (if n = 0 then .zero false else .fin (decide (n < 0)) n.natAbs 0)

/-! Special registers. -/

/-- R43 to R45: the value of a special register; a thread of a handler slot or of the hub has no crew of a billet (R404, log
13). -/
def special (s : State) (u : Nat) (r : SpecialReg) : W32 :=
  let bare := slotOf u = 16 ∨ coreOf u = 256
  let own (n : Nat) : W32 := if bare then 0 else BitVec.ofNat 32 n
  match r with
  | .lane => BitVec.ofNat 32 (u % 32)
  | .slot => own (slotOf u)
  | .crew => own (s.crew (crewOf u)).number
  | .billet => own (((s.billet? (crewOf u)).map Billet.index).getD 0)
  | .core => own (coreOf u % 64)
  | .cluster => own (coreOf u % 64 / 4)
  | .die => own (coreOf u / 64)
  | .module => own s.module
  | .workpiece => own (((s.wpOf (crewOf u)).map fun w => w.ident.toNat).getD 0)
  | .width => own (s.crew (crewOf u)).width
  | .gang => own (s.crew (crewOf u)).gang.toNat
  | .timelo => BitVec.ofNat 32 s.time
  | .timehi => (s.thr u).timeHi.getD (BitVec.ofNat 32 (s.time / 2 ^ 32))

/-! Rays. -/

/-- A value rounded once to FP32 under RNE, and an element of a span of registers. -/
def once (v : FVal) : FVal := FFmt.f32.decode (FFmt.f32.round .rne false v)
def elem (l : List Nat) (i : Nat) : FVal := FFmt.f32.decode (l.getD i 0)
def atMost (x y : FVal) : Bool := !x.isNan && !y.isNan && !below y x

/-- R385: the exact sum of four products, rounded once; FTZ flushes the operands too. -/
def fourProducts (m : FMods) (x y : List Nat) : Nat :=
  let v (l : List Nat) (i : Nat) : FVal := FFmt.f32.decode (FFmt.f32.operand m.ftz false false (l.getD i 0))
  FFmt.f32.round m.rnd m.ftz (FVal.sum m.rnd [FVal.mul (v x 0) (v y 0), FVal.mul (v x 1) (v y 1), FVal.mul (v x 2) (v y 2),
    FVal.mul (v x 3) (v y 3)])

/-- R365, R386: t, u, v and s, and whether the ray hits; x is o' with TMIN and y is d' with Tmax. -/
def leafTest (x y : List Nat) : List FVal × Bool :=
  let w := elem y 2
  if w.isZero || w.isNan then ([.nan, .nan, .nan, .nan], false)
  else
    let t := once (quotient (elem x 2).flip w)
    let u := once (FVal.add .rne (elem x 0) (FVal.mul t (elem y 0)))
    let v := once (FVal.add .rne (elem x 1) (FVal.mul t (elem y 1)))
    let s := once (FVal.add .rne u v)
    ([t, u, v, s], atMost (.zero false) u && atMost (.zero false) v && atMost s (.fin false 1 0) && !t.isNan && !t.isInf &&
      atMost (elem x 3) t && atMost t (elem y 3))

/-- R361: one side of child k's box on an axis: ORG plus q steps of 2^(EXP - 127), rounded outward. -/
def side (rnd : Rnd) (org : FVal) (exp q : Nat) : Nat :=
  FFmt.f32.round rnd false (FVal.add rnd org (if q = 0 then .zero false else .fin false q ((exp : Int) - 127)))

/-- R367: where a ray enters and leaves an axis' interval: none where it passes it by; no parameters where D is zero, and
neither where an infinite origin meets an infinite side, of which the specification says nothing (log 91). -/
def slab (lob hib ob : Nat) (d : FVal) : Option (Option (Nat × Nat)) :=
  let lo := FFmt.f32.decode lob
  let hi := FFmt.f32.decode hib
  let o := FFmt.f32.decode ob
  if d.isZero then (if atMost lo o && atMost o hi then some none else none)
  else
    let p := quotient (FVal.add .rne lo o.flip) d
    let q := quotient (FVal.add .rne hi o.flip) d
    if p.isNan || q.isNan then (if Config.pick lob hib ob % 2 = 1 then some none else none)
    else some (some (FFmt.f32.round .rdn false (if below q p then q else p), FFmt.f32.round .rup false (if below q p then p else q)))

/-- R387: tn of child j, and whether its box is hit, from the node's words a, its boxes b and the ray c. -/
def childTest (a b c : List Nat) (j : Nat) : Nat × Bool :=
  let miss : Nat × Bool := (0x7F800000, false)
  let word : Nat := a.getD 3 0
  let bits : Nat := ((List.range b.length).map fun i => b.getD i 0 * 2 ^ (32 * i)).foldl (· + ·) 0 / 2 ^ (72 * j)
  let lo (x : Nat) : Nat := bits / 2 ^ (12 * x) % 4096
  let hi (x : Nat) : Nat := bits / 2 ^ (36 + 12 * x) % 4096
  let exp (x : Nat) : Nat := word / 2 ^ (8 * x) % 256
  let open_ := (List.range 3).any fun x => exp x == 255 || (elem a x).isNan || (elem a x).isInf
  let low (x : Nat) : Nat := if open_ then 0xFF800000 else side .rdn (elem a x) (exp x) (lo x)
  let high (x : Nat) : Nat := if open_ then 0x7F800000 else side .rup (elem a x) (exp x) (hi x)
  let axes := (List.range 3).map fun x => slab (low x) (high x) (c.getD x 0) (elem c (4 + x))
  if (word.testBit (24 + j)) = false then miss
  else if (List.range 3).any (fun x => decide (hi x < lo x)) then miss
  else if (List.range 3).any (fun x => (elem c x).isNan || (elem c (4 + x)).isNan) then miss
  else if axes.any Option.isNone then miss
  else
    let ps := axes.filterMap fun x => x.bind id
    let near := ps.foldl (fun n p => if below (FFmt.f32.decode n) (FFmt.f32.decode p.1) then p.1 else n) 0xFF800000
    let far := ps.foldl (fun n p => if below (FFmt.f32.decode p.2) (FFmt.f32.decode n) then p.2 else n) 0x7F800000
    let tmin := elem c 3
    let tmax := elem c 7
    if atMost (FFmt.f32.decode near) (FFmt.f32.decode far) && atMost (FFmt.f32.decode near) tmax &&
        atMost tmin (FFmt.f32.decode far) && atMost tmin tmax then (greater .f32 near (c.getD 3 0), true)
    else miss

/-- A word of an opcode that no instruction has raises UNDEF, with cause 0x20, in every thread of its bundle (R67, R78). -/
def UnallocatedOpcodes : Prop :=
  ∀ op s b x, Issuing s b x = true → (∀ t ∈ x.tids, strictOpen s t = false) →
    exec (.unallocatedOpcode op) s = .next (trapBundle s b x { trap := .undef, cause := 0x20 })

end Machine

end Sys2Proof

open Sys2Proof Sys2Proof.Machine

/-- ADD, SUB, MUL, MAD and the logic words complete and write the value R117, R118 and R121 give, modulo the width or clamped. -/
def Obligations.IntegerArithmetic : Prop :=
  OpB32 (fun a b => a + b) .addB32 ∧ OpB64 (fun a b => a + b) .addB64 ∧ Tri32 (fun a b c => a + b + c) .add3B32 ∧
  OpB32 (fun a b => sat32 (a.toInt + b.toInt)) .addsS32 ∧ OpB32 (fun a b => a - b) .subB32 ∧
  OpB64 (fun a b => a - b) .subB64 ∧ OpB32 (fun a b => sat32 (a.toInt - b.toInt)) .subsS32 ∧
  OpB32 (fun a b => a * b) .mulB32 ∧ OpB64 (fun a b => a * b) .mulB64 ∧
  OpB32 (fun a b => BitVec.ofInt 32 (a.toInt * b.toInt / 2 ^ 32)) .mulhS32 ∧
  OpB32 (fun a b => BitVec.ofNat 32 (a.toNat * b.toNat / 2 ^ 32)) .mulhZ32 ∧
  Tri32 (fun a b c => a * b + c) .madB32 ∧
  Wide (fun a b c => a.signExtend 64 * b.signExtend 64 + c) .madwS32 ∧
  Wide (fun a b c => a.zeroExtend 64 * b.zeroExtend 64 + c) .madwZ32 ∧
  OpB32 (fun a b => a &&& b) .andB ∧ OpB32 (fun a b => a ||| b) .orB ∧ OpB32 (fun a b => a ^^^ b) .xorB ∧
  OpB32 (fun a b => a &&& ~~~b) .andn ∧ Un32 (fun a => ~~~a) .notB

/-- MIN, MAX, CLAMP, ABS and NEG complete and write the value R120 gives. -/
def Obligations.IntegerSelection : Prop :=
  OpB32 (fun a b => if a.sle b then a else b) .minS32 ∧ OpB32 (fun a b => if a ≤ b then a else b) .minZ32 ∧
  OpB32 (fun a b => if a.sle b then b else a) .maxS32 ∧ OpB32 (fun a b => if a ≤ b then b else a) .maxZ32 ∧
  Tri32 (fun a b c => let m := if a.sle b then b else a; if m.sle c then m else c) .clampS32 ∧
  Tri32 (fun a b c => let m := if a ≤ b then b else a; if m ≤ c then m else c) .clampZ32 ∧
  (∀ sat, Un32 (fun a => if sat = true ∧ a = 0x80000000 then 0x7FFFFFFF else if a.toInt < 0 then -a else a)
    fun h d a => .absS32 h sat d a) ∧
  (∀ sat, Un32 (fun a => if sat = true ∧ a = 0x80000000 then 0x7FFFFFFF else -a) fun h d a => .negS32 h sat d a)

/-- The shifts and rotations complete and write the value R122 gives; a count is never masked, but for ROT. -/
def Obligations.Shifts : Prop :=
  OpB32 (fun a n => if 32 ≤ n.toNat then 0 else BitVec.ofNat 32 (a.toNat * 2 ^ n.toNat)) .shlB32 ∧
  Shift64 (fun a n => if 64 ≤ n.toNat then 0 else BitVec.ofNat 64 (a.toNat * 2 ^ n.toNat)) .shlB64 ∧
  OpB32 (fun a n => if 32 ≤ n.toNat then 0 else BitVec.ofNat 32 (a.toNat / 2 ^ n.toNat)) .shrB32 ∧
  Shift64 (fun a n => if 64 ≤ n.toNat then 0 else BitVec.ofNat 64 (a.toNat / 2 ^ n.toNat)) .shrB64 ∧
  OpB32 (fun a n => if 32 ≤ n.toNat then (if a.msb then 0xFFFFFFFF else 0) else BitVec.ofInt 32 (a.toInt / 2 ^ n.toNat))
    .sarB32 ∧
  Shift64 (fun a n => if 64 ≤ n.toNat then (if a.msb then BitVec.allOnes 64 else 0) else
    BitVec.ofInt 64 (a.toInt / 2 ^ n.toNat)) .sarB64 ∧
  OpB32 (fun a n => a.rotateLeft (n.toNat % 32)) (fun h d a b => .rotB32 h false d a b) ∧
  OpB32 (fun a n => a.rotateRight (n.toNat % 32)) (fun h d a b => .rotB32 h true d a b) ∧
  Tri32 (fun a b n => if 64 ≤ n.toNat then 0 else
    BitVec.ofNat 32 ((b.toNat * 2 ^ 32 + a.toNat) * 2 ^ n.toNat % 2 ^ 64 / 2 ^ 32)) (fun h d a b c => .fsh h false d a b c) ∧
  Tri32 (fun a b n => if 64 ≤ n.toNat then 0 else BitVec.ofNat 32 ((b.toNat * 2 ^ 32 + a.toNat) / 2 ^ n.toNat))
    (fun h d a b c => .fsh h true d a b c)

/-- The bit-field and byte words complete, with the bits R123 gives the result, the bytes of R124, and the sums of R128 and
R129. -/
def Obligations.BitFieldsAndBytes : Prop :=
  OpB32 (fun a b => ofBits fun i => lenOf b != 0 && a.getLsbD (min (posOf b + min i (lenOf b - 1)) 31)) .bfxS32 ∧
  OpB32 (fun a b => ofBits fun i => decide (i < lenOf b) && a.getLsbD (posOf b + i)) .bfxZ32 ∧
  Tri32 (fun a b c => ofBits fun i => if posOf b ≤ i ∧ i < posOf b + lenOf b then a.getLsbD (i - posOf b) else c.getLsbD i)
    .bfi ∧
  (∀ h d b, Writes (.bmsk h d b) h anyCls ((d, 1) :: b.regs 1) (res32 d (b.regs 1) fun s u =>
    ofBits fun i => decide (posOf (s.b32 u b) ≤ i ∧ i < posOf (s.b32 u b) + lenOf (s.b32 u b)))) ∧
  Un32 (fun a => BitVec.ofNat 32 ((List.range 32).filter fun i => a.getLsbD i).length) .popc ∧
  Un32 (fun a => if a = 0 then 32 else BitVec.ofNat 32 (31 - Nat.log2 a.toNat)) .clz ∧
  Un32 (fun a => ofBits fun i => a.getLsbD (31 - i)) .brev ∧
  Tri32 (fun a b c => swizzled a b c 3 ++ swizzled a b c 2 ++ swizzled a b c 1 ++ swizzled a b c 0) .bswz ∧
  (∀ sat : Bool, Tri32 (fun a b c =>
    let p (i : Nat) : Int := (byteAt a i).toInt * (byteAt b i).toInt
    let t := c.toInt + (p 0 + p 1 + p 2 + p 3)
    if sat then sat32 t else BitVec.ofInt 32 t) fun h d a b c => .idot4S8 h sat d a b c) ∧
  (∀ sat : Bool, Tri32 (fun a b c =>
    let p (i : Nat) : Nat := (byteAt a i).toNat * (byteAt b i).toNat
    let t := c.toNat + (p 0 + p 1 + p 2 + p 3)
    BitVec.ofNat 32 (if sat = true ∧ 2 ^ 32 ≤ t then 2 ^ 32 - 1 else t)) fun h d a b c => .idot4Z8 h sat d a b c) ∧
  Tri32 (fun a b c =>
    let p (i : Nat) : Nat := ((byteAt a i).toNat - (byteAt b i).toNat : Int).natAbs
    BitVec.ofNat 32 (c.toNat + (p 0 + p 1 + p 2 + p 3))) .sad ∧
  (∀ h (sh : Fin 8) (zx : Bool) d a b, Writes (.lea h sh zx d a b) h anyCls ((d, 2) :: (a, 2) :: b.regs 1)
    (res64 d ((a, 2) :: b.regs 1) fun s u =>
      s.r64 u a + (if zx then (s.b32 u b).zeroExtend 64 else (s.b32 u b).signExtend 64) * BitVec.ofNat 64 (2 ^ sh.val)))

/-- ADDC, SUBC, ICMP and PLOP complete and write both their register and their predicate (R117, R126, R127). -/
def Obligations.CarryCompareAndPredicates : Prop :=
  Carry (fun a b ci => (BitVec.ofNat 32 (a.toNat + b.toNat + ci.toNat), decide (2 ^ 32 ≤ a.toNat + b.toNat + ci.toNat)))
    .addcB32 ∧
  Carry (fun a b ci => (a - b - 1 + BitVec.ofNat 32 ci.toNat, decide (b.toNat < a.toNat + ci.toNat))) .subcB32 ∧
  Cmp32 (fun c a b => compares c a.toInt b.toInt) .icmpS32 ∧
  Cmp32 (fun c a b => compares c a.toNat b.toNat) .icmpZ32 ∧
  Cmp64 (fun c a b => compares c a.toInt b.toInt) .icmpS64 ∧
  Cmp64 (fun c a b => compares c a.toNat b.toNat) .icmpZ64 ∧
  ∀ h (pd pa pb pc : Fin 8) lut, Writes (.plop h pd pa pb pc lut) h anyCls [] fun s u =>
    wrP pd.val (lut.getLsbD (4 * (s.rdPred u pa.val).toNat + 2 * (s.rdPred u pb.val).toNat + (s.rdPred u pc.val).toNat)) false

/-- DIV and REM issue, and what they will deliver is the quotient or the remainder of R119, with no trap on any operands. -/
def Obligations.Division : Prop :=
  Div32 quotS .divS32 ∧ Div32 quotZ .divZ32 ∧ Div64 quotS .divS64 ∧ Div64 quotZ .divZ64 ∧ Div32 remS .remS32 ∧
  Div32 remZ .remZ32

/-- SEL, MOV and MOVI complete: bits unchanged, and of the poison bits only that of what is copied (R125, R130, R391). -/
def Obligations.SelectAndMoves : Prop :=
  (∀ h (pc : Fin 8) (neg : Bool) d a b, Writes (.sel h pc neg d a b) h anyCls ((d, 1) :: (a, 1) :: b.regs 1) fun s u =>
    if Bool.xor (s.rdPred u pc.val) neg then wr32 d (s.r32 u a) (s.isPoisoned u [(a, 1)])
    else wr32 d (s.b32 u b) (s.isPoisoned u (b.regs 1))) ∧
  (∀ h d a, Writes (.mov h .w32 d a) h anyCls [(d, 1), (a, 1)] fun s u => wr32 d (s.r32 u a) (s.rdReg u a).2) ∧
  (∀ h d a, Writes (.mov h .w64 d a) h anyCls [(d, 2), (a, 2)] fun s u =>
    wr32 (d.plus 0) (s.r32 u (a.plus 0)) (s.rdReg u (a.plus 0)).2 ++ wr32 (d.plus 1) (s.r32 u (a.plus 1)) (s.rdReg u (a.plus 1)).2) ∧
  (∀ h d a, Writes (.mov h .w128 d a) h anyCls [(d, 4), (a, 4)] fun s u => (List.range 4).flatMap fun k =>
    wr32 (d.plus k) (s.r32 u (a.plus k)) (s.rdReg u (a.plus k)).2) ∧
  (∀ h d imm, Writes (.movi h .w32 d imm) h anyCls [(d, 1)] fun _ _ => wr32 d imm false) ∧
  (∀ h d imm, Writes (.movi h .sx64 d imm) h anyCls [(d, 2)] fun _ _ => wr64 d (imm.signExtend 64) false) ∧
  (∀ h d imm, Writes (.movi h .zx64 d imm) h anyCls [(d, 2)] fun _ _ => wr64 d (imm.zeroExtend 64) false)

/-- FADD, FMUL, FFMA, FFMAW, FDOT2, FTSUM and CREL complete with the exact result rounded once (R132, R133, R140 to R142). -/
def Obligations.FloatArithmetic : Prop :=
  FBin32 (sums .f32) .faddF32 ∧ FBin64 (sums .f64) .faddF64 ∧ FPair (sums .f16) .faddF16x2 ∧ FPair (sums .bf16) .faddBf16x2 ∧
  FBin32 (products .f32) .fmulF32 ∧ FBin64 (products .f64) .fmulF64 ∧ FPair (products .f16) .fmulF16x2 ∧
  FPair (products .bf16) .fmulBf16x2 ∧ FTri32 (fused .f32) .ffmaF32 ∧ FTri64 (fused .f64) .ffmaF64 ∧
  FPair3 (fused .f16) .ffmaF16x2 ∧ FPair3 (fused .bf16) .ffmaBf16x2 ∧
  (∀ h m d a b c, Writes (.ffmaw h m d a b c) h vecCls [(d, 2), (a, 1), (b, 1), (c, 2)]
    (res64 d [(a, 1), (b, 1), (c, 2)] fun s u => BitVec.ofNat 64 (rounds .f64 m (FVal.add m.rnd
      (FVal.mul (vA .f32 m (s.r32 u a).toNat) (vB .f32 m (s.r32 u b).toNat)) (vC .f64 m (s.r64 u c).toNat))))) ∧
  (∀ h m d a b c, Writes (.fdot2Bf16 h m d a b c) h vecCls [(d, 1), (a, 1), (b, 1), (c, 1)]
    (res32 d [(a, 1), (b, 1), (c, 1)] fun s u =>
      let x := (s.r32 u a).toNat
      let y := (s.r32 u b).toNat
      BitVec.ofNat 32 (rounds .f32 m (FVal.sum m.rnd [FVal.mul (vA .bf16 m (x % 65536)) (vB .bf16 m (y % 65536)),
        FVal.mul (vA .bf16 m (x / 65536 % 65536)) (vB .bf16 m (y / 65536 % 65536)), vC .f32 m (s.r32 u c).toNat])))) ∧
  (∀ h m d a b, Writes (.ftsumF64 h m d a b) h vecCls [(d, 4), (a, 2), (b, 2)] fun s u =>
    let r := ftsum m (s.r64 u a).toNat (s.r64 u b).toNat
    let p := s.isPoisoned u [(a, 2), (b, 2)]
    wr64 d (BitVec.ofNat 64 r.1) p ++ wr64 (d.plus 2) (BitVec.ofNat 64 r.2) p) ∧
  ∀ h sat ftz d a b, Writes (.crelF32 h sat ftz d a b) h vecCls [(d, 1), (a, 2), (b, 2)]
    (res32 d [(a, 2), (b, 2)] fun s u =>
      let r := FFmt.f32.round .rne ftz (FVal.sub .rne (FFmt.f64.decode (FFmt.f64.operand ftz false false (s.r64 u a).toNat))
        (FFmt.f64.decode (FFmt.f64.operand ftz false false (s.r64 u b).toNat)))
      BitVec.ofNat 32 (if sat then FFmt.f32.sat01 r else r))

/-- FDIV, FSQRT and SFN issue, with a result to come: the quotient or the root, rounded once (R134), or a function of the
operand's bits alone that has the special values, the roots and the exact results of R139; R139's bound on the error of other
results is not stated here. -/
def Obligations.FloatDivisionAndFunctions : Prop :=
  (∀ h m d a b, Sends (.fdivF32 h m d a b) h vecCls ((d, 1) :: (a, 1) :: b.regs 1) (res32 d ((a, 1) :: b.regs 1) fun s u =>
    BitVec.ofNat 32 (rounds .f32 m (quotient (vA .f32 m (s.r32 u a).toNat) (vB .f32 m (s.bF32 u b).toNat))))) ∧
  (∀ h m d a b, Sends (.fdivF64 h m d a b) h vecCls ((d, 2) :: (a, 2) :: b.regs 2) (res64 d ((a, 2) :: b.regs 2) fun s u =>
    BitVec.ofNat 64 (rounds .f64 m (quotient (vA .f64 m (s.r64 u a).toNat) (vB .f64 m (s.bF64 u b).toNat))))) ∧
  (∀ h m d a, Sends (.fsqrtF32 h m d a) h vecCls [(d, 1), (a, 1)] (res32 d [(a, 1)] fun s u =>
    BitVec.ofNat 32 (rounds .f32 m (root (vA .f32 m (s.r32 u a).toNat))))) ∧
  (∀ h m d a, Sends (.fsqrtF64 h m d a) h vecCls [(d, 2), (a, 2)] (res64 d [(a, 2)] fun s u =>
    BitVec.ofNat 64 (rounds .f64 m (root (vA .f64 m (s.r64 u a).toNat))))) ∧
  (∃ F, SfnFacts .f32 F ∧ ∀ h fn ab ng sat ftz d a, Sends (.sfnF32 h fn ab ng sat ftz d a) h vecCls [(d, 1), (a, 1)]
    (res32 d [(a, 1)] fun s u => BitVec.ofNat 32 (sfnResult .f32 F fn ab ng sat ftz (s.r32 u a).toNat))) ∧
  ∃ F, SfnFacts .f64 F ∧ ∀ h fn ab ng sat ftz d a, Sends (.sfnF64 h fn ab ng sat ftz d a) h vecCls [(d, 2), (a, 2)]
    (res64 d [(a, 2)] fun s u => BitVec.ofNat 64 (sfnResult .f64 F fn ab ng sat ftz (s.r64 u a).toNat))

/-- FMIN, FMAX, FMED3, FCMP and FCLASS complete with the element, the truth and the class of R135 to R137, the truth also in
pd, and of a packed comparison in pd and then pd1, which stays where the two are one (log 78). -/
def Obligations.FloatSelectionAndComparison : Prop :=
  FBin32 (fun m x y => lesser .f32 (FFmt.f32.operand m.ftz m.absA m.negA x) (FFmt.f32.operand m.ftz m.absB m.negB y))
    .fminF32 ∧
  FBin64 (fun m x y => lesser .f64 (FFmt.f64.operand m.ftz m.absA m.negA x) (FFmt.f64.operand m.ftz m.absB m.negB y))
    .fminF64 ∧
  FBin32 (fun m x y => greater .f32 (FFmt.f32.operand m.ftz m.absA m.negA x) (FFmt.f32.operand m.ftz m.absB m.negB y))
    .fmaxF32 ∧
  FBin64 (fun m x y => greater .f64 (FFmt.f64.operand m.ftz m.absA m.negA x) (FFmt.f64.operand m.ftz m.absB m.negB y))
    .fmaxF64 ∧
  (∀ f, let med (m : FMods) (x y z : Nat) : Nat :=
      let x := FFmt.operand f m.ftz m.absA m.negA x
      let y := FFmt.operand f m.ftz m.absB m.negB y
      greater f (lesser f x y) (lesser f (greater f x y) (FFmt.operand f m.ftz m.absC m.negC z))
    (f = .f32 → FTri32 med .fmed3F32) ∧ (f = .f64 → FTri64 med .fmed3F64)) ∧
  (∀ h c (pd : Fin 8) ftz d a b, Writes (.fcmpF32 h c pd ftz d a b) h vecCls ((d, 1) :: (a, 1) :: b.regs 1) fun s u =>
    let r := truths .f32 c ftz (s.r32 u a).toNat (s.bF32 u b).toNat
    let p := s.isPoisoned u ((a, 1) :: b.regs 1)
    wr32 d (if r then 0xFFFFFFFF else 0) p ++ wrP pd.val r p) ∧
  (∀ h c (pd : Fin 8) ftz d a b, Writes (.fcmpF64 h c pd ftz d a b) h vecCls ((d, 1) :: (a, 2) :: b.regs 2) fun s u =>
    let r := truths .f64 c ftz (s.r64 u a).toNat (s.bF64 u b).toNat
    let p := s.isPoisoned u ((a, 2) :: b.regs 2)
    wr32 d (if r then 0xFFFFFFFF else 0) p ++ wrP pd.val r p) ∧
  (∀ f (i : Head → FCmp → Fin 8 → Fin 8 → Bool → Reg → Reg → OpB → Instr), (f = .f16 ∧ i = .fcmpF16x2) ∨ (f = .bf16 ∧ i = .fcmpBf16x2) →
    ∀ h c pd pd1 ftz d a b, Writes (i h c pd pd1 ftz d a b) h vecCls ((d, 1) :: (a, 1) :: b.regs 1) fun s u =>
      let t0 := truths f c ftz ((s.r32 u a).toNat % 65536) ((s.bPair u b).toNat % 65536)
      let t1 := truths f c ftz ((s.r32 u a).toNat / 65536) ((s.bPair u b).toNat / 65536)
      let p := s.isPoisoned u ((a, 1) :: b.regs 1)
      wr32 d ((if t1 then 0xFFFF else 0 : BitVec 16) ++ (if t0 then 0xFFFF else 0 : BitVec 16)) p ++ wrP pd.val t0 p ++
        wrP pd1.val t1 p) ∧
  (∀ h (pd : Fin 8) d a b, Writes (.fclassF32 h pd d a b) h vecCls ((d, 1) :: (a, 1) :: b.regs 1) fun s u =>
    let k := classBit .f32 (s.r32 u a).toNat
    let p := s.isPoisoned u ((a, 1) :: b.regs 1)
    wr32 d (BitVec.ofNat 32 (2 ^ k)) p ++ wrP pd.val ((s.b32 u b).getLsbD k) p) ∧
  (∀ h (pd : Fin 8) d a b, Writes (.fclassF64 h pd d a b) h vecCls ((d, 1) :: (a, 2) :: b.regs 1) fun s u =>
    let k := classBit .f64 (s.r64 u a).toNat
    let p := s.isPoisoned u ((a, 2) :: b.regs 1)
    wr32 d (BitVec.ofNat 32 (2 ^ k)) p ++ wrP pd.val ((s.b32 u b).getLsbD k) p)

/-- FRND, FSCALE, FEXP and every FCVT complete: the whole number, the scaled value, the exponent (R138), and the value of one
format or type in another (R92 to R94, R143). -/
def Obligations.FloatConversions : Prop :=
  (∀ m, F32to32 (rounded .f32 m) (fun h d a => .frndF32 h m d a)) ∧ (∀ m, F64to64 (rounded .f64 m) fun h d a => .frndF64 h m d a) ∧
  (∀ h m d a b, Writes (.fscaleF32 h m d a b) h vecCls ((d, 1) :: (a, 1) :: b.regs 1) (res32 d ((a, 1) :: b.regs 1) fun s u =>
    BitVec.ofNat 32 (rounds .f32 m (match vA .f32 m (s.r32 u a).toNat with
      | .fin n x e => .fin n x (e + (s.b32 u b).toInt)
      | v => v)))) ∧
  (∀ h m d a b, Writes (.fscaleF64 h m d a b) h vecCls ((d, 2) :: (a, 2) :: b.regs 1) (res64 d ((a, 2) :: b.regs 1) fun s u =>
    BitVec.ofNat 64 (rounds .f64 m (match vA .f64 m (s.r64 u a).toNat with
      | .fin n x e => .fin n x (e + (s.b32 u b).toInt)
      | v => v)))) ∧
  (∀ ftz, F32to32 (exponent .f32 ftz) fun h d a => .fexpF32 h ftz d a) ∧
  (∀ ftz, F64to32 (exponent .f64 ftz) fun h d a => .fexpF64 h ftz d a) ∧
  (∀ m, F64to32 (converts .f64 .f32 m) fun h d a => .fcvtF32F64 h m d a) ∧
  (∀ m, F32to64 (converts .f32 .f64 m) fun h d a => .fcvtF64F32 h m d a) ∧
  (∀ m hi, F32to32 (fun x => converts .f16 .f32 m (if hi then x / 65536 % 65536 else x % 65536)) fun h d a => .fcvtF32F16 h m hi d a) ∧
  (∀ m hi, F32to32 (fun x => converts .bf16 .f32 m (if hi then x / 65536 % 65536 else x % 65536)) fun h d a => .fcvtF32Bf16 h m hi d a) ∧
  (∀ f (i : Head → FMods → Reg → Reg → Reg → Instr), (f = .f16 ∧ i = .fcvtF16x2F32) ∨ (f = .bf16 ∧ i = .fcvtBf16x2F32) →
    ∀ h m d a b, Writes (i h m d a b) h vecCls [(d, 1), (a, 1), (b, 1)] (res32 d [(a, 1), (b, 1)] fun s u =>
      BitVec.ofNat 32 (converts .f32 f m (s.r32 u a).toNat + converts .f32 f m (s.r32 u b).toNat * 65536))) ∧
  (∀ m, F32to32 (fun x => (BitVec.ofInt 32 (toInteger .f32 m (-2 ^ 31) (2 ^ 31 - 1) x)).toNat) fun h d a => .fcvtS32F32 h m d a) ∧
  (∀ m, F32to32 (fun x => (BitVec.ofInt 32 (toInteger .f32 m 0 (2 ^ 32 - 1) x)).toNat) fun h d a => .fcvtZ32F32 h m d a) ∧
  (∀ m, F32to32 (fun x => fromInteger .f32 m (BitVec.ofNat 32 x).toInt) fun h d a => .fcvtF32S32 h m d a) ∧
  (∀ m, F32to32 (fun x => fromInteger .f32 m x) fun h d a => .fcvtF32Z32 h m d a) ∧
  (∀ m, F64to64 (fun x => (BitVec.ofInt 64 (toInteger .f64 m (-2 ^ 63) (2 ^ 63 - 1) x)).toNat) fun h d a => .fcvtS64F64 h m d a) ∧
  (∀ m, F64to64 (fun x => (BitVec.ofInt 64 (toInteger .f64 m 0 (2 ^ 64 - 1) x)).toNat) fun h d a => .fcvtZ64F64 h m d a) ∧
  (∀ m, F64to64 (fun x => fromInteger .f64 m (BitVec.ofNat 64 x).toInt) fun h d a => .fcvtF64S64 h m d a) ∧
  (∀ m, F64to64 (fun x => fromInteger .f64 m x) fun h d a => .fcvtF64Z64 h m d a) ∧
  (∀ m, F64to32 (fun x => (BitVec.ofInt 32 (toInteger .f64 m (-2 ^ 31) (2 ^ 31 - 1) x)).toNat) fun h d a => .fcvtS32F64 h m d a) ∧
  (∀ m, F32to64 (fun x => fromInteger .f64 m (BitVec.ofNat 32 x).toInt) fun h d a => .fcvtF64S32 h m d a)

/-- BRA, BRA.CONS, BRX, CALL and CALLX complete: each active thread stands at the target, a call keeping where it came from
(R144 to R146, R203). -/
def Obligations.BranchesAndCalls : Prop :=
  (∀ h wofs, Does (.bra h wofs) h anyCls [] (fun _ x _ => canonical (branchTo x wofs).toNat)
    fun s x ts => each (goes (branchTo x wofs)) s ts) ∧
  (∀ h wofs, Does (.braCons h wofs) h anyCls []
    (fun _ x ts => canonical (branchTo x wofs).toNat && x.tids.all fun u => ts.contains u ||
      ts.all fun v => crewOf v != crewOf u)
    fun s x ts => each (goes (branchTo x wofs)) s ts) ∧
  (∀ h a, Does (.brx h a) h anyCls [(a, 2)] (fun s _ ts => ts.all fun u => goodTarget s u a)
    fun s _ ts => each (fun s' u => goes (s.r64 u a) s' u) s ts) ∧
  (∀ h wofs, Does (.call h wofs) h anyCls []
    (fun s x ts => canonical (branchTo x wofs).toNat && ts.all (roomToCall s))
    fun s x ts => each (calls x (branchTo x wofs)) s ts) ∧
  (∀ h a, Does (.callx h a) h anyCls [(a, 2)]
    (fun s _ ts => ts.all fun u => goodTarget s u a && roomToCall s u)
    fun s x ts => each (fun s' u => calls x (s.r64 u a) s' u) s ts)

/-- RET takes the newest return address; at depth 0, as EXIT, it ends the thread; DBNZ counts down and branches while the count
is not 0 (R146, R147, R149). -/
def Obligations.ReturnsExitsAndLoops : Prop :=
  (∀ h, Does (.ret h) h anyCls []
    (fun s _ ts => ts.all fun u => (s.thr u).depth != 0 && !(s.thr u).cache.isEmpty &&
      ((s.thr u).cache.headD 0).extractLsb' 0 3 == 0)
    fun s _ ts => each (fun s' u => goes ((s.thr u).cache.headD 0)
      (s'.updThr u fun y => { y with depth := y.depth - 1, cache := y.cache.drop 1 }) u) s ts) ∧
  (∀ h, Does (.ret h) h anyCls [] (fun s _ ts => !ts.isEmpty && ts.all fun u => (s.thr u).depth == 0)
    fun s _ ts => endThreads s ts false) ∧
  (∀ h, Does (.exit h) h anyCls [] (fun _ _ ts => !ts.isEmpty) fun s _ ts => endThreads s ts false) ∧
  (∀ h a wofs, Does (.dbnz h a wofs) h anyCls [(a, 1)]
    (fun s x ts => ts.all fun u => !s.isPoisoned u [(a, 1)] && (canonical (branchTo x wofs).toNat || s.r32 u a == 1))
    fun s x ts =>
      let s1 := each (fun s' u => s'.putRegs u (keepS ts u (wr32 a (s.r32 u a - 1) false))) s ts
      each (fun s' u => if s.r32 u a - 1 = 0 then s' else goes (branchTo x wofs) s' u) s1 ts)

/-- NOP changes nothing but the place; YIELD ends the clause; JOIN blocks its threads and looks at the crew's joins; PRIO takes
the value of the lowest active lane; PSAVE and PLOAD move the predicates (R148, R162, R203, R208). -/
def Obligations.NopYieldJoinAndPredicateFile : Prop :=
  (∀ h, Writes (.nop h) h anyCls [] fun _ _ => []) ∧
  (∀ h, Does (.yield_ h) h anyCls [] (fun _ _ _ => true) fun s x ts => each (fun s' u =>
    (jump s' u x.clause.next).updThr u fun y => { y with yieldTil := (s.core (coreOf u)).gather + 4 }) s ts) ∧
  (∀ h b, Does (.join h b) h anyCls (b.regs 1)
    (fun s _ ts => ts.all fun u => !s.isPoisoned u (b.regs 1) && (s.b32 u b).getLsbD (laneOf u))
    fun s x ts => each evalJoin (each (fun s' u => block s' u x.widx (.join (s.b32 u b))) s ts) (ts.map crewOf).dedup) ∧
  (∀ h b, Does (.prio h b) h anyCls (b.regs 1) (fun s _ ts => ts.all fun u => !s.isPoisoned u (b.regs 1))
    fun s _ ts => each (fun s' u => s'.updCrew (crewOf u) fun c =>
      { c with prio := Fin.ofNat 4 (s.b32 u b).toNat }) s (ts.filter (supplies ts))) ∧
  (∀ h d, Writes (.psave h d) h anyCls [(d, 1)] fun s u => wr32 d (BitVec.ofNat 32
    (128 + (((List.range 7).map fun k => if s.rdPred u k then 2 ^ k else 0).foldl (· + ·) 0))) false) ∧
  (∀ h a, Writes (.pload h a) h anyCls [(a, 1)] fun s u => (List.range 7).flatMap fun k =>
    wrP k ((s.r32 u a).getLsbD k) (s.isPoisoned u [(a, 1)]))

/-- Every LXCH in its bundle form sends each participant the value of its source lane, with p(pd) telling whether there was one
(R204). -/
def Obligations.LaneExchange : Prop :=
  ∀ h sw pd d a b c,
    (∀ (k : Fin 4) i, [Instr.lxchAtB32, .lxchRotB32, .lxchDistB32, .lxchMirB32][k.val]? = some i →
      CrewSends (i h sw pd d a b c) h ([(d, 1), (a, 1)] ++ b.regs 1 ++ [(c, 1)]) c (exchange k false sw pd d a b)) ∧
    ∀ (k : Fin 4) i, [Instr.lxchAtB64, .lxchRotB64, .lxchDistB64, .lxchMirB64][k.val]? = some i →
      CrewSends (i h sw pd d a b c) h ([(d, 2), (a, 2)] ++ b.regs 1 ++ [(c, 1)]) c (exchange k true sw pd d a b)

/-- CPQ and VGRP in their bundle form send the census of the participants (R205). -/
def Obligations.CensusAndGroups : Prop :=
  (∀ h pci neg pd d c, CrewSends (.cpqAll h pci neg pd d c) h [(d, 1), (c, 1)] c fun s act _ =>
    census d pd (act.all (asked pci neg s))) ∧
  (∀ h pci neg pd d c, CrewSends (.cpqAny h pci neg pd d c) h [(d, 1), (c, 1)] c fun s act _ =>
    census d pd (act.any (asked pci neg s))) ∧
  (∀ h pci neg pd d c, CrewSends (.cpqSame h pci neg pd d c) h [(d, 1), (c, 1)] c fun s act u =>
    census d pd (act.all fun v => asked pci neg s v == asked pci neg s u)) ∧
  (∀ h pci neg d c, CrewSends (.cpqMask h pci neg d c) h [(d, 1), (c, 1)] c fun s act _ =>
    wr32 d (maskOf ((act.filter (asked pci neg s)).map laneOf)) false) ∧
  (∀ h pci neg d c, CrewSends (.cpqNum h pci neg d c) h [(d, 1), (c, 1)] c fun s act _ =>
    wr32 d (BitVec.ofNat 32 (act.filter (asked pci neg s)).length) false) ∧
  (∀ h d a c, CrewSends (.vgrpPart h d a c) h [(d, 1), (a, 1), (c, 1)] c fun s act u =>
    wr32 d (maskOf ((act.filter fun v => s.r32 v a == s.r32 u a).map laneOf)) (act.any fun v => s.isPoisoned v [(a, 1)])) ∧
  (∀ h pd d a c, CrewSends (.vgrpUni h pd d a c) h [(d, 1), (a, 1), (c, 1)] c fun s act u =>
    let uni := act.all fun v => s.r32 v a == s.r32 u a
    let p := act.any fun v => s.isPoisoned v [(a, 1)]
    wr32 d (if uni then maskOf (act.map laneOf) else 0) p ++ wrP pd.val uni p)

/-- CRED in its bundle form sends every participant the combination of their values (R206). -/
def Obligations.CrewReductions : Prop :=
  Reduces (foldAll fun x y => x + y) .credAddB32 ∧ Reduces (foldAll fun x y => if x.sle y then x else y) .credMinS32 ∧
  Reduces (foldAll fun x y => if x ≤ y then x else y) .credMinZ32 ∧
  Reduces (foldAll fun x y => if x.sle y then y else x) .credMaxS32 ∧
  Reduces (foldAll fun x y => if x ≤ y then y else x) .credMaxZ32 ∧ Reduces (foldAll fun x y => x &&& y) .credAnd ∧
  Reduces (foldAll fun x y => x ||| y) .credOr ∧ Reduces (foldAll fun x y => x ^^^ y) .credXor ∧
  (∀ h d a c, CrewSends (.credFaddF32 h d a c) h [(d, 1), (a, 1), (c, 1)] c fun s act _ =>
    wr32 d (BitVec.ofNat 32 (FFmt.f32.round .rne false
      (FVal.sum .rne (act.map fun v => FFmt.f32.decode (s.r32 v a).toNat)))) (act.any fun v => s.isPoisoned v [(a, 1)])) ∧
  ∀ h d a c, CrewSends (.credFminF32 h d a c) h [(d, 1), (a, 1), (c, 1)] c fun s act _ =>
    let low (x y : W32) : W32 := BitVec.ofNat 32 (FFmt.f32.minNum x.toNat y.toNat)
    let vs := act.map fun v => s.r32 v a
    wr32 d ((vs.map fun v => low v v).foldl low (vs.headD 0)) (act.any fun v => s.isPoisoned v [(a, 1)])

/-- LEAD and MEMB name the participants; SMOV copies lane L of each crew to its s register, L from the crew's lowest active
lane, and leaves it where lane L does not act; GANG takes its mask from that lane (R207, R208). -/
def Obligations.LeadMembSmovGang : Prop :=
  (∀ h (pd : Fin 8) d c, CrewWrites (.lead h pd d c) h [(d, 1), (c, 1)] c fun _ act u =>
    let low := act.foldl (fun m v => min m (laneOf v)) 32
    wr32 d (BitVec.ofNat 32 low) false ++ wrP pd.val (low == laneOf u) false) ∧
  (∀ h d c, CrewWrites (.memb h d c) h [(d, 1), (c, 1)] c fun _ act _ => wr32 d (maskOf (act.map laneOf)) false) ∧
  (∀ h d a b, Does (.smov h d a b) h anyCls ([(d, 1), (a, 1)] ++ b.regs 1)
    (fun s _ ts => ts.all fun u => !s.isPoisoned u (b.regs 1) && !s.isPoisoned u [(a, 1)])
    fun s _ ts => each (fun s' u =>
      let l := crewOf u * 32 + (s.b32 u b).toNat % 32
      if ts.contains l then s'.putRegs l (wr32 d (s.r32 l a) false) else s') s (ts.filter (supplies ts))) ∧
  ∀ h b, Does (.gang h b) h anyCls (b.regs 1) (fun s _ ts => ts.all fun u => !s.isPoisoned u (b.regs 1))
    fun s _ ts => each (fun s' u => s'.updCrew (crewOf u) fun c =>
      { c with gang := (s.b32 u b).extractLsb' 0 16 }) s (ts.filter (supplies ts))

/-- MOVS completes with the value the table of R43 gives the register; TIMELO also latches the high half of the same sample, which TIMEHI gives after it
(R43 to R45). -/
def Obligations.SpecialRegisters : Prop :=
  (∀ h d r, r ≠ .timelo → Writes (.movs h d r) h anyCls [(d, 1)] fun s u => wr32 d (special s u r) false) ∧
  ∀ h d s b x, Issuing s b x = true → Fits s x [(d, 1)] = true →
    ∃ t, exec (.movs h d .timelo) s = .next t ∧ MovesOn s t b x ∧ t.rest = s.rest ∧
      (∀ u g, (∀ n, g = .p n → n < 7) → t.stored u g = ((writerOf (activeOf s x h) u g).bind fun _ =>
        lastTo (wr32 d (BitVec.ofNat 32 s.time) false) g).getD (s.stored u g)) ∧
      (∀ u ∈ activeOf s x h, (t.thr u).timeHi = some (BitVec.ofNat 32 (s.time / 2 ^ 32))) ∧
      (∀ u, u ∉ activeOf s x h → (t.thr u).timeHi = (s.thr u).timeHi)

/-- BAR.SYNC and BBAR block on their arrival, BAR.ARV and BAR.ARVC take the phase as a token, and a complete phase advances
(R167, R210). -/
def Obligations.BarrierArrivals : Prop :=
  (∀ h (hn : Fin 4) d b, Does (.barSync h hn d b) h anyCls ((d, 1) :: b.regs 1)
    (fun s x ts => settledAt 3 s ts && pure_ s ts (b.regs 1) && timely (groupOf · · hn.val) s ts && turns (mayArrive (groupOf · · hn.val) (s.b32 · b))
      (arriving (some (x.widx, d)) (groupOf · · hn.val) (s.b32 · b)) s (barOrder s ts))
    (syncs (groupOf · · hn.val) d b)) ∧
  (∀ h d b, Does (.bbar h d b) h anyCls ((d, 1) :: b.regs 1)
    (fun s x ts => settledAt 2 s ts && pure_ s ts (b.regs 1) && timely billetGroup s ts && turns (mayArrive billetGroup (s.b32 · b))
      (arriving (some (x.widx, d)) billetGroup (s.b32 · b)) s (barOrder s ts))
    (syncs billetGroup d b)) ∧
  ∀ told (i : Head → Fin 4 → Reg → OpB → Instr), (told = false ∧ i = .barArv) ∨ (told = true ∧ i = .barArvc) →
    ∀ h hn d b, Does (i h hn d b) h anyCls ((d, 1) :: b.regs 1)
      (fun s _ ts => settledAt 3 s ts && pure_ s ts (b.regs 1) && timely (groupOf · · hn.val) s ts && turns (mayArrive (groupOf · · hn.val) (s.b32 · b))
        (arriving none (groupOf · · hn.val) (s.b32 · b)) s (barOrder s ts))
      fun s _ ts => tokens told hn.val d b s ts

/-- BAR.WAIT and BAR.TRY look at a token, BAR.LEAVE takes lanes out, BAR.RESET breaks and mends the group, and GRPQ reads it
(R202, R209 to R211). -/
def Obligations.BarrierWaitsAndMembers : Prop :=
  (∀ h (hn : Fin 4) d a b, Does (.barWait h hn d a b) h anyCls ([(d, 1), (a, 1)] ++ b.regs 1)
    (fun s _ ts => pure_ s ts ((a, 1) :: b.regs 1) && inGroup s hn.val b ts)
    fun s x ts => each (fun s' u => (theGroup s hn.val u).elim s' fun y =>
      let tok := (s.r32 u a).toNat / 65536
      let s1 := block s' u x.widx (.bar y.1 tok d false false)
      if y.2.broken || y.2.isDone tok then release s1 u (keepS ts u (wr32 d (report y.2 tok) false)) else s1) s ts) ∧
  (∀ h (hn : Fin 4) d a b, Does (.barTry h hn d a b) h anyCls ([(d, 1), (a, 1)] ++ b.regs 1)
    (fun s _ ts => pure_ s ts ((a, 1) :: b.regs 1) && inGroup s hn.val b ts)
    fun s _ ts => each (fun s' u => gives true d (report · ((s.r32 u a).toNat / 65536)) hn.val s ts s' u) s ts) ∧
  (∀ h (hn : Fin 4) b, Does (.barLeave h hn b) h anyCls (b.regs 1)
    (fun s _ ts => settledAt 3 s ts && pure_ s ts (b.regs 1) && inGroup s hn.val b ts)
    fun s _ ts => each (fun s' g => evalPhase s' g []) (each (fun s' u =>
      s'.updGroup ((groupOf s u hn.val).getD 0) fun y => if y.broken then y else
        { y with left := Map.set y.left (myKey s u) (((Map.get? y.left (myKey s u)).getD 0) ||| s.b32 u b) }) s ts)
      (ts.map fun u => (groupOf s u hn.val).getD 0).dedup) ∧
  (∀ h (hn : Fin 4), Does (.barReset h hn) h anyCls []
    (fun s _ ts => ts.all fun u => ((groupOf s u hn.val).bind s.group?).isSome)
    fun s _ ts => each (fun s' g => (breakGroup s' g).updGroup g fun y =>
      { y with broken := false, left := [], out := [], arrived := [], presented := [], first := none, paused := 0, pausedAt := none,
               timeout := y.tableTimeout }) s (ts.map fun u => (groupOf s u hn.val).getD 0).dedup) ∧
  ∀ h (hn sel : Fin 4) d, Does (.grpq h hn sel d) h anyCls [(d, 1)]
    (fun s _ ts => ts.all fun u => ((groupOf s u hn.val).bind s.group?).isSome)
    fun s _ ts => each (fun s' u => gives false d (fun y => [stWord (if y.broken then 2 else 0) y.phase false,
      maskOf ((List.range (s.crew (crewOf u)).width).filter fun l => !((Map.get? y.left (myKey s u)).getD 0).getLsbD l),
      (Map.get? y.arrived (myKey s u)).getD 0, BitVec.ofNat 32 y.timeout].getD sel.val 0) hn.val s ts s' u) s ts

/-- The stage words send their update, or their question, to the object; STGWAIT blocks on it (R212, R213). -/
def Obligations.StageWords : Prop :=
  (∀ (i : Head → Reg → SOp → Instr) (f : W32 → StageUpd),
    (i = .stginit ∧ f = fun v => .init (v.toNat % 65536)) ∨ (i = .stgowe ∧ f = fun v => .owe v.toNat) ∨
      (i = .stgadd ∧ f = fun v => .add v.toInt) →
    ∀ h d m, SendsTo 16 false (i h d m) h d 1 m [(d, 1)] (fun _ _ => true)
      fun s _ u a => (.stage a (f (s.r32 u d)), [])) ∧
  (∀ (i : Head → SOp → Instr) f, (i = .stgarv ∧ f = .arrive) ∨ (i = .stginval ∧ f = .inval) →
    ∀ h m, SendsTo 16 false (i h m) h .z 1 m [(.z, 1)] (fun _ _ => true) fun _ _ _ a => (.stage a f, [])) ∧
  (∀ h d m, SendsTo 16 false (.stgtry h d m) h d 1 m [(d, 1)] (fun _ _ => true) fun s ts u a =>
    (.stgTry a ((s.r32 u d).getLsbD 16) (laneDst ts u d), destsOf (laneDst ts u d) 1)) ∧
  ∀ h d m, Does (.stgwait h d m) h anyCls [(m.base, 1), (d, 1)]
    (fun s _ ts => settledAt 0 s ts && ts.all fun u => objReady s u m 16 [(d, 1)])
    fun s x ts => each (fun s' u => wakeStage (block (useObj s' u (2 * objAt s u m 16)) u x.widx
      (.stage (objAt s u m 16) ((s.r32 u d).getLsbD 16) (laneDst ts u d))) (objAt s u m 16)) s ts

/-- The queue words: the blocking ones take their place in the queue's order, the others send their operation (R214 to
R216). -/
def Obligations.QueueWords : Prop :=
  Queues true 4 false .qpush (fun d => [(d, 4)]) (fun d s u a k => .qpush a false (s.rN u d 4) (vIndex d + 4) k) ∧
  Queues true 8 true .qpushW (fun d => [(d, 8)]) (fun d s u a k => .qpush a true (s.rN u d 8) (vIndex d + 8) k) ∧
  Queues false 4 false .qpop (fun _ => []) (fun d _ _ a k => .qpop a false (vIndex d) (vIndex d + 4) k) ∧
  Queues false 8 true .qpopW (fun _ => []) (fun d _ _ a k => .qpop a true (vIndex d) (vIndex d + 8) k) ∧
  (∀ h d m, SendsTo 32 true (.qinit h d m) h d 2 m [(d, 2)]
    (fun s u => qinitTrap s u (objAt s u m 32) m (s.r64 u d) == none)
    fun s _ u a => (.qinit a ((s.r64 u d).toNat % 2 ^ 32) ((s.r64 u d).toNat / 2 ^ 32 % 65536) ((s.r64 u d).getLsbD 48), [])) ∧
  (∀ h d m, SendsTo 32 true (.qtrypush h d m) h d 9 m []
    (fun s u => !s.isPoisoned u [(d, if (s.queueAt (objAt s u m 32)).wide then 8 else 4)])
    fun s _ u a => (.qtryPush a (s.rN u d 8) (vIndex d + 8), [.v (vIndex d + 8)])) ∧
  (∀ (i : Head → Reg → SOp → Instr) peek, (i = .qtrypop ∧ peek = false) ∨ (i = .qpeek ∧ peek = true) →
    ∀ h d m, SendsTo 32 true (i h d m) h d 9 m [] (fun _ _ => true) fun _ _ _ a =>
      (.qtryPop a peek (vIndex d) (vIndex d + 8), (List.range 9).map fun k => .v (vIndex d + k))) ∧
  (∀ h d m, SendsTo 32 true (.qcount h d m) h d 1 m [] (fun _ _ => true) fun _ ts u a =>
    (.qcount a (laneDst ts u d), destsOf (laneDst ts u d) 1)) ∧
  ∀ h m, SendsTo 32 true (.qbreak h m) h .z 1 m [] (fun _ _ => true) fun _ _ _ a => (.qbreak a, [])

/-- WAITV blocks on its descriptors, MONITOR is sent with the line it will watch, UNMONITOR and MONTEST act on the thread's
monitors, and SLEEP blocks for a time (R218 to R220). -/
def Obligations.WaitsAndMonitors : Prop :=
  (∀ (i : Head → Reg → Reg → Reg → Reg → Instr) all, (i = .waitvAny ∧ all = false) ∨ (i = .waitvAll ∧ all = true) →
    ∀ h d a b c, Does (i h d a b c) h anyCls [(d, 1), (a, 4), (b, 1), (c, 2)]
      (fun s _ ts => settledAt 0 s ts && pure_ s ts [(a, 4), (b, 1), (c, 2)] &&
        ts.all fun u => (s.rN u a 4).all fun w => (descTrap s u w).isNone)
      fun s x ts => wakeWaitv (each (fun s' u => block s' u x.widx
        (.waitv all (s.rN u a 4) s.time (s.r32 u b) (s.r64 u c) (laneDst ts u d))) s ts)) ∧
  (∀ h (mn : Fin 2) a ofs, Does (.monitor h mn a ofs) h anyCls [(a, 2)]
    (fun s _ ts => countable s h ts && pure_ s ts [(a, 2)] && ts.all fun u => canonical (addr64 (s.r64 u a) ofs))
    fun s _ ts => each (fun s' u => s'.addOp u h.dc.val
      (match translate s (s.ctxOf (crewOf u)) (s.crew (crewOf u)).priv .read (addr64 (s.r64 u a) ofs) with
       | .ok pa _ _ => .monitor mn.val (lineOf pa) false
       | _ => .monitor mn.val 0 true) []) (noteLanes s ts (fun u => addr64 (s.r64 u a) ofs) 1) ts) ∧
  (∀ h (mask : Fin 4), Does (.unmonitor h mask) h anyCls [] (fun _ _ _ => true)
    fun s _ ts => each (fun s' u => s'.updThr u fun y =>
      { y with mon0 := if mask.val % 2 = 1 then {} else y.mon0, mon1 := if 2 ≤ mask.val then {} else y.mon1 }) s ts) ∧
  (∀ h d, Writes (.montest h d) h anyCls [(d, 1)] fun s u => wr32 d (BitVec.ofNat 32 ((s.thr u).mon0.fired.toNat +
    2 * (s.thr u).mon1.fired.toNat + 256 * (s.thr u).mon0.armed.toNat + 512 * (s.thr u).mon1.armed.toNat)) false) ∧
  ∀ h b, Does (.sleep h b) h anyCls (b.regs 1) (fun s _ ts => pure_ s ts (b.regs 1))
    fun s x ts => each (fun s' u => if s.b32 u b = 0 then jump s' u x.clause.next
      else block s' u x.widx (.sleep (s.time + (s.b32 u b).toNat))) s ts

/-- LD, LDS, LDX and LDC leave a load of each lane in flight, of the size and sign the form names (R271, R272, R390). -/
def Obligations.LoadWords : Prop :=
  Loads 1 true .ldS8 ∧ Loads 1 false .ldZ8 ∧ Loads 2 true .ldS16 ∧ Loads 2 false .ldZ16 ∧ Loads 4 false .ldB32 ∧
  Loads 8 false .ldB64 ∧ Loads 16 false .ldB128 ∧
  (∀ n signed clus (i : Head → Reg → MOp → Instr),
    (n, signed, clus, i) ∈ [(1, true, false, Instr.ldsS8), (1, false, false, .ldsZ8), (2, true, false, .ldsS16),
      (2, false, false, .ldsZ16), (4, false, false, .ldsB32), (8, false, false, .ldsB64), (16, false, false, .ldsB128),
      (4, false, true, .ldxB32), (8, false, true, .ldxB64), (16, false, true, .ldxB128)] →
    Scratch n (regsFor n) (fun _ => clus) false true false false i (some (regsFor n))
      fun _ ts u d a => .load a { signed := signed, dst := laneDst ts u d }) ∧
  Bank 4 .ldcB32 ∧ Bank 8 .ldcB64

/-- ST, STS and STX leave a store of each lane in flight with the low bytes of its DATA; an absent page makes every lane wait
(R230, R268, R271, R272). -/
def Obligations.StoreWords : Prop :=
  (∀ n (i : Head → Reg → MOp → Instr),
    (n, i) ∈ [(1, Instr.stB8), (2, .stB16), (4, .stB32), (8, .stB64), (16, .stB128)] →
    WritesTo n 1 (regsFor n) .write false i id 0 fun s u d a => .store a (dataOf s u d n) 0) ∧
  ∀ n clus (i : Head → Reg → MOp → Instr),
    (n, clus, i) ∈ [(1, false, Instr.stsB8), (2, false, .stsB16), (4, false, .stsB32), (8, false, .stsB64),
      (16, false, .stsB128), (4, true, .stxB32), (8, true, .stxB64), (16, true, .stxB128)] →
    Scratch n (regsFor n) (fun _ => clus) clus false true false i none fun s _ u d a => .store a (dataOf s u d n) 0

/-- ATOM, CAS, RED and ATOMS leave a read-modify-write of each lane in flight, with the operation and operands of the form
(R273 to R276). -/
def Obligations.AtomicWords : Prop :=
  (∀ n f (i : Head → Reg → MOp → Instr),
    (n, f, i) ∈ [(4, Rmw.add, Instr.atomAddB32), (8, .add, .atomAddB64), (4, .fadd32, .atomFaddF32), (8, .fadd64, .atomFaddF64),
      (4, .bfadd, .atomFaddBf16x2), (4, .smin, .atomMinS32), (4, .umin, .atomMinZ32), (4, .smax, .atomMaxS32),
      (4, .umax, .atomMaxZ32), (4, .and, .atomAndB32), (4, .or, .atomOrB32), (4, .xor, .atomXorB32), (4, .exch, .atomExchB32),
      (8, .exch, .atomExchB64)] →
    WritesTo n 2 (n / 4) .rmw true i id (n / 4) fun s u d a => .rmw a f (s.r64 u d) (some d)) ∧
  (∀ n (i : Head → Reg → MOp → Instr), (n, i) ∈ [(4, Instr.casB32), (8, .casB64), (16, .casB128)] →
    WritesTo n 2 (n / 2) .rmw true i id (n / 4) fun s u d a => .cas a (dataOf s u d n) (dataOf s u (d.plus (n / 4)) n) d) ∧
  (∀ op n (i : Head → RedOp → Reg → MOp → Instr), (n, i) ∈ [(4, Instr.redB32), (8, .redB64)] →
    WritesTo n 2 (n / 4) .write true (fun h => i h op) (fun m => { m with ofs := (m.ofs.extractLsb' 0 20).signExtend 24 }) 0
      fun s u d a => .rmw a (redFn n op) (s.r64 u d) none) ∧
  (∀ f (i : Head → Reg → MOp → Instr), (f, i) ∈ [(Rmw.add, Instr.atomsAddB32), (.fadd32, .atomsFaddF32)] →
    Scratch 4 1 (fun m => m.scope == .clus) false true true true i (some 1)
      fun s ts u d a => .rmw a f ((s.r32 u d).zeroExtend 64) (some (laneDst ts u d))) ∧
  Scratch 4 2 (fun m => m.scope == .clus) false true true true .atomsCasB32 (some 1)
    fun s _ u d a => .cas a (dataOf s u d 4) (dataOf s u (d.plus 1) 4) d

/-- MCAS, FENCE, CCTL and PREF leave their operation in flight; PTST and PCLR read and clear poison (R278 to R283). -/
def Obligations.FencesHintsAndPoison : Prop :=
  (∀ h d m, Does (.mcas h d m) h anyCls [(m.base, 2), (d, 1)]
    (fun s _ ts => countable s h ts && pure_ s ts [(m.base, 2)] && orderly s ts &&
      (ts.all fun u => !blockWaits s u (ea64 s m u)) && turns (mcasGoes s m) (mcasSent s h d m ts) s ts)
    fun s _ ts => each (mcasSent s h d m ts) s ts) ∧
  (∀ h sc od strict, Does (.fence h sc od strict) h anyCls [] (fun s _ ts => countable s h ts)
    fun s x ts =>
      let s1 := if 3 ≤ sc.level then endInterval s ts else s
      let snap : Snapshot := { threads := x.tids.map fun u =>
                                 let y := { s1.thr u with widx := x.widx }
                                 (u, y.goTo y.afterWord.1 y.afterWord.2),
                               last := s1.seq + ts.length - 1 }
      each (fun s' u => s'.addOp u h.dc.val (.fence od sc strict (some snap)) []) s1 ts) ∧
  (∀ h inv pg m, Does (.cctl h inv pg m) h anyCls [(m.base, 2)]
    (fun s _ ts => countable s h ts && ts.all fun u => (pageOf s u (ea64 s m u) .read).isSome && !s.isPoisoned u [(m.base, 2)])
    fun s _ ts => each (fun s' u =>
      let l := lineOf ((pageOf s u (ea64 s m u) .read).getD (0, 0)).1
      s'.addOp u h.dc.val (.cctl (if pg then (List.range 32).map (l / 32 * 32 + ·) else [l]) inv m.scope) [])
      (noteLanes s ts (ea64 s m) 1) ts) ∧
  (∀ h m, Does (.pref h m) h anyCls [(m.base, 2)] (fun s _ ts => countable s h ts)
    fun s _ ts => each (fun s' u =>
      (pageOf s u (ea64 s m u) .read).elim (s'.addValue u h.dc.val []) fun p =>
        s'.addOp u h.dc.val (.pref (lineOf p.1) (if m.hint.val = 2 then 2 else p.2) (s.ctxOf (crewOf u))) [])
      (noteLanes s ts (ea64 s m) 1) ts) ∧
  (∀ h (pd : Fin 8) mw a, Writes (.ptst h pd mw a) h anyCls [(a, MovW.count mw)] fun s u =>
    wrP pd.val (s.isPoisoned u [(a, MovW.count mw)]) false) ∧
  ∀ h mw a, Writes (.pclr h mw a) h anyCls [(a, MovW.count mw)] fun s u => (List.range (MovW.count mw)).flatMap fun k =>
    match a.plus k with
    | .v n => wr32 (.v n) ((s.thr u).vReg n) false
    | _ => []

/-- PUSH and the matrix words hand their work to an engine or to the gang's latch (R180, R303, R310, R320, R321). -/
def Obligations.PushAndMatrixWords : Prop := PushWord ∧ MatrixWords

/-- SLD and SQRY send the pixels, or what the block's record or the descriptor says, of the surface named (R378, R382). -/
def Obligations.SurfaceReads : Prop :=
  SurfaceLoad 1 (fun h => .sldP h false) (fun x y => [(x, y)]) (fun d ps => wr32 d (BitVec.ofNat 32 (ps.headD 0)) false) ∧
  SurfaceLoad 2 (fun h => .sldP h true) (fun x y => [(x, y)]) (fun d ps => wr64 d (BitVec.ofNat 64 (ps.headD 0)) false) ∧
  SurfaceLoad 4 .sldQ (fun x y => (List.range 4).map fun e => (x / 2 * 2 + e % 2, y / 2 * 2 + e / 2))
    (fun d ps => wrN d (ps.map (BitVec.ofNat 32)) false) ∧
  SurfaceLoad 4 .sldB (fun x y => (List.range 4).map fun e => (x / 4 * 4 + e, y))
    (fun d ps => wrN d (ps.map (BitVec.ofNat 32)) false) ∧
  (∀ h (pd : Fin 8) d a b c, Surface (.sldD h pd d a b c) h [(a, 1), (b, 1), (c, 1)] [(a, 1), (b, 1), (c, 1), (d, 1)] true
    fun s u => do
      let g ← laneSurf s u a b
      if g.fmt.code ≠ 5 ∧ g.fmt.code ≠ 10 then throw (.prot g.va)
      else do
        let r ← readPixelsAt (whoOf s u) g [(coordX s u b, coordY s u b)]
        let v : W32 := BitVec.ofNat 32 (r.headD 0)
        pure (wr32 d v false ++ wrP pd.val (decide (s.r32 u c < v)) false)) ∧
  ∀ h (sel : Fin 6) d a b, Surface (.sqry h sel d a b) h [(a, 1), (b, 1)] [(a, 1), (b, 1), (d, 1)] (decide (sel.val < 4))
    fun s u => do
      let g ← if sel.val < 4 then laneSurf s u a b else getSurf (whoOf s u) (surfIdx s u a) none
      if sel.val = 4 then pure (wr32 d (BitVec.ofNat 32 (descW g.desc - 1 + (descH g.desc - 1) * 65536)) false)
      else if sel.val = 5 then
        pure (wr32 d (BitVec.ofNat 32 (dfld g.desc 164 4 + dfld g.desc 162 2 * 16 + dfld g.desc 161 1 * 64 +
          dfld g.desc 160 1 * 128 + dfld g.desc 205 3 * 256)) false)
      else match blockAt g.desc (coordX s u b) (coordY s u b) with
        | none => pure (wr32 d 0 false)
        | some n => do pure (wr32 d (queryBlock (← accessBlock (whoOf s u) g n) sel.val) false)

/-- SST, SCOEF, SMV, SREF, SRATE and SANCHOR change the block their coordinate names; SFLUSH and SREL write the surface back
(R379 to R381, R383). -/
def Obligations.SurfaceWrites : Prop :=
  (∀ h w64 a b c, Surface (.sstP h w64 a b c) h [(a, 1), (b, 1), (c, if w64 then 2 else 1)]
    [(a, 1), (b, 1), (c, if w64 then 2 else 1)] false fun s u =>
      stores a b (if w64 then 64 else 32) 15 [(coordX s u b, coordY s u b, surfData s u w64 c)] s u) ∧
  (∀ h w64 (mask : Fin 16) a b c, Surface (.sstM h w64 mask a b c) h [(a, 1), (b, 1), (c, if w64 then 2 else 1)]
    [(a, 1), (b, 1), (c, if w64 then 2 else 1)] false fun s u =>
      stores a b (if w64 then 64 else 32) mask.val [(coordX s u b, coordY s u b, surfData s u w64 c)] s u) ∧
  (∀ (i : Head → Reg → Reg → Reg → Instr) (ps : Nat → Nat → List (Nat × Nat)),
    (i = .sstQ ∧ ps = fun x y => (List.range 4).map fun e => (x / 2 * 2 + e % 2, y / 2 * 2 + e / 2)) ∨
      (i = .sstB ∧ ps = fun x y => (List.range 4).map fun e => (x / 4 * 4 + e, y)) →
    ∀ h a b c, Surface (i h a b c) h [(a, 1), (b, 1), (c, 4)] [(a, 1), (b, 1), (c, 4)] false fun s u =>
      stores a b 32 15 (((ps (coordX s u b) (coordY s u b)).zip (s.rN u c 4)).map fun e => (e.1.1, e.1.2, e.2.toNat)) s u) ∧
  (∀ h (k : Fin 16) (ch : Fin 4) a b c, Surface (.scoef h k ch a b c) h [(a, 1), (b, 1), (c, 1)] [(a, 1), (b, 1), (c, 1)] false
    (levelWrite a b ch.val fun s u => [(k.val, (s.r32 u c).toInt)])) ∧
  (∀ h (k ch : Fin 4) a b c, Surface (.scoefB h k ch a b c) h [(a, 1), (b, 1), (c, 4)] [(a, 1), (b, 1), (c, 4)] false
    (levelWrite a b ch.val fun s u => (List.range 4).map fun j => (4 * k.val + j, (s.r32 u (c.plus j)).toInt))) ∧
  (∀ h a b c, Surface (.smv h a b c) h [(a, 1), (b, 1), (c, 1)] [(a, 1), (b, 1), (c, 1)] false fun s u =>
    let v (n : Nat) : Int := clampI (signedOf n 16) (-8192) 8191
    changes a b false (fun k => repredict (whoOf s u) { k with
      mode := 1, mvx := v ((s.r32 u c).toNat % 65536), mvy := v ((s.r32 u c).toNat / 65536) }) s u) ∧
  (∀ h (r : Fin 4) a b, Surface (.sref h r a b) h [(a, 1), (b, 1)] [(a, 1), (b, 1)] false fun s u =>
    changes a b false (fun k => repredict (whoOf s u) { k with mode := 1, ref := r.val }) s u) ∧
  (∀ h a b c, Surface (.srate h a b c) h [(a, 1), (b, 1), (c, 1)] [(a, 1), (b, 1), (c, 1)] false fun s u =>
    changes a b true (fun k => pure ({ k with step := (s.r32 u c).toNat % 65536 }, false)) s u) ∧
  (∀ h w64 a b c, Surface (.sanchor h w64 a b c) h [(a, 1), (b, 1), (c, if w64 then 2 else 1)]
    [(a, 1), (b, 1), (c, if w64 then 2 else 1)] false fun s u =>
      changes a b false (fun k => repredict (whoOf s u) { k with
        mode := 3, base := surfData s u w64 c % 2 ^ (8 * k.fmt.bpp) }) s u) ∧
  (∀ h a, Surface (.sflush h a) h [(a, 1)] [(a, 1)] false fun s u => flushes a false s u) ∧
  ∀ h a, Surface (.srel h a) h [(a, 1)] [(a, 1)] false fun s u => flushes a true s u

/-- TRIW, TRIX, TRIX.D, BOX12, BOX12.4 and NODEX complete with the sum of four products (R385), the leaf test (R365, R386), the
tests of children (R361, R367, R387) and a child's reference (R388). -/
def Obligations.TraversalTests : Prop :=
  (∀ h m d a b, Tests (.triw h m d a b) h d 1 [(a, 4), (b, 4)] none fun s u =>
    ([BitVec.ofNat 32 (fourProducts m (nats s u a 4) (nats s u b 4))], false)) ∧
  (∀ h pd d a b, Tests (.trix h pd d a b) h d 4 [(a, 4), (b, 4)] (some pd) fun s u =>
    let r := leafTest (nats s u a 4) (nats s u b 4)
    (r.1.map fun v => BitVec.ofNat 32 (FFmt.f32.round .rne false v), r.2)) ∧
  (∀ h pd d a b c, Tests (.trixD h pd d a b c) h d 2 [(a, 4), (b, 4), (c, 1)] (some pd) fun s u =>
    let r := leafTest (nats s u a 4) (nats s u b 4)
    (if r.2 then [BitVec.ofNat 32 (FFmt.f32.round .rne false (r.1.headD .nan)), s.r32 u c] else [0xFFFFFFFF, 0xFFFFFFFF], r.2)) ∧
  (∀ h (k pd : Fin 8) d a b c, Tests (.box12 h k pd d a b c) h d 1 [(a, 4), (b, 18), (c, 8)] (some pd) fun s u =>
    let r := childTest (nats s u a 4) (nats s u b 18) (nats s u c 8) k.val
    ([BitVec.ofNat 32 r.1], r.2)) ∧
  (∀ h hf pd d a b c, Tests (.box12x4 h hf pd d a b c) h d 4 [(a, 4), (b, 18), (c, 8)] (some pd) fun s u =>
    let r (e : Nat) := childTest (nats s u a 4) (nats s u b 18) (nats s u c 8) (e + if hf then 4 else 0)
    ((List.range 4).map fun e => BitVec.ofNat 32 (r e).1, (List.range 4).any fun e => (r e).2)) ∧
  ∀ h (k pd : Fin 8) d a b, Tests (.nodex h k pd d a b) h d 2 [(a, 4), (b, 1)] (some pd) fun s u =>
    let at_ (n : Nat) : Nat := (nats s u a 4).getD n 0
    let r := at_ (2 + k.val / 4) / 2 ^ (8 * (k.val % 4)) % 256
    if (s.r32 u b).getLsbD (24 + k.val) = false then ([0xFFFFFFFF, 0xFFFFFFFF], false)
    else if r < 128 then ([BitVec.ofNat 32 (at_ 0 + r), 0], true)
    else ([BitVec.ofNat 32 (at_ 1 + r / 8 % 16), BitVec.ofNat 32 (2 ^ 31 + r % 8 + 1)], true)

/-- TRAP and BRK raise SWTRAP and BRK with their immediate in every class; RTE resumes the trapped threads a target names, at
their word or the next, with or without a step (R423 to R425). -/
def Obligations.TrapWordsAndReturn : Prop :=
  (∀ h imm, Raises (.trap h imm) h { trap := .swtrap, detail := imm.toNat }) ∧
  (∀ h imm, Raises (.brk h imm) h { trap := .brk, detail := imm.toNat }) ∧
  (∀ nxt, OnTarget (fun h a b => .rte h nxt a b) false fun s c tgt m => rteAll s c tgt m nxt false) ∧
  ∀ nxt, OnTarget (fun h a b => .rteStep h nxt a b) false fun s c tgt m => rteAll s c tgt m nxt true

/-- SYSR sends the register's value, SYSW writes it, a translation invalidation completing later, and TIME writes domain time
(R433, R438, R439). -/
def Obligations.SystemRegisterWords : Prop :=
  (∀ h d (r : BitVec 16) s b x, Issuing s b x = true → x.clause.cls = .sys → Fits s x [(d, sysWords r.toNat)] = true →
    CanCount s x h = true → Privileged s x h 1 = true → mayUse s r false (activeOf s x h) = true →
    ∃ t, exec (.sysr h d r) s = .next t ∧ Sent s t b x h fun u =>
      if sysWords r.toNat = 2 then wr64 d (readSysReg s (served s u) r.toNat) false
      else wr32 d ((readSysReg s (served s u) r.toNat).extractLsb' 0 32) false) ∧
  (∀ h d (r : BitVec 16), Sys 1 (.sysw h d r) h [(d, sysWords r.toNat)]
    (fun s ts => counts h [(d, sysWords r.toNat)] s ts && mayUse s r true ts) fun s s' u =>
      let v : W64 := if sysWords r.toNat = 2 then s.r64 u d else (s.r32 u d).zeroExtend 64
      if r = 0x0D then
        let t := writeSysReg s' (served s u) 0x0D (if h.dc.val = 0 then 0 else s'.seq) v
        if h.dc.val = 0 then t else t.addOp u h.dc.val (.unit 0) []
      else signal (writeSysReg s' (served s u) r.toNat 0 v) u h) ∧
  ∀ h d s b x, Issuing s b x = true → x.clause.cls = .sys → Fits s x [(d, 2)] = true → Privileged s x h 1 = true →
    ∃ t, exec (.time h d) s = .next t ∧ Wrote s t b x h fun _ => wr64 d (BitVec.ofNat 64 s.time) false

/-- SUSPEND, RESUME, KILLCREW, DBGMB, JRNL, WDOG, IINV and IRQ act on what they name in the served context, and signal their
counter (R426 to R428, R430 to R432); IRQ raises vector b of the tenant when it is at most 31, once the thread's earlier
stores are performed, and waits until then (R434). -/
def Obligations.ControlOfOtherThreads : Prop :=
  OnTarget .suspend true (fun s c tgt m => suspendAll s c tgt m true) ∧
  OnTarget .resume true (fun s c tgt m => suspendAll s c tgt m false) ∧
  OnTarget (fun h a b => .killcrew h false a b) true killAll ∧
  (∀ h a b, Sys 1 (.killcrew h true a b) h [] (fun s ts => countable s h ts) fun s s' u =>
    signal (terminateCtx s' (served s u) 0) u h) ∧
  (∀ h a b c, Sys 1 (.dbgmb h a b c) h ((a, 2) :: b.regs 1 ++ [(c, 1)]) (counts h ((a, 2) :: b.regs 1 ++ [(c, 1)]))
    fun s s' u => dbgmbLane s' u h (served s u) (s.r64 u a).toNat (s.b32 u b) (s.r32 u c)) ∧
  (∀ h roll a, Sys 1 (.jrnl h roll a) h [(a, 2)] (counts h [(a, 2)]) fun s s' u =>
    signal (jrnlBillet s' (served s u) (s.r64 u a).toNat roll) u h) ∧
  (∀ h (hn : Fin 4) ofBillet a b, Sys 1 (.wdog h hn ofBillet a b) h [(a, 2), (b, 1)]
    (fun s ts => pure_ s ts [(a, 2), (b, 1)]) fun s s' u =>
      wdogGroup s' (served s u) (s.r64 u a).toNat hn.val ofBillet (s.r32 u b).toNat) ∧
  (∀ h a b, Sys 1 (.iinv h a b) h ((a, 2) :: b.regs 1)
    (fun s ts => counts h ((a, 2) :: b.regs 1) s ts && settledAt 5 s ts) fun s s' u =>
      signal (dropClauses s' (served s u) (s.r64 u a).toNat (s.b32 u b).toNat) u h) ∧
  (∀ h b, Sys 1 (.irq h b) h (b.regs 1) (fun s ts => counts h (b.regs 1) s ts && settledAt 5 s ts) fun s s' u =>
    signal (if (s.b32 u b).toNat ≤ 31 then s'.msix (served s u / 16) (s.b32 u b).toNat else s') u h) ∧
  ∀ h b s k x, Issuing s k x = true → x.clause.cls = .sys → Fits s x (b.regs 1) = true →
    settledAt 5 s (activeOf s x h) = false → exec (.irq h b) s = .next s

/-- TREC takes the record at the head of the trap ring, PERFR sends a count, and ERRINJ marks a location (R429, R435, R436); HALT
stops the firmware thread until a wake event, after which it goes on at the next clause, and raises PROT at P1 (R437). -/
def Obligations.RingCountersAndFirmware : Prop :=
  (∀ h pd d, Sys 1 (.trec h pd d) h [(d, 16)] (fun s ts => countable s h ts) fun s s' u =>
    let c := served s u
    let x := s'.ctx c
    if x.trapHead = x.trapTail then s'.addValue u h.dc.val (wrP pd.val false false)
    else
      let bs := headRecord s' c
      let ws := (List.range 15).map fun j => BitVec.ofNat 32 (ofBytes ((bs.drop (4 * j)).take 4))
      setTrapHead (s'.addValue u h.dc.val (wrN d (ws ++ [BitVec.ofNat 32 (x.trapHead.toNat % 1024)]) false ++ wrP pd.val true false))
        c (x.trapHead + 1 + BitVec.ofNat 32 (ofBytes ((bs.drop 44).take 4) / 64))) ∧
  (∀ h d b s k x, Issuing s k x = true → x.clause.cls = .sys → Fits s x (b.regs 1 ++ [(d, 2)]) = true →
    CanCount s x h = true → Privileged s x h 1 = true → pure_ s (activeOf s x h) (b.regs 1) = true →
    ∃ t, exec (.perfr h d b) s = .next t ∧
      Sent s t k x h fun u => wr64 d (perfCount s (served s u) (coreOf u) (s.b32 u b).toNat) false) ∧
  (∀ h a b, Sys 0 (.errinj h a b) h [(a, 2), (b, 1)] (counts h [(a, 2), (b, 1)]) fun s s' u =>
    signal (injectError s' (s.r64 u a).toNat (s.r32 u b)) u h) ∧
  (∀ h, Does (.halt h) h sysCls [] (fun s _ ts => ts.all fun u => (s.crew (crewOf u)).priv == 0)
    fun s x ts => each (fun s' u => block s' u x.widx .halt) s ts) ∧
  (∀ h s b x, Issuing s b x = true → x.clause.cls = .sys → (∀ u ∈ activeOf s x h, (s.crew (crewOf u)).priv = 1) →
    activeOf s x h ≠ [] → exec (.halt h) s = .next (finishWord b x
      { s := s, traps := (activeOf s x h).map fun u => (u, { trap := .prot, cause := 0x40, detail := 3 }) })) ∧
  ∀ s, (s.blockedBy fun w => w == .halt) ≠ [] →
    exec .firmwareWake s = .next (each (fun s' t => release s' t []) s (s.blockedBy fun w => w == .halt)) ∧
    ∀ t, (s.thr t).stepping = false → ((release s t []).thr t).pc = (s.thr t).nextPc ∧ ((release s t []).thr t).widx = 0 ∧
      ((release s t []).thr t).status = .ready

/-- BARTIME breaks the barrier under its waiting threads; a WAITV or a SLEEP ends in time; a fence ends when its thread's
earlier accesses have reached what it asks (R280); and an operation whose result is there lands (R34, R170, R218, R220). -/
def Obligations.SynchronisationEvents : Prop :=
  (∀ g x, Happens (.bartime g) (fun s => s.group? g = some x ∧ x.first.isSome ∧ x.broken = false ∧ x.pausedAt = none ∧
    x.timeout ≤ x.elapsed s.time) fun s => breakGroup (raise s (bartimeTraps s g x)) g) ∧
  (∀ t all ds t0 tmo dl dst w s, (s.thr t).status = .blocked (.waitv all ds t0 tmo dl dst) →
    waitvTest s t all ds t0 tmo dl = some w →
    exec (.waitvTimeout t) s = .next (release s t (wr32 dst w false)) ∧
    exec (.waitvDeadline t) s = .next (release s t (wr32 dst w false))) ∧
  (∀ t til, Happens (.sleepWake t) (fun s => (s.thr t).status = .blocked (.sleep til) ∧ til ≤ s.time) fun s => release s t []) ∧
  (∀ id p o sc strict snap, Happens (.fenceComplete id) (fun s => s.pend? id = some p ∧ p.id = id ∧
    p.op = .fence o sc strict snap ∧ p.done = false ∧ (∀ q ∈ earlier s p, q.done = true ∨ q.op.isFence = false) ∧
    (o.releases = true → ∀ q ∈ earlier s p, q.visible sc.level = true ∨ (q.op.leaves = false ∧ q.op.isRmw = false)) ∧
    (o.acquires = true → (∀ q ∈ earlier s p, q.done = true ∨ (q.op.isLoad = false ∧ q.op.isRmw = false)) ∧
      s.sees p.tid ((fenceHeads s p.tid p.id sc.level o).flatMap RelHead.owed) = true))
    fun s => landOp ((fenceEffect s p o sc).finish id []) id) ∧
  (∀ id p, Happens (.varlatLand id) (fun s => s.pend? id = some p ∧ p.done = true ∧ landable s p = true) fun s => landOp s id) ∧
  ∀ id p s s', s.pend? id = some p → p.done = false → errorFor s p = none → ready s p = true → performLocal s p = some s' →
    let t : State := { s' with scratchWait := s'.scratchWait.filter fun e => e.2 != id }
    (t.pend? id = none → exec (.varlatLand id) s = .next (completeAll t)) ∧
    ∀ q, t.pend? id = some q → exec (.varlatLand id) s = .next (if landable t q = true then landOp t id else t)

/-- How threads fetch and bundles form: the clauses of FetchEvents and SchedulingEvents (R51, R53, R156, R157, R160, R334, R404). -/
def Obligations.FetchAndScheduling : Prop := FetchEvents ∧ SchedulingEvents

/-- The events of gangs, of the anvil and of held surface blocks (R180, R181, R303, R315, R327, R345, R348, R352). -/
def Obligations.GangAnvilAndHeldBlocks : Prop := GangAndAnvilEvents ∧ HeldBlockEvents

/-- The first traversal command of a cluster runs or fails with the lowest code; each ray or tile that is done is counted at
the stage; a tile that has waited on a pool for 100,000 ticks raises TRAVFAULT (R356, R358, R364, R368, R371). -/
def Obligations.TraversalEvents : Prop :=
  (∀ id c s, TravHead s id c → c.kind = 2 →
    (∀ n, travChecks s (travAimed s c) false false = some n → exec (.ray id) s = .next (failTrav s (travAimed s c) n)) ∧
    (travChecks s (travAimed s c) false false = none → TravRuns (.ray id) s (travAimed s c))) ∧
  (∀ id c x s, TravHead s id c → c.kind = 1 → beamSurf s c = .ok x →
    let bad := x.fmt.code != 10 || descFrozen x.desc || marked s c.ctx c.surface
    (∀ n, travChecks s (travAimed s c) bad false = some n → exec (.beam id) s = .next (failTrav s (travAimed s c) n)) ∧
    (travChecks s (travAimed s c) bad false = none → TravRuns (.beam id) s (travAimed s c))) ∧
  (∀ id c a page n, Happens (.beam id) (fun s => TravHead s id c ∧ c.kind = 1 ∧ beamSurf s c = .error (.prot a page) ∧
    travChecks s (travAimed s c) (!page) page = some n) fun s => failTrav s (travAimed s c) n) ∧
  (∀ id c va h, Happens (.beam id) (fun s => TravHead s id c ∧ c.kind = 1 ∧ beamSurf s c = .error (.fault va h) ∧
    travChecks s (travAimed s c) false false = none)
    fun s => { parkTrav s (travAimed s c) va 7 none with fresh := s.fresh + 1 }) ∧
  (∀ c j read rd t t' u v s, TravItem s c j → takeLines s c (itemPages s c j) [] = .yes t → runItem t c j = (.ok read, t') →
    fetchLines t c (itemReads t c j read) = .yes u → runItem u c j = (.ok rd, v) →
    let c' : Command := { c with done := c.done ++ [j] }
    let left := (openItems c').flatMap (itemPages v c')
    let w := endTrav (accountStage (v.updEngine c.id fun x => { x with
      done := c'.done,
      owned := x.owned.filter fun l =>
        !((itemPages v c j).filter fun l => !left.contains l).any fun g => (Space.global, g.1) == l,
      stuck := x.stuck.filter fun y => y.1 != j }) c c.travStage (if c.beam then 512 else 32)) c.id
    exec (.travItemComplete c.id j) s = .next { w with fresh := w.fresh + 1 }) ∧
  ∀ id c j t0, Happens (.travfaultPoolTimeout id) (fun s => (s.trav.find? fun x => x.id == id) = some c ∧
      c.stuck = some (j, t0) ∧ t0 + 100000 ≤ s.time ∧ c.raised = false)
    fun s => asyncTrap (s.updEngine id fun x => { x with raised := true }) c.ctx
      { trap := .travfault, addr := c.nodeBase, detail := 0x0A } c.core

/-- Packets become workpieces and sets are placed, saved and restored (R185 to R195, R408, R410). -/
def Obligations.LaunchAndPlacement : Prop := LaunchEvents ∧ SaveAndRestore

/-- Homes serve requests, and an MCAS takes its locks one by one (R238 to R245, R265, R278). -/
def Obligations.HomeRequestsAndMcas : Prop := HomeRequests ∧ McasEvents

/-- Probes are answered or time out, and leases run out or move their base (R238 to R246). -/
def Obligations.ProbesAndLeases : Prop := ProbeEvents ∧ LeaseEvents

/-- A ladle command is taken, checked and started, and its sectors move (R284 to R298). -/
def Obligations.LadleEvents : Prop := LadleCommands ∧ LadleSector

/-- Writes of a tenant's launch and ring registers (R184, R185, R198, R395 to R400, R466). -/
def Obligations.WindowWrites : Prop := LaunchRegisterWrites ∧ RingWrites

/-- Errors, checkpoints, assays and rebuilds (R411 to R419). -/
def Obligations.ErrorsAndRecovery : Prop := ErrorEvents ∧ RecoveryEvents

/-- Requests, answers, probes and promotions between the part and drawers (R261, R451 to R461). -/
def Obligations.LinkTraffic : Prop := DrawerTraffic ∧ Promotion

/-- Ports train, retrain and swap tables; domain time and the domain's members change (R449, R453 to R459). -/
def Obligations.PortsAndDomainTime : Prop := PortEvents ∧ DomainTimeAndMembers

/-- The host's other registers and a function-level reset (R463 to R470). -/
def Obligations.HostRegisters : Prop := HostRegisterEvents ∧ FunctionReset

/-- Bring-up, D3hot, D0, thermal events, attestation; and words of no instruction (R67, R471 to R474). -/
def Obligations.PowerAndUnallocated : Prop := PowerEvents ∧ UnallocatedOpcodes

/-- The words that the spec writes out are the instructions that it says they are. -/
def Obligations.SpecWordsDecode : Prop := ∀ e ∈ specWords, decode e.1 = .ok e.2

/-- Every well-formed word is read back from its encoding, with every operand (R54 to R66). -/
def Obligations.DecodeOfEncode : Prop := ∀ i : Instr, i.isWord = true → i.wf → encode i < 2 ^ 64 ∧ decode (encode i) = .ok i

/-- A step runs the instruction that the next word of the bundle decodes to, or the event that is its turn; a word that does
not decode raises the trap of R78 in the threads of its bundle. -/
def Obligations.StepRunsDecoded : Prop :=
  (∀ s b rest x i, s.agenda = .issue b :: rest → s.bundles.get? b = some x → decode x.word = .ok i →
    step s = exec i { s with agenda := rest, cur := some b }) ∧
  (∀ s b x i, s.agenda = [] → s.firstBundle = some b → s.bundles.get? b = some x → decode x.word = .ok i →
    step s = exec i { s with cur := some b }) ∧
  (∀ s i rest, s.agenda = .act i :: rest → i.isWord = false →
    step s = afterEvent s.time (exec i { s with agenda := rest, cur := none })) ∧
  (∀ s n rest, s.agenda = .pass n :: rest → step s = .next (passTime n { s with agenda := rest })) ∧
  ∀ s b rest x e, s.agenda = .issue b :: rest → s.bundles.get? b = some x → decode x.word = .error e →
    (∀ t ∈ x.tids, openFence s t = false ∧ strictOpen s t = false) →
    step s = .next (trapBundle { s with agenda := rest } b x (match e with
      | .dc7 => { trap := .malformed, cause := 0x04 }
      | .unallocated => { trap := .undef, cause := 0x20 }
      | .bimm => { trap := .malformed, cause := 0x08 }
      | .reserved => { trap := .malformed, cause := 0x05 }
      | .code => { trap := .malformed, cause := 0x06 }
      | .regKind => { trap := .malformed, cause := 0x07 }
      | .pushQueue => { trap := .undef, cause := 0x21 }))

/-- After reset every memory of the part is in canonical form. -/
def Obligations.MemoriesCanonicalAtReset : Prop := State.reset.memOk = true

/-- Every step keeps every memory in canonical form, from any state. -/
def Obligations.MemoriesStayCanonical : Prop := Keeps fun s => s.memOk = true

/-- CREATE on a free slot makes a live context whose registers hold their reset values: LEASE 256, the others 0 (R440); after
reset no context is live, no thread exists and nothing is in flight. -/
def Obligations.ResetAndCreation : Prop :=
  (∀ f k s, Window s f → k < 16 → (s.ctx (f * 16 + k)).live = false → (s.ctx (f * 16 + k)).busy = false →
    ∃ t, exec (.ctxcmdCreate f k) s = .next t ∧ (t.ctx (f * 16 + k)).live = true ∧ readCtxReg t (f * 16 + k) 0x08 = 256 ∧
      (∀ n, n ∈ [0x01, 0x02, 0x03, 0x04, 0x05, 0x06, 0x07, 0x09, 0x0A, 0x0B, 0x0C, 0x10, 0x11, 0x12, 0x13, 0x14, 0x15, 0x16, 0x17,
        0x18, 0x19, 0x1A] → readCtxReg t (f * 16 + k) n = 0) ∧
      ∀ c, c ≠ f * 16 + k → t.ctx c = s.ctx c) ∧
  (∀ c, (State.reset.ctx c).live = false) ∧ State.reset.threads = [] ∧ State.reset.pend = [] ∧ State.reset.ready = false ∧
  State.reset.time = 0

/-- A transfer checks its target: one that is not canonical raises PROT, one from a register that is not aligned raises ALIGN,
with no effect; any other is taken (R144). -/
def Obligations.TransferChecks : Prop :=
  (∀ h wofs, Transfers (.bra h wofs) h [] false (fun _ x _ => branchTo x wofs) (fun _ _ => true)
    fun _ x => goes (branchTo x wofs)) ∧
  (∀ h a, Transfers (.brx h a) h [(a, 2)] true (fun s _ u => s.r64 u a) (fun s u => !s.isPoisoned u [(a, 2)])
    fun s _ s' u => goes (s.r64 u a) s' u) ∧
  (∀ h wofs, Transfers (.call h wofs) h [] false (fun _ x _ => branchTo x wofs) roomToCall
    fun _ x => calls x (branchTo x wofs)) ∧
  (∀ h a, Transfers (.callx h a) h [(a, 2)] true (fun s _ u => s.r64 u a)
    (fun s u => !s.isPoisoned u [(a, 2)] && roomToCall s u) fun s x s' u => calls x (s.r64 u a) s' u) ∧
  ∀ h a wofs s b x, Issuing s b x = true → Fits s x [(a, 1)] = true →
    ((activeOf s x h).all fun u => !s.isPoisoned u [(a, 1)] && s.r32 u a != 1) = true →
    let ts := activeOf s x h
    exec (.dbnz h a wofs) s = .next (finishWord b x (match transferTrap (branchTo x wofs) false with
      | none =>
        let counted := each (fun s' u => s'.putRegs u (keepS ts u (wr32 a (s.r32 u a - 1) false))) s ts
        { s := each (goes (branchTo x wofs)) counted ts }
      | some i => { s := s, traps := ts.map fun u => (u, i) }))

/-- A word that its clause's class does not allow raises CLASS, one that reaches the budget BUDGET (R29,
R53, R78); a trapped thread stands at its word with its record posted (R403), and goes on there or
at the word after (R424). -/
def Obligations.TrapsAndResumption : Prop :=
  (∀ h m d a b, Misplaced (.faddF32 h m d a b) vecCls) ∧ (∀ h w d a b, Misplaced (.sldP h w d a b) vecCls) ∧
  (∀ h acc w, Misplaced (.mzero h acc w) mtxCls) ∧ (∀ h d r, Misplaced (.sysr h d r) sysCls) ∧ (∀ h, Misplaced (.halt h) sysCls) ∧
  (∀ h src pd, Misplaced (.push h 0 src pd) fun c => c == .cpy) ∧
  (∀ h (q : Fin 3) src pd, q ≠ 0 → Misplaced (.push h q src pd) fun c => c == .vec || c == .cpy) ∧
  (∀ h d a b s k x, Issuing s k x = true → Fits s x ((d, 1) :: (a, 1) :: b.regs 1) = false →
    exec (.addB32 h d a b) s = .next (trapBundle s k x { trap := .budget, cause := 0x30 })) ∧
  (∀ s t i, (s.threads.get? t).isSome → coreOf t ≠ hubCore → slotOf t ≠ handlerSlot → i.trap ≠ .uecc →
    (s.ctx (s.ctxOf (crewOf t))).handler ≠ 0 →
    let u := postToHandler (stopped s t i) (s.ctxOf (crewOf t)) (trapRecord (stopped s t i) t i) i.trap.code
    (u.ctx (u.ctxOf (crewOf t))).handler ≠ 0 → takeTraps s [(t, i)] = u) ∧
  (∀ s t i, (s.threads.get? t).isSome → ((stopped s t i).thr t).status = .trapped i ∧
    ((stopped s t i).thr t).pc = (s.thr t).pc ∧ ((stopped s t i).thr t).widx = (s.thr t).widx ∧
    ∀ b x, (stopped s t i).bundles.get? b = some x → t ∉ x.tids) ∧
  ∀ s t i next st, (s.thr t).trap? = some i → (s.thr t).pcWritten = false →
    ∃ y, resumeThread s t next st = evalJoin (s.setThr t y) (crewOf t) ∧ y.status = .ready ∧ y.stepping = st ∧
      y.drain = (!next || y.widx != 0) ∧
      (y.pc, y.widx) = (if next then (s.thr t).afterWord else ((s.thr t).pc, (s.thr t).widx)) ∧ y.v = (s.thr t).v ∧ y.p = (s.thr t).p

/-- What each matrix instruction does to the accumulator memory, register and scratchpad when the anvil reaches it: MZERO,
MCOPY, MLOAD, MSCL, MADDC and MMA give each element of their region its value and touch no other byte; MDRAIN and MSTAT only
deliver registers; MSTORE keeps what it has read of them, its operations are then
done, and its tile is written, and no other byte of the scratchpad, as it completes (R309, R312, R317, R318, R329 to R333). -/
def Obligations.MatrixEffects : Prop :=
  ∀ s o, s.memOk = true → atWork s o →
    (∀ acc w, o.op = .mzero acc w → Computes acc (fun _ _ _ _ => 0) s o) ∧
    (∀ acc src w, o.op = .mcopy acc src w → Computes acc (fun s o m n => element s o.core src o.op.z m n) s o) ∧
    (∀ d acc w, o.op = .mload d acc w → Computes acc (fun s o m n => ofBytes (Memory.readBytes (raceView s).scratch
      (o.offD + canonElem o.gang.length o.op.z m n) o.op.z)) s o) ∧
    (∀ vs acc w, o.op = .mscl vs acc w → Computes acc (fun s o m n => (accF o.op.z).round .rne false
      (FVal.mul ((accF o.op.z).decode (element s o.core acc o.op.z m n))
        (FFmt.f32.decode (o.rowVals.getD (64 * (m / 64) + m % 64) 0x3F800000).toNat))) s o) ∧
    (∀ vt acc w, o.op = .maddc vt acc w → Computes acc (fun s o m n => (accF o.op.z).round .rne false
      (FVal.add .rne ((accF o.op.z).decode (element s o.core acc o.op.z m n))
        (FFmt.f32.decode (o.colVals.getD n 0x80000000).toNat))) s o) ∧
    (∀ t sa sb vs vt acc zs sh rel, o.op = .mma t sa sb vs vt acc zs sh rel → o.stage = none →
      Computes acc (fun s o m n => mmaElem (raceView s) o t acc zs sh m n) s o) ∧
    (∀ t sa sb vs vt acc zs sh rel a, o.op = .mma t sa sb vs vt acc zs sh rel → o.stage = some a →
      ∃ u, Computed acc (fun s o m n => mmaElem (raceView s) o t acc zs sh m n) s o u ∧ u.scratch = s.scratch ∧
        applyOp s o = (stageUpdate (u.journal o.billet (.scratch (a / 128))) a .arrive).updAnvil o.id fun x =>
          { x with read := true }) ∧
    (∀ k d acc cg, o.op = .mdrain k d acc cg → (applyOp s o).acc = s.acc ∧ ∀ p ∈ s.pend, p.op = .unit o.id →
      { p with done := false, writes := drainWrites s o (memberOf o p.tid) (laneOf p.tid) } ∈ (applyOp s o).pend) ∧
    (∀ d acc w, o.op = .mstat d acc w → (applyOp s o).acc = s.acc ∧ ∀ p ∈ s.pend, p.op = .unit o.id →
      { p with done := false, writes := drainWrites s o (memberOf o p.tid) (laneOf p.tid) } ∈ (applyOp s o).pend) ∧
    (∀ d st acc w, o.op = .mstore d st acc w → (applyOp s o).acc = s.acc ∧ (applyOp s o).mem = s.mem ∧
      (applyOp s o).scratch = s.scratch ∧ (∀ p ∈ s.pend, p.op = .unit o.id → ∃ q ∈ (applyOp s o).pend, q.id = p.id ∧ q.done = true) ∧
      ∀ x ∈ s.anvil, x.id = o.id → ∃ y ∈ (applyOp s o).anvil, y.id = o.id ∧ y.read = true ∧ y.data =
        (List.range (64 * o.gang.length)).flatMap fun m => (List.range 128).map fun n => element s o.core acc o.op.z m n) ∧
    ∀ d st acc w, o.op = .mstore d st acc w → o.stage = none →
      (∀ m n, m < 64 * o.gang.length → n < 128 → ofBytes (Memory.readBytes (storeTile s o).scratch
        (o.offD + canonElem o.gang.length o.op.z m n) o.op.z) = o.data.getD (128 * m + n) 0 % 2 ^ (8 * o.op.z)) ∧
      ∀ a, (a < o.offD ∨ o.offD + 64 * o.gang.length * 128 * o.op.z ≤ a) →
        Memory.read (storeTile s o).scratch a = Memory.read s.scratch a

/-- An operation that lands gives its registers what it delivers, and no other register changes (R34, R35, for an operation
whose registers no other has written meanwhile). -/
def Obligations.LandingWrites : Prop :=
  ∀ s p, p.op = .value → p.contested = [] → (∀ u g, (∀ n, g = .p n → n < 7) →
    (landWrites s p).stored u g =
      (if hasTarget p.tid u g = true then lastTo p.writes g else none).getD (s.stored u g)) ∧
    (landWrites s p).mem = s.mem ∧ (landWrites s p).scratch = s.scratch ∧ (landWrites s p).bundles = s.bundles
end

