-- ==== Sys2Proof/Laws/Maps.lean ====
section
/-!
SUPPORT. Lemmas about sparse maps and the canonical byte memories: reading after a write, and that a write keeps the form.
-/
namespace Sys2Proof.Machine

-- One theorem at a time: elaborating them side by side costs a thread stack each, and the text compiles under a memory limit.
set_option Elab.async false

theorem Map.get?_set_self {α : Type} (m : Map α) (k : Nat) (a : α) : Map.get? (Map.set m k a) k = some a := by
  induction m with
  | nil => simp [Map.set, Map.get?]
  | cons e t ih =>
    obtain ⟨k', b⟩ := e
    unfold Map.set
    split
    · simp [Map.get?]
    · split
      · simp [Map.get?]
      · simp [Map.get?, *]

theorem Map.get?_set_ne {α : Type} (m : Map α) {k j : Nat} (a : α) (h : j ≠ k) :
    Map.get? (Map.set m k a) j = Map.get? m j := by
  induction m with
  | nil => simp [Map.set, Map.get?, h.symm]
  | cons e t ih =>
    obtain ⟨k', b⟩ := e
    unfold Map.set
    split
    · rename_i hk; subst hk; simp [Map.get?, h.symm]
    · split
      · simp [Map.get?, h.symm]
      · simp [Map.get?, ih]

theorem Map.get?_set {α : Type} (m : Map α) (k j : Nat) (a : α) :
    Map.get? (Map.set m k a) j = if j = k then some a else Map.get? m j := by
  split
  · rename_i h; subst h; exact Map.get?_set_self ..
  · rename_i h; exact Map.get?_set_ne _ _ h

theorem Map.get?_del_self {α : Type} (m : Map α) (k : Nat) : Map.get? (Map.del m k) k = none := by
  induction m with
  | nil => rfl
  | cons e t ih =>
    obtain ⟨k', b⟩ := e
    unfold Map.del at *
    by_cases h : k' = k
    · simp [h, ih]
    · simp [h, Map.get?, ih]

theorem Map.get?_del_ne {α : Type} (m : Map α) {k j : Nat} (h : j ≠ k) : Map.get? (Map.del m k) j = Map.get? m j := by
  induction m with
  | nil => rfl
  | cons e t ih =>
    obtain ⟨k', b⟩ := e
    unfold Map.del at *
    by_cases hk : k' = k
    · subst hk; simp [Map.get?, h.symm, ih]
    · simp [hk, Map.get?, ih]

/-- A map over the values keeps the keys. -/
theorem Map.get?_map {α β : Type} (m : Map α) (f : α → β) (j : Nat) :
    Map.get? (List.map (fun e => (e.1, f e.2)) m : Map β) j = (Map.get? m j).map f := by
  induction m with
  | nil => rfl
  | cons e t ih =>
    obtain ⟨k', b⟩ := e
    by_cases h : k' = j <;> simp [Map.get?, h, ih]

/-! Memories. -/

theorem Memory.wfFrom_mono {lo lo' : Nat} {m : List Host.Cell} (h : Memory.wfFrom lo m = true) (hl : lo' ≤ lo) :
    Memory.wfFrom lo' m = true := by
  cases m with
  | nil => rfl
  | cons e t =>
    obtain ⟨k, c⟩ := e
    simp only [Memory.wfFrom, Bool.and_eq_true, decide_eq_true_eq] at h ⊢
    exact ⟨⟨hl.trans h.1.1, h.1.2⟩, h.2⟩

theorem Memory.wfFrom_write {m : List Host.Cell} {lo a : Nat} (b : Byte) (h : Memory.wfFrom lo m = true) (ha : lo ≤ a) :
    Memory.wfFrom lo (Memory.write m a b) = true := by
  induction m generalizing lo with
  | nil =>
    unfold Memory.write
    split
    · rfl
    · simp_all [Memory.wfFrom]
  | cons e t ih =>
    obtain ⟨k, c⟩ := e
    simp [Memory.wfFrom] at h
    obtain ⟨⟨h1, h2⟩, h3⟩ := h
    unfold Memory.write
    split
    · rename_i hk; subst hk
      split
      · exact Memory.wfFrom_mono h3 (by omega)
      · simp_all [Memory.wfFrom]
    · split
      · split
        · simp [Memory.wfFrom, h1, h2, h3]
        · simp_all [Memory.wfFrom]
      · have := ih h3 (by omega)
        simp [Memory.wfFrom, h1, h2, this]

/-- A write of one byte keeps the canonical form. -/
theorem Memory.wf_write {m : List Host.Cell} (a : Nat) (b : Byte) (h : Memory.wf m = true) :
    Memory.wf (Memory.write m a b) = true := Memory.wfFrom_write b h (Nat.zero_le _)

/-- A write of several bytes keeps the canonical form. -/
theorem Memory.wf_writeBytes {m : List Host.Cell} (a : Nat) (bs : List Byte) (h : Memory.wf m = true) :
    Memory.wf (Memory.writeBytes m a bs) = true := by
  induction bs generalizing m a with
  | nil => exact h
  | cons b t ih => exact ih _ (Memory.wf_write a b h)

theorem Memory.read_eq_zero_of_lt {m : List Host.Cell} {lo a : Nat} (h : Memory.wfFrom lo m = true) (ha : a < lo) :
    Memory.read m a = 0 := by
  induction m generalizing lo with
  | nil => rfl
  | cons e t ih =>
    obtain ⟨k, c⟩ := e
    simp [Memory.wfFrom] at h
    unfold Memory.read
    split
    · omega
    · exact ih h.2 (by omega)

theorem Memory.read_write_from {m : List Host.Cell} {lo : Nat} (a a' : Nat) (b : Byte) (h : Memory.wfFrom lo m = true) :
    Memory.read (Memory.write m a b) a' = if a' = a then b else Memory.read m a' := by
  induction m generalizing lo with
  | nil =>
    unfold Memory.write
    by_cases hb : b = 0#8
    · simp [hb, Memory.read]
    · by_cases ha : a = a'
      · simp [hb, Memory.read, ha]
      · simp [hb, Memory.read, ha, Ne.symm ha]
  | cons e t ih =>
    obtain ⟨k, c⟩ := e
    simp [Memory.wfFrom] at h
    obtain ⟨⟨h1, h2⟩, h3⟩ := h
    unfold Memory.write
    split
    · rename_i hk; subst hk
      by_cases hb : b = 0#8
      · by_cases ha : a' = k
        · subst ha; simp [hb, Memory.read_eq_zero_of_lt h3 (Nat.lt_succ_self _)]
        · simp [hb, ha, Memory.read, Ne.symm ha]
      · by_cases ha : a' = k
        · simp [hb, ha, Memory.read]
        · simp [hb, ha, Memory.read, Ne.symm ha]
    · rename_i hk
      split
      · rename_i hl
        by_cases hb : b = 0#8
        · by_cases ha : a' = a
          · subst ha
            have : Memory.read t a' = 0 := Memory.read_eq_zero_of_lt h3 (by omega)
            simp [hb, Memory.read, hk, this]
          · simp [hb, ha]
        · by_cases ha : a' = a
          · simp [hb, ha, Memory.read]
          · simp [hb, ha, Memory.read, Ne.symm ha]
      · by_cases ha : a' = k
        · subst ha; simp [Memory.read, hk]
        · simp [Memory.read, Ne.symm ha, ih h3]

/-- Reading after a write: the byte written at its address, every other byte as before. -/
theorem Memory.read_write {m : List Host.Cell} (a a' : Nat) (b : Byte) (h : Memory.wf m = true) :
    Memory.read (Memory.write m a b) a' = if a' = a then b else Memory.read m a' := Memory.read_write_from a a' b h

/-- A write of several bytes leaves every other byte. -/
theorem Memory.read_writeBytes_out {m : List Host.Cell} (a a' : Nat) (bs : List Byte) (h : Memory.wf m = true)
    (ha : a' < a ∨ a + bs.length ≤ a') : Memory.read (Memory.writeBytes m a bs) a' = Memory.read m a' := by
  induction bs generalizing m a with
  | nil => rfl
  | cons b t ih =>
    simp at ha
    unfold Memory.writeBytes
    rw [ih _ (Memory.wf_write a b h) (by omega), Memory.read_write _ _ _ h, if_neg (by omega)]

/-- A write of several bytes gives them back. -/
theorem Memory.read_writeBytes_in {m : List Host.Cell} (a i : Nat) (bs : List Byte) (h : Memory.wf m = true)
    (hi : i < bs.length) : Memory.read (Memory.writeBytes m a bs) (a + i) = bs.getD i 0 := by
  induction bs generalizing m a i with
  | nil => simp at hi
  | cons b t ih =>
    unfold Memory.writeBytes
    cases i with
    | zero =>
      rw [Memory.read_writeBytes_out _ _ _ (Memory.wf_write a b h) (by omega), Memory.read_write _ _ _ h]
      simp
    | succ j =>
      have := ih (m := Memory.write m a b) (a + 1) j (Memory.wf_write a b h) (by simpa using hi)
      rw [show a + (j + 1) = a + 1 + j by omega, this]
      simp

end Sys2Proof.Machine
end

