-- ==== Sys2Proof/Laws/State.lean ====
section
/-!
SUPPORT. What the plain updates of State leave: one lemma for every field an update does not touch.
-/
namespace Sys2Proof.Machine

-- One theorem at a time: elaborating them side by side costs a thread stack each, and the text compiles under a memory limit.
set_option Elab.async false

@[simp] theorem State.setThr_agenda (s : State) (t : Nat) (x : Thread) : (s.setThr t x).agenda = s.agenda := rfl
@[simp] theorem State.setThr_fresh (s : State) (t : Nat) (x : Thread) : (s.setThr t x).fresh = s.fresh := rfl
@[simp] theorem State.setThr_cur (s : State) (t : Nat) (x : Thread) : (s.setThr t x).cur = s.cur := rfl
@[simp] theorem State.setThr_pend (s : State) (t : Nat) (x : Thread) : (s.setThr t x).pend = s.pend := rfl
@[simp] theorem State.setThr_seq (s : State) (t : Nat) (x : Thread) : (s.setThr t x).seq = s.seq := rfl
@[simp] theorem State.setThr_mem (s : State) (t : Nat) (x : Thread) : (s.setThr t x).mem = s.mem := rfl
@[simp] theorem State.setThr_scratch (s : State) (t : Nat) (x : Thread) : (s.setThr t x).scratch = s.scratch := rfl
@[simp] theorem State.setThr_acc (s : State) (t : Nat) (x : Thread) : (s.setThr t x).acc = s.acc := rfl
@[simp] theorem State.setThr_book (s : State) (t : Nat) (x : Thread) : (s.setThr t x).book = s.book := rfl
@[simp] theorem State.setThr_stale (s : State) (t : Nat) (x : Thread) : (s.setThr t x).stale = s.stale := rfl
@[simp] theorem State.setThr_crews (s : State) (t : Nat) (x : Thread) : (s.setThr t x).crews = s.crews := rfl
@[simp] theorem State.setThr_billets (s : State) (t : Nat) (x : Thread) : (s.setThr t x).billets = s.billets := rfl
@[simp] theorem State.setThr_bundles (s : State) (t : Nat) (x : Thread) : (s.setThr t x).bundles = s.bundles := rfl
@[simp] theorem State.setThr_cores (s : State) (t : Nat) (x : Thread) : (s.setThr t x).cores = s.cores := rfl
@[simp] theorem State.setThr_groups (s : State) (t : Nat) (x : Thread) : (s.setThr t x).groups = s.groups := rfl
@[simp] theorem State.setThr_wps (s : State) (t : Nat) (x : Thread) : (s.setThr t x).wps = s.wps := rfl
@[simp] theorem State.setThr_saved (s : State) (t : Nat) (x : Thread) : (s.setThr t x).saved = s.saved := rfl
@[simp] theorem State.setThr_objUse (s : State) (t : Nat) (x : Thread) : (s.setThr t x).objUse = s.objUse := rfl
@[simp] theorem State.setThr_icache (s : State) (t : Nat) (x : Thread) : (s.setThr t x).icache = s.icache := rfl
@[simp] theorem State.setThr_ladle (s : State) (t : Nat) (x : Thread) : (s.setThr t x).ladle = s.ladle := rfl
@[simp] theorem State.setThr_trav (s : State) (t : Nat) (x : Thread) : (s.setThr t x).trav = s.trav := rfl
@[simp] theorem State.setThr_anvil (s : State) (t : Nat) (x : Thread) : (s.setThr t x).anvil = s.anvil := rfl
@[simp] theorem State.setThr_surfs (s : State) (t : Nat) (x : Thread) : (s.setThr t x).surfs = s.surfs := rfl
@[simp] theorem State.setThr_descs (s : State) (t : Nat) (x : Thread) : (s.setThr t x).descs = s.descs := rfl
@[simp] theorem State.setThr_poolLow (s : State) (t : Nat) (x : Thread) : (s.setThr t x).poolLow = s.poolLow := rfl
@[simp] theorem State.setThr_encWait (s : State) (t : Nat) (x : Thread) : (s.setThr t x).encWait = s.encWait := rfl
@[simp] theorem State.setThr_frozen (s : State) (t : Nat) (x : Thread) : (s.setThr t x).frozen = s.frozen := rfl
@[simp] theorem State.setThr_homes (s : State) (t : Nat) (x : Thread) : (s.setThr t x).homes = s.homes := rfl
@[simp] theorem State.setThr_sliceBase (s : State) (t : Nat) (x : Thread) : (s.setThr t x).sliceBase = s.sliceBase := rfl
@[simp] theorem State.setThr_copies (s : State) (t : Nat) (x : Thread) : (s.setThr t x).copies = s.copies := rfl
@[simp] theorem State.setThr_probes (s : State) (t : Nat) (x : Thread) : (s.setThr t x).probes = s.probes := rfl
@[simp] theorem State.setThr_notes (s : State) (t : Nat) (x : Thread) : (s.setThr t x).notes = s.notes := rfl
@[simp] theorem State.setThr_know (s : State) (t : Nat) (x : Thread) : (s.setThr t x).know = s.know := rfl
@[simp] theorem State.setThr_reads (s : State) (t : Nat) (x : Thread) : (s.setThr t x).reads = s.reads := rfl
@[simp] theorem State.setThr_relFences (s : State) (t : Nat) (x : Thread) : (s.setThr t x).relFences = s.relFences := rfl
@[simp] theorem State.setThr_scs (s : State) (t : Nat) (x : Thread) : (s.setThr t x).scs = s.scs := rfl
@[simp] theorem State.setThr_carried (s : State) (t : Nat) (x : Thread) : (s.setThr t x).carried = s.carried := rfl
@[simp] theorem State.setThr_scratchWait (s : State) (t : Nat) (x : Thread) : (s.setThr t x).scratchWait = s.scratchWait := rfl
@[simp] theorem State.setThr_counts (s : State) (t : Nat) (x : Thread) : (s.setThr t x).counts = s.counts := rfl
@[simp] theorem State.setThr_errors (s : State) (t : Nat) (x : Thread) : (s.setThr t x).errors = s.errors := rfl
@[simp] theorem State.setThr_errLog (s : State) (t : Nat) (x : Thread) : (s.setThr t x).errLog = s.errLog := rfl
@[simp] theorem State.setThr_ctxs (s : State) (t : Nat) (x : Thread) : (s.setThr t x).ctxs = s.ctxs := rfl
@[simp] theorem State.setThr_tenants (s : State) (t : Nat) (x : Thread) : (s.setThr t x).tenants = s.tenants := rfl
@[simp] theorem State.setThr_ctxSel (s : State) (t : Nat) (x : Thread) : (s.setThr t x).ctxSel = s.ctxSel := rfl
@[simp] theorem State.setThr_l2cfg (s : State) (t : Nat) (x : Thread) : (s.setThr t x).l2cfg = s.l2cfg := rfl
@[simp] theorem State.setThr_rngBase (s : State) (t : Nat) (x : Thread) : (s.setThr t x).rngBase = s.rngBase := rfl
@[simp] theorem State.setThr_rngLim (s : State) (t : Nat) (x : Thread) : (s.setThr t x).rngLim = s.rngLim := rfl
@[simp] theorem State.setThr_rngCtl (s : State) (t : Nat) (x : Thread) : (s.setThr t x).rngCtl = s.rngCtl := rfl
@[simp] theorem State.setThr_rngAcc (s : State) (t : Nat) (x : Thread) : (s.setThr t x).rngAcc = s.rngAcc := rfl
@[simp] theorem State.setThr_capCores (s : State) (t : Nat) (x : Thread) : (s.setThr t x).capCores = s.capCores := rfl
@[simp] theorem State.setThr_capSlices (s : State) (t : Nat) (x : Thread) : (s.setThr t x).capSlices = s.capSlices := rfl
@[simp] theorem State.setThr_capChan (s : State) (t : Nat) (x : Thread) : (s.setThr t x).capChan = s.capChan := rfl
@[simp] theorem State.setThr_capWaves (s : State) (t : Nat) (x : Thread) : (s.setThr t x).capWaves = s.capWaves := rfl
@[simp] theorem State.setThr_drwSize (s : State) (t : Nat) (x : Thread) : (s.setThr t x).drwSize = s.drwSize := rfl
@[simp] theorem State.setThr_slotTab (s : State) (t : Nat) (x : Thread) : (s.setThr t x).slotTab = s.slotTab := rfl
@[simp] theorem State.setThr_slotShadow (s : State) (t : Nat) (x : Thread) : (s.setThr t x).slotShadow = s.slotShadow := rfl
@[simp] theorem State.setThr_ports (s : State) (t : Nat) (x : Thread) : (s.setThr t x).ports = s.ports := rfl
@[simp] theorem State.setThr_sliceMap (s : State) (t : Nat) (x : Thread) : (s.setThr t x).sliceMap = s.sliceMap := rfl
@[simp] theorem State.setThr_retired (s : State) (t : Nat) (x : Thread) : (s.setThr t x).retired = s.retired := rfl
@[simp] theorem State.setThr_time (s : State) (t : Nat) (x : Thread) : (s.setThr t x).time = s.time := rfl
@[simp] theorem State.setThr_sub (s : State) (t : Nat) (x : Thread) : (s.setThr t x).sub = s.sub := rfl
@[simp] theorem State.setThr_hold (s : State) (t : Nat) (x : Thread) : (s.setThr t x).hold = s.hold := rfl
@[simp] theorem State.setThr_slewAt (s : State) (t : Nat) (x : Thread) : (s.setThr t x).slewAt = s.slewAt := rfl
@[simp] theorem State.setThr_refDrawer (s : State) (t : Nat) (x : Thread) : (s.setThr t x).refDrawer = s.refDrawer := rfl
@[simp] theorem State.setThr_ready (s : State) (t : Nat) (x : Thread) : (s.setThr t x).ready = s.ready := rfl
@[simp] theorem State.setThr_recovery (s : State) (t : Nat) (x : Thread) : (s.setThr t x).recovery = s.recovery := rfl
@[simp] theorem State.setThr_status (s : State) (t : Nat) (x : Thread) : (s.setThr t x).status = s.status := rfl
@[simp] theorem State.setThr_power (s : State) (t : Nat) (x : Thread) : (s.setThr t x).power = s.power := rfl
@[simp] theorem State.setThr_clockStep (s : State) (t : Nat) (x : Thread) : (s.setThr t x).clockStep = s.clockStep := rfl
@[simp] theorem State.setThr_module (s : State) (t : Nat) (x : Thread) : (s.setThr t x).module = s.module := rfl
@[simp] theorem State.setThr_measurement (s : State) (t : Nat) (x : Thread) : (s.setThr t x).measurement = s.measurement := rfl
@[simp] theorem State.setThr_attest (s : State) (t : Nat) (x : Thread) : (s.setThr t x).attest = s.attest := rfl
@[simp] theorem State.setThr_irqs (s : State) (t : Nat) (x : Thread) : (s.setThr t x).irqs = s.irqs := rfl
@[simp] theorem State.updThr_agenda (s : State) (t : Nat) (f : Thread → Thread) : (s.updThr t f).agenda = s.agenda := rfl
@[simp] theorem State.updThr_fresh (s : State) (t : Nat) (f : Thread → Thread) : (s.updThr t f).fresh = s.fresh := rfl
@[simp] theorem State.updThr_cur (s : State) (t : Nat) (f : Thread → Thread) : (s.updThr t f).cur = s.cur := rfl
@[simp] theorem State.updThr_pend (s : State) (t : Nat) (f : Thread → Thread) : (s.updThr t f).pend = s.pend := rfl
@[simp] theorem State.updThr_seq (s : State) (t : Nat) (f : Thread → Thread) : (s.updThr t f).seq = s.seq := rfl
@[simp] theorem State.updThr_mem (s : State) (t : Nat) (f : Thread → Thread) : (s.updThr t f).mem = s.mem := rfl
@[simp] theorem State.updThr_scratch (s : State) (t : Nat) (f : Thread → Thread) : (s.updThr t f).scratch = s.scratch := rfl
@[simp] theorem State.updThr_acc (s : State) (t : Nat) (f : Thread → Thread) : (s.updThr t f).acc = s.acc := rfl
@[simp] theorem State.updThr_book (s : State) (t : Nat) (f : Thread → Thread) : (s.updThr t f).book = s.book := rfl
@[simp] theorem State.updThr_stale (s : State) (t : Nat) (f : Thread → Thread) : (s.updThr t f).stale = s.stale := rfl
@[simp] theorem State.updThr_crews (s : State) (t : Nat) (f : Thread → Thread) : (s.updThr t f).crews = s.crews := rfl
@[simp] theorem State.updThr_billets (s : State) (t : Nat) (f : Thread → Thread) : (s.updThr t f).billets = s.billets := rfl
@[simp] theorem State.updThr_bundles (s : State) (t : Nat) (f : Thread → Thread) : (s.updThr t f).bundles = s.bundles := rfl
@[simp] theorem State.updThr_cores (s : State) (t : Nat) (f : Thread → Thread) : (s.updThr t f).cores = s.cores := rfl
@[simp] theorem State.updThr_groups (s : State) (t : Nat) (f : Thread → Thread) : (s.updThr t f).groups = s.groups := rfl
@[simp] theorem State.updThr_wps (s : State) (t : Nat) (f : Thread → Thread) : (s.updThr t f).wps = s.wps := rfl
@[simp] theorem State.updThr_saved (s : State) (t : Nat) (f : Thread → Thread) : (s.updThr t f).saved = s.saved := rfl
@[simp] theorem State.updThr_objUse (s : State) (t : Nat) (f : Thread → Thread) : (s.updThr t f).objUse = s.objUse := rfl
@[simp] theorem State.updThr_icache (s : State) (t : Nat) (f : Thread → Thread) : (s.updThr t f).icache = s.icache := rfl
@[simp] theorem State.updThr_ladle (s : State) (t : Nat) (f : Thread → Thread) : (s.updThr t f).ladle = s.ladle := rfl
@[simp] theorem State.updThr_trav (s : State) (t : Nat) (f : Thread → Thread) : (s.updThr t f).trav = s.trav := rfl
@[simp] theorem State.updThr_anvil (s : State) (t : Nat) (f : Thread → Thread) : (s.updThr t f).anvil = s.anvil := rfl
@[simp] theorem State.updThr_surfs (s : State) (t : Nat) (f : Thread → Thread) : (s.updThr t f).surfs = s.surfs := rfl
@[simp] theorem State.updThr_descs (s : State) (t : Nat) (f : Thread → Thread) : (s.updThr t f).descs = s.descs := rfl
@[simp] theorem State.updThr_poolLow (s : State) (t : Nat) (f : Thread → Thread) : (s.updThr t f).poolLow = s.poolLow := rfl
@[simp] theorem State.updThr_encWait (s : State) (t : Nat) (f : Thread → Thread) : (s.updThr t f).encWait = s.encWait := rfl
@[simp] theorem State.updThr_frozen (s : State) (t : Nat) (f : Thread → Thread) : (s.updThr t f).frozen = s.frozen := rfl
@[simp] theorem State.updThr_homes (s : State) (t : Nat) (f : Thread → Thread) : (s.updThr t f).homes = s.homes := rfl
@[simp] theorem State.updThr_sliceBase (s : State) (t : Nat) (f : Thread → Thread) : (s.updThr t f).sliceBase = s.sliceBase := rfl
@[simp] theorem State.updThr_copies (s : State) (t : Nat) (f : Thread → Thread) : (s.updThr t f).copies = s.copies := rfl
@[simp] theorem State.updThr_probes (s : State) (t : Nat) (f : Thread → Thread) : (s.updThr t f).probes = s.probes := rfl
@[simp] theorem State.updThr_notes (s : State) (t : Nat) (f : Thread → Thread) : (s.updThr t f).notes = s.notes := rfl
@[simp] theorem State.updThr_know (s : State) (t : Nat) (f : Thread → Thread) : (s.updThr t f).know = s.know := rfl
@[simp] theorem State.updThr_reads (s : State) (t : Nat) (f : Thread → Thread) : (s.updThr t f).reads = s.reads := rfl
@[simp] theorem State.updThr_relFences (s : State) (t : Nat) (f : Thread → Thread) : (s.updThr t f).relFences = s.relFences := rfl
@[simp] theorem State.updThr_scs (s : State) (t : Nat) (f : Thread → Thread) : (s.updThr t f).scs = s.scs := rfl
@[simp] theorem State.updThr_carried (s : State) (t : Nat) (f : Thread → Thread) : (s.updThr t f).carried = s.carried := rfl
@[simp] theorem State.updThr_scratchWait (s : State) (t : Nat) (f : Thread → Thread) : (s.updThr t f).scratchWait = s.scratchWait := rfl
@[simp] theorem State.updThr_counts (s : State) (t : Nat) (f : Thread → Thread) : (s.updThr t f).counts = s.counts := rfl
@[simp] theorem State.updThr_errors (s : State) (t : Nat) (f : Thread → Thread) : (s.updThr t f).errors = s.errors := rfl
@[simp] theorem State.updThr_errLog (s : State) (t : Nat) (f : Thread → Thread) : (s.updThr t f).errLog = s.errLog := rfl
@[simp] theorem State.updThr_ctxs (s : State) (t : Nat) (f : Thread → Thread) : (s.updThr t f).ctxs = s.ctxs := rfl
@[simp] theorem State.updThr_tenants (s : State) (t : Nat) (f : Thread → Thread) : (s.updThr t f).tenants = s.tenants := rfl
@[simp] theorem State.updThr_ctxSel (s : State) (t : Nat) (f : Thread → Thread) : (s.updThr t f).ctxSel = s.ctxSel := rfl
@[simp] theorem State.updThr_l2cfg (s : State) (t : Nat) (f : Thread → Thread) : (s.updThr t f).l2cfg = s.l2cfg := rfl
@[simp] theorem State.updThr_rngBase (s : State) (t : Nat) (f : Thread → Thread) : (s.updThr t f).rngBase = s.rngBase := rfl
@[simp] theorem State.updThr_rngLim (s : State) (t : Nat) (f : Thread → Thread) : (s.updThr t f).rngLim = s.rngLim := rfl
@[simp] theorem State.updThr_rngCtl (s : State) (t : Nat) (f : Thread → Thread) : (s.updThr t f).rngCtl = s.rngCtl := rfl
@[simp] theorem State.updThr_rngAcc (s : State) (t : Nat) (f : Thread → Thread) : (s.updThr t f).rngAcc = s.rngAcc := rfl
@[simp] theorem State.updThr_capCores (s : State) (t : Nat) (f : Thread → Thread) : (s.updThr t f).capCores = s.capCores := rfl
@[simp] theorem State.updThr_capSlices (s : State) (t : Nat) (f : Thread → Thread) : (s.updThr t f).capSlices = s.capSlices := rfl
@[simp] theorem State.updThr_capChan (s : State) (t : Nat) (f : Thread → Thread) : (s.updThr t f).capChan = s.capChan := rfl
@[simp] theorem State.updThr_capWaves (s : State) (t : Nat) (f : Thread → Thread) : (s.updThr t f).capWaves = s.capWaves := rfl
@[simp] theorem State.updThr_drwSize (s : State) (t : Nat) (f : Thread → Thread) : (s.updThr t f).drwSize = s.drwSize := rfl
@[simp] theorem State.updThr_slotTab (s : State) (t : Nat) (f : Thread → Thread) : (s.updThr t f).slotTab = s.slotTab := rfl
@[simp] theorem State.updThr_slotShadow (s : State) (t : Nat) (f : Thread → Thread) : (s.updThr t f).slotShadow = s.slotShadow := rfl
@[simp] theorem State.updThr_ports (s : State) (t : Nat) (f : Thread → Thread) : (s.updThr t f).ports = s.ports := rfl
@[simp] theorem State.updThr_sliceMap (s : State) (t : Nat) (f : Thread → Thread) : (s.updThr t f).sliceMap = s.sliceMap := rfl
@[simp] theorem State.updThr_retired (s : State) (t : Nat) (f : Thread → Thread) : (s.updThr t f).retired = s.retired := rfl
@[simp] theorem State.updThr_time (s : State) (t : Nat) (f : Thread → Thread) : (s.updThr t f).time = s.time := rfl
@[simp] theorem State.updThr_sub (s : State) (t : Nat) (f : Thread → Thread) : (s.updThr t f).sub = s.sub := rfl
@[simp] theorem State.updThr_hold (s : State) (t : Nat) (f : Thread → Thread) : (s.updThr t f).hold = s.hold := rfl
@[simp] theorem State.updThr_slewAt (s : State) (t : Nat) (f : Thread → Thread) : (s.updThr t f).slewAt = s.slewAt := rfl
@[simp] theorem State.updThr_refDrawer (s : State) (t : Nat) (f : Thread → Thread) : (s.updThr t f).refDrawer = s.refDrawer := rfl
@[simp] theorem State.updThr_ready (s : State) (t : Nat) (f : Thread → Thread) : (s.updThr t f).ready = s.ready := rfl
@[simp] theorem State.updThr_recovery (s : State) (t : Nat) (f : Thread → Thread) : (s.updThr t f).recovery = s.recovery := rfl
@[simp] theorem State.updThr_status (s : State) (t : Nat) (f : Thread → Thread) : (s.updThr t f).status = s.status := rfl
@[simp] theorem State.updThr_power (s : State) (t : Nat) (f : Thread → Thread) : (s.updThr t f).power = s.power := rfl
@[simp] theorem State.updThr_clockStep (s : State) (t : Nat) (f : Thread → Thread) : (s.updThr t f).clockStep = s.clockStep := rfl
@[simp] theorem State.updThr_module (s : State) (t : Nat) (f : Thread → Thread) : (s.updThr t f).module = s.module := rfl
@[simp] theorem State.updThr_measurement (s : State) (t : Nat) (f : Thread → Thread) : (s.updThr t f).measurement = s.measurement := rfl
@[simp] theorem State.updThr_attest (s : State) (t : Nat) (f : Thread → Thread) : (s.updThr t f).attest = s.attest := rfl
@[simp] theorem State.updThr_irqs (s : State) (t : Nat) (f : Thread → Thread) : (s.updThr t f).irqs = s.irqs := rfl
@[simp] theorem State.setCrew_agenda (s : State) (c : Nat) (x : Crew) : (s.setCrew c x).agenda = s.agenda := rfl
@[simp] theorem State.setCrew_fresh (s : State) (c : Nat) (x : Crew) : (s.setCrew c x).fresh = s.fresh := rfl
@[simp] theorem State.setCrew_cur (s : State) (c : Nat) (x : Crew) : (s.setCrew c x).cur = s.cur := rfl
@[simp] theorem State.setCrew_pend (s : State) (c : Nat) (x : Crew) : (s.setCrew c x).pend = s.pend := rfl
@[simp] theorem State.setCrew_seq (s : State) (c : Nat) (x : Crew) : (s.setCrew c x).seq = s.seq := rfl
@[simp] theorem State.setCrew_mem (s : State) (c : Nat) (x : Crew) : (s.setCrew c x).mem = s.mem := rfl
@[simp] theorem State.setCrew_scratch (s : State) (c : Nat) (x : Crew) : (s.setCrew c x).scratch = s.scratch := rfl
@[simp] theorem State.setCrew_acc (s : State) (c : Nat) (x : Crew) : (s.setCrew c x).acc = s.acc := rfl
@[simp] theorem State.setCrew_book (s : State) (c : Nat) (x : Crew) : (s.setCrew c x).book = s.book := rfl
@[simp] theorem State.setCrew_stale (s : State) (c : Nat) (x : Crew) : (s.setCrew c x).stale = s.stale := rfl
@[simp] theorem State.setCrew_threads (s : State) (c : Nat) (x : Crew) : (s.setCrew c x).threads = s.threads := rfl
@[simp] theorem State.setCrew_billets (s : State) (c : Nat) (x : Crew) : (s.setCrew c x).billets = s.billets := rfl
@[simp] theorem State.setCrew_bundles (s : State) (c : Nat) (x : Crew) : (s.setCrew c x).bundles = s.bundles := rfl
@[simp] theorem State.setCrew_cores (s : State) (c : Nat) (x : Crew) : (s.setCrew c x).cores = s.cores := rfl
@[simp] theorem State.setCrew_groups (s : State) (c : Nat) (x : Crew) : (s.setCrew c x).groups = s.groups := rfl
@[simp] theorem State.setCrew_wps (s : State) (c : Nat) (x : Crew) : (s.setCrew c x).wps = s.wps := rfl
@[simp] theorem State.setCrew_saved (s : State) (c : Nat) (x : Crew) : (s.setCrew c x).saved = s.saved := rfl
@[simp] theorem State.setCrew_objUse (s : State) (c : Nat) (x : Crew) : (s.setCrew c x).objUse = s.objUse := rfl
@[simp] theorem State.setCrew_icache (s : State) (c : Nat) (x : Crew) : (s.setCrew c x).icache = s.icache := rfl
@[simp] theorem State.setCrew_ladle (s : State) (c : Nat) (x : Crew) : (s.setCrew c x).ladle = s.ladle := rfl
@[simp] theorem State.setCrew_trav (s : State) (c : Nat) (x : Crew) : (s.setCrew c x).trav = s.trav := rfl
@[simp] theorem State.setCrew_anvil (s : State) (c : Nat) (x : Crew) : (s.setCrew c x).anvil = s.anvil := rfl
@[simp] theorem State.setCrew_surfs (s : State) (c : Nat) (x : Crew) : (s.setCrew c x).surfs = s.surfs := rfl
@[simp] theorem State.setCrew_descs (s : State) (c : Nat) (x : Crew) : (s.setCrew c x).descs = s.descs := rfl
@[simp] theorem State.setCrew_poolLow (s : State) (c : Nat) (x : Crew) : (s.setCrew c x).poolLow = s.poolLow := rfl
@[simp] theorem State.setCrew_encWait (s : State) (c : Nat) (x : Crew) : (s.setCrew c x).encWait = s.encWait := rfl
@[simp] theorem State.setCrew_frozen (s : State) (c : Nat) (x : Crew) : (s.setCrew c x).frozen = s.frozen := rfl
@[simp] theorem State.setCrew_homes (s : State) (c : Nat) (x : Crew) : (s.setCrew c x).homes = s.homes := rfl
@[simp] theorem State.setCrew_sliceBase (s : State) (c : Nat) (x : Crew) : (s.setCrew c x).sliceBase = s.sliceBase := rfl
@[simp] theorem State.setCrew_copies (s : State) (c : Nat) (x : Crew) : (s.setCrew c x).copies = s.copies := rfl
@[simp] theorem State.setCrew_probes (s : State) (c : Nat) (x : Crew) : (s.setCrew c x).probes = s.probes := rfl
@[simp] theorem State.setCrew_notes (s : State) (c : Nat) (x : Crew) : (s.setCrew c x).notes = s.notes := rfl
@[simp] theorem State.setCrew_know (s : State) (c : Nat) (x : Crew) : (s.setCrew c x).know = s.know := rfl
@[simp] theorem State.setCrew_reads (s : State) (c : Nat) (x : Crew) : (s.setCrew c x).reads = s.reads := rfl
@[simp] theorem State.setCrew_relFences (s : State) (c : Nat) (x : Crew) : (s.setCrew c x).relFences = s.relFences := rfl
@[simp] theorem State.setCrew_scs (s : State) (c : Nat) (x : Crew) : (s.setCrew c x).scs = s.scs := rfl
@[simp] theorem State.setCrew_carried (s : State) (c : Nat) (x : Crew) : (s.setCrew c x).carried = s.carried := rfl
@[simp] theorem State.setCrew_scratchWait (s : State) (c : Nat) (x : Crew) : (s.setCrew c x).scratchWait = s.scratchWait := rfl
@[simp] theorem State.setCrew_counts (s : State) (c : Nat) (x : Crew) : (s.setCrew c x).counts = s.counts := rfl
@[simp] theorem State.setCrew_errors (s : State) (c : Nat) (x : Crew) : (s.setCrew c x).errors = s.errors := rfl
@[simp] theorem State.setCrew_errLog (s : State) (c : Nat) (x : Crew) : (s.setCrew c x).errLog = s.errLog := rfl
@[simp] theorem State.setCrew_ctxs (s : State) (c : Nat) (x : Crew) : (s.setCrew c x).ctxs = s.ctxs := rfl
@[simp] theorem State.setCrew_tenants (s : State) (c : Nat) (x : Crew) : (s.setCrew c x).tenants = s.tenants := rfl
@[simp] theorem State.setCrew_ctxSel (s : State) (c : Nat) (x : Crew) : (s.setCrew c x).ctxSel = s.ctxSel := rfl
@[simp] theorem State.setCrew_l2cfg (s : State) (c : Nat) (x : Crew) : (s.setCrew c x).l2cfg = s.l2cfg := rfl
@[simp] theorem State.setCrew_rngBase (s : State) (c : Nat) (x : Crew) : (s.setCrew c x).rngBase = s.rngBase := rfl
@[simp] theorem State.setCrew_rngLim (s : State) (c : Nat) (x : Crew) : (s.setCrew c x).rngLim = s.rngLim := rfl
@[simp] theorem State.setCrew_rngCtl (s : State) (c : Nat) (x : Crew) : (s.setCrew c x).rngCtl = s.rngCtl := rfl
@[simp] theorem State.setCrew_rngAcc (s : State) (c : Nat) (x : Crew) : (s.setCrew c x).rngAcc = s.rngAcc := rfl
@[simp] theorem State.setCrew_capCores (s : State) (c : Nat) (x : Crew) : (s.setCrew c x).capCores = s.capCores := rfl
@[simp] theorem State.setCrew_capSlices (s : State) (c : Nat) (x : Crew) : (s.setCrew c x).capSlices = s.capSlices := rfl
@[simp] theorem State.setCrew_capChan (s : State) (c : Nat) (x : Crew) : (s.setCrew c x).capChan = s.capChan := rfl
@[simp] theorem State.setCrew_capWaves (s : State) (c : Nat) (x : Crew) : (s.setCrew c x).capWaves = s.capWaves := rfl
@[simp] theorem State.setCrew_drwSize (s : State) (c : Nat) (x : Crew) : (s.setCrew c x).drwSize = s.drwSize := rfl
@[simp] theorem State.setCrew_slotTab (s : State) (c : Nat) (x : Crew) : (s.setCrew c x).slotTab = s.slotTab := rfl
@[simp] theorem State.setCrew_slotShadow (s : State) (c : Nat) (x : Crew) : (s.setCrew c x).slotShadow = s.slotShadow := rfl
@[simp] theorem State.setCrew_ports (s : State) (c : Nat) (x : Crew) : (s.setCrew c x).ports = s.ports := rfl
@[simp] theorem State.setCrew_sliceMap (s : State) (c : Nat) (x : Crew) : (s.setCrew c x).sliceMap = s.sliceMap := rfl
@[simp] theorem State.setCrew_retired (s : State) (c : Nat) (x : Crew) : (s.setCrew c x).retired = s.retired := rfl
@[simp] theorem State.setCrew_time (s : State) (c : Nat) (x : Crew) : (s.setCrew c x).time = s.time := rfl
@[simp] theorem State.setCrew_sub (s : State) (c : Nat) (x : Crew) : (s.setCrew c x).sub = s.sub := rfl
@[simp] theorem State.setCrew_hold (s : State) (c : Nat) (x : Crew) : (s.setCrew c x).hold = s.hold := rfl
@[simp] theorem State.setCrew_slewAt (s : State) (c : Nat) (x : Crew) : (s.setCrew c x).slewAt = s.slewAt := rfl
@[simp] theorem State.setCrew_refDrawer (s : State) (c : Nat) (x : Crew) : (s.setCrew c x).refDrawer = s.refDrawer := rfl
@[simp] theorem State.setCrew_ready (s : State) (c : Nat) (x : Crew) : (s.setCrew c x).ready = s.ready := rfl
@[simp] theorem State.setCrew_recovery (s : State) (c : Nat) (x : Crew) : (s.setCrew c x).recovery = s.recovery := rfl
@[simp] theorem State.setCrew_status (s : State) (c : Nat) (x : Crew) : (s.setCrew c x).status = s.status := rfl
@[simp] theorem State.setCrew_power (s : State) (c : Nat) (x : Crew) : (s.setCrew c x).power = s.power := rfl
@[simp] theorem State.setCrew_clockStep (s : State) (c : Nat) (x : Crew) : (s.setCrew c x).clockStep = s.clockStep := rfl
@[simp] theorem State.setCrew_module (s : State) (c : Nat) (x : Crew) : (s.setCrew c x).module = s.module := rfl
@[simp] theorem State.setCrew_measurement (s : State) (c : Nat) (x : Crew) : (s.setCrew c x).measurement = s.measurement := rfl
@[simp] theorem State.setCrew_attest (s : State) (c : Nat) (x : Crew) : (s.setCrew c x).attest = s.attest := rfl
@[simp] theorem State.setCrew_irqs (s : State) (c : Nat) (x : Crew) : (s.setCrew c x).irqs = s.irqs := rfl
@[simp] theorem State.updCrew_agenda (s : State) (c : Nat) (f : Crew → Crew) : (s.updCrew c f).agenda = s.agenda := rfl
@[simp] theorem State.updCrew_fresh (s : State) (c : Nat) (f : Crew → Crew) : (s.updCrew c f).fresh = s.fresh := rfl
@[simp] theorem State.updCrew_cur (s : State) (c : Nat) (f : Crew → Crew) : (s.updCrew c f).cur = s.cur := rfl
@[simp] theorem State.updCrew_pend (s : State) (c : Nat) (f : Crew → Crew) : (s.updCrew c f).pend = s.pend := rfl
@[simp] theorem State.updCrew_seq (s : State) (c : Nat) (f : Crew → Crew) : (s.updCrew c f).seq = s.seq := rfl
@[simp] theorem State.updCrew_mem (s : State) (c : Nat) (f : Crew → Crew) : (s.updCrew c f).mem = s.mem := rfl
@[simp] theorem State.updCrew_scratch (s : State) (c : Nat) (f : Crew → Crew) : (s.updCrew c f).scratch = s.scratch := rfl
@[simp] theorem State.updCrew_acc (s : State) (c : Nat) (f : Crew → Crew) : (s.updCrew c f).acc = s.acc := rfl
@[simp] theorem State.updCrew_book (s : State) (c : Nat) (f : Crew → Crew) : (s.updCrew c f).book = s.book := rfl
@[simp] theorem State.updCrew_stale (s : State) (c : Nat) (f : Crew → Crew) : (s.updCrew c f).stale = s.stale := rfl
@[simp] theorem State.updCrew_threads (s : State) (c : Nat) (f : Crew → Crew) : (s.updCrew c f).threads = s.threads := rfl
@[simp] theorem State.updCrew_billets (s : State) (c : Nat) (f : Crew → Crew) : (s.updCrew c f).billets = s.billets := rfl
@[simp] theorem State.updCrew_bundles (s : State) (c : Nat) (f : Crew → Crew) : (s.updCrew c f).bundles = s.bundles := rfl
@[simp] theorem State.updCrew_cores (s : State) (c : Nat) (f : Crew → Crew) : (s.updCrew c f).cores = s.cores := rfl
@[simp] theorem State.updCrew_groups (s : State) (c : Nat) (f : Crew → Crew) : (s.updCrew c f).groups = s.groups := rfl
@[simp] theorem State.updCrew_wps (s : State) (c : Nat) (f : Crew → Crew) : (s.updCrew c f).wps = s.wps := rfl
@[simp] theorem State.updCrew_saved (s : State) (c : Nat) (f : Crew → Crew) : (s.updCrew c f).saved = s.saved := rfl
@[simp] theorem State.updCrew_objUse (s : State) (c : Nat) (f : Crew → Crew) : (s.updCrew c f).objUse = s.objUse := rfl
@[simp] theorem State.updCrew_icache (s : State) (c : Nat) (f : Crew → Crew) : (s.updCrew c f).icache = s.icache := rfl
@[simp] theorem State.updCrew_ladle (s : State) (c : Nat) (f : Crew → Crew) : (s.updCrew c f).ladle = s.ladle := rfl
@[simp] theorem State.updCrew_trav (s : State) (c : Nat) (f : Crew → Crew) : (s.updCrew c f).trav = s.trav := rfl
@[simp] theorem State.updCrew_anvil (s : State) (c : Nat) (f : Crew → Crew) : (s.updCrew c f).anvil = s.anvil := rfl
@[simp] theorem State.updCrew_surfs (s : State) (c : Nat) (f : Crew → Crew) : (s.updCrew c f).surfs = s.surfs := rfl
@[simp] theorem State.updCrew_descs (s : State) (c : Nat) (f : Crew → Crew) : (s.updCrew c f).descs = s.descs := rfl
@[simp] theorem State.updCrew_poolLow (s : State) (c : Nat) (f : Crew → Crew) : (s.updCrew c f).poolLow = s.poolLow := rfl
@[simp] theorem State.updCrew_encWait (s : State) (c : Nat) (f : Crew → Crew) : (s.updCrew c f).encWait = s.encWait := rfl
@[simp] theorem State.updCrew_frozen (s : State) (c : Nat) (f : Crew → Crew) : (s.updCrew c f).frozen = s.frozen := rfl
@[simp] theorem State.updCrew_homes (s : State) (c : Nat) (f : Crew → Crew) : (s.updCrew c f).homes = s.homes := rfl
@[simp] theorem State.updCrew_sliceBase (s : State) (c : Nat) (f : Crew → Crew) : (s.updCrew c f).sliceBase = s.sliceBase := rfl
@[simp] theorem State.updCrew_copies (s : State) (c : Nat) (f : Crew → Crew) : (s.updCrew c f).copies = s.copies := rfl
@[simp] theorem State.updCrew_probes (s : State) (c : Nat) (f : Crew → Crew) : (s.updCrew c f).probes = s.probes := rfl
@[simp] theorem State.updCrew_notes (s : State) (c : Nat) (f : Crew → Crew) : (s.updCrew c f).notes = s.notes := rfl
@[simp] theorem State.updCrew_know (s : State) (c : Nat) (f : Crew → Crew) : (s.updCrew c f).know = s.know := rfl
@[simp] theorem State.updCrew_reads (s : State) (c : Nat) (f : Crew → Crew) : (s.updCrew c f).reads = s.reads := rfl
@[simp] theorem State.updCrew_relFences (s : State) (c : Nat) (f : Crew → Crew) : (s.updCrew c f).relFences = s.relFences := rfl
@[simp] theorem State.updCrew_scs (s : State) (c : Nat) (f : Crew → Crew) : (s.updCrew c f).scs = s.scs := rfl
@[simp] theorem State.updCrew_carried (s : State) (c : Nat) (f : Crew → Crew) : (s.updCrew c f).carried = s.carried := rfl
@[simp] theorem State.updCrew_scratchWait (s : State) (c : Nat) (f : Crew → Crew) : (s.updCrew c f).scratchWait = s.scratchWait := rfl
@[simp] theorem State.updCrew_counts (s : State) (c : Nat) (f : Crew → Crew) : (s.updCrew c f).counts = s.counts := rfl
@[simp] theorem State.updCrew_errors (s : State) (c : Nat) (f : Crew → Crew) : (s.updCrew c f).errors = s.errors := rfl
@[simp] theorem State.updCrew_errLog (s : State) (c : Nat) (f : Crew → Crew) : (s.updCrew c f).errLog = s.errLog := rfl
@[simp] theorem State.updCrew_ctxs (s : State) (c : Nat) (f : Crew → Crew) : (s.updCrew c f).ctxs = s.ctxs := rfl
@[simp] theorem State.updCrew_tenants (s : State) (c : Nat) (f : Crew → Crew) : (s.updCrew c f).tenants = s.tenants := rfl
@[simp] theorem State.updCrew_ctxSel (s : State) (c : Nat) (f : Crew → Crew) : (s.updCrew c f).ctxSel = s.ctxSel := rfl
@[simp] theorem State.updCrew_l2cfg (s : State) (c : Nat) (f : Crew → Crew) : (s.updCrew c f).l2cfg = s.l2cfg := rfl
@[simp] theorem State.updCrew_rngBase (s : State) (c : Nat) (f : Crew → Crew) : (s.updCrew c f).rngBase = s.rngBase := rfl
@[simp] theorem State.updCrew_rngLim (s : State) (c : Nat) (f : Crew → Crew) : (s.updCrew c f).rngLim = s.rngLim := rfl
@[simp] theorem State.updCrew_rngCtl (s : State) (c : Nat) (f : Crew → Crew) : (s.updCrew c f).rngCtl = s.rngCtl := rfl
@[simp] theorem State.updCrew_rngAcc (s : State) (c : Nat) (f : Crew → Crew) : (s.updCrew c f).rngAcc = s.rngAcc := rfl
@[simp] theorem State.updCrew_capCores (s : State) (c : Nat) (f : Crew → Crew) : (s.updCrew c f).capCores = s.capCores := rfl
@[simp] theorem State.updCrew_capSlices (s : State) (c : Nat) (f : Crew → Crew) : (s.updCrew c f).capSlices = s.capSlices := rfl
@[simp] theorem State.updCrew_capChan (s : State) (c : Nat) (f : Crew → Crew) : (s.updCrew c f).capChan = s.capChan := rfl
@[simp] theorem State.updCrew_capWaves (s : State) (c : Nat) (f : Crew → Crew) : (s.updCrew c f).capWaves = s.capWaves := rfl
@[simp] theorem State.updCrew_drwSize (s : State) (c : Nat) (f : Crew → Crew) : (s.updCrew c f).drwSize = s.drwSize := rfl
@[simp] theorem State.updCrew_slotTab (s : State) (c : Nat) (f : Crew → Crew) : (s.updCrew c f).slotTab = s.slotTab := rfl
@[simp] theorem State.updCrew_slotShadow (s : State) (c : Nat) (f : Crew → Crew) : (s.updCrew c f).slotShadow = s.slotShadow := rfl
@[simp] theorem State.updCrew_ports (s : State) (c : Nat) (f : Crew → Crew) : (s.updCrew c f).ports = s.ports := rfl
@[simp] theorem State.updCrew_sliceMap (s : State) (c : Nat) (f : Crew → Crew) : (s.updCrew c f).sliceMap = s.sliceMap := rfl
@[simp] theorem State.updCrew_retired (s : State) (c : Nat) (f : Crew → Crew) : (s.updCrew c f).retired = s.retired := rfl
@[simp] theorem State.updCrew_time (s : State) (c : Nat) (f : Crew → Crew) : (s.updCrew c f).time = s.time := rfl
@[simp] theorem State.updCrew_sub (s : State) (c : Nat) (f : Crew → Crew) : (s.updCrew c f).sub = s.sub := rfl
@[simp] theorem State.updCrew_hold (s : State) (c : Nat) (f : Crew → Crew) : (s.updCrew c f).hold = s.hold := rfl
@[simp] theorem State.updCrew_slewAt (s : State) (c : Nat) (f : Crew → Crew) : (s.updCrew c f).slewAt = s.slewAt := rfl
@[simp] theorem State.updCrew_refDrawer (s : State) (c : Nat) (f : Crew → Crew) : (s.updCrew c f).refDrawer = s.refDrawer := rfl
@[simp] theorem State.updCrew_ready (s : State) (c : Nat) (f : Crew → Crew) : (s.updCrew c f).ready = s.ready := rfl
@[simp] theorem State.updCrew_recovery (s : State) (c : Nat) (f : Crew → Crew) : (s.updCrew c f).recovery = s.recovery := rfl
@[simp] theorem State.updCrew_status (s : State) (c : Nat) (f : Crew → Crew) : (s.updCrew c f).status = s.status := rfl
@[simp] theorem State.updCrew_power (s : State) (c : Nat) (f : Crew → Crew) : (s.updCrew c f).power = s.power := rfl
@[simp] theorem State.updCrew_clockStep (s : State) (c : Nat) (f : Crew → Crew) : (s.updCrew c f).clockStep = s.clockStep := rfl
@[simp] theorem State.updCrew_module (s : State) (c : Nat) (f : Crew → Crew) : (s.updCrew c f).module = s.module := rfl
@[simp] theorem State.updCrew_measurement (s : State) (c : Nat) (f : Crew → Crew) : (s.updCrew c f).measurement = s.measurement := rfl
@[simp] theorem State.updCrew_attest (s : State) (c : Nat) (f : Crew → Crew) : (s.updCrew c f).attest = s.attest := rfl
@[simp] theorem State.updCrew_irqs (s : State) (c : Nat) (f : Crew → Crew) : (s.updCrew c f).irqs = s.irqs := rfl
@[simp] theorem State.updCore_agenda (s : State) (c : Nat) (f : Core → Core) : (s.updCore c f).agenda = s.agenda := rfl
@[simp] theorem State.updCore_fresh (s : State) (c : Nat) (f : Core → Core) : (s.updCore c f).fresh = s.fresh := rfl
@[simp] theorem State.updCore_cur (s : State) (c : Nat) (f : Core → Core) : (s.updCore c f).cur = s.cur := rfl
@[simp] theorem State.updCore_pend (s : State) (c : Nat) (f : Core → Core) : (s.updCore c f).pend = s.pend := rfl
@[simp] theorem State.updCore_seq (s : State) (c : Nat) (f : Core → Core) : (s.updCore c f).seq = s.seq := rfl
@[simp] theorem State.updCore_mem (s : State) (c : Nat) (f : Core → Core) : (s.updCore c f).mem = s.mem := rfl
@[simp] theorem State.updCore_scratch (s : State) (c : Nat) (f : Core → Core) : (s.updCore c f).scratch = s.scratch := rfl
@[simp] theorem State.updCore_acc (s : State) (c : Nat) (f : Core → Core) : (s.updCore c f).acc = s.acc := rfl
@[simp] theorem State.updCore_book (s : State) (c : Nat) (f : Core → Core) : (s.updCore c f).book = s.book := rfl
@[simp] theorem State.updCore_stale (s : State) (c : Nat) (f : Core → Core) : (s.updCore c f).stale = s.stale := rfl
@[simp] theorem State.updCore_threads (s : State) (c : Nat) (f : Core → Core) : (s.updCore c f).threads = s.threads := rfl
@[simp] theorem State.updCore_crews (s : State) (c : Nat) (f : Core → Core) : (s.updCore c f).crews = s.crews := rfl
@[simp] theorem State.updCore_billets (s : State) (c : Nat) (f : Core → Core) : (s.updCore c f).billets = s.billets := rfl
@[simp] theorem State.updCore_bundles (s : State) (c : Nat) (f : Core → Core) : (s.updCore c f).bundles = s.bundles := rfl
@[simp] theorem State.updCore_groups (s : State) (c : Nat) (f : Core → Core) : (s.updCore c f).groups = s.groups := rfl
@[simp] theorem State.updCore_wps (s : State) (c : Nat) (f : Core → Core) : (s.updCore c f).wps = s.wps := rfl
@[simp] theorem State.updCore_saved (s : State) (c : Nat) (f : Core → Core) : (s.updCore c f).saved = s.saved := rfl
@[simp] theorem State.updCore_objUse (s : State) (c : Nat) (f : Core → Core) : (s.updCore c f).objUse = s.objUse := rfl
@[simp] theorem State.updCore_icache (s : State) (c : Nat) (f : Core → Core) : (s.updCore c f).icache = s.icache := rfl
@[simp] theorem State.updCore_ladle (s : State) (c : Nat) (f : Core → Core) : (s.updCore c f).ladle = s.ladle := rfl
@[simp] theorem State.updCore_trav (s : State) (c : Nat) (f : Core → Core) : (s.updCore c f).trav = s.trav := rfl
@[simp] theorem State.updCore_anvil (s : State) (c : Nat) (f : Core → Core) : (s.updCore c f).anvil = s.anvil := rfl
@[simp] theorem State.updCore_surfs (s : State) (c : Nat) (f : Core → Core) : (s.updCore c f).surfs = s.surfs := rfl
@[simp] theorem State.updCore_descs (s : State) (c : Nat) (f : Core → Core) : (s.updCore c f).descs = s.descs := rfl
@[simp] theorem State.updCore_poolLow (s : State) (c : Nat) (f : Core → Core) : (s.updCore c f).poolLow = s.poolLow := rfl
@[simp] theorem State.updCore_encWait (s : State) (c : Nat) (f : Core → Core) : (s.updCore c f).encWait = s.encWait := rfl
@[simp] theorem State.updCore_frozen (s : State) (c : Nat) (f : Core → Core) : (s.updCore c f).frozen = s.frozen := rfl
@[simp] theorem State.updCore_homes (s : State) (c : Nat) (f : Core → Core) : (s.updCore c f).homes = s.homes := rfl
@[simp] theorem State.updCore_sliceBase (s : State) (c : Nat) (f : Core → Core) : (s.updCore c f).sliceBase = s.sliceBase := rfl
@[simp] theorem State.updCore_copies (s : State) (c : Nat) (f : Core → Core) : (s.updCore c f).copies = s.copies := rfl
@[simp] theorem State.updCore_probes (s : State) (c : Nat) (f : Core → Core) : (s.updCore c f).probes = s.probes := rfl
@[simp] theorem State.updCore_notes (s : State) (c : Nat) (f : Core → Core) : (s.updCore c f).notes = s.notes := rfl
@[simp] theorem State.updCore_know (s : State) (c : Nat) (f : Core → Core) : (s.updCore c f).know = s.know := rfl
@[simp] theorem State.updCore_reads (s : State) (c : Nat) (f : Core → Core) : (s.updCore c f).reads = s.reads := rfl
@[simp] theorem State.updCore_relFences (s : State) (c : Nat) (f : Core → Core) : (s.updCore c f).relFences = s.relFences := rfl
@[simp] theorem State.updCore_scs (s : State) (c : Nat) (f : Core → Core) : (s.updCore c f).scs = s.scs := rfl
@[simp] theorem State.updCore_carried (s : State) (c : Nat) (f : Core → Core) : (s.updCore c f).carried = s.carried := rfl
@[simp] theorem State.updCore_scratchWait (s : State) (c : Nat) (f : Core → Core) : (s.updCore c f).scratchWait = s.scratchWait := rfl
@[simp] theorem State.updCore_counts (s : State) (c : Nat) (f : Core → Core) : (s.updCore c f).counts = s.counts := rfl
@[simp] theorem State.updCore_errors (s : State) (c : Nat) (f : Core → Core) : (s.updCore c f).errors = s.errors := rfl
@[simp] theorem State.updCore_errLog (s : State) (c : Nat) (f : Core → Core) : (s.updCore c f).errLog = s.errLog := rfl
@[simp] theorem State.updCore_ctxs (s : State) (c : Nat) (f : Core → Core) : (s.updCore c f).ctxs = s.ctxs := rfl
@[simp] theorem State.updCore_tenants (s : State) (c : Nat) (f : Core → Core) : (s.updCore c f).tenants = s.tenants := rfl
@[simp] theorem State.updCore_ctxSel (s : State) (c : Nat) (f : Core → Core) : (s.updCore c f).ctxSel = s.ctxSel := rfl
@[simp] theorem State.updCore_l2cfg (s : State) (c : Nat) (f : Core → Core) : (s.updCore c f).l2cfg = s.l2cfg := rfl
@[simp] theorem State.updCore_rngBase (s : State) (c : Nat) (f : Core → Core) : (s.updCore c f).rngBase = s.rngBase := rfl
@[simp] theorem State.updCore_rngLim (s : State) (c : Nat) (f : Core → Core) : (s.updCore c f).rngLim = s.rngLim := rfl
@[simp] theorem State.updCore_rngCtl (s : State) (c : Nat) (f : Core → Core) : (s.updCore c f).rngCtl = s.rngCtl := rfl
@[simp] theorem State.updCore_rngAcc (s : State) (c : Nat) (f : Core → Core) : (s.updCore c f).rngAcc = s.rngAcc := rfl
@[simp] theorem State.updCore_capCores (s : State) (c : Nat) (f : Core → Core) : (s.updCore c f).capCores = s.capCores := rfl
@[simp] theorem State.updCore_capSlices (s : State) (c : Nat) (f : Core → Core) : (s.updCore c f).capSlices = s.capSlices := rfl
@[simp] theorem State.updCore_capChan (s : State) (c : Nat) (f : Core → Core) : (s.updCore c f).capChan = s.capChan := rfl
@[simp] theorem State.updCore_capWaves (s : State) (c : Nat) (f : Core → Core) : (s.updCore c f).capWaves = s.capWaves := rfl
@[simp] theorem State.updCore_drwSize (s : State) (c : Nat) (f : Core → Core) : (s.updCore c f).drwSize = s.drwSize := rfl
@[simp] theorem State.updCore_slotTab (s : State) (c : Nat) (f : Core → Core) : (s.updCore c f).slotTab = s.slotTab := rfl
@[simp] theorem State.updCore_slotShadow (s : State) (c : Nat) (f : Core → Core) : (s.updCore c f).slotShadow = s.slotShadow := rfl
@[simp] theorem State.updCore_ports (s : State) (c : Nat) (f : Core → Core) : (s.updCore c f).ports = s.ports := rfl
@[simp] theorem State.updCore_sliceMap (s : State) (c : Nat) (f : Core → Core) : (s.updCore c f).sliceMap = s.sliceMap := rfl
@[simp] theorem State.updCore_retired (s : State) (c : Nat) (f : Core → Core) : (s.updCore c f).retired = s.retired := rfl
@[simp] theorem State.updCore_time (s : State) (c : Nat) (f : Core → Core) : (s.updCore c f).time = s.time := rfl
@[simp] theorem State.updCore_sub (s : State) (c : Nat) (f : Core → Core) : (s.updCore c f).sub = s.sub := rfl
@[simp] theorem State.updCore_hold (s : State) (c : Nat) (f : Core → Core) : (s.updCore c f).hold = s.hold := rfl
@[simp] theorem State.updCore_slewAt (s : State) (c : Nat) (f : Core → Core) : (s.updCore c f).slewAt = s.slewAt := rfl
@[simp] theorem State.updCore_refDrawer (s : State) (c : Nat) (f : Core → Core) : (s.updCore c f).refDrawer = s.refDrawer := rfl
@[simp] theorem State.updCore_ready (s : State) (c : Nat) (f : Core → Core) : (s.updCore c f).ready = s.ready := rfl
@[simp] theorem State.updCore_recovery (s : State) (c : Nat) (f : Core → Core) : (s.updCore c f).recovery = s.recovery := rfl
@[simp] theorem State.updCore_status (s : State) (c : Nat) (f : Core → Core) : (s.updCore c f).status = s.status := rfl
@[simp] theorem State.updCore_power (s : State) (c : Nat) (f : Core → Core) : (s.updCore c f).power = s.power := rfl
@[simp] theorem State.updCore_clockStep (s : State) (c : Nat) (f : Core → Core) : (s.updCore c f).clockStep = s.clockStep := rfl
@[simp] theorem State.updCore_module (s : State) (c : Nat) (f : Core → Core) : (s.updCore c f).module = s.module := rfl
@[simp] theorem State.updCore_measurement (s : State) (c : Nat) (f : Core → Core) : (s.updCore c f).measurement = s.measurement := rfl
@[simp] theorem State.updCore_attest (s : State) (c : Nat) (f : Core → Core) : (s.updCore c f).attest = s.attest := rfl
@[simp] theorem State.updCore_irqs (s : State) (c : Nat) (f : Core → Core) : (s.updCore c f).irqs = s.irqs := rfl
@[simp] theorem State.updCtx_agenda (s : State) (c : Nat) (f : Context → Context) : (s.updCtx c f).agenda = s.agenda := rfl
@[simp] theorem State.updCtx_fresh (s : State) (c : Nat) (f : Context → Context) : (s.updCtx c f).fresh = s.fresh := rfl
@[simp] theorem State.updCtx_cur (s : State) (c : Nat) (f : Context → Context) : (s.updCtx c f).cur = s.cur := rfl
@[simp] theorem State.updCtx_pend (s : State) (c : Nat) (f : Context → Context) : (s.updCtx c f).pend = s.pend := rfl
@[simp] theorem State.updCtx_seq (s : State) (c : Nat) (f : Context → Context) : (s.updCtx c f).seq = s.seq := rfl
@[simp] theorem State.updCtx_mem (s : State) (c : Nat) (f : Context → Context) : (s.updCtx c f).mem = s.mem := rfl
@[simp] theorem State.updCtx_scratch (s : State) (c : Nat) (f : Context → Context) : (s.updCtx c f).scratch = s.scratch := rfl
@[simp] theorem State.updCtx_acc (s : State) (c : Nat) (f : Context → Context) : (s.updCtx c f).acc = s.acc := rfl
@[simp] theorem State.updCtx_book (s : State) (c : Nat) (f : Context → Context) : (s.updCtx c f).book = s.book := rfl
@[simp] theorem State.updCtx_stale (s : State) (c : Nat) (f : Context → Context) : (s.updCtx c f).stale = s.stale := rfl
@[simp] theorem State.updCtx_threads (s : State) (c : Nat) (f : Context → Context) : (s.updCtx c f).threads = s.threads := rfl
@[simp] theorem State.updCtx_crews (s : State) (c : Nat) (f : Context → Context) : (s.updCtx c f).crews = s.crews := rfl
@[simp] theorem State.updCtx_billets (s : State) (c : Nat) (f : Context → Context) : (s.updCtx c f).billets = s.billets := rfl
@[simp] theorem State.updCtx_bundles (s : State) (c : Nat) (f : Context → Context) : (s.updCtx c f).bundles = s.bundles := rfl
@[simp] theorem State.updCtx_cores (s : State) (c : Nat) (f : Context → Context) : (s.updCtx c f).cores = s.cores := rfl
@[simp] theorem State.updCtx_groups (s : State) (c : Nat) (f : Context → Context) : (s.updCtx c f).groups = s.groups := rfl
@[simp] theorem State.updCtx_wps (s : State) (c : Nat) (f : Context → Context) : (s.updCtx c f).wps = s.wps := rfl
@[simp] theorem State.updCtx_saved (s : State) (c : Nat) (f : Context → Context) : (s.updCtx c f).saved = s.saved := rfl
@[simp] theorem State.updCtx_objUse (s : State) (c : Nat) (f : Context → Context) : (s.updCtx c f).objUse = s.objUse := rfl
@[simp] theorem State.updCtx_icache (s : State) (c : Nat) (f : Context → Context) : (s.updCtx c f).icache = s.icache := rfl
@[simp] theorem State.updCtx_ladle (s : State) (c : Nat) (f : Context → Context) : (s.updCtx c f).ladle = s.ladle := rfl
@[simp] theorem State.updCtx_trav (s : State) (c : Nat) (f : Context → Context) : (s.updCtx c f).trav = s.trav := rfl
@[simp] theorem State.updCtx_anvil (s : State) (c : Nat) (f : Context → Context) : (s.updCtx c f).anvil = s.anvil := rfl
@[simp] theorem State.updCtx_surfs (s : State) (c : Nat) (f : Context → Context) : (s.updCtx c f).surfs = s.surfs := rfl
@[simp] theorem State.updCtx_descs (s : State) (c : Nat) (f : Context → Context) : (s.updCtx c f).descs = s.descs := rfl
@[simp] theorem State.updCtx_poolLow (s : State) (c : Nat) (f : Context → Context) : (s.updCtx c f).poolLow = s.poolLow := rfl
@[simp] theorem State.updCtx_encWait (s : State) (c : Nat) (f : Context → Context) : (s.updCtx c f).encWait = s.encWait := rfl
@[simp] theorem State.updCtx_frozen (s : State) (c : Nat) (f : Context → Context) : (s.updCtx c f).frozen = s.frozen := rfl
@[simp] theorem State.updCtx_homes (s : State) (c : Nat) (f : Context → Context) : (s.updCtx c f).homes = s.homes := rfl
@[simp] theorem State.updCtx_sliceBase (s : State) (c : Nat) (f : Context → Context) : (s.updCtx c f).sliceBase = s.sliceBase := rfl
@[simp] theorem State.updCtx_copies (s : State) (c : Nat) (f : Context → Context) : (s.updCtx c f).copies = s.copies := rfl
@[simp] theorem State.updCtx_probes (s : State) (c : Nat) (f : Context → Context) : (s.updCtx c f).probes = s.probes := rfl
@[simp] theorem State.updCtx_notes (s : State) (c : Nat) (f : Context → Context) : (s.updCtx c f).notes = s.notes := rfl
@[simp] theorem State.updCtx_know (s : State) (c : Nat) (f : Context → Context) : (s.updCtx c f).know = s.know := rfl
@[simp] theorem State.updCtx_reads (s : State) (c : Nat) (f : Context → Context) : (s.updCtx c f).reads = s.reads := rfl
@[simp] theorem State.updCtx_relFences (s : State) (c : Nat) (f : Context → Context) : (s.updCtx c f).relFences = s.relFences := rfl
@[simp] theorem State.updCtx_scs (s : State) (c : Nat) (f : Context → Context) : (s.updCtx c f).scs = s.scs := rfl
@[simp] theorem State.updCtx_carried (s : State) (c : Nat) (f : Context → Context) : (s.updCtx c f).carried = s.carried := rfl
@[simp] theorem State.updCtx_scratchWait (s : State) (c : Nat) (f : Context → Context) : (s.updCtx c f).scratchWait = s.scratchWait := rfl
@[simp] theorem State.updCtx_counts (s : State) (c : Nat) (f : Context → Context) : (s.updCtx c f).counts = s.counts := rfl
@[simp] theorem State.updCtx_errors (s : State) (c : Nat) (f : Context → Context) : (s.updCtx c f).errors = s.errors := rfl
@[simp] theorem State.updCtx_errLog (s : State) (c : Nat) (f : Context → Context) : (s.updCtx c f).errLog = s.errLog := rfl
@[simp] theorem State.updCtx_tenants (s : State) (c : Nat) (f : Context → Context) : (s.updCtx c f).tenants = s.tenants := rfl
@[simp] theorem State.updCtx_ctxSel (s : State) (c : Nat) (f : Context → Context) : (s.updCtx c f).ctxSel = s.ctxSel := rfl
@[simp] theorem State.updCtx_l2cfg (s : State) (c : Nat) (f : Context → Context) : (s.updCtx c f).l2cfg = s.l2cfg := rfl
@[simp] theorem State.updCtx_rngBase (s : State) (c : Nat) (f : Context → Context) : (s.updCtx c f).rngBase = s.rngBase := rfl
@[simp] theorem State.updCtx_rngLim (s : State) (c : Nat) (f : Context → Context) : (s.updCtx c f).rngLim = s.rngLim := rfl
@[simp] theorem State.updCtx_rngCtl (s : State) (c : Nat) (f : Context → Context) : (s.updCtx c f).rngCtl = s.rngCtl := rfl
@[simp] theorem State.updCtx_rngAcc (s : State) (c : Nat) (f : Context → Context) : (s.updCtx c f).rngAcc = s.rngAcc := rfl
@[simp] theorem State.updCtx_capCores (s : State) (c : Nat) (f : Context → Context) : (s.updCtx c f).capCores = s.capCores := rfl
@[simp] theorem State.updCtx_capSlices (s : State) (c : Nat) (f : Context → Context) : (s.updCtx c f).capSlices = s.capSlices := rfl
@[simp] theorem State.updCtx_capChan (s : State) (c : Nat) (f : Context → Context) : (s.updCtx c f).capChan = s.capChan := rfl
@[simp] theorem State.updCtx_capWaves (s : State) (c : Nat) (f : Context → Context) : (s.updCtx c f).capWaves = s.capWaves := rfl
@[simp] theorem State.updCtx_drwSize (s : State) (c : Nat) (f : Context → Context) : (s.updCtx c f).drwSize = s.drwSize := rfl
@[simp] theorem State.updCtx_slotTab (s : State) (c : Nat) (f : Context → Context) : (s.updCtx c f).slotTab = s.slotTab := rfl
@[simp] theorem State.updCtx_slotShadow (s : State) (c : Nat) (f : Context → Context) : (s.updCtx c f).slotShadow = s.slotShadow := rfl
@[simp] theorem State.updCtx_ports (s : State) (c : Nat) (f : Context → Context) : (s.updCtx c f).ports = s.ports := rfl
@[simp] theorem State.updCtx_sliceMap (s : State) (c : Nat) (f : Context → Context) : (s.updCtx c f).sliceMap = s.sliceMap := rfl
@[simp] theorem State.updCtx_retired (s : State) (c : Nat) (f : Context → Context) : (s.updCtx c f).retired = s.retired := rfl
@[simp] theorem State.updCtx_time (s : State) (c : Nat) (f : Context → Context) : (s.updCtx c f).time = s.time := rfl
@[simp] theorem State.updCtx_sub (s : State) (c : Nat) (f : Context → Context) : (s.updCtx c f).sub = s.sub := rfl
@[simp] theorem State.updCtx_hold (s : State) (c : Nat) (f : Context → Context) : (s.updCtx c f).hold = s.hold := rfl
@[simp] theorem State.updCtx_slewAt (s : State) (c : Nat) (f : Context → Context) : (s.updCtx c f).slewAt = s.slewAt := rfl
@[simp] theorem State.updCtx_refDrawer (s : State) (c : Nat) (f : Context → Context) : (s.updCtx c f).refDrawer = s.refDrawer := rfl
@[simp] theorem State.updCtx_ready (s : State) (c : Nat) (f : Context → Context) : (s.updCtx c f).ready = s.ready := rfl
@[simp] theorem State.updCtx_recovery (s : State) (c : Nat) (f : Context → Context) : (s.updCtx c f).recovery = s.recovery := rfl
@[simp] theorem State.updCtx_status (s : State) (c : Nat) (f : Context → Context) : (s.updCtx c f).status = s.status := rfl
@[simp] theorem State.updCtx_power (s : State) (c : Nat) (f : Context → Context) : (s.updCtx c f).power = s.power := rfl
@[simp] theorem State.updCtx_clockStep (s : State) (c : Nat) (f : Context → Context) : (s.updCtx c f).clockStep = s.clockStep := rfl
@[simp] theorem State.updCtx_module (s : State) (c : Nat) (f : Context → Context) : (s.updCtx c f).module = s.module := rfl
@[simp] theorem State.updCtx_measurement (s : State) (c : Nat) (f : Context → Context) : (s.updCtx c f).measurement = s.measurement := rfl
@[simp] theorem State.updCtx_attest (s : State) (c : Nat) (f : Context → Context) : (s.updCtx c f).attest = s.attest := rfl
@[simp] theorem State.updCtx_irqs (s : State) (c : Nat) (f : Context → Context) : (s.updCtx c f).irqs = s.irqs := rfl
@[simp] theorem State.updTenant_agenda (s : State) (t : Nat) (f : Tenant → Tenant) : (s.updTenant t f).agenda = s.agenda := rfl
@[simp] theorem State.updTenant_fresh (s : State) (t : Nat) (f : Tenant → Tenant) : (s.updTenant t f).fresh = s.fresh := rfl
@[simp] theorem State.updTenant_cur (s : State) (t : Nat) (f : Tenant → Tenant) : (s.updTenant t f).cur = s.cur := rfl
@[simp] theorem State.updTenant_pend (s : State) (t : Nat) (f : Tenant → Tenant) : (s.updTenant t f).pend = s.pend := rfl
@[simp] theorem State.updTenant_seq (s : State) (t : Nat) (f : Tenant → Tenant) : (s.updTenant t f).seq = s.seq := rfl
@[simp] theorem State.updTenant_mem (s : State) (t : Nat) (f : Tenant → Tenant) : (s.updTenant t f).mem = s.mem := rfl
@[simp] theorem State.updTenant_scratch (s : State) (t : Nat) (f : Tenant → Tenant) : (s.updTenant t f).scratch = s.scratch := rfl
@[simp] theorem State.updTenant_acc (s : State) (t : Nat) (f : Tenant → Tenant) : (s.updTenant t f).acc = s.acc := rfl
@[simp] theorem State.updTenant_book (s : State) (t : Nat) (f : Tenant → Tenant) : (s.updTenant t f).book = s.book := rfl
@[simp] theorem State.updTenant_stale (s : State) (t : Nat) (f : Tenant → Tenant) : (s.updTenant t f).stale = s.stale := rfl
@[simp] theorem State.updTenant_threads (s : State) (t : Nat) (f : Tenant → Tenant) : (s.updTenant t f).threads = s.threads := rfl
@[simp] theorem State.updTenant_crews (s : State) (t : Nat) (f : Tenant → Tenant) : (s.updTenant t f).crews = s.crews := rfl
@[simp] theorem State.updTenant_billets (s : State) (t : Nat) (f : Tenant → Tenant) : (s.updTenant t f).billets = s.billets := rfl
@[simp] theorem State.updTenant_bundles (s : State) (t : Nat) (f : Tenant → Tenant) : (s.updTenant t f).bundles = s.bundles := rfl
@[simp] theorem State.updTenant_cores (s : State) (t : Nat) (f : Tenant → Tenant) : (s.updTenant t f).cores = s.cores := rfl
@[simp] theorem State.updTenant_groups (s : State) (t : Nat) (f : Tenant → Tenant) : (s.updTenant t f).groups = s.groups := rfl
@[simp] theorem State.updTenant_wps (s : State) (t : Nat) (f : Tenant → Tenant) : (s.updTenant t f).wps = s.wps := rfl
@[simp] theorem State.updTenant_saved (s : State) (t : Nat) (f : Tenant → Tenant) : (s.updTenant t f).saved = s.saved := rfl
@[simp] theorem State.updTenant_objUse (s : State) (t : Nat) (f : Tenant → Tenant) : (s.updTenant t f).objUse = s.objUse := rfl
@[simp] theorem State.updTenant_icache (s : State) (t : Nat) (f : Tenant → Tenant) : (s.updTenant t f).icache = s.icache := rfl
@[simp] theorem State.updTenant_ladle (s : State) (t : Nat) (f : Tenant → Tenant) : (s.updTenant t f).ladle = s.ladle := rfl
@[simp] theorem State.updTenant_trav (s : State) (t : Nat) (f : Tenant → Tenant) : (s.updTenant t f).trav = s.trav := rfl
@[simp] theorem State.updTenant_anvil (s : State) (t : Nat) (f : Tenant → Tenant) : (s.updTenant t f).anvil = s.anvil := rfl
@[simp] theorem State.updTenant_surfs (s : State) (t : Nat) (f : Tenant → Tenant) : (s.updTenant t f).surfs = s.surfs := rfl
@[simp] theorem State.updTenant_descs (s : State) (t : Nat) (f : Tenant → Tenant) : (s.updTenant t f).descs = s.descs := rfl
@[simp] theorem State.updTenant_poolLow (s : State) (t : Nat) (f : Tenant → Tenant) : (s.updTenant t f).poolLow = s.poolLow := rfl
@[simp] theorem State.updTenant_encWait (s : State) (t : Nat) (f : Tenant → Tenant) : (s.updTenant t f).encWait = s.encWait := rfl
@[simp] theorem State.updTenant_frozen (s : State) (t : Nat) (f : Tenant → Tenant) : (s.updTenant t f).frozen = s.frozen := rfl
@[simp] theorem State.updTenant_homes (s : State) (t : Nat) (f : Tenant → Tenant) : (s.updTenant t f).homes = s.homes := rfl
@[simp] theorem State.updTenant_sliceBase (s : State) (t : Nat) (f : Tenant → Tenant) : (s.updTenant t f).sliceBase = s.sliceBase := rfl
@[simp] theorem State.updTenant_copies (s : State) (t : Nat) (f : Tenant → Tenant) : (s.updTenant t f).copies = s.copies := rfl
@[simp] theorem State.updTenant_probes (s : State) (t : Nat) (f : Tenant → Tenant) : (s.updTenant t f).probes = s.probes := rfl
@[simp] theorem State.updTenant_notes (s : State) (t : Nat) (f : Tenant → Tenant) : (s.updTenant t f).notes = s.notes := rfl
@[simp] theorem State.updTenant_know (s : State) (t : Nat) (f : Tenant → Tenant) : (s.updTenant t f).know = s.know := rfl
@[simp] theorem State.updTenant_reads (s : State) (t : Nat) (f : Tenant → Tenant) : (s.updTenant t f).reads = s.reads := rfl
@[simp] theorem State.updTenant_relFences (s : State) (t : Nat) (f : Tenant → Tenant) : (s.updTenant t f).relFences = s.relFences := rfl
@[simp] theorem State.updTenant_scs (s : State) (t : Nat) (f : Tenant → Tenant) : (s.updTenant t f).scs = s.scs := rfl
@[simp] theorem State.updTenant_carried (s : State) (t : Nat) (f : Tenant → Tenant) : (s.updTenant t f).carried = s.carried := rfl
@[simp] theorem State.updTenant_scratchWait (s : State) (t : Nat) (f : Tenant → Tenant) : (s.updTenant t f).scratchWait = s.scratchWait := rfl
@[simp] theorem State.updTenant_counts (s : State) (t : Nat) (f : Tenant → Tenant) : (s.updTenant t f).counts = s.counts := rfl
@[simp] theorem State.updTenant_errors (s : State) (t : Nat) (f : Tenant → Tenant) : (s.updTenant t f).errors = s.errors := rfl
@[simp] theorem State.updTenant_errLog (s : State) (t : Nat) (f : Tenant → Tenant) : (s.updTenant t f).errLog = s.errLog := rfl
@[simp] theorem State.updTenant_ctxs (s : State) (t : Nat) (f : Tenant → Tenant) : (s.updTenant t f).ctxs = s.ctxs := rfl
@[simp] theorem State.updTenant_ctxSel (s : State) (t : Nat) (f : Tenant → Tenant) : (s.updTenant t f).ctxSel = s.ctxSel := rfl
@[simp] theorem State.updTenant_l2cfg (s : State) (t : Nat) (f : Tenant → Tenant) : (s.updTenant t f).l2cfg = s.l2cfg := rfl
@[simp] theorem State.updTenant_rngBase (s : State) (t : Nat) (f : Tenant → Tenant) : (s.updTenant t f).rngBase = s.rngBase := rfl
@[simp] theorem State.updTenant_rngLim (s : State) (t : Nat) (f : Tenant → Tenant) : (s.updTenant t f).rngLim = s.rngLim := rfl
@[simp] theorem State.updTenant_rngCtl (s : State) (t : Nat) (f : Tenant → Tenant) : (s.updTenant t f).rngCtl = s.rngCtl := rfl
@[simp] theorem State.updTenant_rngAcc (s : State) (t : Nat) (f : Tenant → Tenant) : (s.updTenant t f).rngAcc = s.rngAcc := rfl
@[simp] theorem State.updTenant_capCores (s : State) (t : Nat) (f : Tenant → Tenant) : (s.updTenant t f).capCores = s.capCores := rfl
@[simp] theorem State.updTenant_capSlices (s : State) (t : Nat) (f : Tenant → Tenant) : (s.updTenant t f).capSlices = s.capSlices := rfl
@[simp] theorem State.updTenant_capChan (s : State) (t : Nat) (f : Tenant → Tenant) : (s.updTenant t f).capChan = s.capChan := rfl
@[simp] theorem State.updTenant_capWaves (s : State) (t : Nat) (f : Tenant → Tenant) : (s.updTenant t f).capWaves = s.capWaves := rfl
@[simp] theorem State.updTenant_drwSize (s : State) (t : Nat) (f : Tenant → Tenant) : (s.updTenant t f).drwSize = s.drwSize := rfl
@[simp] theorem State.updTenant_slotTab (s : State) (t : Nat) (f : Tenant → Tenant) : (s.updTenant t f).slotTab = s.slotTab := rfl
@[simp] theorem State.updTenant_slotShadow (s : State) (t : Nat) (f : Tenant → Tenant) : (s.updTenant t f).slotShadow = s.slotShadow := rfl
@[simp] theorem State.updTenant_ports (s : State) (t : Nat) (f : Tenant → Tenant) : (s.updTenant t f).ports = s.ports := rfl
@[simp] theorem State.updTenant_sliceMap (s : State) (t : Nat) (f : Tenant → Tenant) : (s.updTenant t f).sliceMap = s.sliceMap := rfl
@[simp] theorem State.updTenant_retired (s : State) (t : Nat) (f : Tenant → Tenant) : (s.updTenant t f).retired = s.retired := rfl
@[simp] theorem State.updTenant_time (s : State) (t : Nat) (f : Tenant → Tenant) : (s.updTenant t f).time = s.time := rfl
@[simp] theorem State.updTenant_sub (s : State) (t : Nat) (f : Tenant → Tenant) : (s.updTenant t f).sub = s.sub := rfl
@[simp] theorem State.updTenant_hold (s : State) (t : Nat) (f : Tenant → Tenant) : (s.updTenant t f).hold = s.hold := rfl
@[simp] theorem State.updTenant_slewAt (s : State) (t : Nat) (f : Tenant → Tenant) : (s.updTenant t f).slewAt = s.slewAt := rfl
@[simp] theorem State.updTenant_refDrawer (s : State) (t : Nat) (f : Tenant → Tenant) : (s.updTenant t f).refDrawer = s.refDrawer := rfl
@[simp] theorem State.updTenant_ready (s : State) (t : Nat) (f : Tenant → Tenant) : (s.updTenant t f).ready = s.ready := rfl
@[simp] theorem State.updTenant_recovery (s : State) (t : Nat) (f : Tenant → Tenant) : (s.updTenant t f).recovery = s.recovery := rfl
@[simp] theorem State.updTenant_status (s : State) (t : Nat) (f : Tenant → Tenant) : (s.updTenant t f).status = s.status := rfl
@[simp] theorem State.updTenant_power (s : State) (t : Nat) (f : Tenant → Tenant) : (s.updTenant t f).power = s.power := rfl
@[simp] theorem State.updTenant_clockStep (s : State) (t : Nat) (f : Tenant → Tenant) : (s.updTenant t f).clockStep = s.clockStep := rfl
@[simp] theorem State.updTenant_module (s : State) (t : Nat) (f : Tenant → Tenant) : (s.updTenant t f).module = s.module := rfl
@[simp] theorem State.updTenant_measurement (s : State) (t : Nat) (f : Tenant → Tenant) : (s.updTenant t f).measurement = s.measurement := rfl
@[simp] theorem State.updTenant_attest (s : State) (t : Nat) (f : Tenant → Tenant) : (s.updTenant t f).attest = s.attest := rfl
@[simp] theorem State.updTenant_irqs (s : State) (t : Nat) (f : Tenant → Tenant) : (s.updTenant t f).irqs = s.irqs := rfl
@[simp] theorem State.updQueue_agenda (s : State) (t q : Nat) (f : LaunchQueue → LaunchQueue) : (s.updQueue t q f).agenda = s.agenda := rfl
@[simp] theorem State.updQueue_fresh (s : State) (t q : Nat) (f : LaunchQueue → LaunchQueue) : (s.updQueue t q f).fresh = s.fresh := rfl
@[simp] theorem State.updQueue_cur (s : State) (t q : Nat) (f : LaunchQueue → LaunchQueue) : (s.updQueue t q f).cur = s.cur := rfl
@[simp] theorem State.updQueue_pend (s : State) (t q : Nat) (f : LaunchQueue → LaunchQueue) : (s.updQueue t q f).pend = s.pend := rfl
@[simp] theorem State.updQueue_seq (s : State) (t q : Nat) (f : LaunchQueue → LaunchQueue) : (s.updQueue t q f).seq = s.seq := rfl
@[simp] theorem State.updQueue_mem (s : State) (t q : Nat) (f : LaunchQueue → LaunchQueue) : (s.updQueue t q f).mem = s.mem := rfl
@[simp] theorem State.updQueue_scratch (s : State) (t q : Nat) (f : LaunchQueue → LaunchQueue) : (s.updQueue t q f).scratch = s.scratch := rfl
@[simp] theorem State.updQueue_acc (s : State) (t q : Nat) (f : LaunchQueue → LaunchQueue) : (s.updQueue t q f).acc = s.acc := rfl
@[simp] theorem State.updQueue_book (s : State) (t q : Nat) (f : LaunchQueue → LaunchQueue) : (s.updQueue t q f).book = s.book := rfl
@[simp] theorem State.updQueue_stale (s : State) (t q : Nat) (f : LaunchQueue → LaunchQueue) : (s.updQueue t q f).stale = s.stale := rfl
@[simp] theorem State.updQueue_threads (s : State) (t q : Nat) (f : LaunchQueue → LaunchQueue) : (s.updQueue t q f).threads = s.threads := rfl
@[simp] theorem State.updQueue_crews (s : State) (t q : Nat) (f : LaunchQueue → LaunchQueue) : (s.updQueue t q f).crews = s.crews := rfl
@[simp] theorem State.updQueue_billets (s : State) (t q : Nat) (f : LaunchQueue → LaunchQueue) : (s.updQueue t q f).billets = s.billets := rfl
@[simp] theorem State.updQueue_bundles (s : State) (t q : Nat) (f : LaunchQueue → LaunchQueue) : (s.updQueue t q f).bundles = s.bundles := rfl
@[simp] theorem State.updQueue_cores (s : State) (t q : Nat) (f : LaunchQueue → LaunchQueue) : (s.updQueue t q f).cores = s.cores := rfl
@[simp] theorem State.updQueue_groups (s : State) (t q : Nat) (f : LaunchQueue → LaunchQueue) : (s.updQueue t q f).groups = s.groups := rfl
@[simp] theorem State.updQueue_wps (s : State) (t q : Nat) (f : LaunchQueue → LaunchQueue) : (s.updQueue t q f).wps = s.wps := rfl
@[simp] theorem State.updQueue_saved (s : State) (t q : Nat) (f : LaunchQueue → LaunchQueue) : (s.updQueue t q f).saved = s.saved := rfl
@[simp] theorem State.updQueue_objUse (s : State) (t q : Nat) (f : LaunchQueue → LaunchQueue) : (s.updQueue t q f).objUse = s.objUse := rfl
@[simp] theorem State.updQueue_icache (s : State) (t q : Nat) (f : LaunchQueue → LaunchQueue) : (s.updQueue t q f).icache = s.icache := rfl
@[simp] theorem State.updQueue_ladle (s : State) (t q : Nat) (f : LaunchQueue → LaunchQueue) : (s.updQueue t q f).ladle = s.ladle := rfl
@[simp] theorem State.updQueue_trav (s : State) (t q : Nat) (f : LaunchQueue → LaunchQueue) : (s.updQueue t q f).trav = s.trav := rfl
@[simp] theorem State.updQueue_anvil (s : State) (t q : Nat) (f : LaunchQueue → LaunchQueue) : (s.updQueue t q f).anvil = s.anvil := rfl
@[simp] theorem State.updQueue_surfs (s : State) (t q : Nat) (f : LaunchQueue → LaunchQueue) : (s.updQueue t q f).surfs = s.surfs := rfl
@[simp] theorem State.updQueue_descs (s : State) (t q : Nat) (f : LaunchQueue → LaunchQueue) : (s.updQueue t q f).descs = s.descs := rfl
@[simp] theorem State.updQueue_poolLow (s : State) (t q : Nat) (f : LaunchQueue → LaunchQueue) : (s.updQueue t q f).poolLow = s.poolLow := rfl
@[simp] theorem State.updQueue_encWait (s : State) (t q : Nat) (f : LaunchQueue → LaunchQueue) : (s.updQueue t q f).encWait = s.encWait := rfl
@[simp] theorem State.updQueue_frozen (s : State) (t q : Nat) (f : LaunchQueue → LaunchQueue) : (s.updQueue t q f).frozen = s.frozen := rfl
@[simp] theorem State.updQueue_homes (s : State) (t q : Nat) (f : LaunchQueue → LaunchQueue) : (s.updQueue t q f).homes = s.homes := rfl
@[simp] theorem State.updQueue_sliceBase (s : State) (t q : Nat) (f : LaunchQueue → LaunchQueue) : (s.updQueue t q f).sliceBase = s.sliceBase := rfl
@[simp] theorem State.updQueue_copies (s : State) (t q : Nat) (f : LaunchQueue → LaunchQueue) : (s.updQueue t q f).copies = s.copies := rfl
@[simp] theorem State.updQueue_probes (s : State) (t q : Nat) (f : LaunchQueue → LaunchQueue) : (s.updQueue t q f).probes = s.probes := rfl
@[simp] theorem State.updQueue_notes (s : State) (t q : Nat) (f : LaunchQueue → LaunchQueue) : (s.updQueue t q f).notes = s.notes := rfl
@[simp] theorem State.updQueue_know (s : State) (t q : Nat) (f : LaunchQueue → LaunchQueue) : (s.updQueue t q f).know = s.know := rfl
@[simp] theorem State.updQueue_reads (s : State) (t q : Nat) (f : LaunchQueue → LaunchQueue) : (s.updQueue t q f).reads = s.reads := rfl
@[simp] theorem State.updQueue_relFences (s : State) (t q : Nat) (f : LaunchQueue → LaunchQueue) : (s.updQueue t q f).relFences = s.relFences := rfl
@[simp] theorem State.updQueue_scs (s : State) (t q : Nat) (f : LaunchQueue → LaunchQueue) : (s.updQueue t q f).scs = s.scs := rfl
@[simp] theorem State.updQueue_carried (s : State) (t q : Nat) (f : LaunchQueue → LaunchQueue) : (s.updQueue t q f).carried = s.carried := rfl
@[simp] theorem State.updQueue_scratchWait (s : State) (t q : Nat) (f : LaunchQueue → LaunchQueue) : (s.updQueue t q f).scratchWait = s.scratchWait := rfl
@[simp] theorem State.updQueue_counts (s : State) (t q : Nat) (f : LaunchQueue → LaunchQueue) : (s.updQueue t q f).counts = s.counts := rfl
@[simp] theorem State.updQueue_errors (s : State) (t q : Nat) (f : LaunchQueue → LaunchQueue) : (s.updQueue t q f).errors = s.errors := rfl
@[simp] theorem State.updQueue_errLog (s : State) (t q : Nat) (f : LaunchQueue → LaunchQueue) : (s.updQueue t q f).errLog = s.errLog := rfl
@[simp] theorem State.updQueue_ctxs (s : State) (t q : Nat) (f : LaunchQueue → LaunchQueue) : (s.updQueue t q f).ctxs = s.ctxs := rfl
@[simp] theorem State.updQueue_ctxSel (s : State) (t q : Nat) (f : LaunchQueue → LaunchQueue) : (s.updQueue t q f).ctxSel = s.ctxSel := rfl
@[simp] theorem State.updQueue_l2cfg (s : State) (t q : Nat) (f : LaunchQueue → LaunchQueue) : (s.updQueue t q f).l2cfg = s.l2cfg := rfl
@[simp] theorem State.updQueue_rngBase (s : State) (t q : Nat) (f : LaunchQueue → LaunchQueue) : (s.updQueue t q f).rngBase = s.rngBase := rfl
@[simp] theorem State.updQueue_rngLim (s : State) (t q : Nat) (f : LaunchQueue → LaunchQueue) : (s.updQueue t q f).rngLim = s.rngLim := rfl
@[simp] theorem State.updQueue_rngCtl (s : State) (t q : Nat) (f : LaunchQueue → LaunchQueue) : (s.updQueue t q f).rngCtl = s.rngCtl := rfl
@[simp] theorem State.updQueue_rngAcc (s : State) (t q : Nat) (f : LaunchQueue → LaunchQueue) : (s.updQueue t q f).rngAcc = s.rngAcc := rfl
@[simp] theorem State.updQueue_capCores (s : State) (t q : Nat) (f : LaunchQueue → LaunchQueue) : (s.updQueue t q f).capCores = s.capCores := rfl
@[simp] theorem State.updQueue_capSlices (s : State) (t q : Nat) (f : LaunchQueue → LaunchQueue) : (s.updQueue t q f).capSlices = s.capSlices := rfl
@[simp] theorem State.updQueue_capChan (s : State) (t q : Nat) (f : LaunchQueue → LaunchQueue) : (s.updQueue t q f).capChan = s.capChan := rfl
@[simp] theorem State.updQueue_capWaves (s : State) (t q : Nat) (f : LaunchQueue → LaunchQueue) : (s.updQueue t q f).capWaves = s.capWaves := rfl
@[simp] theorem State.updQueue_drwSize (s : State) (t q : Nat) (f : LaunchQueue → LaunchQueue) : (s.updQueue t q f).drwSize = s.drwSize := rfl
@[simp] theorem State.updQueue_slotTab (s : State) (t q : Nat) (f : LaunchQueue → LaunchQueue) : (s.updQueue t q f).slotTab = s.slotTab := rfl
@[simp] theorem State.updQueue_slotShadow (s : State) (t q : Nat) (f : LaunchQueue → LaunchQueue) : (s.updQueue t q f).slotShadow = s.slotShadow := rfl
@[simp] theorem State.updQueue_ports (s : State) (t q : Nat) (f : LaunchQueue → LaunchQueue) : (s.updQueue t q f).ports = s.ports := rfl
@[simp] theorem State.updQueue_sliceMap (s : State) (t q : Nat) (f : LaunchQueue → LaunchQueue) : (s.updQueue t q f).sliceMap = s.sliceMap := rfl
@[simp] theorem State.updQueue_retired (s : State) (t q : Nat) (f : LaunchQueue → LaunchQueue) : (s.updQueue t q f).retired = s.retired := rfl
@[simp] theorem State.updQueue_time (s : State) (t q : Nat) (f : LaunchQueue → LaunchQueue) : (s.updQueue t q f).time = s.time := rfl
@[simp] theorem State.updQueue_sub (s : State) (t q : Nat) (f : LaunchQueue → LaunchQueue) : (s.updQueue t q f).sub = s.sub := rfl
@[simp] theorem State.updQueue_hold (s : State) (t q : Nat) (f : LaunchQueue → LaunchQueue) : (s.updQueue t q f).hold = s.hold := rfl
@[simp] theorem State.updQueue_slewAt (s : State) (t q : Nat) (f : LaunchQueue → LaunchQueue) : (s.updQueue t q f).slewAt = s.slewAt := rfl
@[simp] theorem State.updQueue_refDrawer (s : State) (t q : Nat) (f : LaunchQueue → LaunchQueue) : (s.updQueue t q f).refDrawer = s.refDrawer := rfl
@[simp] theorem State.updQueue_ready (s : State) (t q : Nat) (f : LaunchQueue → LaunchQueue) : (s.updQueue t q f).ready = s.ready := rfl
@[simp] theorem State.updQueue_recovery (s : State) (t q : Nat) (f : LaunchQueue → LaunchQueue) : (s.updQueue t q f).recovery = s.recovery := rfl
@[simp] theorem State.updQueue_status (s : State) (t q : Nat) (f : LaunchQueue → LaunchQueue) : (s.updQueue t q f).status = s.status := rfl
@[simp] theorem State.updQueue_power (s : State) (t q : Nat) (f : LaunchQueue → LaunchQueue) : (s.updQueue t q f).power = s.power := rfl
@[simp] theorem State.updQueue_clockStep (s : State) (t q : Nat) (f : LaunchQueue → LaunchQueue) : (s.updQueue t q f).clockStep = s.clockStep := rfl
@[simp] theorem State.updQueue_module (s : State) (t q : Nat) (f : LaunchQueue → LaunchQueue) : (s.updQueue t q f).module = s.module := rfl
@[simp] theorem State.updQueue_measurement (s : State) (t q : Nat) (f : LaunchQueue → LaunchQueue) : (s.updQueue t q f).measurement = s.measurement := rfl
@[simp] theorem State.updQueue_attest (s : State) (t q : Nat) (f : LaunchQueue → LaunchQueue) : (s.updQueue t q f).attest = s.attest := rfl
@[simp] theorem State.updQueue_irqs (s : State) (t q : Nat) (f : LaunchQueue → LaunchQueue) : (s.updQueue t q f).irqs = s.irqs := rfl
@[simp] theorem State.updHome_agenda (s : State) (l : Nat) (f : HomeLine → HomeLine) : (s.updHome l f).agenda = s.agenda := rfl
@[simp] theorem State.updHome_fresh (s : State) (l : Nat) (f : HomeLine → HomeLine) : (s.updHome l f).fresh = s.fresh := rfl
@[simp] theorem State.updHome_cur (s : State) (l : Nat) (f : HomeLine → HomeLine) : (s.updHome l f).cur = s.cur := rfl
@[simp] theorem State.updHome_pend (s : State) (l : Nat) (f : HomeLine → HomeLine) : (s.updHome l f).pend = s.pend := rfl
@[simp] theorem State.updHome_seq (s : State) (l : Nat) (f : HomeLine → HomeLine) : (s.updHome l f).seq = s.seq := rfl
@[simp] theorem State.updHome_mem (s : State) (l : Nat) (f : HomeLine → HomeLine) : (s.updHome l f).mem = s.mem := rfl
@[simp] theorem State.updHome_scratch (s : State) (l : Nat) (f : HomeLine → HomeLine) : (s.updHome l f).scratch = s.scratch := rfl
@[simp] theorem State.updHome_acc (s : State) (l : Nat) (f : HomeLine → HomeLine) : (s.updHome l f).acc = s.acc := rfl
@[simp] theorem State.updHome_book (s : State) (l : Nat) (f : HomeLine → HomeLine) : (s.updHome l f).book = s.book := rfl
@[simp] theorem State.updHome_stale (s : State) (l : Nat) (f : HomeLine → HomeLine) : (s.updHome l f).stale = s.stale := rfl
@[simp] theorem State.updHome_threads (s : State) (l : Nat) (f : HomeLine → HomeLine) : (s.updHome l f).threads = s.threads := rfl
@[simp] theorem State.updHome_crews (s : State) (l : Nat) (f : HomeLine → HomeLine) : (s.updHome l f).crews = s.crews := rfl
@[simp] theorem State.updHome_billets (s : State) (l : Nat) (f : HomeLine → HomeLine) : (s.updHome l f).billets = s.billets := rfl
@[simp] theorem State.updHome_bundles (s : State) (l : Nat) (f : HomeLine → HomeLine) : (s.updHome l f).bundles = s.bundles := rfl
@[simp] theorem State.updHome_cores (s : State) (l : Nat) (f : HomeLine → HomeLine) : (s.updHome l f).cores = s.cores := rfl
@[simp] theorem State.updHome_groups (s : State) (l : Nat) (f : HomeLine → HomeLine) : (s.updHome l f).groups = s.groups := rfl
@[simp] theorem State.updHome_wps (s : State) (l : Nat) (f : HomeLine → HomeLine) : (s.updHome l f).wps = s.wps := rfl
@[simp] theorem State.updHome_saved (s : State) (l : Nat) (f : HomeLine → HomeLine) : (s.updHome l f).saved = s.saved := rfl
@[simp] theorem State.updHome_objUse (s : State) (l : Nat) (f : HomeLine → HomeLine) : (s.updHome l f).objUse = s.objUse := rfl
@[simp] theorem State.updHome_icache (s : State) (l : Nat) (f : HomeLine → HomeLine) : (s.updHome l f).icache = s.icache := rfl
@[simp] theorem State.updHome_ladle (s : State) (l : Nat) (f : HomeLine → HomeLine) : (s.updHome l f).ladle = s.ladle := rfl
@[simp] theorem State.updHome_trav (s : State) (l : Nat) (f : HomeLine → HomeLine) : (s.updHome l f).trav = s.trav := rfl
@[simp] theorem State.updHome_anvil (s : State) (l : Nat) (f : HomeLine → HomeLine) : (s.updHome l f).anvil = s.anvil := rfl
@[simp] theorem State.updHome_surfs (s : State) (l : Nat) (f : HomeLine → HomeLine) : (s.updHome l f).surfs = s.surfs := rfl
@[simp] theorem State.updHome_descs (s : State) (l : Nat) (f : HomeLine → HomeLine) : (s.updHome l f).descs = s.descs := rfl
@[simp] theorem State.updHome_poolLow (s : State) (l : Nat) (f : HomeLine → HomeLine) : (s.updHome l f).poolLow = s.poolLow := rfl
@[simp] theorem State.updHome_encWait (s : State) (l : Nat) (f : HomeLine → HomeLine) : (s.updHome l f).encWait = s.encWait := rfl
@[simp] theorem State.updHome_frozen (s : State) (l : Nat) (f : HomeLine → HomeLine) : (s.updHome l f).frozen = s.frozen := rfl
@[simp] theorem State.updHome_sliceBase (s : State) (l : Nat) (f : HomeLine → HomeLine) : (s.updHome l f).sliceBase = s.sliceBase := rfl
@[simp] theorem State.updHome_copies (s : State) (l : Nat) (f : HomeLine → HomeLine) : (s.updHome l f).copies = s.copies := rfl
@[simp] theorem State.updHome_probes (s : State) (l : Nat) (f : HomeLine → HomeLine) : (s.updHome l f).probes = s.probes := rfl
@[simp] theorem State.updHome_notes (s : State) (l : Nat) (f : HomeLine → HomeLine) : (s.updHome l f).notes = s.notes := rfl
@[simp] theorem State.updHome_know (s : State) (l : Nat) (f : HomeLine → HomeLine) : (s.updHome l f).know = s.know := rfl
@[simp] theorem State.updHome_reads (s : State) (l : Nat) (f : HomeLine → HomeLine) : (s.updHome l f).reads = s.reads := rfl
@[simp] theorem State.updHome_relFences (s : State) (l : Nat) (f : HomeLine → HomeLine) : (s.updHome l f).relFences = s.relFences := rfl
@[simp] theorem State.updHome_scs (s : State) (l : Nat) (f : HomeLine → HomeLine) : (s.updHome l f).scs = s.scs := rfl
@[simp] theorem State.updHome_carried (s : State) (l : Nat) (f : HomeLine → HomeLine) : (s.updHome l f).carried = s.carried := rfl
@[simp] theorem State.updHome_scratchWait (s : State) (l : Nat) (f : HomeLine → HomeLine) : (s.updHome l f).scratchWait = s.scratchWait := rfl
@[simp] theorem State.updHome_counts (s : State) (l : Nat) (f : HomeLine → HomeLine) : (s.updHome l f).counts = s.counts := rfl
@[simp] theorem State.updHome_errors (s : State) (l : Nat) (f : HomeLine → HomeLine) : (s.updHome l f).errors = s.errors := rfl
@[simp] theorem State.updHome_errLog (s : State) (l : Nat) (f : HomeLine → HomeLine) : (s.updHome l f).errLog = s.errLog := rfl
@[simp] theorem State.updHome_ctxs (s : State) (l : Nat) (f : HomeLine → HomeLine) : (s.updHome l f).ctxs = s.ctxs := rfl
@[simp] theorem State.updHome_tenants (s : State) (l : Nat) (f : HomeLine → HomeLine) : (s.updHome l f).tenants = s.tenants := rfl
@[simp] theorem State.updHome_ctxSel (s : State) (l : Nat) (f : HomeLine → HomeLine) : (s.updHome l f).ctxSel = s.ctxSel := rfl
@[simp] theorem State.updHome_l2cfg (s : State) (l : Nat) (f : HomeLine → HomeLine) : (s.updHome l f).l2cfg = s.l2cfg := rfl
@[simp] theorem State.updHome_rngBase (s : State) (l : Nat) (f : HomeLine → HomeLine) : (s.updHome l f).rngBase = s.rngBase := rfl
@[simp] theorem State.updHome_rngLim (s : State) (l : Nat) (f : HomeLine → HomeLine) : (s.updHome l f).rngLim = s.rngLim := rfl
@[simp] theorem State.updHome_rngCtl (s : State) (l : Nat) (f : HomeLine → HomeLine) : (s.updHome l f).rngCtl = s.rngCtl := rfl
@[simp] theorem State.updHome_rngAcc (s : State) (l : Nat) (f : HomeLine → HomeLine) : (s.updHome l f).rngAcc = s.rngAcc := rfl
@[simp] theorem State.updHome_capCores (s : State) (l : Nat) (f : HomeLine → HomeLine) : (s.updHome l f).capCores = s.capCores := rfl
@[simp] theorem State.updHome_capSlices (s : State) (l : Nat) (f : HomeLine → HomeLine) : (s.updHome l f).capSlices = s.capSlices := rfl
@[simp] theorem State.updHome_capChan (s : State) (l : Nat) (f : HomeLine → HomeLine) : (s.updHome l f).capChan = s.capChan := rfl
@[simp] theorem State.updHome_capWaves (s : State) (l : Nat) (f : HomeLine → HomeLine) : (s.updHome l f).capWaves = s.capWaves := rfl
@[simp] theorem State.updHome_drwSize (s : State) (l : Nat) (f : HomeLine → HomeLine) : (s.updHome l f).drwSize = s.drwSize := rfl
@[simp] theorem State.updHome_slotTab (s : State) (l : Nat) (f : HomeLine → HomeLine) : (s.updHome l f).slotTab = s.slotTab := rfl
@[simp] theorem State.updHome_slotShadow (s : State) (l : Nat) (f : HomeLine → HomeLine) : (s.updHome l f).slotShadow = s.slotShadow := rfl
@[simp] theorem State.updHome_ports (s : State) (l : Nat) (f : HomeLine → HomeLine) : (s.updHome l f).ports = s.ports := rfl
@[simp] theorem State.updHome_sliceMap (s : State) (l : Nat) (f : HomeLine → HomeLine) : (s.updHome l f).sliceMap = s.sliceMap := rfl
@[simp] theorem State.updHome_retired (s : State) (l : Nat) (f : HomeLine → HomeLine) : (s.updHome l f).retired = s.retired := rfl
@[simp] theorem State.updHome_time (s : State) (l : Nat) (f : HomeLine → HomeLine) : (s.updHome l f).time = s.time := rfl
@[simp] theorem State.updHome_sub (s : State) (l : Nat) (f : HomeLine → HomeLine) : (s.updHome l f).sub = s.sub := rfl
@[simp] theorem State.updHome_hold (s : State) (l : Nat) (f : HomeLine → HomeLine) : (s.updHome l f).hold = s.hold := rfl
@[simp] theorem State.updHome_slewAt (s : State) (l : Nat) (f : HomeLine → HomeLine) : (s.updHome l f).slewAt = s.slewAt := rfl
@[simp] theorem State.updHome_refDrawer (s : State) (l : Nat) (f : HomeLine → HomeLine) : (s.updHome l f).refDrawer = s.refDrawer := rfl
@[simp] theorem State.updHome_ready (s : State) (l : Nat) (f : HomeLine → HomeLine) : (s.updHome l f).ready = s.ready := rfl
@[simp] theorem State.updHome_recovery (s : State) (l : Nat) (f : HomeLine → HomeLine) : (s.updHome l f).recovery = s.recovery := rfl
@[simp] theorem State.updHome_status (s : State) (l : Nat) (f : HomeLine → HomeLine) : (s.updHome l f).status = s.status := rfl
@[simp] theorem State.updHome_power (s : State) (l : Nat) (f : HomeLine → HomeLine) : (s.updHome l f).power = s.power := rfl
@[simp] theorem State.updHome_clockStep (s : State) (l : Nat) (f : HomeLine → HomeLine) : (s.updHome l f).clockStep = s.clockStep := rfl
@[simp] theorem State.updHome_module (s : State) (l : Nat) (f : HomeLine → HomeLine) : (s.updHome l f).module = s.module := rfl
@[simp] theorem State.updHome_measurement (s : State) (l : Nat) (f : HomeLine → HomeLine) : (s.updHome l f).measurement = s.measurement := rfl
@[simp] theorem State.updHome_attest (s : State) (l : Nat) (f : HomeLine → HomeLine) : (s.updHome l f).attest = s.attest := rfl
@[simp] theorem State.updHome_irqs (s : State) (l : Nat) (f : HomeLine → HomeLine) : (s.updHome l f).irqs = s.irqs := rfl
@[simp] theorem State.writePa_agenda (s : State) (a : Nat) (bs : List Byte) : (s.writePa a bs).agenda = s.agenda := rfl
@[simp] theorem State.writePa_fresh (s : State) (a : Nat) (bs : List Byte) : (s.writePa a bs).fresh = s.fresh := rfl
@[simp] theorem State.writePa_cur (s : State) (a : Nat) (bs : List Byte) : (s.writePa a bs).cur = s.cur := rfl
@[simp] theorem State.writePa_pend (s : State) (a : Nat) (bs : List Byte) : (s.writePa a bs).pend = s.pend := rfl
@[simp] theorem State.writePa_seq (s : State) (a : Nat) (bs : List Byte) : (s.writePa a bs).seq = s.seq := rfl
@[simp] theorem State.writePa_scratch (s : State) (a : Nat) (bs : List Byte) : (s.writePa a bs).scratch = s.scratch := rfl
@[simp] theorem State.writePa_acc (s : State) (a : Nat) (bs : List Byte) : (s.writePa a bs).acc = s.acc := rfl
@[simp] theorem State.writePa_book (s : State) (a : Nat) (bs : List Byte) : (s.writePa a bs).book = s.book := rfl
@[simp] theorem State.writePa_stale (s : State) (a : Nat) (bs : List Byte) : (s.writePa a bs).stale = s.stale := rfl
@[simp] theorem State.writePa_threads (s : State) (a : Nat) (bs : List Byte) : (s.writePa a bs).threads = s.threads := rfl
@[simp] theorem State.writePa_crews (s : State) (a : Nat) (bs : List Byte) : (s.writePa a bs).crews = s.crews := rfl
@[simp] theorem State.writePa_billets (s : State) (a : Nat) (bs : List Byte) : (s.writePa a bs).billets = s.billets := rfl
@[simp] theorem State.writePa_bundles (s : State) (a : Nat) (bs : List Byte) : (s.writePa a bs).bundles = s.bundles := rfl
@[simp] theorem State.writePa_cores (s : State) (a : Nat) (bs : List Byte) : (s.writePa a bs).cores = s.cores := rfl
@[simp] theorem State.writePa_groups (s : State) (a : Nat) (bs : List Byte) : (s.writePa a bs).groups = s.groups := rfl
@[simp] theorem State.writePa_wps (s : State) (a : Nat) (bs : List Byte) : (s.writePa a bs).wps = s.wps := rfl
@[simp] theorem State.writePa_saved (s : State) (a : Nat) (bs : List Byte) : (s.writePa a bs).saved = s.saved := rfl
@[simp] theorem State.writePa_objUse (s : State) (a : Nat) (bs : List Byte) : (s.writePa a bs).objUse = s.objUse := rfl
@[simp] theorem State.writePa_icache (s : State) (a : Nat) (bs : List Byte) : (s.writePa a bs).icache = s.icache := rfl
@[simp] theorem State.writePa_ladle (s : State) (a : Nat) (bs : List Byte) : (s.writePa a bs).ladle = s.ladle := rfl
@[simp] theorem State.writePa_trav (s : State) (a : Nat) (bs : List Byte) : (s.writePa a bs).trav = s.trav := rfl
@[simp] theorem State.writePa_anvil (s : State) (a : Nat) (bs : List Byte) : (s.writePa a bs).anvil = s.anvil := rfl
@[simp] theorem State.writePa_surfs (s : State) (a : Nat) (bs : List Byte) : (s.writePa a bs).surfs = s.surfs := rfl
@[simp] theorem State.writePa_descs (s : State) (a : Nat) (bs : List Byte) : (s.writePa a bs).descs = s.descs := rfl
@[simp] theorem State.writePa_poolLow (s : State) (a : Nat) (bs : List Byte) : (s.writePa a bs).poolLow = s.poolLow := rfl
@[simp] theorem State.writePa_encWait (s : State) (a : Nat) (bs : List Byte) : (s.writePa a bs).encWait = s.encWait := rfl
@[simp] theorem State.writePa_frozen (s : State) (a : Nat) (bs : List Byte) : (s.writePa a bs).frozen = s.frozen := rfl
@[simp] theorem State.writePa_homes (s : State) (a : Nat) (bs : List Byte) : (s.writePa a bs).homes = s.homes := rfl
@[simp] theorem State.writePa_sliceBase (s : State) (a : Nat) (bs : List Byte) : (s.writePa a bs).sliceBase = s.sliceBase := rfl
@[simp] theorem State.writePa_copies (s : State) (a : Nat) (bs : List Byte) : (s.writePa a bs).copies = s.copies := rfl
@[simp] theorem State.writePa_probes (s : State) (a : Nat) (bs : List Byte) : (s.writePa a bs).probes = s.probes := rfl
@[simp] theorem State.writePa_notes (s : State) (a : Nat) (bs : List Byte) : (s.writePa a bs).notes = s.notes := rfl
@[simp] theorem State.writePa_know (s : State) (a : Nat) (bs : List Byte) : (s.writePa a bs).know = s.know := rfl
@[simp] theorem State.writePa_reads (s : State) (a : Nat) (bs : List Byte) : (s.writePa a bs).reads = s.reads := rfl
@[simp] theorem State.writePa_relFences (s : State) (a : Nat) (bs : List Byte) : (s.writePa a bs).relFences = s.relFences := rfl
@[simp] theorem State.writePa_scs (s : State) (a : Nat) (bs : List Byte) : (s.writePa a bs).scs = s.scs := rfl
@[simp] theorem State.writePa_carried (s : State) (a : Nat) (bs : List Byte) : (s.writePa a bs).carried = s.carried := rfl
@[simp] theorem State.writePa_scratchWait (s : State) (a : Nat) (bs : List Byte) : (s.writePa a bs).scratchWait = s.scratchWait := rfl
@[simp] theorem State.writePa_counts (s : State) (a : Nat) (bs : List Byte) : (s.writePa a bs).counts = s.counts := rfl
@[simp] theorem State.writePa_errors (s : State) (a : Nat) (bs : List Byte) : (s.writePa a bs).errors = s.errors := rfl
@[simp] theorem State.writePa_errLog (s : State) (a : Nat) (bs : List Byte) : (s.writePa a bs).errLog = s.errLog := rfl
@[simp] theorem State.writePa_ctxs (s : State) (a : Nat) (bs : List Byte) : (s.writePa a bs).ctxs = s.ctxs := rfl
@[simp] theorem State.writePa_tenants (s : State) (a : Nat) (bs : List Byte) : (s.writePa a bs).tenants = s.tenants := rfl
@[simp] theorem State.writePa_ctxSel (s : State) (a : Nat) (bs : List Byte) : (s.writePa a bs).ctxSel = s.ctxSel := rfl
@[simp] theorem State.writePa_l2cfg (s : State) (a : Nat) (bs : List Byte) : (s.writePa a bs).l2cfg = s.l2cfg := rfl
@[simp] theorem State.writePa_rngBase (s : State) (a : Nat) (bs : List Byte) : (s.writePa a bs).rngBase = s.rngBase := rfl
@[simp] theorem State.writePa_rngLim (s : State) (a : Nat) (bs : List Byte) : (s.writePa a bs).rngLim = s.rngLim := rfl
@[simp] theorem State.writePa_rngCtl (s : State) (a : Nat) (bs : List Byte) : (s.writePa a bs).rngCtl = s.rngCtl := rfl
@[simp] theorem State.writePa_rngAcc (s : State) (a : Nat) (bs : List Byte) : (s.writePa a bs).rngAcc = s.rngAcc := rfl
@[simp] theorem State.writePa_capCores (s : State) (a : Nat) (bs : List Byte) : (s.writePa a bs).capCores = s.capCores := rfl
@[simp] theorem State.writePa_capSlices (s : State) (a : Nat) (bs : List Byte) : (s.writePa a bs).capSlices = s.capSlices := rfl
@[simp] theorem State.writePa_capChan (s : State) (a : Nat) (bs : List Byte) : (s.writePa a bs).capChan = s.capChan := rfl
@[simp] theorem State.writePa_capWaves (s : State) (a : Nat) (bs : List Byte) : (s.writePa a bs).capWaves = s.capWaves := rfl
@[simp] theorem State.writePa_drwSize (s : State) (a : Nat) (bs : List Byte) : (s.writePa a bs).drwSize = s.drwSize := rfl
@[simp] theorem State.writePa_slotTab (s : State) (a : Nat) (bs : List Byte) : (s.writePa a bs).slotTab = s.slotTab := rfl
@[simp] theorem State.writePa_slotShadow (s : State) (a : Nat) (bs : List Byte) : (s.writePa a bs).slotShadow = s.slotShadow := rfl
@[simp] theorem State.writePa_ports (s : State) (a : Nat) (bs : List Byte) : (s.writePa a bs).ports = s.ports := rfl
@[simp] theorem State.writePa_sliceMap (s : State) (a : Nat) (bs : List Byte) : (s.writePa a bs).sliceMap = s.sliceMap := rfl
@[simp] theorem State.writePa_retired (s : State) (a : Nat) (bs : List Byte) : (s.writePa a bs).retired = s.retired := rfl
@[simp] theorem State.writePa_time (s : State) (a : Nat) (bs : List Byte) : (s.writePa a bs).time = s.time := rfl
@[simp] theorem State.writePa_sub (s : State) (a : Nat) (bs : List Byte) : (s.writePa a bs).sub = s.sub := rfl
@[simp] theorem State.writePa_hold (s : State) (a : Nat) (bs : List Byte) : (s.writePa a bs).hold = s.hold := rfl
@[simp] theorem State.writePa_slewAt (s : State) (a : Nat) (bs : List Byte) : (s.writePa a bs).slewAt = s.slewAt := rfl
@[simp] theorem State.writePa_refDrawer (s : State) (a : Nat) (bs : List Byte) : (s.writePa a bs).refDrawer = s.refDrawer := rfl
@[simp] theorem State.writePa_ready (s : State) (a : Nat) (bs : List Byte) : (s.writePa a bs).ready = s.ready := rfl
@[simp] theorem State.writePa_recovery (s : State) (a : Nat) (bs : List Byte) : (s.writePa a bs).recovery = s.recovery := rfl
@[simp] theorem State.writePa_status (s : State) (a : Nat) (bs : List Byte) : (s.writePa a bs).status = s.status := rfl
@[simp] theorem State.writePa_power (s : State) (a : Nat) (bs : List Byte) : (s.writePa a bs).power = s.power := rfl
@[simp] theorem State.writePa_clockStep (s : State) (a : Nat) (bs : List Byte) : (s.writePa a bs).clockStep = s.clockStep := rfl
@[simp] theorem State.writePa_module (s : State) (a : Nat) (bs : List Byte) : (s.writePa a bs).module = s.module := rfl
@[simp] theorem State.writePa_measurement (s : State) (a : Nat) (bs : List Byte) : (s.writePa a bs).measurement = s.measurement := rfl
@[simp] theorem State.writePa_attest (s : State) (a : Nat) (bs : List Byte) : (s.writePa a bs).attest = s.attest := rfl
@[simp] theorem State.writePa_irqs (s : State) (a : Nat) (bs : List Byte) : (s.writePa a bs).irqs = s.irqs := rfl
@[simp] theorem State.contest_agenda (s : State) (t : Nat) (gs : List Target) : (s.contest t gs).agenda = s.agenda := rfl
@[simp] theorem State.contest_fresh (s : State) (t : Nat) (gs : List Target) : (s.contest t gs).fresh = s.fresh := rfl
@[simp] theorem State.contest_cur (s : State) (t : Nat) (gs : List Target) : (s.contest t gs).cur = s.cur := rfl
@[simp] theorem State.contest_seq (s : State) (t : Nat) (gs : List Target) : (s.contest t gs).seq = s.seq := rfl
@[simp] theorem State.contest_mem (s : State) (t : Nat) (gs : List Target) : (s.contest t gs).mem = s.mem := rfl
@[simp] theorem State.contest_scratch (s : State) (t : Nat) (gs : List Target) : (s.contest t gs).scratch = s.scratch := rfl
@[simp] theorem State.contest_acc (s : State) (t : Nat) (gs : List Target) : (s.contest t gs).acc = s.acc := rfl
@[simp] theorem State.contest_book (s : State) (t : Nat) (gs : List Target) : (s.contest t gs).book = s.book := rfl
@[simp] theorem State.contest_stale (s : State) (t : Nat) (gs : List Target) : (s.contest t gs).stale = s.stale := rfl
@[simp] theorem State.contest_threads (s : State) (t : Nat) (gs : List Target) : (s.contest t gs).threads = s.threads := rfl
@[simp] theorem State.contest_crews (s : State) (t : Nat) (gs : List Target) : (s.contest t gs).crews = s.crews := rfl
@[simp] theorem State.contest_billets (s : State) (t : Nat) (gs : List Target) : (s.contest t gs).billets = s.billets := rfl
@[simp] theorem State.contest_bundles (s : State) (t : Nat) (gs : List Target) : (s.contest t gs).bundles = s.bundles := rfl
@[simp] theorem State.contest_cores (s : State) (t : Nat) (gs : List Target) : (s.contest t gs).cores = s.cores := rfl
@[simp] theorem State.contest_groups (s : State) (t : Nat) (gs : List Target) : (s.contest t gs).groups = s.groups := rfl
@[simp] theorem State.contest_wps (s : State) (t : Nat) (gs : List Target) : (s.contest t gs).wps = s.wps := rfl
@[simp] theorem State.contest_saved (s : State) (t : Nat) (gs : List Target) : (s.contest t gs).saved = s.saved := rfl
@[simp] theorem State.contest_objUse (s : State) (t : Nat) (gs : List Target) : (s.contest t gs).objUse = s.objUse := rfl
@[simp] theorem State.contest_icache (s : State) (t : Nat) (gs : List Target) : (s.contest t gs).icache = s.icache := rfl
@[simp] theorem State.contest_ladle (s : State) (t : Nat) (gs : List Target) : (s.contest t gs).ladle = s.ladle := rfl
@[simp] theorem State.contest_trav (s : State) (t : Nat) (gs : List Target) : (s.contest t gs).trav = s.trav := rfl
@[simp] theorem State.contest_anvil (s : State) (t : Nat) (gs : List Target) : (s.contest t gs).anvil = s.anvil := rfl
@[simp] theorem State.contest_surfs (s : State) (t : Nat) (gs : List Target) : (s.contest t gs).surfs = s.surfs := rfl
@[simp] theorem State.contest_descs (s : State) (t : Nat) (gs : List Target) : (s.contest t gs).descs = s.descs := rfl
@[simp] theorem State.contest_poolLow (s : State) (t : Nat) (gs : List Target) : (s.contest t gs).poolLow = s.poolLow := rfl
@[simp] theorem State.contest_encWait (s : State) (t : Nat) (gs : List Target) : (s.contest t gs).encWait = s.encWait := rfl
@[simp] theorem State.contest_frozen (s : State) (t : Nat) (gs : List Target) : (s.contest t gs).frozen = s.frozen := rfl
@[simp] theorem State.contest_homes (s : State) (t : Nat) (gs : List Target) : (s.contest t gs).homes = s.homes := rfl
@[simp] theorem State.contest_sliceBase (s : State) (t : Nat) (gs : List Target) : (s.contest t gs).sliceBase = s.sliceBase := rfl
@[simp] theorem State.contest_copies (s : State) (t : Nat) (gs : List Target) : (s.contest t gs).copies = s.copies := rfl
@[simp] theorem State.contest_probes (s : State) (t : Nat) (gs : List Target) : (s.contest t gs).probes = s.probes := rfl
@[simp] theorem State.contest_notes (s : State) (t : Nat) (gs : List Target) : (s.contest t gs).notes = s.notes := rfl
@[simp] theorem State.contest_know (s : State) (t : Nat) (gs : List Target) : (s.contest t gs).know = s.know := rfl
@[simp] theorem State.contest_reads (s : State) (t : Nat) (gs : List Target) : (s.contest t gs).reads = s.reads := rfl
@[simp] theorem State.contest_relFences (s : State) (t : Nat) (gs : List Target) : (s.contest t gs).relFences = s.relFences := rfl
@[simp] theorem State.contest_scs (s : State) (t : Nat) (gs : List Target) : (s.contest t gs).scs = s.scs := rfl
@[simp] theorem State.contest_carried (s : State) (t : Nat) (gs : List Target) : (s.contest t gs).carried = s.carried := rfl
@[simp] theorem State.contest_scratchWait (s : State) (t : Nat) (gs : List Target) : (s.contest t gs).scratchWait = s.scratchWait := rfl
@[simp] theorem State.contest_counts (s : State) (t : Nat) (gs : List Target) : (s.contest t gs).counts = s.counts := rfl
@[simp] theorem State.contest_errors (s : State) (t : Nat) (gs : List Target) : (s.contest t gs).errors = s.errors := rfl
@[simp] theorem State.contest_errLog (s : State) (t : Nat) (gs : List Target) : (s.contest t gs).errLog = s.errLog := rfl
@[simp] theorem State.contest_ctxs (s : State) (t : Nat) (gs : List Target) : (s.contest t gs).ctxs = s.ctxs := rfl
@[simp] theorem State.contest_tenants (s : State) (t : Nat) (gs : List Target) : (s.contest t gs).tenants = s.tenants := rfl
@[simp] theorem State.contest_ctxSel (s : State) (t : Nat) (gs : List Target) : (s.contest t gs).ctxSel = s.ctxSel := rfl
@[simp] theorem State.contest_l2cfg (s : State) (t : Nat) (gs : List Target) : (s.contest t gs).l2cfg = s.l2cfg := rfl
@[simp] theorem State.contest_rngBase (s : State) (t : Nat) (gs : List Target) : (s.contest t gs).rngBase = s.rngBase := rfl
@[simp] theorem State.contest_rngLim (s : State) (t : Nat) (gs : List Target) : (s.contest t gs).rngLim = s.rngLim := rfl
@[simp] theorem State.contest_rngCtl (s : State) (t : Nat) (gs : List Target) : (s.contest t gs).rngCtl = s.rngCtl := rfl
@[simp] theorem State.contest_rngAcc (s : State) (t : Nat) (gs : List Target) : (s.contest t gs).rngAcc = s.rngAcc := rfl
@[simp] theorem State.contest_capCores (s : State) (t : Nat) (gs : List Target) : (s.contest t gs).capCores = s.capCores := rfl
@[simp] theorem State.contest_capSlices (s : State) (t : Nat) (gs : List Target) : (s.contest t gs).capSlices = s.capSlices := rfl
@[simp] theorem State.contest_capChan (s : State) (t : Nat) (gs : List Target) : (s.contest t gs).capChan = s.capChan := rfl
@[simp] theorem State.contest_capWaves (s : State) (t : Nat) (gs : List Target) : (s.contest t gs).capWaves = s.capWaves := rfl
@[simp] theorem State.contest_drwSize (s : State) (t : Nat) (gs : List Target) : (s.contest t gs).drwSize = s.drwSize := rfl
@[simp] theorem State.contest_slotTab (s : State) (t : Nat) (gs : List Target) : (s.contest t gs).slotTab = s.slotTab := rfl
@[simp] theorem State.contest_slotShadow (s : State) (t : Nat) (gs : List Target) : (s.contest t gs).slotShadow = s.slotShadow := rfl
@[simp] theorem State.contest_ports (s : State) (t : Nat) (gs : List Target) : (s.contest t gs).ports = s.ports := rfl
@[simp] theorem State.contest_sliceMap (s : State) (t : Nat) (gs : List Target) : (s.contest t gs).sliceMap = s.sliceMap := rfl
@[simp] theorem State.contest_retired (s : State) (t : Nat) (gs : List Target) : (s.contest t gs).retired = s.retired := rfl
@[simp] theorem State.contest_time (s : State) (t : Nat) (gs : List Target) : (s.contest t gs).time = s.time := rfl
@[simp] theorem State.contest_sub (s : State) (t : Nat) (gs : List Target) : (s.contest t gs).sub = s.sub := rfl
@[simp] theorem State.contest_hold (s : State) (t : Nat) (gs : List Target) : (s.contest t gs).hold = s.hold := rfl
@[simp] theorem State.contest_slewAt (s : State) (t : Nat) (gs : List Target) : (s.contest t gs).slewAt = s.slewAt := rfl
@[simp] theorem State.contest_refDrawer (s : State) (t : Nat) (gs : List Target) : (s.contest t gs).refDrawer = s.refDrawer := rfl
@[simp] theorem State.contest_ready (s : State) (t : Nat) (gs : List Target) : (s.contest t gs).ready = s.ready := rfl
@[simp] theorem State.contest_recovery (s : State) (t : Nat) (gs : List Target) : (s.contest t gs).recovery = s.recovery := rfl
@[simp] theorem State.contest_status (s : State) (t : Nat) (gs : List Target) : (s.contest t gs).status = s.status := rfl
@[simp] theorem State.contest_power (s : State) (t : Nat) (gs : List Target) : (s.contest t gs).power = s.power := rfl
@[simp] theorem State.contest_clockStep (s : State) (t : Nat) (gs : List Target) : (s.contest t gs).clockStep = s.clockStep := rfl
@[simp] theorem State.contest_module (s : State) (t : Nat) (gs : List Target) : (s.contest t gs).module = s.module := rfl
@[simp] theorem State.contest_measurement (s : State) (t : Nat) (gs : List Target) : (s.contest t gs).measurement = s.measurement := rfl
@[simp] theorem State.contest_attest (s : State) (t : Nat) (gs : List Target) : (s.contest t gs).attest = s.attest := rfl
@[simp] theorem State.contest_irqs (s : State) (t : Nat) (gs : List Target) : (s.contest t gs).irqs = s.irqs := rfl
@[simp] theorem State.updBillet_agenda (s : State) (k : Nat) (f : Billet → Billet) : (s.updBillet k f).agenda = s.agenda := by
  unfold State.updBillet; split <;> rfl
@[simp] theorem State.updBillet_fresh (s : State) (k : Nat) (f : Billet → Billet) : (s.updBillet k f).fresh = s.fresh := by
  unfold State.updBillet; split <;> rfl
@[simp] theorem State.updBillet_cur (s : State) (k : Nat) (f : Billet → Billet) : (s.updBillet k f).cur = s.cur := by
  unfold State.updBillet; split <;> rfl
@[simp] theorem State.updBillet_pend (s : State) (k : Nat) (f : Billet → Billet) : (s.updBillet k f).pend = s.pend := by
  unfold State.updBillet; split <;> rfl
@[simp] theorem State.updBillet_seq (s : State) (k : Nat) (f : Billet → Billet) : (s.updBillet k f).seq = s.seq := by
  unfold State.updBillet; split <;> rfl
@[simp] theorem State.updBillet_mem (s : State) (k : Nat) (f : Billet → Billet) : (s.updBillet k f).mem = s.mem := by
  unfold State.updBillet; split <;> rfl
@[simp] theorem State.updBillet_scratch (s : State) (k : Nat) (f : Billet → Billet) : (s.updBillet k f).scratch = s.scratch := by
  unfold State.updBillet; split <;> rfl
@[simp] theorem State.updBillet_acc (s : State) (k : Nat) (f : Billet → Billet) : (s.updBillet k f).acc = s.acc := by
  unfold State.updBillet; split <;> rfl
@[simp] theorem State.updBillet_book (s : State) (k : Nat) (f : Billet → Billet) : (s.updBillet k f).book = s.book := by
  unfold State.updBillet; split <;> rfl
@[simp] theorem State.updBillet_stale (s : State) (k : Nat) (f : Billet → Billet) : (s.updBillet k f).stale = s.stale := by
  unfold State.updBillet; split <;> rfl
@[simp] theorem State.updBillet_threads (s : State) (k : Nat) (f : Billet → Billet) : (s.updBillet k f).threads = s.threads := by
  unfold State.updBillet; split <;> rfl
@[simp] theorem State.updBillet_crews (s : State) (k : Nat) (f : Billet → Billet) : (s.updBillet k f).crews = s.crews := by
  unfold State.updBillet; split <;> rfl
@[simp] theorem State.updBillet_bundles (s : State) (k : Nat) (f : Billet → Billet) : (s.updBillet k f).bundles = s.bundles := by
  unfold State.updBillet; split <;> rfl
@[simp] theorem State.updBillet_cores (s : State) (k : Nat) (f : Billet → Billet) : (s.updBillet k f).cores = s.cores := by
  unfold State.updBillet; split <;> rfl
@[simp] theorem State.updBillet_groups (s : State) (k : Nat) (f : Billet → Billet) : (s.updBillet k f).groups = s.groups := by
  unfold State.updBillet; split <;> rfl
@[simp] theorem State.updBillet_wps (s : State) (k : Nat) (f : Billet → Billet) : (s.updBillet k f).wps = s.wps := by
  unfold State.updBillet; split <;> rfl
@[simp] theorem State.updBillet_saved (s : State) (k : Nat) (f : Billet → Billet) : (s.updBillet k f).saved = s.saved := by
  unfold State.updBillet; split <;> rfl
@[simp] theorem State.updBillet_objUse (s : State) (k : Nat) (f : Billet → Billet) : (s.updBillet k f).objUse = s.objUse := by
  unfold State.updBillet; split <;> rfl
@[simp] theorem State.updBillet_icache (s : State) (k : Nat) (f : Billet → Billet) : (s.updBillet k f).icache = s.icache := by
  unfold State.updBillet; split <;> rfl
@[simp] theorem State.updBillet_ladle (s : State) (k : Nat) (f : Billet → Billet) : (s.updBillet k f).ladle = s.ladle := by
  unfold State.updBillet; split <;> rfl
@[simp] theorem State.updBillet_trav (s : State) (k : Nat) (f : Billet → Billet) : (s.updBillet k f).trav = s.trav := by
  unfold State.updBillet; split <;> rfl
@[simp] theorem State.updBillet_anvil (s : State) (k : Nat) (f : Billet → Billet) : (s.updBillet k f).anvil = s.anvil := by
  unfold State.updBillet; split <;> rfl
@[simp] theorem State.updBillet_surfs (s : State) (k : Nat) (f : Billet → Billet) : (s.updBillet k f).surfs = s.surfs := by
  unfold State.updBillet; split <;> rfl
@[simp] theorem State.updBillet_descs (s : State) (k : Nat) (f : Billet → Billet) : (s.updBillet k f).descs = s.descs := by
  unfold State.updBillet; split <;> rfl
@[simp] theorem State.updBillet_poolLow (s : State) (k : Nat) (f : Billet → Billet) : (s.updBillet k f).poolLow = s.poolLow := by
  unfold State.updBillet; split <;> rfl
@[simp] theorem State.updBillet_encWait (s : State) (k : Nat) (f : Billet → Billet) : (s.updBillet k f).encWait = s.encWait := by
  unfold State.updBillet; split <;> rfl
@[simp] theorem State.updBillet_frozen (s : State) (k : Nat) (f : Billet → Billet) : (s.updBillet k f).frozen = s.frozen := by
  unfold State.updBillet; split <;> rfl
@[simp] theorem State.updBillet_homes (s : State) (k : Nat) (f : Billet → Billet) : (s.updBillet k f).homes = s.homes := by
  unfold State.updBillet; split <;> rfl
@[simp] theorem State.updBillet_sliceBase (s : State) (k : Nat) (f : Billet → Billet) : (s.updBillet k f).sliceBase = s.sliceBase := by
  unfold State.updBillet; split <;> rfl
@[simp] theorem State.updBillet_copies (s : State) (k : Nat) (f : Billet → Billet) : (s.updBillet k f).copies = s.copies := by
  unfold State.updBillet; split <;> rfl
@[simp] theorem State.updBillet_probes (s : State) (k : Nat) (f : Billet → Billet) : (s.updBillet k f).probes = s.probes := by
  unfold State.updBillet; split <;> rfl
@[simp] theorem State.updBillet_notes (s : State) (k : Nat) (f : Billet → Billet) : (s.updBillet k f).notes = s.notes := by
  unfold State.updBillet; split <;> rfl
@[simp] theorem State.updBillet_know (s : State) (k : Nat) (f : Billet → Billet) : (s.updBillet k f).know = s.know := by
  unfold State.updBillet; split <;> rfl
@[simp] theorem State.updBillet_reads (s : State) (k : Nat) (f : Billet → Billet) : (s.updBillet k f).reads = s.reads := by
  unfold State.updBillet; split <;> rfl
@[simp] theorem State.updBillet_relFences (s : State) (k : Nat) (f : Billet → Billet) : (s.updBillet k f).relFences = s.relFences := by
  unfold State.updBillet; split <;> rfl
@[simp] theorem State.updBillet_scs (s : State) (k : Nat) (f : Billet → Billet) : (s.updBillet k f).scs = s.scs := by
  unfold State.updBillet; split <;> rfl
@[simp] theorem State.updBillet_carried (s : State) (k : Nat) (f : Billet → Billet) : (s.updBillet k f).carried = s.carried := by
  unfold State.updBillet; split <;> rfl
@[simp] theorem State.updBillet_scratchWait (s : State) (k : Nat) (f : Billet → Billet) : (s.updBillet k f).scratchWait = s.scratchWait := by
  unfold State.updBillet; split <;> rfl
@[simp] theorem State.updBillet_counts (s : State) (k : Nat) (f : Billet → Billet) : (s.updBillet k f).counts = s.counts := by
  unfold State.updBillet; split <;> rfl
@[simp] theorem State.updBillet_errors (s : State) (k : Nat) (f : Billet → Billet) : (s.updBillet k f).errors = s.errors := by
  unfold State.updBillet; split <;> rfl
@[simp] theorem State.updBillet_errLog (s : State) (k : Nat) (f : Billet → Billet) : (s.updBillet k f).errLog = s.errLog := by
  unfold State.updBillet; split <;> rfl
@[simp] theorem State.updBillet_ctxs (s : State) (k : Nat) (f : Billet → Billet) : (s.updBillet k f).ctxs = s.ctxs := by
  unfold State.updBillet; split <;> rfl
@[simp] theorem State.updBillet_tenants (s : State) (k : Nat) (f : Billet → Billet) : (s.updBillet k f).tenants = s.tenants := by
  unfold State.updBillet; split <;> rfl
@[simp] theorem State.updBillet_ctxSel (s : State) (k : Nat) (f : Billet → Billet) : (s.updBillet k f).ctxSel = s.ctxSel := by
  unfold State.updBillet; split <;> rfl
@[simp] theorem State.updBillet_l2cfg (s : State) (k : Nat) (f : Billet → Billet) : (s.updBillet k f).l2cfg = s.l2cfg := by
  unfold State.updBillet; split <;> rfl
@[simp] theorem State.updBillet_rngBase (s : State) (k : Nat) (f : Billet → Billet) : (s.updBillet k f).rngBase = s.rngBase := by
  unfold State.updBillet; split <;> rfl
@[simp] theorem State.updBillet_rngLim (s : State) (k : Nat) (f : Billet → Billet) : (s.updBillet k f).rngLim = s.rngLim := by
  unfold State.updBillet; split <;> rfl
@[simp] theorem State.updBillet_rngCtl (s : State) (k : Nat) (f : Billet → Billet) : (s.updBillet k f).rngCtl = s.rngCtl := by
  unfold State.updBillet; split <;> rfl
@[simp] theorem State.updBillet_rngAcc (s : State) (k : Nat) (f : Billet → Billet) : (s.updBillet k f).rngAcc = s.rngAcc := by
  unfold State.updBillet; split <;> rfl
@[simp] theorem State.updBillet_capCores (s : State) (k : Nat) (f : Billet → Billet) : (s.updBillet k f).capCores = s.capCores := by
  unfold State.updBillet; split <;> rfl
@[simp] theorem State.updBillet_capSlices (s : State) (k : Nat) (f : Billet → Billet) : (s.updBillet k f).capSlices = s.capSlices := by
  unfold State.updBillet; split <;> rfl
@[simp] theorem State.updBillet_capChan (s : State) (k : Nat) (f : Billet → Billet) : (s.updBillet k f).capChan = s.capChan := by
  unfold State.updBillet; split <;> rfl
@[simp] theorem State.updBillet_capWaves (s : State) (k : Nat) (f : Billet → Billet) : (s.updBillet k f).capWaves = s.capWaves := by
  unfold State.updBillet; split <;> rfl
@[simp] theorem State.updBillet_drwSize (s : State) (k : Nat) (f : Billet → Billet) : (s.updBillet k f).drwSize = s.drwSize := by
  unfold State.updBillet; split <;> rfl
@[simp] theorem State.updBillet_slotTab (s : State) (k : Nat) (f : Billet → Billet) : (s.updBillet k f).slotTab = s.slotTab := by
  unfold State.updBillet; split <;> rfl
@[simp] theorem State.updBillet_slotShadow (s : State) (k : Nat) (f : Billet → Billet) : (s.updBillet k f).slotShadow = s.slotShadow := by
  unfold State.updBillet; split <;> rfl
@[simp] theorem State.updBillet_ports (s : State) (k : Nat) (f : Billet → Billet) : (s.updBillet k f).ports = s.ports := by
  unfold State.updBillet; split <;> rfl
@[simp] theorem State.updBillet_sliceMap (s : State) (k : Nat) (f : Billet → Billet) : (s.updBillet k f).sliceMap = s.sliceMap := by
  unfold State.updBillet; split <;> rfl
@[simp] theorem State.updBillet_retired (s : State) (k : Nat) (f : Billet → Billet) : (s.updBillet k f).retired = s.retired := by
  unfold State.updBillet; split <;> rfl
@[simp] theorem State.updBillet_time (s : State) (k : Nat) (f : Billet → Billet) : (s.updBillet k f).time = s.time := by
  unfold State.updBillet; split <;> rfl
@[simp] theorem State.updBillet_sub (s : State) (k : Nat) (f : Billet → Billet) : (s.updBillet k f).sub = s.sub := by
  unfold State.updBillet; split <;> rfl
@[simp] theorem State.updBillet_hold (s : State) (k : Nat) (f : Billet → Billet) : (s.updBillet k f).hold = s.hold := by
  unfold State.updBillet; split <;> rfl
@[simp] theorem State.updBillet_slewAt (s : State) (k : Nat) (f : Billet → Billet) : (s.updBillet k f).slewAt = s.slewAt := by
  unfold State.updBillet; split <;> rfl
@[simp] theorem State.updBillet_refDrawer (s : State) (k : Nat) (f : Billet → Billet) : (s.updBillet k f).refDrawer = s.refDrawer := by
  unfold State.updBillet; split <;> rfl
@[simp] theorem State.updBillet_ready (s : State) (k : Nat) (f : Billet → Billet) : (s.updBillet k f).ready = s.ready := by
  unfold State.updBillet; split <;> rfl
@[simp] theorem State.updBillet_recovery (s : State) (k : Nat) (f : Billet → Billet) : (s.updBillet k f).recovery = s.recovery := by
  unfold State.updBillet; split <;> rfl
@[simp] theorem State.updBillet_status (s : State) (k : Nat) (f : Billet → Billet) : (s.updBillet k f).status = s.status := by
  unfold State.updBillet; split <;> rfl
@[simp] theorem State.updBillet_power (s : State) (k : Nat) (f : Billet → Billet) : (s.updBillet k f).power = s.power := by
  unfold State.updBillet; split <;> rfl
@[simp] theorem State.updBillet_clockStep (s : State) (k : Nat) (f : Billet → Billet) : (s.updBillet k f).clockStep = s.clockStep := by
  unfold State.updBillet; split <;> rfl
@[simp] theorem State.updBillet_module (s : State) (k : Nat) (f : Billet → Billet) : (s.updBillet k f).module = s.module := by
  unfold State.updBillet; split <;> rfl
@[simp] theorem State.updBillet_measurement (s : State) (k : Nat) (f : Billet → Billet) : (s.updBillet k f).measurement = s.measurement := by
  unfold State.updBillet; split <;> rfl
@[simp] theorem State.updBillet_attest (s : State) (k : Nat) (f : Billet → Billet) : (s.updBillet k f).attest = s.attest := by
  unfold State.updBillet; split <;> rfl
@[simp] theorem State.updBillet_irqs (s : State) (k : Nat) (f : Billet → Billet) : (s.updBillet k f).irqs = s.irqs := by
  unfold State.updBillet; split <;> rfl
@[simp] theorem State.updWp_agenda (s : State) (w : Nat) (f : Workpiece → Workpiece) : (s.updWp w f).agenda = s.agenda := by
  unfold State.updWp; split <;> rfl
@[simp] theorem State.updWp_fresh (s : State) (w : Nat) (f : Workpiece → Workpiece) : (s.updWp w f).fresh = s.fresh := by
  unfold State.updWp; split <;> rfl
@[simp] theorem State.updWp_cur (s : State) (w : Nat) (f : Workpiece → Workpiece) : (s.updWp w f).cur = s.cur := by
  unfold State.updWp; split <;> rfl
@[simp] theorem State.updWp_pend (s : State) (w : Nat) (f : Workpiece → Workpiece) : (s.updWp w f).pend = s.pend := by
  unfold State.updWp; split <;> rfl
@[simp] theorem State.updWp_seq (s : State) (w : Nat) (f : Workpiece → Workpiece) : (s.updWp w f).seq = s.seq := by
  unfold State.updWp; split <;> rfl
@[simp] theorem State.updWp_mem (s : State) (w : Nat) (f : Workpiece → Workpiece) : (s.updWp w f).mem = s.mem := by
  unfold State.updWp; split <;> rfl
@[simp] theorem State.updWp_scratch (s : State) (w : Nat) (f : Workpiece → Workpiece) : (s.updWp w f).scratch = s.scratch := by
  unfold State.updWp; split <;> rfl
@[simp] theorem State.updWp_acc (s : State) (w : Nat) (f : Workpiece → Workpiece) : (s.updWp w f).acc = s.acc := by
  unfold State.updWp; split <;> rfl
@[simp] theorem State.updWp_book (s : State) (w : Nat) (f : Workpiece → Workpiece) : (s.updWp w f).book = s.book := by
  unfold State.updWp; split <;> rfl
@[simp] theorem State.updWp_stale (s : State) (w : Nat) (f : Workpiece → Workpiece) : (s.updWp w f).stale = s.stale := by
  unfold State.updWp; split <;> rfl
@[simp] theorem State.updWp_threads (s : State) (w : Nat) (f : Workpiece → Workpiece) : (s.updWp w f).threads = s.threads := by
  unfold State.updWp; split <;> rfl
@[simp] theorem State.updWp_crews (s : State) (w : Nat) (f : Workpiece → Workpiece) : (s.updWp w f).crews = s.crews := by
  unfold State.updWp; split <;> rfl
@[simp] theorem State.updWp_billets (s : State) (w : Nat) (f : Workpiece → Workpiece) : (s.updWp w f).billets = s.billets := by
  unfold State.updWp; split <;> rfl
@[simp] theorem State.updWp_bundles (s : State) (w : Nat) (f : Workpiece → Workpiece) : (s.updWp w f).bundles = s.bundles := by
  unfold State.updWp; split <;> rfl
@[simp] theorem State.updWp_cores (s : State) (w : Nat) (f : Workpiece → Workpiece) : (s.updWp w f).cores = s.cores := by
  unfold State.updWp; split <;> rfl
@[simp] theorem State.updWp_groups (s : State) (w : Nat) (f : Workpiece → Workpiece) : (s.updWp w f).groups = s.groups := by
  unfold State.updWp; split <;> rfl
@[simp] theorem State.updWp_saved (s : State) (w : Nat) (f : Workpiece → Workpiece) : (s.updWp w f).saved = s.saved := by
  unfold State.updWp; split <;> rfl
@[simp] theorem State.updWp_objUse (s : State) (w : Nat) (f : Workpiece → Workpiece) : (s.updWp w f).objUse = s.objUse := by
  unfold State.updWp; split <;> rfl
@[simp] theorem State.updWp_icache (s : State) (w : Nat) (f : Workpiece → Workpiece) : (s.updWp w f).icache = s.icache := by
  unfold State.updWp; split <;> rfl
@[simp] theorem State.updWp_ladle (s : State) (w : Nat) (f : Workpiece → Workpiece) : (s.updWp w f).ladle = s.ladle := by
  unfold State.updWp; split <;> rfl
@[simp] theorem State.updWp_trav (s : State) (w : Nat) (f : Workpiece → Workpiece) : (s.updWp w f).trav = s.trav := by
  unfold State.updWp; split <;> rfl
@[simp] theorem State.updWp_anvil (s : State) (w : Nat) (f : Workpiece → Workpiece) : (s.updWp w f).anvil = s.anvil := by
  unfold State.updWp; split <;> rfl
@[simp] theorem State.updWp_surfs (s : State) (w : Nat) (f : Workpiece → Workpiece) : (s.updWp w f).surfs = s.surfs := by
  unfold State.updWp; split <;> rfl
@[simp] theorem State.updWp_descs (s : State) (w : Nat) (f : Workpiece → Workpiece) : (s.updWp w f).descs = s.descs := by
  unfold State.updWp; split <;> rfl
@[simp] theorem State.updWp_poolLow (s : State) (w : Nat) (f : Workpiece → Workpiece) : (s.updWp w f).poolLow = s.poolLow := by
  unfold State.updWp; split <;> rfl
@[simp] theorem State.updWp_encWait (s : State) (w : Nat) (f : Workpiece → Workpiece) : (s.updWp w f).encWait = s.encWait := by
  unfold State.updWp; split <;> rfl
@[simp] theorem State.updWp_frozen (s : State) (w : Nat) (f : Workpiece → Workpiece) : (s.updWp w f).frozen = s.frozen := by
  unfold State.updWp; split <;> rfl
@[simp] theorem State.updWp_homes (s : State) (w : Nat) (f : Workpiece → Workpiece) : (s.updWp w f).homes = s.homes := by
  unfold State.updWp; split <;> rfl
@[simp] theorem State.updWp_sliceBase (s : State) (w : Nat) (f : Workpiece → Workpiece) : (s.updWp w f).sliceBase = s.sliceBase := by
  unfold State.updWp; split <;> rfl
@[simp] theorem State.updWp_copies (s : State) (w : Nat) (f : Workpiece → Workpiece) : (s.updWp w f).copies = s.copies := by
  unfold State.updWp; split <;> rfl
@[simp] theorem State.updWp_probes (s : State) (w : Nat) (f : Workpiece → Workpiece) : (s.updWp w f).probes = s.probes := by
  unfold State.updWp; split <;> rfl
@[simp] theorem State.updWp_notes (s : State) (w : Nat) (f : Workpiece → Workpiece) : (s.updWp w f).notes = s.notes := by
  unfold State.updWp; split <;> rfl
@[simp] theorem State.updWp_know (s : State) (w : Nat) (f : Workpiece → Workpiece) : (s.updWp w f).know = s.know := by
  unfold State.updWp; split <;> rfl
@[simp] theorem State.updWp_reads (s : State) (w : Nat) (f : Workpiece → Workpiece) : (s.updWp w f).reads = s.reads := by
  unfold State.updWp; split <;> rfl
@[simp] theorem State.updWp_relFences (s : State) (w : Nat) (f : Workpiece → Workpiece) : (s.updWp w f).relFences = s.relFences := by
  unfold State.updWp; split <;> rfl
@[simp] theorem State.updWp_scs (s : State) (w : Nat) (f : Workpiece → Workpiece) : (s.updWp w f).scs = s.scs := by
  unfold State.updWp; split <;> rfl
@[simp] theorem State.updWp_carried (s : State) (w : Nat) (f : Workpiece → Workpiece) : (s.updWp w f).carried = s.carried := by
  unfold State.updWp; split <;> rfl
@[simp] theorem State.updWp_scratchWait (s : State) (w : Nat) (f : Workpiece → Workpiece) : (s.updWp w f).scratchWait = s.scratchWait := by
  unfold State.updWp; split <;> rfl
@[simp] theorem State.updWp_counts (s : State) (w : Nat) (f : Workpiece → Workpiece) : (s.updWp w f).counts = s.counts := by
  unfold State.updWp; split <;> rfl
@[simp] theorem State.updWp_errors (s : State) (w : Nat) (f : Workpiece → Workpiece) : (s.updWp w f).errors = s.errors := by
  unfold State.updWp; split <;> rfl
@[simp] theorem State.updWp_errLog (s : State) (w : Nat) (f : Workpiece → Workpiece) : (s.updWp w f).errLog = s.errLog := by
  unfold State.updWp; split <;> rfl
@[simp] theorem State.updWp_ctxs (s : State) (w : Nat) (f : Workpiece → Workpiece) : (s.updWp w f).ctxs = s.ctxs := by
  unfold State.updWp; split <;> rfl
@[simp] theorem State.updWp_tenants (s : State) (w : Nat) (f : Workpiece → Workpiece) : (s.updWp w f).tenants = s.tenants := by
  unfold State.updWp; split <;> rfl
@[simp] theorem State.updWp_ctxSel (s : State) (w : Nat) (f : Workpiece → Workpiece) : (s.updWp w f).ctxSel = s.ctxSel := by
  unfold State.updWp; split <;> rfl
@[simp] theorem State.updWp_l2cfg (s : State) (w : Nat) (f : Workpiece → Workpiece) : (s.updWp w f).l2cfg = s.l2cfg := by
  unfold State.updWp; split <;> rfl
@[simp] theorem State.updWp_rngBase (s : State) (w : Nat) (f : Workpiece → Workpiece) : (s.updWp w f).rngBase = s.rngBase := by
  unfold State.updWp; split <;> rfl
@[simp] theorem State.updWp_rngLim (s : State) (w : Nat) (f : Workpiece → Workpiece) : (s.updWp w f).rngLim = s.rngLim := by
  unfold State.updWp; split <;> rfl
@[simp] theorem State.updWp_rngCtl (s : State) (w : Nat) (f : Workpiece → Workpiece) : (s.updWp w f).rngCtl = s.rngCtl := by
  unfold State.updWp; split <;> rfl
@[simp] theorem State.updWp_rngAcc (s : State) (w : Nat) (f : Workpiece → Workpiece) : (s.updWp w f).rngAcc = s.rngAcc := by
  unfold State.updWp; split <;> rfl
@[simp] theorem State.updWp_capCores (s : State) (w : Nat) (f : Workpiece → Workpiece) : (s.updWp w f).capCores = s.capCores := by
  unfold State.updWp; split <;> rfl
@[simp] theorem State.updWp_capSlices (s : State) (w : Nat) (f : Workpiece → Workpiece) : (s.updWp w f).capSlices = s.capSlices := by
  unfold State.updWp; split <;> rfl
@[simp] theorem State.updWp_capChan (s : State) (w : Nat) (f : Workpiece → Workpiece) : (s.updWp w f).capChan = s.capChan := by
  unfold State.updWp; split <;> rfl
@[simp] theorem State.updWp_capWaves (s : State) (w : Nat) (f : Workpiece → Workpiece) : (s.updWp w f).capWaves = s.capWaves := by
  unfold State.updWp; split <;> rfl
@[simp] theorem State.updWp_drwSize (s : State) (w : Nat) (f : Workpiece → Workpiece) : (s.updWp w f).drwSize = s.drwSize := by
  unfold State.updWp; split <;> rfl
@[simp] theorem State.updWp_slotTab (s : State) (w : Nat) (f : Workpiece → Workpiece) : (s.updWp w f).slotTab = s.slotTab := by
  unfold State.updWp; split <;> rfl
@[simp] theorem State.updWp_slotShadow (s : State) (w : Nat) (f : Workpiece → Workpiece) : (s.updWp w f).slotShadow = s.slotShadow := by
  unfold State.updWp; split <;> rfl
@[simp] theorem State.updWp_ports (s : State) (w : Nat) (f : Workpiece → Workpiece) : (s.updWp w f).ports = s.ports := by
  unfold State.updWp; split <;> rfl
@[simp] theorem State.updWp_sliceMap (s : State) (w : Nat) (f : Workpiece → Workpiece) : (s.updWp w f).sliceMap = s.sliceMap := by
  unfold State.updWp; split <;> rfl
@[simp] theorem State.updWp_retired (s : State) (w : Nat) (f : Workpiece → Workpiece) : (s.updWp w f).retired = s.retired := by
  unfold State.updWp; split <;> rfl
@[simp] theorem State.updWp_time (s : State) (w : Nat) (f : Workpiece → Workpiece) : (s.updWp w f).time = s.time := by
  unfold State.updWp; split <;> rfl
@[simp] theorem State.updWp_sub (s : State) (w : Nat) (f : Workpiece → Workpiece) : (s.updWp w f).sub = s.sub := by
  unfold State.updWp; split <;> rfl
@[simp] theorem State.updWp_hold (s : State) (w : Nat) (f : Workpiece → Workpiece) : (s.updWp w f).hold = s.hold := by
  unfold State.updWp; split <;> rfl
@[simp] theorem State.updWp_slewAt (s : State) (w : Nat) (f : Workpiece → Workpiece) : (s.updWp w f).slewAt = s.slewAt := by
  unfold State.updWp; split <;> rfl
@[simp] theorem State.updWp_refDrawer (s : State) (w : Nat) (f : Workpiece → Workpiece) : (s.updWp w f).refDrawer = s.refDrawer := by
  unfold State.updWp; split <;> rfl
@[simp] theorem State.updWp_ready (s : State) (w : Nat) (f : Workpiece → Workpiece) : (s.updWp w f).ready = s.ready := by
  unfold State.updWp; split <;> rfl
@[simp] theorem State.updWp_recovery (s : State) (w : Nat) (f : Workpiece → Workpiece) : (s.updWp w f).recovery = s.recovery := by
  unfold State.updWp; split <;> rfl
@[simp] theorem State.updWp_status (s : State) (w : Nat) (f : Workpiece → Workpiece) : (s.updWp w f).status = s.status := by
  unfold State.updWp; split <;> rfl
@[simp] theorem State.updWp_power (s : State) (w : Nat) (f : Workpiece → Workpiece) : (s.updWp w f).power = s.power := by
  unfold State.updWp; split <;> rfl
@[simp] theorem State.updWp_clockStep (s : State) (w : Nat) (f : Workpiece → Workpiece) : (s.updWp w f).clockStep = s.clockStep := by
  unfold State.updWp; split <;> rfl
@[simp] theorem State.updWp_module (s : State) (w : Nat) (f : Workpiece → Workpiece) : (s.updWp w f).module = s.module := by
  unfold State.updWp; split <;> rfl
@[simp] theorem State.updWp_measurement (s : State) (w : Nat) (f : Workpiece → Workpiece) : (s.updWp w f).measurement = s.measurement := by
  unfold State.updWp; split <;> rfl
@[simp] theorem State.updWp_attest (s : State) (w : Nat) (f : Workpiece → Workpiece) : (s.updWp w f).attest = s.attest := by
  unfold State.updWp; split <;> rfl
@[simp] theorem State.updWp_irqs (s : State) (w : Nat) (f : Workpiece → Workpiece) : (s.updWp w f).irqs = s.irqs := by
  unfold State.updWp; split <;> rfl

@[simp] theorem State.setThr_threads (s : State) (t : Nat) (x : Thread) : (s.setThr t x).threads = s.threads.set t x := rfl
@[simp] theorem State.setCrew_crews (s : State) (c : Nat) (x : Crew) : (s.setCrew c x).crews = s.crews.set c x := rfl
@[simp] theorem State.writePa_mem (s : State) (a : Nat) (bs : List Byte) :
    (s.writePa a bs).mem = Memory.writeBytes s.mem a bs := rfl

end Sys2Proof.Machine
end

