-- ==== Sys2Proof/Laws/Issue.lean ====
section
/-!
SUPPORT. What the shared operations on threads do: register writes, the end of a word, and a word that issues with nothing in
its way.
-/
namespace Sys2Proof.Machine

-- One theorem at a time: elaborating them side by side costs a thread stack each, and the text compiles under a memory limit.
set_option Elab.async false

theorem State.thr_setThr (s : State) (t u : Nat) (x : Thread) : (s.setThr t x).thr u = if u = t then x else s.thr u := by
  unfold State.thr State.setThr
  simp only [Map.get?_set]
  split <;> rfl

theorem State.thr_updThr (s : State) (t u : Nat) (f : Thread → Thread) :
    (s.updThr t f).thr u = if u = t then f (s.thr t) else s.thr u := s.thr_setThr t u _

theorem State.crew_setCrew (s : State) (c d : Nat) (x : Crew) : (s.setCrew c x).crew d = if d = c then x else s.crew d := by
  unfold State.crew State.setCrew
  simp only [Map.get?_set]
  split <;> rfl

theorem State.crew_updCrew (s : State) (c d : Nat) (f : Crew → Crew) :
    (s.updCrew c f).crew d = if d = c then f (s.crew c) else s.crew d := s.crew_setCrew c d _

theorem State.here_updThr (s : State) (t u : Nat) (f : Thread → Thread) :
    ((s.updThr t f).threads.get? u).isSome = (decide (u = t) || (s.threads.get? u).isSome) := by
  unfold State.updThr State.setThr
  simp only [Map.get?_set]
  split <;> simp [*]

/-- A state that differs from another in billets' journals only. -/
def JournalOnly (s t : State) : Prop :=
  { t with billets := s.billets } = s ∧ ∀ k, (t.billets.get? k).map Billet.rest = (s.billets.get? k).map Billet.rest

theorem JournalOnly.refl (s : State) : JournalOnly s s := ⟨rfl, fun _ => rfl⟩

theorem JournalOnly.updBillet (s : State) (k : Nat) (f : Billet → Billet) (hf : ∀ b, (f b).rest = b.rest) :
    JournalOnly s (s.updBillet k f) := by
  unfold State.updBillet
  split
  · rename_i b hb
    refine ⟨rfl, fun j => ?_⟩
    simp only [Map.get?_set]
    split
    · rename_i hj; subst hj; simp [hb, hf]
    · rfl
  · exact JournalOnly.refl s

/-- What journalling does: it notes, or the interval becomes irrevocable; nothing else changes (R412, R413). -/
theorem JournalOnly.journal (s : State) (k : Nat) (u : JUnit) : JournalOnly s (s.journal k u) := by
  unfold State.journal
  split
  · exact .refl s
  · split
    · exact .refl s
    · split
      · exact .refl s
      · split
        · exact .updBillet s k _ fun _ => rfl
        · exact .updBillet s k _ fun _ => rfl

/-- The relation between the states before and after register writes. -/
structure RegsOnly (s t : State) : Prop where
  rest : t.rest = s.rest
  thr : ∀ u, (t.thr u).rest = (s.thr u).rest
  place : ∀ u, (t.thr u).pc = (s.thr u).pc ∧ (t.thr u).widx = (s.thr u).widx ∧ (t.thr u).status = (s.thr u).status ∧
    (t.thr u).clause = (s.thr u).clause
  here : ∀ u, (s.threads.get? u).isSome → (t.threads.get? u).isSome
  crew : ∀ c, (t.crew c).rest = (s.crew c).rest
  billets : ∀ k, (t.billets.get? k).map Billet.rest = (s.billets.get? k).map Billet.rest
  bundles : t.bundles = s.bundles
  pend : t.pend.map Pend.rest = s.pend.map Pend.rest

theorem RegsOnly.refl (s : State) : RegsOnly s s :=
  ⟨rfl, fun _ => rfl, fun _ => ⟨rfl, rfl, rfl, rfl⟩, fun _ h => h, fun _ => rfl, fun _ => rfl, rfl, rfl⟩

theorem RegsOnly.trans {s t u : State} (h : RegsOnly s t) (k : RegsOnly t u) : RegsOnly s u :=
  ⟨k.rest.trans h.rest, fun x => (k.thr x).trans (h.thr x),
   fun x => ⟨(k.place x).1.trans (h.place x).1, (k.place x).2.1.trans (h.place x).2.1,
     (k.place x).2.2.1.trans (h.place x).2.2.1, (k.place x).2.2.2.trans (h.place x).2.2.2⟩,
   fun x hx => k.here x (h.here x hx), fun c => (k.crew c).trans (h.crew c), fun x => (k.billets x).trans (h.billets x),
   k.bundles.trans h.bundles, k.pend.trans h.pend⟩

theorem RegsOnly.of_journal {s t : State} (h : JournalOnly s t) : RegsOnly s t := by
  obtain ⟨h1, h2⟩ := h
  have ht : t = { s with billets := t.billets } := congrArg (fun y : State => { y with billets := t.billets }) h1
  rw [ht]
  exact ⟨rfl, fun _ => rfl, fun _ => ⟨rfl, rfl, rfl, rfl⟩, fun _ h => h, fun _ => rfl, fun k => h2 k, rfl, rfl⟩

theorem RegsOnly.updThr (s : State) (t : Nat) (f : Thread → Thread) (hr : ∀ x, (f x).rest = x.rest)
    (hp : ∀ x, (f x).pc = x.pc ∧ (f x).widx = x.widx ∧ (f x).status = x.status ∧ (f x).clause = x.clause) :
    RegsOnly s (s.updThr t f) := by
  refine ⟨rfl, fun u => ?_, fun u => ?_, fun u h => ?_, fun _ => rfl, fun _ => rfl, rfl, rfl⟩
  · rw [State.thr_updThr]; split
    · rename_i h; subst h; exact hr _
    · rfl
  · rw [State.thr_updThr]; split
    · rename_i h; subst h; exact hp _
    · exact ⟨rfl, rfl, rfl, rfl⟩
  · rw [State.here_updThr]; simp [h]

theorem RegsOnly.updCrew (s : State) (c : Nat) (f : Crew → Crew) (hr : ∀ x, (f x).rest = x.rest) :
    RegsOnly s (s.updCrew c f) := by
  refine ⟨rfl, fun _ => rfl, fun _ => ⟨rfl, rfl, rfl, rfl⟩, fun _ h => h, fun d => ?_, fun _ => rfl, rfl, rfl⟩
  rw [State.crew_updCrew]; split
  · rename_i h; subst h; exact hr _
  · rfl

theorem Thread.put_rest (t : Thread) (g : Target) (v : W32) (p : Bool) : (t.put g v p).rest = t.rest := by
  cases g <;> rfl

theorem Thread.put_place (t : Thread) (g : Target) (v : W32) (p : Bool) :
    (t.put g v p).pc = t.pc ∧ (t.put g v p).widx = t.widx ∧ (t.put g v p).status = t.status ∧
      (t.put g v p).clause = t.clause := by
  cases g <;> exact ⟨rfl, rfl, rfl, rfl⟩

theorem RegsOnly.putReg (s : State) (t : Nat) (w : RegWrite) : RegsOnly s (s.putReg t w) := by
  unfold State.putReg
  split
  · exact (RegsOnly.of_journal (.journal s _ _)).trans
      (.updThr _ t _ (fun x => x.put_rest ..) fun x => x.put_place ..)
  · exact .updThr _ t _ (fun x => x.put_rest ..) fun x => x.put_place ..
  · exact .updCrew _ _ _ fun _ => rfl

theorem RegsOnly.contest (s : State) (t : Nat) (gs : List Target) : RegsOnly s (s.contest t gs) := by
  refine ⟨rfl, fun _ => rfl, fun _ => ⟨rfl, rfl, rfl, rfl⟩, fun _ h => h, fun _ => rfl, fun _ => rfl, rfl, ?_⟩
  unfold State.contest
  simp only [List.map_map]
  apply List.map_congr_left
  intro p _
  simp only [Function.comp]
  split <;> rfl

theorem RegsOnly.foldl {α : Type} (f : State → α → State) (hf : ∀ s a, RegsOnly s (f s a)) (s : State) (l : List α) :
    RegsOnly s (l.foldl f s) := by
  induction l generalizing s with
  | nil => exact .refl s
  | cons a t ih => exact (hf s a).trans (ih _)

theorem RegsOnly.putRegs (s : State) (t : Nat) (ws : List RegWrite) : RegsOnly s (s.putRegs t ws) :=
  (RegsOnly.contest s t _).trans (.foldl _ (fun s w => .putReg s t w) _ ws)

/-! What a register stores after a write. -/

/-- A write of thread u to a register of its kind reaches thread t: its own registers, or those of its crew. -/
def hitsReg (u t : Nat) (g : Target) : Bool :=
  match g with
  | .s _ => crewOf u == crewOf t
  | _ => u == t

theorem State.stored_congr {s t : State} (h1 : s.threads = t.threads) (h2 : s.crews = t.crews) (u : Nat) (g : Target) :
    s.stored u g = t.stored u g := by
  have ht : s.thr u = t.thr u := by unfold State.thr; rw [h1]
  have hc : s.crew (crewOf u) = t.crew (crewOf u) := by unfold State.crew; rw [h2]
  cases g <;> simp only [State.stored] <;> first | rw [ht] | rw [hc]

theorem State.stored_journal (s : State) (k : Nat) (j : JUnit) (u : Nat) (g : Target) :
    (s.journal k j).stored u g = s.stored u g := by
  have h := (JournalOnly.journal s k j).1
  exact State.stored_congr (congrArg State.threads h) (congrArg State.crews h) u g

theorem setPred_getLsbD (p : BitVec 7) (n m : Nat) (b : Bool) (hn : n < 7) :
    (setPred p n b).getLsbD m = if m = n then b else p.getLsbD m := by
  have h2 : (BitVec.ofNat 7 (2 ^ n)).getLsbD m = (decide (m < 7) && decide (m = n)) := by
    rw [BitVec.getLsbD_ofNat, Nat.testBit_two_pow]
    congr 1
    simp [eq_comm]
  unfold setPred
  by_cases hm : m < 7
  · split <;> rename_i hb
    · rw [BitVec.getLsbD_or, h2]; by_cases h : m = n <;> simp [hm, h, hb, hn]
    · rw [BitVec.getLsbD_and, BitVec.getLsbD_not, h2]; by_cases h : m = n <;> simp [hm, h, hb, hn]
  · have : ¬ m = n := by omega
    rw [if_neg this, BitVec.getLsbD_of_ge _ _ (by omega), BitVec.getLsbD_of_ge _ _ (by omega)]

/-- What a v register or predicate of one thread shows. -/
def Thread.shows (t : Thread) : Target → PVal
  | .v n => (t.vReg n, t.poison.contains n)
  | .p n => (if t.p.getLsbD n then 1 else 0, false)
  | .s _ => (0, false)

theorem Thread.shows_put_self (t : Thread) (g : Target) (v : W32) (p : Bool) (hg : ∀ n, g = .p n → n < 7)
    (hs : ∀ n, g ≠ .s n) : (t.put g v p).shows g = RegWrite.shown { tgt := g, val := v, poison := p } := by
  cases g with
  | v n =>
    cases p with
    | false => simp [Thread.shows, Thread.put, Thread.vReg, RegWrite.shown, Map.get?_set_self, List.contains_eq_mem]
    | true =>
      simp only [Thread.shows, Thread.put, Thread.vReg, RegWrite.shown, Map.get?_set_self, if_true, Option.getD_some]
      split <;> simp_all
  | p n => simp [Thread.shows, Thread.put, RegWrite.shown, setPred_getLsbD _ _ _ _ (hg n rfl)]
  | s n => exact absurd rfl (hs n)

theorem Thread.shows_put_ne (t : Thread) (g g' : Target) (v : W32) (p : Bool) (hg : ∀ n, g' = .p n → n < 7)
    (hne : g ≠ g') : (t.put g v p).shows g' = t.shows g' := by
  cases g with
  | v n =>
    cases g' with
    | v m =>
      have h1 : ¬ m = n := fun h => hne (by rw [h])
      cases p with
      | false => simp [Thread.shows, Thread.put, Thread.vReg, Map.get?_set_ne _ _ h1, List.contains_eq_mem, h1]
      | true =>
        simp only [Thread.shows, Thread.put, Thread.vReg, Map.get?_set_ne _ _ h1, if_true]
        split <;> simp [List.contains_eq_mem, h1]
    | p m => rfl
    | s m => rfl
  | p n =>
    cases g' with
    | v m => rfl
    | p m =>
      have h1 : ¬ m = n := fun h => hne (by rw [h])
      have hm := hg m rfl
      by_cases hn : n < 7
      · simp [Thread.shows, Thread.put, setPred_getLsbD _ _ _ _ hn, h1]
      · have h0 : BitVec.ofNat 7 (2 ^ n) = 0 := by
          apply BitVec.eq_of_toNat_eq
          have : 2 ^ 7 ∣ 2 ^ n := pow_dvd_pow 2 (by omega)
          simpa [BitVec.toNat_ofNat] using Nat.mod_eq_zero_of_dvd this
        have h2 : setPred t.p n (v.getLsbD 0) = t.p := by
          unfold setPred; rw [h0]
          split
          · simp
          · exact BitVec.and_allOnes
        simp only [Thread.shows, Thread.put, h2]
    | s m => rfl
  | s n => rfl

theorem State.stored_eq_shows (s : State) (t : Nat) (g : Target) (hs : ∀ n, g ≠ .s n) : s.stored t g = (s.thr t).shows g := by
  cases g with
  | s n => exact absurd rfl (hs n)
  | _ => rfl

/-- The threads hold what the last update put; s registers stay. -/
theorem State.stored_updThr_put (s : State) (u : Nat) (g : Target) (v : W32) (p : Bool) (t : Nat) (g' : Target)
    (hg : ∀ n, g' = .p n → n < 7) (hs : ∀ n, g ≠ .s n) :
    (s.updThr u fun x => x.put g v p).stored t g' =
      if g = g' ∧ hitsReg u t g' = true then RegWrite.shown { tgt := g, val := v, poison := p } else s.stored t g' := by
  by_cases hs' : ∀ n, g' ≠ .s n
  · have hsee : hitsReg u t g' = (u == t) := by
      cases g' with
      | s n => exact absurd rfl (hs' n)
      | _ => rfl
    rw [State.stored_eq_shows _ _ _ hs', State.stored_eq_shows _ _ _ hs', State.thr_updThr, hsee]
    by_cases ht : t = u
    · subst ht
      by_cases h : g = g'
      · subst h; simp [Thread.shows_put_self _ _ _ _ hg hs]
      · simp [h, Thread.shows_put_ne _ _ _ _ _ hg h]
    · have : ¬ u = t := fun h => ht h.symm
      simp [ht, this]
  · simp only [not_forall, not_not] at hs'
    obtain ⟨n, rfl⟩ := hs'
    rw [if_neg (fun h => hs n h.1)]
    rfl

theorem State.stored_putReg (s : State) (u : Nat) (w : RegWrite) (t : Nat) (g : Target) (hg : ∀ n, g = .p n → n < 7) :
    (s.putReg u w).stored t g = if w.tgt = g ∧ hitsReg u t g = true then w.shown else s.stored t g := by
  obtain ⟨tgt, val, poison⟩ := w
  cases tgt with
  | v n =>
    simp only [State.putReg]
    rw [State.stored_updThr_put _ _ _ _ _ _ _ hg (by simp), State.stored_journal]
  | p n =>
    simp only [State.putReg]
    rw [State.stored_updThr_put _ _ _ _ _ _ _ hg (by simp)]
  | s n =>
    simp only [State.putReg]
    cases g with
    | v m => simp; rfl
    | p m => simp; rfl
    | s m =>
      simp only [State.stored, State.crew_updCrew, hitsReg, RegWrite.shown]
      by_cases ht : crewOf t = crewOf u
      · rw [if_pos ht]
        by_cases h : m = n
        · subst h; simp [Map.get?_set, ht]
        · have : ¬ n = m := fun e => h e.symm
          simp [Map.get?_set, h, this, ht]
      · have : ¬ crewOf u = crewOf t := fun h => ht h.symm
        simp [this, ht]

/-- The registers after the writes of one thread. -/
theorem State.stored_putRegs (s : State) (u : Nat) (ws : List RegWrite) (t : Nat) (g : Target)
    (hg : ∀ n, g = .p n → n < 7) :
    (s.putRegs u ws).stored t g = if hitsReg u t g then (lastTo ws g).getD (s.stored t g) else s.stored t g := by
  have h0 : (s.contest u (ws.map RegWrite.tgt)).stored t g = s.stored t g :=
    State.stored_congr rfl rfl t g
  unfold State.putRegs
  rw [← h0]
  generalize s.contest u (ws.map RegWrite.tgt) = s'
  clear h0
  induction ws generalizing s' with
  | nil => simp [lastTo]
  | cons w r ih =>
    rw [List.foldl_cons, ih, State.stored_putReg _ _ _ _ _ hg]
    by_cases hs : hitsReg u t g = true
    · simp only [hs, if_true, and_true]
      by_cases hw : w.tgt = g
      · simp only [hw, lastTo, List.filter_cons, beq_self_eq_true, if_true]
        rw [List.getLast?_cons]
        cases (r.filter fun w => w.tgt == g).getLast? <;> simp
      · simp [hw, lastTo, List.filter_cons]
    · simp [hs]

end Sys2Proof.Machine
end

