-- ==== Sys2Proof/Laws/Word.lean ====
section
/-!
SUPPORT. A word that issues with nothing in its way (R158, R78): what the lanes' writes come to, where the bundle goes, and
the two shapes of a word, of fixed and of variable latency.
-/
namespace Sys2Proof.Machine

-- One theorem at a time: elaborating them side by side costs a thread stack each, and the text compiles under a memory limit.
set_option Elab.async false

/-! Settling and the end of a word. -/

theorem State.leave_nil (s : State) : s.leave [] = s := by
  unfold State.leave
  have : (s.bundles.map fun b => (b.1, { b.2 with tids := b.2.tids.filter fun t => !([] : List Nat).contains t })) = s.bundles := by
    conv_rhs => rw [← List.map_id s.bundles]
    apply List.map_congr_left
    intro e _
    simp
  rw [this]

theorem takeTraps_nil (s : State) : takeTraps s [] = s := by
  simp [takeTraps, State.leave_nil]

theorem raiseAt_nil (s : State) (x : Bundle) : raiseAt s x [] = s := by
  simp [raiseAt, sortBy]

/-- A thread that does not step goes on at a place. -/
theorem settle_calm (s : State) (t : Nat) (pc : BitVec 57) (w : Nat) (h : (s.thr t).stepping = false) :
    settle s t pc w = s.updThr t fun x =>
      { x.goTo pc w with status := .ready, readyAt := (s.core (coreOf t)).gather, aged := false } := by
  have : ∀ f : Thread → Thread, ((s.updThr t f).thr t) = f (s.thr t) := fun f => by rw [State.thr_updThr, if_pos rfl]
  unfold settle
  simp only [this]
  have h2 : ((s.thr t).goTo pc w).stepping = false := h
  simp [h2]

/-- What a change of place leaves alone. -/
structure PlaceOnly (s t : State) : Prop where
  rest : t.rest = s.rest
  stored : ∀ u g, t.stored u g = s.stored u g
  thr : ∀ u, (t.thr u).rest = (s.thr u).rest
  here : ∀ u, (s.threads.get? u).isSome → (t.threads.get? u).isSome
  crews : t.crews = s.crews
  billets : t.billets = s.billets
  pend : t.pend = s.pend

theorem PlaceOnly.refl (s : State) : PlaceOnly s s :=
  ⟨rfl, fun _ _ => rfl, fun _ => rfl, fun _ h => h, rfl, rfl, rfl⟩

theorem PlaceOnly.trans {s t u : State} (h : PlaceOnly s t) (k : PlaceOnly t u) : PlaceOnly s u :=
  ⟨k.rest.trans h.rest, fun a g => (k.stored a g).trans (h.stored a g), fun a => (k.thr a).trans (h.thr a),
   fun a ha => k.here a (h.here a ha), k.crews.trans h.crews, k.billets.trans h.billets, k.pend.trans h.pend⟩

theorem PlaceOnly.updThr (s : State) (t : Nat) (f : Thread → Thread) (hr : ∀ x, (f x).rest = x.rest)
    (hg : ∀ x g, (f x).shows g = x.shows g) : PlaceOnly s (s.updThr t f) := by
  refine ⟨rfl, fun u g => ?_, fun u => ?_, fun u h => ?_, rfl, rfl, rfl⟩
  · by_cases hs : ∀ n, g ≠ .s n
    · rw [State.stored_eq_shows _ _ _ hs, State.stored_eq_shows _ _ _ hs, State.thr_updThr]
      split
      · rename_i h; subst h; exact hg _ _
      · rfl
    · simp only [not_forall, not_not] at hs
      obtain ⟨n, rfl⟩ := hs
      rfl
  · rw [State.thr_updThr]; split
    · rename_i h; subst h; exact hr _
    · rfl
  · rw [State.here_updThr]; simp [h]

theorem PlaceOnly.bundles (s : State) (bs : Map Bundle) : PlaceOnly s { s with bundles := bs } :=
  ⟨rfl, fun u g => State.stored_congr rfl rfl u g, fun _ => rfl, fun _ h => h, rfl, rfl, rfl⟩

theorem goTo_shows (x : Thread) (pc : BitVec 57) (w : Nat) (r : Nat) (g : Target) :
    ({ x.goTo pc w with status := .ready, readyAt := r, aged := false } : Thread).shows g = x.shows g := by
  cases g <;> rfl

theorem PlaceOnly.settle (s : State) (t : Nat) (pc : BitVec 57) (w : Nat) (h : (s.thr t).stepping = false) :
    PlaceOnly s (settle s t pc w) := by
  rw [settle_calm s t pc w h]
  exact .updThr s t _ (fun _ => rfl) fun x g => goTo_shows x pc w _ g

/-- Threads that go on one after another at one place. -/
theorem settle_all (pc : BitVec 57) (ts : List Nat) (s : State) (h : ∀ t ∈ ts, (s.thr t).stepping = false) :
    PlaceOnly s (ts.foldl (fun s t => Machine.settle s t pc 0) s) ∧
    (ts.foldl (fun s t => Machine.settle s t pc 0) s).bundles = s.bundles ∧
    (∀ u, u ∉ ts → (ts.foldl (fun s t => Machine.settle s t pc 0) s).thr u = s.thr u) ∧
    (∀ u ∈ ts, ((ts.foldl (fun s t => Machine.settle s t pc 0) s).thr u).pc = pc ∧
      ((ts.foldl (fun s t => Machine.settle s t pc 0) s).thr u).widx = 0 ∧
      ((ts.foldl (fun s t => Machine.settle s t pc 0) s).thr u).status = .ready) := by
  induction ts generalizing s with
  | nil => exact ⟨.refl s, rfl, fun _ _ => rfl, fun _ h => by simp at h⟩
  | cons t r ih =>
    have ht := h t (by simp)
    have hp := PlaceOnly.settle s t pc 0 ht
    have heq := settle_calm s t pc 0 ht
    have hst : ∀ u, ((Machine.settle s t pc 0).thr u).stepping = (s.thr u).stepping := by
      intro u
      have := congrArg Thread.stepping (hp.thr u)
      exact this
    obtain ⟨h1, h2, h3, h4⟩ := ih (Machine.settle s t pc 0) fun u hu => by rw [hst]; exact h u (by simp [hu])
    simp only [List.foldl_cons]
    refine ⟨hp.trans h1, ?_, fun u hu => ?_, fun u hu => ?_⟩
    · rw [h2, heq]; rfl
    · simp only [List.mem_cons, not_or] at hu
      rw [h3 u hu.2, heq, State.thr_updThr, if_neg hu.1]
    · by_cases hr : u ∈ r
      · exact h4 u hr
      · have hut : u = t := by simpa [hr] using hu
        subst hut
        rw [h3 u hr, heq, State.thr_updThr, if_pos rfl]
        exact ⟨rfl, rfl, rfl⟩

/-- The threads of a list yield. -/
def yieldAll (n : Nat) (s : State) (ts : List Nat) : State :=
  ts.foldl (fun s t =>
    if (s.threads.get? t).isSome then s.updThr t fun y => { y with yieldTil := (s.core (coreOf t)).gather + n } else s) s

theorem yieldAll_place (n : Nat) (ts : List Nat) (s : State) :
    PlaceOnly s (yieldAll n s ts) ∧ (yieldAll n s ts).bundles = s.bundles ∧
    ∀ u, ((yieldAll n s ts).thr u).pc = (s.thr u).pc ∧ ((yieldAll n s ts).thr u).widx = (s.thr u).widx ∧
      ((yieldAll n s ts).thr u).status = (s.thr u).status := by
  induction ts generalizing s with
  | nil => exact ⟨.refl s, rfl, fun _ => ⟨rfl, rfl, rfl⟩⟩
  | cons t r ih =>
    unfold yieldAll at *
    simp only [List.foldl_cons]
    split
    · rename_i hh
      set f : Thread → Thread := fun y => { y with yieldTil := (s.core (coreOf t)).gather + n } with hf
      obtain ⟨h1, h2, h3⟩ := ih (s.updThr t f)
      have hp : PlaceOnly s (s.updThr t f) := .updThr s t f (fun _ => rfl) fun x g => by cases g <;> rfl
      refine ⟨hp.trans h1, h2, fun u => ?_⟩
      have hu : ((s.updThr t f).thr u).pc = (s.thr u).pc ∧ ((s.updThr t f).thr u).widx = (s.thr u).widx ∧
          ((s.updThr t f).thr u).status = (s.thr u).status := by
        rw [State.thr_updThr]; split
        · rename_i h; subst h; exact ⟨rfl, rfl, rfl⟩
        · exact ⟨rfl, rfl, rfl⟩
      exact ⟨(h3 u).1.trans hu.1, (h3 u).2.1.trans hu.2.1, (h3 u).2.2.trans hu.2.2⟩
    · exact ih s

/-- The end of a word that raises no trap, of a bundle none of whose threads steps. -/
theorem finishWord_calm (s : State) (b : Nat) (x : Bundle) (hb : s.bundles.get? b = some x) (hne : x.tids ≠ [])
    (hst : ∀ t ∈ x.tids, (s.thr t).stepping = false) :
    PlaceOnly { s with fresh := s.fresh + 1 } (finishWord b x { s := s }) ∧ MovesOn s (finishWord b x { s := s }) b x := by
  unfold finishWord
  simp only [raiseAt_nil]
  unfold nextWord
  simp only [hb]
  by_cases hw : x.widx + 1 < x.clause.words.length
  · rw [if_pos hw]
    have hf : (x.tids.filter fun t => (s.thr t).stepping) = [] := by
      rw [List.filter_eq_nil_iff]; intro t ht; simp [hst t ht]
    rw [hf]
    simp only [List.foldl_nil, List.map_nil, takeTraps_nil, Map.get?_set_self]
    have he : x.tids.isEmpty = false := by cases h : x.tids <;> simp_all
    rw [he]
    refine ⟨?_, fun k hk => ?_, fun u _ => ⟨rfl, rfl, rfl⟩, ?_⟩
    · exact ⟨rfl, fun u g => State.stored_congr rfl rfl u g, fun _ => rfl, fun _ h => h, rfl, rfl, rfl⟩
    · exact Map.get?_set_ne _ _ hk
    · rw [if_pos hw]
      exact ⟨Map.get?_set_self .., fun _ => ⟨rfl, rfl⟩⟩
  · rw [if_neg hw]
    unfold endClause
    simp only [hb, Option.map_some, Option.getD_some]
    set s1 : State := { s with bundles := s.bundles.del b } with hs1
    obtain ⟨h1, h2, h3, h4⟩ := settle_all x.clause.next x.tids s1 hst
    have hp : PlaceOnly s s1 := PlaceOnly.bundles s _
    set s2 := x.tids.foldl (fun s t => Machine.settle s t x.clause.next 0) s1 with hs2
    have hfin : ∀ s3 : State, PlaceOnly s2 s3 → s3.bundles = s2.bundles →
        (∀ u, (s3.thr u).pc = (s2.thr u).pc ∧ (s3.thr u).widx = (s2.thr u).widx ∧ (s3.thr u).status = (s2.thr u).status) →
        PlaceOnly { s with fresh := s.fresh + 1 } { s3 with fresh := s3.fresh + 1 } ∧
          MovesOn s { s3 with fresh := s3.fresh + 1 } b x := by
      intro s3 hp3 hb3 ht3
      have hall := (hp.trans h1).trans hp3
      refine ⟨⟨hall.rest, hall.stored, hall.thr, hall.here, hall.crews, hall.billets, hall.pend⟩, fun k hk => ?_,
        fun u hu => ?_, ?_⟩
      · show s3.bundles.get? k = _
        rw [hb3, h2]
        exact Map.get?_del_ne _ hk
      · show (s3.thr u).pc = _ ∧ (s3.thr u).widx = _ ∧ (s3.thr u).status = _
        rw [(ht3 u).1, (ht3 u).2.1, (ht3 u).2.2, h3 u hu]
        exact ⟨rfl, rfl, rfl⟩
      · rw [if_neg hw]
        refine ⟨?_, fun u hu => ?_⟩
        · show s3.bundles.get? b = _
          rw [hb3, h2]
          exact Map.get?_del_self ..
        · show (s3.thr u).pc = _ ∧ (s3.thr u).widx = _ ∧ (s3.thr u).status = _
          rw [(ht3 u).1, (ht3 u).2.1, (ht3 u).2.2]
          exact h4 u hu
    split
    · obtain ⟨k1, k2, k3⟩ := yieldAll_place 4 x.tids s2
      exact hfin _ k1 k2 k3
    · exact hfin s2 (.refl s2) rfl fun _ => ⟨rfl, rfl, rfl⟩

/-! The writes of the lanes. -/

/-- A fold in which at most one element of the list changes the value. -/
theorem foldl_pick {α : Type} (P : Nat → Bool) (F : Nat → Option α) (sel : Nat → Bool) (l : List Nat) (init : α)
    (hsel : ∀ a ∈ l, P a = true → sel a = false → F a = none) (hP : ∀ a ∈ l, sel a = true → P a = true)
    (huniq : l.Pairwise fun a b => ¬ (sel a = true ∧ sel b = true)) :
    l.foldl (fun acc a => if P a then (F a).getD acc else acc) init = ((l.find? sel).bind F).getD init := by
  induction l generalizing init with
  | nil => rfl
  | cons a r ih =>
    rw [List.pairwise_cons] at huniq
    rw [List.foldl_cons]
    have ih' := fun i => ih i (fun b hb => hsel b (by simp [hb])) (fun b hb => hP b (by simp [hb])) huniq.2
    by_cases ha : sel a = true
    · have hPa := hP a (by simp) ha
      rw [if_pos hPa, ih']
      have hnone : r.find? sel = none := by
        rw [List.find?_eq_none]; intro b hb hsb; exact huniq.1 b hb ⟨ha, hsb⟩
      simp [hnone, ha]
    · have h1 : (if P a then (F a).getD init else init) = init := by
        split
        · rename_i h; rw [hsel a (by simp) h (by simpa using ha)]; rfl
        · rfl
      rw [h1, ih']
      simp [ha]

theorem lastTo_keepS (ts : List Nat) (t : Nat) (ws : List RegWrite) (g : Target) :
    lastTo (keepS ts t ws) g = match g with
      | .s _ => if supplies ts t then lastTo ws g else none
      | _ => lastTo ws g := by
  unfold lastTo keepS
  rw [List.filter_filter]
  cases g with
  | v n =>
    congr 2
    apply List.filter_congr
    intro w _
    by_cases h : w.tgt = .v n <;> simp [h]
  | p n =>
    congr 2
    apply List.filter_congr
    intro w _
    by_cases h : w.tgt = .p n <;> simp [h]
  | s n =>
    by_cases hs : supplies ts t = true
    · rw [if_pos hs]
      congr 2
      apply List.filter_congr
      intro w _
      by_cases h : w.tgt = .s n <;> simp [h, hs]
    · rw [if_neg hs]
      have hq : ∀ q : RegWrite → Bool, (∀ w ∈ ws, ¬ q w = true) → Option.map RegWrite.shown (ws.filter q).getLast? = none := by
        intro q h; rw [List.filter_eq_nil_iff.2 h]; rfl
      apply hq
      intro w _
      by_cases h : w.tgt = .s n <;> simp [h, hs]

theorem supplies_unique {ts : List Nat} {a b : Nat} (ha : a ∈ ts) (hb : b ∈ ts) (hc : crewOf a = crewOf b)
    (h1 : supplies ts a = true) (h2 : supplies ts b = true) : a = b := by
  unfold supplies at h1 h2
  simp only [List.all_eq_true, List.mem_filter, beq_iff_eq, decide_eq_true_eq, and_imp] at h1 h2
  exact Nat.le_antisymm (h1 b hb hc.symm) (h2 a ha hc)

/-- The registers after every lane has written. -/
theorem stored_lanes (s : State) (w : Nat → List RegWrite) (act : List Nat) (hn : act.Nodup) (u : Nat) (g : Target)
    (hg : ∀ n, g = .p n → n < 7) :
    ((act.map fun t => (t, keepS act t (w t))).foldl (fun s' x => s'.putRegs x.1 x.2) s).stored u g =
      ((writerOf act u g).bind fun l => lastTo (w l) g).getD (s.stored u g) := by
  have hfold : ∀ (l : List Nat) (s : State),
      ((l.map fun t => (t, keepS act t (w t))).foldl (fun s' x => s'.putRegs x.1 x.2) s).stored u g =
        l.foldl (fun acc a => if hitsReg a u g then (lastTo (keepS act a (w a)) g).getD acc else acc) (s.stored u g) := by
    intro l
    induction l with
    | nil => intro s; rfl
    | cons a r ih => intro s; simp only [List.map_cons, List.foldl_cons]; rw [ih, State.stored_putRegs _ _ _ _ _ hg]
  rw [hfold]
  by_cases hs : ∀ n, g ≠ .s n
  · have h1 : ∀ a, lastTo (keepS act a (w a)) g = lastTo (w a) g := by
      intro a; rw [lastTo_keepS]; cases g with
      | s n => exact absurd rfl (hs n)
      | _ => rfl
    have h2 : ∀ a, hitsReg a u g = (a == u) := by
      intro a; cases g with
      | s n => exact absurd rfl (hs n)
      | _ => rfl
    have h3 : writerOf act u g = act.find? fun t => t == u := by
      cases g with
      | s n => exact absurd rfl (hs n)
      | _ => rfl
    simp only [h1, h2, h3]
    apply foldl_pick (fun a => a == u) (fun a => lastTo (w a) g) (fun a => a == u)
    · intro a _ h1 h2; simp_all
    · intro a _ h; exact h
    · apply hn.imp
      intro a b hab h
      simp at h
      exact hab (h.1.trans h.2.symm)
  · simp only [not_forall, not_not] at hs
    obtain ⟨n, rfl⟩ := hs
    simp only [lastTo_keepS, hitsReg, writerOf]
    rw [foldl_pick (fun a => crewOf a == crewOf u) (fun a => if supplies act a then lastTo (w a) (.s n) else none)
      (fun a => crewOf a == crewOf u && supplies act a)]
    · congr 1
      cases hf : act.find? fun a => crewOf a == crewOf u && supplies act a with
      | none => rfl
      | some a =>
        have := List.find?_some hf
        simp only [Bool.and_eq_true] at this
        simp [this.2]
    · intro a _ h1 h2
      simp only [h1, Bool.true_and] at h2
      simp [h2]
    · intro a _ h
      simp only [Bool.and_eq_true] at h
      exact h.1
    · refine (List.pairwise_iff_forall_sublist.2 ?_)
      intro a b hab h
      simp only [Bool.and_eq_true, beq_iff_eq] at h
      have hne : a ≠ b := by
        have := hn.sublist hab
        simp at this
        exact this
      have hma : a ∈ act := hab.subset (by simp)
      have hmb : b ∈ act := hab.subset (by simp)
      exact hne (supplies_unique hma hmb (h.1.1.trans h.2.1.symm) h.1.2 h.2.2)

theorem lanes_regsOnly (s : State) (l : List (Nat × List RegWrite)) :
    RegsOnly s (l.foldl (fun s' x => s'.putRegs x.1 x.2) s) := by
  induction l generalizing s with
  | nil => exact RegsOnly.refl s
  | cons a r ih =>
    rw [List.foldl_cons]
    exact RegsOnly.trans (RegsOnly.putRegs s a.1 a.2) (ih _)

/-! A word that issues. -/

theorem issuing_cur {s : State} {b : Nat} {x : Bundle} (h : Issuing s b x = true) : s.cur = some b := by
  simp only [Issuing, Bool.and_eq_true, beq_iff_eq] at h
  exact h.1.1.1.1.1

theorem issuing_bundle {s : State} {b : Nat} {x : Bundle} (h : Issuing s b x = true) : s.bundles.get? b = some x := by
  simp only [Issuing, Bool.and_eq_true, beq_iff_eq] at h
  exact h.1.1.1.1.2

theorem issuing_nodup {s : State} {b : Nat} {x : Bundle} (h : Issuing s b x = true) : x.tids.Nodup := by
  simp only [Issuing, Bool.and_eq_true, decide_eq_true_eq] at h
  exact h.1.1.1.2

theorem issuing_ne {s : State} {b : Nat} {x : Bundle} (h : Issuing s b x = true) : x.tids ≠ [] := by
  simp only [Issuing, Bool.and_eq_true, Bool.not_eq_true', List.isEmpty_eq_false_iff] at h
  exact h.1.1.2

theorem issuing_all {s : State} {b : Nat} {x : Bundle} (h : Issuing s b x = true) : ∀ t ∈ x.tids,
    (s.threads.get? t).isSome = true ∧ openFence s t = false ∧ (s.thr t).stepping = false ∧
      (s.crew (crewOf t)).priv ≤ 2 := by
  intro t ht
  simp only [Issuing, Bool.and_eq_true] at h
  have := List.all_eq_true.1 h.1.2 t ht
  simp only [Bool.and_eq_true, Bool.not_eq_true', decide_eq_true_eq] at this
  exact ⟨this.1.1.1, this.1.1.2, this.1.2, this.2⟩

theorem issuing_unpaired {s : State} {b : Nat} {x : Bundle} (h : Issuing s b x = true) : bundlePaired s x = false := by
  simp only [Issuing, Bool.and_eq_true, Bool.not_eq_true'] at h
  exact h.2

theorem activeOf_sub {s : State} {x : Bundle} {h : Head} {t : Nat} (ht : t ∈ activeOf s x h) : t ∈ x.tids :=
  (List.mem_filter.1 ht).1

theorem activeOf_nodup {s : State} {b : Nat} {x : Bundle} (h : Issuing s b x = true) (hd : Head) :
    (activeOf s x hd).Nodup := (issuing_nodup h).filter _

theorem strictOpen_of_openFence {s : State} {t : Nat} (h : openFence s t = false) : strictOpen s t = false := by
  unfold openFence at h
  unfold strictOpen
  rw [List.any_eq_false] at h ⊢
  intro p hp
  intro hs
  apply h p hp
  simp only [Bool.and_eq_true] at hs ⊢
  refine ⟨hs.1.2, ?_⟩
  obtain ⟨⟨h1, _⟩, h3⟩ := hs
  revert h3
  cases p.op with
  | fence o sc strict snap =>
    cases snap with
    | none => cases strict <;> simp
    | some y => intro _; simp only [h1, Bool.true_or]
  | _ => simp

/-- R78, R158: with nothing in its way the word acts, and its bundle goes on. -/
theorem issueWord_go {s : State} {b : Nat} {x : Bundle} {h : Head} {a : WordAttr} {body : State → List Nat → WordOut}
    (hI : Issuing s b x = true) (hc : a.allowed x.clause.cls = true) (hf : Fits s x a.regs = true)
    (hs : stalls s h a (activeOf s x h) = false)
    (hp : ∀ t ∈ activeOf s x h, (s.crew (crewOf t)).priv ≤ a.priv)
    (hw : (body s (activeOf s x h)).stall = false)
    (ht : ∀ y ∈ (body s (activeOf s x h)).traps, openFence s y.1 = false) :
    issueWord s h a body = .next (finishWord b x (body s (activeOf s x h))) := by
  have h1 : x.tids.any (strictOpen s) = false := by
    rw [List.any_eq_false]; intro t ht; simp [strictOpen_of_openFence (issuing_all hI t ht).2.1]
  have h2 : overBudget (((x.tids.head?).map fun t => (s.crew (crewOf t)).budget).getD 0) a.regs = false := by
    simpa [Fits] using hf
  have h3 : ((activeOf s x h).filter fun t => decide (a.priv < (s.crew (crewOf t)).priv)) = [] := by
    rw [List.filter_eq_nil_iff]; intro t ht; simpa using hp t ht
  have h4 : ((body s (activeOf s x h)).traps.any fun y => openFence s y.1) = false := by
    rw [List.any_eq_false]; intro y hy; simp [ht y hy]
  simp only [issueWord, (issuing_cur hI), (issuing_bundle hI), h1, hc, h2, (issuing_unpaired hI), runWord, hs, h3, hw, h4, Bool.false_and, Bool.not_true,
    Bool.false_eq_true, if_false, if_true, List.isEmpty_nil]

/-- Nothing of a word that only computes can wait. -/
theorem stalls_plain {s : State} {b : Nat} {x : Bundle} {h : Head} {a : WordAttr} (hI : Issuing s b x = true)
    (hv : a.var = false ∨ CanCount s x h = true) (ho : a.orders = false) (hn : a.settle = none) :
    stalls s h a (activeOf s x h) = false := by
  have h1 : (activeOf s x h).any (openFence s) = false := by
    rw [List.any_eq_false]; intro t ht; simp [(issuing_all hI t (activeOf_sub ht)).2.1]
  unfold stalls
  simp only [h1, ho, hn, Bool.and_false, Bool.false_and, Bool.or_false]
  rcases hv with hv | hv
  · simp [hv]
  · unfold CanCount at hv
    rw [List.all_eq_true] at hv
    simp only [Bool.and_eq_false_iff]
    right
    rw [List.any_eq_false]
    intro t ht
    have := hv t ht
    simp at this ⊢
    omega

theorem laneTrap_none {s : State} {act : List Nat} {t : Nat} {o : LaneOut} {w : List RegWrite} (h1 : o.trap = none)
    (h2 : o.ws = w)
    (hc : ((keepS act t w).all fun e => !e.poison || (match e.tgt with | .v _ => true | _ => false)) = true) :
    laneTrap s act t o = none := by
  unfold laneTrap
  rw [h1, h2]
  have : consumesAt (keepS act t w) o.code = none := by
    unfold consumesAt
    rw [if_neg]
    simp only [List.any_eq_true, not_exists, not_and, Bool.and_eq_true]
    intro e he hp hq
    have := List.all_eq_true.1 hc e he
    rw [hp] at this
    cases ht : e.tgt <;> simp_all
  rw [this]
  rfl

theorem laneGood_eq {s : State} {x : Bundle} {h : Head} {f : State → Nat → LaneOut} {w : Nat → List RegWrite}
    (hw : ∀ t ∈ activeOf s x h, (f s t).trap = none ∧ (f s t).ws = w t) (hc : Clean s x h w = true) :
    laneGood s (activeOf s x h) f = (activeOf s x h).map (fun t => (t, keepS (activeOf s x h) t (w t))) ∧
      laneTraps s (activeOf s x h) f = [] := by
  unfold Clean at hc
  rw [List.all_eq_true] at hc
  constructor
  · unfold laneGood
    rw [← List.filterMap_eq_map]
    apply List.filterMap_congr
    intro t ht
    rw [laneTrap_none (hw t ht).1 (hw t ht).2 (hc t ht)]
    simp [(hw t ht).2]
  · unfold laneTraps
    rw [List.filterMap_eq_nil_iff]
    intro t ht
    rw [laneTrap_none (hw t ht).1 (hw t ht).2 (hc t ht)]
    rfl

/-- The end of a word whose effect is on registers alone. -/
theorem wrote_of_regs {s t : State} {b : Nat} {x : Bundle} {h : Head} {w : Nat → List RegWrite}
    (hI : Issuing s b x = true) (hr : RegsOnly s t)
    (hst : ∀ u g, (∀ n, g = .p n → n < 7) →
      t.stored u g = ((writerOf (activeOf s x h) u g).bind fun l => lastTo (w l) g).getD (s.stored u g)) :
    Wrote s (finishWord b x { s := t }) b x h w := by
  have hb : t.bundles.get? b = some x := by rw [hr.bundles]; exact (issuing_bundle hI)
  obtain ⟨hp, hm⟩ := finishWord_calm t b x hb (issuing_ne hI) fun u hu =>
    (congrArg Thread.stepping (hr.thr u)).trans ((issuing_all hI) u hu).2.2.1
  refine ⟨fun u g hg => (hp.stored u g).trans (hst u g hg), ?_, ⟨?_, fun u => ?_, fun u => ?_, fun c => ?_, fun k => ?_⟩,
    fun k hk => ?_, fun u hu => ?_, ?_⟩
  · rw [hp.pend]; exact hr.pend
  · exact hp.rest.trans hr.rest
  · exact (hp.thr u).trans (hr.thr u)
  · exact fun hu => hp.here u (hr.here u hu)
  · have : (finishWord b x { s := t }).crew c = t.crew c := by
      unfold State.crew; rw [hp.crews]
    rw [this]; exact hr.crew c
  · rw [hp.billets]; exact hr.billets k
  · rw [hm.1 k hk, hr.bundles]
  · have := hm.2.1 u hu
    exact ⟨this.1.trans (hr.place u).1, this.2.1.trans (hr.place u).2.1, this.2.2.trans (hr.place u).2.2.1⟩
  · have := hm.2.2
    by_cases hl : x.widx + 1 < x.clause.words.length
    · rw [if_pos hl] at this ⊢
      exact ⟨this.1, fun u => ⟨(this.2 u).1.trans (hr.place u).1, (this.2 u).2.trans (hr.place u).2.2.1⟩⟩
    · rw [if_neg hl] at this ⊢
      exact this

/-- A fixed-latency word over lanes that raise no trap (R33). -/
theorem issueWord_fixed {s : State} {b : Nat} {x : Bundle} {h : Head} {a : WordAttr} {f : State → Nat → LaneOut}
    {w : Nat → List RegWrite} (hI : Issuing s b x = true) (hc : a.allowed x.clause.cls = true)
    (hf : Fits s x a.regs = true) (hcl : Clean s x h w = true)
    (hw : ∀ t ∈ activeOf s x h, (f s t).trap = none ∧ (f s t).ws = w t)
    (hv : a.var = false) (ho : a.orders = false) (hn : a.settle = none) (hp : a.priv = 2) :
    ∃ t, issueWord s h a (fixedLanes f) = .next t ∧ Wrote s t b x h w := by
  obtain ⟨hg, ht⟩ := laneGood_eq hw hcl
  refine ⟨_, issueWord_go (h := h) (body := fixedLanes f) hI hc hf (stalls_plain hI (.inl hv) ho hn)
    (fun t ht => by rw [hp]; exact (issuing_all hI t (activeOf_sub ht)).2.2.2) rfl ?_, ?_⟩
  · intro y hy
    have : y ∈ laneTraps s (activeOf s x h) f := hy
    rw [ht] at this
    simp at this
  simp only [fixedLanes, ht, hg]
  exact wrote_of_regs hI (lanes_regsOnly s _) fun u g hgp => stored_lanes s w _ (activeOf_nodup hI h) u g hgp

/-! Operations sent out. -/

/-- The state after operations have joined those in flight: nothing else changes but the next operation's number. -/
structure Joined (s t : State) (n : Nat) (show_ : Pend → Nat × Nat × POp × Bool × List RegWrite)
    (want : List (Nat × Nat × POp × Bool × List RegWrite)) : Prop where
  rest : t.rest = { s with seq := s.seq + n }.rest
  threads : t.threads = s.threads
  crews : t.crews = s.crews
  billets : t.billets = s.billets
  bundles : t.bundles = s.bundles
  ops : ∃ ops : List Pend, t.pend.map Pend.rest = s.pend.map Pend.rest ++ ops.map Pend.rest ∧ ops.map show_ = want

theorem contest_pend (s : State) (t : Nat) (gs : List Target) :
    (s.contest t gs).pend.map Pend.rest = s.pend.map Pend.rest := (RegsOnly.contest s t gs).pend

theorem addValue_joined (s : State) (t dc : Nat) (ws : List RegWrite) :
    Joined s (s.addValue t dc ws) 1 Pend.facts [(t, dc, .value, true, ws)] := by
  have hp : ∃ p : Pend, (s.addValue t dc ws).pend = (s.contest t (ws.map RegWrite.tgt)).pend ++ [p] ∧
      p.facts = (t, dc, .value, true, ws) := ⟨_, rfl, rfl⟩
  obtain ⟨p, h1, h2⟩ := hp
  refine ⟨rfl, rfl, rfl, rfl, rfl, [p], ?_, ?_⟩
  · rw [h1, List.map_append, contest_pend]
  · simp [h2]

theorem Joined.refl (s : State) (f) : Joined s s 0 f [] := ⟨rfl, rfl, rfl, rfl, rfl, [], by simp, rfl⟩

theorem Joined.trans {s t u : State} {n m : Nat} {f v w} (h : Joined s t n f v) (k : Joined t u m f w) :
    Joined s u (n + m) f (v ++ w) := by
  obtain ⟨o1, h1, h2⟩ := h.ops
  obtain ⟨o2, k1, k2⟩ := k.ops
  refine ⟨?_, k.threads.trans h.threads, k.crews.trans h.crews, k.billets.trans h.billets, k.bundles.trans h.bundles,
    o1 ++ o2, ?_, ?_⟩
  · have h3 : t.seq = s.seq + n := congrArg State.seq h.rest
    have h4 := k.rest
    have h5 : ({ t with seq := t.seq + m } : State).rest = ({ s with seq := s.seq + (n + m) } : State).rest := by
      have := congrArg (fun y : State => { y with seq := s.seq + (n + m) }) h.rest
      have h6 : t.seq + m = s.seq + (n + m) := by omega
      rw [h6]
      exact this
    exact h4.trans h5
  · rw [k1, h1]; simp
  · simp [h2, k2]

theorem addValues_joined (dc : Nat) (w : Nat → List RegWrite) (l : List Nat) (s : State) :
    Joined s ((l.map fun t => (t, w t)).foldl (fun s' x => s'.addValue x.1 dc x.2) s) l.length Pend.facts
      (l.map fun t => (t, dc, .value, true, w t)) := by
  induction l generalizing s with
  | nil => exact Joined.refl s _
  | cons a r ih =>
    simp only [List.map_cons, List.foldl_cons, List.length_cons]
    have h1 := addValue_joined s a dc (w a)
    have h2 := ih (s.addValue a dc (w a))
    have := h1.trans h2
    rw [Nat.add_comm] at this
    exact this

/-- The end of a word that has sent operations out and changed no register. -/
theorem joined_finish {s t : State} {b : Nat} {x : Bundle} {n : Nat} {f w} (hI : Issuing s b x = true)
    (hj : Joined s t n f w) :
    (∀ u g, (∀ n, g = .p n → n < 7) → (finishWord b x { s := t }).stored u g = s.stored u g) ∧
    (∃ ops : List Pend, (finishWord b x { s := t }).pend.map Pend.rest = s.pend.map Pend.rest ++ ops.map Pend.rest ∧
      ops.map f = w) ∧
    SameRest { s with seq := s.seq + n } (finishWord b x { s := t }) ∧ MovesOn s (finishWord b x { s := t }) b x := by
  have hthr : ∀ u, t.thr u = s.thr u := fun u => by unfold State.thr; rw [hj.threads]
  have hb : t.bundles.get? b = some x := by rw [hj.bundles]; exact issuing_bundle hI
  obtain ⟨hp, hm⟩ := finishWord_calm t b x hb (issuing_ne hI) fun u hu => by
    rw [hthr]; exact (issuing_all hI u hu).2.2.1
  refine ⟨fun u g _ => (hp.stored u g).trans (State.stored_congr hj.threads hj.crews u g), ?_,
    ⟨?_, fun u => ?_, fun u hu => ?_, fun c => ?_, fun k => ?_⟩, fun k hk => ?_, fun u hu => ?_, ?_⟩
  · rw [hp.pend]; exact hj.ops
  · exact hp.rest.trans hj.rest
  · refine (hp.thr u).trans ?_; show (t.thr u).rest = _; rw [hthr]; rfl
  · refine hp.here u ?_; show (t.threads.get? u).isSome = true; rw [hj.threads]; exact hu
  · have : (finishWord b x { s := t }).crew c = s.crew c := by
      unfold State.crew; rw [hp.crews]; show (Map.get? t.crews c).getD {} = _; rw [hj.crews]
    rw [this]; rfl
  · rw [hp.billets]; show (Map.get? t.billets k).map _ = _; rw [hj.billets]
  · rw [hm.1 k hk, hj.bundles]
  · have := hm.2.1 u hu
    rw [hthr] at this
    exact this
  · have := hm.2.2
    simp only [hthr] at this
    exact this

/-- A variable-latency word over lanes that raise no trap, its results known at issue (R34). -/
theorem issueWord_var {s : State} {b : Nat} {x : Bundle} {h : Head} {a : WordAttr} {f : State → Nat → LaneOut}
    {w : Nat → List RegWrite} (hI : Issuing s b x = true) (hc : a.allowed x.clause.cls = true)
    (hf : Fits s x a.regs = true) (hk : CanCount s x h = true) (hcl : Clean s x h w = true)
    (hw : ∀ t ∈ activeOf s x h, (f s t).trap = none ∧ (f s t).ws = w t)
    (ho : a.orders = false) (hn : a.settle = none) (hp : a.priv = 2) :
    ∃ t, issueWord s h a (varLanes h.dc.val f) = .next t ∧ Sent s t b x h w := by
  obtain ⟨hg, ht⟩ := laneGood_eq hw hcl
  refine ⟨_, issueWord_go (h := h) (body := varLanes h.dc.val f) hI hc hf (stalls_plain hI (.inr hk) ho hn)
    (fun t ht => by rw [hp]; exact (issuing_all hI t (activeOf_sub ht)).2.2.2) rfl ?_, ?_⟩
  · intro y hy
    have : y ∈ laneTraps s (activeOf s x h) f := hy
    rw [ht] at this
    simp at this
  · simp only [varLanes, ht, hg]
    have hj := addValues_joined h.dc.val (fun t => keepS (activeOf s x h) t (w t)) (activeOf s x h) s
    exact joined_finish hI hj

theorem taint_fst (s : State) (t : Nat) (rs : List (Reg × Nat)) : (s.taint t rs).1 = s.isPoisoned t rs := by
  unfold State.taint State.isPoisoned
  cases s.poisonOf t rs <;> rfl

/-- A word that computes registers from registers at once. -/
theorem writes_alu {i : Instr} {h : Head} {g : Nat} {cls : Cls → Bool} {dst src : List (Reg × Nat)}
    {ws : State → Nat → Bool → List RegWrite} {w : State → Nat → List RegWrite}
    (he : ∀ s, exec i s = aluWord g h dst src ws s)
    (hc : ∀ c, cls c = true → (WordAttr.allowed { group := g } c) = true)
    (hw : ∀ s u, ws s u (s.isPoisoned u src) = w s u) : Writes i h cls (dst ++ src) w := by
  intro s b x hI hcl hf hp
  rw [he]
  refine issueWord_fixed hI (hc _ hcl) hf hp (fun t _ => ⟨rfl, ?_⟩) rfl rfl rfl rfl
  simp only [taint_fst]
  exact hw s t

/-- The same with variable latency. -/
theorem sends_var {i : Instr} {h : Head} {g : Nat} {cls : Cls → Bool} {dst src : List (Reg × Nat)}
    {ws : State → Nat → Bool → List RegWrite} {w : State → Nat → List RegWrite}
    (he : ∀ s, exec i s = varWord g h dst src ws s)
    (hc : ∀ c, cls c = true → (WordAttr.allowed { group := g } c) = true)
    (hw : ∀ s u, ws s u (s.isPoisoned u src) = w s u) : Sends i h cls (dst ++ src) w := by
  intro s b x hI hcl hf hk hp
  rw [he]
  refine issueWord_var hI (hc _ hcl) hf hk hp (fun t _ => ⟨rfl, ?_⟩) rfl rfl rfl
  simp only [taint_fst]
  exact hw s t

theorem cls_any (c : Cls) (_ : anyCls c = true) : (WordAttr.allowed { group := 0 } c) = true := rfl
theorem cls_vec (c : Cls) (h : vecCls c = true) : (WordAttr.allowed { group := 1 } c) = true := h

/-- A word whose effect is known completes with it. -/
theorem does_of {i : Instr} {h : Head} {a : WordAttr} {body : State → List Nat → WordOut} {cls : Cls → Bool}
    {regs : List (Reg × Nat)} {ok : State → Bundle → List Nat → Bool} {E : State → Bundle → List Nat → State}
    (he : ∀ s, exec i s = issueWord s h a body) (hc : ∀ c, cls c = true → a.allowed c = true) (hr : a.regs = regs)
    (hs : ∀ s b x, Issuing s b x = true → ok s x (activeOf s x h) = true → stalls s h a (activeOf s x h) = false)
    (hp : a.priv = 2)
    (hb : ∀ s b x, Issuing s b x = true → ok s x (activeOf s x h) = true →
      body s (activeOf s x h) = { s := E s x (activeOf s x h) }) : Does i h cls regs ok E := by
  intro s b x hI hcl hf hok
  have hbody := hb s b x hI hok
  have hgo := issueWord_go (h := h) (body := body) hI (hc _ hcl) (by rw [hr]; exact hf) (hs s b x hI hok)
    (fun t ht => by rw [hp]; exact (issuing_all hI t (activeOf_sub ht)).2.2.2)
    (by rw [hbody]) (by rw [hbody]; intro y hy; simp at hy)
  rw [he, hgo, hbody]

theorem curBundle_eq {s : State} {b : Nat} {x : Bundle} (hI : Issuing s b x = true) : curBundle s = some x := by
  unfold curBundle
  rw [issuing_cur hI]
  exact issuing_bundle hI

theorem curClause_eq {s : State} {b : Nat} {x : Bundle} (hI : Issuing s b x = true) : curClause s = x.clause := by
  unfold curClause
  rw [curBundle_eq hI]

theorem curWidx_eq {s : State} {b : Nat} {x : Bundle} (hI : Issuing s b x = true) : curWidx s = x.widx := by
  unfold curWidx
  rw [curBundle_eq hI]
  rfl

theorem consumed_none {s : State} {t : Nat} {rs : List (Reg × Nat)} : consumed s t rs = none ↔ s.isPoisoned t rs = false := by
  unfold consumed State.isPoisoned
  cases s.poisonOf t rs <;> simp

end Sys2Proof.Machine
end

