-- ==== Sys2Proof/Tests/Slice0.lean ====
section
/-!
SUPPORT. Tests: terms that are not well formed, words the spec writes out, one-word steps with results taken from the spec's own
examples or worked by hand, and for each statement of the certificates a state that meets its hypotheses.
-/
namespace Sys2Proof.Tests

-- One theorem at a time: elaborating them side by side costs a thread stack each, and the text compiles under a memory limit.
set_option Elab.async false
open Machine

set_option maxRecDepth 200000

/-! Terms that stand for no word. -/

theorem ill_register_number : ¬ (Instr.addB32 (plain 0) (.v 224) (.v 0) (.reg .z)).wf := by simp [Instr.wf, RK.ok]
theorem ill_pair : ¬ (Instr.addB64 (plain 0) (.v 3) (.v 0) (.reg .z)).wf := by simp [Instr.wf, RK.ok]
theorem ill_s_quad : ¬ (Instr.mov (plain 0) .w128 (.s 4) (.v 0)).wf := by simp [Instr.wf, RK.ok, MovW.rk]
theorem ill_s_pair_at_the_end : ¬ (Instr.addB64 (plain 0) (.s 30) (.v 0) (.reg .z)).wf := by simp [Instr.wf, RK.ok]
theorem ill_operand_b : ¬ (Instr.addB32 (plain 0) (.v 1) (.v 0) (.reg (.s 31))).wf := by simp [Instr.wf, RK.ok, OpB.ok]
theorem ill_movs_to_vz : ¬ (Instr.movs (plain 0) .z .lane).wf := by simp [Instr.wf, RK.ok]
theorem ill_smov_to_v : ¬ (Instr.smov (plain 0) (.v 1) (.v 0) (.imm 0)).wf := by simp [Instr.wf, RK.ok]
theorem ill_saturated_minimum : ¬ (Instr.fminF32 (plain 0) { noMods with sat := true } (.v 1) (.v 2) (.imm 0)).wf := by
  simp [Instr.wf, FMods.within]
theorem ill_modifier_of_b : ¬ (Instr.fsqrtF32 (plain 1) { noMods with negB := true } (.v 1) (.v 2)).wf := by
  simp [Instr.wf, FMods.within]
theorem ill_immediate_with_c : ¬ (Instr.lxchAtB32 (plain 1) 0 0 (.v 1) (.v 2) (.imm 0) (.v 3)).wf := by
  simp [Instr.wf, OpB.immLeavesC]
theorem ill_load_order : ¬ (Instr.ldB32 (plain 1) (.v 1) ⟨.v 2, 0, .core, .rel, 0⟩).wf := by simp [Instr.wf, MOp.ok, Ord.code]
theorem ill_scratch_scope : ¬ (Instr.ldsB32 (plain 1) (.v 1) ⟨.v 2, 0, .dev, .weak, 0⟩).wf := by
  simp [Instr.wf, MOp.ok, Scope.code]
theorem ill_scratch_hint : ¬ (Instr.ldsB32 (plain 1) (.v 1) ⟨.v 2, 0, .core, .weak, 1⟩).wf := by simp [Instr.wf, MOp.ok]
theorem ill_red_offset : ¬ (Instr.redB32 (plain 0) .add (.v 1) ⟨.v 2, 0x80000, .core, .weak, 0⟩).wf := by
  simp [Instr.wf, MOp.ofs20]
theorem ill_push_span : ¬ (Instr.push (plain 0) 0 (.v 209) 0).wf := by simp [Instr.wf, RK.ok]
theorem ill_descriptor_in_v : ¬ (Instr.mmaF32 (plain 1) (.v 4) (.s 6) 0 true false).wf := by simp [Instr.wf, RK.ok]
theorem ill_system_register : ¬ (Instr.sysr (plain 1) (.v 1) 0x0F).wf := by simp [Instr.wf, SReg.okFor, SReg.info]
theorem ill_allocated_opcode : ¬ (Instr.unallocatedOpcode 0).wf := by simp [Instr.wf, allocated]

/-! Words the spec writes out (R54 to R66 and the encoded examples of its chapters), one or more of each group; others stand
in the certificates' list. -/

theorem decode_addc : decode 0x01B80A040600004F = .ok (.addcB32 (plain 0) 7 1 true (.v 10) (.v 4) (.reg (.v 6))) := by decide
theorem decode_icmp : decode 0x1A38050100648012 = .ok (.icmpS32 (plain 0) .lt 2 (.v 5) (.v 1) (.imm 100)) := by decide
theorem decode_ffma : decode 0x2438030102042002 =
    .ok (.ffmaF32 (plain 0) { noMods with rnd := .rtz, negB := true } (.v 3) (.v 1) (.v 2) (.v 4)) := by decide
theorem decode_bra : decode 0x4038000000001500 = .ok (.bra (plain 0) 21) := by decide
theorem decode_lxch : decode 0x47B906040001800D =
    .ok (.lxchMirB32 (plain 1) 5 1 (.v 6) (.v 4) (.imm 1) .z) := by decide
theorem decode_barsync : decode 0x60380900FFFF8001 = .ok (.barSync (plain 0) 1 (.v 9) (.imm 0xFFFF)) := by decide
theorem decode_stgwait : decode 0x673805FF00010020 = .ok (.stgwait (plain 0) (.v 5) ⟨.z, 0x100, false⟩) := by decide
theorem decode_ld : decode 0x82BB080600004088 = .ok (.ldB64 (plain 3) (.v 8) ⟨.v 6, 0x40, .dev, .acq, 0⟩) := by decide
theorem decode_atom : decode 0x9039050200001020 = .ok (.atomAddB32 (plain 1) (.v 5) ⟨.v 2, 0x10, .core, .weak, 0⟩) := by decide
theorem decode_cas : decode 0x973A080200000020 = .ok (.casB32 (plain 2) (.v 8) ⟨.v 2, 0, .core, .weak, 0⟩) := by decide
theorem decode_ptst : decode 0x9D38000800000001 = .ok (.ptst (plain 0) 1 .w32 (.v 8)) := by decide
theorem decode_push : decode 0xA008001000000002 = .ok (.push { neg := false, idx := 1, dc := 0 } 0 (.v 16) 2) := by decide
theorem decode_mma : decode 0xA439E4E614184040 =
    .ok (.mmaBx8 (plain 1) (.s 4) (.s 6) (.v 20) (.v 24) 128 true false) := by decide
theorem decode_mdrain : decode 0xA6BA283000004000 = .ok (.mdrainF32 (plain 2) (.v 40) 128 3) := by decide
theorem decode_mstore : decode 0xA93CE8E900004000 = .ok (.mstore (plain 4) (.s 8) (.s 9) 128 false) := by decide
theorem decode_sld : decode 0xC039050102000000 = .ok (.sldP (plain 1) false (.v 5) (.v 1) (.v 2)) := by decide
theorem decode_trix : decode 0xC8B8140408000001 = .ok (.trix (plain 0) 1 (.v 20) (.v 4) (.v 8)) := by decide
theorem decode_trap : decode 0xE038000000001200 = .ok (.trap (plain 0) 0x12) := by decide
theorem decode_sysr : decode 0xE23A0A001B000000 = .ok (.sysr (plain 2) (.v 10) 0x1B) := by decide
theorem decode_plop : decode 0x1FB8030102070080 = .ok (.plop (plain 0) 3 1 2 7 0x80) := by decide
/-- The undecodable words of chapter 3's table. -/
theorem decode_dc7 : decode 0x003F080800018000 = .error .dc7 := by decide
theorem decode_scope6 : decode 0x82380906000040C0 = .error .code := by decide
theorem decode_c_unused : decode 0x00380B0B09010000 = .error .reserved := by decide
theorem decode_unallocated : decode 0xBC38000000000000 = .ok (.unallocatedOpcode 0x178) := by decide
theorem encode_addc : encode (.addcB32 (plain 0) 7 1 true (.v 10) (.v 4) (.reg (.v 6))) = 0x01B80A040600004F := by decide

/-! One word at a time. -/

/-- One thread is about to issue a word, its v registers holding these values. -/
def ready (w : Nat) (v : Map W32) : State :=
  { placeWord State.reset w with agenda := [], cur := some (wordBundle w) }.updThr (wordCrew w * 32) fun x => { x with v := v }

/-- The bundle that issues it. -/
def bundle (w : Nat) : Bundle :=
  { tids := [wordCrew w * 32], widx := 0, clause := { pc := 0, cls := wordClass w, waits := [7, 7, 7, 7, 7, 7], yld := false,
                                                       xfer := false, words := [w] } }

/-- A value of the state after. -/
def after {α : Type} (o : Out) (f : State → α) : Option α :=
  match o with
  | .next s => some (f s)
  | _ => none

/-- Register r of thread 0 after a word of the vector class. -/
def gives (i : Instr) (v : Map W32) (r : Reg) : Option W32 := after (exec i (ready 0 v)) fun s => s.r32 0 r

theorem test_add_wraps : gives (.addB32 (plain 0) (.v 1) (.v 2) (.reg (.v 3))) [(2, 0xFFFFFFFF), (3, 2)] (.v 1) = some 1 := by
  decide
theorem test_add_imm_sign : gives (.addB32 (plain 0) (.v 1) (.v 1) (.imm 0xFFFF)) [(1, 0)] (.v 1) = some 0xFFFFFFFF := by decide
theorem test_adds_saturates : gives (.addsS32 (plain 0) (.v 1) (.v 2) (.reg (.v 2))) [(2, 0x7FFFFFFF)] (.v 1) =
    some 0x7FFFFFFF := by decide
theorem test_addc_chain : after (exec (.addcB32 (plain 0) 7 1 false (.v 1) (.v 2) (.reg (.v 3)))
    (ready 0 [(2, 0xFFFFFFFF), (3, 0)])) (fun s => (s.r32 0 (.v 1), s.rdPred 0 1)) = some (0, true) := by decide
theorem test_mulh_signed : gives (.mulhS32 (plain 0) (.v 1) (.v 2) (.reg (.v 3))) [(2, 0xFFFFFFFF), (3, 1)] (.v 1) =
    some 0xFFFFFFFF := by decide
/-- R122's examples. -/
theorem test_shl_32 : gives (.shlB32 (plain 0) (.v 1) (.v 2) (.imm 32)) [(2, 1)] (.v 1) = some 0 := by decide
theorem test_sar_40 : gives (.sarB32 (plain 0) (.v 1) (.v 2) (.imm 40)) [(2, 0x80000010)] (.v 1) = some 0xFFFFFFFF := by decide
theorem test_fsh_r : gives (.fsh (plain 0) true (.v 1) (.v 2) (.v 3) (.v 4)) [(2, 0x9ABCDEF0), (3, 0x12345678), (4, 8)] (.v 1) =
    some 0x789ABCDE := by decide
/-- R119: what a division sends. -/
theorem test_div : after (exec (.divS32 (plain 1) (.v 1) (.v 2) (.reg (.v 3))) (ready 0 [(2, 0xFFFFFFF9), (3, 2)]))
    (fun s => s.pend.map fun p => (p.dc, p.writes.map RegWrite.val)) = some [(1, [0xFFFFFFFD])] := by decide
/-- R120: without SAT. -/
theorem test_abs_min : gives (.absS32 (plain 0) false (.v 1) (.v 2)) [(2, 0x80000000)] (.v 1) = some 0x80000000 := by decide
theorem test_sel_poison : after (exec (.sel (plain 0) 0 false (.v 1) (.v 2) (.reg (.v 3)))
    ((ready 0 [(2, 5), (3, 6)]).updThr 0 fun x => { x with poison := [2] })) (fun s => s.rdReg 0 (.v 1)) = some (6, false) := by
  decide
/-- 1.0 + 2.0 in FP32. -/
theorem test_fadd : gives (.faddF32 (plain 0) noMods (.v 1) (.v 2) (.reg (.v 3))) [(2, 0x3F800000), (3, 0x40000000)] (.v 1) =
    some 0x40400000 := by decide
/-- R86: the largest finite FP32 value doubled overflows to infinity under RNE, and to itself under RTZ. -/
theorem test_fadd_overflow : gives (.faddF32 (plain 0) noMods (.v 1) (.v 2) (.reg (.v 2))) [(2, 0x7F7FFFFF)] (.v 1) =
    some 0x7F800000 := by decide
theorem test_fadd_rtz : gives (.faddF32 (plain 0) { noMods with rnd := .rtz } (.v 1) (.v 2) (.reg (.v 2))) [(2, 0x7F7FFFFF)]
    (.v 1) = some 0x7F7FFFFF := by decide
theorem test_fcvt_down : gives (.fcvtS32F32 (plain 0) { noMods with rnd := .rdn } (.v 1) (.v 2)) [(2, 0xBF000000)] (.v 1) =
    some 0xFFFFFFFF := by decide
theorem test_bra : after (exec (.bra (plain 0) 2) (ready 0 [])) (fun s => (s.thr 0).pc) = some 16 := by decide
theorem test_bra_back : after (exec (.bra (plain 0) 0xFFFFFFFF) (ready 0 [])) (fun s => (s.thr 0).pc) =
    some 0x1FFFFFFFFFFFFF8 := by decide
/-- R144: a misaligned target is not taken; without a handler the thread ends (R406). -/
theorem test_brx_align : after (exec (.brx (plain 0) (.v 2)) (ready 0 [(2, 4)])) (fun s => ((s.thr 0).pc, (s.thr 0).status)) =
    some (0, .ended) := by decide
theorem test_guard_false : after (exec (.addB32 { neg := true, idx := 7, dc := 0 } (.v 1) (.v 2) (.imm 1)) (ready 0 [(1, 9)]))
    (fun s => s.r32 0 (.v 1)) = some 9 := by decide
theorem test_vz : after (exec (.addB32 (plain 0) .z (.v 2) (.imm 1)) (ready 0 [(2, 9)])) (fun s => (s.r32 0 .z, s.r32 0 (.v 2))) =
    some (0, 9) := by decide
theorem test_sleep : after (exec (.sleep (plain 0) (.imm 5)) (ready 0 [])) (fun s => (s.thr 0).status) =
    some (.blocked (.sleep 5)) := by decide
/-- R406: without a handler the trap ends the context. -/
theorem test_trap : after (exec (.trap (plain 0) 0x12) (ready 0 [])) (fun s => (s.thr 0).status) = some .ended := by decide
theorem test_time : after (exec (.time (plain 0) (.v 2)) { ready 0xE3B8020000000000 [] with time := 0x100000002 })
    (fun s => (s.r32 512 (.v 2), s.r32 512 (.v 3))) = some (2, 1) := by decide
/-- The host's two questions, of one row. -/
theorem test_first_step : after (step (State.reset.withFetchWord 64 0x00380B0B08000000)) (fun s => (s.thr 0).status) =
    some .ready := by decide

/-! For each statement, states that meet the hypotheses of its clauses together. -/

/-- A billet of one crew on core 0, with a page of memory mapped, a barrier group and its billet group, about to issue a word. -/
def site (w : Nat) (v : Map W32) : State :=
  { (ready w v).updCrew (wordCrew w) fun c => { c with gang := 1 } with
    mem := [(0x1000, 1), (0x1001, 0x20), (0x2000, 1), (0x2001, 0x30), (0x3000, 0xBD)]
    ctxs := [(0, { live := true, root := 0x1000 })]
    billets := [(0, { wp := 1, index := 0, set := 0, member := 0, crews := [0], scratchBase := 0, scratchSize := 0x1000 })]
    wps := [(1, { ident := 1, tenant := 0, ctx := 0, queue := 0, index := 0, packet := BitVec.ofNat 512 (2 ^ 61) })]
    groups := [(7, { wp := 1, set := 0, entry := 0, handle := 1, timeout := 1000, tableTimeout := 1000, members := [(0, 0)] }),
               (8, { wp := 1, set := 0, entry := 0xFFFF, handle := 0, timeout := 1000, tableTimeout := 1000, members := [(0, 0)] })] }

/-- The hypotheses of a word's statement at a state, with a lane that acts. -/
def met (s : State) (w : Nat) (h : Head) (cls : Cls → Bool) (regs : List (Reg × Nat))
    (ok : State → Bundle → List Nat → Bool) : Bool :=
  let x := bundle w
  Issuing s (wordBundle w) x && cls x.clause.cls && Fits s x regs && ok s x (activeOf s x h) && !(activeOf s x h).isEmpty

/-- Of a word that writes registers, or sends them when its counter can rise. -/
def writable? (h : Head) (r : State → Nat → List RegWrite) (s : State) (x : Bundle) (_ : List Nat) : Bool :=
  CanCount s x h && Clean s x h (r s)

abbrev h0 : Head := plain 0
abbrev h1 : Head := plain 1

theorem wit_IntegerArithmetic : met (ready 0 [(2, 7)]) 0 h0 anyCls [(.v 1, 1), (.v 2, 1)]
    (writable? h0 (res32 (.v 1) [(.v 2, 1)] fun s u => s.r32 u (.v 2) + s.b32 u (.imm 1))) = true ∧
    met (ready 0 [(2, 7)]) 0 h0 anyCls [(.v 4, 2), (.v 2, 1), (.v 3, 1), (.v 6, 2)]
      (writable? h0 (res64 (.v 4) [(.v 2, 1), (.v 3, 1), (.v 6, 2)] fun s u =>
        (s.r32 u (.v 2)).zeroExtend 64 * (s.r32 u (.v 3)).zeroExtend 64 + s.r64 u (.v 6))) = true := by decide
/-- The last register that fits the budget, and the register that discards what is written to it. -/
theorem wit_IntegerArithmetic_edges : met (ready 0 []) 0 h0 anyCls [(.v 223, 1), (.v 2, 1), (.z, 1)]
    (writable? h0 (res32 (.v 223) [(.v 2, 1), (.z, 1)] fun s u => s.r32 u (.v 2) - s.r32 u .z)) = true ∧
    met (ready 0 []) 0 h0 anyCls [(.z, 1), (.v 2, 1)] (writable? h0 (res32 .z [(.v 2, 1)] fun s u => ~~~(s.r32 u (.v 2)))) = true ∧
    met (ready 0 []) 0 h0 anyCls [(.s 30, 1), (.s 0, 1)] (writable? h0 (res32 (.s 30) [(.s 0, 1)] fun s u => ~~~(s.r32 u (.s 0)))) =
      true := by decide
theorem wit_IntegerSelection : met (ready 0 [(2, 0x80000000)]) 0 h0 anyCls [(.v 1, 1), (.v 2, 1)]
    (writable? h0 (res32 (.v 1) [(.v 2, 1)] fun s u => -(s.r32 u (.v 2)))) = true := by decide
theorem wit_Shifts : met (ready 0 [(2, 1), (3, 64)]) 0 h0 anyCls [(.v 4, 2), (.v 2, 2), (.v 6, 1)]
    (writable? h0 (res64 (.v 4) [(.v 2, 2), (.v 6, 1)] fun s u => s.r64 u (.v 2) <<< (s.r32 u (.v 6)).toNat)) = true := by decide
theorem wit_BitFieldsAndBytes : met (ready 0 [(2, 0xFF)]) 0 h0 anyCls [(.v 1, 1), (.v 2, 1)]
    (writable? h0 (res32 (.v 1) [(.v 2, 1)] fun s u => ofBits fun i => (s.r32 u (.v 2)).getLsbD (31 - i))) = true := by decide
theorem wit_CarryCompareAndPredicates : met (ready 0 [(2, 0xFFFFFFFF)]) 0 h0 anyCls [(.v 1, 1), (.v 2, 1)]
    (writable? h0 fun s u => wr32 (.v 1) (s.r32 u (.v 2)) (s.isPoisoned u [(.v 2, 1)]) ++ wrP 1 true (s.isPoisoned u [(.v 2, 1)])) =
      true := by decide
theorem wit_Division : met (ready 0 [(2, 9)]) 0 h1 anyCls [(.v 1, 1), (.v 2, 1), (.v 3, 1)]
    (writable? h1 (res32 (.v 1) [(.v 2, 1), (.v 3, 1)] fun s u => quotS (s.r32 u (.v 2)) (s.r32 u (.v 3)))) = true := by decide
/-- Poison passes a selection by. -/
theorem wit_SelectAndMoves : met ((ready 0 [(2, 5)]).updThr 0 fun x => { x with poison := [2] }) 0 h0 anyCls
    [(.v 1, 1), (.v 2, 1), (.v 3, 1)] (writable? h0 fun s u => if Bool.xor (s.rdPred u 0) false
      then wr32 (.v 1) (s.r32 u (.v 2)) (s.isPoisoned u [(.v 2, 1)])
      else wr32 (.v 1) (s.r32 u (.v 3)) (s.isPoisoned u [(.v 3, 1)])) = true := by decide
theorem wit_FloatArithmetic : met (ready 0 [(2, 0x3F800000)]) 0 h0 vecCls [(.v 1, 1), (.v 2, 1), (.v 3, 1)]
    (writable? h0 (res32 (.v 1) [(.v 2, 1), (.v 3, 1)] fun s u =>
      BitVec.ofNat 32 (sums .f32 noMods (s.r32 u (.v 2)).toNat (s.r32 u (.v 3)).toNat))) = true := by decide
theorem wit_FloatDivisionAndFunctions : met (ready 0 [(2, 0x3F800000)]) 0 h1 vecCls [(.v 1, 1), (.v 2, 1)]
    (writable? h1 (res32 (.v 1) [(.v 2, 1)] fun s u =>
      BitVec.ofNat 32 (rounds .f32 noMods (root (vA .f32 noMods (s.r32 u (.v 2)).toNat))))) = true := by decide
theorem wit_FloatSelectionAndComparison : met (ready 0 [(2, 0x7FC00000)]) 0 h0 vecCls [(.v 1, 1), (.v 2, 1), (.v 3, 1)]
    (writable? h0 fun s u =>
      let r := truths .f32 .lt false (s.r32 u (.v 2)).toNat (s.r32 u (.v 3)).toNat
      wr32 (.v 1) (if r then 0xFFFFFFFF else 0) (s.isPoisoned u [(.v 2, 1), (.v 3, 1)]) ++
        wrP 2 r (s.isPoisoned u [(.v 2, 1), (.v 3, 1)])) = true := by decide
theorem wit_FloatConversions : met (ready 0 [(2, 0x3F800000)]) 0 h0 vecCls [(.v 4, 2), (.v 2, 1)]
    (writable? h0 (res64 (.v 4) [(.v 2, 1)] fun s u => BitVec.ofNat 64 (converts .f32 .f64 noMods (s.r32 u (.v 2)).toNat))) =
      true := by decide
/-- R144 at its edges: the last canonical address of the lower half is met, and one lane may stand alone in its crew. -/
theorem wit_BranchesAndCalls : met (ready 0 []) 0 h0 anyCls [] (fun _ x ts => canonical (branchTo x 2).toNat &&
      x.tids.all fun u => ts.contains u || ts.all fun v => crewOf v != crewOf u) = true ∧
    met (ready 0 [(2, 0xFFFFFFF8), (3, 0x00FFFFFF)]) 0 h0 anyCls [(.v 2, 2)] (fun s _ ts => ts.all fun u => goodTarget s u (.v 2)) =
      true ∧
    met { ready 0 [] with ctxs := [(0, { live := true, stack := 0x10003 })] } 0 h0 anyCls []
      (fun s x ts => canonical (branchTo x 2).toNat && ts.all (roomToCall s)) = true := by decide
theorem wit_ReturnsExitsAndLoops : met ((ready 0 []).updThr 0 fun x => { x with depth := 1, cache := [64] }) 0 h0 anyCls []
      (fun s _ ts => ts.all fun u => (s.thr u).depth != 0 && !(s.thr u).cache.isEmpty &&
        ((s.thr u).cache.headD 0).extractLsb' 0 3 == 0) = true ∧
    met (ready 0 []) 0 h0 anyCls [] (fun s _ ts => !ts.isEmpty && ts.all fun u => (s.thr u).depth == 0) = true ∧
    met (ready 0 []) 0 h0 anyCls [(.v 1, 1)]
      (fun s x ts => canonical (branchTo x 1).toNat && ts.all fun u => !s.isPoisoned u [(.v 1, 1)]) = true := by decide
theorem wit_NopYieldJoinAndPredicateFile : met (ready 0 []) 0 h0 anyCls [] (writable? h0 fun _ _ => []) = true ∧
    met (ready 0 []) 0 h0 anyCls [] (fun s _ ts => ts.all fun u => !s.isPoisoned u [] && (s.b32 u (.imm 1)).getLsbD (laneOf u)) =
      true := by decide
theorem wit_LaneExchange : met (ready 0 [(2, 5)]) 0 h1 anyCls [(.v 1, 1), (.v 2, 1), (.z, 1)]
    (fun s x ts => CanCount s x h1 && oneCrew x && (ts.all fun u => s.rdReg u .z == (0, false)) &&
      Clean s x h1 (exchange 0 false 5 1 (.v 1) (.v 2) (.imm 0) s ts)) = true := by decide
theorem wit_CensusAndGroups : met (ready 0 []) 0 h1 anyCls [(.v 1, 1), (.z, 1)]
    (fun s x ts => CanCount s x h1 && oneCrew x && (ts.all fun u => s.rdReg u .z == (0, false)) &&
      Clean s x h1 fun _ => census (.v 1) 2 (ts.all (asked 7 false s))) = true := by decide
theorem wit_CrewReductions : met (ready 0 [(2, 5)]) 0 h1 anyCls [(.v 1, 1), (.v 2, 1), (.z, 1)]
    (fun s x ts => CanCount s x h1 && oneCrew x && (ts.all fun u => s.rdReg u .z == (0, false)) &&
      Clean s x h1 fun _ => wr32 (.v 1) (foldAll (fun x y => x + y) (ts.map fun v => s.r32 v (.v 2)))
        (ts.any fun v => s.isPoisoned v [(.v 2, 1)])) = true := by decide
theorem wit_LeadMembSmovGang : met (ready 0 []) 0 h0 anyCls [(.s 1, 1), (.v 2, 1)]
    (fun s x ts => oneCrew x && ts.all fun u => !s.isPoisoned u [(.v 2, 1)] && s.rdReg u .z == (0, false)) = true := by decide
theorem wit_SpecialRegisters : met (ready 0 []) 0 h0 anyCls [(.v 1, 1)]
    (writable? h0 fun s u => wr32 (.v 1) (special s u .lane) false) = true := by decide
/-- One lane arrives at a group, its handle's or its billet's, within the group's time. -/
def arrivalMet (l : Nat) (wait : Option (Nat × Reg)) (g : State → Nat → Option Nat) : Bool :=
  met (site 0 []) 0 h0 anyCls [(.v 1, 1)] fun s _ ts => settledAt l s ts && pure_ s ts [] && timely g s ts &&
    turns (mayArrive g (s.b32 · (.imm 1))) (arriving wait g (s.b32 · (.imm 1))) s (barOrder s ts)
theorem wit_BarrierArrivals : arrivalMet 3 (some (0, .v 1)) (groupOf · · 1) = true ∧
    arrivalMet 2 (some (0, .v 1)) billetGroup = true ∧ arrivalMet 3 none (groupOf · · 1) = true := by decide
theorem wit_BarrierWaitsAndMembers : met (site 0 []) 0 h0 anyCls [(.v 1, 1), (.v 2, 1)]
    (fun s _ ts => settledAt 3 s ts && pure_ s ts [(.v 2, 1)] && inGroup s 1 (.imm 1) ts) = true := by decide
theorem wit_StageWords : met (site 0 [(2, 0x40)]) 0 h1 anyCls [(.v 2, 1), (.v 1, 1)]
    (fun s _ ts => countable s h1 ts && settledAt 0 s ts && ts.all fun u => objReady s u ⟨.v 2, 0x10, false⟩ 16 [(.v 1, 1)]) =
      true := by decide
/-- A blocking queue word, a push or a pop, of a queue of its width. -/
def queueMet (push : Bool) (w : State → Nat → Nat → Nat → Wait) : Bool :=
  met (site 0 [(2, 0x40)]) 0 h1 anyCls [(.v 2, 1), (.v 4, 5)] fun s x ts =>
    settledAt (if push then 3 else 0) s ts && (ts.all fun u => objReady s u ⟨.v 2, 0, false⟩ 32 [(.v 4, 4)]) &&
      turns (fun s' u => (s'.queueAt (objAt s u ⟨.v 2, 0, false⟩ 32)).wide == false) (queues push ⟨.v 2, 0, false⟩ w s x) s ts
theorem wit_QueueWords : queueMet true (fun s u a k => .qpush a false (s.rN u (.v 4) 4) 8 k) = true ∧
    queueMet false (fun _ _ a k => .qpop a false 4 8 k) = true ∧
    met (site 0 [(2, 0x40), (4, 0x100), (5, 4)]) 0 h1 anyCls [(.v 2, 1), (.v 4, 2)]
      (fun s _ ts => countable s h1 ts && ts.all fun u => objReady s u ⟨.v 2, 0, false⟩ 32 [(.v 4, 2)] &&
        qinitTrap s u (objAt s u ⟨.v 2, 0, false⟩ 32) ⟨.v 2, 0, false⟩ (s.r64 u (.v 4)) == none) = true := by decide
theorem wit_WaitsAndMonitors : met (site 0 [(2, 0x800)]) 0 h1 anyCls [(.v 1, 1), (.z, 4), (.v 2, 1), (.v 4, 2)]
    (fun s _ ts => countable s h1 ts && settledAt 0 s ts && pure_ s ts [(.z, 4), (.v 2, 1), (.v 4, 2)] &&
      (ts.all fun u => (s.rN u .z 4).all fun w => (descTrap s u w).isNone) &&
      ts.all fun u => canonical (addr64 (s.r64 u (.v 4)) 0)) = true := by decide
/-- A load of the mapped page, one of a page that is not there, and one to an s register of the page that is. -/
def loadMet (v : Map W32) (d : Reg) (m : MOp) (page : Bool) : Bool :=
  met (site 0 v) 0 h1 anyCls [(.v 2, 2), (d, 1)] fun s _ ts => countable s h1 ts &&
    (ts.all fun u => mayAccess s u (ea64 s m u) 4 .read [(.v 2, 2)] true false && (here s m .read u == page) &&
      (here s m .read u || !Reg.isS d || !supplies ts u)) && mixes s m .read 4 false (ts.filter (here s m .read))
theorem wit_LoadWords_global : loadMet [(2, 0x4000)] (.v 4) ⟨.v 2, 0, .core, .weak, 0⟩ true = true ∧
    loadMet [(3, 1)] (.v 4) ⟨.v 2, 0x4000, .core, .weak, 0⟩ false = true ∧
    loadMet [(2, 0x4000)] (.s 4) ⟨.v 2, 0, .core, .weak, 0⟩ true = true := by decide
/-- The last bytes of a scratchpad. -/
def scratchMet (v : Map W32) (m : MOp) (size n : Nat) (mcast rd wr : Bool) : Bool :=
  met (site 0 v) 0 h1 anyCls [(.v 2, 1), (.v 4, n)] fun s _ ts => countable s h1 ts && ts.all fun u =>
    ((scratchTargets s u (m.scope == .clus) mcast (ea32 s m u) size).any fun as =>
      (as.filterMap (ownOffset s u)).all fun o => (watchHit s u true o size rd wr).isEmpty) &&
    ea32 s m u % size == 0 && !s.isPoisoned u ((.v 2, 1) :: if wr then [(.v 4, n)] else [])
theorem wit_LoadWords_scratch : scratchMet [(2, 0xFF8)] ⟨.v 2, 0, .core, .weak, 0⟩ 8 2 false true false = true ∧
    scratchMet [(2, 0xFF8)] ⟨.v 2, 0, .clus, .weak, 0⟩ 8 2 false true false = true := by decide
/-- The first word that LDC reaches, and the last. -/
def bankMet (a : W32) : Bool :=
  met (site 0 [(2, a)]) 0 h1 anyCls [(.v 2, 1), (.v 4, 1)] fun s _ ts =>
    let m : MOp := ⟨.v 2, 0, .core, .weak, 0⟩
    countable s h1 ts && ts.all fun u => decide (ea32 s m u < 65536) && ea32 s m u % 4 == 0 && !s.isPoisoned u [(.v 2, 1)] &&
      (pageOf s u (bankAt s m u) .read).isSome && (pageOf s u ((bankAt s m u + 4 - 1) % 2 ^ 64) .read).isSome &&
      (watchHit s u false (bankAt s m u) 4 true false).isEmpty
theorem wit_LoadWords_bank : bankMet 0 = true ∧ bankMet 0xFFFC = true := by decide
/-- A word that writes the mapped page, and one that waits for a page. -/
def writeMet (v : Map W32) (m : MOp) (size n : Nat) (kind : AccKind) (rmw page : Bool) : Bool :=
  met (site 0 v) 0 h1 anyCls [(.v 2, 2), (.v 4, n)] fun s _ ts => countable s h1 ts &&
    (ts.all fun u => mayAccess s u (ea64 s m u) size kind [(.v 2, 2), (.v 4, n)] rmw true && here s m kind u == page) &&
    (!page || mixes s m kind size (rmw || m.ord != .weak) ts)
theorem wit_StoreWords : writeMet [(2, 0x4000)] ⟨.v 2, 0, .core, .weak, 0⟩ 4 1 .write false true = true ∧
    writeMet [(3, 1)] ⟨.v 2, 0x4000, .core, .weak, 0⟩ 4 1 .write false false = true ∧
    scratchMet [(2, 0xFFC)] ⟨.v 2, 0, .core, .weak, 0⟩ 4 1 true false true = true ∧
    scratchMet [(2, 0xFFC)] ⟨.v 2, 0, .clus, .weak, 0⟩ 4 1 true false true = true := by decide
theorem wit_AtomicWords : writeMet [(2, 0x4000)] ⟨.v 2, 0, .dev, .ar, 0⟩ 8 2 .rmw true true = true ∧
    writeMet [(3, 1)] ⟨.v 2, 0x4000, .core, .weak, 0⟩ 4 1 .rmw true false = true ∧
    writeMet [(2, 0x4000)] ⟨.v 2, 0, .core, .weak, 0⟩ 4 1 .write true true = true ∧
    writeMet [(3, 1)] ⟨.v 2, 0x4000, .core, .weak, 0⟩ 4 1 .write true false = true ∧
    scratchMet [(2, 0xFFC)] ⟨.v 2, 0, .core, .weak, 0⟩ 4 1 false true true = true ∧
    scratchMet [(2, 0xFFC)] ⟨.v 2, 0, .core, .weak, 0⟩ 4 2 false true true = true := by decide
/-- A block of one entry at the start of the mapped page: its address 0x4100, its size 4. -/
theorem wit_FencesHintsAndPoison : met { site 0 [(2, 0x4000)] with
      mem := (site 0 []).mem ++ [(0x4000, 1), (0x4011, 0x41)] } 0 h1 anyCls [(.v 2, 2), (.v 4, 1)]
      (fun s _ ts => let m : MOp := ⟨.v 2, 0, .core, .weak, 0⟩
        countable s h1 ts && pure_ s ts [(.v 2, 2)] && orderly s ts && (ts.all fun u => !blockWaits s u (ea64 s m u)) &&
          turns (mcasGoes s m) (mcasSent s h1 (.v 4) m ts) s ts) = true ∧
    met (site 0 [(2, 0x4000)]) 0 h1 anyCls [(.v 2, 2)] (fun s _ ts => countable s h1 ts &&
      ts.all fun u => (pageOf s u (ea64 s ⟨.v 2, 0, .dev, .weak, 0⟩ u) .read).isSome && !s.isPoisoned u [(.v 2, 2)]) = true := by
  decide
/-- A push of each queue in the class that may hold it, and a gang of one crew at a matrix word. -/
theorem wit_PushAndMatrixWords : met (site 0xA038001000000001 []) 0xA038001000000001 h0 (fun c => c == .cpy) [(.v 16, 16)]
      (fun s _ ts => pure_ s ts [(.v 16, 16)]) = true ∧
    met (site 0 []) 0 h0 (fun c => c == .vec || c == .cpy) [(.v 16, 16)] (fun s _ ts => settledAt 6 s ts && pure_ s ts [(.v 16, 16)] &&
      ts.all fun u => ((s.wpOf (crewOf u)).map fun w => w.packet.getLsbD 61).getD false) = true ∧
    met (site 0xA638000000004000 []) 0xA638000000004000 h1 mtxCls [(.s 4, 2), (.s 6, 2)]
      (fun s x ts => countable s h1 ts && atOnce s x ts) = true := by decide

/-- The site with surface 0 at 0x5000: a pixel grid of one block, whose record of zeros stands at address 0. -/
def canvas (v : Map W32) : State :=
  { site 0 v with
    mem := [(0x1000, 1), (0x1001, 0x20), (0x2000, 1), (0x2001, 0x30), (0x3000, 0xBD), (0x3001, 0x08), (0x5013, 0x80)]
    ctxs := [(0, { live := true, root := 0x1000, surfTab := 0x5000 })] }

def surfMet (s : State) (h : Head) (srcs regs : List (Reg × Nat)) (op : State → Nat → Plan (List RegWrite)) : Bool :=
  met s 0 h vecCls regs fun s x ts => countable s h ts && pure_ s ts srcs && orderly s ts && x.lanes.isEmpty &&
    (lanes (op s) (endInterval s ts) ts).isSome

theorem wit_SurfaceReads : surfMet (canvas [(3, 0x20)]) h1 [(.v 2, 1), (.v 3, 1)] [(.v 2, 1), (.v 3, 1), (.v 5, 1)]
      (fun s u => do
        let g ← laneSurf s u (.v 2) (.v 3)
        let vs ← readPixelsAt (whoOf s u) g [(coordX s u (.v 3), coordY s u (.v 3))]
        pure (wr32 (.v 5) (BitVec.ofNat 32 (vs.headD 0)) false)) = true ∧
    surfMet (canvas []) h1 [(.v 2, 1), (.v 3, 1)] [(.v 2, 1), (.v 3, 1), (.v 5, 1)] (fun s u => do
      let g ← getSurf (whoOf s u) (surfIdx s u (.v 2)) none
      pure (wr32 (.v 5) (BitVec.ofNat 32 (descW g.desc)) false)) = true := by decide
theorem wit_SurfaceWrites : surfMet (canvas [(3, 0x20), (4, 0xFF)]) h0 [(.v 2, 1), (.v 3, 1), (.v 4, 1)]
      [(.v 2, 1), (.v 3, 1), (.v 4, 1)] (fun s u =>
        stores (.v 2) (.v 3) 32 15 [(coordX s u (.v 3), coordY s u (.v 3), surfData s u false (.v 4))] s u) = true ∧
    surfMet (canvas [(3, 0x20)]) h0 [(.v 2, 1), (.v 3, 1)] [(.v 2, 1), (.v 3, 1)] (fun s u =>
      changes (.v 2) (.v 3) true (fun k => pure ({ k with step := 3 }, false)) s u) = true ∧
    surfMet (canvas []) h0 [(.v 2, 1)] [(.v 2, 1)] (fun s u => flushes (.v 2) false s u) = true ∧
    surfMet (canvas []) h0 [(.v 2, 1)] [(.v 2, 1)] (fun s u => flushes (.v 2) true s u) = true := by decide
theorem wit_TraversalTests : met (ready 0 []) 0 h0 vecCls [(.v 4, 4), (.v 8, 4), (.v 20, 4)]
    (writable? h0 fun s u =>
      let r := leafTest (nats s u (.v 4) 4) (nats s u (.v 8) 4)
      wrN (.v 20) (r.1.map fun v => BitVec.ofNat 32 (FFmt.f32.round .rne false v)) (s.isPoisoned u [(.v 4, 4), (.v 8, 4)]) ++
        wrP 1 r.2 false) = true := by decide

/-- An access of four bytes at 0x4000, and a store of thread t there that has not performed. -/
def anAcc : Acc :=
  { space := .global, pa := 0x4000, size := 4, va := 0x4000, ord := .weak, scope := .core, rem := false, proto := 0, ctx := 0, word := 0 }
def aStore (t : Nat) : Pend := { id := 0, tid := t, dc := 0, op := .store anAcc [1, 2, 3, 4] 0 }
/-- A handler thread at P1 with its counter below its limit. -/
theorem wit_TrapWordsAndReturn : met (site 0xE238000000000000 []) 0xE238000000000000 h1 sysCls [(.v 2, 2), (.v 4, 1)]
    (fun s _ ts => (ts.all fun u => decide ((s.crew (crewOf u)).priv ≤ 1)) && countable s h1 ts &&
      pure_ s ts [(.v 2, 2), (.v 4, 1)]) = true := by decide
theorem wit_SystemRegisterWords : met (site 0xE238000000000000 []) 0xE238000000000000 h1 (· == .sys) [(.v 2, sysWords 0x02)]
    (fun s x ts => CanCount s x h1 && Privileged s x h1 1 && mayUse s 0x02 false ts && mayUse s 0x0D true ts &&
      counts h1 [(.v 2, sysWords 0x0D)] s ts) = true := by decide
theorem wit_ControlOfOtherThreads : met (site 0xE238000000000000 []) 0xE238000000000000 h1 sysCls [(.v 2, 2), (.v 4, 1)]
      (fun s x ts => Privileged s x h1 1 && counts h1 [(.v 2, 2), (.v 4, 1)] s ts && settledAt 5 s ts) = true ∧
    met { site 0xE238000000000000 [] with pend := [aStore 512] } 0xE238000000000000 h0 sysCls []
      (fun s _ ts => !settledAt 5 s ts) = true := by decide
theorem wit_RingCountersAndFirmware : met (site 0xE238000000000000 []) 0xE238000000000000 h1 sysCls [(.v 16, 16)]
      (fun s x ts => Privileged s x h1 1 && countable s h1 ts && CanCount s x h1) = true ∧
    met (site 0xE938000000000000 []) 0xE938000000000000 h0 sysCls [] (fun s _ ts => ts.all fun u => (s.crew (crewOf u)).priv == 0) =
      true ∧
    met (site 0xE238000000000000 []) 0xE238000000000000 h0 sysCls [] (fun s _ ts => ts.all fun u => (s.crew (crewOf u)).priv == 1) =
      true ∧
    (({ (ready 0 []) with cur := none }.updThr 0 fun x => { x with status := .blocked .halt }).blockedBy fun w => w == Wait.halt) ≠ [] := by
  decide

/-- A part in service. -/
def base : State := { State.reset with ready := true }
/-- A condition at a state. -/
def at_ (s : State) (p : State → Bool) : Bool := p s
def oneGroup : Group := { wp := 1, set := 0, entry := 0, handle := 1, timeout := 10, tableTimeout := 10, members := [(0, 0)] }
/-- Thread 0 blocked at its word. -/
def waitingOn (w : Wait) : State := { base with threads := [(0, { status := .blocked w })], crews := [(0, { width := 1 })] }
/-- Thread 0 has one operation in flight. -/
def flying (op : POp) : State :=
  { base with threads := [(0, {})], crews := [(0, { width := 1 })], seq := 2, pend := [{ id := 1, tid := 0, dc := 1, op := op }] }

theorem wit_SynchronisationEvents :
    (at_ { base with time := 10, groups := [(7, { oneGroup with first := some 0 })] } fun s => (s.group? 7).any fun x =>
      x.first.isSome && !x.broken && x.pausedAt.isNone && decide (x.timeout ≤ x.elapsed s.time)) = true ∧
    (at_ { waitingOn (.waitv false [0, 0, 0, 0] 0 5 0 (.v 1)) with time := 5 } fun s =>
      (waitvTest s 0 false [0, 0, 0, 0] 0 5 0).isSome) = true ∧
    ((waitingOn (.sleep 0)).thr 0).status = .blocked (.sleep 0) ∧ 0 ≤ (waitingOn (.sleep 0)).time ∧
    (at_ (flying (.fence .ar .dev false none)) fun s => (s.pend? 1).any fun p =>
      p.id == 1 && !p.done && (earlier s p).isEmpty &&
        s.sees p.tid ((fenceHeads s p.tid p.id Scope.dev.level .ar).flatMap RelHead.owed)) = true ∧
    (at_ { flying .value with pend := [{ id := 1, tid := 0, dc := 1, op := .value, done := true }] } fun s =>
      (s.pend? 1).any fun p => p.done && landable s p) = true ∧
    (at_ (flying (.qbreak 0)) fun s => (s.pend? 1).any fun p => !p.done && errorFor s p == none && Machine.ready s p &&
      (performLocal s p).isSome) = true := by decide

/-- A thread about to fetch at pc, its context's pages mapped. -/
def fetching (pc : BitVec 57) (c : Context) (x : Thread) : State :=
  { base with
    mem := (site 0 []).mem
    ctxs := [(0, { c with live := true, root := 0x1000 })]
    threads := [(0, { x with pc := pc })], crews := [(0, { width := 1 })] }
theorem wit_FetchAndScheduling :
    (at_ (fetching 0x4008 {} {}) fun s => (s.thr 0).status == .ready && (s.thr 0).clause.isNone && (s.threads.get? 0).isSome &&
      !s.inFlight 0 && (match (found s 0).1 with | .trap _ => true | _ => false)) = true ∧
    (at_ (fetching 0x40000000 {} {}) fun s => match (found s 0).1 with | .park _ => true | _ => false) = true ∧
    (base.core 0).retired = false ∧
    (at_ { ready 0 [] with bundles := [], cores := [(0, { gather := 256 })] } fun s =>
      readyBut s 0 (s.thr 0) && !(s.thr 0).aged && decide ((s.thr 0).readyAt + 256 ≤ (s.core (coreOf 0)).gather)) = true ∧
    (at_ { ready 0 [] with cores := [(0, { gather := 4 })], threads := [(0, { yieldTil := 4 })] } fun s =>
      (s.thr 0).yieldTil != 0 && decide ((s.thr 0).yieldTil ≤ (s.core (coreOf 0)).gather)) = true ∧
    (at_ { base with ctxs := [(0, { live := true, handler := 0x4000, trapTail := 64, served := [(0, 0, none)] })] } fun s =>
      (s.core 0).handlerCtx == none && (s.ctx 0).live && (s.ctx 0).handler != 0 && unreadOn s 0 0) = true := by decide

/-- Two matrix crews of one billet at the latch with the same instruction. -/
def atLatch (g : BitVec 16) (op : MatOp) : State :=
  { site 0 [] with
    bundles := [], cur := none
    threads := [(0, { status := .latch op 0 0 }), (32, { status := .latch op 0 0 })]
    crews := [(0, { role := .mtx, width := 1, gang := g, number := 0 }), (1, { role := .mtx, width := 1, gang := g, number := 1 })]
    billets := [(0, { wp := 1, index := 0, set := 0, member := 0, crews := [0, 1], scratchBase := 0, scratchSize := 0x1000 })] }
def gangIsHere (s : State) : Bool := (crewLatch s 0).any fun w => outOfPlace s 0 == [] && gangComplete s 0 w && releasesFirst s 0 w
def gangTrap (op : MatOp) : Option TrapInfo := matTrap (atLatch 3 op) (gangCrews (atLatch 3 op) 0 ⟨op, 0, 0, 3, 0⟩) op
/-- An instruction in the anvil of core 0. -/
def inAnvil (op : MatOp) (read : Bool) : State :=
  { atLatch 3 op with anvil := [{ id := 5, op := op, core := 0, billet := 0, wp := 1, gang := [0, 1], tids := [], read := read }] }
/-- Of two crews of a gang, one that has waited for longer than the latch allows. -/
def alone (op : MatOp) : State :=
  { atLatch 3 op with threads := [(0, { status := .latch op 0 0 }), (32, {})], time := 1001 }
theorem wit_GangAndAnvil :
    (crewLatch (atLatch 1 (.mzero 0 false)) 0).isSome = true ∧ outOfPlace (atLatch 1 (.mzero 0 false)) 0 ≠ [] ∧
    gangIsHere (atLatch 3 (.mzero 511 true)) = true ∧ (gangTrap (.mzero 511 true)).isSome = true ∧
    gangIsHere (atLatch 3 (.mzero 0 false)) = true ∧ gangTrap (.mzero 0 false) = none ∧
    padsFree (atLatch 3 (.mzero 0 false)) (gangCrews (atLatch 3 (.mzero 0 false)) 0 ⟨.mzero 0 false, 0, 0, 3, 0⟩) (.mzero 0 false) = true ∧
    (at_ (alone (.mzero 0 false)) fun s => (crewLatch s 0).any fun w => !gangComplete s 0 w &&
      (latchLimit s 0).any (fun l => decide (gangSince s 0 w + l < s.time)) &&
      !((gangAt s 0 w).flatMap fun c => liveTids s c.1).isEmpty) = true ∧
    (at_ (inAnvil (.mload 2 0 false) false) fun s => (s.anvil.find? fun x => x.id == 5).any fun o =>
      !o.read && opReady s o && (catchUp 5 s (anvilOps s o.core)).isSome) = true ∧
    (∀ r ∈ [true, false], (at_ (inAnvil (.mzero 0 false) r) fun s => (s.anvil.find? fun x => x.id == 5).any fun o =>
      o.id == 5 && ((anvilOps s o.core).head?.map AnvilOp.id) == some o.id && (o.read == r) && !hasOperands o.op) = true) := by decide

def aBlock : SurfBlock :=
  { ctx := 0, surf := 0, b := 0, priv := 2, desc := 0, home := 0, set := 0, mode := 0, ref := 0, mvx := 0, mvy := 0, step := 0,
    version := 0, base := 0, depth := 0, pred := [], tbs := [], old := [] }
/-- The descriptor of the canvas' surface. -/
def recorded : BitVec 512 := BitVec.ofNat 512 (2 ^ 159)
theorem wit_HeldBlocks :
    (at_ { base with surfs := [aBlock] } fun s => (heldBlock s 0 0 0).any fun k => k.pinned.isNone) = true ∧
    (at_ { base with surfs := [{ aBlock with pinned := some 0 }], time := 100000 } fun s => (heldBlock s 0 0 0).any fun k =>
      k.pinned.any (fun t => decide (t + 100000 ≤ s.time)) && !k.timedOut) = true ∧
    (at_ { base with surfs := [{ aBlock with pinned := some 0 }] } fun s => (heldBlock s 0 0 0).any fun k =>
      match encodeBlock k s with | (.ok .done, _) => false | _ => true) = true ∧
    (at_ { canvas [] with surfs := [{ aBlock with pinned := some 0, desc := recorded, mode := 2 }] } fun s => (heldBlock s 0 0 0).any fun k =>
      match encodeBlock k s with | (.ok .done, _) => true | _ => false) = true := by decide

def aCommand (image : BitVec 512) : Command :=
  { id := 3, image := image, core := 0, pos := 0, wp := 1, ctx := 0, priv := 2, tid := 0 }
def rayImage (nodes : Nat) : BitVec 512 := BitVec.ofNat 512
  (0x100000000ffffffff00000000000048000000000000004400000000000000000000000000000040000000000000004000000000000000000000000002 +
    nodes * 2 ^ 224)
def traversing (c : Command) : State := { site 0 [] with trav := [c] }
def travHeadAt (s : State) (c : Command) : Bool := (s.trav.find? fun x => x.id == 3) == some c && !c.running && c.parks == [] &&
  cmdReady s c && ((travQueue s 0).head?.map Command.id) == some 3 &&
  decide ((s.trav.filter fun x => x.core / 4 == c.core / 4 && x.running).length < 4)
def took (r : Take) (f : State → Bool) : Bool := match r with | .yes t => f t | _ => false
def travRuns (s : State) (c : Command) : Bool :=
  took (takeLines (s.updEngine c.id fun _ => c) c ((openItems c).flatMap (itemPages s c)).dedup []) fun _ => true
def rayRuns : Command := { travAimed (traversing (aCommand (rayImage 1))) (aCommand (rayImage 1)) with running := true }
/-- A BEAM of the canvas' surface. -/
def beamCmd : Command := aCommand (rayImage 1 - 1)
theorem wit_TraversalEvents_ray :
    (at_ (traversing (aCommand (rayImage 1))) fun s => let c := aCommand (rayImage 1)
      travHeadAt s c && c.kind == 2 && travChecks s (travAimed s c) false false == none && travRuns s (travAimed s c)) = true ∧
    (at_ (traversing (aCommand (rayImage 0))) fun s => let c := aCommand (rayImage 0)
      travHeadAt s c && c.kind == 2 && travChecks s (travAimed s c) false false == some 5) = true := by decide
/-- A beam on the canvas, which is no depth surface; one of a surface that is not there; one whose table's page is absent. -/
theorem wit_TraversalEvents_beam :
    (at_ { canvas [] with trav := [beamCmd] } fun s => travHeadAt s beamCmd && beamCmd.kind == 1 &&
      (match beamSurf s beamCmd with
        | .ok x => travChecks s (travAimed s beamCmd) (x.fmt.code != 10 || descFrozen x.desc || marked s 0 beamCmd.surface) false
        | .error _ => none) == some 4) = true ∧
    (at_ { canvas [] with trav := [beamCmd], ctxs := [(0, { live := true, root := 0x1000, surfTab := 0x0100000000000000 })] } fun s =>
      travHeadAt s beamCmd && match beamSurf s beamCmd with
        | .error (.prot _ page) => (travChecks s (travAimed s beamCmd) (!page) page).isSome
        | _ => false) = true ∧
    (at_ { canvas [] with trav := [beamCmd], ctxs := [(0, { live := true, root := 0x1000, surfTab := 0x40000000 })] } fun s =>
      travHeadAt s beamCmd && match beamSurf s beamCmd with
        | .error (.fault ..) => (travChecks s (travAimed s beamCmd) false false).isNone
        | _ => false) = true := by decide
theorem wit_TraversalEvents_item :
    (at_ (traversing rayRuns) fun s => let c := rayRuns
      (s.trav.find? fun x => x.id == c.id) == some c && c.running && (openItems c).contains 0 && c.stuck.isNone && c.parks.isEmpty &&
        !touchProt s c (itemOut c 0) && (touchFaults s c (itemOut c 0)).isEmpty &&
        took (takeLines s c (itemPages s c 0) []) fun t =>
          match runItem t c 0 with
          | (.ok read, _) => took (fetchLines t c (itemReads t c 0 read)) fun u => match runItem u c 0 with | (.ok _, _) => true | _ => false
          | _ => false) = true ∧
    (at_ { traversing { rayRuns with stuck := some (0, 0) } with time := 100000 } fun s =>
      (s.trav.find? fun x => x.id == 3).any fun c => c.stuck.any (fun x => decide (x.2 + 100000 ≤ s.time)) && !c.raised) = true := by
  decide

def aPacket : BitVec 512 := 0x10000000000000000000000000000000000000000000000004000000000000000000000000000000000004000
/-- The same with a dependency word at 0x4000, which is 0 and must reach 0. -/
def depPacket : BitVec 512 := 0x10000000000000000000040000000000000000000000000004000000000000000000000000000000000004000
def queued (p : BitVec 512) (live : Bool) : State :=
  { site 0 [] with
    ctxs := [(0, { live := live, root := 0x1000 })], billets := [], wps := []
    tenants := [(0, { ampEn := true, amp := [(p, 0)] })] }
def packetWaits (s : State) (q : Nat) : Bool := queueOn s 0 q && headPacket s 0 q == none && s.power == 0 &&
  (if q = 16 then (s.tenant 0).amp != [] else ((s.tenant 0).queue q).tail != ((s.tenant 0).queue q).hd)
def atHead (p : BitVec 512) (met : Bool) (root : W64) : State :=
  { site 0 [] with
    ctxs := [(0, { live := true, root := root })], billets := []
    wps := [(1, { ident := 1, tenant := 0, ctx := 0, queue := 16, index := 0, packet := p, widths := List.replicate 16 32 })]
    tenants := [(0, { ampEn := true, amp := [(p, 0)], ampHeadPkt := some { wp := 1, depMet := met, polled := 0 } })] }
def depWaits (s : State) (found : Bool) : Bool := (headPacket s 0 16).any fun h => (s.wps.get? h.wp).any fun x =>
  !h.depMet && s.power == 0 && acquired s x.ctx (pkt x.packet 256 64) 8 && (readAs s x.ctx (pkt x.packet 256 64) 8).isSome == found
/-- One of sixteen crews and as many of an assay, which no core takes. -/
def widePacket : BitVec 512 := aPacket ||| BitVec.ofNat 512 (2 ^ 63 + 0xFFFFFFFF * 2 ^ 352)
/-- The first candidate takes its turn with the others, and is one still, or not. -/
def picks (s : State) (left : Bool) : Bool := (candidates s).head?.any fun c =>
  let t := each pickOne s (candidates s)
  let here (e : Cand) : Bool := e.wp == c.wp && e.saved == c.saved
  s.power == 0 && (candidates t).any here == left &&
    (!left || ((candidates t).find? here).any fun e => (t.wps.get? c.wp).any fun x => (e.need t x).isSome && x.begun)
theorem wit_LaunchAndPlacement :
    (at_ (queued aPacket false) fun s => packetWaits s 16 && !(s.ctx (queueCtx s 0 16)).live) = true ∧
    (at_ { queued 0 true with ctxs := [(0, { live := true })], tenants := [(0, { lq := [(0, { en := true, tail := 1 })] })] } fun s =>
      packetWaits s 0 && (s.ctx (queueCtx s 0 0)).live && packetBytes s 0 0 == none) = true ∧
    (at_ (queued 0 true) fun s => packetWaits s 16 && (s.ctx (queueCtx s 0 16)).live && (packetBytes s 0 16).any fun p =>
      match checkPacket s (queueCtx s 0 16) p with | .error _ => true | _ => false) = true ∧
    (at_ (queued aPacket true) fun s => packetWaits s 16 && (s.ctx (queueCtx s 0 16)).live && (packetBytes s 0 16).any fun p =>
      match checkPacket s (queueCtx s 0 16) p with | .ok _ => true | _ => false) = true ∧
    depWaits (atHead depPacket false 0x1000) true = true ∧ depWaits (atHead depPacket false 0) false = true ∧
    (at_ { atHead (aPacket + 2 ^ 192) true 0x1000 with time := 1 } fun s =>
      (s.wps.get? 1).any fun x => missDue s x && s.power == 0) = true := by decide
theorem wit_LaunchAndPlacement_picks : picks (atHead aPacket true 0x1000) false = true ∧
    picks (atHead widePacket true 0x1000) true = true := by decide

def aSet (ready_ : Bool) (cfg : W32) (power : Nat) : State :=
  { site 0 [] with
    bundles := [], cur := none, power := power
    ctxs := [(0, { live := true, root := 0x1000, saveCfg := cfg })]
    threads := [(0, { drain := ready_ })]
    billets := [(0, { wp := 1, index := 0, set := 0, member := 0, crews := [0], scratchBase := 0, scratchSize := 0, victim := true })]
    wps := [(1, { ident := 1, tenant := 0, ctx := 0, queue := 0, index := 0, packet := aPacket })] }
def setRests (s : State) : Bool := setBillets s 1 0 != [] && (setBillets s 1 0).all (fun e => e.2.victim) && quiet s (setBillets s 1 0)
def slotFor (s : State) : Option Nat := freeSlot s 0 (setSize s 1 0) (some (1, 0))
theorem wit_SaveAndRestore :
    (at_ (aSet true 0x1FFFF 0) fun s => setRests s && (slotFor s).isSome) = true ∧
    (at_ (aSet true 0 1) fun s => setRests s && (slotFor s).isNone && s.power != 0) = true ∧
    (at_ { aSet true 0 0 with cores := [(0, { retired := true })] } fun s => setRests s && (slotFor s).isNone &&
      s.power == 0 && (setBillets s 1 0).any fun e => (s.core (e.1 / 4)).retired || e.2.avoid == some (e.1 / 4)) = true ∧
    (at_ { base with
        saved := [{ uid := 1, wp := 1, set := 0, slot := 0, billets := [], savedAt := 0 }]
        wps := [(1, { ident := 1, tenant := 0, ctx := 0, queue := 0, index := 0, packet := aPacket })] } fun s =>
      (s.saved.find? fun v => v.wp == 1 && v.set == 0).any fun v => (s.wps.get? 1).any fun x => s.power == 0 &&
        (restoreCores s v x).isSome && !betterFits s (candRank s 1 0 x)) = true := by decide

/-- What a home makes of the operation in flight. -/
def serveIs (yes : Bool) (r : Serve) : Bool := match r with | .yes _ => yes | .wait _ => !yes | .no => false
def anEntry (pa : Nat) (new : List Byte) : McasEntry := { va := pa, pa := pa, size := 4, expect := [0, 0, 0, 0], new := new }
def anMcas (held : List Nat) : POp := .mcas anAcc [anEntry 0x4000 [1, 0, 0, 0], anEntry 0x4080 []] [0x80, 0x81] held 0 (.v 1)
def asksLock (s : State) (p : Pend) (l : Nat) : Bool :=
  (errorFor s p).isNone && inOrder s p && (!isDrawerPa (128 * l) || p.link == 2) && domReady s p
def mayLock (s : State) (l proto : Nat) : Bool :=
  (s.home l).lock == none && !ownedLine s .global l && turn s l 1 &&
    (proto != 1 || (decide (leaseEnd s l ≤ s.time) && (s.home l).writers.isEmpty && !rebaseDue s l))
def mcasMet (s : State) (es : List McasEntry) (held : List Nat) (f : Nat → Nat → Bool) : Bool :=
  (s.pend? 1).any fun p => (mcasNext [0x80, 0x81] held).any fun l => p.id == 1 && asksLock s p l && f l (lineProto es l)
theorem wit_HomeRequests :
    (∀ e ∈ [(DirState.i, true), (.m 1, false)], (at_ { flying (.load anAcc ⟨false, .v 1⟩) with homes := [(0x80, { dir := e.1 })] }
      fun s => (s.pend? 1).any fun p => serveIs e.2 (serveRead s p anAcc)) = true) ∧
    (∀ pr ∈ [0, 2], (at_ (flying (.pref 0x80 pr 0)) fun s => (s.pend? 1).any fun p => !p.done &&
      (pr == 2 || serveIs true (serveRead s p { space := .global, pa := 128 * 0x80, size := 128, va := 0, ord := .weak, scope := .core,
                                                rem := false, proto := pr, ctx := 0, word := 0 }))) = true) ∧
    (∀ e ∈ [(DirState.i, true), (.m 1, false)], (at_ { flying (.store anAcc [1, 2, 3, 4] 0) with homes := [(0x80, { dir := e.1 })] }
      fun s => (s.pend? 1).any fun p => serveIs e.2 (serveWrite s p anAcc)) = true) ∧
    (∀ e ∈ [(DirState.i, true), (.m 1, false)], (at_ { flying (.rmw anAcc .add 1 none) with homes := [(0x80, { dir := e.1 })] }
      fun s => (s.pend? 1).any fun p => serveIs e.2 (serveAtomic s p anAcc)) = true) ∧
    (∀ e ∈ [(DirState.i, true), (.m 1, false)], (at_ { flying (.cas anAcc [0, 0, 0, 0] [1, 0, 0, 0] (.v 1)) with
      homes := [(0x80, { dir := e.1 })] } fun s => (s.pend? 1).any fun p => serveIs e.2 (serveAtomic s p anAcc)) = true) ∧
    (at_ { flying .value with homes := [(0x80, { writers := [1] })] } fun s =>
      (s.home 0x80).writers != [] && decide (leaseEnd s 0x80 ≤ s.time) && (s.home 0x80).lock == none &&
        !ownedLine s .global 0x80) = true := by decide
/-- The first lock, the last, a line that an L1 holds, one that another has locked, and the end of the time. -/
theorem wit_Mcas :
    (∀ held ∈ [([] : List Nat), [0x80]], mcasMet (flying (anMcas held)) [anEntry 0x4000 [1, 0, 0, 0], anEntry 0x4080 []] held
      (fun l pr => mayLock (flying (anMcas held)) l pr && (dirRecall (flying (anMcas held)) l).2) = true) ∧
    (let s : State := { flying (anMcas []) with homes := [(0x80, { dir := .m 1 })] }
     mcasMet s [anEntry 0x4000 []] [] (fun l pr => mayLock s l pr && !(dirRecall s l).2) = true) ∧
    (let s : State := { flying (anMcas []) with homes := [(0x80, { lock := some 9 })] }
     mcasMet s [anEntry 0x4000 []] [] (fun l pr => !mayLock s l pr && !(s.home l).queue.contains 1) = true) ∧
    0 + 10000 < ({ flying (anMcas []) with time := 10001 } : State).time := by decide

def aProbe (answered again : Bool) : Probe := ⟨0x80, 1, true, 0, again, answered⟩
/-- The timeouts of a core that is awake and of one whose clock is gated. -/
theorem wit_ProbesAndLeases :
    probeAt { base with probes := [aProbe false false] } 0x80 1 false = some (aProbe false false) ∧
    probeAt { base with probes := [aProbe true false] } 0x80 1 true = some (aProbe true false) ∧
    (({ base with homes := [(0x80, { dir := .s [1] })] } : State).home 0x80).dir = .s [1] ∧
    (∀ again ∈ [true, false], ∀ g ∈ [(false, 40), (true, 400)], (at_ { base with
      probes := [aProbe false again], cores := [(1, { gated := g.1 })], time := g.2 } fun s =>
      (probeAt s 0x80 1 false).any fun p => p.again == again &&
        decide (p.since + (if (s.core (leaseCore 1 0x80)).gated then 400 else 40) ≤ s.time)) = true) ∧
    (at_ { base with copies := [(copyKey 0 0x80, ⟨[], 5⟩)], time := 5 } fun s =>
      (s.copies.get? (copyKey 0 0x80)).isSome && validCopy s 0 0x80 == none) = true ∧
    (at_ { base with time := 61438 } fun s => decide (sliceB s 0 + 61438 ≤ s.time) &&
      coreTime s 0 == 61438 && decide ((s.core 0).leaseBase + 61438 ≤ 61438)) = true ∧ base.time % 1024 = 0 := by decide

def ladleImage (k : Nat) : BitVec 512 := BitVec.ofNat 512 (0xffffffff00000000000040000000000000000000 + k)
def ladling (root : W64) (c : Command) : State :=
  { site 0 [] with ctxs := [(0, { live := true, root := root })], ladle := [c] }
def ladleHeadAt (s : State) (c : Command) : Bool := (s.ladle.find? fun x => x.id == 3) == some c && !c.running && c.parks == [] &&
  cmdReady s c && ((ladleQueue s c.core).head?.map Command.id) == some 3 && !issueWaits s (aimed s c)
/-- The command first in the queue, and what it finds as its map. -/
def mapFound (root : W64) (image : BitVec 512) (f : State → Command → MapRead → Bool) : Bool :=
  let c := aCommand image
  let s := ladling root c
  ladleHeadAt s c && took (fetchLines s (aimed s c) (if (hadMap s (aimed s c)).isSome then [] else mapPage s (aimed s c)))
    fun t => f t (aimed s c) (readMap t (aimed s c))
/-- A TCBLOAD that starts, and runs. -/
def bookImage : BitVec 512 := BitVec.ofNat 512 (0xffffffff00000000000040000000000000000006)
def bookRuns : Command := { aimed (ladling 0x1000 (aCommand bookImage)) (aCommand bookImage) with running := true, total := 2048 }
/-- A map of zeros fails; a map that is not aligned; one whose page is not there. -/
theorem wit_LadleEvents_maps :
    (∀ k ∈ [1, 2, 3, 4, 5, 7], mapFound 0x1000 (ladleImage k) (fun t c r => c.kind == k && match r with
      | .ok bs => (checks (cacheMap t c bs) { c with map := bs }
          (if k = 7 then loadCodes (TMap.ofBytes bs) else mapCodes (cacheMap t c bs) c (TMap.ofBytes bs))).isSome
      | _ => false) = true) ∧
    mapFound 0x1000 (ladleImage (2 ^ 64 + 1)) (fun _ _ r => match r with | .fail n => n == 2 | _ => false) = true ∧
    mapFound 0 (ladleImage 1) (fun _ _ r => match r with | .park => true | _ => false) = true ∧
    (∀ k ∈ [0, 8], ladleHeadAt (ladling 0x1000 (aCommand (ladleImage k))) (aCommand (ladleImage k)) &&
      (aCommand (ladleImage k)).kind == k = true) := by decide
/-- A map of one row of 32 bytes that a TCOPY brings in; a TCBLOAD. -/
theorem wit_LadleEvents_starts :
    (at_ (ladling 0x1000 (aCommand bookImage)) fun s => let c := aCommand bookImage
      ladleHeadAt s c && c.kind == 6 && (checks s (aimed s c) [(c.mapAddr % 8 != 0, 3),
        ((bookTag s c.core (c.fld 192 3)).isSome && bookTag s c.core (c.fld 192 3) != some c.billet, 6), (!canonical c.mapAddr, 8)]).isNone &&
        (starts s (aimed s c) (TMap.ofBytes [])).any fun r => took r fun _ => true) = true ∧
    (at_ { ladling 0x1000 bookRuns with ladle := [bookRuns] } fun s => let c := bookRuns
      let m := TMap.ofBytes c.map
      c.running && (openSectors c).contains 0 && !bookBusy s c m && !touchProt s c (sectorTouches s c m 0) &&
        (touchFaults s c (sectorTouches s c m 0)).isEmpty && (sectorSources s c m 0).all (fun l => !ownedByOther s c true l) &&
        (engineError s c ((sectorSources s c m 0).filter fun l => l.1 == .scratch)).isNone &&
        took (takeSectors s c m [0]) fun t => took (fetchLines t c (touchPages t c false (sectorTouches s c m 0))) fun _ => true) = true := by
  decide

theorem wit_WindowWrites : Window base 0 ∧ Window base 63 := ⟨⟨rfl, by decide⟩, rfl, by decide⟩

def aBillet (irrevocable : Bool) : Billet :=
  { wp := 1, index := 0, set := 0, member := 0, crews := [0], scratchBase := 0, scratchSize := 0, irrevocable := irrevocable }
def consumes (s : State) (kind unit a : Nat) : Bool := (s.billets.get? 0).any fun b => mayConsume s 0 b kind unit a
/-- An error that ERRINJ put there, one of a core's registers, a failed core; a line in memory that a billet's load reaches. -/
theorem wit_ErrorsAndRecovery_errors :
    (at_ { base with billets := [(0, aBillet true)], errors := [(1, 0x4000)] } fun s => consumes s 1 0 5 &&
      (s.errors.find? fun e => e.1 == 1 && e.2 / 2 ^ 32 == 0).isSome) = true ∧
    (at_ { base with billets := [(0, aBillet true)], errors := [(8, 0)] } fun s => consumes s 8 0 0) = true ∧
    (at_ { base with billets := [(0, aBillet true)] } fun s => consumes s 1 0 5 && consumes s 2 0 5 &&
      (s.errors.find? fun e => e.1 == 1 && e.2 / 2 ^ 32 == 0).isNone) = true ∧
    (at_ { flying (.load anAcc ⟨false, .v 1⟩) with billets := [(0, aBillet true)] } fun s =>
      consumes s 7 0 0x4000 && consumes s 5 (homeOf s 0x4000) 0x4000) = true ∧
    base.billets.get? 0 = none := by decide
def pairOf (t u : Thread) : State :=
  { base with crews := [(0, {}), (1, { leader := some 0 })], threads := [(0, t), (32, u)] }
def halted (d : List Nat) (i : Option TrapInfo) : Thread := { status := .assay d i 0 }
theorem wit_ErrorsAndRecovery :
    (at_ { base with
        billets := [(0, aBillet true)], crews := [(0, { width := 1 })]
        threads := [(0, { status := .blocked (.bar 8 0 (.v 1) true false) })]
        groups := [(8, { oneGroup with entry := 0xFFFF, phase := 1 })] } fun s =>
      (groupOfBillet s 0).any fun g => bbarDone s g.1 g.2 != [] && (billetCmds s.ladle 0 (aBillet true)).isEmpty &&
        (billetCmds s.trav 0 (aBillet true)).isEmpty && s.pend.isEmpty) = true ∧
    (at_ (pairOf (halted [1] none) (halted [1] none)) fun s => assayOf s 0 == some 32 && (pairSide s 0).isSome &&
      pairSide s 0 == pairSide s 32) = true ∧
    (at_ (pairOf (halted [1] (some { trap := .align })) (halted [1] (some { trap := .align }))) fun s => assayOf s 0 == some 32 &&
      pairSide s 0 == pairSide s 32 && (trapMates s 0 0).all fun m => pairSide s m.1 == pairSide s m.2.1) = true ∧
    (at_ (pairOf (halted [1] none) (halted [2] none)) fun s => pairSide s 0 != pairSide s 32) = true ∧
    (at_ (pairOf (halted [1] none) { status := .ended }) fun s => pairSide s 32 == some none) = true ∧
    (at_ (pairOf { status := .ended } (halted [1] none)) fun s => pairSide s 0 == some none) = true ∧
    (at_ { pairOf { halted [] none with clause := some ⟨0, .mtx, [], false, false, []⟩ } {} with time := 1000000 } fun s =>
      assayOf s 0 == some 32 && pairSide s 32 == none && (s.thr 0).clause.any (fun c => c.cls == .mtx) &&
        decide (0 + ((groupOfBillet s (s.billetKey 0)).map fun g => g.2.timeout).getD 1000000 ≤ s.time)) = true ∧
    (∀ b ∈ base.bundles, b.1 / 8 ≠ 63) ∧ (({ base with groups := [(7, oneGroup)] } : State).group? 7).isSome = true := by decide

/-- A port to drawer 0, in a state, with every class of the tenant 0 in its slots both ways. -/
def withPort (s : State) (st : Nat) : State :=
  { s with
    ports := [(0, { en := true, state := st, drawer := 0 })], drwSize := [(0, 0x1000000)]
    slotTab := (List.range 2).map fun r => (32 * r, 0x0000820081008000) }
def farAcc : Acc := { anAcc with pa := 2 ^ 50 }
def farLoad (link : Nat) : State :=
  { flying (.load farAcc ⟨false, .v 1⟩) with
    pend := [{ id := 1, tid := 0, dc := 1, op := .load farAcc ⟨false, .v 1⟩, link := link }] }
def outbound (s : State) : Bool := (s.pend? 1).any fun p => (requestOf p).any fun r => r.1 == 2 ^ 50 && Machine.ready s p &&
  needsDrawer s p && p.link != 2
def farMcas : POp := .mcas farAcc [] [2 ^ 43] [] 0 (.v 1)
/-- A request, an answer, a line the part holds, an MCAS while its port is up and while it retrains. -/
theorem wit_LinkTraffic :
    (at_ (withPort (farLoad 0) 2) fun s => outbound s && portFor s (2 ^ 50) == some 0 && (s.port 0).state != 3 && hasSlot s 0 0 0 0) =
      true ∧
    (at_ (withPort (farLoad 0) 3) fun s => outbound s && portFor s (2 ^ 50) == some 0 && (s.port 0).state == 3) = true ∧
    (at_ (farLoad 0) fun s => outbound s && portFor s (2 ^ 50) == none) = true ∧
    (at_ { farLoad 3 with time := 5000 } fun s => outbound s && portFor s (2 ^ 50) == none && decide (3 - 3 + 5000 ≤ s.time)) = true ∧
    (at_ (withPort (farLoad 1) 2) fun s => portFor s (2 ^ 50) == some 0 && (s.port 0).state == 2 && hasSlot s 0 1 0 1) = true ∧
    (at_ (withPort { base with homes := [(2 ^ 43, { dir := .m 1, hold := .owned })] } 2) fun s => isDrawerPa (128 * 2 ^ 43) &&
      (s.home (2 ^ 43)).held && (s.home (2 ^ 43)).lock == none && !ownedLine s .global (2 ^ 43) &&
      decide (leaseEnd s (2 ^ 43) ≤ s.time) && (portsTo s (drawerOf (128 * 2 ^ 43))).any fun p => (s.port p).state == 2) = true ∧
    (∀ st ∈ [2, 3], (at_ (withPort (flying farMcas) st) fun s => (s.pend? 1).any fun p => (mcasNext [2 ^ 43] []).any fun l =>
      isDrawerPa (128 * l) && p.link != 2 && !p.done && Machine.ready s p && (linkStalled s l == (st == 3)) &&
        (portFor s (128 * l)).any fun q => hasSlot s q 0 0 2 && hasSlot s q 1 0 2) = true) := by decide
/-- A release of core 0 at core scope, before which its thread wrote, and a load of another core's that asks for it. -/
def narrow (rem : Bool) (scope : Scope) (pa : Nat) : State :=
  { base with
    threads := [(0, {}), (512 * 16, {})], crews := [(0, { width := 1 }), (16 * 16, { width := 1 })], seq := 4
    pend := [{ id := 1, tid := 0, dc := 0, op := .store { anAcc with pa := pa + 0x100 } [1, 2, 3, 4] 0 },
             { id := 3, tid := 16 * 512, dc := 1, op := .load { anAcc with pa := pa, rem := rem, scope := scope, ord := .acq } ⟨false, .v 1⟩ }]
    notes := [⟨.global, pa, [⟨0, 2, 2, [1]⟩]⟩] }
theorem wit_LinkTraffic_promotion :
    drawerOwed base = [] ∧
    (at_ (narrow true .dev 0x4000) fun s => (s.pend? 3).any fun p => promotionOwed s p != [] && !isDrawerPa 0x4000) = true ∧
    (at_ (withPort (narrow true .dom (2 ^ 50)) 2) fun s => (s.pend? 3).any fun p => promotionOwed s p != [] &&
      (portFor s (2 ^ 50)).any fun q => (s.port q).state != 3) = true ∧
    (at_ (narrow true .dom (2 ^ 50)) fun s => (s.pend? 3).any fun p => promotionOwed s p != [] && portFor s (2 ^ 50) == none) = true := by
  decide
theorem wit_PortsAndDomainTime :
    (∀ st ∈ [1, 2, 3], ((withPort base st).port 0).state = st) ∧
    (withPort base 3).time ≤ ((withPort base 3).port 0).since + 4000 ∧
    (({ base with ports := [(15, { stall := some (7, true), swap := true })] } : State).port 15).stall = some (7, true) ∧
    (at_ { base with refDrawer := some 3 } fun s => s.time % 1024 == 0 && s.slewAt != some s.time && s.refDrawer.isSome) = true ∧
    ({ base with refDrawer := some 3 } : State).refDrawer = some 3 ∧
    (at_ (withPort base 2) fun s => s.refDrawer != some 0 && (s.drwSize.get? 0).getD 0 != 0) = true ∧
    (at_ base fun s => s.refDrawer != some 15 && (s.drwSize.get? 15).getD 0 == 0) = true := by decide

theorem wit_HostRegisters : Window base 63 ∧ (({ base with ctxs := [(5, { live := true })] } : State).ctx 5).live = true ∧
    (({ base with ctxs := [(5, { inval := [(0, none)] })] } : State).ctx 5).inval = (0, none) :: [] ∧
    ownRow 0 = false ∧ ownRow 0x400 = false ∧ ownRow 0x480 = false ∧ ownRow 0x490 = false ∧ ownRow 0x500 = false ∧ ownRow 0x580 = false ∧
    ownRow 0x1000 = false ∧ ownRow 0x1001F = false := ⟨⟨rfl, by decide⟩, by decide⟩

def rises (fail : Nat) : BringUp :=
  { fail := fail, bad := [], ports := [], slots := [], drawers := [], reference := none, module := 1, measurement := [1] }
theorem wit_PowerAndUnallocated :
    (State.reset.ready = false ∧ State.reset.recovery = false ∧ failing 1 (rises 0) = none) ∧
    (∀ n ∈ [1, 2, 3, 4, 5, 6, 7], failing 1 (rises n) = some n) ∧ (base.ready = true ∧ base.recovery = false ∧ base.power = 0) ∧
    drained { base with power := 1 } = true ∧ failing 3 (rises 1) = none ∧ failing 3 (rises 3) = some 3 ∧
    ({ base with clockStep := 13 } : State).clockStep < 14 ∧ ({ base with measurement := [1] } : State).measurement ≠ [] ∧
    met (ready 0xBC38000000000000 []) 0xBC38000000000000 h0 anyCls [] (fun s x _ => x.tids.all fun t => !strictOpen s t) = true := by
  decide

theorem wit_DecodeOfEncode : (Instr.addB32 (plain 0) (.v 223) (.s 30) (.imm 0x8000)).isWord = true ∧
    (Instr.addB32 (plain 0) (.v 223) (.s 30) (.imm 0x8000)).wf := by simp [Instr.isWord, Instr.wf, RK.ok, OpB.ok]
/-- A word that decodes issues in its turn, and with an empty agenda; one that does not; an event and time in their turn. -/
theorem wit_StepRunsDecoded :
    (at_ (State.reset.withFetchWord 64 0x0038080800018000) fun s => s.agenda.head? == some (.issue 0) && (s.bundles.get? 0).any fun x =>
      match decode x.word with | .ok _ => true | _ => false) = true ∧
    (at_ { State.reset.withFetchWord 64 0x0038080800018000 with agenda := [] } fun s => s.agenda == [] && s.firstBundle == some 0) =
      true ∧
    (at_ (State.reset.withFetchWord 64 0x003F080800018000) fun s => (s.bundles.get? 0).any fun x =>
      (match decode x.word with | .error _ => true | _ => false) && x.tids.all fun t => !openFence s t && !strictOpen s t) = true ∧
    Instr.isWord .firmwareWake = false ∧ ({ base with agenda := [.pass 5] } : State).agenda = .pass 5 :: [] := by decide
theorem wit_MemoriesStayCanonical : (State.reset.withFetchWord 64 0x0038080800018000).memOk = true ∧
    (after (step (State.reset.withFetchWord 64 0x0038080800018000)) fun _ => ()) = some () := by decide
theorem wit_ResetAndCreation : Window base 0 ∧ (base.ctx 15).live = false ∧ (base.ctx 15).busy = false :=
  ⟨⟨rfl, by decide⟩, by decide⟩
theorem wit_TransferChecks : met (ready 0 [(2, 4)]) 0 h0 anyCls [(.v 2, 2)] (fun s _ ts =>
    ts.all fun u => !s.isPoisoned u [(.v 2, 2)] && roomToCall { s with ctxs := [(0, { stack := 0x10003 })] } u) = true := by decide
theorem wit_TransferChecks_loop : met (ready 0 [(2, 2)]) 0 h0 anyCls [(.v 2, 1)]
    (fun s _ ts => ts.all fun u => !s.isPoisoned u [(.v 2, 1)] && s.r32 u (.v 2) != 1) = true := by decide
/-- The highest canonical target of the lower half, the first that is not, and one that is not aligned. -/
theorem wit_TransferChecks_targets :
    transferTrap 0x00FFFFFFFFFFFFF8 true = none ∧ (transferTrap 0x0100000000000000 true).map TrapInfo.trap = some .prot ∧
    (transferTrap 4 true).map TrapInfo.trap = some .align ∧ transferTrap 4 false = none := by
  simp [transferTrap, canonical]
theorem wit_TrapsAndResumption :
    (∀ e ∈ [(0, mtxCls), (0, sysCls), (0xE238000000000000, vecCls)], Issuing (ready e.1 []) (wordBundle e.1) (bundle e.1) = true ∧
      e.2 (bundle e.1).clause.cls = false) ∧
    Fits (ready 0 []) (bundle 0) [(.v 224, 1)] = false ∧
    (at_ { site 0 [] with ctxs := [(0, { live := true, root := 0x1000, handler := 0x4000, trapBase := 0x8000 })] } fun s =>
      (s.threads.get? 0).isSome && coreOf 0 != hubCore && slotOf 0 != handlerSlot && (s.ctx (s.ctxOf 0)).handler != 0 &&
        (at_ (postToHandler (stopped s 0 { trap := .align }) 0 (trapRecord (stopped s 0 { trap := .align }) 0 { trap := .align })
          Trap.align.code) fun u => (u.ctx (u.ctxOf 0)).handler != 0)) = true ∧
    (at_ { base with threads := [(0, { status := .trapped { trap := .align } })] } fun s =>
      (s.thr 0).trap?.isSome && !(s.thr 0).pcWritten) = true := by decide
theorem wit_MatrixEffects : ∀ op ∈ [MatOp.mzero 0 false, .mcopy 0 256 false, .mload 2 0 false, .mscl 0 0 false, .maddc 0 0 false,
    .mma .f32 4 6 0 0 0 true false false, .mdrain 0 4 0 0, .mstat 4 0 false, .mstore 2 3 0 false],
    (inAnvil op false).memOk = true ∧ (at_ (inAnvil op false) fun s => s.anvil.all fun o => o.here s && o.stage.isNone) = true := by decide
theorem wit_MatrixEffects_stage : (at_ (inAnvil (.mma .f32 4 6 0 0 0 true false false) false) fun s => s.anvil.all fun o =>
    s.memOk && ({ o with stage := some 0x40 } : AnvilOp).here s) = true := by decide
theorem wit_LandingWrites : (at_ (flying .value) fun s => (s.pend? 1).any fun p => decide (p.op = .value) && p.contested == []) =
    true := by decide
/-- R139: SFN is exact where the result is a power of two of an integer, and at its special values. -/
theorem test_sfn_exact : FFmt.f32.sfn .exp2 0x41000000 = 0x43800000 ∧ FFmt.f32.sfn .rcp 0x40000000 = 0x3F000000 ∧
    FFmt.f32.sfn .log2 0x41000000 = 0x40400000 ∧ FFmt.f32.sfn .rcp 0x00000000 = 0x7F800000 := by decide

end Sys2Proof.Tests
end

section
/-!
SUPPORT. Transfers of control (R144): a lane whose target fails a check keeps its word and raises its trap, every other lane goes
to its target. BRA, BRX, CALL and CALLX are one fold over their lanes; DBNZ checks one target for all of them.
-/
namespace Sys2Proof.Machine

/-! The checks of a target. -/

/-- R58: the model's target of a word displacement is the one the statements speak of. -/
theorem wofsTarget_eq_branchTo (x : Bundle) (wofs : BitVec 32) : wofsTarget x.clause wofs = branchTo x wofs := rfl

theorem low3_ne_zero_iff (a : W64) : (a.extractLsb' 0 3 != 0) = true ↔ a.toNat % 8 ≠ 0 := by
  rw [bne_iff_ne, ne_eq, ← BitVec.toNat_inj, BitVec.extractLsb'_toNat]
  simp

/-- R144: the model's checks of a target are those of the statements. -/
theorem targetTrap_eq_transferTrap (a : W64) (fromReg : Bool) : targetTrap a fromReg = transferTrap a fromReg := by
  unfold targetTrap transferTrap
  simp only [Bool.not_eq_true', Bool.and_eq_true, low3_ne_zero_iff]

/-! Lanes that transfer, one after another. -/

/-- One lane of a transfer: it keeps its place and raises its trap, or it goes. -/
def transferStep (bad : Nat → Option TrapInfo) (go : State → Nat → State) (o : WordOut) (t : Nat) : WordOut :=
  match bad t with
  | some i => { o with traps := o.traps ++ [(t, i)] }
  | none => { o with s := go o.s t }

theorem transferStep_trap {bad : Nat → Option TrapInfo} {t : Nat} {i : TrapInfo} (go : State → Nat → State) (o : WordOut)
    (hb : bad t = some i) : transferStep bad go o t = { o with traps := o.traps ++ [(t, i)] } := by
  simp only [transferStep, hb]

theorem transferStep_go {bad : Nat → Option TrapInfo} {t : Nat} (go : State → Nat → State) (o : WordOut)
    (hb : bad t = none) : transferStep bad go o t = { o with s := go o.s t } := by
  simp only [transferStep, hb]

/-- The lanes whose targets pass have gone, in order; the others' traps are collected in order. -/
theorem foldl_transferStep (bad : Nat → Option TrapInfo) (go : State → Nat → State) (ts : List Nat) (o : WordOut) :
    ts.foldl (transferStep bad go) o =
      { o with s := each go o.s (ts.filter fun t => (bad t).isNone),
               traps := o.traps ++ ts.filterMap fun t => (bad t).map fun i => (t, i) } := by
  induction ts generalizing o with
  | nil => simp [each]
  | cons t r ih =>
    rw [List.foldl_cons, ih]
    cases hb : bad t with
    | none => simp [transferStep_go go o hb, hb, each]
    | some i => simp [transferStep_trap go o hb, hb]

/-- BRA and BRX without a poisoned operand (R145): each lane goes to its target or raises the trap of R144. -/
theorem branchLanes_eq {s : State} {ts : List Nat} {use : State → Nat → Option TrapInfo} (tgt : Nat → W64) (fromReg : Bool)
    (huse : ∀ t ∈ ts, use s t = none) {f : State → Nat → Option W64} (hf : ∀ t, f s t = some (tgt t)) :
    branchLanes f fromReg use s ts =
      ts.foldl (transferStep (fun t => transferTrap (tgt t) fromReg) fun s' t => goes (tgt t) s' t) { s := s } := by
  refine List.foldl_ext _ _ _ fun o t ht => ?_
  simp only [hf, huse t ht, Option.or_none, targetTrap_eq_transferTrap, Option.bind_some]
  cases hb : transferTrap (tgt t) fromReg with
  | none => cases fromReg <;> simp [transferStep, hb, goes]
  | some i => cases fromReg <;> simp [transferStep, hb]

/-! Calls: a lane that goes leaves the call state of the others as it was. -/

/-- A thread that does not step leaves its bundle and stands at its target. -/
theorem goes_calm {s : State} {u : Nat} (a : W64) (h : (s.thr u).stepping = false) :
    goes a s u = (s.leave [u]).updThr u fun x =>
      { x.goTo (a.extractLsb' 0 57) 0 with status := .ready, readyAt := (s.core (coreOf u)).gather, aged := false } :=
  settle_calm (s.leave [u]) u _ 0 h

/-- What decides whether a thread's call has room: its thread, its crew's context, and that context's stack. -/
theorem roomToCall_congr {s s' : State} {t : Nat} (hthr : s'.thr t = s.thr t)
    (hctx : s'.ctxOf (crewOf t) = s.ctxOf (crewOf t)) (hctxs : s'.ctxs = s.ctxs) : roomToCall s' t = roomToCall s t := by
  have hsize : ∀ c, sliceSize s' c = sliceSize s c := fun c => by unfold sliceSize State.ctx; rw [hctxs]
  unfold roomToCall
  rw [hthr, hctx, hsize]

/-- The thread that calls, with its return address kept (R146). -/
def keepReturn (ret : W64) (y : Thread) : Thread := { y with depth := y.depth + 1, cache := (ret :: y.cache).take 4 }

theorem calls_eq_goes (x : Bundle) (a : W64) (s : State) (u : Nat) :
    calls x a s u = goes a (s.updThr u (keepReturn (x.clause.next.zeroExtend 64))) u := rfl

/-- A call in its plain form: one thread changes, and the bundles lose it. -/
theorem calls_calm {s : State} {u : Nat} (x : Bundle) (a : W64) (h : (s.thr u).stepping = false) :
    ∃ f, calls x a s u = ((s.updThr u (keepReturn (x.clause.next.zeroExtend 64))).leave [u]).updThr u f :=
  ⟨_, (calls_eq_goes x a s u).trans (goes_calm a (by rw [State.thr_updThr, if_pos rfl]; exact h))⟩

theorem calls_thr_ne {s : State} {u t : Nat} (x : Bundle) (a : W64) (h : (s.thr u).stepping = false) (hne : t ≠ u) :
    (calls x a s u).thr t = s.thr t := by
  obtain ⟨f, hf⟩ := calls_calm x a h
  rw [hf, State.thr_updThr, if_neg hne]
  exact (s.thr_updThr u t _).trans (if_neg hne)

theorem calls_roomToCall_ne {s : State} {u t : Nat} (x : Bundle) (a : W64) (h : (s.thr u).stepping = false) (hne : t ≠ u) :
    roomToCall (calls x a s u) t = roomToCall s t := by
  refine roomToCall_congr (calls_thr_ne x a h hne) ?_ ?_ <;>
  · obtain ⟨f, hf⟩ := calls_calm x a h
    rw [hf]
    rfl

/-- R39, R146: a call with room below the bound and in the thread keeps its return address there and accesses no memory. -/
theorem callOne_of_room {s : State} {t : Nat} (ret : W64) (h : roomToCall s t = true) :
    callOne s t ret = .ok (s.updThr t (keepReturn ret)) 0 := by
  simp only [roomToCall, Bool.and_eq_true, decide_eq_true_eq] at h
  obtain ⟨hdepth, hcache⟩ := h
  have hnone : (s.thr t).cache[3]? = none := List.getElem?_eq_none (by omega)
  simp only [callOne, if_neg (Nat.not_le.2 hdepth), hnone]
  rfl

/-- The lanes that are still to call have room, and none steps. -/
def CallsReady (s : State) (ts : List Nat) : Prop := ∀ t ∈ ts, roomToCall s t = true ∧ (s.thr t).stepping = false

theorem CallsReady.calls {s : State} {u : Nat} {ts : List Nat} (x : Bundle) (a : W64) (h : CallsReady s (u :: ts))
    (hu : u ∉ ts) : CallsReady (Machine.calls x a s u) ts := by
  intro t ht
  have hne : t ≠ u := fun e => hu (e ▸ ht)
  have hstep := (h u (by simp)).2
  rw [calls_roomToCall_ne x a hstep hne, calls_thr_ne x a hstep hne]
  exact h t (by simp [ht])

/-- Two folds that agree step by step wherever `P` holds of the state reached and the elements still to come. -/
theorem foldl_hom_of_inv {α β γ : Type} (F : β → γ) {step : γ → α → γ} {g : β → α → β} (P : β → List α → Prop)
    (hstep : ∀ b a r, P b (a :: r) → step (F b) a = F (g b a) ∧ P (g b a) r) (l : List α) (b : β) (hP : P b l) :
    l.foldl step (F b) = F (l.foldl g b) := by
  induction l generalizing b with
  | nil => rfl
  | cons a r ih =>
    obtain ⟨heq, hnext⟩ := hstep b a r hP
    rw [List.foldl_cons, List.foldl_cons, heq, ih (g b a) hnext]

/-- CALL and CALLX of lanes with room and without a poisoned operand (R146): each lane calls its target or raises the trap of
R144, and none parks. -/
theorem callLanes_eq {s : State} {b : Nat} {x : Bundle} {ts : List Nat} {use : State → Nat → Option TrapInfo}
    (f : State → Nat → W64) (fromReg : Bool) (hI : Issuing s b x = true) (hn : ts.Nodup)
    (huse : ∀ t ∈ ts, use s t = none) (hready : CallsReady s ts) :
    callLanes f fromReg use s ts =
      ts.foldl (transferStep (fun t => transferTrap (f s t) fromReg) fun s' t => calls x (f s t) s' t) { s := s } := by
  unfold callLanes
  dsimp only
  rw [foldl_hom_of_inv (fun o : WordOut => (o, ([] : List (Nat × Nat))))
    (g := transferStep (fun t => transferTrap (f s t) fromReg) fun s' t => calls x (f s t) s' t)
    (fun o r => CallsReady o.s r ∧ r.Nodup ∧ ∀ t ∈ r, use s t = none) ?_ ts { s := s } ⟨hready, hn, huse⟩]
  · rfl
  · rintro o t r ⟨hready, hn, huse⟩
    obtain ⟨htr, hr⟩ := List.nodup_cons.1 hn
    have huser : ∀ u ∈ r, use s u = none := fun u hu => huse u (by simp [hu])
    simp only [targetTrap_eq_transferTrap, huse t (by simp), Option.or_none]
    cases hb : transferTrap (f s t) fromReg with
    | some i =>
      rw [transferStep_trap _ o hb]
      exact ⟨rfl, fun u hu => hready u (by simp [hu]), hr, huser⟩
    | none =>
      rw [transferStep_go _ o hb]
      simp only [callOne_of_room _ (hready t (by simp)).1, curClause_eq hI]
      exact ⟨rfl, hready.calls x _ htr, hr, huser⟩

/-! The words. -/

/-- A control word that does not order memory completes with what its body makes of the active lanes, traps included. -/
theorem issueWord_lanes {s : State} {b : Nat} {x : Bundle} {h : Head} {a : WordAttr} {body : State → List Nat → WordOut}
    {o : WordOut} (hI : Issuing s b x = true) (hc : a.allowed x.clause.cls = true) (hf : Fits s x a.regs = true)
    (hv : a.var = false) (ho : a.orders = false) (hn : a.settle = none) (hp : a.priv = 2)
    (hbody : body s (activeOf s x h) = o) (hstall : o.stall = false) (htraps : ∀ y ∈ o.traps, y.1 ∈ activeOf s x h) :
    issueWord s h a body = .next (finishWord b x o) := by
  subst hbody
  refine issueWord_go hI hc hf (stalls_plain hI (.inl hv) ho hn) (fun t ht => ?_) hstall fun y hy => ?_
  · rw [hp]
    exact (issuing_all hI t (activeOf_sub ht)).2.2.2
  · exact (issuing_all hI y.1 (activeOf_sub (htraps y hy))).2.1

/-- A word whose lanes take transfer steps is a transfer. -/
theorem transfers_of_steps {i : Instr} {h : Head} {a : WordAttr} {body : State → List Nat → WordOut} {fromReg : Bool}
    {tgt : State → Bundle → Nat → W64} {ok : State → Nat → Bool} {go : State → Bundle → State → Nat → State}
    (hexec : ∀ s, exec i s = issueWord s h a body) (hc : ∀ c, a.allowed c = true)
    (hv : a.var = false) (ho : a.orders = false) (hn : a.settle = none) (hp : a.priv = 2)
    (hbody : ∀ s b x, Issuing s b x = true → (∀ t ∈ activeOf s x h, ok s t = true) → body s (activeOf s x h) =
      (activeOf s x h).foldl (transferStep (fun t => transferTrap (tgt s x t) fromReg) (go s x)) { s := s }) :
    Transfers i h a.regs fromReg tgt ok go := by
  intro s b x hI hf hok bad
  rw [List.all_eq_true] at hok
  have hlanes := (hbody s b x hI hok).trans (foldl_transferStep bad (go s x) (activeOf s x h) { s := s })
  rw [hexec]
  refine issueWord_lanes hI (hc _) hf hv ho hn hp hlanes rfl fun y hy => ?_
  obtain ⟨t, ht, hty⟩ := List.mem_filterMap.1 hy
  obtain ⟨i, -, rfl⟩ := Option.map_eq_some_iff.1 hty
  exact ht

theorem bra_transfers (h : Head) (wofs : BitVec 32) : Transfers (.bra h wofs) h [] false (fun _ x _ => branchTo x wofs)
    (fun _ _ => true) fun _ x => goes (branchTo x wofs) :=
  transfers_of_steps (a := { group := 2 }) (fun _ => rfl) (fun _ => rfl) rfl rfl rfl rfl fun s _ x hI _ =>
    branchLanes_eq (fun _ => branchTo x wofs) false (fun _ _ => rfl) fun _ => by
      rw [curClause_eq hI, wofsTarget_eq_branchTo]

theorem brx_transfers (h : Head) (a : Reg) : Transfers (.brx h a) h [(a, 2)] true (fun s _ u => s.r64 u a)
    (fun s u => !s.isPoisoned u [(a, 2)]) fun s _ s' u => goes (s.r64 u a) s' u :=
  transfers_of_steps (a := { group := 2, regs := [(a, 2)] }) (fun _ => rfl) (fun _ => rfl) rfl rfl rfl rfl fun s _ _ _ hok =>
    branchLanes_eq (fun u => s.r64 u a) true (fun u hu => consumed_none.2 (by simpa using hok u hu)) fun _ => rfl

/-- The active lanes of a bundle that issues do not step, so with room they can all call. -/
theorem callsReady_of_room {s : State} {b : Nat} {x : Bundle} {h : Head} (hI : Issuing s b x = true)
    (hroom : ∀ t ∈ activeOf s x h, roomToCall s t = true) : CallsReady s (activeOf s x h) :=
  fun t ht => ⟨hroom t ht, (issuing_all hI t (activeOf_sub ht)).2.2.1⟩

theorem call_transfers (h : Head) (wofs : BitVec 32) : Transfers (.call h wofs) h [] false (fun _ x _ => branchTo x wofs)
    roomToCall fun _ x => calls x (branchTo x wofs) :=
  transfers_of_steps (a := { group := 2, wait := true, cmp := .load, own := true })
    (body := fun s => callLanes (fun s _ => wofsTarget (curClause s) wofs) false (fun _ _ => none) s)
    (fun _ => rfl) (fun _ => rfl) rfl rfl rfl rfl fun s _ x hI hok => by
    rw [callLanes_eq _ false hI (activeOf_nodup hI h) (fun _ _ => rfl) (callsReady_of_room hI hok), curClause_eq hI,
      wofsTarget_eq_branchTo]

theorem callx_transfers (h : Head) (a : Reg) : Transfers (.callx h a) h [(a, 2)] true (fun s _ u => s.r64 u a)
    (fun s u => !s.isPoisoned u [(a, 2)] && roomToCall s u) fun s x s' u => calls x (s.r64 u a) s' u :=
  transfers_of_steps (a := { group := 2, regs := [(a, 2)], wait := true, cmp := .load, own := true })
    (fun _ => rfl) (fun _ => rfl) rfl rfl rfl rfl fun s _ x hI hok => by
    simp only [Bool.and_eq_true, Bool.not_eq_true'] at hok
    exact callLanes_eq (fun s u => s.r64 u a) true hI (activeOf_nodup hI h) (fun u hu => consumed_none.2 (hok u hu).1)
      (callsReady_of_room hI fun u hu => (hok u hu).2)

/-- Where no lane traps, all lanes go on. -/
theorem lanes_all_pass {trap : Nat → Option TrapInfo} {ts : List Nat} (h : ∀ u ∈ ts, trap u = none) :
    (ts.filter fun u => (trap u).isNone) = ts ∧ (ts.filterMap fun u => (trap u).map fun i => (u, i)) = [] :=
  ⟨List.filter_eq_self.2 fun u hu => by rw [h u hu]; rfl, List.filterMap_eq_nil_iff.2 fun u hu => by rw [h u hu]; rfl⟩

/-- Where all lanes meet one trap, none goes on. -/
theorem lanes_all_trap {trap : Nat → Option TrapInfo} {ts : List Nat} {i : TrapInfo} (h : ∀ u ∈ ts, trap u = some i) :
    (ts.filter fun u => (trap u).isNone) = [] ∧
      (ts.filterMap fun u => (trap u).map fun i => (u, i)) = ts.map fun u => (u, i) := by
  refine ⟨List.filter_eq_nil_iff.2 fun u hu => by simp [h u hu], ?_⟩
  rw [← List.filterMap_eq_map]
  exact List.filterMap_congr fun u hu => by rw [h u hu]; rfl

/-- The trap of a DBNZ lane that branches is that of its target (R144, R149). -/
theorem dbnz_trap {s : State} {b u : Nat} {x : Bundle} {a : Reg} (wofs : BitVec 32) (hI : Issuing s b x = true)
    (hclean : s.isPoisoned u [(a, 1)] = false) (hcount : s.r32 u a - 1 ≠ 0) :
    ((consumed s u [(a, 1)]).or
      (if s.r32 u a - 1 = 0 then none else targetTrap (wofsTarget (curClause s) wofs) false)) =
        transferTrap (branchTo x wofs) false := by
  rw [consumed_none.2 hclean, Option.none_or, if_neg hcount, targetTrap_eq_transferTrap, curClause_eq hI,
    wofsTarget_eq_branchTo]

/-- DBNZ of lanes that all branch (R149): either every lane writes its count and goes, or R144 leaves every lane in its trap. -/
theorem dbnz_branches (h : Head) (a : Reg) (wofs : BitVec 32) {s : State} {b : Nat} {x : Bundle} (hI : Issuing s b x = true)
    (hf : Fits s x [(a, 1)] = true)
    (hok : ∀ u ∈ activeOf s x h, s.isPoisoned u [(a, 1)] = false ∧ s.r32 u a - 1 ≠ 0) :
    let ts := activeOf s x h
    exec (.dbnz h a wofs) s = .next (finishWord b x (match transferTrap (branchTo x wofs) false with
      | none =>
        let counted := each (fun s' u => s'.putRegs u (keepS ts u (wr32 a (s.r32 u a - 1) false))) s ts
        { s := each (goes (branchTo x wofs)) counted ts }
      | some i => { s := s, traps := ts.map fun u => (u, i) })) := by
  intro ts
  have htrap := fun u hu => dbnz_trap wofs hI (hok u hu).1 (hok u hu).2
  cases hb : transferTrap (branchTo x wofs) false with
  | none =>
    obtain ⟨hgood, htraps⟩ := lanes_all_pass fun u hu => (htrap u hu).trans hb
    refine issueWord_lanes hI rfl hf rfl rfl rfl rfl ?_ rfl (by simp)
    dsimp only
    rw [hgood, htraps]
    congr 1
    refine List.foldl_ext _ _ _ fun s' u hu => ?_
    rw [if_neg (hok u hu).2, curClause_eq hI]
    rfl
  | some i =>
    obtain ⟨hgood, htraps⟩ := lanes_all_trap fun u hu => (htrap u hu).trans hb
    refine issueWord_lanes hI rfl hf rfl rfl rfl rfl ?_ rfl (by simp [ts])
    dsimp only
    rw [hgood, htraps]
    rfl

/-- Settles O57: BRA, BRX, CALL and CALLX take one step of R144 per lane, and DBNZ checks one target for all its lanes. -/
theorem transferChecks : Obligations.TransferChecks := by
  refine ⟨bra_transfers, brx_transfers, call_transfers, callx_transfers, fun h a wofs s b x hI hf hok => ?_⟩
  refine dbnz_branches h a wofs hI hf fun u hu => ?_
  have hlane := List.all_eq_true.1 hok u hu
  simp only [Bool.and_eq_true, Bool.not_eq_true', bne_iff_ne] at hlane
  exact ⟨hlane.1, sub_ne_zero.2 hlane.2⟩

end Sys2Proof.Machine
end

section
/-!
SUPPORT. The words of group 7 by which handlers and firmware control other threads (R422 to R438): what issues when a word has to
wait, and the one shape of a word that acts lane by lane for the served context.
-/
namespace Sys2Proof.Machine

/-! Words that may have to wait. -/

/-- R78: past the checks of class and budget, what a word does is up to its lanes. -/
theorem issueWord_runWord {s : State} {b : Nat} {x : Bundle} {h : Head} {a : WordAttr} {body : State → List Nat → WordOut}
    (hI : Issuing s b x = true) (hc : a.allowed x.clause.cls = true) (hf : Fits s x a.regs = true) :
    issueWord s h a body = .next (runWord s b x h a body) := by
  have hopen : x.tids.any (strictOpen s) = false := List.any_eq_false.2 fun t ht => by
    simp [strictOpen_of_openFence (issuing_all hI t ht).2.1]
  have hbudget : overBudget (((x.tids.head?).map fun t => (s.crew (crewOf t)).budget).getD 0) a.regs = false := by
    simpa [Fits] using hf
  simp [issueWord, issuing_cur hI, issuing_bundle hI, hopen, hc, hbudget, issuing_unpaired hI]

/-- A word that has to wait before it issues changes nothing. -/
theorem issueWord_stalls {s : State} {b : Nat} {x : Bundle} {h : Head} {a : WordAttr} {body : State → List Nat → WordOut}
    (hI : Issuing s b x = true) (hc : a.allowed x.clause.cls = true) (hf : Fits s x a.regs = true)
    (hs : stalls s h a (activeOf s x h) = true) : issueWord s h a body = .next s := by
  rw [issueWord_runWord hI hc hf, runWord, if_pos hs]

/-- A word whose lanes have to wait for other threads changes nothing but the model's counter of free choices. -/
theorem issueWord_body_stalls {s : State} {b : Nat} {x : Bundle} {h : Head} {a : WordAttr}
    {body : State → List Nat → WordOut} (hI : Issuing s b x = true) (hc : a.allowed x.clause.cls = true)
    (hf : Fits s x a.regs = true) (hs : stalls s h a (activeOf s x h) = false)
    (hp : ∀ t ∈ activeOf s x h, (s.crew (crewOf t)).priv ≤ a.priv)
    (hw : body s (activeOf s x h) = { s := s, stall := true }) :
    issueWord s h a body = .next { s with fresh := s.fresh + 1 } := by
  have hlow : ((activeOf s x h).filter fun t => decide (a.priv < (s.crew (crewOf t)).priv)) = [] :=
    List.filter_eq_nil_iff.2 fun t ht => by simpa using hp t ht
  rw [issueWord_runWord hI hc hf]
  simp [runWord, hs, hlow, hw]

/-- A word that waits for its threads' earlier accesses waits for nothing else on their account. -/
theorem stalls_settle (s : State) (h : Head) (a : WordAttr) (ts : List Nat) :
    stalls s h a ts = (stalls s h { a with settle := none } ts || a.settle.any fun l => !settledAt l s ts) := by
  cases hl : a.settle <;> simp [stalls, settledAt, hl, List.not_all_eq_any_not]

/-! Words that act lane by lane in the served context. -/

@[simp] theorem isPoisoned_nil (s : State) (t : Nat) : s.isPoisoned t [] = false := rfl

theorem consumed_of_pure {s : State} {ts : List Nat} {rs : List (Reg × Nat)} (h : pure_ s ts rs = true) :
    ∀ u ∈ ts, consumed s u rs = none := fun u hu =>
  consumed_none.2 (by simpa using List.all_eq_true.1 h u hu)

/-- R422: where the counter can rise, no operand is poisoned and the accesses it waits for are there, every active lane acts. -/
theorem sysWord_sys {i : Instr} {h : Head} {regs : List (Reg × Nat)} {var : Bool} {settle : Option Nat}
    {act : State → State → Nat → State} {ok : State → List Nat → Bool}
    (he : ∀ s, exec i s = sysWord h regs var settle act s)
    (hok : ∀ s ts, ok s ts = true → (var = false ∨ countable s h ts = true) ∧ pure_ s ts regs = true ∧
      (settle.any fun l => !settledAt l s ts) = false) : Sys 1 i h regs ok act := by
  intro s b x hI hc hf hall
  simp only [Bool.and_eq_true, List.all_eq_true, decide_eq_true_eq] at hall
  obtain ⟨hpriv, hready⟩ := hall
  obtain ⟨hcount, hpure, hsettled⟩ := hok _ _ hready
  obtain ⟨hgood, htraps⟩ := lanes_all_pass (consumed_of_pure hpure)
  have hgo : stalls s h { group := 7, regs := regs, var := var, wait := true, priv := 1, settle := settle }
      (activeOf s x h) = false := by
    rw [stalls_settle, stalls_plain hI hcount rfl rfl, hsettled]
    rfl
  rw [he, sysWord, issueWord_go hI ?_ hf hgo hpriv rfl (by simp [htraps])]
  · simp only [hgood, htraps]
    rfl
  · exact hc

/-- A word whose operands are a target and a lane mask. -/
theorem sysWord_onTarget {i : Head → Reg → OpB → Instr} {var : Bool} {f : State → Nat → Nat → W32 → State}
    (he : ∀ h a b s, exec (i h a b) s = sysWord h ((a, 2) :: b.regs 1) var none (fun s s' t =>
      if var then signal (f s' (served s t) (target s t a) (s.b32 t b)) t h
      else f s' (served s t) (target s t a) (s.b32 t b)) s) : OnTarget i var f :=
  fun h a b => sysWord_sys (he h a b) fun s ts hok => by
    simp only [Bool.and_eq_true, Bool.or_eq_true, Bool.not_eq_true'] at hok
    exact ⟨hok.1, hok.2, rfl⟩

theorem counts_iff {h : Head} {regs : List (Reg × Nat)} {s : State} {ts : List Nat} :
    counts h regs s ts = true ↔ countable s h ts = true ∧ pure_ s ts regs = true := by
  simp [counts]

/-- A word that signals its counter as soon as it has acted. -/
theorem sysWord_counts {i : Instr} {h : Head} {regs : List (Reg × Nat)} {act : State → State → Nat → State}
    (he : ∀ s, exec i s = sysWord h regs true none act s) : Sys 1 i h regs (counts h regs) act :=
  sysWord_sys he fun _ _ hok => ⟨.inr (counts_iff.1 hok).1, (counts_iff.1 hok).2, rfl⟩

/-- The same of a word that waits for its threads' earlier accesses. -/
theorem sysWord_settles {i : Instr} {h : Head} {regs : List (Reg × Nat)} {l : Nat} {act : State → State → Nat → State}
    (he : ∀ s, exec i s = sysWord h regs true (some l) act s) :
    Sys 1 i h regs (fun s ts => counts h regs s ts && settledAt l s ts) act :=
  sysWord_sys he fun s ts hok => by
    obtain ⟨hcounts, hsettled⟩ := Bool.and_eq_true_iff.1 hok
    exact ⟨.inr (counts_iff.1 hcounts).1, (counts_iff.1 hcounts).2, by simp [hsettled]⟩

/-- KILLCREW of a context has no operand that could be poisoned (R427). -/
theorem killcrew_ctx_sys (h : Head) (a : Reg) (b : OpB) :
    Sys 1 (.killcrew h true a b) h [] (fun s ts => countable s h ts) fun s s' u =>
      signal (terminateCtx s' (served s u) 0) u h :=
  sysWord_sys (fun _ => rfl) fun _ _ hok => ⟨.inr hok, by simp [pure_], rfl⟩

/-- WDOG signals no counter (R431). -/
theorem wdog_sys (h : Head) (hn : Fin 4) (ofBillet : Bool) (a b : Reg) :
    Sys 1 (.wdog h hn ofBillet a b) h [(a, 2), (b, 1)] (fun s ts => pure_ s ts [(a, 2), (b, 1)]) fun s s' u =>
      wdogGroup s' (served s u) (s.r64 u a).toNat hn.val ofBillet (s.r32 u b).toNat :=
  sysWord_sys (fun _ => rfl) fun _ _ hok => ⟨.inl rfl, hok, rfl⟩

/-- R434: IRQ does nothing until the earlier stores of its threads are performed. -/
theorem irq_waits (h : Head) (b : OpB) {s : State} {k : Nat} {x : Bundle} (hI : Issuing s k x = true)
    (hc : x.clause.cls = .sys) (hf : Fits s x (b.regs 1) = true) (hs : settledAt 5 s (activeOf s x h) = false) :
    exec (.irq h b) s = .next s :=
  issueWord_stalls hI (by rw [hc]; rfl) hf (by rw [stalls_settle]; simp [hs])

/-- Settles O35: each of these words acts lane by lane in the served context, and IRQ waits for earlier stores. -/
theorem controlOfOtherThreads : Obligations.ControlOfOtherThreads := by
  refine ⟨?suspend, ?resume, ?killcrew, killcrew_ctx_sys, ?dbgmb, ?jrnl, wdog_sys, ?iinv, ?irq, ?irqWaits⟩
  case suspend => exact sysWord_onTarget fun _ _ _ _ => rfl
  case resume => exact sysWord_onTarget fun _ _ _ _ => rfl
  case killcrew => exact sysWord_onTarget fun _ _ _ _ => rfl
  case dbgmb => exact fun _ _ _ _ => sysWord_counts fun _ => rfl
  case jrnl => exact fun _ _ _ => sysWord_counts fun _ => rfl
  case iinv => exact fun _ _ _ => sysWord_settles fun _ => rfl
  case irq => exact fun _ _ => sysWord_settles fun _ => rfl
  case irqWaits => exact fun h b _ _ _ hI hc hf hs => irq_waits h b hI hc hf hs

end Sys2Proof.Machine
end

section
/-!
SUPPORT. A handler reads a stopped thread only once what the thread issued before it stopped is over (R46): until then SYSR of
DBGDATA and TREC wait. The statements of these two words do not exclude that case, and a handler that meets it refutes them.
-/
namespace Sys2Proof.Machine

/-- R46: SYSR of DBGDATA waits for the operations in flight of the thread in the debug window. -/
theorem sysr_dbgdata_waits (h : Head) (d : Reg) {s : State} {b : Nat} {x : Bundle} (hI : Issuing s b x = true)
    (hc : x.clause.cls = .sys) (hf : Fits s x [(d, 1)] = true) (hk : CanCount s x h = true)
    (hp : Privileged s x h 1 = true) (hm : mayUse s 0x1B false (activeOf s x h) = true)
    (hbusy : ((activeOf s x h).any fun u => dbgBusy s (served s u)) = true) :
    exec (.sysr h d 0x1B) s = .next { s with fresh := s.fresh + 1 } := by
  simp only [Privileged, mayUse, List.all_eq_true, decide_eq_true_eq, Bool.not_eq_true'] at hp hm
  obtain ⟨u, hu, hub⟩ := List.any_eq_true.1 hbusy
  have hallowed : sysDenied s u 0x1B false = false := hm u hu
  have hpasses : sysTrap s u 0x1B false [] = none := by
    simpa [sysTrap, hallowed] using consumed_none.2 (isPoisoned_nil s u)
  have hwait : ((0x1B : BitVec 16) = 0x1B && (activeOf s x h).any fun t =>
      (sysTrap s t 0x1B false []).isNone && dbgBusy s (served s t)) = true := by
    simpa using ⟨u, hu, by simp [hpasses], hub⟩
  exact issueWord_body_stalls hI (by rw [hc]; rfl) hf (stalls_plain hI (.inr hk) rfl rfl) hp (if_pos hwait)

/-- R46: TREC waits for the operations in flight of the thread whose record is at the head of the trap ring. -/
theorem trec_waits (h : Head) (pd : Fin 8) (d : Reg) {s : State} {b : Nat} {x : Bundle} (hI : Issuing s b x = true)
    (hc : x.clause.cls = .sys) (hf : Fits s x [(d, 16)] = true) (hk : CanCount s x h = true)
    (hp : Privileged s x h 1 = true) (hbusy : ((activeOf s x h).any fun u => headBusy s (served s u)) = true) :
    exec (.trec h pd d) s = .next { s with fresh := s.fresh + 1 } := by
  simp only [Privileged, List.all_eq_true, decide_eq_true_eq] at hp
  exact issueWord_body_stalls hI (by rw [hc]; rfl) hf (stalls_plain hI (.inr hk) rfl rfl) hp (if_pos hbusy)

/-- The bundle of a handler thread at one word. -/
def handlerBundle (i : Instr) : Bundle :=
  { tids := [512]
    clause := { pc := 0, cls := .sys, waits := [7, 7, 7, 7, 7, 7], yld := false, xfer := false, words := [encode i] } }

/-- Thread 0 is trapped with an operation still in flight. Its record stands unread in the trap ring, the debug window names it, and
the handler thread of its core issues a word. -/
def handlerMeetsBusyThread (i : Instr) : State :=
  { cur := some 1, bundles := [(1, handlerBundle i)],
    threads := [(0, { status := .trapped { trap := .swtrap } }), (512, {})],
    crews := [(0, { width := 1 }), (16, { width := 1, priv := 1 })],
    cores := [(0, { handlerCtx := some 0 })],
    ctxs := [(0, { live := true, handler := 0x8000, trapBase := 0x4000, trapTail := 1, served := [(0, 0, some 0)],
                   dbgSel := 0x100000000 })],
    billets := [(0, { wp := 1, index := 0, set := 0, member := 0, crews := [0], scratchBase := 0, scratchSize := 0 })],
    wps := [(1, { ident := 1, tenant := 0, ctx := 0, queue := 0, index := 0, packet := 0 })],
    seq := 2, pend := [{ id := 1, tid := 0, dc := 1, op := .unit 0 }] }

/-- A bundle that stands where it stood has not moved on. -/
theorem not_movesOn_of_bundle {s t : State} {b : Nat} {x : Bundle} (h : t.bundles.get? b = some x) : ¬ MovesOn s t b x := by
  rintro ⟨-, -, hplace⟩
  rw [h] at hplace
  split at hplace
  · have hwidx := congrArg Bundle.widx (Option.some.inj hplace.1)
    simp at hwidx
  · simp at hplace

/-- Refutes O34: SYSR of DBGDATA waits (R46) where its statement has it sent, so its bundle does not move on. -/
theorem not_systemRegisterWords : ¬ Obligations.SystemRegisterWords := by
  rintro ⟨hsysr, -⟩
  have hI : Issuing (handlerMeetsBusyThread (.sysr (plain 2) (.v 10) 0x1B)) 1
      (handlerBundle (.sysr (plain 2) (.v 10) 0x1B)) = true := by decide
  obtain ⟨t, ht, -, -, -, hmoves⟩ := hsysr (plain 2) (.v 10) 0x1B _ _ _ hI rfl (by decide) (by decide) (by decide) (by decide)
  have hwaits := sysr_dbgdata_waits (plain 2) (.v 10) hI rfl (by decide) (by decide) (by decide) (by decide) (by decide)
  cases hwaits.symm.trans ht
  exact not_movesOn_of_bundle rfl hmoves

/-- Refutes O36: TREC waits (R46) where its statement has the record taken and the word finished, so its bundle is still there. -/
theorem not_ringCountersAndFirmware : ¬ Obligations.RingCountersAndFirmware := by
  rintro ⟨htrec, -⟩
  have hI : Issuing (handlerMeetsBusyThread (.trec (plain 2) 0 (.v 16))) 1 (handlerBundle (.trec (plain 2) 0 (.v 16))) = true := by
    decide
  have hdone := htrec (plain 2) 0 (.v 16) _ _ _ hI rfl (by decide) (by decide)
  have hwaits := trec_waits (plain 2) 0 (.v 16) hI rfl (by decide) (by decide) (by decide) (by decide)
  have hsame := congrArg (fun s : State => s.bundles.get? 1) (Host.Outcome.next.inj (hwaits.symm.trans hdone))
  exact absurd hsame (by decide)

end Sys2Proof.Machine
end
section
/-!
SUPPORT. The integer words of group 0 (R117 to R130): one lemma per shape of word, and the values of the model's integer
functions as the statements write them.
-/
namespace Sys2Proof.Machine

-- One theorem at a time: elaborating them side by side costs a thread stack each, and the text compiles under a memory limit.
set_option Elab.async false

/-! Shapes of words. -/

theorem opB32_of {f g : W32 → W32 → W32} {i : Head → Reg → Reg → OpB → Instr}
    (hfg : ∀ x y, g x y = f x y) (he : ∀ h d a b s, exec (i h d a b) s = int32 h d a b g s) : OpB32 f i :=
  fun h d a b => writes_alu (dst := [(d, 1)]) (he h d a b) cls_any fun s u => by simp only [hfg, res32]

theorem opB64_of {f g : W64 → W64 → W64} {i : Head → Reg → Reg → OpB → Instr}
    (hfg : ∀ x y, g x y = f x y) (he : ∀ h d a b s, exec (i h d a b) s = int64 h d a b g s) : OpB64 f i :=
  fun h d a b => writes_alu (dst := [(d, 2)]) (he h d a b) cls_any fun s u => by simp only [hfg, res64]

theorem shift64_of {f g : W64 → W32 → W64} {i : Head → Reg → Reg → OpB → Instr}
    (hfg : ∀ x y, g x y = f x y) (he : ∀ h d a b s, exec (i h d a b) s = shift64 h d a b g s) : Shift64 f i :=
  fun h d a b => writes_alu (dst := [(d, 2)]) (he h d a b) cls_any fun s u => by simp only [hfg, res64]

theorem tri32_of {f g : W32 → W32 → W32 → W32} {i : Head → Reg → Reg → Reg → Reg → Instr}
    (hfg : ∀ x y z, g x y z = f x y z) (he : ∀ h d a b c s, exec (i h d a b c) s = int3 h d a b c g s) : Tri32 f i :=
  fun h d a b c => writes_alu (dst := [(d, 1)]) (he h d a b c) cls_any fun s u => by simp only [hfg, res32]

theorem wide_of {f g : W32 → W32 → W64 → W64} {i : Head → Reg → Reg → Reg → Reg → Instr}
    (hfg : ∀ x y z, g x y z = f x y z) (he : ∀ h d a b c s, exec (i h d a b c) s = madw h d a b c g s) : Wide f i :=
  fun h d a b c => writes_alu (dst := [(d, 2)]) (he h d a b c) cls_any fun s u => by simp only [hfg, res64]

theorem un32_of {f g : W32 → W32} {i : Head → Reg → Reg → Instr}
    (hfg : ∀ x, g x = f x) (he : ∀ h d a s, exec (i h d a) s = int1 h d a g s) : Un32 f i :=
  fun h d a => writes_alu (dst := [(d, 1)]) (he h d a) cls_any fun s u => by simp only [hfg, res32]

theorem carry_of {f g : W32 → W32 → Bool → W32 × Bool} {i : Head → Fin 8 → Fin 8 → Bool → Reg → Reg → OpB → Instr}
    (hfg : ∀ x y c, g x y c = f x y c) (he : ∀ h p q n d a b s, exec (i h p q n d a b) s = carryWord h p q n d a b g s) :
    Carry f i :=
  fun h p q n d a b => writes_alu (dst := [(d, 1)]) (he h p q n d a b) cls_any fun s u => by simp only [hfg]

theorem cmp32_of {r : W32 → Int} {i : Head → ICmp → Fin 8 → Reg → Reg → OpB → Instr}
    (he : ∀ h c p d a b s, exec (i h c p d a b) s = icmp32 h c p d a b r s) :
    Cmp32 (fun c a b => ICmp.holds c (r a) (r b)) i :=
  fun h c p d a b => writes_alu (dst := [(d, 1)]) (he h c p d a b) cls_any fun _ _ => rfl

theorem cmp64_of {r : W64 → Int} {i : Head → ICmp → Fin 8 → Reg → Reg → OpB → Instr}
    (he : ∀ h c p d a b s, exec (i h c p d a b) s = icmp64 h c p d a b r s) :
    Cmp64 (fun c a b => ICmp.holds c (r a) (r b)) i :=
  fun h c p d a b => writes_alu (dst := [(d, 1)]) (he h c p d a b) cls_any fun _ _ => rfl

theorem div32_of {f g : W32 → W32 → W32} {i : Head → Reg → Reg → OpB → Instr}
    (hfg : ∀ x y, g x y = f x y) (he : ∀ h d a b s, exec (i h d a b) s = div32 h d a b g s) : Div32 f i :=
  fun h d a b => sends_var (dst := [(d, 1)]) (he h d a b) cls_any fun s u => by simp only [hfg, res32]

theorem div64_of {f g : W64 → W64 → W64} {i : Head → Reg → Reg → OpB → Instr}
    (hfg : ∀ x y, g x y = f x y) (he : ∀ h d a b s, exec (i h d a b) s = div64 h d a b g s) : Div64 f i :=
  fun h d a b => sends_var (dst := [(d, 2)]) (he h d a b) cls_any fun s u => by simp only [hfg, res64]

/-! Sums and products (R117, R118). -/

/-- The model's clamp is the statements' saturation (R5). -/
theorem ofInt_clampInt (x : Int) : BitVec.ofInt 32 (clampInt x (-2 ^ 31) (2 ^ 31 - 1)) = sat32 x := by
  unfold clampInt sat32
  congr 1
  split_ifs <;> omega

theorem signExtend_eq_ofInt {w v : Nat} (x : BitVec w) : x.signExtend v = BitVec.ofInt v x.toInt := rfl

theorem madwS_eq (a b : W32) (c : W64) : madwS a b c = a.signExtend 64 * b.signExtend 64 + c := by
  rw [madwS, BitVec.ofInt_add, BitVec.ofInt_mul, BitVec.ofInt_toInt]
  rfl

theorem madwZ_eq (a b : W32) (c : W64) : madwZ a b c = a.zeroExtend 64 * b.zeroExtend 64 + c := by
  apply BitVec.eq_of_toNat_eq
  simp [madwZ, BitVec.toNat_add, BitVec.toNat_mul]

theorem addSat_eq (a b : W32) : addSat a b = sat32 (a.toInt + b.toInt) := ofInt_clampInt _
theorem subSat_eq (a b : W32) : subSat a b = sat32 (a.toInt - b.toInt) := ofInt_clampInt _

/-- Settles O1: each word is one of the shapes of integer words, with the value its rule gives. -/
theorem integerArithmetic : Obligations.IntegerArithmetic := by
  refine ⟨?add, ?add64, ?add3, ?adds, ?sub, ?sub64, ?subs, ?mul, ?mul64, ?mulhS, ?mulhZ, ?mad, ?madwS, ?madwZ, ?and, ?or,
    ?xor, ?andn, ?not⟩
  case adds => exact opB32_of addSat_eq fun _ _ _ _ _ => rfl
  case subs => exact opB32_of subSat_eq fun _ _ _ _ _ => rfl
  case madwS => exact wide_of madwS_eq fun _ _ _ _ _ _ => rfl
  case madwZ => exact wide_of madwZ_eq fun _ _ _ _ _ _ => rfl
  case add64 | sub64 | mul64 => exact opB64_of (fun _ _ => rfl) fun _ _ _ _ _ => rfl
  case add3 | mad => exact tri32_of (fun _ _ _ => rfl) fun _ _ _ _ _ _ => rfl
  case not => exact un32_of (fun _ => rfl) fun _ _ _ _ => rfl
  all_goals exact opB32_of (fun _ _ => rfl) fun _ _ _ _ _ => rfl

/-! Selections (R120). -/

theorem minS_eq (a b : W32) : minS a b = if a.sle b then a else b := by simp only [minS, BitVec.sle_iff_toInt_le]
theorem maxS_eq (a b : W32) : maxS a b = if a.sle b then b else a := by simp only [maxS, BitVec.sle_iff_toInt_le]
theorem minZ_eq (a b : W32) : minZ a b = if a ≤ b then a else b := by simp only [minZ, BitVec.le_def]
theorem maxZ_eq (a b : W32) : maxZ a b = if a ≤ b then b else a := by simp only [maxZ, BitVec.le_def]

theorem absS32_eq (sat : Bool) (a : W32) :
    absS32 sat a = if sat = true ∧ a = 0x80000000 then 0x7FFFFFFF else if a.toInt < 0 then -a else a := by
  simp only [absS32, BitVec.msb_eq_toInt, decide_eq_true_eq]

theorem clampS_eq (a b c : W32) :
    clampS a b c = let m := if a.sle b then b else a; if m.sle c then m else c := by rw [clampS, minS_eq, maxS_eq]
theorem clampZ_eq (a b c : W32) :
    clampZ a b c = let m := if a ≤ b then b else a; if m ≤ c then m else c := by rw [clampZ, minZ_eq, maxZ_eq]

/-- Settles O2: the model's selections compare as R120 does. -/
theorem integerSelection : Obligations.IntegerSelection :=
  ⟨opB32_of minS_eq fun _ _ _ _ _ => rfl, opB32_of minZ_eq fun _ _ _ _ _ => rfl,
    opB32_of maxS_eq fun _ _ _ _ _ => rfl, opB32_of maxZ_eq fun _ _ _ _ _ => rfl,
    tri32_of clampS_eq fun _ _ _ _ _ _ => rfl, tri32_of clampZ_eq fun _ _ _ _ _ _ => rfl,
    fun sat => un32_of (absS32_eq sat) fun _ _ _ _ => rfl,
    fun sat => un32_of (g := negS32 sat) (fun _ => rfl) fun _ _ _ _ => rfl⟩

/-! Shifts (R122). -/

theorem shiftLeft_eq_ofNat {w : Nat} (a : BitVec w) (n : Nat) : a <<< n = BitVec.ofNat w (a.toNat * 2 ^ n) := by
  apply BitVec.eq_of_toNat_eq
  simp [BitVec.toNat_shiftLeft, Nat.shiftLeft_eq]

theorem ushiftRight_eq_ofNat {w : Nat} (a : BitVec w) (n : Nat) : a >>> n = BitVec.ofNat w (a.toNat / 2 ^ n) := by
  apply BitVec.eq_of_toNat_eq
  rw [BitVec.toNat_ushiftRight, BitVec.toNat_ofNat, Nat.shiftRight_eq_div_pow,
    Nat.mod_eq_of_lt ((Nat.div_le_self _ _).trans_lt a.isLt)]

theorem sshiftRight_eq_ofInt {w : Nat} (a : BitVec w) (n : Nat) : a.sshiftRight n = BitVec.ofInt w (a.toInt / 2 ^ n) := by
  rw [BitVec.sshiftRight, Int.shiftRight_eq_div_pow]
  norm_cast

theorem shl_eq {w : Nat} (a : BitVec w) (n : W32) :
    shl a n = if w ≤ n.toNat then 0 else BitVec.ofNat w (a.toNat * 2 ^ n.toNat) := by rw [shl, shiftLeft_eq_ofNat]

theorem shr_eq {w : Nat} (a : BitVec w) (n : W32) :
    shr a n = if w ≤ n.toNat then 0 else BitVec.ofNat w (a.toNat / 2 ^ n.toNat) := by rw [shr, ushiftRight_eq_ofNat]

theorem sar_eq {w : Nat} (a : BitVec w) (n : W32) : sar a n =
    if w ≤ n.toNat then (if a.msb then BitVec.allOnes w else 0) else BitVec.ofInt w (a.toInt / 2 ^ n.toNat) := by
  rw [sar, sshiftRight_eq_ofInt]

theorem rot32_left (a n : W32) : rot32 false a n = a.rotateLeft (n.toNat % 32) := by
  simp [rot32, BitVec.rotateLeft_def]

theorem rot32_right (a n : W32) : rot32 true a n = a.rotateRight (n.toNat % 32) := by
  simp [rot32, BitVec.rotateRight_def]

/-- The 64 bits that FSH shifts: b is the high word. -/
theorem toNat_append_words (b a : W32) : (b ++ a : W64).toNat = b.toNat * 2 ^ 32 + a.toNat := by
  rw [BitVec.toNat_append, ← Nat.shiftLeft_add_eq_or_of_lt a.isLt, Nat.shiftLeft_eq]

theorem fsh32_left (a b n : W32) : fsh32 false a b n = if 64 ≤ n.toNat then 0 else
    BitVec.ofNat 32 ((b.toNat * 2 ^ 32 + a.toNat) * 2 ^ n.toNat % 2 ^ 64 / 2 ^ 32) := by
  unfold fsh32
  dsimp only
  split
  · rfl
  · apply BitVec.eq_of_toNat_eq
    simp only [Bool.false_eq_true, if_false, BitVec.extractLsb'_toNat, BitVec.toNat_shiftLeft, toNat_append_words,
      Nat.shiftLeft_eq, Nat.shiftRight_eq_div_pow, BitVec.toNat_ofNat]

theorem fsh32_right (a b n : W32) : fsh32 true a b n = if 64 ≤ n.toNat then 0 else
    BitVec.ofNat 32 ((b.toNat * 2 ^ 32 + a.toNat) / 2 ^ n.toNat) := by
  unfold fsh32
  dsimp only
  split
  · rfl
  · apply BitVec.eq_of_toNat_eq
    simp only [if_true, BitVec.extractLsb'_toNat, BitVec.toNat_ushiftRight, toNat_append_words,
      Nat.shiftRight_eq_div_pow, BitVec.toNat_ofNat, pow_zero, Nat.div_one]

/-- Settles O3: a shift by a count moves a number by a power of two; a count is masked in ROT alone. -/
theorem shifts : Obligations.Shifts :=
  ⟨opB32_of shl_eq fun _ _ _ _ _ => rfl, shift64_of shl_eq fun _ _ _ _ _ => rfl,
    opB32_of shr_eq fun _ _ _ _ _ => rfl, shift64_of shr_eq fun _ _ _ _ _ => rfl,
    opB32_of sar_eq fun _ _ _ _ _ => rfl, shift64_of sar_eq fun _ _ _ _ _ => rfl,
    opB32_of rot32_left fun _ _ _ _ _ => rfl, opB32_of rot32_right fun _ _ _ _ _ => rfl,
    tri32_of fsh32_left fun _ _ _ _ _ _ => rfl, tri32_of fsh32_right fun _ _ _ _ _ _ => rfl⟩

/-! Carries, comparisons and predicates (R117, R126, R127). -/

theorem subCarry_eq (a b : W32) (ci : Bool) :
    subCarry a b ci = (a - b - 1 + BitVec.ofNat 32 ci.toNat, decide (b.toNat < a.toNat + ci.toNat)) := by
  have hb := b.isLt
  have hnot : (~~~b).toNat = 2 ^ 32 - 1 - b.toNat := BitVec.toNat_not
  simp only [subCarry, addCarry, hnot, Prod.mk.injEq, decide_eq_decide]
  constructor
  · cases ci <;> bv_omega
  · omega

theorem holds_eq_compares (c : ICmp) (x y : Int) : ICmp.holds c x y = compares c x y := by
  cases c <;> simp [ICmp.holds, compares, beq_eq_decide, bne]

theorem plop_writes (h : Head) (pd pa pb pc : Fin 8) (lut : BitVec 8) : Writes (.plop h pd pa pb pc lut) h anyCls [] fun s u =>
    wrP pd.val (lut.getLsbD (4 * (s.rdPred u pa.val).toNat + 2 * (s.rdPred u pb.val).toNat + (s.rdPred u pc.val).toNat)) false :=
  fun _ _ _ hI _ hf hp => issueWord_fixed hI rfl hf hp (fun _ _ => ⟨rfl, rfl⟩) rfl rfl rfl rfl

/-- Settles O5: the carry out is the bit of weight 2^32, and a comparison is one of whole numbers. -/
theorem carryCompareAndPredicates : Obligations.CarryCompareAndPredicates := by
  have hcmp : ICmp.holds = compares := funext₃ holds_eq_compares
  refine ⟨carry_of (g := addCarry) (fun _ _ _ => rfl) fun _ _ _ _ _ _ _ _ => rfl, carry_of subCarry_eq fun _ _ _ _ _ _ _ _ => rfl,
    ?_, ?_, ?_, ?_, plop_writes⟩
  all_goals rw [← hcmp]
  · exact cmp32_of fun _ _ _ _ _ _ _ => rfl
  · exact cmp32_of fun _ _ _ _ _ _ _ => rfl
  · exact cmp64_of fun _ _ _ _ _ _ _ => rfl
  · exact cmp64_of fun _ _ _ _ _ _ _ => rfl

/-! Division (R119). -/

theorem divremS_fst {w : Nat} (a b : BitVec w) : (divremS a b).1 = quotS a b := by unfold divremS quotS; split_ifs <;> rfl
theorem divremS_snd {w : Nat} (a b : BitVec w) : (divremS a b).2 = remS a b := by unfold divremS remS; split_ifs <;> rfl
theorem divremZ_fst {w : Nat} (a b : BitVec w) : (divremZ a b).1 = quotZ a b := by unfold divremZ quotZ; split_ifs <;> rfl
theorem divremZ_snd {w : Nat} (a b : BitVec w) : (divremZ a b).2 = remZ a b := by unfold divremZ remZ; split_ifs <;> rfl

/-- Settles O6: no operands of a division trap, and its result is R119's in each case. -/
theorem division : Obligations.Division :=
  ⟨div32_of divremS_fst fun _ _ _ _ _ => rfl, div32_of divremZ_fst fun _ _ _ _ _ => rfl,
    div64_of divremS_fst fun _ _ _ _ _ => rfl, div64_of divremZ_fst fun _ _ _ _ _ => rfl,
    div32_of divremS_snd fun _ _ _ _ _ => rfl, div32_of divremZ_snd fun _ _ _ _ _ => rfl⟩

/-! Moves (R125, R130). -/

/-- R391: the result of SEL has the poison of the operand it selects. -/
theorem sel_writes (h : Head) (pc : Fin 8) (neg : Bool) (d a : Reg) (b : OpB) :
    Writes (.sel h pc neg d a b) h anyCls ((d, 1) :: (a, 1) :: b.regs 1) fun s u =>
      if Bool.xor (s.rdPred u pc.val) neg then wr32 d (s.r32 u a) (s.isPoisoned u [(a, 1)])
      else wr32 d (s.b32 u b) (s.isPoisoned u (b.regs 1)) := by
  refine fun s k x hI _ hf hp => issueWord_fixed hI rfl hf hp (fun u _ => ⟨rfl, ?_⟩) rfl rfl rfl rfl
  simp only [taint_fst]
  split <;> rfl

/-- R130, R391: MOV copies register by register, each with its own poison bit. -/
theorem mov_writes (h : Head) (mw : MovW) (d a : Reg) :
    Writes (.mov h mw d a) h anyCls [(d, movWords mw), (a, movWords mw)] fun s u => (List.range (movWords mw)).flatMap fun k =>
      wr32 (d.plus k) (s.r32 u (a.plus k)) (s.rdReg u (a.plus k)).2 :=
  writes_alu (g := 0) (dst := [(d, movWords mw)]) (src := [(a, movWords mw)])
    (ws := fun s u _ => (List.range (movWords mw)).flatMap fun k =>
      wr32 (d.plus k) (s.r32 u (a.plus k)) (s.rdReg u (a.plus k)).2) (fun _ => rfl) cls_any fun _ _ => rfl

/-- MOVI has no operand that could be poisoned. -/
theorem movi_writes (h : Head) (d : Reg) (imm : BitVec 32) :
    Writes (.movi h .w32 d imm) h anyCls [(d, 1)] (fun _ _ => wr32 d imm false) ∧
      Writes (.movi h .sx64 d imm) h anyCls [(d, 2)] (fun _ _ => wr64 d (imm.signExtend 64) false) ∧
      Writes (.movi h .zx64 d imm) h anyCls [(d, 2)] fun _ _ => wr64 d (imm.zeroExtend 64) false :=
  ⟨writes_alu (g := 0) (dst := [(d, 1)]) (src := []) (ws := fun _ _ p => wr32 d imm p) (fun _ => rfl) cls_any fun _ _ => rfl,
    writes_alu (g := 0) (dst := [(d, 2)]) (src := []) (ws := fun _ _ p => wr64 d (imm.signExtend 64) p) (fun _ => rfl)
      cls_any fun _ _ => rfl,
    writes_alu (g := 0) (dst := [(d, 2)]) (src := []) (ws := fun _ _ p => wr64 d (imm.zeroExtend 64) p) (fun _ => rfl)
      cls_any fun _ _ => rfl⟩

theorem Reg.plus_zero (r : Reg) : r.plus 0 = r := by cases r <;> rfl

/-- Settles O7: a move is a word whose results are its operands, with their poison bits. -/
theorem selectAndMoves : Obligations.SelectAndMoves := by
  refine ⟨sel_writes, fun h d a => ?_, fun h d a => ?_, fun h d a => mov_writes h .w128 d a,
    fun h d imm => (movi_writes h d imm).1, fun h d imm => (movi_writes h d imm).2.1, fun h d imm => (movi_writes h d imm).2.2⟩
  · have hmov := mov_writes h .w32 d a
    simpa [movWords, Reg.plus_zero] using hmov
  · have hmov := mov_writes h .w64 d a
    simpa [movWords, List.range_succ] using hmov

end Sys2Proof.Machine
end
section
/-!
SUPPORT. The bit-field and byte words (R123, R124, R128, R129): the model computes them with arithmetic, the statements name the
bits and bytes of the result.
-/
namespace Sys2Proof.Machine

-- One theorem at a time: elaborating them side by side costs a thread stack each, and the text compiles under a memory limit.
set_option Elab.async false

/-! The number with given bits. -/

/-- The number whose bits below n are f. -/
def sumBits (f : Nat → Bool) (n : Nat) : Nat := ((List.range n).map fun i => (f i).toNat * 2 ^ i).foldl (· + ·) 0

theorem sumBits_succ (f : Nat → Bool) (n : Nat) : sumBits f (n + 1) = sumBits f n + (f n).toNat * 2 ^ n := by
  simp [sumBits, List.range_succ]

theorem sumBits_lt (f : Nat → Bool) (n : Nat) : sumBits f n < 2 ^ n := by
  induction n with
  | zero => simp [sumBits]
  | succ n ih =>
    rw [sumBits_succ, Nat.pow_succ]
    cases f n <;> simp <;> omega

theorem testBit_sumBits (f : Nat → Bool) (n i : Nat) : (sumBits f n).testBit i = (decide (i < n) && f i) := by
  induction n with
  | zero => simp [sumBits]
  | succ n ih =>
    rw [sumBits_succ, Nat.add_comm, Nat.mul_comm, Nat.testBit_two_pow_mul_add _ (sumBits_lt f n), ih]
    by_cases hlt : i < n
    · simp [hlt, Nat.lt_succ_of_lt hlt]
    · obtain heq | hgt : i = n ∨ n < i := by omega
      · subst heq; cases f i <;> simp
      · have hone : (f n).toNat < 2 ^ (i - n) := (Bool.toNat_lt _).trans_le (Nat.le_self_pow (by omega) 2)
        simp [hlt, Nat.testBit_lt_two_pow hone, show ¬ i < n + 1 by omega]

theorem getLsbD_ofBits (f : Nat → Bool) (i : Nat) : (ofBits f).getLsbD i = (decide (i < 32) && f i) := by
  rw [show ofBits f = BitVec.ofNat 32 (sumBits f 32) from rfl, BitVec.getLsbD_ofNat, testBit_sumBits]
  simp

/-- A word is the one whose bits are f when it has these bits. -/
theorem eq_ofBits {x : W32} {f : Nat → Bool} (h : ∀ i < 32, x.getLsbD i = f i) : x = ofBits f := by
  refine BitVec.eq_of_getLsbD_eq fun i hi => ?_
  rw [getLsbD_ofBits, h i hi]
  simp [hi]

/-! Bit fields (R123). -/

theorem fieldPos_eq (b : W32) : fieldPos b = posOf b := by simp [fieldPos, posOf, BitVec.extractLsb'_toNat]
theorem fieldLen_eq (b : W32) : fieldLen b = lenOf b := by
  simp [fieldLen, lenOf, BitVec.extractLsb'_toNat, Nat.shiftRight_eq_div_pow]

theorem lenOf_le (b : W32) : lenOf b ≤ 32 := Nat.min_le_right ..

theorem bmsk_bit (b : W32) {i : Nat} (hi : i < 32) :
    (bmsk b).getLsbD i = decide (posOf b ≤ i ∧ i < posOf b + lenOf b) := by
  rw [bmsk, fieldPos_eq, fieldLen_eq, BitVec.getLsbD_ofNat, ← Nat.shiftLeft_eq, Nat.testBit_shiftLeft,
    Nat.testBit_two_pow_sub_one, Bool.eq_iff_iff]
  simp only [hi, decide_true, Bool.true_and, Bool.and_eq_true, decide_eq_true_eq]
  omega

theorem bmsk_eq (b : W32) : bmsk b = ofBits fun i => decide (posOf b ≤ i ∧ i < posOf b + lenOf b) :=
  eq_ofBits fun _ hi => bmsk_bit b hi

theorem bfi_eq (a b c : W32) : bfi a b c =
    ofBits fun i => if posOf b ≤ i ∧ i < posOf b + lenOf b then a.getLsbD (i - posOf b) else c.getLsbD i := by
  refine eq_ofBits fun i hi => ?_
  simp only [bfi, BitVec.getLsbD_or, BitVec.getLsbD_and, BitVec.getLsbD_not, bmsk_bit b hi, fieldPos_eq,
    BitVec.getLsbD_ofNat, ← Nat.shiftLeft_eq, Nat.testBit_shiftLeft, hi]
  by_cases hfield : posOf b ≤ i ∧ i < posOf b + lenOf b
  · simp [hfield, BitVec.getLsbD]
  · simp [hfield]

theorem bfxZ_eq (a b : W32) : bfx false a b = ofBits fun i => decide (i < lenOf b) && a.getLsbD (posOf b + i) := by
  refine eq_ofBits fun i hi => ?_
  have hfield : (((a.toNat : Int) / 2 ^ posOf b % 2 ^ lenOf b).toNat) = a.toNat / 2 ^ posOf b % 2 ^ lenOf b := by
    norm_cast
  simp only [bfx, fieldPos_eq, fieldLen_eq, Bool.false_eq_true, if_false, false_and, hfield]
  split
  · rename_i hlen; simp [hlen]
  · rw [BitVec.getLsbD_ofNat, Nat.testBit_mod_two_pow, Nat.testBit_div_two_pow]
    simp [hi, BitVec.getLsbD, Nat.add_comm]

/-- R123: a signed field is cut out of the source shifted with its sign, and then extended by its own highest bit. -/
theorem bfxS_eq_signExtend (a b : W32) (hlen : lenOf b ≠ 0) :
    bfx true a b = ((a.sshiftRight (posOf b)).setWidth (lenOf b)).signExtend 32 := by
  have hfield : (a.toInt / 2 ^ posOf b % 2 ^ lenOf b).toNat = ((a.sshiftRight (posOf b)).setWidth (lenOf b)).toNat := by
    have hshift : a.toInt / 2 ^ posOf b = (a.sshiftRight (posOf b)).toInt := by
      rw [BitVec.toInt_sshiftRight, Int.shiftRight_eq_div_pow]; norm_cast
    have hdvd : (2 ^ lenOf b : Int) ∣ ((2 ^ 32 : Nat) : Int) := by exact_mod_cast pow_dvd_pow 2 (lenOf_le b)
    rw [hshift, BitVec.toNat_setWidth, BitVec.toInt_eq_toNat_bmod, Int.bmod_def]
    have hmod : ∀ x : Int, (if x % (2 ^ 32 : Nat) < (((2 ^ 32 : Nat) : Int) + 1) / 2 then x % (2 ^ 32 : Nat)
        else x % (2 ^ 32 : Nat) - (2 ^ 32 : Nat)) % 2 ^ lenOf b = x % 2 ^ lenOf b := by
      intro x
      split
      · exact Int.emod_emod_of_dvd x hdvd
      · rw [Int.sub_emod, Int.emod_emod_of_dvd x hdvd, Int.emod_eq_zero_of_dvd hdvd]
        simp
    rw [hmod]
    norm_cast
  rw [signExtend_eq_ofInt, BitVec.toInt_eq_toNat_cond]
  simp only [bfx, fieldPos_eq, fieldLen_eq, if_true, if_neg hlen, true_and, hfield]
  have hpow : 2 * 2 ^ (lenOf b - 1) = 2 ^ lenOf b := mul_pow_sub_one hlen 2
  generalize ((a.sshiftRight (posOf b)).setWidth (lenOf b)).toNat = f
  split
  · rw [if_neg (by omega)]; push_cast; rfl
  · rw [if_pos (by omega)]; rfl

theorem bfxS_eq (a b : W32) : bfx true a b =
    ofBits fun i => lenOf b != 0 && a.getLsbD (min (posOf b + min i (lenOf b - 1)) 31) := by
  refine eq_ofBits fun i hi => ?_
  by_cases hlen : lenOf b = 0
  · simp [bfx, fieldLen_eq, hlen]
  have hshifted : ∀ j < lenOf b, ((a.sshiftRight (posOf b)).setWidth (lenOf b)).getLsbD j = a.getLsbD (min (posOf b + j) 31) := by
    intro j hj
    have hj32 : j < 32 := hj.trans_le (lenOf_le b)
    rw [BitVec.getLsbD_setWidth, BitVec.getLsbD_sshiftRight]
    by_cases hin : posOf b + j < 32
    · simp [hj, hin, show ¬ 32 ≤ j by omega, show min (posOf b + j) 31 = posOf b + j by omega]
    · simp [hj, hin, show ¬ 32 ≤ j by omega, show min (posOf b + j) 31 = 31 by omega, BitVec.msb_eq_getLsbD_last]
  rw [bfxS_eq_signExtend a b hlen, BitVec.getLsbD_signExtend]
  by_cases hin : i < lenOf b
  · rw [if_pos hin, hshifted i hin, show min i (lenOf b - 1) = i by omega]
    simp [hi, hlen]
  · have hmsb : ((a.sshiftRight (posOf b)).setWidth (lenOf b)).msb = a.getLsbD (min (posOf b + (lenOf b - 1)) 31) := by
      rw [BitVec.msb_eq_getLsbD_last, hshifted _ (by omega)]
    rw [if_neg hin, hmsb, show min i (lenOf b - 1) = lenOf b - 1 by omega]
    simp [hi, hlen]

/-! Counts and reversal (R123). -/

theorem length_takeWhile_eq {α : Type} {p : α → Bool} {l : List α} {m : Nat} (hm : m < l.length)
    (hin : ∀ i (hi : i < m), p (l[i]'(hi.trans hm)) = true) (hout : p l[m] = false) : (l.takeWhile p).length = m := by
  induction l generalizing m with
  | nil => simp at hm
  | cons a r ih =>
    cases m with
    | zero => simpa using hout
    | succ m =>
      have ha : p a = true := hin 0 (by omega)
      simpa [List.takeWhile_cons, ha] using ih (by simpa using hm) (fun i hi => hin (i + 1) (by omega)) hout

theorem clz_eq (a : W32) : clz a = if a = 0 then 32 else BitVec.ofNat 32 (31 - Nat.log2 a.toNat) := by
  split
  · rename_i h; subst h; rfl
  · rename_i hne
    have hpos : a.toNat ≠ 0 := fun h => hne (BitVec.eq_of_toNat_eq h)
    have htop : Nat.log2 a.toNat < 32 := (Nat.log2_lt hpos).2 a.isLt
    rw [clz]
    congr 1
    refine length_takeWhile_eq (by simp; omega) (fun i hi => ?_) ?_
    · have hlow : a.toNat < 2 ^ (31 - i) := (Nat.log2_lt hpos).1 (by omega)
      simp [BitVec.getLsbD, Nat.testBit_lt_two_pow hlow]
    · simp only [List.getElem_range, show 31 - (31 - Nat.log2 a.toNat) = Nat.log2 a.toNat by omega, Bool.not_eq_false']
      exact Nat.testBit_log2 hpos

theorem sum_filter_map (p : Nat → Bool) (f : Nat → Nat) (l : List Nat) :
    ((l.filter p).map f).sum = (l.map fun i => (p i).toNat * f i).sum := by
  induction l with
  | nil => rfl
  | cons a r ih => cases h : p a <;> simp [h, ih]

theorem brev_eq (a : W32) : brev a = ofBits fun i => a.getLsbD (31 - i) := by
  have hrev : (List.range 32).reverse = (List.range 32).map fun i => 31 - i := by decide
  rw [brev, ofBits]
  congr 1
  rw [← List.sum_eq_foldl_nat, ← List.sum_eq_foldl_nat, setBits, sum_filter_map, ← List.sum_reverse, ← List.map_reverse, hrev,
    List.map_map]
  exact congrArg List.sum (List.map_congr_left fun i hi => by simp [Nat.sub_sub_self (Nat.le_of_lt_succ (List.mem_range.1 hi))])

/-! Bytes and sums (R124, R128, R129). -/

theorem bswzByte_eq (a b c : W32) (i : Nat) : bswzByte a c (byteOf b i) = swizzled a b c i := by
  have hsel : (byteAt b i).toNat % 8 = ((byteAt b i).extractLsb' 0 3).toNat := by simp [BitVec.extractLsb'_toNat]
  have hfill : (byteAt b i).toNat / 8 % 4 = ((byteAt b i).extractLsb' 3 2).toNat := by
    simp [BitVec.extractLsb'_toNat, Nat.shiftRight_eq_div_pow]
  have hlt : ((byteAt b i).extractLsb' 3 2).toNat < 4 := ((byteAt b i).extractLsb' 3 2).isLt
  simp only [bswzByte, swizzled, show byteOf = byteAt from rfl, hsel, hfill, BitVec.msb_eq_getLsbD_last]
  generalize ((byteAt b i).extractLsb' 3 2).toNat = fill at hlt
  interval_cases fill <;> rfl

theorem bswz_eq (a b c : W32) :
    bswz a b c = swizzled a b c 3 ++ swizzled a b c 2 ++ swizzled a b c 1 ++ swizzled a b c 0 := by
  simp only [bswz, wordOf, bswzByte_eq]

theorem sum_four {α : Type} [AddMonoid α] (f : Nat → α) :
    ((List.range 4).map f).foldl (· + ·) 0 = f 0 + f 1 + f 2 + f 3 := by
  simp [List.range_succ]

theorem idot4S_eq (sat : Bool) (a b c : W32) : idot4S sat a b c =
    let p (i : Nat) : Int := (byteAt a i).toInt * (byteAt b i).toInt
    let t := c.toInt + (p 0 + p 1 + p 2 + p 3)
    if sat then sat32 t else BitVec.ofInt 32 t := by
  simp only [idot4S, sum_four, show byteOf = byteAt from rfl]
  cases sat
  · rfl
  · exact ofInt_clampInt _

theorem idot4Z_eq (sat : Bool) (a b c : W32) : idot4Z sat a b c =
    let p (i : Nat) : Nat := (byteAt a i).toNat * (byteAt b i).toNat
    let t := c.toNat + (p 0 + p 1 + p 2 + p 3)
    BitVec.ofNat 32 (if sat = true ∧ 2 ^ 32 ≤ t then 2 ^ 32 - 1 else t) := by
  simp only [idot4Z, sum_four, show byteOf = byteAt from rfl]
  congr 1
  cases sat
  · simp
  · simp only [if_true, true_and]
    split_ifs <;> omega

theorem sad_eq (a b c : W32) : sad a b c =
    let p (i : Nat) : Nat := ((byteAt a i).toNat - (byteAt b i).toNat : Int).natAbs
    BitVec.ofNat 32 (c.toNat + (p 0 + p 1 + p 2 + p 3)) := by
  have hdist : ∀ x y : Nat, max x y - min x y = ((x : Int) - y).natAbs := fun x y => by omega
  simp only [sad, sum_four, show byteOf = byteAt from rfl, hdist]

theorem lea_eq (zx : Bool) (sh : Nat) (a : W64) (b : W32) : lea zx sh a b =
    a + (if zx then b.zeroExtend 64 else b.signExtend 64) * BitVec.ofNat 64 (2 ^ sh) := by
  rw [lea]
  congr 1
  apply BitVec.eq_of_toNat_eq
  rw [BitVec.toNat_shiftLeft, BitVec.toNat_mul, BitVec.toNat_ofNat, Nat.shiftLeft_eq, Nat.mul_mod_mod]

/-- Settles O4: the arithmetic of each word gives the bits and bytes its rule names. -/
theorem bitFieldsAndBytes : Obligations.BitFieldsAndBytes := by
  refine ⟨opB32_of bfxS_eq fun _ _ _ _ _ => rfl, opB32_of bfxZ_eq fun _ _ _ _ _ => rfl,
    tri32_of bfi_eq fun _ _ _ _ _ _ => rfl, fun h d b => ?bmsk, un32_of (g := popc) (fun _ => rfl) fun _ _ _ _ => rfl,
    un32_of clz_eq fun _ _ _ _ => rfl, un32_of brev_eq fun _ _ _ _ => rfl, tri32_of bswz_eq fun _ _ _ _ _ _ => rfl,
    fun sat => tri32_of (idot4S_eq sat) fun _ _ _ _ _ _ => rfl, fun sat => tri32_of (idot4Z_eq sat) fun _ _ _ _ _ _ => rfl,
    tri32_of sad_eq fun _ _ _ _ _ _ => rfl, fun h sh zx d a b => ?lea⟩
  case bmsk =>
    exact writes_alu (g := 0) (dst := [(d, 1)]) (ws := fun s u p => wr32 d (bmsk (s.b32 u b)) p) (fun _ => rfl) cls_any
      fun s u => by rw [bmsk_eq]; rfl
  case lea =>
    exact writes_alu (g := 0) (dst := [(d, 2)]) (ws := fun s u p => wr64 d (lea zx sh.val (s.r64 u a) (s.b32 u b)) p)
      (fun _ => rfl) cls_any fun s u => by rw [lea_eq]; rfl

end Sys2Proof.Machine
end
section
/-!
SUPPORT. The floating-point words of group 1 (R131 to R143): one lemma per shape of word; sums and products, whose exact values
the model and the statements round in one way.
-/
namespace Sys2Proof.Machine

-- One theorem at a time: elaborating them side by side costs a thread stack each, and the text compiles under a memory limit.
set_option Elab.async false

/-! Shapes of words. -/

theorem fbin32_of {el g : FMods → Nat → Nat → Nat} {i : Head → FMods → Reg → Reg → OpB → Instr}
    (hfg : ∀ m x y, g m x y = el m x y) (he : ∀ h m d a b s, exec (i h m d a b) s = f32bin h d a b (g m) s) : FBin32 el i :=
  fun h m d a b => writes_alu (dst := [(d, 1)]) (he h m d a b) cls_vec fun s u => by simp only [hfg, res32]

theorem fbin64_of {el g : FMods → Nat → Nat → Nat} {i : Head → FMods → Reg → Reg → OpB → Instr}
    (hfg : ∀ m x y, g m x y = el m x y) (he : ∀ h m d a b s, exec (i h m d a b) s = f64bin h d a b (g m) s) : FBin64 el i :=
  fun h m d a b => writes_alu (dst := [(d, 2)]) (he h m d a b) cls_vec fun s u => by simp only [hfg, res64]

theorem ftri32_of {el g : FMods → Nat → Nat → Nat → Nat} {i : Head → FMods → Reg → Reg → Reg → Reg → Instr}
    (hfg : ∀ m x y z, g m x y z = el m x y z) (he : ∀ h m d a b c s, exec (i h m d a b c) s = f32tri h d a b c (g m) s) :
    FTri32 el i :=
  fun h m d a b c => writes_alu (dst := [(d, 1)]) (he h m d a b c) cls_vec fun s u => by simp only [hfg, res32]

theorem ftri64_of {el g : FMods → Nat → Nat → Nat → Nat} {i : Head → FMods → Reg → Reg → Reg → Reg → Instr}
    (hfg : ∀ m x y z, g m x y z = el m x y z) (he : ∀ h m d a b c s, exec (i h m d a b c) s = f64tri h d a b c (g m) s) :
    FTri64 el i :=
  fun h m d a b c => writes_alu (dst := [(d, 2)]) (he h m d a b c) cls_vec fun s u => by simp only [hfg, res64]

/-- R84: two halves joined as numbers are the halves side by side. -/
theorem ofNat_halves (lo hi : Nat) :
    BitVec.ofNat 32 (lo % 65536 + hi % 65536 * 65536) = BitVec.ofNat 16 hi ++ BitVec.ofNat 16 lo := by
  apply BitVec.eq_of_toNat_eq
  rw [BitVec.toNat_append, ← Nat.shiftLeft_add_eq_or_of_lt (BitVec.ofNat 16 lo).isLt, Nat.shiftLeft_eq, BitVec.toNat_ofNat,
    BitVec.toNat_ofNat, BitVec.toNat_ofNat]
  omega

theorem packed2_eq_halves (el : Nat → Nat → Nat → Nat) (a b c : W32) : packed2 el a b c = halves el a b c :=
  ofNat_halves _ _

theorem fpair_of {el : FMods → Nat → Nat → Nat} {i : Head → FMods → Reg → Reg → OpB → Instr}
    (he : ∀ h m d a b s, exec (i h m d a b) s = fpair h d a b (fun x y _ => el m x y) s) : FPair el i :=
  fun h m d a b => writes_alu (dst := [(d, 1)]) (he h m d a b) cls_vec fun s u => by simp only [packed2_eq_halves, res32]

theorem fpair3_of {el : FMods → Nat → Nat → Nat → Nat} {i : Head → FMods → Reg → Reg → Reg → Reg → Instr}
    (he : ∀ h m d a b c s, exec (i h m d a b c) s = fpair3 h d a b c (el m) s) : FPair3 el i :=
  fun h m d a b c => writes_alu (dst := [(d, 1)]) (he h m d a b c) cls_vec fun s u => by simp only [packed2_eq_halves, res32]

theorem f32to32_of {f g : Nat → Nat} {i : Head → Reg → Reg → Instr} (hfg : ∀ x, g x = f x)
    (he : ∀ h d a s, exec (i h d a) s = fun1 h d a 1 1 g s) : F32to32 f i :=
  fun h d a => writes_alu (dst := [(d, 1)]) (he h d a) cls_vec fun s u => by simp [hfg, res32]

theorem f64to64_of {f g : Nat → Nat} {i : Head → Reg → Reg → Instr} (hfg : ∀ x, g x = f x)
    (he : ∀ h d a s, exec (i h d a) s = fun1 h d a 2 2 g s) : F64to64 f i :=
  fun h d a => writes_alu (dst := [(d, 2)]) (he h d a) cls_vec fun s u => by simp [hfg, res64]

theorem f64to32_of {f g : Nat → Nat} {i : Head → Reg → Reg → Instr} (hfg : ∀ x, g x = f x)
    (he : ∀ h d a s, exec (i h d a) s = fun1 h d a 1 2 g s) : F64to32 f i :=
  fun h d a => writes_alu (dst := [(d, 1)]) (he h d a) cls_vec fun s u => by simp [hfg, res32]

theorem f32to64_of {f g : Nat → Nat} {i : Head → Reg → Reg → Instr} (hfg : ∀ x, g x = f x)
    (he : ∀ h d a s, exec (i h d a) s = fun1 h d a 2 1 g s) : F32to64 f i :=
  fun h d a => writes_alu (dst := [(d, 2)]) (he h d a) cls_vec fun s u => by simp [hfg, res64]

/-! Sums and products (R132, R133, R140 to R142): the model's `fin` is the statements' `rounds`. -/

theorem ffmaw_writes (h : Head) (m : FMods) (d a b c : Reg) :
    Writes (.ffmaw h m d a b c) h vecCls [(d, 2), (a, 1), (b, 1), (c, 2)]
      (res64 d [(a, 1), (b, 1), (c, 2)] fun s u => BitVec.ofNat 64 (rounds .f64 m (FVal.add m.rnd
        (FVal.mul (vA .f32 m (s.r32 u a).toNat) (vB .f32 m (s.r32 u b).toNat)) (vC .f64 m (s.r64 u c).toNat)))) :=
  writes_alu (g := 1) (dst := [(d, 2)]) (src := [(a, 1), (b, 1), (c, 2)])
    (ws := fun s u p => wr64 d (BitVec.ofNat 64 (rounds .f64 m (FVal.add m.rnd
        (FVal.mul (vA .f32 m (s.r32 u a).toNat) (vB .f32 m (s.r32 u b).toNat)) (vC .f64 m (s.r64 u c).toNat)))) p)
    (fun _ => rfl) cls_vec fun _ _ => rfl

theorem fdot2_writes (h : Head) (m : FMods) (d a b c : Reg) :
    Writes (.fdot2Bf16 h m d a b c) h vecCls [(d, 1), (a, 1), (b, 1), (c, 1)]
      (res32 d [(a, 1), (b, 1), (c, 1)] fun s u =>
        let x := (s.r32 u a).toNat
        let y := (s.r32 u b).toNat
        BitVec.ofNat 32 (rounds .f32 m (FVal.sum m.rnd [FVal.mul (vA .bf16 m (x % 65536)) (vB .bf16 m (y % 65536)),
          FVal.mul (vA .bf16 m (x / 65536 % 65536)) (vB .bf16 m (y / 65536 % 65536)), vC .f32 m (s.r32 u c).toNat]))) :=
  writes_alu (g := 1) (dst := [(d, 1)]) (src := [(a, 1), (b, 1), (c, 1)])
    (ws := fun s u p =>
      let x := (s.r32 u a).toNat
      let y := (s.r32 u b).toNat
      wr32 d (BitVec.ofNat 32 (rounds .f32 m (FVal.sum m.rnd [FVal.mul (vA .bf16 m (x % 65536)) (vB .bf16 m (y % 65536)),
          FVal.mul (vA .bf16 m (x / 65536 % 65536)) (vB .bf16 m (y / 65536 % 65536)), vC .f32 m (s.r32 u c).toNat]))) p)
    (fun _ => rfl) cls_vec fun _ _ => rfl

theorem ftsum_writes (h : Head) (m : FMods) (d a b : Reg) :
    Writes (.ftsumF64 h m d a b) h vecCls [(d, 4), (a, 2), (b, 2)] fun s u =>
      let r := ftsum m (s.r64 u a).toNat (s.r64 u b).toNat
      let p := s.isPoisoned u [(a, 2), (b, 2)]
      wr64 d (BitVec.ofNat 64 r.1) p ++ wr64 (d.plus 2) (BitVec.ofNat 64 r.2) p :=
  writes_alu (g := 1) (dst := [(d, 4)]) (src := [(a, 2), (b, 2)])
    (ws := fun s u p =>
      let r := ftsum m (s.r64 u a).toNat (s.r64 u b).toNat
      wr64 d (BitVec.ofNat 64 r.1) p ++ wr64 (d.plus 2) (BitVec.ofNat 64 r.2) p)
    (fun _ => rfl) cls_vec fun _ _ => rfl

theorem crel_writes (h : Head) (sat ftz : Bool) (d a b : Reg) :
    Writes (.crelF32 h sat ftz d a b) h vecCls [(d, 1), (a, 2), (b, 2)]
      (res32 d [(a, 2), (b, 2)] fun s u =>
        let r := FFmt.f32.round .rne ftz (FVal.sub .rne (FFmt.f64.decode (FFmt.f64.operand ftz false false (s.r64 u a).toNat))
          (FFmt.f64.decode (FFmt.f64.operand ftz false false (s.r64 u b).toNat)))
        BitVec.ofNat 32 (if sat then FFmt.f32.sat01 r else r)) :=
  writes_alu (g := 1) (dst := [(d, 1)]) (src := [(a, 2), (b, 2)])
    (ws := fun s u p =>
      let r := FFmt.f32.round .rne ftz (FVal.sub .rne (FFmt.f64.decode (FFmt.f64.operand ftz false false (s.r64 u a).toNat))
          (FFmt.f64.decode (FFmt.f64.operand ftz false false (s.r64 u b).toNat)))
      wr32 d (BitVec.ofNat 32 (if sat then FFmt.f32.sat01 r else r)) p)
    (fun _ => rfl) cls_vec fun _ _ => rfl

/-- Settles O8: each word is of one of the shapes of floating-point words, and rounds its exact value once. -/
theorem floatArithmetic : Obligations.FloatArithmetic := by
  refine ⟨?fadd32, ?fadd64, ?fadd16, ?faddB16, ?fmul32, ?fmul64, ?fmul16, ?fmulB16, ?ffma32, ?ffma64, ?ffma16, ?ffmaB16,
    ffmaw_writes, fdot2_writes, ftsum_writes, crel_writes⟩
  case fadd32 | fmul32 => exact fbin32_of (fun _ _ _ => rfl) fun _ _ _ _ _ _ => rfl
  case fadd64 | fmul64 => exact fbin64_of (fun _ _ _ => rfl) fun _ _ _ _ _ _ => rfl
  case fadd16 | faddB16 | fmul16 | fmulB16 => exact fpair_of fun _ _ _ _ _ _ => rfl
  case ffma32 => exact ftri32_of (fun _ _ _ _ => rfl) fun _ _ _ _ _ _ _ => rfl
  case ffma64 => exact ftri64_of (fun _ _ _ _ => rfl) fun _ _ _ _ _ _ _ => rfl
  case ffma16 | ffmaB16 => exact fpair3_of fun _ _ _ _ _ _ _ => rfl

end Sys2Proof.Machine
end
section
/-!
SUPPORT. Order of floating-point values (R135 to R137): the model compares scaled integers, the statements compare rationals.
-/
namespace Sys2Proof.Machine

-- One theorem at a time: elaborating them side by side costs a thread stack each, and the text compiles under a memory limit.
set_option Elab.async false

/-! The order of values. -/

theorem worth_fin (n : Bool) (m : Nat) (e : Int) :
    worth (.fin n m e) = (if n then -1 else 1) * (m : Rat) * (2 : Rat) ^ e := by
  have habs : (if 0 ≤ e then (m : Rat) * 2 ^ e.toNat else m / 2 ^ (-e).toNat) = m * (2 : Rat) ^ e := by
    split
    · rename_i h
      rw [← zpow_natCast, Int.toNat_of_nonneg h]
    · rename_i h
      rw [div_eq_mul_inv, ← zpow_natCast, ← zpow_neg, Int.toNat_of_nonneg (by omega), neg_neg]
  simp only [worth, habs]
  cases n <;> simp

/-- A value without an infinity is its scaled integer times the unit. -/
theorem worth_eq_scaled {v : FVal} {e0 : Int} (h : ∀ n m e, v = .fin n m e → e0 ≤ e) :
    worth v = (v.scaled e0 : Rat) * (2 : Rat) ^ e0 := by
  cases v with
  | fin n m e =>
    have hle : e0 ≤ e := h n m e rfl
    have hpow : (2 : Rat) ^ e = (2 : Rat) ^ (e - e0).toNat * (2 : Rat) ^ e0 := by
      rw [← zpow_natCast, Int.toNat_of_nonneg (by omega), ← zpow_add₀ (by norm_num), Int.sub_add_cancel]
    rw [worth_fin, hpow]
    cases n <;> simp [FVal.scaled, mul_assoc]
  | nan | inf _ | zero _ => simp [worth, FVal.scaled]

theorem minExp_le_left {x y : FVal} {n : Bool} {m : Nat} {e : Int} (h : x = .fin n m e) : FVal.minExp x y ≤ e := by
  subst h; cases y <;> simp [FVal.minExp]

theorem minExp_le_right {x y : FVal} {n : Bool} {m : Nat} {e : Int} (h : y = .fin n m e) : FVal.minExp x y ≤ e := by
  subst h; cases x <;> simp [FVal.minExp]

theorem worth_lt_iff (x y : FVal) :
    worth x < worth y ↔ x.scaled (FVal.minExp x y) < y.scaled (FVal.minExp x y) := by
  rw [worth_eq_scaled fun _ _ _ h => minExp_le_left (y := y) h, worth_eq_scaled fun _ _ _ h => minExp_le_right (x := x) h,
    mul_lt_mul_iff_left₀ (zpow_pos (by norm_num) _), Int.cast_lt]

theorem worth_eq_iff (x y : FVal) :
    worth x = worth y ↔ x.scaled (FVal.minExp x y) = y.scaled (FVal.minExp x y) := by
  rw [worth_eq_scaled fun _ _ _ h => minExp_le_left (y := y) h, worth_eq_scaled fun _ _ _ h => minExp_le_right (x := x) h,
    mul_left_inj' (zpow_ne_zero _ (by norm_num)), Int.cast_inj]

theorem lt_eq_below (x y : FVal) : FVal.lt x y = below x y := by
  cases x <;> cases y <;> simp only [FVal.lt, below, worth_lt_iff]

/-- Two values are equal when neither is below the other. -/
theorem eq_eq_below (x y : FVal) : FVal.eq x y = (!below x y && !below y x) := by
  have hrat : ∀ p q : Rat, decide (p = q) = (!decide (p < q) && !decide (q < p)) := fun p q => by
    obtain h | h | h := lt_trichotomy p q
    · simp [h, h.ne]
    · simp [h]
    · simp [h, h.ne']
  cases x <;> cases y <;> simp only [FVal.eq, below, ← worth_eq_iff, hrat]
  case inf.inf a b => cases a <;> cases b <;> rfl
  all_goals simp

/-! Minimum, maximum and median (R135). -/

theorem minNum_eq_lesser (f : FFmt) (x y : Nat) : f.minNum x y = lesser f x y := by
  simp only [FFmt.minNum, lesser, lt_eq_below]

theorem maxNum_eq_greater (f : FFmt) (x y : Nat) : f.maxNum x y = greater f x y := by
  simp only [FFmt.maxNum, greater, lt_eq_below]

theorem fminEl_eq (f : FFmt) (m : FMods) (x y : Nat) : fminEl f m x y =
    lesser f (f.operand m.ftz m.absA m.negA x) (f.operand m.ftz m.absB m.negB y) := minNum_eq_lesser ..

theorem fmaxEl_eq (f : FFmt) (m : FMods) (x y : Nat) : fmaxEl f m x y =
    greater f (f.operand m.ftz m.absA m.negA x) (f.operand m.ftz m.absB m.negB y) := maxNum_eq_greater ..

theorem fmed3El_eq (f : FFmt) (m : FMods) (x y z : Nat) : fmed3El f m x y z =
    greater f (lesser f (f.operand m.ftz m.absA m.negA x) (f.operand m.ftz m.absB m.negB y))
      (lesser f (greater f (f.operand m.ftz m.absA m.negA x) (f.operand m.ftz m.absB m.negB y))
        (f.operand m.ftz m.absC m.negC z)) := by
  simp only [fmed3El, minNum_eq_lesser, maxNum_eq_greater, opA, opB, opC]

/-! Comparisons (R136). -/

theorem below_asymm {x y : FVal} (h : below x y = true) : below y x = false := by
  cases x <;> cases y <;> simp_all [below] <;> exact le_of_lt h

theorem holds_eq_truth (c : FCmp) (x y : FVal) : FCmp.holds c x y = truth c x y := by
  cases c <;> simp only [FCmp.holds, truth, lt_eq_below, eq_eq_below]
  case eq => rw [Bool.and_assoc]
  case ne => cases x.isNan || y.isNan <;> cases below x y <;> cases below y x <;> rfl
  case le =>
    cases hxy : below x y <;> cases hyx : below y x <;> simp
    exact absurd hyx (by simp [below_asymm hxy])
  case ge =>
    cases hyx : below y x <;> cases hxy : below x y <;> simp
    exact absurd hxy (by simp [below_asymm hyx])

theorem fcmpEl_eq_truths (f : FFmt) (c : FCmp) (ftz : Bool) (x y : Nat) : fcmpEl f c ftz x y = truths f c ftz x y :=
  holds_eq_truth ..

theorem fcmpF32_writes (h : Head) (c : FCmp) (pd : Fin 8) (ftz : Bool) (d a : Reg) (b : OpB) :
    Writes (.fcmpF32 h c pd ftz d a b) h vecCls ((d, 1) :: (a, 1) :: b.regs 1) fun s u =>
      let r := truths .f32 c ftz (s.r32 u a).toNat (s.bF32 u b).toNat
      let p := s.isPoisoned u ((a, 1) :: b.regs 1)
      wr32 d (if r then 0xFFFFFFFF else 0) p ++ wrP pd.val r p :=
  writes_alu (g := 1) (dst := [(d, 1)]) (ws := fun s u p =>
      let r := fcmpEl .f32 c ftz (s.r32 u a).toNat (s.bF32 u b).toNat
      wr32 d (truthWord r) p ++ wrP pd.val r p)
    (fun _ => rfl) cls_vec fun _ _ => by simp only [fcmpEl_eq_truths]; rfl

theorem fcmpF64_writes (h : Head) (c : FCmp) (pd : Fin 8) (ftz : Bool) (d a : Reg) (b : OpB) :
    Writes (.fcmpF64 h c pd ftz d a b) h vecCls ((d, 1) :: (a, 2) :: b.regs 2) fun s u =>
      let r := truths .f64 c ftz (s.r64 u a).toNat (s.bF64 u b).toNat
      let p := s.isPoisoned u ((a, 2) :: b.regs 2)
      wr32 d (if r then 0xFFFFFFFF else 0) p ++ wrP pd.val r p :=
  writes_alu (g := 1) (dst := [(d, 1)]) (ws := fun s u p =>
      let r := fcmpEl .f64 c ftz (s.r64 u a).toNat (s.bF64 u b).toNat
      wr32 d (truthWord r) p ++ wrP pd.val r p)
    (fun _ => rfl) cls_vec fun _ _ => by simp only [fcmpEl_eq_truths]; rfl

/-- The two truths of a packed comparison, a half each. -/
theorem truthWords (t0 t1 : Bool) : BitVec.ofNat 32 (t0.toNat * 0xFFFF + t1.toNat * 0xFFFF0000) =
    (if t1 then 0xFFFF else 0 : BitVec 16) ++ (if t0 then 0xFFFF else 0 : BitVec 16) := by
  cases t0 <;> cases t1 <;> rfl

theorem fcmpPair_writes {f : FFmt} {i : Head → FCmp → Fin 8 → Fin 8 → Bool → Reg → Reg → OpB → Instr}
    (he : ∀ h c pd pd1 ftz d a b s, exec (i h c pd pd1 ftz d a b) s = fcmpPair h f c pd pd1 ftz d a b s)
    (h : Head) (c : FCmp) (pd pd1 : Fin 8) (ftz : Bool) (d a : Reg) (b : OpB) :
    Writes (i h c pd pd1 ftz d a b) h vecCls ((d, 1) :: (a, 1) :: b.regs 1) fun s u =>
      let t0 := truths f c ftz ((s.r32 u a).toNat % 65536) ((s.bPair u b).toNat % 65536)
      let t1 := truths f c ftz ((s.r32 u a).toNat / 65536) ((s.bPair u b).toNat / 65536)
      let p := s.isPoisoned u ((a, 1) :: b.regs 1)
      wr32 d ((if t1 then 0xFFFF else 0 : BitVec 16) ++ (if t0 then 0xFFFF else 0 : BitVec 16)) p ++ wrP pd.val t0 p ++
        wrP pd1.val t1 p :=
  writes_alu (dst := [(d, 1)]) (he h c pd pd1 ftz d a b) cls_vec fun _ _ => by
    simp only [fcmpEl_eq_truths, truthWords]

/-! Classes (R137). -/

theorem fclassMask_eq (f : FFmt) (x : Nat) : fclassMask f x = 2 ^ classBit f x := by
  unfold fclassMask classBit FFmt.decode FFmt.isSubnormal
  by_cases hmax : f.expField x = f.emax
  · by_cases hfrac : f.frac x = 0 <;> cases f.signBit x <;> simp [hmax, hfrac]
  · by_cases hzero : f.expField x = 0
    · have hmax0 : 0 ≠ f.emax := fun h => hmax (hzero.trans h)
      by_cases hfrac : f.frac x = 0 <;> cases f.signBit x <;> simp [hmax0, hzero, hfrac]
    · cases f.signBit x <;> simp [hmax, hzero]

theorem classBit_lt (f : FFmt) (x : Nat) : classBit f x < 9 := by unfold classBit; split_ifs <;> decide

/-- A class mask meets the mask of classes asked for in its one bit. -/
theorem mask_meets (y : W32) {k : Nat} (hk : k < 9) : (BitVec.ofNat 9 (2 ^ k) &&& y.extractLsb' 0 9 != 0) = y.getLsbD k := by
  have hbit : (y.extractLsb' 0 9).getLsbD k = y.getLsbD k := by simp [hk]
  have hpow : BitVec.ofNat 9 (2 ^ k) = BitVec.twoPow 9 k := by
    apply BitVec.eq_of_toNat_eq; simp
  have hne : BitVec.twoPow 9 k ≠ 0 := fun h => by
    have hone := congrArg (BitVec.getLsbD · k) h
    simp [hk] at hone
  rw [hpow, BitVec.and_comm, BitVec.and_twoPow, hbit]
  cases y.getLsbD k
  · rfl
  · exact bne_iff_ne.2 hne

theorem fclassF32_writes (h : Head) (pd : Fin 8) (d a : Reg) (b : OpB) :
    Writes (.fclassF32 h pd d a b) h vecCls ((d, 1) :: (a, 1) :: b.regs 1) fun s u =>
      let k := classBit .f32 (s.r32 u a).toNat
      let p := s.isPoisoned u ((a, 1) :: b.regs 1)
      wr32 d (BitVec.ofNat 32 (2 ^ k)) p ++ wrP pd.val ((s.b32 u b).getLsbD k) p :=
  writes_alu (g := 1) (dst := [(d, 1)]) (ws := fun s u p =>
      let k := fclassMask .f32 (s.r32 u a).toNat
      wr32 d (BitVec.ofNat 32 k) p ++ wrP pd.val (BitVec.ofNat 9 k &&& (s.b32 u b).extractLsb' 0 9 != 0) p)
    (fun _ => rfl) cls_vec fun _ _ => by simp only [fclassMask_eq, mask_meets _ (classBit_lt _ _)]

theorem fclassF64_writes (h : Head) (pd : Fin 8) (d a : Reg) (b : OpB) :
    Writes (.fclassF64 h pd d a b) h vecCls ((d, 1) :: (a, 2) :: b.regs 1) fun s u =>
      let k := classBit .f64 (s.r64 u a).toNat
      let p := s.isPoisoned u ((a, 2) :: b.regs 1)
      wr32 d (BitVec.ofNat 32 (2 ^ k)) p ++ wrP pd.val ((s.b32 u b).getLsbD k) p :=
  writes_alu (g := 1) (dst := [(d, 1)]) (ws := fun s u p =>
      let k := fclassMask .f64 (s.r64 u a).toNat
      wr32 d (BitVec.ofNat 32 k) p ++ wrP pd.val (BitVec.ofNat 9 k &&& (s.b32 u b).extractLsb' 0 9 != 0) p)
    (fun _ => rfl) cls_vec fun _ _ => by simp only [fclassMask_eq, mask_meets _ (classBit_lt _ _)]

/-- Settles O10: the model's order of scaled integers is the order of the values, and its class masks are one-hot. -/
theorem floatSelectionAndComparison : Obligations.FloatSelectionAndComparison := by
  refine ⟨fbin32_of (fminEl_eq .f32) fun _ _ _ _ _ _ => rfl, fbin64_of (fminEl_eq .f64) fun _ _ _ _ _ _ => rfl,
    fbin32_of (fmaxEl_eq .f32) fun _ _ _ _ _ _ => rfl, fbin64_of (fmaxEl_eq .f64) fun _ _ _ _ _ _ => rfl,
    fun f => ⟨?med32, ?med64⟩, fcmpF32_writes, fcmpF64_writes, ?pairs, fclassF32_writes, fclassF64_writes⟩
  case med32 => rintro rfl; exact ftri32_of (fmed3El_eq .f32) fun _ _ _ _ _ _ _ => rfl
  case med64 => rintro rfl; exact ftri64_of (fmed3El_eq .f64) fun _ _ _ _ _ _ _ => rfl
  case pairs =>
    rintro f i (⟨rfl, rfl⟩ | ⟨rfl, rfl⟩)
    · exact fcmpPair_writes fun _ _ _ _ _ _ _ _ _ => rfl
    · exact fcmpPair_writes fun _ _ _ _ _ _ _ _ _ => rfl

end Sys2Proof.Machine
end
section
/-!
SUPPORT. Conversions (R92 to R94, R138, R143): the model rounds a power-of-two fraction by its quotient and remainder, the
statements round the rational it stands for.
-/
namespace Sys2Proof.Machine

-- One theorem at a time: elaborating them side by side costs a thread stack each, and the text compiles under a memory limit.
set_option Elab.async false

/-! Rounding to whole numbers (R85). -/

theorem ratFloor_eq_iff {q : Rat} {n : Int} : q.floor = n ↔ (n : Rat) ≤ q ∧ q < n + 1 := Int.floor_eq_iff (a := q)

/-- A whole number rounds to itself. -/
theorem toWhole_intCast (rnd : Rnd) (z : Int) : toWhole rnd (z : Rat) = z := by
  have hfloor : ∀ x : Int, (x : Rat).floor = x := fun x => ratFloor_eq_iff.2 ⟨le_refl _, lt_add_one _⟩
  have hneg : (-(z : Rat)).floor = -z := by rw [← Int.cast_neg, hfloor]
  cases rnd <;> simp [toWhole, hfloor, hneg]

/-- The sign of a value. -/
def signOf (n : Bool) : Int := if n then -1 else 1

/-- A fraction of P is rounded by its quotient and its remainder. -/
theorem toWhole_fraction (rnd : Rnd) (n : Bool) (m s : Nat) :
    toWhole rnd (signOf n * ((m : Rat) / 2 ^ s)) =
      signOf n * ((m / 2 ^ s + (roundUp rnd n (m / 2 ^ s) (m % 2 ^ s) s).toNat : Nat) : Int) := by
  have hdm := Nat.div_add_mod m (2 ^ s)
  have hr := Nat.mod_lt m (Nat.two_pow_pos s)
  have hP : (0 : Rat) < 2 ^ s := by positivity
  obtain ⟨x, hx⟩ : ∃ x, x = (m : Rat) / 2 ^ s := ⟨_, rfl⟩
  obtain ⟨y, hy⟩ : ∃ y, y = ((m % 2 ^ s : Nat) : Rat) / 2 ^ s := ⟨_, rfl⟩
  have hxy : x = (m / 2 ^ s : Nat) + y := by
    rw [hx, hy, eq_comm, ← mul_right_inj' hP.ne', mul_add, mul_div_cancel₀ _ hP.ne', mul_div_cancel₀ _ hP.ne']
    exact_mod_cast hdm
  have hy1 : y < 1 := by rw [hy, div_lt_one hP]; exact_mod_cast hr
  have hhalf : y < 1 / 2 ↔ 2 * (m % 2 ^ s) < 2 ^ s := by
    rw [hy, div_lt_div_iff₀ hP (by norm_num), one_mul, mul_comm]; exact_mod_cast Iff.rfl
  have hhalf' : 1 / 2 < y ↔ 2 ^ s < 2 * (m % 2 ^ s) := by
    rw [hy, div_lt_div_iff₀ (by norm_num) hP, one_mul, mul_comm (_ : Rat) 2]; exact_mod_cast Iff.rfl
  have hy0 : y = 0 ↔ m % 2 ^ s = 0 := by rw [hy, div_eq_zero_iff]; simp [hP.ne']
  have hnn : 0 ≤ y := by rw [hy]; positivity
  rw [← hx]
  unfold roundUp
  generalize m / 2 ^ s = d at hxy ⊢
  generalize m % 2 ^ s = r at hr hhalf hhalf' hy0 ⊢
  generalize (2 : Nat) ^ s = P at hr hhalf hhalf' ⊢
  have hfloor : x.floor = (d : Int) := ratFloor_eq_iff.2 ⟨by push_cast; linarith, by push_cast; linarith⟩
  have hfloorNeg : (-x).floor = -(d : Int) - if r = 0 then 0 else 1 := by
    split
    · rename_i h0
      have h0 := hy0.2 h0
      exact ratFloor_eq_iff.2 ⟨by push_cast; linarith, by push_cast; linarith⟩
    · rename_i h0
      have h0 : 0 < y := lt_of_le_of_ne hnn fun h => h0 (hy0.1 h.symm)
      exact ratFloor_eq_iff.2 ⟨by push_cast; linarith, by push_cast; linarith⟩
  have hx0 : 0 ≤ x := by rw [hxy]; positivity
  cases n
  case false =>
    have hsign : ((signOf false : Int) : Rat) * x = x := by simp [signOf]
    have hnot : ¬ x < 0 := not_lt.2 hx0
    rw [hsign]
    cases rnd
    case rtz => simp [toWhole, hnot, hfloor, signOf]
    case rdn => simp [toWhole, hfloor, signOf]
    case rup =>
      by_cases h0 : r = 0
      · simp [toWhole, hfloorNeg, h0, signOf]
      · simp [toWhole, hfloorNeg, h0, bne_iff_ne.2 h0, signOf]; omega
    case rne =>
      have hsub : x - ((d : Int) : Rat) = y := by rw [hxy]; push_cast; ring
      simp only [toWhole, hfloor, hsub, hhalf, hhalf', signOf]
      by_cases hlo : 2 * r < P
      · simp [hlo, show ¬ P < 2 * r by omega, show ¬ 2 * r = P by omega]
      · by_cases hhi : P < 2 * r
        · simp [hlo, hhi]
        · have htie : 2 * r = P := by omega
          obtain hd | hd := Nat.mod_two_eq_zero_or_one d
          · simp [htie, hd, show (d : Int) % 2 = 0 by omega]
          · simp [htie, hd, show (d : Int) % 2 = 1 by omega]
  case true =>
    have hsign : ((signOf true : Int) : Rat) * x = -x := by simp [signOf]
    rw [hsign]
    cases rnd
    case rtz =>
      by_cases h0 : x = 0
      · have hzero : (d : Int) = 0 := by rw [← hfloor, h0]; rfl
        have hfloor0 : (0 : Rat).floor = 0 := by rw [← h0, hfloor, hzero]
        simp [toWhole, h0, hfloor0, hzero, signOf]
      · have hpos : 0 < x := lt_of_le_of_ne hx0 (Ne.symm h0)
        simp [toWhole, hpos, hfloor, signOf]
    case rup => simp [toWhole, hfloor, signOf]
    case rdn =>
      by_cases h0 : r = 0
      · simp [toWhole, hfloorNeg, h0, signOf]
      · simp [toWhole, hfloorNeg, h0, bne_iff_ne.2 h0, signOf]; omega
    case rne =>
      by_cases h0 : r = 0
      · have hP : 0 < P := by omega
        have hy : y = 0 := hy0.2 h0
        have hsub : -x - ((-(d : Int) : Int) : Rat) = 0 := by rw [hxy, hy]; push_cast; ring
        simp only [h0, if_true, sub_zero] at hfloorNeg
        simp only [toWhole, hfloorNeg, hsub, h0, signOf]
        simp [hP.ne]
      · have hsub : -x - ((-(d : Int) - 1 : Int) : Rat) = 1 - y := by rw [hxy]; push_cast; ring
        have hlt : 1 - y < 1 / 2 ↔ P < 2 * r := by rw [← hhalf']; constructor <;> intro h <;> linarith
        have hgt : 1 / 2 < 1 - y ↔ 2 * r < P := by rw [← hhalf]; constructor <;> intro h <;> linarith
        simp only [h0, if_false] at hfloorNeg
        simp only [toWhole, hfloorNeg, hsub, hlt, hgt, signOf]
        by_cases hlo : 2 * r < P
        · simp [hlo, show ¬ P < 2 * r by omega, show ¬ 2 * r = P by omega]
        · by_cases hhi : P < 2 * r
          · simp [hhi]; omega
          · have htie : 2 * r = P := by omega
            obtain hd | hd := Nat.mod_two_eq_zero_or_one d
            · simp [htie, hd, show ¬ (-(d : Int) - 1) % 2 = 0 by omega]
            · simp [htie, hd, show (-(d : Int) - 1) % 2 = 0 by omega]; omega

/-- A value below a quarter rounds as its sign alone says. -/
theorem roundUp_tiny (rnd : Rnd) (n : Bool) {m s : Nat} (hm : m ≠ 0) (hs : 4 * m < 2 ^ s) :
    roundUp rnd n 0 1 2 = roundUp rnd n (m / 2 ^ s) (m % 2 ^ s) s := by
  have hlt : m < 2 ^ s := by omega
  rw [Nat.div_eq_of_lt hlt, Nat.mod_eq_of_lt hlt]
  cases rnd <;> simp [roundUp, hm]
  omega

theorem roundAt_quarter (rnd : Rnd) (n : Bool) : roundAt rnd n 1 (-2) 0 = (roundUp rnd n 0 1 2).toNat := by
  simp [roundAt]

theorem fraction_eq (m : Nat) {e : Int} (he : e < 0) : (m : Rat) * 2 ^ e = m / 2 ^ (-e).toNat := by
  rw [div_eq_mul_inv, ← zpow_natCast, ← zpow_neg, Int.toNat_of_nonneg (by omega), neg_neg]

/-- R93: the model's rounding of a finite value is that of the rational it stands for. -/
theorem toIntRound_eq (rnd : Rnd) (n : Bool) {m : Nat} (e : Int) (hm : m ≠ 0) :
    FVal.toIntRound rnd (.fin n m e) = toWhole rnd (worth (.fin n m e)) := by
  have hsign : ∀ y : Nat, (if n then -(y : Int) else y) = signOf n * y := fun y => by cases n <;> simp [signOf]
  have hworth : worth (.fin n m e) = signOf n * ((m : Rat) * 2 ^ e) := by
    rw [worth_fin]; cases n <;> simp [signOf]
  rw [hworth, FVal.toIntRound, hsign]
  by_cases he : 0 ≤ e
  · have hnot : ¬ (Nat.log2 m : Int) + e < -2 := by omega
    have hint : (signOf n : Rat) * ((m : Rat) * 2 ^ e) = ((signOf n * (m * 2 ^ e.toNat : Nat) : Int) : Rat) := by
      push_cast
      rw [← zpow_natCast (2 : Rat), Int.toNat_of_nonneg he]
    simp only [hnot, decide_false, Bool.false_eq_true, if_false, roundAt, if_pos he, sub_zero, hint, toWhole_intCast]
  · have he : e < 0 := by omega
    have hq : ¬ (0 : Int) ≤ e := by omega
    rw [fraction_eq m he, toWhole_fraction]
    by_cases htiny : (Nat.log2 m : Int) + e < -2
    · have hs : 4 * m < 2 ^ (-e).toNat := by
        have hlog : m < 2 ^ (Nat.log2 m + 1) := Nat.lt_log2_self
        have hexp : 2 ^ (Nat.log2 m + 1 + 2) ≤ 2 ^ (-e).toNat := Nat.pow_le_pow_right (by norm_num) (by omega)
        rw [Nat.pow_add] at hexp
        omega
      have hdiv : m / 2 ^ (-e).toNat = 0 := Nat.div_eq_of_lt (by omega)
      rw [← roundUp_tiny rnd n hm hs, hdiv, zero_add]
      simp only [htiny, decide_true, if_true, roundAt_quarter]
    · simp only [htiny, decide_false, Bool.false_eq_true, if_false, roundAt, if_neg hq, zero_sub]

/-! The words. -/

theorem decode_fin_ne_zero {f : FFmt} {x : Nat} {n : Bool} {m : Nat} {e : Int} (h : f.decode x = .fin n m e) : m ≠ 0 := by
  unfold FFmt.decode at h
  dsimp only at h
  split_ifs at h <;> cases h
  · assumption
  · have := Nat.two_pow_pos f.fw; omega

/-- R138: FRND. -/
theorem frnd_eq (f : FFmt) (rnd : Rnd) (x : Nat) : f.frnd rnd x = wholeFloat f rnd x := by
  unfold FFmt.frnd wholeFloat
  cases hx : f.decode x with
  | fin n m e => simp only [toIntRound_eq rnd n e (decode_fin_ne_zero hx)]
  | nan | inf _ | zero _ => rfl

/-- A value that reaches 2^1101 is past every integer type. -/
theorem toWhole_huge (rnd : Rnd) (n : Bool) {m : Nat} {e : Int} (hm : m ≠ 0) (hbig : 1100 < (Nat.log2 m : Int) + e) :
    ∃ y : Nat, 2 ^ 64 ≤ y ∧ toWhole rnd (worth (.fin n m e)) = signOf n * y := by
  have hlog : 2 ^ Nat.log2 m ≤ m := Nat.log2_self_le hm
  rw [← toIntRound_eq rnd n e hm]
  have hnot : ¬ (Nat.log2 m : Int) + e < -2 := by omega
  refine ⟨roundAt rnd n m e 0, ?_, by simp only [FVal.toIntRound, hnot, decide_false]; cases n <;> simp [signOf]⟩
  unfold roundAt
  split
  · rename_i he
    calc 2 ^ 64 ≤ 2 ^ Nat.log2 m * 2 ^ (e - 0).toNat := by
          rw [← Nat.pow_add]; exact Nat.pow_le_pow_right (by norm_num) (by omega)
      _ ≤ _ := Nat.mul_le_mul_right _ hlog
  · rename_i he
    refine Nat.le_add_right_of_le ?_
    rw [Nat.le_div_iff_mul_le (Nat.two_pow_pos _), ← Nat.pow_add]
    exact (Nat.pow_le_pow_right (by norm_num) (by omega)).trans hlog

/-- R93: a number clamped to an interval. -/
theorem clamp_eq (z lo hi : Int) (h : lo ≤ hi) : min (max z lo) hi = if hi < z then hi else if z < lo then lo else z := by
  split_ifs <;> omega

theorem floatToInt_eq {f : FFmt} (m : FMods) {lo hi : Int} (hlo : -2 ^ 64 < lo) (hle : lo ≤ hi) (hhi : hi < 2 ^ 64)
    (hzero : lo ≤ 0) (hzero' : 0 ≤ hi) (x : Nat) : cvtFI f m lo hi x = toInteger f m lo hi x := by
  unfold cvtFI floatToInt toInteger
  cases hx : f.decode (f.operand m.ftz false false x) with
  | nan | inf _ => rfl
  | zero n =>
    have hw : toWhole m.rnd (worth (.zero n)) = 0 := toWhole_intCast m.rnd 0
    simp only [hw, if_neg (not_lt.2 hzero), if_neg (not_lt.2 hzero')]
  | fin n k e =>
    have hk := decode_fin_ne_zero hx
    dsimp only
    split
    · rename_i hbig
      obtain ⟨y, hy, hw⟩ := toWhole_huge m.rnd n hk hbig
      have hy : (2 : Int) ^ 64 ≤ y := by exact_mod_cast hy
      rw [hw]
      generalize (2 : Int) ^ 64 = big at hlo hhi hy
      cases n
      · simp only [signOf, Bool.false_eq_true, if_false, one_mul, if_pos (show hi < (y : Int) by omega)]
      · simp only [signOf, if_true, neg_one_mul, if_neg (show ¬ hi < -(y : Int) by omega),
          if_pos (show -(y : Int) < lo by omega)]
    · rw [toIntRound_eq _ _ _ hk, clamp_eq _ _ _ hle]

theorem cvtFI_toNat {f : FFmt} (m : FMods) (w : Nat) {lo hi : Int} (hlo : -2 ^ 64 < lo) (hzero : lo ≤ 0) (hzero' : 0 ≤ hi)
    (hhi : hi < 2 ^ 64) (x : Nat) :
    (BitVec.ofInt w (cvtFI f m lo hi x)).toNat = (BitVec.ofInt w (toInteger f m lo hi x)).toNat := by
  rw [floatToInt_eq m hlo (hzero.trans hzero') hhi hzero hzero']

theorem fexp_toNat (f : FFmt) (ftz : Bool) (x : Nat) : (f.fexp ftz x).toNat = exponent f ftz x := by
  unfold FFmt.fexp exponent
  cases f.decode (f.operand ftz false false x) <;> rfl

/-- R138: FSCALE scales its operand as the modifiers read it. -/
theorem fscaleEl_eq (f : FFmt) (m : FMods) (x : Nat) (k : W32) :
    fscaleEl f m x k = rounds f m (FVal.scale k.toInt (vA f m x)) := rfl

theorem frndEl_eq (f : FFmt) (m : FMods) (x : Nat) : frndEl f m x = rounded f m x := by
  simp only [frndEl, rounded, satIf, frnd_eq, opA]

/-- R143: two values of FP32 converted to the halves of a word. -/
theorem pack_writes {f : FFmt} {i : Head → FMods → Reg → Reg → Reg → Instr}
    (he : ∀ h m d a b s, exec (i h m d a b) s = aluWord 1 h [(d, 1)] [(a, 1), (b, 1)]
      (fun s u p => wr32 d (BitVec.ofNat 32 (converts .f32 f m (s.r32 u a).toNat +
        converts .f32 f m (s.r32 u b).toNat * 65536)) p) s) (h : Head) (m : FMods) (d a b : Reg) :
    Writes (i h m d a b) h vecCls [(d, 1), (a, 1), (b, 1)] (res32 d [(a, 1), (b, 1)] fun s u =>
      BitVec.ofNat 32 (converts .f32 f m (s.r32 u a).toNat + converts .f32 f m (s.r32 u b).toNat * 65536)) :=
  writes_alu (dst := [(d, 1)]) (he h m d a b) cls_vec fun _ _ => rfl

/-- Settles O11: every conversion rounds the rational its operand stands for, once. -/
theorem floatConversions : Obligations.FloatConversions := by
  refine ⟨?rnd32, ?rnd64, ?scale32, ?scale64, ?exp32, ?exp64, ?f32f64, ?f64f32, ?f32f16, ?f32bf16, ?pack,
    ?s32, ?z32, ?f32s32, ?f32z32, ?s64, ?z64, ?f64s64, ?f64z64, ?s32d, ?f64s32⟩
  case rnd32 => exact fun m => f32to32_of (frndEl_eq .f32 m) fun _ _ _ _ => rfl
  case rnd64 => exact fun m => f64to64_of (frndEl_eq .f64 m) fun _ _ _ _ => rfl
  case scale32 =>
    refine fun h m d a b => writes_alu (g := 1) (dst := [(d, 1)]) (fun _ => rfl) cls_vec fun s u => ?_
    simp only [res32, fscaleEl_eq]
    cases vA .f32 m (s.r32 u a).toNat <;> rfl
  case scale64 =>
    refine fun h m d a b => writes_alu (g := 1) (dst := [(d, 2)]) (fun _ => rfl) cls_vec fun s u => ?_
    simp only [res64, fscaleEl_eq]
    cases vA .f64 m (s.r64 u a).toNat <;> rfl
  case exp32 => exact fun ftz => f32to32_of (fexp_toNat .f32 ftz) fun _ _ _ _ => rfl
  case exp64 => exact fun ftz => f64to32_of (fexp_toNat .f64 ftz) fun _ _ _ _ => rfl
  case f32f64 => exact fun m => f64to32_of (fun _ => rfl) fun _ _ _ _ => rfl
  case f64f32 | f64s32 => exact fun m => f32to64_of (fun _ => rfl) fun _ _ _ _ => rfl
  case f32f16 | f32bf16 => exact fun m hi => f32to32_of (fun _ => rfl) fun _ _ _ _ => rfl
  case f32s32 | f32z32 => exact fun m => f32to32_of (fun _ => rfl) fun _ _ _ _ => rfl
  case f64s64 | f64z64 => exact fun m => f64to64_of (fun _ => rfl) fun _ _ _ _ => rfl
  case pack =>
    rintro f i (⟨rfl, rfl⟩ | ⟨rfl, rfl⟩)
    · exact pack_writes fun _ _ _ _ _ _ => rfl
    · exact pack_writes fun _ _ _ _ _ _ => rfl
  case s32 => exact fun m => f32to32_of (cvtFI_toNat m 32 (by norm_num) (by norm_num) (by norm_num) (by norm_num)) fun _ _ _ _ => rfl
  case z32 => exact fun m => f32to32_of (cvtFI_toNat m 32 (by norm_num) (by norm_num) (by norm_num) (by norm_num)) fun _ _ _ _ => rfl
  case s64 => exact fun m => f64to64_of (cvtFI_toNat m 64 (by norm_num) (by norm_num) (by norm_num) (by norm_num)) fun _ _ _ _ => rfl
  case z64 => exact fun m => f64to64_of (cvtFI_toNat m 64 (by norm_num) (by norm_num) (by norm_num) (by norm_num)) fun _ _ _ _ => rfl
  case s32d => exact fun m => f64to32_of (cvtFI_toNat m 32 (by norm_num) (by norm_num) (by norm_num) (by norm_num)) fun _ _ _ _ => rfl

end Sys2Proof.Machine
end
section
/-!
SUPPORT. Division, roots and functions (R134, R139): the model's quotient and root are the statements', and a power of two is
rounded as it stands.
-/
namespace Sys2Proof.Machine

-- One theorem at a time: elaborating them side by side costs a thread stack each, and the text compiles under a memory limit.
set_option Elab.async false

/-! Quotients and roots (R134). -/

theorem sticky_bit (P : Prop) [Decidable P] (b : Bool) (h : b = decide P) : (!b).toNat = if P then 0 else 1 := by
  subst h; by_cases hP : P <;> simp [hP]

theorem div_eq_quotient (x y : FVal) : FVal.div x y = quotient x y := by
  cases x <;> cases y <;> try rfl
  case fin.fin n m e n' m' e' =>
    simp only [FVal.div, quotient, FVal.sticky, FVal.neg]
    rw [sticky_bit (m * 2 ^ 128 % m' = 0) _ (by simp only [beq_eq_decide])]
    congr 1
    omega

/-- The search keeps a root from below, and finds the last one within its remaining bits. -/
theorem isqrtGo_spec (k : Nat) : ∀ {n r : Nat}, r * r ≤ n → n < (r + 2 ^ (k + 1)) * (r + 2 ^ (k + 1)) →
    isqrtGo k n r * isqrtGo k n r ≤ n ∧ n < (isqrtGo k n r + 1) * (isqrtGo k n r + 1) := by
  induction k with
  | zero =>
    intro n r hlo hhi
    rw [isqrtGo]
    split
    · exact ⟨by assumption, hhi⟩
    · exact ⟨hlo, by omega⟩
  | succ k ih =>
    intro n r hlo hhi
    rw [isqrtGo]
    split
    · refine ih (by assumption) (by rw [add_assoc, ← two_mul, ← pow_succ']; exact hhi)
    · exact ih hlo (by omega)

theorem isqrt_eq_sqrt (n : Nat) : isqrt n = Nat.sqrt n := by
  have hhi : n < (0 + 2 ^ (Nat.log2 n / 2 + 1)) * (0 + 2 ^ (Nat.log2 n / 2 + 1)) := by
    rw [zero_add, ← pow_add]
    exact lt_of_lt_of_le Nat.lt_log2_self (Nat.pow_le_pow_right (by norm_num) (by omega))
  obtain ⟨hlo, hhi⟩ := isqrtGo_spec _ (Nat.zero_le _) hhi
  exact Nat.eq_sqrt.2 ⟨hlo, hhi⟩

theorem sqrt_eq_root (x : FVal) : FVal.sqrt x = root x := by
  cases x <;> try rfl
  case fin n m e =>
    cases n
    case true => rfl
    case false =>
      simp only [FVal.sqrt, root, FVal.sticky, isqrt_eq_sqrt, Bool.false_eq_true, if_false]
      rw [sticky_bit _ _ (beq_eq_decide _ _)]
      simp only [pow_two]

/-! Powers of two (R91): the format rounds none that lies in its range. -/

/-- The magnitude bits of 2^p. -/
def FFmt.powMag (f : FFmt) (p : Int) : Nat :=
  if 1 - (f.bias : Int) ≤ p then ((p + f.bias) * 2 ^ f.fw).toNat else 2 ^ (p + f.bias + f.fw - 1).toNat

theorem roundAt_pow2 (rnd : Rnd) (n : Bool) (j : Nat) {e q : Int} (h : q ≤ j + e) :
    roundAt rnd n (2 ^ j) e q = 2 ^ (j + e - q).toNat := by
  unfold roundAt
  split
  · rw [← pow_add]; congr 1; omega
  · have hdvd : 2 ^ (q - e).toNat ∣ 2 ^ j := pow_dvd_pow _ (by omega)
    have hup : ∀ d s, roundUp rnd n d 0 s = false := by
      intro d s
      have := Nat.two_pow_pos s
      cases rnd <;> simp [roundUp, this.ne]
    simp only [Nat.mod_eq_zero_of_dvd hdvd, hup, Nat.pow_div (show (q - e).toNat ≤ j by omega) (by norm_num : 0 < 2)]
    simp only [Bool.toNat_false, add_zero]
    congr 1
    omega

theorem round_pow2 {f : FFmt} (hf : f.emax = 2 * f.bias + 1) (rnd : Rnd) (n : Bool) (j : Nat) {e : Int}
    (h : 1 - (f.bias : Int) - f.fw ≤ j + e) : f.round rnd false (.fin n (2 ^ j) e) =
      if (j : Int) + e ≤ f.bias then f.signed n (f.powMag (j + e)) else f.overflow rnd n := by
  obtain ⟨p, hp⟩ : ∃ p : Int, p = j + e := ⟨_, rfl⟩
  have hP := Nat.two_pow_pos f.fw
  simp only [FFmt.round, Nat.log2_two_pow, ← hp, Bool.false_and, Bool.false_eq_true, if_false] at h ⊢
  simp only [show ¬ p + f.fw + 3 < 1 - (f.bias : Int) by omega, decide_false, Bool.false_eq_true, if_false]
  rw [roundAt_pow2 rnd n j (by omega), ← hp]
  by_cases hnorm : 1 - (f.bias : Int) ≤ p
  · have hq : max (p - f.fw) (1 - (f.bias : Int) - f.fw) = p - f.fw := by omega
    have hmag : ((p - f.fw + f.fw + f.bias - 1) * 2 ^ f.fw + ((2 ^ (p - (p - f.fw)).toNat : Nat) : Int)).toNat =
        f.powMag p := by
      rw [FFmt.powMag, if_pos hnorm, show (p - (p - (f.fw : Int))).toNat = f.fw by omega]
      push_cast
      congr 1
      ring
    have hle : f.emax * 2 ^ f.fw ≤ f.powMag p ↔ ¬ p ≤ f.bias := by
      rw [FFmt.powMag, if_pos hnorm, hf, show p + f.bias = ((p + f.bias).toNat : Int) by omega]
      rw [show (((p + f.bias).toNat : Int) * 2 ^ f.fw).toNat = (p + f.bias).toNat * 2 ^ f.fw by
        exact_mod_cast Int.toNat_natCast _]
      rw [Nat.mul_le_mul_right_iff hP]
      omega
    rw [hq, hmag]
    by_cases hb : p ≤ f.bias
    · rw [if_neg (fun hx => hle.1 hx hb), if_pos hb]
    · rw [if_pos (hle.2 hb), if_neg hb]
  · have hq : max (p - f.fw) (1 - (f.bias : Int) - f.fw) = 1 - f.bias - f.fw := by omega
    have hmag : ((1 - (f.bias : Int) - f.fw + f.fw + f.bias - 1) * 2 ^ f.fw +
        ((2 ^ (p - (1 - (f.bias : Int) - f.fw)).toNat : Nat) : Int)).toNat = f.powMag p := by
      rw [FFmt.powMag, if_neg hnorm, show (1 - (f.bias : Int) - f.fw + f.fw + f.bias - 1) = 0 by ring, zero_mul, zero_add,
        Int.toNat_natCast]
      congr 2
      ring
    have hlt : f.powMag p < f.emax * 2 ^ f.fw := by
      rw [FFmt.powMag, if_neg hnorm, hf]
      calc 2 ^ (p + f.bias + f.fw - 1).toNat < 2 ^ f.fw := Nat.pow_lt_pow_right (by norm_num) (by omega)
        _ ≤ (2 * f.bias + 1) * 2 ^ f.fw := Nat.le_mul_of_pos_left _ (by omega)
    rw [hq, hmag, if_neg (by omega), if_pos (by omega)]

/-- The range of the finite values of a format (R81, R82). -/
theorem decode_fin_range {f : FFmt} (hf : f.emax = 2 * f.bias + 1) {x : Nat} {n : Bool} {m : Nat} {e : Int}
    (h : f.decode x = .fin n m e) : 1 - (f.bias : Int) - f.fw ≤ e ∧ m < 2 ^ (f.fw + 1) ∧ (Nat.log2 m : Int) + e ≤ f.bias := by
  have hfrac : f.frac x < 2 ^ f.fw := Nat.mod_lt _ (Nat.two_pow_pos _)
  have hexp : f.expField x ≤ f.emax := Nat.le_pred_of_lt (Nat.mod_lt _ (Nat.two_pow_pos _))
  have h2 : 2 ^ (f.fw + 1) = 2 * 2 ^ f.fw := pow_succ' ..
  unfold FFmt.decode at h
  simp only at h
  split_ifs at h with hmax h0 hsub hz
  · cases h
    have : Nat.log2 (f.frac x) < f.fw := (Nat.log2_lt (by assumption)).2 hfrac
    refine ⟨by omega, by omega, by omega⟩
  · cases h
    have : Nat.log2 (2 ^ f.fw + f.frac x) < f.fw + 1 := (Nat.log2_lt (by omega)).2 (by omega)
    refine ⟨by omega, by omega, by omega⟩

theorem overflow_directed {f : FFmt} (hpos : 0 < f.emax * 2 ^ f.fw) (n : Bool) : f.overflow .rdn n ≠ f.overflow .rup n := by
  cases n <;> simp only [FFmt.overflow, FFmt.infBits, FFmt.maxBits, FFmt.signed] <;> omega

theorem round_eq_of_exactOr {f : FFmt} (hf : f.emax = 2 * f.bias + 1) (fn x k : Nat) (n : Bool) (j : Nat) {e : Int}
    (h : 1 - (f.bias : Int) - f.fw ≤ j + e) :
    f.exactOr fn x k (.fin n (2 ^ j) e) = f.round .rne false (.fin n (2 ^ j) e) := by
  have hpos : 0 < f.emax * 2 ^ f.fw := Nat.mul_pos (by omega) (Nat.two_pow_pos _)
  unfold FFmt.exactOr
  simp only [round_pow2 hf _ n j h]
  by_cases hb : (j : Int) + e ≤ f.bias
  · simp only [hb, if_true]
  · simp only [hb, if_false]
    rw [if_neg (overflow_directed hpos n), FFmt.ownResult]
    have hout : ∀ r, f.within k (.fin n (2 ^ j) e) r = false := by
      intro r
      simp only [FFmt.within, Nat.log2_two_pow, hb, decide_false, Bool.false_and]
    simp only [hout, Bool.false_eq_true, if_false, round_pow2 hf _ n j h, hb]

/-- R139: the reciprocal of a power of two. -/
theorem sfn_rcp_pow2 {f : FFmt} (hf : f.emax = 2 * f.bias + 1) (hfw : 1 ≤ f.fw) (hfw' : f.fw < 128) {x : Nat} {n : Bool} {k : Nat} {e : Int}
    (h : f.decode x = .fin n (2 ^ k) e) : f.sfn .rcp x = f.round .rne false (.fin n 1 (-((k : Int) + e))) := by
  obtain ⟨he, hm, hlog⟩ := decode_fin_range hf h
  rw [Nat.log2_two_pow] at hlog
  have hk : k ≤ f.fw := by
    have := (Nat.pow_lt_pow_iff_right (by norm_num : 1 < 2)).1 hm
    omega
  have hdiv : FVal.div (.fin false 1 0) (.fin n (2 ^ k) e) = .fin n (2 ^ (129 - k)) (-e - 129) := by
    have hdvd : 2 ^ k ∣ 2 ^ 128 := pow_dvd_pow _ (by omega)
    rw [div_eq_quotient]
    simp only [quotient, one_mul, Nat.mod_eq_zero_of_dvd hdvd, Nat.pow_div (show k ≤ 128 by omega) (by norm_num : 0 < 2),
      if_true, add_zero, zero_sub, Bool.false_bne, ← pow_succ']
    congr 2
    omega
  have hlow : 1 - (f.bias : Int) - f.fw ≤ (129 - k : Nat) + (-e - 129) := by omega
  have hone : (FVal.fin n 1 (-((k : Int) + e))) = .fin n (2 ^ 0) (-((k : Int) + e)) := rfl
  simp only [FFmt.sfn, h, hdiv]
  rw [round_eq_of_exactOr hf _ _ _ _ _ hlow, hone, round_pow2 hf _ _ _ hlow, round_pow2 hf _ _ _ (by omega)]
  rw [show ((129 - k : Nat) : Int) + (-e - 129) = ((0 : Nat) : Int) + -((k : Int) + e) by omega]

/-- R139: 2^x of a whole number in the format's range. -/
theorem sfn_exp2_whole {f : FFmt} (hf : f.emax = 2 * f.bias + 1) (hsize : f.bias + f.fw < 2 ^ 12) {x : Nat} {n : Bool} {m e : Nat}
    {k : Int} (h : f.decode x = .fin n m (-(e : Int))) (hlo : 1 - (f.bias : Int) - f.fw ≤ k) (hhi : k ≤ f.bias)
    (hk : (if n then -(m : Int) else (m : Int)) = k * 2 ^ e) : f.sfn .exp2 x = f.round .rne false (.fin false 1 k) := by
  have hm0 : m ≠ 0 := decode_fin_ne_zero h
  have hmabs : m = k.natAbs * 2 ^ e := by
    have := congrArg Int.natAbs hk
    rw [Int.natAbs_mul, Int.natAbs_pow] at this
    cases n <;> simpa using this
  have hkabs : k.natAbs < 2 ^ 12 := by omega
  have hlog : Nat.log2 m < 12 + e := (Nat.log2_lt hm0).2 (by
    rw [hmabs, pow_add]; exact (Nat.mul_lt_mul_right (Nat.two_pow_pos e)).2 hkabs)
  have hmod : m % 2 ^ e = 0 := by rw [hmabs]; exact Nat.mul_mod_left ..
  have hdiv : m / 2 ^ e = k.natAbs := by rw [hmabs]; exact Nat.mul_div_cancel _ (Nat.two_pow_pos e)
  have hfixed : fixedOf 0 n m (-(e : Int)) = k := by
    have hmag : (if 0 ≤ -(e : Int) + ((0 : Nat) : Int) then m * 2 ^ (-(e : Int) + ((0 : Nat) : Int)).toNat
        else m / 2 ^ (-(-(e : Int) + ((0 : Nat) : Int))).toNat) = k.natAbs := by
      by_cases he : e = 0
      · subst he; simpa using hdiv
      · rw [if_neg (by omega), show (-(-(e : Int) + ((0 : Nat) : Int))).toNat = e by omega, hdiv]
    have hP : (0 : Int) < 2 ^ e := by positivity
    unfold fixedOf
    simp only [hmag]
    cases n
    · have : 0 ≤ k := nonneg_of_mul_nonneg_left (by rw [← hk]; simp) hP
      simp only [Bool.false_eq_true, if_false]; omega
    · have : k ≤ 0 := nonpos_of_mul_nonpos_left (by rw [← hk]; simp) hP
      simp only [if_true]; omega
  simp only [FFmt.sfn, h]
  rw [if_pos ⟨by omega, Or.inr (by rw [show (-(-(e : Int))).toNat = e by omega]; exact hmod)⟩, hfixed]
  exact round_eq_of_exactOr hf _ _ _ _ 0 (by omega)

theorem sfnFacts_sfn {f : FFmt} (hf : f.emax = 2 * f.bias + 1) (hfw : 1 ≤ f.fw) (hfw' : f.fw < 128) (hsize : f.bias + f.fw < 2 ^ 12) :
    SfnFacts f fun fn x => f.sfn fn x := by
  have hsigned : f.signed false 0 = 0 := by simp [FFmt.signed]
  intro x
  refine ⟨?nan, ?zero, ?inf, ?negative, ?root, ?rcp, ?log, ?exp⟩
  case nan => intro h fn; simp only [FFmt.sfn, h]
  case zero =>
    intro n h
    simp only [FFmt.sfn, h, FVal.sqrt, FFmt.round, and_self]
  case inf =>
    intro n h
    cases n <;> simp [FFmt.sfn, h, FVal.sqrt, FFmt.round]
  case negative =>
    intro m e h
    simp [FFmt.sfn, h, FVal.sqrt, FFmt.round]
  case root =>
    intro m e h
    simp only [FFmt.sfn, h, sqrt_eq_root]
  case rcp => exact fun n k e h => sfn_rcp_pow2 hf hfw hfw' h
  case log =>
    intro k e h
    simp [FFmt.sfn, h, isPow2, FVal.ofInt]
  case exp => exact fun n m e k h hlo hhi hk => sfn_exp2_whole hf hsize h hlo hhi hk

/-! What the words deliver. -/

theorem fdivEl_eq (f : FFmt) (m : FMods) (x y : Nat) : fdivEl f m x y = rounds f m (quotient (vA f m x) (vB f m y)) := by
  simp only [fdivEl, div_eq_quotient]; rfl

theorem fsqrtEl_eq (f : FFmt) (m : FMods) (x : Nat) : fsqrtEl f m x = rounds f m (root (vA f m x)) := by
  simp only [fsqrtEl, sqrt_eq_root]; rfl

theorem sfnEl_eq (f : FFmt) (fn : SfnFn) (ab ng sat ftz : Bool) (x : Nat) :
    sfnEl f fn ab ng sat ftz x = sfnResult f (fun fn x => f.sfn fn x) fn ab ng sat ftz x := rfl

theorem funVar32_of {f g : Nat → Nat} {i : Instr} {h : Head} {d a : Reg} (hfg : ∀ x, g x = f x)
    (he : ∀ s, exec i s = funVar1 h d a 1 g s) :
    Sends i h vecCls [(d, 1), (a, 1)] (res32 d [(a, 1)] fun s u => BitVec.ofNat 32 (f (s.r32 u a).toNat)) :=
  sends_var (dst := [(d, 1)]) he cls_vec fun s u => by simp only [hfg]; rfl

theorem funVar64_of {f g : Nat → Nat} {i : Instr} {h : Head} {d a : Reg} (hfg : ∀ x, g x = f x)
    (he : ∀ s, exec i s = funVar1 h d a 2 g s) :
    Sends i h vecCls [(d, 2), (a, 2)] (res64 d [(a, 2)] fun s u => BitVec.ofNat 64 (f (s.r64 u a).toNat)) :=
  sends_var (dst := [(d, 2)]) he cls_vec fun s u => by simp only [hfg]; rfl

/-- Settles O9: the model's quotient and root are those of R134, and the model's function has the facts of R139. -/
theorem floatDivisionAndFunctions : Obligations.FloatDivisionAndFunctions := by
  refine ⟨?div32, ?div64, ?sqrt32, ?sqrt64, ⟨fun fn x => FFmt.f32.sfn fn x, ?facts32, ?sfn32⟩,
    ⟨fun fn x => FFmt.f64.sfn fn x, ?facts64, ?sfn64⟩⟩
  case div32 =>
    exact fun h m d a b => sends_var (g := 1) (dst := [(d, 1)]) (fun _ => rfl) cls_vec fun s u => by
      simp only [res32, fdivEl_eq]
  case div64 =>
    exact fun h m d a b => sends_var (g := 1) (dst := [(d, 2)]) (fun _ => rfl) cls_vec fun s u => by
      simp only [res64, fdivEl_eq]
  case sqrt32 => exact fun h m d a => funVar32_of (fsqrtEl_eq .f32 m) fun _ => rfl
  case sqrt64 => exact fun h m d a => funVar64_of (fsqrtEl_eq .f64 m) fun _ => rfl
  case facts32 => exact sfnFacts_sfn rfl (by decide) (by decide) (by decide)
  case facts64 => exact sfnFacts_sfn rfl (by decide) (by decide) (by decide)
  case sfn32 =>
    exact fun h fn ab ng sat ftz d a => funVar32_of (sfnEl_eq .f32 fn ab ng sat ftz) fun _ => rfl
  case sfn64 =>
    exact fun h fn ab ng sat ftz d a => funVar64_of (sfnEl_eq .f64 fn ab ng sat ftz) fun _ => rfl

end Sys2Proof.Machine
end
section
/-!
SUPPORT. The fields of an encoded word (R54 to R66): every field is read back as it was written, so that the decoder's entry for
the opcode gives the instruction again.
-/
namespace Sys2Proof

-- One theorem at a time: elaborating them side by side costs a thread stack each, and the text compiles under a memory limit.
set_option Elab.async false

/-! Fields. -/

/-- An instruction's word has 64 bits and is read back. -/
def RoundTrips (i : Instr) : Prop := encode i < 2 ^ 64 ∧ decode (encode i) = .ok i

@[simp] theorem fin8_val (x : Fin 8) : fin8 x.val = x := Fin.ext (Nat.mod_eq_of_lt x.isLt)
@[simp] theorem fin2_val (x : Fin 2) : fin2 x.val = x := Fin.ext (Nat.mod_eq_of_lt x.isLt)
@[simp] theorem fin3_val (x : Fin 3) : fin3 x.val = x := Fin.ext (Nat.mod_eq_of_lt x.isLt)
@[simp] theorem fin4_val (x : Fin 4) : fin4 x.val = x := Fin.ext (Nat.mod_eq_of_lt x.isLt)
@[simp] theorem fin6_val (x : Fin 6) : fin6 x.val = x := Fin.ext (Nat.mod_eq_of_lt x.isLt)
@[simp] theorem fin16_val (x : Fin 16) : fin16 x.val = x := Fin.ext (Nat.mod_eq_of_lt x.isLt)
@[simp] theorem fin512_val (x : Fin 512) : fin512 x.val = x := Fin.ext (Nat.mod_eq_of_lt x.isLt)
@[simp] theorem toNat_beq_one (b : Bool) : (b.toNat == 1) = b := by cases b <;> rfl

@[simp] theorem Rnd.ofCode_code (x : Rnd) : Rnd.ofCode x.code = x := by cases x <;> rfl
@[simp] theorem ICmp.ofCode_code (x : ICmp) : ICmp.ofCode x.code = x := by cases x <;> rfl
@[simp] theorem FCmp.ofCode_code (x : FCmp) : FCmp.ofCode x.code = x := by cases x <;> rfl
@[simp] theorem MovW.ofCode_code (x : MovW) : MovW.ofCode x.code = x := by cases x <;> rfl
@[simp] theorem MoviMode.ofCode_code (x : MoviMode) : MoviMode.ofCode x.code = x := by cases x <;> rfl
@[simp] theorem SpecialReg.ofCode_code (x : SpecialReg) : SpecialReg.ofCode x.code = x := by cases x <;> rfl
@[simp] theorem SfnFn.ofCode_code (x : SfnFn) : SfnFn.ofCode x.code = x := by cases x <;> rfl
@[simp] theorem Scope.ofCode_code (x : Scope) : Scope.ofCode x.code = x := by cases x <;> rfl
@[simp] theorem Ord.ofCode_code (x : Ord) : Ord.ofCode x.code = x := by cases x <;> rfl

theorem Rnd.code_lt (x : Rnd) : x.code < 4 := by cases x <;> decide
theorem ICmp.code_lt (x : ICmp) : x.code < 6 := by cases x <;> decide
theorem FCmp.code_lt (x : FCmp) : x.code < 8 := by cases x <;> decide
theorem MovW.code_lt (x : MovW) : x.code < 3 := by cases x <;> decide
theorem MoviMode.code_lt (x : MoviMode) : x.code < 3 := by cases x <;> decide
theorem SpecialReg.code_lt (x : SpecialReg) : x.code < 13 := by cases x <;> decide
theorem SfnFn.code_lt (x : SfnFn) : x.code < 8 := by cases x <;> decide
theorem Scope.code_lt (x : Scope) : x.code < 6 := by cases x <;> decide
theorem Ord.code_lt (x : Ord) : x.code < 6 := by cases x <;> decide
theorem RedOp.code_lt (x : RedOp) : x.code < 10 := by cases x <;> decide

@[simp] theorem regOf_reg (r : Reg) : regOf (.reg r) = r := rfl

/-! Registers (R62). -/

/-- A field of the kind that holds this number is legal and is read as this register. -/
structure FieldFits (k : Option RK) (n : Nat) (r : Reg) : Prop where
  lt : n < 256
  unused : unusedZero k n = true
  used : usedOk k n = true
  read : Reg.ofCode n = r

theorem FieldFits.none : FieldFits Option.none 0 (.v 0) := ⟨by decide, rfl, rfl, rfl⟩

theorem Reg.ofCode_code {k : RK} {r : Reg} (h : k.ok r) (hk : k.vmax ≤ 223) (hal : 1 ≤ k.al) : Reg.ofCode r.code = r := by
  cases r with
  | v n =>
    obtain ⟨_, _, hn⟩ := h
    have hlt : n < 224 := by omega
    simp only [Reg.code, Reg.ofCode, hlt, if_true]
  | s n =>
    obtain ⟨_, _, hn⟩ := h
    simp only [Reg.code, Reg.ofCode, if_neg (show ¬ n + 224 < 224 by omega), if_pos (show n + 224 < 255 by omega), Nat.add_sub_cancel]
  | z => rfl

theorem Reg.code_lt {k : RK} {r : Reg} (h : k.ok r) (hk : k.vmax ≤ 223) : r.code < 256 := by
  cases r with
  | v n =>
    obtain ⟨_, _, hn⟩ := h
    simp only [Reg.code]; omega
  | s n =>
    obtain ⟨_, _, hn⟩ := h
    simp only [Reg.code]; omega
  | z => decide

theorem RK.okB_of_ok {k : RK} {r : Reg} (h : k.ok r) : k.okB r = true := by
  cases r with
  | v n =>
    obtain ⟨hv, ha, hn⟩ := h
    simp [RK.okB, hv, ha, hn]
  | s n =>
    obtain ⟨hs, ha, hn⟩ := h
    simp [RK.okB, hs, ha, hn]
  | z => exact h

/-- A register kind whose codes the word can hold. -/
def RK.Sound (k : RK) : Prop := k.vmax ≤ 223 ∧ 1 ≤ k.al

theorem RK.codeOkB_code {k : RK} {r : Reg} (h : k.ok r) (hk : k.Sound) : k.codeOkB r.code = true := by
  rw [RK.codeOkB, Reg.ofCode_code h hk.1 hk.2]; exact RK.okB_of_ok h

theorem FieldFits.some {k : RK} {r : Reg} (h : k.ok r) (hk : k.Sound) : FieldFits (some k) r.code r :=
  ⟨Reg.code_lt h hk.1, rfl, RK.codeOkB_code h hk, Reg.ofCode_code h hk.1 hk.2⟩

/-- The fields B and C, or the immediate in their place (R64). -/
def FieldsBC (sp : RSpec) (b : OpB) (c : Nat) (cr : Reg) : Prop :=
  match b with
  | .reg r => FieldFits sp.b r.code r ∧ FieldFits sp.c c cr
  | .imm _ => sp.imm = true ∧ cr = .z

/-! Words. -/

/-- A word's opcode entry (R67 to R76). -/
noncomputable def decodeAt (op w : Nat) : Except DecodeErr Instr :=
  if op < 0x40 then decodeInt op w
  else if op < 0x80 then decodeFloat op w
  else if op < 0xC0 then decodeCrew op w
  else if op < 0x100 then decodeSync op w
  else if op < 0x140 then decodeMem op w
  else if op < 0x180 then decodeEngine op w
  else if op < 0x1C0 then decodeGfx op w
  else decodeSys op w

theorem decode_eq_decodeAt {w op : Nat} (hop : bits w 55 9 = op) (hdc : bits w 48 3 < 7) (hall : allocated op = true) :
    decode w = decodeAt op w := by
  subst hop
  unfold decode
  simp only [hall, show ¬ bits w 48 3 = 7 by omega, Bool.true_eq_false, if_false]
  rfl

theorem encX_lt {op rest : Nat} (h : Head) (hop : op < 512) (hrest : rest < 2 ^ 48) : encX op h rest < 2 ^ 64 := by
  have hneg := Bool.toNat_lt h.neg
  unfold encX encHead
  omega

theorem bits_encX_op {op rest : Nat} (h : Head) (hop : op < 512) (hrest : rest < 2 ^ 48) : bits (encX op h rest) 55 9 = op := by
  have hneg := Bool.toNat_lt h.neg
  unfold bits encX encHead
  omega

theorem bits_encX_dc {op rest : Nat} (h : Head) (hrest : rest < 2 ^ 48) : bits (encX op h rest) 48 3 = h.dc.val := by
  unfold bits encX encHead
  omega

theorem head_encX {op rest : Nat} (h : Head) (hrest : rest < 2 ^ 48) : Head.ofWord (encX op h rest) = h := by
  have hneg := Bool.toNat_lt h.neg
  have h54 : bits (encX op h rest) 54 1 = h.neg.toNat := by unfold bits encX encHead; omega
  have h51 : bits (encX op h rest) 51 3 = h.idx.val := by unfold bits encX encHead; omega
  have hdc : fin7 h.dc.val = h.dc := Fin.ext (Nat.mod_eq_of_lt h.dc.isLt)
  simp only [Head.ofWord, h54, h51, bits_encX_dc h hrest, fin8_val, toNat_beq_one, hdc]

theorem encX_mod {op rest : Nat} (h : Head) (hrest : rest < 2 ^ 48) : encX op h rest % 2 ^ 48 = rest := by
  unfold encX encHead
  omega

theorem roundTrips_encX {i : Instr} {op rest : Nat} {h : Head} (henc : encode i = encX op h rest) (hop : op < 512)
    (hall : allocated op = true) (hrest : rest < 2 ^ 48)
    (hdec : ∀ w, w % 2 ^ 48 = rest → Head.ofWord w = h → decodeAt op w = .ok i) : RoundTrips i := by
  unfold RoundTrips
  rw [henc, decode_eq_decodeAt (bits_encX_op h hop hrest) (by rw [bits_encX_dc h hrest]; exact h.dc.isLt) hall]
  exact ⟨encX_lt h hop hrest, hdec _ (encX_mod h hrest) (head_encX h hrest)⟩

/-- The part of a format R word below its head (R55). -/
def restR (d a : Nat) (b : OpB) (c md : Nat) : Nat :=
  d * 1099511627776 + a * 4294967296 +
    (match b with
     | .reg r => r.code * 16777216 + c * 65536 + md
     | .imm i => i.toNat * 65536 + md + 32768)

theorem encR_eq (op : Nat) (h : Head) (d a : Nat) (b : OpB) (c md : Nat) : encR op h d a b c md = encX op h (restR d a b c md) := by
  cases b <;> simp only [encR, encX, restR, Nat.add_assoc]

theorem decX_eq {α : Type} {w : Nat} {zero code regs : Bool} {k : Head → α} {h : Head} (hh : Head.ofWord w = h)
    (hzero : zero = true) (hcode : code = true) (hregs : regs = true) : decX w zero code regs k = .ok (k h) := by
  subst hzero hcode hregs hh; rfl

theorem decR_eq {α : Type} {w : Nat} {sp : RSpec} {used : Nat} {code : Bool} {k : Head → Reg → Reg → OpB → Reg → α}
    {h : Head} {d a c md : Nat} {b : OpB} {dr ar cr : Reg} (hw : w % 2 ^ 48 = restR d a b c md) (hh : Head.ofWord w = h)
    (hd : FieldFits sp.d d dr) (ha : FieldFits sp.a a ar) (hb : FieldsBC sp b c cr) (hmd : md < 2 ^ 15) (hused : used = md)
    (hcode : code = true) : decR w sp used code k = .ok (k h dr ar b cr) := by
  obtain ⟨hdlt, hdun, hdus, rfl⟩ := hd
  obtain ⟨halt, haun, haus, rfl⟩ := ha
  subst hused hcode hh
  cases b with
  | reg r =>
    obtain ⟨⟨hblt, hbun, hbus, hbr⟩, ⟨hclt, hcun, hcus, rfl⟩⟩ := hb
    simp only [restR] at hw
    have himm : bits w 15 1 = 0 := by unfold bits; omega
    have h0 : bits w 0 15 = used := by unfold bits; omega
    have h40 : bits w 40 8 = d := by unfold bits; omega
    have h32 : bits w 32 8 = a := by unfold bits; omega
    have h24 : bits w 24 8 = r.code := by unfold bits; omega
    have h16 : bits w 16 8 = c := by unfold bits; omega
    simp [decR, himm, h0, h40, h32, h24, h16, hdun, hdus, haun, haus, hbun, hbus, hcun, hcus, hbr]
  | imm v =>
    obtain ⟨hok, rfl⟩ := hb
    have hv := v.isLt
    simp only [restR] at hw
    have himm : bits w 15 1 = 1 := by unfold bits; omega
    have h0 : bits w 0 15 = used := by unfold bits; omega
    have h40 : bits w 40 8 = d := by unfold bits; omega
    have h32 : bits w 32 8 = a := by unfold bits; omega
    have h16 : bits w 16 16 = v.toNat := by unfold bits; omega
    simp [decR, himm, h0, h40, h32, h16, hdun, hdus, haun, haus, hok]

theorem restR_lt {d a c md : Nat} {b : OpB} {sp : RSpec} {cr : Reg} (hd : d < 256) (ha : a < 256) (hb : FieldsBC sp b c cr)
    (hmd : md < 2 ^ 15) : restR d a b c md < 2 ^ 48 := by
  unfold restR
  cases b with
  | reg r =>
    obtain ⟨⟨hblt, _⟩, ⟨hclt, _⟩⟩ := hb
    simp only; omega
  | imm v =>
    have hv := v.isLt
    simp only; omega

theorem restR_mod {d a c md : Nat} {b : OpB} (hmd : md < 2 ^ 15) : restR d a b c md % 2 ^ 15 = md := by
  unfold restR
  cases b <;> simp only <;> omega

theorem roundTrips_encR {i : Instr} {op d a c : Nat} {h : Head} {b : OpB} {sp : Nat → RSpec} {used : Nat → Nat}
    {code : Nat → Bool} {k : Nat → Head → Reg → Reg → OpB → Reg → Instr} {dr ar cr : Reg}
    (hdec : ∀ w, decodeAt op w = decR w (sp w) (used w) (code w) (k w))
    (henc : encode i = encR op h d a b c md) (hop : op < 512) (hall : allocated op = true) (hmd : md < 2 ^ 15)
    (hfit : ∀ w, w % 2 ^ 15 = md → FieldFits (sp w).d d dr ∧ FieldFits (sp w).a a ar ∧ FieldsBC (sp w) b c cr)
    (hread : ∀ w, w % 2 ^ 15 = md → used w = md ∧ code w = true ∧ k w h dr ar b cr = i) : RoundTrips i := by
  obtain ⟨hd, ha, hb⟩ := hfit md (Nat.mod_eq_of_lt hmd)
  refine roundTrips_encX (henc.trans (encR_eq ..)) hop hall (restR_lt hd.lt ha.lt hb hmd) fun w hw hh => ?_
  have hlow : w % 2 ^ 15 = md := by
    rw [← Nat.mod_mod_of_dvd w (pow_dvd_pow 2 (show 15 ≤ 48 by norm_num)), hw, restR_mod hmd]
  obtain ⟨hd, ha, hb⟩ := hfit w hlow
  obtain ⟨hused, hcode, hk⟩ := hread w hlow
  rw [hdec, decR_eq hw hh hd ha hb hmd hused hcode, hk]

/-- What the field C reads as where B may hold an immediate and the entry has no C. -/
def unusedC : OpB → Reg
  | .reg _ => .v 0
  | .imm _ => .z

theorem FieldsBC.imm {d a : Option RK} {k : RK} {b : OpB} (h : b.ok k) (hk : k.Sound) :
    FieldsBC ⟨d, a, some k, none, true⟩ b 0 (unusedC b) := by
  cases b with
  | reg r => exact ⟨.some h hk, .none⟩
  | imm v => exact ⟨rfl, rfl⟩

theorem FieldsBC.immOrC {d a : Option RK} {k kc : RK} {b : OpB} {c : Reg} (h : b.ok k) (hc : kc.ok c) (hz : b.immLeavesC c)
    (hk : k.Sound) (hkc : kc.Sound) : FieldsBC ⟨d, a, some k, some kc, true⟩ b c.code c := by
  cases b with
  | reg r => exact ⟨.some h hk, .some hc hkc⟩
  | imm v => exact ⟨rfl, hz⟩

/-- The register fields of a format R word are legal and are read as these registers. -/
structure RFits (sp : RSpec) (d a : Nat) (b : OpB) (c : Nat) (dr ar cr : Reg) : Prop where
  d : FieldFits sp.d d dr
  a : FieldFits sp.a a ar
  bc : FieldsBC sp b c cr

/-! The fields that entries use: each lemma is named after those its entries have; `I` marks an immediate in B. -/

section
variable {kd ka kb kc : RK} {d a br c : Reg} {b : OpB}

theorem fits_none : RFits ⟨none, none, none, none, false⟩ 0 0 (.reg (.v 0)) 0 (.v 0) (.v 0) (.v 0) := ⟨.none, .none, .none, .none⟩

theorem fits_d (h : kd.ok d) (hd : kd.Sound := by exact ⟨by decide, by decide⟩) :
    RFits ⟨some kd, none, none, none, false⟩ d.code 0 (.reg (.v 0)) 0 d (.v 0) (.v 0) := ⟨.some h hd, .none, .none, .none⟩

theorem fits_a (h : ka.ok a) (ha : ka.Sound := by exact ⟨by decide, by decide⟩) :
    RFits ⟨none, some ka, none, none, false⟩ 0 a.code (.reg (.v 0)) 0 (.v 0) a (.v 0) := ⟨.none, .some h ha, .none, .none⟩

theorem fits_da (h : kd.ok d ∧ ka.ok a) (hd : kd.Sound := by exact ⟨by decide, by decide⟩)
    (ha : ka.Sound := by exact ⟨by decide, by decide⟩) :
    RFits ⟨some kd, some ka, none, none, false⟩ d.code a.code (.reg (.v 0)) 0 d a (.v 0) :=
  ⟨.some h.1 hd, .some h.2 ha, .none, .none⟩

theorem fits_ab (h : ka.ok a ∧ kb.ok br) (ha : ka.Sound := by exact ⟨by decide, by decide⟩)
    (hb : kb.Sound := by exact ⟨by decide, by decide⟩) :
    RFits ⟨none, some ka, some kb, none, false⟩ 0 a.code (.reg br) 0 (.v 0) a (.v 0) :=
  ⟨.none, .some h.1 ha, .some h.2 hb, .none⟩

theorem fits_dab (h : kd.ok d ∧ ka.ok a ∧ kb.ok br) (hd : kd.Sound := by exact ⟨by decide, by decide⟩)
    (ha : ka.Sound := by exact ⟨by decide, by decide⟩) (hb : kb.Sound := by exact ⟨by decide, by decide⟩) :
    RFits ⟨some kd, some ka, some kb, none, false⟩ d.code a.code (.reg br) 0 d a (.v 0) :=
  ⟨.some h.1 hd, .some h.2.1 ha, .some h.2.2 hb, .none⟩

theorem fits_dc (h : kd.ok d ∧ kc.ok c) (hd : kd.Sound := by exact ⟨by decide, by decide⟩)
    (hc : kc.Sound := by exact ⟨by decide, by decide⟩) :
    RFits ⟨some kd, none, none, some kc, false⟩ d.code 0 (.reg (.v 0)) c.code d (.v 0) c :=
  ⟨.some h.1 hd, .none, .none, .some h.2 hc⟩

theorem fits_dac (h : kd.ok d ∧ ka.ok a ∧ kc.ok c) (hd : kd.Sound := by exact ⟨by decide, by decide⟩)
    (ha : ka.Sound := by exact ⟨by decide, by decide⟩) (hc : kc.Sound := by exact ⟨by decide, by decide⟩) :
    RFits ⟨some kd, some ka, none, some kc, false⟩ d.code a.code (.reg (.v 0)) c.code d a c :=
  ⟨.some h.1 hd, .some h.2.1 ha, .none, .some h.2.2 hc⟩

theorem fits_abc (h : ka.ok a ∧ kb.ok br ∧ kc.ok c) (ha : ka.Sound := by exact ⟨by decide, by decide⟩)
    (hb : kb.Sound := by exact ⟨by decide, by decide⟩) (hc : kc.Sound := by exact ⟨by decide, by decide⟩) :
    RFits ⟨none, some ka, some kb, some kc, false⟩ 0 a.code (.reg br) c.code (.v 0) a c :=
  ⟨.none, .some h.1 ha, .some h.2.1 hb, .some h.2.2 hc⟩

theorem fits_dabc (h : kd.ok d ∧ ka.ok a ∧ kb.ok br ∧ kc.ok c) (hd : kd.Sound := by exact ⟨by decide, by decide⟩)
    (ha : ka.Sound := by exact ⟨by decide, by decide⟩) (hb : kb.Sound := by exact ⟨by decide, by decide⟩)
    (hc : kc.Sound := by exact ⟨by decide, by decide⟩) :
    RFits ⟨some kd, some ka, some kb, some kc, false⟩ d.code a.code (.reg br) c.code d a c :=
  ⟨.some h.1 hd, .some h.2.1 ha, .some h.2.2.1 hb, .some h.2.2.2 hc⟩

theorem fits_bI (h : b.ok kb) (hb : kb.Sound := by exact ⟨by decide, by decide⟩) :
    RFits ⟨none, none, some kb, none, true⟩ 0 0 b 0 (.v 0) (.v 0) (unusedC b) := ⟨.none, .none, .imm h hb⟩

theorem fits_dbI (h : kd.ok d ∧ b.ok kb) (hd : kd.Sound := by exact ⟨by decide, by decide⟩)
    (hb : kb.Sound := by exact ⟨by decide, by decide⟩) :
    RFits ⟨some kd, none, some kb, none, true⟩ d.code 0 b 0 d (.v 0) (unusedC b) := ⟨.some h.1 hd, .none, .imm h.2 hb⟩

theorem fits_abI (h : ka.ok a ∧ b.ok kb) (ha : ka.Sound := by exact ⟨by decide, by decide⟩)
    (hb : kb.Sound := by exact ⟨by decide, by decide⟩) :
    RFits ⟨none, some ka, some kb, none, true⟩ 0 a.code b 0 (.v 0) a (unusedC b) := ⟨.none, .some h.1 ha, .imm h.2 hb⟩

theorem fits_dabI (h : kd.ok d ∧ ka.ok a ∧ b.ok kb) (hd : kd.Sound := by exact ⟨by decide, by decide⟩)
    (ha : ka.Sound := by exact ⟨by decide, by decide⟩) (hb : kb.Sound := by exact ⟨by decide, by decide⟩) :
    RFits ⟨some kd, some ka, some kb, none, true⟩ d.code a.code b 0 d a (unusedC b) :=
  ⟨.some h.1 hd, .some h.2.1 ha, .imm h.2.2 hb⟩

theorem fits_abcI (h : ka.ok a ∧ b.ok kb ∧ kc.ok c ∧ b.immLeavesC c) (ha : ka.Sound := by exact ⟨by decide, by decide⟩)
    (hb : kb.Sound := by exact ⟨by decide, by decide⟩) (hc : kc.Sound := by exact ⟨by decide, by decide⟩) :
    RFits ⟨none, some ka, some kb, some kc, true⟩ 0 a.code b c.code (.v 0) a c :=
  ⟨.none, .some h.1 ha, .immOrC h.2.1 h.2.2.1 h.2.2.2 hb hc⟩

theorem fits_dabcI (h : kd.ok d ∧ ka.ok a ∧ b.ok kb ∧ kc.ok c ∧ b.immLeavesC c) (hd : kd.Sound := by exact ⟨by decide, by decide⟩)
    (ha : ka.Sound := by exact ⟨by decide, by decide⟩) (hb : kb.Sound := by exact ⟨by decide, by decide⟩)
    (hc : kc.Sound := by exact ⟨by decide, by decide⟩) :
    RFits ⟨some kd, some ka, some kb, some kc, true⟩ d.code a.code b c.code d a c :=
  ⟨.some h.1 hd, .some h.2.1 ha, .immOrC h.2.2.1 h.2.2.2.1 h.2.2.2.2 hb hc⟩

end

/-! Words of format R. -/

/-- What MOD[14:0] says of a word that holds these modifiers there. -/
def Layout (md : Nat) (P : Nat → Prop) : Prop := md < 2 ^ 15 ∧ ∀ w, w % 2 ^ 15 = md → P w

theorem lt_of_allocated {op : Nat} (h : allocated op = true) : op < 512 := by
  simp only [allocated, Bool.or_eq_true, decide_eq_true_eq] at h
  omega

section
variable {g : Nat → Nat → Except DecodeErr Instr} {i : Instr} {op d a c : Nat} {h : Head} {b : OpB} {dr ar cr : Reg}

/-- A format R entry whose kinds and modifiers the word tells. -/
theorem roundTrips_word (h : Head) {sp : Nat → RSpec} {used : Nat → Nat} {code : Nat → Bool} {md : Nat} {P : Nat → Prop}
    {k : Nat → Head → Reg → Reg → OpB → Reg → Instr} (hdec : ∀ w, g op w = decR w (sp w) (used w) (code w) (k w))
    (hlay : Layout md P) (hfit : ∀ w, P w → RFits (sp w) d a b c dr ar cr)
    (hread : ∀ w, P w → used w = md ∧ code w = true ∧ k w h dr ar b cr = i)
    (henc : encode i = encR op h d a b c md := by rfl) (hg : ∀ w, decodeAt op w = g op w := by exact fun _ => rfl)
    (hall : allocated op = true := by rfl) : RoundTrips i :=
  roundTrips_encR (fun w => (hg w).trans (hdec w)) henc (lt_of_allocated hall) hall hlay.1
    (fun w hw => have hf := hfit w (hlay.2 w hw); ⟨hf.d, hf.a, hf.bc⟩) fun w hw => hread w (hlay.2 w hw)

/-- A format R entry with modifiers. -/
theorem roundTrips_fields (h : Head) {sp : RSpec} {used : Nat → Nat} {code : Nat → Bool} {md : Nat} {P : Nat → Prop}
    {k : Nat → Head → Reg → Reg → OpB → Reg → Instr} (hdec : ∀ w, g op w = decR w sp (used w) (code w) (k w))
    (hfit : RFits sp d a b c dr ar cr) (hlay : Layout md P)
    (hread : ∀ w, P w → used w = md ∧ code w = true ∧ k w h dr ar b cr = i)
    (henc : encode i = encR op h d a b c md := by rfl) (hg : ∀ w, decodeAt op w = g op w := by exact fun _ => rfl)
    (hall : allocated op = true := by rfl) : RoundTrips i :=
  roundTrips_word h hdec hlay (fun _ _ => hfit) hread henc hg hall

/-- A format R entry without modifiers. -/
theorem roundTrips_plain {sp : RSpec} {k : Head → Reg → Reg → OpB → Reg → Instr}
    (hdec : ∀ w, g op w = decR w sp 0 true k) (hfit : RFits sp d a b c dr ar cr) (hk : k h dr ar b cr = i := by rfl)
    (henc : encode i = encR op h d a b c 0 := by rfl) (hg : ∀ w, decodeAt op w = g op w := by exact fun _ => rfl)
    (hall : allocated op = true := by rfl) : RoundTrips i :=
  roundTrips_fields h hdec hfit (md := 0) (P := fun _ => True) ⟨by norm_num, fun _ _ => trivial⟩ (fun _ _ => ⟨rfl, rfl, hk⟩) henc hg hall

end

/-! Layouts of MOD, named by the widths of their fields from bit 0 up. -/

section
variable {x y z u v : Nat}

theorem layout_low (n : Nat) (hx : x < 2 ^ n) (hn : n ≤ 15 := by decide) : Layout x fun w => bits w 0 n = x := by
  refine ⟨lt_of_lt_of_le hx (Nat.pow_le_pow_right (by norm_num) hn), fun w hw => ?_⟩
  show w / 2 ^ 0 % 2 ^ n = x
  rw [pow_zero, Nat.div_one, ← Nat.mod_mod_of_dvd w (pow_dvd_pow 2 hn), hw, Nat.mod_eq_of_lt hx]

theorem layout_sat (hx : x < 2) : Layout (x * 2048) fun w => bits w 11 1 = x := by
  refine ⟨by omega, fun w hw => ?_⟩; unfold bits; omega

theorem layout_ftz (hx : x < 2) : Layout (x * 4096) fun w => bits w 12 1 = x := by
  refine ⟨by omega, fun w hw => ?_⟩; unfold bits; omega

theorem layout_sat_ftz (hx : x < 2) (hy : y < 2) : Layout (x * 2048 + y * 4096) fun w => bits w 11 1 = x ∧ bits w 12 1 = y := by
  refine ⟨by omega, fun w hw => ?_⟩; unfold bits; omega

theorem layout_gap3_2 (hx : x < 4) : Layout (x * 8) fun w => bits w 3 2 = x := by
  refine ⟨by omega, fun w hw => ?_⟩; unfold bits; omega

theorem layout_1_4 (hx : x < 2) (hy : y < 16) : Layout (x + y * 2) fun w => bits w 0 1 = x ∧ bits w 1 4 = y := by
  refine ⟨by omega, fun w hw => ?_⟩; unfold bits; omega

theorem layout_1_gap2_3 (hx : x < 2) (hy : y < 8) : Layout (x + y * 8) fun w => bits w 0 1 = x ∧ bits w 3 3 = y := by
  refine ⟨by omega, fun w hw => ?_⟩; unfold bits; omega

theorem layout_2_1 (hx : x < 4) (hy : y < 2) : Layout (x + y * 4) fun w => bits w 0 2 = x ∧ bits w 2 1 = y := by
  refine ⟨by omega, fun w hw => ?_⟩; unfold bits; omega

theorem layout_2_2 (hx : x < 4) (hy : y < 4) : Layout (x + y * 4) fun w => bits w 0 2 = x ∧ bits w 2 2 = y := by
  refine ⟨by omega, fun w hw => ?_⟩; unfold bits; omega

theorem layout_2_gap2_2 (hx : x < 4) (hy : y < 4) : Layout (x + y * 16) fun w => bits w 0 2 = x ∧ bits w 4 2 = y := by
  refine ⟨by omega, fun w hw => ?_⟩; unfold bits; omega

theorem layout_4_2 (hx : x < 16) (hy : y < 4) : Layout (x + y * 16) fun w => bits w 0 4 = x ∧ bits w 4 2 = y := by
  refine ⟨by omega, fun w hw => ?_⟩; unfold bits; omega

theorem layout_3_1 (hx : x < 8) (hy : y < 2) : Layout (x + y * 8) fun w => bits w 0 3 = x ∧ bits w 3 1 = y := by
  refine ⟨by omega, fun w hw => ?_⟩; unfold bits; omega

theorem layout_3_2 (hx : x < 8) (hy : y < 4) : Layout (x + y * 8) fun w => bits w 0 3 = x ∧ bits w 3 2 = y := by
  refine ⟨by omega, fun w hw => ?_⟩; unfold bits; omega

theorem layout_3_3 (hx : x < 8) (hy : y < 8) : Layout (x + y * 8) fun w => bits w 0 3 = x ∧ bits w 3 3 = y := by
  refine ⟨by omega, fun w hw => ?_⟩; unfold bits; omega

theorem layout_3_3_1 (hx : x < 8) (hy : y < 8) (hz : z < 2) :
    Layout (x + y * 8 + z * 64) fun w => bits w 0 3 = x ∧ bits w 3 3 = y ∧ bits w 6 1 = z := by
  refine ⟨by omega, fun w hw => ?_⟩; unfold bits; omega

theorem layout_3_1_3 (hx : x < 8) (hy : y < 2) (hz : z < 8) :
    Layout (x + y * 8 + z * 16) fun w => bits w 0 3 = x ∧ bits w 3 1 = y ∧ bits w 4 3 = z := by
  refine ⟨by omega, fun w hw => ?_⟩; unfold bits; omega

theorem layout_4_3_ftz (hx : x < 16) (hy : y < 8) (hz : z < 2) :
    Layout (x + y * 16 + z * 4096) fun w => bits w 0 4 = x ∧ bits w 4 3 = y ∧ bits w 12 1 = z := by
  refine ⟨by omega, fun w hw => ?_⟩; unfold bits; omega

theorem layout_4_3_3_ftz (hx : x < 16) (hy : y < 8) (hu : u < 8) (hz : z < 2) :
    Layout (x + y * 16 + u * 128 + z * 4096) fun w =>
      bits w 0 4 = x ∧ bits w 4 3 = y ∧ bits w 7 3 = u ∧ bits w 12 1 = z := by
  refine ⟨by omega, fun w hw => ?_⟩; unfold bits; omega

theorem layout_sfn (hx : x < 8) (hy : y < 2) (hu : u < 2) (hv : v < 2) (hz : z < 2) :
    Layout (x + y * 8 + u * 64 + v * 2048 + z * 4096) fun w =>
      bits w 0 3 = x ∧ bits w 3 1 = y ∧ bits w 6 1 = u ∧ bits w 11 1 = v ∧ bits w 12 1 = z := by
  refine ⟨by omega, fun w hw => ?_⟩; unfold bits; omega

end

/-! The modifiers of group 1 (R63, R131). -/

/-- A word that holds the modifiers, and another flag in bit 0 where the entry has none of a's, gives them back. -/
theorem layout_mods {m : FMods} {mask : FMask} {x : Nat} (hm : m.within mask) (hx : x = 0 ∨ x < 2 ∧ mask.a = false) :
    Layout (m.code + x) fun w => FMods.ofWord mask w = m ∧ (x < 2 ∧ mask.a = false → bits w 0 1 = x) := by
  obtain ⟨hrnd, hftz, hsat, ha, hb, hc⟩ := hm
  have hr := m.rnd.code_lt
  have h0 := m.negA.toNat_lt
  have h1 := m.negB.toNat_lt
  have h2 := m.negC.toNat_lt
  have h3 := m.absA.toNat_lt
  have h4 := m.absB.toNat_lt
  have h5 := m.absC.toNat_lt
  have h11 := m.sat.toNat_lt
  have h12 := m.ftz.toNat_lt
  have hnegA : mask.a = false → m.negA.toNat = 0 := fun h => by rw [(ha h).1]; rfl
  have hx2 : m.negA.toNat + x < 2 := by
    rcases hx with rfl | ⟨hx, hmask⟩
    · omega
    · rw [hnegA hmask]; omega
  have hval : mask.a = true → x = 0 := fun h => hx.resolve_right fun hx => by simp [h] at hx
  refine ⟨by unfold FMods.code; omega, fun w hw => ?_⟩
  unfold FMods.code at hw
  have hb0 : bits w 0 1 = m.negA.toNat + x := by unfold bits; omega
  have hb1 : bits w 1 1 = m.negB.toNat := by unfold bits; omega
  have hb2 : bits w 2 1 = m.negC.toNat := by unfold bits; omega
  have hb3 : bits w 3 1 = m.absA.toNat := by unfold bits; omega
  have hb4 : bits w 4 1 = m.absB.toNat := by unfold bits; omega
  have hb5 : bits w 5 1 = m.absC.toNat := by unfold bits; omega
  have hb11 : bits w 11 1 = m.sat.toNat := by unfold bits; omega
  have hb12 : bits w 12 1 = m.ftz.toNat := by unfold bits; omega
  have hb13 : bits w 13 2 = m.rnd.code := by unfold bits; omega
  refine ⟨?_, fun ⟨_, hmask⟩ => by rw [hb0, hnegA hmask, zero_add]⟩
  have hfrnd : (if mask.rnd then Rnd.ofCode (bits w 13 2) else .rne) = m.rnd := by
    cases h : mask.rnd
    · exact (hrnd h).symm
    · simp [hb13]
  have hfftz : (mask.ftz && bits w 12 1 == 1) = m.ftz := by
    cases h : mask.ftz
    · exact (hftz h).symm
    · simp [hb12]
  have hfsat : (mask.sat && bits w 11 1 == 1) = m.sat := by
    cases h : mask.sat
    · exact (hsat h).symm
    · simp [hb11]
  have hfa : (mask.a && bits w 0 1 == 1) = m.negA ∧ (mask.a && bits w 3 1 == 1) = m.absA := by
    cases h : mask.a
    · exact ⟨(ha h).1.symm, (ha h).2.symm⟩
    · simp [hb0, hb3, hval h]
  have hfb : (mask.b && bits w 1 1 == 1) = m.negB ∧ (mask.b && bits w 4 1 == 1) = m.absB := by
    cases h : mask.b
    · exact ⟨(hb h).1.symm, (hb h).2.symm⟩
    · simp [hb1, hb4]
  have hfc : (mask.c && bits w 2 1 == 1) = m.negC ∧ (mask.c && bits w 5 1 == 1) = m.absC := by
    cases h : mask.c
    · exact ⟨(hc h).1.symm, (hc h).2.symm⟩
    · simp [hb2, hb5]
  unfold FMods.ofWord
  simp only [hfrnd, hfftz, hfsat, hfa, hfb, hfc]

/-- A format R entry of group 1. -/
theorem roundTrips_mods {g : Nat → Nat → Except DecodeErr Instr} {i : Instr} {op d a c : Nat} {h : Head} {b : OpB} {dr ar cr : Reg}
    {m : FMods} {mask : FMask} {sp : RSpec} {k : Nat → Head → Reg → Reg → OpB → Reg → Instr}
    (hdec : ∀ w, g op w = decR w sp (FMods.ofWord mask w).code true (k w))
    (hm : m.within mask) (hfit : RFits sp d a b c dr ar cr)
    (henc : encode i = encR op h d a b c m.code := by rfl) (hg : ∀ w, decodeAt op w = g op w := by exact fun _ => rfl)
    (hall : allocated op = true := by rfl)
    (hk : ∀ w, FMods.ofWord mask w = m → k w h dr ar b cr = i := by intro w hw; simp only [hw, regOf_reg]) : RoundTrips i :=
  roundTrips_fields h hdec hfit (layout_mods (x := 0) hm (.inl rfl))
    (fun w hw => ⟨by rw [hw.1]; rfl, rfl, hk w hw.1⟩) henc hg hall

/-! Words of the other formats. -/

/-- What bits [47:0] say of a word that holds these fields there. -/
def LayoutX (rest : Nat) (P : Nat → Prop) : Prop := rest < 2 ^ 48 ∧ ∀ w, w % 2 ^ 48 = rest → P w

section
variable {g : Nat → Nat → Except DecodeErr Instr} {i : Instr} {op : Nat}

theorem roundTrips_x (h : Head) {zero code regs : Nat → Bool} {rest : Nat} {P : Nat → Prop} {k : Nat → Head → Instr}
    (hdec : ∀ w, g op w = decX w (zero w) (code w) (regs w) (k w)) (hlay : LayoutX rest P)
    (hread : ∀ w, P w → zero w = true ∧ code w = true ∧ regs w = true ∧ k w h = i)
    (henc : encode i = encX op h rest := by rfl) (hg : ∀ w, decodeAt op w = g op w := by exact fun _ => rfl)
    (hall : allocated op = true := by rfl) : RoundTrips i := by
  refine roundTrips_encX henc (lt_of_allocated hall) hall hlay.1 fun w hw hh => ?_
  obtain ⟨hz, hc, hr, hk⟩ := hread w (hlay.2 w hw)
  rw [hg, hdec, decX_eq hh hz hc hr, hk]

end

theorem RK.code_lt {k : RK} {r : Reg} (h : k.ok r) (hk : k.Sound) : r.code < 256 := Reg.code_lt h hk.1

/-- A register field of the kind is legal and is read as the register. -/
theorem RK.reads {k : RK} {r : Reg} (h : k.ok r) (hk : k.Sound := by exact ⟨by decide, by decide⟩) :
    k.codeOkB r.code = true ∧ Reg.ofCode r.code = r := ⟨RK.codeOkB_code h hk, Reg.ofCode_code h hk.1 hk.2⟩

theorem MOp.code_lt {m : MOp} {kb : RK} (hm : kb.ok m.base) (hk : kb.Sound) : m.code < 1099511627776 := by
  have hb := RK.code_lt hm hk
  have ho := m.ofs.isLt
  have hs := m.scope.code_lt
  have hd := m.ord.code_lt
  unfold MOp.code
  omega

/-- The fields of a format M word (R57). -/
theorem layout_mop {x : Nat} {kb : RK} {scopes ords : List Nat} {hints : Nat} {m : MOp} (hx : x < 256)
    (hm : m.ok kb scopes ords hints) (hk : kb.Sound) :
    LayoutX (x * 1099511627776 + m.code) fun w => bits w 40 8 = x ∧ bits w 32 8 = m.base.code ∧
      bits w 5 3 = m.scope.code ∧ bits w 2 3 = m.ord.code ∧ bits w 0 2 = m.hint.val ∧ MOp.ofWord w = m := by
  obtain ⟨hbase, -, -, -⟩ := hm
  have hb := RK.code_lt hbase hk
  have ho := m.ofs.isLt
  have hs := m.scope.code_lt
  have hd := m.ord.code_lt
  refine ⟨by unfold MOp.code; omega, fun w hw => ?_⟩
  unfold MOp.code at hw
  have h40 : bits w 40 8 = x := by unfold bits; omega
  have h32 : bits w 32 8 = m.base.code := by unfold bits; omega
  have h8 : bits w 8 24 = m.ofs.toNat := by unfold bits; omega
  have h5 : bits w 5 3 = m.scope.code := by unfold bits; omega
  have h2 : bits w 2 3 = m.ord.code := by unfold bits; omega
  have h0 : bits w 0 2 = m.hint.val := by unfold bits; omega
  refine ⟨h40, h32, h5, h2, h0, ?_⟩
  simp [MOp.ofWord, h32, h8, h5, h2, h0, (RK.reads hbase hk).2]

/-- The fields of a stage or queue word (R201). -/
theorem layout_sop {x : Nat} {m : SOp} (hx : x < 256) (hm : RK.k32.ok m.base) :
    LayoutX (x * 1099511627776 + m.code) fun w => bits w 40 8 = x ∧ bits w 32 8 = m.base.code ∧
      (bits w 5 3 = 1 ∨ bits w 5 3 = 2) ∧ bits w 2 3 = 0 ∧ bits w 0 2 = 0 ∧ SOp.ofWord w = m := by
  have hb := RK.code_lt hm ⟨by decide, by decide⟩
  have ho := m.ofs.isLt
  have hc := m.clus.toNat_lt
  have hcode : m.code = m.base.code * 4294967296 + m.ofs.toNat * 256 + 32 + m.clus.toNat * 32 := by
    unfold SOp.code; cases m.clus <;> simp
  refine ⟨by omega, fun w hw => ?_⟩
  have h40 : bits w 40 8 = x := by unfold bits; omega
  have h32 : bits w 32 8 = m.base.code := by unfold bits; omega
  have h8 : bits w 8 24 = m.ofs.toNat := by unfold bits; omega
  have h5 : bits w 5 3 = 1 + m.clus.toNat := by unfold bits; omega
  have h2 : bits w 2 3 = 0 := by unfold bits; omega
  have h0 : bits w 0 2 = 0 := by unfold bits; omega
  have hclus : (1 + m.clus.toNat == 2) = m.clus := by cases m.clus <;> rfl
  refine ⟨h40, h32, by omega, h2, h0, ?_⟩
  simp [SOp.ofWord, h32, h8, h5, hclus, (RK.reads hm).2]

section
variable {g : Nat → Nat → Except DecodeErr Instr} {op : Nat}

/-- A word with a register D and an address (R266). -/
theorem roundTrips_mem {mk : Head → Reg → MOp → Instr} {kd kb : RK} {scopes ords : List Nat} {hints : Nat} {h : Head} {d : Reg}
    {m : MOp} (hdec : ∀ w, g op w = decX w (bits w 0 2 < hints) (bits w 5 3 ∈ scopes ∧ bits w 2 3 ∈ ords)
      (kd.codeOkB (bits w 40 8) ∧ kb.codeOkB (bits w 32 8)) fun h => mk h (Reg.ofCode (bits w 40 8)) (MOp.ofWord w))
    (hw : kd.ok d ∧ m.ok kb scopes ords hints) (hd : kd.Sound := by exact ⟨by decide, by decide⟩)
    (hb : kb.Sound := by exact ⟨by decide, by decide⟩)
    (henc : encode (mk h d m) = encX op h (d.code * 1099511627776 + m.code) := by rfl)
    (hg : ∀ w, decodeAt op w = g op w := by exact fun _ => rfl) (hall : allocated op = true := by rfl) :
    RoundTrips (mk h d m) := by
  obtain ⟨hdk, hm⟩ := hw
  obtain ⟨hbase, hscope, hord, hhint⟩ := hm
  refine roundTrips_x h hdec (layout_mop (RK.code_lt hdk hd) ⟨hbase, hscope, hord, hhint⟩ hb) (fun w hw => ?_) henc hg hall
  obtain ⟨h40, h32, h5, h2, h0, hmop⟩ := hw
  simp [h40, h32, h5, h2, h0, hmop, RK.reads hdk hd, RK.reads hbase hb, hscope, hord, hhint]

/-- A stage or queue word with a register D. -/
theorem roundTrips_obj {mk : Head → Reg → SOp → Instr} {kd : RK} {h : Head} {d : Reg} {m : SOp}
    (hdec : ∀ w, g op w = decX w (bits w 0 2 = 0) ((bits w 5 3 = 1 ∨ bits w 5 3 = 2) ∧ bits w 2 3 = 0)
      (kd.codeOkB (bits w 40 8) ∧ RK.k32.codeOkB (bits w 32 8)) fun h => mk h (Reg.ofCode (bits w 40 8)) (SOp.ofWord w))
    (hw : kd.ok d ∧ RK.k32.ok m.base) (hd : kd.Sound := by exact ⟨by decide, by decide⟩)
    (henc : encode (mk h d m) = encX op h (d.code * 1099511627776 + m.code) := by rfl)
    (hg : ∀ w, decodeAt op w = g op w := by exact fun _ => rfl) (hall : allocated op = true := by rfl) :
    RoundTrips (mk h d m) := by
  obtain ⟨hdk, hm⟩ := hw
  refine roundTrips_x h hdec (layout_sop (RK.code_lt hdk hd) hm) (fun w hw => ?_) henc hg hall
  obtain ⟨h40, h32, h5, h2, h0, hsop⟩ := hw
  simp [h40, h32, h5, h2, h0, hsop, RK.reads hdk hd, RK.reads hm]

/-- A stage or queue word without a register D. -/
theorem roundTrips_obj0 {mk : Head → SOp → Instr} {h : Head} {m : SOp}
    (hdec : ∀ w, g op w = decX w (bits w 40 8 = 0 ∧ bits w 0 2 = 0) ((bits w 5 3 = 1 ∨ bits w 5 3 = 2) ∧ bits w 2 3 = 0)
      (RK.k32.codeOkB (bits w 32 8)) fun h => mk h (SOp.ofWord w))
    (hm : RK.k32.ok m.base) (henc : encode (mk h m) = encX op h m.code := by rfl)
    (hg : ∀ w, decodeAt op w = g op w := by exact fun _ => rfl) (hall : allocated op = true := by rfl) :
    RoundTrips (mk h m) := by
  refine roundTrips_x h hdec (layout_sop (x := 0) (by decide) hm) (fun w hw => ?_) (by rw [henc]; simp) hg hall
  obtain ⟨h40, h32, h5, h2, h0, hsop⟩ := hw
  simp [h40, h32, h5, h2, h0, hsop, RK.reads hm]

/-- A word whose bits [39:8] are an immediate or an offset (R57, R144). -/
theorem roundTrips_imm {mk : Head → BitVec 32 → Instr} {h : Head} {v : BitVec 32}
    (hdec : ∀ w, g op w = decX w (bits w 40 8 = 0 ∧ bits w 0 8 = 0) True True fun h => mk h (BitVec.ofNat 32 (bits w 8 32)))
    (henc : encode (mk h v) = encX op h (v.toNat * 256) := by rfl)
    (hg : ∀ w, decodeAt op w = g op w := by exact fun _ => rfl) (hall : allocated op = true := by rfl) :
    RoundTrips (mk h v) := by
  have hv := v.isLt
  refine roundTrips_x h hdec (P := fun w => bits w 40 8 = 0 ∧ bits w 8 32 = v.toNat ∧ bits w 0 8 = 0)
    ⟨by omega, fun w hw => by unfold bits; omega⟩ (fun w hw => ?_) henc hg hall
  simp [hw]

/-- A matrix product of two tiles (R328). -/
theorem roundTrips_mma {mk : Head → Reg → Reg → Fin 512 → Bool → Bool → Instr} {h : Head} {sa sb : Reg} {acc : Fin 512} {zs rel : Bool}
    (hdec : ∀ w, g op w = decX w (bits w 16 16 = 0 ∧ bits w 5 1 = 0 ∧ bits w 0 4 = 0) True
      (RK.kds.codeOkB (bits w 40 8) ∧ RK.kds.codeOkB (bits w 32 8)) fun h => mk h (Reg.ofCode (bits w 40 8))
        (Reg.ofCode (bits w 32 8)) (fin512 (bits w 7 9)) (bits w 6 1 == 1) (bits w 4 1 == 1))
    (hw : RK.kds.ok sa ∧ RK.kds.ok sb)
    (henc : encode (mk h sa sb acc zs rel) = encX op h
      (sa.code * 1099511627776 + sb.code * 4294967296 + acc.val * 128 + zs.toNat * 64 + rel.toNat * 16) := by rfl)
    (hg : ∀ w, decodeAt op w = g op w := by exact fun _ => rfl) (hall : allocated op = true := by rfl) :
    RoundTrips (mk h sa sb acc zs rel) := by
  obtain ⟨ha, hb⟩ := hw
  have halt := RK.code_lt ha ⟨by decide, by decide⟩
  have hblt := RK.code_lt hb ⟨by decide, by decide⟩
  have hz := zs.toNat_lt
  have hr := rel.toNat_lt
  refine roundTrips_x h hdec (P := fun w => bits w 40 8 = sa.code ∧ bits w 32 8 = sb.code ∧ bits w 16 16 = 0 ∧
    bits w 7 9 = acc.val ∧ bits w 6 1 = zs.toNat ∧ bits w 5 1 = 0 ∧ bits w 4 1 = rel.toNat ∧ bits w 0 4 = 0)
    ⟨by omega, fun w hw => by unfold bits; omega⟩ (fun w hw => ?_) henc hg hall
  simp [hw, RK.reads ha, RK.reads hb]

/-- The fields of a matrix product with scales. -/
theorem layout_scaled {a b s t acc z sh r : Nat} (ha : a < 256) (hb : b < 256) (hs : s < 256) (ht : t < 256) (hacc : acc < 512)
    (hz : z < 2) (hsh : sh < 2) (hr : r < 2) :
    LayoutX (a * 1099511627776 + b * 4294967296 + s * 16777216 + t * 65536 + acc * 128 + z * 64 + sh * 32 + r * 16) fun w =>
      bits w 40 8 = a ∧ bits w 32 8 = b ∧ bits w 24 8 = s ∧ bits w 16 8 = t ∧ bits w 7 9 = acc ∧ bits w 6 1 = z ∧
      bits w 5 1 = sh ∧ bits w 4 1 = r ∧ bits w 0 4 = 0 :=
  ⟨by omega, fun w hw => by unfold bits; omega⟩

/-- A matrix product with scales, of one of two halves (R328). -/
theorem roundTrips_mmaHalf {mk : Head → Reg → Reg → Reg → Reg → Fin 512 → Bool → Bool → Bool → Instr} {h : Head}
    {sa sb vs vt : Reg} {acc : Fin 512} {zs sh rel : Bool}
    (hdec : ∀ w, g op w = decX w (bits w 0 4 = 0) True (RK.kds.codeOkB (bits w 40 8) ∧ RK.kds.codeOkB (bits w 32 8) ∧
        RK.kv.codeOkB (bits w 24 8) ∧ RK.kv.codeOkB (bits w 16 8)) fun h =>
      mk h (Reg.ofCode (bits w 40 8)) (Reg.ofCode (bits w 32 8)) (Reg.ofCode (bits w 24 8)) (Reg.ofCode (bits w 16 8))
        (fin512 (bits w 7 9)) (bits w 6 1 == 1) (bits w 5 1 == 1) (bits w 4 1 == 1))
    (hw : RK.kds.ok sa ∧ RK.kds.ok sb ∧ RK.kv.ok vs ∧ RK.kv.ok vt)
    (henc : encode (mk h sa sb vs vt acc zs sh rel) = encX op h
      (sa.code * 1099511627776 + sb.code * 4294967296 + vs.code * 16777216 + vt.code * 65536 + acc.val * 128 + zs.toNat * 64 +
        sh.toNat * 32 + rel.toNat * 16) := by rfl)
    (hg : ∀ w, decodeAt op w = g op w := by exact fun _ => rfl) (hall : allocated op = true := by rfl) :
    RoundTrips (mk h sa sb vs vt acc zs sh rel) := by
  obtain ⟨ha, hb, hs, ht⟩ := hw
  refine roundTrips_x h hdec (layout_scaled (RK.code_lt ha ⟨by decide, by decide⟩) (RK.code_lt hb ⟨by decide, by decide⟩)
    (RK.code_lt hs ⟨by decide, by decide⟩) (RK.code_lt ht ⟨by decide, by decide⟩) acc.isLt zs.toNat_lt sh.toNat_lt rel.toNat_lt)
    (fun w hw => ?_) henc hg hall
  simp [hw, RK.reads ha, RK.reads hb, RK.reads hs, RK.reads ht]

/-- A matrix product with scales (R328). -/
theorem roundTrips_mmaScaled {mk : Head → Reg → Reg → Reg → Reg → Fin 512 → Bool → Bool → Instr} {h : Head}
    {sa sb vs vt : Reg} {acc : Fin 512} {zs rel : Bool}
    (hdec : ∀ w, g op w = decX w (bits w 0 4 = 0) (bits w 5 1 = 0) (RK.kds.codeOkB (bits w 40 8) ∧
        RK.kds.codeOkB (bits w 32 8) ∧ RK.kv.codeOkB (bits w 24 8) ∧ RK.kv.codeOkB (bits w 16 8)) fun h =>
      mk h (Reg.ofCode (bits w 40 8)) (Reg.ofCode (bits w 32 8)) (Reg.ofCode (bits w 24 8)) (Reg.ofCode (bits w 16 8))
        (fin512 (bits w 7 9)) (bits w 6 1 == 1) (bits w 4 1 == 1))
    (hw : RK.kds.ok sa ∧ RK.kds.ok sb ∧ RK.kv.ok vs ∧ RK.kv.ok vt)
    (henc : encode (mk h sa sb vs vt acc zs rel) = encX op h
      (sa.code * 1099511627776 + sb.code * 4294967296 + vs.code * 16777216 + vt.code * 65536 + acc.val * 128 + zs.toNat * 64 +
        rel.toNat * 16) := by rfl)
    (hg : ∀ w, decodeAt op w = g op w := by exact fun _ => rfl) (hall : allocated op = true := by rfl) :
    RoundTrips (mk h sa sb vs vt acc zs rel) := by
  obtain ⟨ha, hb, hs, ht⟩ := hw
  refine roundTrips_x h hdec (layout_scaled (sh := 0) (RK.code_lt ha ⟨by decide, by decide⟩) (RK.code_lt hb ⟨by decide, by decide⟩)
    (RK.code_lt hs ⟨by decide, by decide⟩) (RK.code_lt ht ⟨by decide, by decide⟩) acc.isLt zs.toNat_lt (by decide) rel.toNat_lt)
    (fun w hw => ?_) (by rw [henc]; simp) hg hall
  simp [hw, RK.reads ha, RK.reads hb, RK.reads hs, RK.reads ht]

/-- MDRAIN (R330). -/
theorem roundTrips_mdrain {mk : Head → Reg → Fin 512 → Fin 16 → Instr} {kd : RK} {h : Head} {d : Reg} {acc : Fin 512} {cg : Fin 16}
    (hdec : ∀ w, g op w = decX w (bits w 32 4 = 0 ∧ bits w 16 16 = 0 ∧ bits w 0 7 = 0) True (kd.codeOkB (bits w 40 8)) fun h =>
      mk h (Reg.ofCode (bits w 40 8)) (fin512 (bits w 7 9)) (fin16 (bits w 36 4)))
    (hd : kd.ok d) (hk : kd.Sound := by exact ⟨by decide, by decide⟩)
    (henc : encode (mk h d acc cg) = encX op h (d.code * 1099511627776 + cg.val * 68719476736 + acc.val * 128) := by rfl)
    (hg : ∀ w, decodeAt op w = g op w := by exact fun _ => rfl) (hall : allocated op = true := by rfl) :
    RoundTrips (mk h d acc cg) := by
  have hlt := RK.code_lt hd hk
  refine roundTrips_x h hdec (P := fun w => bits w 40 8 = d.code ∧ bits w 36 4 = cg.val ∧ bits w 32 4 = 0 ∧ bits w 16 16 = 0 ∧
    bits w 7 9 = acc.val ∧ bits w 0 7 = 0) ⟨by omega, fun w hw => by unfold bits; omega⟩ (fun w hw => ?_) henc hg hall
  simp [hw, RK.reads hd hk]

end

end Sys2Proof
end
section
/-!
SUPPORT. Every word of the opcode map read back from its encoding (R54 to R76), entry by entry of the decoder: the layout of its
modifiers and the kinds of its registers.
-/
namespace Sys2Proof

-- One theorem at a time: elaborating them side by side costs a thread stack each, and the text compiles under a memory limit.
set_option Elab.async false

theorem MovW.rk_sound (mw : MovW) : mw.rk.Sound := by cases mw <;> exact ⟨by decide, by decide⟩
theorem MovW.rkV_sound (mw : MovW) : mw.rkV.Sound := by cases mw <;> exact ⟨by decide, by decide⟩
theorem MoviMode.rk_sound (md : MoviMode) : md.rk.Sound := by cases md <;> exact ⟨by decide, by decide⟩
theorem RK.kw_sound (w64 : Bool) : (RK.kw w64).Sound := by cases w64 <;> exact ⟨by decide, by decide⟩
theorem SRegInfo.rk_sound (i : SRegInfo) : i.rk.Sound := by unfold SRegInfo.rk; split <;> exact ⟨by decide, by decide⟩

theorem Ord.two_le_code {od : Ord} (h : od ≠ .weak ∧ od ≠ .rlx) : 2 ≤ od.code := by
  obtain ⟨hweak, hrlx⟩ := h
  cases od
  · exact absurd rfl hweak
  · exact absurd rfl hrlx
  all_goals decide

theorem RedOp.ofCode32_code (op : RedOp) : RedOp.ofCode32 op.code = some op := by cases op <;> rfl

theorem RedOp.ofCode64_code {op : RedOp} (h : (RedOp.ofCode64 op.code).isSome) : RedOp.ofCode64 op.code = some op := by
  cases op
  case bfadd => exact absurd h (by decide)
  all_goals rfl

/-- The fields of RED: its operation, and its offset of 20 bits extended by its sign (R275). -/
theorem layout_red {d : Nat} {op : RedOp} {kb : RK} {scopes ords : List Nat} {hints : Nat} {m : MOp} (hd : d < 256)
    (hm : m.ok kb scopes ords hints) (hofs : m.ofs20) (hk : kb.Sound := by exact ⟨by decide, by decide⟩) :
    LayoutX (d * 1099511627776 + op.code * 268435456 + m.redCode) fun w => bits w 40 8 = d ∧ bits w 32 8 = m.base.code ∧
      bits w 28 4 = op.code ∧ bits w 5 3 = m.scope.code ∧ bits w 2 3 = m.ord.code ∧ MOp.ofRedWord w = m := by
  obtain ⟨hbase, -, -, -⟩ := hm
  have hb := RK.code_lt hbase hk
  have ho := m.ofs.isLt
  have hs := m.scope.code_lt
  have hor := m.ord.code_lt
  have hop := op.code_lt
  unfold MOp.ofs20 at hofs
  refine ⟨by unfold MOp.redCode; omega, fun w hw => ?_⟩
  unfold MOp.redCode at hw
  have h40 : bits w 40 8 = d := by unfold bits; omega
  have h32 : bits w 32 8 = m.base.code := by unfold bits; omega
  have h28 : bits w 28 4 = op.code := by unfold bits; omega
  have h8 : bits w 8 20 = m.ofs.toNat % 1048576 := by unfold bits; omega
  have h5 : bits w 5 3 = m.scope.code := by unfold bits; omega
  have h2 : bits w 2 3 = m.ord.code := by unfold bits; omega
  have h0 : bits w 0 2 = m.hint.val := by unfold bits; omega
  have hsign : (if m.ofs.toNat % 1048576 < 524288 then m.ofs.toNat % 1048576 else m.ofs.toNat % 1048576 + 15728640) =
      m.ofs.toNat := by split <;> omega
  refine ⟨h40, h32, h28, h5, h2, ?_⟩
  simp [MOp.ofRedWord, MOp.ofWord, h32, h8, h5, h2, h0, hsign, (RK.reads hbase hk).2]

/-- A word that names a system register (R438). -/
theorem roundTrips_sreg {g : Nat → Nat → Except DecodeErr Instr} {op : Nat} {mk : Head → Reg → BitVec 16 → Instr} {h : Head} {d : Reg}
    {r : BitVec 16} (hdec : ∀ w, g op w = decX w (bits w 0 24 = 0) ((SReg.info (bits w 24 16)).isSome)
      (SReg.okCodeB (bits w 24 16) (bits w 40 8)) fun h => mk h (Reg.ofCode (bits w 40 8)) (BitVec.ofNat 16 (bits w 24 16)))
    (hw : SReg.okFor r.toNat d)
    (henc : encode (mk h d r) = encX op h (d.code * 1099511627776 + r.toNat * 16777216) := by rfl)
    (hg : ∀ w, decodeAt op w = g op w := by exact fun _ => rfl) (hall : allocated op = true := by rfl) :
    RoundTrips (mk h d r) := by
  have hr := r.isLt
  unfold SReg.okFor at hw
  cases hinfo : SReg.info r.toNat with
  | none => rw [hinfo] at hw; exact hw.elim
  | some info =>
    rw [hinfo] at hw
    have hlt := RK.code_lt hw info.rk_sound
    refine roundTrips_x h hdec (P := fun w => bits w 40 8 = d.code ∧ bits w 24 16 = r.toNat ∧ bits w 0 24 = 0)
      ⟨by omega, fun w hw => by unfold bits; omega⟩ (fun w hb => ?_) henc hg hall
    simp [hb, SReg.okCodeB, hinfo, RK.reads hw info.rk_sound]

/-- KILLCREW, of a context or of a crew (R428). -/
theorem roundTrips_killcrew {h : Head} {ctx : Bool} {a : Reg} {b : OpB} (hw : (Instr.killcrew h ctx a b).wf) :
    RoundTrips (.killcrew h ctx a b) := by
  cases ctx with
  | true =>
    obtain ⟨rfl, rfl⟩ : a = .z ∧ b = .reg .z := hw
    refine roundTrips_encX (op := 0x1CB) (h := h) (rest := restR 0 0 (.reg (.v 0)) 0 1)
      (show encode (.killcrew h true .z (.reg .z)) = _ from encR_eq 0x1CB h 0 0 (.reg (.v 0)) 0 1) (by decide) rfl (by decide)
      fun w hw hh => ?_
    have h0 : bits w 0 1 = 1 := by simp only [restR, Reg.code] at hw; unfold bits; omega
    refine (decodeSys.eq_12 w).trans ?_
    simp only [h0, beq_self_eq_true, if_true]
    exact decR_eq hw hh fits_none.d fits_none.a fits_none.bc (by decide) rfl rfl
  | false =>
    have hw : RK.k64.ok a ∧ b.ok RK.k32 := hw
    have hf := fits_abI hw
    refine roundTrips_encX (op := 0x1CB) (h := h) (rest := restR 0 a.code b 0 0)
      (show encode (.killcrew h false a b) = _ from encR_eq 0x1CB h 0 a.code b 0 0) (by decide) rfl
      (restR_lt hf.d.lt hf.a.lt hf.bc (by decide)) fun w hw hh => ?_
    have hlow : w % 2 ^ 15 = 0 := by
      rw [← Nat.mod_mod_of_dvd w (pow_dvd_pow 2 (show 15 ≤ 48 by norm_num)), hw, restR_mod (by decide)]
    have h0 : bits w 0 1 = 0 := by unfold bits; omega
    refine (decodeSys.eq_12 w).trans ?_
    simp only [h0, show (0 == 1) = false from rfl, Bool.false_eq_true, if_false]
    exact decR_eq hw hh hf.d hf.a hf.bc (by decide) rfl rfl

/-- The integer words (R69) are read back. -/
theorem roundTrips_int {i : Instr} (hi : 0 ≤ i.ctorIdx ∧ i.ctorIdx < 64) (hw : i.wf) : RoundTrips i := by
  cases i with
  | addB32 => exact roundTrips_plain decodeInt.eq_1 (fits_dabI hw)
  | addB64 => exact roundTrips_plain decodeInt.eq_2 (fits_dabI hw)
  | add3B32 => exact roundTrips_plain decodeInt.eq_3 (fits_dabc hw)
  | addcB32 h pci pco cneg =>
    exact roundTrips_fields h decodeInt.eq_4 (fits_dabI hw) (layout_3_3_1 pci.isLt pco.isLt cneg.toNat_lt)
      (fun w hl => by simp [hl])
  | addsS32 => exact roundTrips_plain decodeInt.eq_5 (fits_dabI hw)
  | subB32 => exact roundTrips_plain decodeInt.eq_6 (fits_dabI hw)
  | subB64 => exact roundTrips_plain decodeInt.eq_7 (fits_dabI hw)
  | subcB32 h pci pco cneg =>
    exact roundTrips_fields h decodeInt.eq_8 (fits_dabI hw) (layout_3_3_1 pci.isLt pco.isLt cneg.toNat_lt)
      (fun w hl => by simp [hl])
  | subsS32 => exact roundTrips_plain decodeInt.eq_9 (fits_dabI hw)
  | mulB32 => exact roundTrips_plain decodeInt.eq_10 (fits_dabI hw)
  | mulB64 => exact roundTrips_plain decodeInt.eq_11 (fits_dabI hw)
  | mulhS32 => exact roundTrips_plain decodeInt.eq_12 (fits_dabI hw)
  | mulhZ32 => exact roundTrips_plain decodeInt.eq_13 (fits_dabI hw)
  | madB32 => exact roundTrips_plain decodeInt.eq_14 (fits_dabc hw)
  | madwS32 => exact roundTrips_plain decodeInt.eq_15 (fits_dabc hw)
  | madwZ32 => exact roundTrips_plain decodeInt.eq_16 (fits_dabc hw)
  | divS32 => exact roundTrips_plain decodeInt.eq_17 (fits_dabI hw)
  | divZ32 => exact roundTrips_plain decodeInt.eq_18 (fits_dabI hw)
  | divS64 => exact roundTrips_plain decodeInt.eq_19 (fits_dabI hw)
  | divZ64 => exact roundTrips_plain decodeInt.eq_20 (fits_dabI hw)
  | remS32 => exact roundTrips_plain decodeInt.eq_21 (fits_dabI hw)
  | remZ32 => exact roundTrips_plain decodeInt.eq_22 (fits_dabI hw)
  | minS32 => exact roundTrips_plain decodeInt.eq_23 (fits_dabI hw)
  | minZ32 => exact roundTrips_plain decodeInt.eq_24 (fits_dabI hw)
  | maxS32 => exact roundTrips_plain decodeInt.eq_25 (fits_dabI hw)
  | maxZ32 => exact roundTrips_plain decodeInt.eq_26 (fits_dabI hw)
  | clampS32 => exact roundTrips_plain decodeInt.eq_27 (fits_dabc hw)
  | clampZ32 => exact roundTrips_plain decodeInt.eq_28 (fits_dabc hw)
  | absS32 h sat =>
    exact roundTrips_fields h decodeInt.eq_29 (fits_da hw) (layout_sat sat.toNat_lt) (fun w hl => by simp [hl])
  | negS32 h sat =>
    exact roundTrips_fields h decodeInt.eq_30 (fits_da hw) (layout_sat sat.toNat_lt) (fun w hl => by simp [hl])
  | andB => exact roundTrips_plain decodeInt.eq_31 (fits_dabI hw)
  | orB => exact roundTrips_plain decodeInt.eq_32 (fits_dabI hw)
  | xorB => exact roundTrips_plain decodeInt.eq_33 (fits_dabI hw)
  | andn => exact roundTrips_plain decodeInt.eq_34 (fits_dabI hw)
  | notB => exact roundTrips_plain decodeInt.eq_35 (fits_da hw)
  | shlB32 => exact roundTrips_plain decodeInt.eq_36 (fits_dabI hw)
  | shlB64 => exact roundTrips_plain decodeInt.eq_37 (fits_dabI hw)
  | shrB32 => exact roundTrips_plain decodeInt.eq_38 (fits_dabI hw)
  | shrB64 => exact roundTrips_plain decodeInt.eq_39 (fits_dabI hw)
  | sarB32 => exact roundTrips_plain decodeInt.eq_40 (fits_dabI hw)
  | sarB64 => exact roundTrips_plain decodeInt.eq_41 (fits_dabI hw)
  | rotB32 h right =>
    exact roundTrips_fields h decodeInt.eq_42 (fits_dabI hw) (layout_low 1 right.toNat_lt) (fun w hl => by simp [hl])
  | fsh h right =>
    exact roundTrips_fields h decodeInt.eq_43 (fits_dabc hw) (layout_low 1 right.toNat_lt) (fun w hl => by simp [hl])
  | bfxS32 => exact roundTrips_plain decodeInt.eq_44 (fits_dabI hw)
  | bfxZ32 => exact roundTrips_plain decodeInt.eq_45 (fits_dabI hw)
  | bfi => exact roundTrips_plain decodeInt.eq_46 (fits_dabc hw)
  | bmsk => exact roundTrips_plain decodeInt.eq_47 (fits_dbI hw)
  | popc => exact roundTrips_plain decodeInt.eq_48 (fits_da hw)
  | clz => exact roundTrips_plain decodeInt.eq_49 (fits_da hw)
  | brev => exact roundTrips_plain decodeInt.eq_50 (fits_da hw)
  | bswz => exact roundTrips_plain decodeInt.eq_51 (fits_dabc hw)
  | sel h pc pneg =>
    exact roundTrips_fields h decodeInt.eq_52 (fits_dabI hw) (layout_3_1 pc.isLt pneg.toNat_lt) (fun w hl => by simp [hl])
  | icmpS32 h cmp pd =>
    exact roundTrips_fields h decodeInt.eq_53 (fits_dabI hw) (layout_3_3 (cmp.code_lt.trans (by decide)) pd.isLt)
      (fun w hl => by simp [hl, cmp.code_lt])
  | icmpZ32 h cmp pd =>
    exact roundTrips_fields h decodeInt.eq_54 (fits_dabI hw) (layout_3_3 (cmp.code_lt.trans (by decide)) pd.isLt)
      (fun w hl => by simp [hl, cmp.code_lt])
  | icmpS64 h cmp pd =>
    exact roundTrips_fields h decodeInt.eq_55 (fits_dabI hw) (layout_3_3 (cmp.code_lt.trans (by decide)) pd.isLt)
      (fun w hl => by simp [hl, cmp.code_lt])
  | icmpZ64 h cmp pd =>
    exact roundTrips_fields h decodeInt.eq_56 (fits_dabI hw) (layout_3_3 (cmp.code_lt.trans (by decide)) pd.isLt)
      (fun w hl => by simp [hl, cmp.code_lt])
  | idot4S8 h sat =>
    exact roundTrips_fields h decodeInt.eq_57 (fits_dabc hw) (layout_sat sat.toNat_lt) (fun w hl => by simp [hl])
  | idot4Z8 h sat =>
    exact roundTrips_fields h decodeInt.eq_58 (fits_dabc hw) (layout_sat sat.toNat_lt) (fun w hl => by simp [hl])
  | sad => exact roundTrips_plain decodeInt.eq_59 (fits_dabc hw)
  | lea h sh zx =>
    exact roundTrips_fields h decodeInt.eq_60 (fits_dabI hw) (layout_3_1 sh.isLt zx.toNat_lt) (fun w hl => by simp [hl])
  | mov h mw =>
    exact roundTrips_word h decodeInt.eq_61 (layout_low 2 (mw.code_lt.trans (by decide)))
      (fun w hb => by rw [hb, MovW.ofCode_code]; exact fits_da hw mw.rk_sound mw.rk_sound)
      (fun w hb => by simp [hb, mw.code_lt])
  | movi h md d imm =>
    have hlt := RK.code_lt hw md.rk_sound
    have hmd := md.code_lt
    exact roundTrips_x h decodeInt.eq_62 (rest := d.code * 1099511627776 + imm.toNat * 256 + md.code)
      (P := fun w => bits w 40 8 = d.code ∧ bits w 8 32 = imm.toNat ∧ bits w 2 6 = 0 ∧ bits w 0 2 = md.code)
      ⟨by omega, fun w hw => by unfold bits; omega⟩ (fun w hb => by simp [hb, hmd, RK.reads hw md.rk_sound])
  | movs h d r =>
    have hlt := RK.code_lt hw ⟨by decide, by decide⟩
    have hr := r.code_lt
    exact roundTrips_x h decodeInt.eq_63 (rest := d.code * 1099511627776 + r.code * 256)
      (P := fun w => bits w 40 8 = d.code ∧ bits w 8 32 = r.code ∧ bits w 0 8 = 0)
      ⟨by omega, fun w hw => by unfold bits; omega⟩ (fun w hb => by simp [hb, hr, RK.reads hw])
  | plop h pd pa pb pc lut =>
    refine roundTrips_encX (op := 0x03F) (h := h) rfl (by decide) rfl (by omega) fun w hw hh => ?_
    have himm : bits w 15 1 = 0 := by unfold bits; omega
    have hpreds : bits w 40 3 = pd.val ∧ bits w 32 3 = pa.val ∧ bits w 24 3 = pb.val ∧ bits w 16 3 = pc.val ∧
        bits w 0 8 = lut.toNat := by unfold bits; omega
    have hzero : bits w 43 5 = 0 ∧ bits w 35 5 = 0 ∧ bits w 27 5 = 0 ∧ bits w 19 5 = 0 ∧ bits w 8 7 = 0 := by unfold bits; omega
    exact (decodeInt.eq_64 w).trans (by simp [decX', decX, himm, hpreds, hzero, hh])
  | _ => exact absurd hi (of_decide_eq_false rfl)

/-- The floating-point words (R70) are read back. -/
theorem roundTrips_float {i : Instr} (hi : 64 ≤ i.ctorIdx ∧ i.ctorIdx < 120) (hw : i.wf) : RoundTrips i := by
  cases i with
  | faddF32 => exact roundTrips_mods decodeFloat.eq_1 hw.1 (fits_dabI hw.2)
  | faddF64 => exact roundTrips_mods decodeFloat.eq_2 hw.1 (fits_dabI hw.2)
  | faddF16x2 => exact roundTrips_mods decodeFloat.eq_3 hw.1 (fits_dabI hw.2)
  | faddBf16x2 => exact roundTrips_mods decodeFloat.eq_4 hw.1 (fits_dabI hw.2)
  | fmulF32 => exact roundTrips_mods decodeFloat.eq_5 hw.1 (fits_dabI hw.2)
  | fmulF64 => exact roundTrips_mods decodeFloat.eq_6 hw.1 (fits_dabI hw.2)
  | fmulF16x2 => exact roundTrips_mods decodeFloat.eq_7 hw.1 (fits_dabI hw.2)
  | fmulBf16x2 => exact roundTrips_mods decodeFloat.eq_8 hw.1 (fits_dabI hw.2)
  | ffmaF32 => exact roundTrips_mods decodeFloat.eq_9 hw.1 (fits_dabc hw.2)
  | ffmaF64 => exact roundTrips_mods decodeFloat.eq_10 hw.1 (fits_dabc hw.2)
  | ffmaF16x2 => exact roundTrips_mods decodeFloat.eq_11 hw.1 (fits_dabc hw.2)
  | ffmaBf16x2 => exact roundTrips_mods decodeFloat.eq_12 hw.1 (fits_dabc hw.2)
  | ffmaw => exact roundTrips_mods decodeFloat.eq_13 hw.1 (fits_dabc hw.2)
  | fdivF32 => exact roundTrips_mods decodeFloat.eq_14 hw.1 (fits_dabI hw.2)
  | fdivF64 => exact roundTrips_mods decodeFloat.eq_15 hw.1 (fits_dabI hw.2)
  | fsqrtF32 => exact roundTrips_mods decodeFloat.eq_16 hw.1 (fits_da hw.2)
  | fsqrtF64 => exact roundTrips_mods decodeFloat.eq_17 hw.1 (fits_da hw.2)
  | fminF32 => exact roundTrips_mods decodeFloat.eq_18 hw.1 (fits_dabI hw.2)
  | fminF64 => exact roundTrips_mods decodeFloat.eq_19 hw.1 (fits_dabI hw.2)
  | fmaxF32 => exact roundTrips_mods decodeFloat.eq_20 hw.1 (fits_dabI hw.2)
  | fmaxF64 => exact roundTrips_mods decodeFloat.eq_21 hw.1 (fits_dabI hw.2)
  | fmed3F32 => exact roundTrips_mods decodeFloat.eq_22 hw.1 (fits_dabc hw.2)
  | fmed3F64 => exact roundTrips_mods decodeFloat.eq_23 hw.1 (fits_dabc hw.2)
  | fcmpF32 h cmp pd ftz =>
    exact roundTrips_fields h decodeFloat.eq_24 (fits_dabI hw) (layout_4_3_ftz (cmp.code_lt.trans (by decide)) pd.isLt ftz.toNat_lt)
      (fun w hl => by simp [hl, cmp.code_lt])
  | fcmpF64 h cmp pd ftz =>
    exact roundTrips_fields h decodeFloat.eq_25 (fits_dabI hw) (layout_4_3_ftz (cmp.code_lt.trans (by decide)) pd.isLt ftz.toNat_lt)
      (fun w hl => by simp [hl, cmp.code_lt])
  | fcmpF16x2 h cmp pd pd1 ftz =>
    exact roundTrips_fields h decodeFloat.eq_26 (fits_dabI hw) (layout_4_3_3_ftz (cmp.code_lt.trans (by decide)) pd.isLt pd1.isLt ftz.toNat_lt)
      (fun w hl => by simp [hl, cmp.code_lt])
  | fcmpBf16x2 h cmp pd pd1 ftz =>
    exact roundTrips_fields h decodeFloat.eq_27 (fits_dabI hw) (layout_4_3_3_ftz (cmp.code_lt.trans (by decide)) pd.isLt pd1.isLt ftz.toNat_lt)
      (fun w hl => by simp [hl, cmp.code_lt])
  | fclassF32 h pd =>
    exact roundTrips_fields h decodeFloat.eq_28 (fits_dabI hw) (layout_low 3 pd.isLt) (fun w hl => by simp [hl])
  | fclassF64 h pd =>
    exact roundTrips_fields h decodeFloat.eq_29 (fits_dabI hw) (layout_low 3 pd.isLt) (fun w hl => by simp [hl])
  | frndF32 => exact roundTrips_mods decodeFloat.eq_30 hw.1 (fits_da hw.2)
  | frndF64 => exact roundTrips_mods decodeFloat.eq_31 hw.1 (fits_da hw.2)
  | fscaleF32 => exact roundTrips_mods decodeFloat.eq_32 hw.1 (fits_dabI hw.2)
  | fscaleF64 => exact roundTrips_mods decodeFloat.eq_33 hw.1 (fits_dabI hw.2)
  | fexpF32 h ftz =>
    exact roundTrips_fields h decodeFloat.eq_34 (fits_da hw) (layout_ftz ftz.toNat_lt) (fun w hl => by simp [hl])
  | fexpF64 h ftz =>
    exact roundTrips_fields h decodeFloat.eq_35 (fits_da hw) (layout_ftz ftz.toNat_lt) (fun w hl => by simp [hl])
  | sfnF32 h fn absA negA sat ftz =>
    exact roundTrips_fields h decodeFloat.eq_36 (fits_da hw) (layout_sfn fn.code_lt absA.toNat_lt negA.toNat_lt sat.toNat_lt ftz.toNat_lt)
      (fun w hl => by simp [hl])
  | sfnF64 h fn absA negA sat ftz =>
    exact roundTrips_fields h decodeFloat.eq_37 (fits_da hw) (layout_sfn fn.code_lt absA.toNat_lt negA.toNat_lt sat.toNat_lt ftz.toNat_lt)
      (fun w hl => by simp [hl])
  | fdot2Bf16 => exact roundTrips_mods decodeFloat.eq_38 hw.1 (fits_dabc hw.2)
  | ftsumF64 => exact roundTrips_mods decodeFloat.eq_39 hw.1 (fits_dab hw.2)
  | crelF32 h sat ftz =>
    exact roundTrips_fields h decodeFloat.eq_40 (fits_dab hw) (layout_sat_ftz sat.toNat_lt ftz.toNat_lt)
      (fun w hl => by simp [hl])
  | fcvtF32F64 => exact roundTrips_mods decodeFloat.eq_41 hw.1 (fits_da hw.2)
  | fcvtF64F32 => exact roundTrips_mods decodeFloat.eq_42 hw.1 (fits_da hw.2)
  | fcvtF32F16 h m half =>
    obtain ⟨hm, hw⟩ := hw
    exact roundTrips_fields h decodeFloat.eq_43 (fits_da hw) (layout_mods (x := half.toNat) hm (.inr ⟨half.toNat_lt, rfl⟩))
      (fun w hl => by simp [hl.1, hl.2 ⟨half.toNat_lt, rfl⟩])
  | fcvtF16x2F32 => exact roundTrips_mods decodeFloat.eq_44 hw.1 (fits_dab hw.2)
  | fcvtF32Bf16 h m half =>
    obtain ⟨hm, hw⟩ := hw
    exact roundTrips_fields h decodeFloat.eq_45 (fits_da hw) (layout_mods (x := half.toNat) hm (.inr ⟨half.toNat_lt, rfl⟩))
      (fun w hl => by simp [hl.1, hl.2 ⟨half.toNat_lt, rfl⟩])
  | fcvtBf16x2F32 => exact roundTrips_mods decodeFloat.eq_46 hw.1 (fits_dab hw.2)
  | fcvtS32F32 => exact roundTrips_mods decodeFloat.eq_47 hw.1 (fits_da hw.2)
  | fcvtZ32F32 => exact roundTrips_mods decodeFloat.eq_48 hw.1 (fits_da hw.2)
  | fcvtF32S32 => exact roundTrips_mods decodeFloat.eq_49 hw.1 (fits_da hw.2)
  | fcvtF32Z32 => exact roundTrips_mods decodeFloat.eq_50 hw.1 (fits_da hw.2)
  | fcvtS64F64 => exact roundTrips_mods decodeFloat.eq_51 hw.1 (fits_da hw.2)
  | fcvtZ64F64 => exact roundTrips_mods decodeFloat.eq_52 hw.1 (fits_da hw.2)
  | fcvtF64S64 => exact roundTrips_mods decodeFloat.eq_53 hw.1 (fits_da hw.2)
  | fcvtF64Z64 => exact roundTrips_mods decodeFloat.eq_54 hw.1 (fits_da hw.2)
  | fcvtS32F64 => exact roundTrips_mods decodeFloat.eq_55 hw.1 (fits_da hw.2)
  | fcvtF64S32 => exact roundTrips_mods decodeFloat.eq_56 hw.1 (fits_da hw.2)
  | _ => exact absurd hi (of_decide_eq_false rfl)

/-- The control and crew words (R71) are read back. -/
theorem roundTrips_crew {i : Instr} (hi : 120 ≤ i.ctorIdx ∧ i.ctorIdx < 163) (hw : i.wf) : RoundTrips i := by
  cases i with
  | bra => exact roundTrips_imm decodeCrew.eq_1
  | braCons => exact roundTrips_imm decodeCrew.eq_2
  | brx => exact roundTrips_plain decodeCrew.eq_3 (fits_a hw)
  | call => exact roundTrips_imm decodeCrew.eq_4
  | callx => exact roundTrips_plain decodeCrew.eq_5 (fits_a hw)
  | ret => exact roundTrips_plain decodeCrew.eq_6 fits_none
  | exit => exact roundTrips_plain decodeCrew.eq_7 fits_none
  | nop => exact roundTrips_plain decodeCrew.eq_8 fits_none
  | join => exact roundTrips_plain decodeCrew.eq_9 (fits_bI hw)
  | yield_ => exact roundTrips_plain decodeCrew.eq_10 fits_none
  | prio => exact roundTrips_plain decodeCrew.eq_11 (fits_bI hw)
  | dbnz h a wofs =>
    have hlt := RK.code_lt hw ⟨by decide, by decide⟩
    exact roundTrips_x h decodeCrew.eq_12 (rest := a.code * 1099511627776 + wofs.toNat * 256)
      (P := fun w => bits w 40 8 = a.code ∧ bits w 8 32 = wofs.toNat ∧ bits w 0 8 = 0)
      ⟨by omega, fun w hw => by unfold bits; omega⟩ (fun w hb => by simp [hb, RK.reads hw])
  | lxchAtB32 h sw pd =>
    exact roundTrips_fields h decodeCrew.eq_13 (fits_dabcI hw) (layout_3_3 (sw.isLt.trans (by decide)) pd.isLt)
      (fun w hl => by simp [hl])
  | lxchRotB32 h sw pd =>
    exact roundTrips_fields h decodeCrew.eq_14 (fits_dabcI hw) (layout_3_3 (sw.isLt.trans (by decide)) pd.isLt)
      (fun w hl => by simp [hl])
  | lxchDistB32 h sw pd =>
    exact roundTrips_fields h decodeCrew.eq_15 (fits_dabcI hw) (layout_3_3 (sw.isLt.trans (by decide)) pd.isLt)
      (fun w hl => by simp [hl])
  | lxchMirB32 h sw pd =>
    exact roundTrips_fields h decodeCrew.eq_16 (fits_dabcI hw) (layout_3_3 (sw.isLt.trans (by decide)) pd.isLt)
      (fun w hl => by simp [hl])
  | lxchAtB64 h sw pd =>
    exact roundTrips_fields h decodeCrew.eq_17 (fits_dabcI hw) (layout_3_3 (sw.isLt.trans (by decide)) pd.isLt)
      (fun w hl => by simp [hl])
  | lxchRotB64 h sw pd =>
    exact roundTrips_fields h decodeCrew.eq_18 (fits_dabcI hw) (layout_3_3 (sw.isLt.trans (by decide)) pd.isLt)
      (fun w hl => by simp [hl])
  | lxchDistB64 h sw pd =>
    exact roundTrips_fields h decodeCrew.eq_19 (fits_dabcI hw) (layout_3_3 (sw.isLt.trans (by decide)) pd.isLt)
      (fun w hl => by simp [hl])
  | lxchMirB64 h sw pd =>
    exact roundTrips_fields h decodeCrew.eq_20 (fits_dabcI hw) (layout_3_3 (sw.isLt.trans (by decide)) pd.isLt)
      (fun w hl => by simp [hl])
  | cpqAll h pci cneg pd =>
    exact roundTrips_fields h decodeCrew.eq_21 (fits_dc hw) (layout_3_1_3 pci.isLt cneg.toNat_lt pd.isLt)
      (fun w hl => by simp [hl])
  | cpqAny h pci cneg pd =>
    exact roundTrips_fields h decodeCrew.eq_22 (fits_dc hw) (layout_3_1_3 pci.isLt cneg.toNat_lt pd.isLt)
      (fun w hl => by simp [hl])
  | cpqSame h pci cneg pd =>
    exact roundTrips_fields h decodeCrew.eq_23 (fits_dc hw) (layout_3_1_3 pci.isLt cneg.toNat_lt pd.isLt)
      (fun w hl => by simp [hl])
  | cpqMask h pci cneg =>
    exact roundTrips_fields h decodeCrew.eq_24 (fits_dc hw) (layout_3_1 pci.isLt cneg.toNat_lt) (fun w hl => by simp [hl])
  | cpqNum h pci cneg =>
    exact roundTrips_fields h decodeCrew.eq_25 (fits_dc hw) (layout_3_1 pci.isLt cneg.toNat_lt) (fun w hl => by simp [hl])
  | vgrpPart => exact roundTrips_plain decodeCrew.eq_26 (fits_dac hw)
  | vgrpUni h pd =>
    exact roundTrips_fields h decodeCrew.eq_27 (fits_dac hw) (layout_low 3 pd.isLt) (fun w hl => by simp [hl])
  | credAddB32 => exact roundTrips_plain decodeCrew.eq_28 (fits_dac hw)
  | credMinS32 => exact roundTrips_plain decodeCrew.eq_29 (fits_dac hw)
  | credMinZ32 => exact roundTrips_plain decodeCrew.eq_30 (fits_dac hw)
  | credMaxS32 => exact roundTrips_plain decodeCrew.eq_31 (fits_dac hw)
  | credMaxZ32 => exact roundTrips_plain decodeCrew.eq_32 (fits_dac hw)
  | credAnd => exact roundTrips_plain decodeCrew.eq_33 (fits_dac hw)
  | credOr => exact roundTrips_plain decodeCrew.eq_34 (fits_dac hw)
  | credXor => exact roundTrips_plain decodeCrew.eq_35 (fits_dac hw)
  | credFaddF32 => exact roundTrips_plain decodeCrew.eq_36 (fits_dac hw)
  | credFminF32 => exact roundTrips_plain decodeCrew.eq_37 (fits_dac hw)
  | lead h pd =>
    exact roundTrips_fields h decodeCrew.eq_38 (fits_dc hw) (layout_low 3 pd.isLt) (fun w hl => by simp [hl])
  | memb => exact roundTrips_plain decodeCrew.eq_39 (fits_dc hw)
  | smov => exact roundTrips_plain decodeCrew.eq_40 (fits_dabI hw)
  | gang => exact roundTrips_plain decodeCrew.eq_41 (fits_bI hw)
  | psave => exact roundTrips_plain decodeCrew.eq_42 (fits_d hw)
  | pload => exact roundTrips_plain decodeCrew.eq_43 (fits_a hw)
  | _ => exact absurd hi (of_decide_eq_false rfl)

/-- The synchronisation words (R72) are read back. -/
theorem roundTrips_sync {i : Instr} (hi : 163 ≤ i.ctorIdx ∧ i.ctorIdx < 195) (hw : i.wf) : RoundTrips i := by
  cases i with
  | barSync h hn =>
    exact roundTrips_fields h decodeSync.eq_1 (fits_dbI hw) (layout_low 2 hn.isLt) (fun w hl => by simp [hl])
  | barArv h hn =>
    exact roundTrips_fields h decodeSync.eq_2 (fits_dbI hw) (layout_low 2 hn.isLt) (fun w hl => by simp [hl])
  | barArvc h hn =>
    exact roundTrips_fields h decodeSync.eq_3 (fits_dbI hw) (layout_low 2 hn.isLt) (fun w hl => by simp [hl])
  | barWait h hn =>
    exact roundTrips_fields h decodeSync.eq_4 (fits_dabI hw) (layout_low 2 hn.isLt) (fun w hl => by simp [hl])
  | barTry h hn =>
    exact roundTrips_fields h decodeSync.eq_5 (fits_dabI hw) (layout_low 2 hn.isLt) (fun w hl => by simp [hl])
  | barLeave h hn =>
    exact roundTrips_fields h decodeSync.eq_6 (fits_bI hw) (layout_low 2 hn.isLt) (fun w hl => by simp [hl])
  | barReset h hn =>
    exact roundTrips_fields h decodeSync.eq_7 fits_none (layout_low 2 hn.isLt) (fun w hl => by simp [hl])
  | bbar => exact roundTrips_plain decodeSync.eq_8 (fits_dbI hw)
  | grpq h hn sel =>
    exact roundTrips_fields h decodeSync.eq_9 (fits_d hw) (layout_2_2 hn.isLt sel.isLt) (fun w hl => by simp [hl])
  | stginit => exact roundTrips_obj decodeSync.eq_10 hw
  | stgowe => exact roundTrips_obj decodeSync.eq_11 hw
  | stgadd => exact roundTrips_obj decodeSync.eq_12 hw
  | stgarv => exact roundTrips_obj0 decodeSync.eq_13 hw
  | stgtry => exact roundTrips_obj decodeSync.eq_14 hw
  | stgwait => exact roundTrips_obj decodeSync.eq_15 hw
  | stginval => exact roundTrips_obj0 decodeSync.eq_16 hw
  | qinit => exact roundTrips_obj decodeSync.eq_17 hw
  | qpush => exact roundTrips_obj decodeSync.eq_18 hw
  | qpushW => exact roundTrips_obj decodeSync.eq_19 hw
  | qpop => exact roundTrips_obj decodeSync.eq_20 hw
  | qpopW => exact roundTrips_obj decodeSync.eq_21 hw
  | qtrypush => exact roundTrips_obj decodeSync.eq_22 hw
  | qtrypop => exact roundTrips_obj decodeSync.eq_23 hw
  | qpeek => exact roundTrips_obj decodeSync.eq_24 hw
  | qcount => exact roundTrips_obj decodeSync.eq_25 hw
  | qbreak => exact roundTrips_obj0 decodeSync.eq_26 hw
  | waitvAny => exact roundTrips_plain decodeSync.eq_27 (fits_dabc hw)
  | waitvAll => exact roundTrips_plain decodeSync.eq_28 (fits_dabc hw)
  | monitor h mn base ofs =>
    have hlt := RK.code_lt hw ⟨by decide, by decide⟩
    exact roundTrips_x h decodeSync.eq_29 (rest := mn.val * 1099511627776 + base.code * 4294967296 + ofs.toNat * 256)
      (P := fun w => bits w 41 7 = 0 ∧ bits w 40 1 = mn.val ∧ bits w 32 8 = base.code ∧
        bits w 8 24 = ofs.toNat ∧ bits w 0 8 = 0)
      ⟨by omega, fun w hw => by unfold bits; omega⟩ (fun w hb => by simp [hb, RK.reads hw])
  | unmonitor h mask =>
    exact roundTrips_fields h decodeSync.eq_30 fits_none (layout_low 2 mask.isLt) (fun w hl => by simp [hl])
  | montest => exact roundTrips_plain decodeSync.eq_31 (fits_d hw)
  | sleep => exact roundTrips_plain decodeSync.eq_32 (fits_bI hw)
  | _ => exact absurd hi (of_decide_eq_false rfl)

/-- The memory words (R73) are read back. -/
theorem roundTrips_memory {i : Instr} (hi : 195 ≤ i.ctorIdx ∧ i.ctorIdx < 255) (hw : i.wf) : RoundTrips i := by
  cases i with
  | ldS8 => exact roundTrips_mem decodeMem.eq_1 hw
  | ldZ8 => exact roundTrips_mem decodeMem.eq_2 hw
  | ldS16 => exact roundTrips_mem decodeMem.eq_3 hw
  | ldZ16 => exact roundTrips_mem decodeMem.eq_4 hw
  | ldB32 => exact roundTrips_mem decodeMem.eq_5 hw
  | ldB64 => exact roundTrips_mem decodeMem.eq_6 hw
  | ldB128 => exact roundTrips_mem decodeMem.eq_7 hw
  | stB8 => exact roundTrips_mem decodeMem.eq_8 hw
  | stB16 => exact roundTrips_mem decodeMem.eq_9 hw
  | stB32 => exact roundTrips_mem decodeMem.eq_10 hw
  | stB64 => exact roundTrips_mem decodeMem.eq_11 hw
  | stB128 => exact roundTrips_mem decodeMem.eq_12 hw
  | ldsS8 => exact roundTrips_mem decodeMem.eq_13 hw
  | ldsZ8 => exact roundTrips_mem decodeMem.eq_14 hw
  | ldsS16 => exact roundTrips_mem decodeMem.eq_15 hw
  | ldsZ16 => exact roundTrips_mem decodeMem.eq_16 hw
  | ldsB32 => exact roundTrips_mem decodeMem.eq_17 hw
  | ldsB64 => exact roundTrips_mem decodeMem.eq_18 hw
  | ldsB128 => exact roundTrips_mem decodeMem.eq_19 hw
  | stsB8 => exact roundTrips_mem decodeMem.eq_20 hw
  | stsB16 => exact roundTrips_mem decodeMem.eq_21 hw
  | stsB32 => exact roundTrips_mem decodeMem.eq_22 hw
  | stsB64 => exact roundTrips_mem decodeMem.eq_23 hw
  | stsB128 => exact roundTrips_mem decodeMem.eq_24 hw
  | ldxB32 => exact roundTrips_mem decodeMem.eq_25 hw
  | ldxB64 => exact roundTrips_mem decodeMem.eq_26 hw
  | ldxB128 => exact roundTrips_mem decodeMem.eq_27 hw
  | stxB32 => exact roundTrips_mem decodeMem.eq_28 hw
  | stxB64 => exact roundTrips_mem decodeMem.eq_29 hw
  | stxB128 => exact roundTrips_mem decodeMem.eq_30 hw
  | ldcB32 => exact roundTrips_mem decodeMem.eq_31 hw
  | ldcB64 => exact roundTrips_mem decodeMem.eq_32 hw
  | atomAddB32 => exact roundTrips_mem decodeMem.eq_33 hw
  | atomAddB64 => exact roundTrips_mem decodeMem.eq_34 hw
  | atomFaddF32 => exact roundTrips_mem decodeMem.eq_35 hw
  | atomFaddF64 => exact roundTrips_mem decodeMem.eq_36 hw
  | atomFaddBf16x2 => exact roundTrips_mem decodeMem.eq_37 hw
  | atomMinS32 => exact roundTrips_mem decodeMem.eq_38 hw
  | atomMinZ32 => exact roundTrips_mem decodeMem.eq_39 hw
  | atomMaxS32 => exact roundTrips_mem decodeMem.eq_40 hw
  | atomMaxZ32 => exact roundTrips_mem decodeMem.eq_41 hw
  | atomAndB32 => exact roundTrips_mem decodeMem.eq_42 hw
  | atomOrB32 => exact roundTrips_mem decodeMem.eq_43 hw
  | atomXorB32 => exact roundTrips_mem decodeMem.eq_44 hw
  | atomExchB32 => exact roundTrips_mem decodeMem.eq_45 hw
  | atomExchB64 => exact roundTrips_mem decodeMem.eq_46 hw
  | casB32 => exact roundTrips_mem decodeMem.eq_47 hw
  | casB64 => exact roundTrips_mem decodeMem.eq_48 hw
  | casB128 => exact roundTrips_mem decodeMem.eq_49 hw
  | redB32 h op d m =>
    obtain ⟨hd, ⟨hbase, hscope, hord, hhint⟩, hofs, hop⟩ := hw
    have hlay := layout_red (op := op) (RK.code_lt hd ⟨by decide, by decide⟩) ⟨hbase, hscope, hord, hhint⟩ hofs
    exact roundTrips_x h decodeMem.eq_50 hlay
      (fun w hb => by simp [-List.mem_cons, hb, hscope, hord, op.ofCode32_code, RK.reads hd, RK.reads hbase])
  | redB64 h op d m =>
    obtain ⟨hd, ⟨hbase, hscope, hord, hhint⟩, hofs, hop⟩ := hw
    have hlay := layout_red (op := op) (RK.code_lt hd ⟨by decide, by decide⟩) ⟨hbase, hscope, hord, hhint⟩ hofs
    exact roundTrips_x h decodeMem.eq_51 hlay
      (fun w hb => by simp [-List.mem_cons, hb, hscope, hord, RedOp.ofCode64_code hop, RK.reads hd, RK.reads hbase])
  | atomsAddB32 => exact roundTrips_mem decodeMem.eq_52 hw
  | atomsCasB32 => exact roundTrips_mem decodeMem.eq_53 hw
  | atomsFaddF32 => exact roundTrips_mem decodeMem.eq_54 hw
  | mcas => exact roundTrips_mem decodeMem.eq_55 hw
  | fence h sc od strict =>
    have hsc := sc.code_lt
    have hod := od.code_lt
    have hst := strict.toNat_lt
    have hod2 : 2 ≤ od.code := od.two_le_code hw
    exact roundTrips_x h decodeMem.eq_56 (rest := sc.code * 32 + od.code * 4 + strict.toNat)
      (P := fun w => bits w 8 40 = 0 ∧ bits w 5 3 = sc.code ∧ bits w 2 3 = od.code ∧ bits w 1 1 = 0 ∧
        bits w 0 1 = strict.toNat)
      ⟨by omega, fun w hw => by unfold bits; omega⟩ (fun w hb => by simp [hb, hsc, hod, hod2])
  | cctl h inv pg m =>
    obtain ⟨hbase, hscope, hord, hhint⟩ := hw
    have hinv := inv.toNat_lt
    have hpg := pg.toNat_lt
    have hcode := m.code_lt hbase ⟨by decide, by decide⟩
    have hlay := layout_mop (x := inv.toNat + pg.toNat * 4) (by omega) ⟨hbase, hscope, hord, hhint⟩ ⟨by decide, by decide⟩
    exact roundTrips_x h decodeMem.eq_57 (rest := inv.toNat * 1099511627776 + pg.toNat * 4398046511104 + m.code)
      (P := fun w => bits w 43 5 = 0 ∧ bits w 42 1 = pg.toNat ∧ bits w 40 2 = inv.toNat ∧
        bits w 40 1 = inv.toNat ∧ bits w 32 8 = m.base.code ∧ bits w 5 3 = m.scope.code ∧ bits w 2 3 = m.ord.code ∧
        bits w 0 2 = m.hint.val ∧ MOp.ofWord w = m)
      ⟨by omega, fun w hw => by
        obtain ⟨h40, hrest⟩ := hlay.2 w (by rw [hw]; omega)
        refine ⟨?_, ?_, ?_, ?_, hrest⟩ <;> unfold bits at h40 ⊢ <;> omega⟩
      (fun w hb => by simp [hb, m.scope.code_lt, List.mem_singleton.1 hord, Nat.lt_one_iff.1 hhint, hinv, RK.reads hbase])
  | pref h m =>
    obtain ⟨hbase, hscope, hord, hhint⟩ := hw
    refine roundTrips_x h decodeMem.eq_58 (layout_mop (x := 0) (by decide) ⟨hbase, hscope, hord, hhint⟩ ⟨by decide, by decide⟩)
      (fun w hb => by simp [hb, List.mem_singleton.1 hscope, List.mem_singleton.1 hord, RK.reads hbase]) ?_
    rw [zero_mul, zero_add]
    rfl
  | ptst h pd mw =>
    exact roundTrips_word h decodeMem.eq_59 (layout_3_2 pd.isLt (mw.code_lt.trans (by decide)))
      (fun w hb => by rw [hb.2, MovW.ofCode_code]; exact fits_a hw mw.rkV_sound)
      (fun w hb => by simp [hb, mw.code_lt])
  | pclr h mw =>
    exact roundTrips_word h decodeMem.eq_60 (layout_gap3_2 (mw.code_lt.trans (by decide)))
      (fun w hb => by rw [hb, MovW.ofCode_code]; exact fits_a hw mw.rkV_sound)
      (fun w hb => by simp [hb, mw.code_lt])
  | _ => exact absurd hi (of_decide_eq_false rfl)

/-- The engine and matrix words (R74) are read back. -/
theorem roundTrips_engine {i : Instr} (hi : 255 ≤ i.ctorIdx ∧ i.ctorIdx < 278) (hw : i.wf) : RoundTrips i := by
  cases i with
  | push h q src pd =>
    have hlt := RK.code_lt hw ⟨by decide, by decide⟩
    refine roundTrips_encX (op := 0x140) (h := h) rfl (by decide) rfl (by omega) fun w hw' hh => ?_
    have hq : bits w 44 4 = q.val := by unfold bits; omega
    have hsrc : bits w 32 8 = src.code := by unfold bits; omega
    have hpd : bits w 0 3 = pd.val := by unfold bits; omega
    have hzero : bits w 40 4 = 0 ∧ bits w 3 29 = 0 := by unfold bits; omega
    exact (decodeEngine.eq_1 w).trans (by simp [decX, hq, hsrc, hpd, hzero, hh, RK.reads hw, Except.bind])
  | mmaF64 => exact roundTrips_mma decodeEngine.eq_2 hw
  | mmaF32 => exact roundTrips_mma decodeEngine.eq_3 hw
  | mmaBf16 => exact roundTrips_mma decodeEngine.eq_4 hw
  | mmaF16 => exact roundTrips_mma decodeEngine.eq_5 hw
  | mmaE4m3 => exact roundTrips_mmaHalf decodeEngine.eq_6 hw
  | mmaE5m2 => exact roundTrips_mmaHalf decodeEngine.eq_7 hw
  | mmaE2m1 => exact roundTrips_mmaScaled decodeEngine.eq_8 hw
  | mmaBx8 => exact roundTrips_mmaScaled decodeEngine.eq_9 hw
  | mmaBx4 => exact roundTrips_mmaScaled decodeEngine.eq_10 hw
  | mmaS8 => exact roundTrips_mma decodeEngine.eq_11 hw
  | mmaS4 => exact roundTrips_mma decodeEngine.eq_12 hw
  | mzero h acc w64 =>
    have hw64 := w64.toNat_lt
    exact roundTrips_x h decodeEngine.eq_13 (rest := acc.val * 128 + w64.toNat * 64)
      (P := fun w => bits w 16 32 = 0 ∧ bits w 7 9 = acc.val ∧ bits w 6 1 = w64.toNat ∧ bits w 0 6 = 0)
      ⟨by omega, fun w hw => by unfold bits; omega⟩ (fun w hb => by simp [hb])
  | mdrainF32 => exact roundTrips_mdrain decodeEngine.eq_14 hw
  | mdrainF64 => exact roundTrips_mdrain decodeEngine.eq_15 hw
  | mdrainBf16 => exact roundTrips_mdrain decodeEngine.eq_16 hw
  | mdrainF16 => exact roundTrips_mdrain decodeEngine.eq_17 hw
  | mload h sd acc w64 =>
    have hw64 := w64.toNat_lt
    have hlt := RK.code_lt hw ⟨by decide, by decide⟩
    exact roundTrips_x h decodeEngine.eq_18 (rest := sd.code * 1099511627776 + acc.val * 128 + w64.toNat * 64)
      (P := fun w => bits w 40 8 = sd.code ∧ bits w 16 24 = 0 ∧ bits w 7 9 = acc.val ∧
        bits w 6 1 = w64.toNat ∧ bits w 0 6 = 0)
      ⟨by omega, fun w hw => by unfold bits; omega⟩ (fun w hb => by simp [hb, RK.reads hw])
  | mstore h sd ss acc w64 =>
    obtain ⟨hd, hs⟩ := hw
    have hw64 := w64.toNat_lt
    have hdlt := RK.code_lt hd ⟨by decide, by decide⟩
    have hslt := RK.code_lt hs ⟨by decide, by decide⟩
    exact roundTrips_x h decodeEngine.eq_19 (rest := sd.code * 1099511627776 + ss.code * 4294967296 + acc.val * 128 + w64.toNat * 64)
      (P := fun w => bits w 40 8 = sd.code ∧ bits w 32 8 = ss.code ∧ bits w 16 16 = 0 ∧
        bits w 7 9 = acc.val ∧ bits w 6 1 = w64.toNat ∧ bits w 0 6 = 0)
      ⟨by omega, fun w hw => by unfold bits; omega⟩ (fun w hb => by simp [hb, RK.reads hd, RK.reads hs])
  | mscl h vs acc w64 =>
    have hw64 := w64.toNat_lt
    have hlt := RK.code_lt hw ⟨by decide, by decide⟩
    exact roundTrips_x h decodeEngine.eq_20 (rest := vs.code * 16777216 + acc.val * 128 + w64.toNat * 64)
      (P := fun w => bits w 32 16 = 0 ∧ bits w 24 8 = vs.code ∧ bits w 16 8 = 0 ∧ bits w 7 9 = acc.val ∧
        bits w 6 1 = w64.toNat ∧ bits w 0 6 = 0)
      ⟨by omega, fun w hw => by unfold bits; omega⟩ (fun w hb => by simp [hb, RK.reads hw])
  | maddc h vt acc w64 =>
    have hw64 := w64.toNat_lt
    have hlt := RK.code_lt hw ⟨by decide, by decide⟩
    exact roundTrips_x h decodeEngine.eq_21 (rest := vt.code * 65536 + acc.val * 128 + w64.toNat * 64)
      (P := fun w => bits w 24 24 = 0 ∧ bits w 16 8 = vt.code ∧ bits w 7 9 = acc.val ∧
        bits w 6 1 = w64.toNat ∧ bits w 0 6 = 0)
      ⟨by omega, fun w hw => by unfold bits; omega⟩ (fun w hb => by simp [hb, RK.reads hw])
  | mcopy h acc src w64 =>
    have hw64 := w64.toNat_lt
    exact roundTrips_x h decodeEngine.eq_22 (rest := src.val * 4294967296 + acc.val * 128 + w64.toNat * 64)
      (P := fun w => bits w 41 7 = 0 ∧ bits w 32 9 = src.val ∧ bits w 16 16 = 0 ∧ bits w 7 9 = acc.val ∧
        bits w 6 1 = w64.toNat ∧ bits w 0 6 = 0)
      ⟨by omega, fun w hw => by unfold bits; omega⟩ (fun w hb => by simp [hb])
  | mstat h d acc w64 =>
    have hw64 := w64.toNat_lt
    have hlt := RK.code_lt hw ⟨by decide, by decide⟩
    exact roundTrips_x h decodeEngine.eq_23 (rest := d.code * 1099511627776 + acc.val * 128 + w64.toNat * 64)
      (P := fun w => bits w 40 8 = d.code ∧ bits w 16 24 = 0 ∧ bits w 7 9 = acc.val ∧
        bits w 6 1 = w64.toNat ∧ bits w 0 6 = 0)
      ⟨by omega, fun w hw => by unfold bits; omega⟩ (fun w hb => by simp [hb, RK.reads hw])
  | _ => exact absurd hi (of_decide_eq_false rfl)

/-- The graphics words (R75) are read back. -/
theorem roundTrips_gfx {i : Instr} (hi : 278 ≤ i.ctorIdx ∧ i.ctorIdx < 301) (hw : i.wf) : RoundTrips i := by
  cases i with
  | sldP h w64 =>
    exact roundTrips_word h decodeGfx.eq_1 (layout_low 1 w64.toNat_lt)
      (fun w hb => by rw [hb, toNat_beq_one]; exact fits_dab hw (RK.kw_sound w64)) (fun w hb => by simp [hb])
  | sldQ => exact roundTrips_plain decodeGfx.eq_2 (fits_dab hw)
  | sldB => exact roundTrips_plain decodeGfx.eq_3 (fits_dab hw)
  | sldD h pd =>
    exact roundTrips_fields h decodeGfx.eq_4 (fits_dabc hw) (layout_low 3 pd.isLt) (fun w hl => by simp [hl])
  | sstP h w64 =>
    exact roundTrips_word h decodeGfx.eq_5 (layout_low 1 w64.toNat_lt)
      (fun w hb => by rw [hb, toNat_beq_one]; exact fits_abc hw (hc := RK.kw_sound w64)) (fun w hb => by simp [hb])
  | sstQ => exact roundTrips_plain decodeGfx.eq_6 (fits_abc hw)
  | sstB => exact roundTrips_plain decodeGfx.eq_7 (fits_abc hw)
  | sstM h w64 mask =>
    exact roundTrips_word h decodeGfx.eq_8 (layout_1_4 w64.toNat_lt mask.isLt)
      (fun w hb => by rw [hb.1, toNat_beq_one]; exact fits_abc hw (hc := RK.kw_sound w64)) (fun w hb => by simp [hb])
  | scoef h k ch =>
    exact roundTrips_fields h decodeGfx.eq_9 (fits_abc hw) (layout_4_2 k.isLt ch.isLt) (fun w hl => by simp [hl])
  | scoefB h g ch =>
    exact roundTrips_fields h decodeGfx.eq_10 (fits_abc hw) (layout_2_gap2_2 g.isLt ch.isLt) (fun w hl => by simp [hl])
  | smv => exact roundTrips_plain decodeGfx.eq_11 (fits_abc hw)
  | sref h r =>
    exact roundTrips_fields h decodeGfx.eq_12 (fits_ab hw) (layout_low 2 r.isLt) (fun w hl => by simp [hl])
  | srate => exact roundTrips_plain decodeGfx.eq_13 (fits_abc hw)
  | sanchor h w64 =>
    exact roundTrips_word h decodeGfx.eq_14 (layout_low 1 w64.toNat_lt)
      (fun w hb => by rw [hb, toNat_beq_one]; exact fits_abc hw (hc := RK.kw_sound w64)) (fun w hb => by simp [hb])
  | sqry h sel =>
    exact roundTrips_fields h decodeGfx.eq_15 (fits_dab hw) (layout_low 3 (sel.isLt.trans (by decide)))
      (fun w hl => by simp [hl])
  | sflush => exact roundTrips_plain decodeGfx.eq_16 (fits_a hw)
  | srel => exact roundTrips_plain decodeGfx.eq_17 (fits_a hw)
  | trix h pd =>
    exact roundTrips_fields h decodeGfx.eq_18 (fits_dab hw) (layout_low 3 pd.isLt) (fun w hl => by simp [hl])
  | trixD h pd =>
    exact roundTrips_fields h decodeGfx.eq_19 (fits_dabc hw) (layout_low 3 pd.isLt) (fun w hl => by simp [hl])
  | triw => exact roundTrips_mods decodeGfx.eq_20 hw.1 (fits_dab hw.2)
  | box12 h k pd =>
    exact roundTrips_fields h decodeGfx.eq_21 (fits_dabc hw) (layout_3_3 k.isLt pd.isLt) (fun w hl => by simp [hl])
  | box12x4 h hf pd =>
    exact roundTrips_fields h decodeGfx.eq_22 (fits_dabc hw) (layout_1_gap2_3 hf.toNat_lt pd.isLt) (fun w hl => by simp [hl])
  | nodex h k pd =>
    exact roundTrips_fields h decodeGfx.eq_23 (fits_dab hw) (layout_3_3 k.isLt pd.isLt) (fun w hl => by simp [hl])
  | _ => exact absurd hi (of_decide_eq_false rfl)

/-- The system words (R76) are read back. -/
theorem roundTrips_sys {i : Instr} (hi : 301 ≤ i.ctorIdx ∧ i.ctorIdx < 320) (hw : i.wf) : RoundTrips i := by
  cases i with
  | trap => exact roundTrips_imm decodeSys.eq_1
  | brk => exact roundTrips_imm decodeSys.eq_2
  | rte h nxt =>
    exact roundTrips_fields h decodeSys.eq_3 (fits_abI hw) (layout_low 1 nxt.toNat_lt) (fun w hl => by simp [hl])
  | rteStep h nxt =>
    exact roundTrips_fields h decodeSys.eq_4 (fits_abI hw) (layout_low 1 nxt.toNat_lt) (fun w hl => by simp [hl])
  | sysr h d r => exact roundTrips_sreg decodeSys.eq_5 hw
  | sysw h d r => exact roundTrips_sreg decodeSys.eq_6 hw
  | iinv => exact roundTrips_plain decodeSys.eq_7 (fits_abI hw)
  | time => exact roundTrips_plain decodeSys.eq_8 (fits_d hw)
  | dbgmb => exact roundTrips_plain decodeSys.eq_9 (fits_abcI hw)
  | suspend => exact roundTrips_plain decodeSys.eq_10 (fits_abI hw)
  | resume => exact roundTrips_plain decodeSys.eq_11 (fits_abI hw)
  | trec h pd =>
    exact roundTrips_fields h decodeSys.eq_13 (fits_d hw) (layout_low 3 pd.isLt) (fun w hl => by simp [hl])
  | jrnl h roll =>
    exact roundTrips_fields h decodeSys.eq_14 (fits_a hw) (layout_low 1 roll.toNat_lt) (fun w hl => by simp [hl])
  | wdog h hn ofBillet =>
    obtain ⟨ha, hb, hz⟩ := hw
    exact roundTrips_fields h decodeSys.eq_15 (fits_ab ⟨ha, hb⟩) (layout_2_1 hn.isLt ofBillet.toNat_lt)
      (fun w hl => by cases ofBillet <;> simp [hl]; exact hz rfl)
  | irq => exact roundTrips_plain decodeSys.eq_16 (fits_bI hw)
  | perfr => exact roundTrips_plain decodeSys.eq_17 (fits_dbI hw)
  | errinj => exact roundTrips_plain decodeSys.eq_18 (fits_ab hw)
  | halt => exact roundTrips_plain decodeSys.eq_19 fits_none
  | killcrew h ctx a b => exact roundTrips_killcrew hw
  | _ => exact absurd hi (of_decide_eq_false rfl)

/-- A word of no instruction is read back as the opcode that it has (R67). -/
theorem roundTrips_unallocated {op : Fin 512} (hw : (Instr.unallocatedOpcode op).wf) : RoundTrips (.unallocatedOpcode op) := by
  have hop : bits (encode (.unallocatedOpcode op)) 55 9 = op.val := by
    show bits (op.val * 36028797018963968) 55 9 = op.val
    unfold bits; omega
  have hdc : bits (encode (.unallocatedOpcode op)) 48 3 = 0 := by
    show bits (op.val * 36028797018963968) 48 3 = 0
    unfold bits; omega
  have hall : allocated op.val = false := hw
  refine ⟨?_, ?_⟩
  · show op.val * 36028797018963968 < 2 ^ 64
    omega
  · simp [decode, hop, hdc, hall]

/-- The words of the instruction set are its first 320 instructions, and those of no instruction. -/
theorem isWord_eq (i : Instr) : i.isWord = (decide (i.ctorIdx < 320) || decide (i.ctorIdx = 413)) := by cases i <;> rfl

theorem eq_unallocated {i : Instr} (h : i.ctorIdx = 413) : ∃ op, i = .unallocatedOpcode op := by
  cases i with
  | unallocatedOpcode op => exact ⟨op, rfl⟩
  | _ => exact absurd h (of_decide_eq_false rfl)

/-- Settles O52: group by group of the opcode map. -/
theorem decodeOfEncode : Obligations.DecodeOfEncode := by
  intro i hword hw
  rw [isWord_eq, Bool.or_eq_true, decide_eq_true_eq, decide_eq_true_eq] at hword
  rcases hword with hlt | hun
  · by_cases h1 : i.ctorIdx < 64
    · exact roundTrips_int ⟨Nat.zero_le _, h1⟩ hw
    by_cases h2 : i.ctorIdx < 120
    · exact roundTrips_float ⟨Nat.not_lt.1 h1, h2⟩ hw
    by_cases h3 : i.ctorIdx < 163
    · exact roundTrips_crew ⟨Nat.not_lt.1 h2, h3⟩ hw
    by_cases h4 : i.ctorIdx < 195
    · exact roundTrips_sync ⟨Nat.not_lt.1 h3, h4⟩ hw
    by_cases h5 : i.ctorIdx < 255
    · exact roundTrips_memory ⟨Nat.not_lt.1 h4, h5⟩ hw
    by_cases h6 : i.ctorIdx < 278
    · exact roundTrips_engine ⟨Nat.not_lt.1 h5, h6⟩ hw
    by_cases h7 : i.ctorIdx < 301
    · exact roundTrips_gfx ⟨Nat.not_lt.1 h6, h7⟩ hw
    · exact roundTrips_sys ⟨Nat.not_lt.1 h7, hlt⟩ hw
  · obtain ⟨op, rfl⟩ := eq_unallocated hun
    exact roundTrips_unallocated hw

end Sys2Proof
end

section
/-!
SUPPORT. Control words whose lanes all go on (R144 to R149, R203): transfers, returns, loops, joins, and the words on the
predicate file.
-/
namespace Sys2Proof.Machine

-- One theorem at a time: elaborating them side by side costs a thread stack each, and the text compiles under a memory limit.
set_option Elab.async false

/-! Transfers that no lane's target stops. -/

theorem transferTrap_none_of_canonical {a : W64} (h : canonical a.toNat = true) : transferTrap a false = none := by
  simp [transferTrap, h]

theorem transferTrap_none_of_goodTarget {s : State} {u : Nat} {a : Reg} (h : goodTarget s u a = true) :
    transferTrap (s.r64 u a) true = none := by
  simp only [goodTarget, Bool.and_eq_true] at h
  obtain ⟨⟨hcan, halign⟩, -⟩ := h
  have hlow : ¬ (s.r64 u a).toNat % 8 ≠ 0 := by
    rw [← low3_ne_zero_iff]
    simpa using halign
  simp [transferTrap, hcan, hlow]

theorem not_isPoisoned_of_goodTarget {s : State} {u : Nat} {a : Reg} (h : goodTarget s u a = true) :
    s.isPoisoned u [(a, 2)] = false := by
  simp only [goodTarget, Bool.and_eq_true, Bool.not_eq_true'] at h
  exact h.2

/-- A transfer word whose targets all pass moves every lane. -/
theorem does_of_transfers {i : Instr} {h : Head} {cls : Cls → Bool} {regs : List (Reg × Nat)} {fromReg : Bool}
    {tgt : State → Bundle → Nat → W64} {okLane : State → Nat → Bool} {go : State → Bundle → State → Nat → State}
    {ok : State → Bundle → List Nat → Bool} (ht : Transfers i h regs fromReg tgt okLane go)
    (hok : ∀ s x ts, ok s x ts = true → ∀ u ∈ ts, okLane s u = true ∧ transferTrap (tgt s x u) fromReg = none) :
    Does i h cls regs ok fun s x ts => each (go s x) s ts := by
  intro s b x hI _ hf hall
  have hlanes := hok s x _ hall
  obtain ⟨hgood, htraps⟩ := lanes_all_pass fun u hu => (hlanes u hu).2
  have hgo := ht s b x hI hf (List.all_eq_true.2 fun u hu => (hlanes u hu).1)
  simp only [hgood, htraps] at hgo
  exact hgo

/-- BRA.CONS: a crew of which every thread of the bundle acts, or none, does not raise MASKDIS (R203). -/
theorem not_split_of_whole_crews {tids ts : List Nat}
    (h : (tids.all fun u => ts.contains u || ts.all fun v => crewOf v != crewOf u) = true) {t : Nat} (ht : t ∈ ts) :
    (tids.any fun u => crewOf u == crewOf t && !ts.contains u) = false := by
  refine List.any_eq_false.2 fun u hu hsplit => ?_
  obtain ⟨hcrew, hout⟩ := Bool.and_eq_true_iff.1 hsplit
  rcases Bool.or_eq_true_iff.1 (List.all_eq_true.1 h u hu) with hin | hother
  · rw [hin] at hout
    exact absurd hout (by decide)
  · have hne := List.all_eq_true.1 hother t ht
    rw [beq_iff_eq] at hcrew
    simp [hcrew] at hne

theorem braCons_does (h : Head) (wofs : BitVec 32) : Does (.braCons h wofs) h anyCls []
    (fun _ x ts => canonical (branchTo x wofs).toNat && x.tids.all fun u => ts.contains u ||
      ts.all fun v => crewOf v != crewOf u)
    fun s x ts => each (goes (branchTo x wofs)) s ts := by
  refine does_of (a := { group := 2 }) (fun _ => rfl) (fun _ _ => rfl) rfl
    (fun _ _ _ hI _ => stalls_plain hI (.inl rfl) rfl rfl) rfl fun s b x hI hok => ?_
  obtain ⟨hcan, hwhole⟩ := Bool.and_eq_true_iff.1 hok
  obtain ⟨hgood, htraps⟩ := lanes_all_pass (ts := activeOf s x h) fun _ _ => transferTrap_none_of_canonical hcan
  simp only [curBundle_eq hI, Option.map_some, Option.getD_some]
  rw [branchLanes_eq (fun _ => branchTo x wofs) false ?_ fun _ => by rw [curClause_eq hI, wofsTarget_eq_branchTo],
    foldl_transferStep, hgood, htraps]
  · rfl
  · intro t ht
    rw [not_split_of_whole_crews hwhole ht]
    rfl

/-- Settles O12: the words are the transfers of O57 where every lane passes its checks; BRA.CONS also splits no crew. -/
theorem branchesAndCalls : Obligations.BranchesAndCalls := by
  refine ⟨?bra, braCons_does, ?brx, ?call, ?callx⟩
  case bra => exact fun h wofs => does_of_transfers (bra_transfers h wofs) fun _ _ _ hok _ _ =>
    ⟨rfl, transferTrap_none_of_canonical hok⟩
  case brx =>
    refine fun h a => does_of_transfers (brx_transfers h a) fun s _ _ hok u hu => ?_
    have hgood := List.all_eq_true.1 hok u hu
    exact ⟨by simp [not_isPoisoned_of_goodTarget hgood], transferTrap_none_of_goodTarget hgood⟩
  case call =>
    refine fun h wofs => does_of_transfers (call_transfers h wofs) fun s _ _ hok u hu => ?_
    obtain ⟨hcan, hroom⟩ := Bool.and_eq_true_iff.1 hok
    exact ⟨List.all_eq_true.1 hroom u hu, transferTrap_none_of_canonical hcan⟩
  case callx =>
    refine fun h a => does_of_transfers (callx_transfers h a) fun s _ _ hok u hu => ?_
    obtain ⟨hgood, hroom⟩ := Bool.and_eq_true_iff.1 (List.all_eq_true.1 hok u hu)
    exact ⟨by simp [not_isPoisoned_of_goodTarget hgood, hroom], transferTrap_none_of_goodTarget hgood⟩

/-! Returns. -/

/-- The thread that returns (R146). -/
def dropReturn (y : Thread) : Thread := { y with depth := y.depth - 1, cache := y.cache.drop 1 }

/-- A lane of RET that stands below another and goes to the address e. -/
def returns (e : W64) (s : State) (u : Nat) : State := goes e (s.updThr u dropReturn) u

theorem returns_thr_ne {s : State} {u t : Nat} (e : W64) (h : (s.thr u).stepping = false) (hne : t ≠ u) :
    (returns e s u).thr t = s.thr t := by
  unfold returns
  rw [goes_calm e (by rw [State.thr_updThr, if_pos rfl]; exact h), State.thr_updThr, if_neg hne]
  exact (s.thr_updThr u t _).trans (if_neg hne)

/-- The lanes that are still to return stand as they stood at the start of the word, and none steps. -/
def ReturnsReady (s0 s : State) (ts : List Nat) : Prop := ∀ t ∈ ts, s.thr t = s0.thr t ∧ (s0.thr t).stepping = false

theorem ReturnsReady.returns {s0 s : State} {u : Nat} {ts : List Nat} (e : W64) (h : ReturnsReady s0 s (u :: ts))
    (hu : u ∉ ts) : ReturnsReady s0 (Machine.returns e s u) ts := by
  intro t ht
  have hne : t ≠ u := fun heq => hu (heq ▸ ht)
  obtain ⟨hthr, hstep⟩ := h u (by simp)
  refine ⟨?_, (h t (by simp [ht])).2⟩
  rw [returns_thr_ne e (by rw [hthr]; exact hstep) hne]
  exact (h t (by simp [ht])).1

/-- What RET needs to return from its registers alone (R146): a call below, and its aligned address cached. -/
def canReturn (s : State) (u : Nat) : Bool :=
  (s.thr u).depth != 0 && !(s.thr u).cache.isEmpty && ((s.thr u).cache.headD 0).extractLsb' 0 3 == 0

theorem low57_signExtend_low57 (e : W64) : ((e.extractLsb' 0 57).signExtend 64).extractLsb' 0 57 = e.extractLsb' 0 57 := by
  ext k hk
  simp only [BitVec.getElem_extractLsb', BitVec.getLsbD_signExtend, BitVec.getLsbD_extractLsb']
  have h64 : k < 64 := by omega
  have h57 : k < 57 := by omega
  simp [h64, h57]

theorem low3_signExtend_low57 (e : W64) : ((e.extractLsb' 0 57).signExtend 64).extractLsb' 0 3 = e.extractLsb' 0 3 := by
  ext k hk
  simp only [BitVec.getElem_extractLsb', BitVec.getLsbD_signExtend, BitVec.getLsbD_extractLsb']
  have h64 : k < 64 := by omega
  have h57 : k < 57 := by omega
  simp [h64, h57]

theorem ret_does (h : Head) : Does (.ret h) h anyCls [] (fun s _ ts => ts.all (canReturn s))
    fun s _ ts => each (fun s' u => returns ((s.thr u).cache.headD 0) s' u) s ts := by
  refine does_of (a := { group := 2, wait := true, cmp := .load, own := true }) (fun _ => rfl) (fun _ _ => rfl) rfl
    (fun _ _ _ hI _ => stalls_plain hI (.inl rfl) rfl rfl) rfl fun s b x hI hok => ?_
  have hcan : ∀ u ∈ activeOf s x h, canReturn s u = true := List.all_eq_true.1 hok
  have hdeep : ∀ u ∈ activeOf s x h, ((s.thr u).depth == 0) = false := fun u hu => by
    have hlane := hcan u hu
    simp only [canReturn, Bool.and_eq_true, bne_iff_ne] at hlane
    simpa using hlane.1.1
  have hends : ((activeOf s x h).filter fun t => (s.thr t).depth == 0) = [] :=
    List.filter_eq_nil_iff.2 fun u hu => by simp [hdeep u hu]
  have hrets : ((activeOf s x h).filter fun t => (s.thr t).depth != 0) = activeOf s x h :=
    List.filter_eq_self.2 fun u hu => by simp [bne, hdeep u hu]
  have hready : ReturnsReady s s (activeOf s x h) := fun t ht => ⟨rfl, (issuing_all hI t (activeOf_sub ht)).2.2.1⟩
  dsimp only
  rw [hends, hrets, foldl_hom_of_inv (fun s' : State => (({ s := s' } : WordOut), ([] : List (Nat × Nat))))
    (g := fun s' u => returns ((s.thr u).cache.headD 0) s' u)
    (fun s' r => ReturnsReady s s' r ∧ r.Nodup ∧ ∀ u ∈ r, canReturn s u = true) ?_ _ s
    ⟨hready, activeOf_nodup hI h, hcan⟩]
  · rfl
  · rintro s' t r ⟨hready, hn, hcan⟩
    obtain ⟨htr, hr⟩ := List.nodup_cons.1 hn
    refine ⟨?_, hready.returns _ htr, hr, fun u hu => hcan u (by simp [hu])⟩
    have hlane := hcan t (by simp)
    simp only [canReturn, Bool.and_eq_true, Bool.not_eq_true', beq_iff_eq] at hlane
    obtain ⟨⟨-, hcache⟩, halign⟩ := hlane
    have hthr := (hready t (by simp)).1
    cases hc : (s.thr t).cache with
    | nil => simp [hc] at hcache
    | cons e es =>
      rw [hc, List.headD_cons] at halign
      simp only [retEntry, hthr, hc, low3_signExtend_low57, halign, low57_signExtend_low57, bne_self_eq_false,
        Bool.false_eq_true, if_false, List.headD_cons]
      rfl

/-- RET of threads that stand below no call ends them (R146, R147). -/
theorem ret_ends (h : Head) : Does (.ret h) h anyCls []
    (fun s _ ts => !ts.isEmpty && ts.all fun u => (s.thr u).depth == 0) fun s _ ts => endThreads s ts false := by
  refine does_of (a := { group := 2, wait := true, cmp := .load, own := true }) (fun _ => rfl) (fun _ _ => rfl) rfl
    (fun _ _ _ hI _ => stalls_plain hI (.inl rfl) rfl rfl) rfl fun s b x hI hok => ?_
  obtain ⟨hne, hzero⟩ := Bool.and_eq_true_iff.1 hok
  have hends : ((activeOf s x h).filter fun t => (s.thr t).depth == 0) = activeOf s x h :=
    List.filter_eq_self.2 (List.all_eq_true.1 hzero)
  have hrets : ((activeOf s x h).filter fun t => (s.thr t).depth != 0) = [] :=
    List.filter_eq_nil_iff.2 fun u hu => by simp [bne, List.all_eq_true.1 hzero u hu]
  simp only [Bool.not_eq_true'] at hne
  simp only [hends, hrets, hne, List.foldl_nil, Bool.false_eq_true, if_false]
  rfl

theorem exit_does (h : Head) : Does (.exit h) h anyCls [] (fun _ _ ts => !ts.isEmpty) fun s _ ts => endThreads s ts false := by
  refine does_of (a := { group := 2, wait := true, cmp := .compare }) (fun _ => rfl) (fun _ _ => rfl) rfl
    (fun _ _ _ hI _ => stalls_plain hI (.inl rfl) rfl rfl) rfl fun s b x hI hok => ?_
  simp only [Bool.not_eq_true'] at hok
  simp only [hok, Bool.false_eq_true, if_false]

/-! Loops. -/

/-- DBNZ of a lane that counts to 0, or whose target R144 accepts, does not trap (R149). -/
theorem dbnz_passes {s : State} {b u : Nat} {x : Bundle} {a : Reg} {wofs : BitVec 32} (hI : Issuing s b x = true)
    (hok : (!s.isPoisoned u [(a, 1)] && (canonical (branchTo x wofs).toNat || s.r32 u a == 1)) = true) :
    ((consumed s u [(a, 1)]).or
      (if s.r32 u a - 1 = 0 then none else targetTrap (wofsTarget (curClause s) wofs) false)) = none := by
  simp only [Bool.and_eq_true, Bool.not_eq_true', Bool.or_eq_true, beq_iff_eq] at hok
  obtain ⟨hclean, hcan⟩ := hok
  by_cases hcount : s.r32 u a - 1 = 0
  · rw [consumed_none.2 hclean, if_pos hcount]
    rfl
  · rw [dbnz_trap wofs hI hclean hcount]
    exact transferTrap_none_of_canonical (hcan.resolve_right fun hone => hcount (sub_eq_zero.2 hone))

theorem dbnz_does (h : Head) (a : Reg) (wofs : BitVec 32) : Does (.dbnz h a wofs) h anyCls [(a, 1)]
    (fun s x ts => ts.all fun u => !s.isPoisoned u [(a, 1)] && (canonical (branchTo x wofs).toNat || s.r32 u a == 1))
    fun s x ts =>
      let s1 := each (fun s' u => s'.putRegs u (keepS ts u (wr32 a (s.r32 u a - 1) false))) s ts
      each (fun s' u => if s.r32 u a - 1 = 0 then s' else goes (branchTo x wofs) s' u) s1 ts := by
  refine does_of (a := { group := 2, regs := [(a, 1)], dsts := [a] }) (fun _ => rfl) (fun _ _ => rfl) rfl
    (fun _ _ _ hI _ => stalls_plain hI (.inl rfl) rfl rfl) rfl fun s b x hI hok => ?_
  obtain ⟨hgood, htraps⟩ := lanes_all_pass fun u hu => dbnz_passes hI (List.all_eq_true.1 hok u hu)
  dsimp only
  rw [hgood, htraps, curClause_eq hI]
  rfl

/-- Settles O13: RET with its address cached returns, RET below no call and EXIT end, DBNZ counts. -/
theorem returnsExitsAndLoops : Obligations.ReturnsExitsAndLoops :=
  ⟨ret_does, ret_ends, exit_does, dbnz_does⟩

/-! The other control words. -/

theorem nop_writes (h : Head) : Writes (.nop h) h anyCls [] fun _ _ => [] := by
  intro s b x hI _ hf _
  refine ⟨_, issueWord_lanes hI rfl hf rfl rfl rfl rfl rfl rfl (by simp), wrote_of_regs hI (.refl s) fun u g _ => ?_⟩
  cases writerOf (activeOf s x h) u g <;> rfl

/-- The bundle that issues keeps its clause when threads leave it. -/
theorem curClause_leave (s : State) (ts : List Nat) : curClause (s.leave ts) = curClause s := by
  have hcur : curBundle (s.leave ts) = (curBundle s).map fun y => { y with tids := y.tids.filter fun t => !ts.contains t } := by
    unfold curBundle
    show (s.cur.bind fun b => Map.get? (s.leave ts).bundles b) = _
    cases s.cur with
    | none => rfl
    | some b => exact Map.get?_map s.bundles (fun y => { y with tids := y.tids.filter fun t => !ts.contains t }) b
  unfold curClause
  rw [hcur]
  cases curBundle s <;> rfl

/-- A thread that leaves for a place keeps the cores and the clause that issues as they were, and every thread's stepping. -/
theorem jump_calm {s : State} {t : Nat} (pc : BitVec 57) (h : (s.thr t).stepping = false) :
    (jump s t pc).cores = s.cores ∧ curClause (jump s t pc) = curClause s ∧
      ∀ u, ((jump s t pc).thr u).stepping = (s.thr u).stepping := by
  unfold jump
  rw [settle_calm (s.leave [t]) t pc 0 h]
  refine ⟨rfl, curClause_leave s [t], fun u => ?_⟩
  rw [State.thr_updThr]
  split
  · rename_i hu
    subst hu
    rfl
  · rfl

/-- Threads that have yet to yield find the cores and the clause of the word as they were, and do not step. -/
def YieldsReady (s0 s : State) (x : Bundle) (ts : List Nat) : Prop :=
  s.cores = s0.cores ∧ curClause s = x.clause ∧ ∀ u ∈ ts, (s.thr u).stepping = false

theorem YieldsReady.yields {s0 s : State} {x : Bundle} {t n : Nat} {ts : List Nat} (h : YieldsReady s0 s x (t :: ts)) :
    YieldsReady s0 ((jump s t x.clause.next).updThr t fun y => { y with yieldTil := n }) x ts := by
  obtain ⟨hcores, hclause, hstep⟩ := h
  obtain ⟨hjc, hjx, hjs⟩ := jump_calm x.clause.next (hstep t (by simp))
  refine ⟨hjc.trans hcores, hjx.trans hclause, fun u hu => ?_⟩
  rw [State.thr_updThr]
  split
  · rename_i hut
    subst hut
    exact (hjs u).trans (hstep u (by simp))
  · exact (hjs u).trans (hstep u (by simp [hu]))

theorem yield_does (h : Head) : Does (.yield_ h) h anyCls [] (fun _ _ _ => true) fun s x ts => each (fun s' u =>
    (jump s' u x.clause.next).updThr u fun y => { y with yieldTil := (s.core (coreOf u)).gather + 4 }) s ts := by
  refine does_of (a := { group := 2 }) (fun _ => rfl) (fun _ _ => rfl) rfl
    (fun _ _ _ hI _ => stalls_plain hI (.inl rfl) rfl rfl) rfl fun s b x hI _ => ?_
  congr 1
  refine foldl_hom_of_inv id (YieldsReady s · x) (fun s' t r hready => ⟨?_, hready.yields⟩) _ s
    ⟨rfl, curClause_eq hI, fun u hu => (issuing_all hI u (activeOf_sub hu)).2.2.1⟩
  obtain ⟨hcores, hclause, hstep⟩ := hready
  have hcore : s'.core (coreOf t) = s.core (coreOf t) := by
    unfold State.core
    rw [hcores]
  simp only [id, hclause, hcore]

theorem join_does (h : Head) (b : OpB) : Does (.join h b) h anyCls (b.regs 1)
    (fun s _ ts => ts.all fun u => !s.isPoisoned u (b.regs 1) && (s.b32 u b).getLsbD (laneOf u))
    fun s x ts => each evalJoin (each (fun s' u => block s' u x.widx (.join (s.b32 u b))) s ts) (ts.map crewOf).dedup := by
  refine does_of (a := { group := 2, regs := b.regs 1, wait := true }) (fun _ => rfl) (fun _ _ => rfl) rfl
    (fun _ _ _ hI _ => stalls_plain hI (.inl rfl) rfl rfl) rfl fun s k x hI hok => ?_
  have hpass : ∀ u ∈ activeOf s x h, ((consumed s u (b.regs 1)).or
      (if (s.b32 u b).getLsbD (laneOf u) then none else some { trap := .maskdis })) = none := fun u hu => by
    have hlane := List.all_eq_true.1 hok u hu
    simp only [Bool.and_eq_true, Bool.not_eq_true'] at hlane
    rw [consumed_none.2 hlane.1, if_pos hlane.2]
    rfl
  obtain ⟨hgood, htraps⟩ := lanes_all_pass hpass
  dsimp only
  rw [hgood, htraps, curWidx_eq hI]
  rfl

/-- A word by which the lowest active lane of each crew changes its crew: no lane traps where no operand is poisoned. -/
theorem does_of_lowest {i : Instr} {h : Head} {b : OpB} (f : State → Nat → Crew → Crew)
    (he : ∀ s, exec i s = issueWord s h { group := 2, regs := b.regs 1, wait := true } fun s ts =>
      { s := ((ts.filter (supplies ts)).filter fun t => (consumed s t (b.regs 1)).isNone).foldl (fun s' t =>
          s'.updCrew (crewOf t) (f s t)) s,
        traps := (ts.filter (supplies ts)).filterMap fun t => (consumed s t (b.regs 1)).map fun i => (t, i) }) :
    Does i h anyCls (b.regs 1) (fun s _ ts => ts.all fun u => !s.isPoisoned u (b.regs 1))
      fun s _ ts => each (fun s' u => s'.updCrew (crewOf u) (f s u)) s (ts.filter (supplies ts)) := by
  refine does_of he (fun _ _ => rfl) rfl (fun _ _ _ hI _ => stalls_plain hI (.inl rfl) rfl rfl) rfl fun s k x hI hok => ?_
  have hpass : ∀ u ∈ (activeOf s x h).filter (supplies (activeOf s x h)), consumed s u (b.regs 1) = none := fun u hu =>
    consumed_none.2 (by simpa using List.all_eq_true.1 hok u (List.mem_filter.1 hu).1)
  obtain ⟨hgood, htraps⟩ := lanes_all_pass hpass
  rw [hgood, htraps]
  rfl

theorem prio_does (h : Head) (b : OpB) : Does (.prio h b) h anyCls (b.regs 1)
    (fun s _ ts => ts.all fun u => !s.isPoisoned u (b.regs 1))
    fun s _ ts => each (fun s' u => s'.updCrew (crewOf u) fun c =>
      { c with prio := Fin.ofNat 4 (s.b32 u b).toNat }) s (ts.filter (supplies ts)) :=
  does_of_lowest (fun s t c => { c with prio := Fin.ofNat 4 (s.b32 t b).toNat }) fun _ => rfl

theorem psave_writes (h : Head) (d : Reg) : Writes (.psave h d) h anyCls [(d, 1)] fun s u => wr32 d (BitVec.ofNat 32
    (128 + (((List.range 7).map fun k => if s.rdPred u k then 2 ^ k else 0).foldl (· + ·) 0))) false := by
  intro s b x hI _ hf hp
  refine issueWord_fixed hI rfl hf hp (fun t _ => ⟨rfl, ?_⟩) rfl rfl rfl rfl
  have hbits : ((List.range 7).map fun k => (s.rdPred t k).toNat * 2 ^ k) =
      (List.range 7).map fun k => if s.rdPred t k then 2 ^ k else 0 :=
    List.map_congr_left fun k _ => by cases s.rdPred t k <;> simp
  dsimp only
  rw [hbits]

theorem pload_writes (h : Head) (a : Reg) : Writes (.pload h a) h anyCls [(a, 1)] fun s u => (List.range 7).flatMap fun k =>
    wrP k ((s.r32 u a).getLsbD k) (s.isPoisoned u [(a, 1)]) := by
  intro s b x hI _ hf hp
  refine issueWord_fixed hI rfl hf hp (fun t _ => ⟨rfl, ?_⟩) rfl rfl rfl rfl
  simp only [taint_fst]

/-- Settles O14, word by word: JOIN and PRIO where no lane traps. -/
theorem nopYieldJoinAndPredicateFile : Obligations.NopYieldJoinAndPredicateFile :=
  ⟨nop_writes, yield_does, join_does, prio_does, psave_writes, pload_writes⟩

end Sys2Proof.Machine
end

section
/-!
SUPPORT. Crew operations in their bundle form (R199, R204 to R208): a bundle whose threads are of one crew and whose operand C reads
0 hands all its active lanes to one delivery, and each lane's results depend on what every lane contributed.
-/
namespace Sys2Proof.Machine

-- One theorem at a time: elaborating them side by side costs a thread stack each, and the text compiles under a memory limit.
set_option Elab.async false

/-! Threads by crew and lane. -/

theorem crew_lane (t : Nat) : crewOf t * 32 + laneOf t = t := Nat.div_add_mod' t 32

theorem laneOf_lt (t : Nat) : laneOf t < 32 := Nat.mod_lt t (by decide)

theorem eq_of_lane {t u : Nat} (hc : crewOf t = crewOf u) (hl : laneOf t = laneOf u) : t = u := by
  rw [← crew_lane t, ← crew_lane u, hc, hl]

theorem le_iff_lane {t u : Nat} (hc : crewOf t = crewOf u) : laneOf t ≤ laneOf u ↔ t ≤ u := by
  conv_rhs => rw [← crew_lane t, ← crew_lane u, hc]
  omega

/-- Threads of one crew. -/
def OfCrew (k : Nat) (ts : List Nat) : Prop := ∀ t ∈ ts, crewOf t = k

theorem dedup_map_const {α β : Type} [DecidableEq β] {f : α → β} {k : β} {l : List α} (h : ∀ a ∈ l, f a = k) (hne : l ≠ []) :
    (l.map f).dedup = [k] := by
  rw [List.map_eq_replicate_iff.2 h]
  exact List.replicate_dedup (by simpa using hne)

/-- The least lane of a list, 32 where it is empty. -/
theorem foldl_min_le_iff (ls : List Nat) (m n : Nat) : n ≤ ls.foldl min m ↔ n ≤ m ∧ ∀ l ∈ ls, n ≤ l := by
  induction ls generalizing m with
  | nil => simp
  | cons l r ih => simp [ih, and_assoc]

/-- Among threads of one crew the one of the least lane supplies an s register (R30). -/
theorem lowest_iff_supplies {k t : Nat} {ts : List Nat} (hk : OfCrew k ts) (ht : t ∈ ts) :
    (laneOf t == (ts.map laneOf).foldl min 32) = supplies ts t := by
  have hle : (ts.map laneOf).foldl min 32 ≤ laneOf t :=
    ((foldl_min_le_iff (ts.map laneOf) 32 _).1 le_rfl).2 _ (List.mem_map_of_mem ht)
  have hsame : (ts.filter fun u => crewOf u == crewOf t) = ts :=
    List.filter_eq_self.2 fun u hu => by simp [hk u hu, hk t ht]
  rw [Bool.eq_iff_iff, beq_iff_eq, supplies, hsame, List.all_eq_true]
  constructor
  · intro heq u hu
    have hmin := ((foldl_min_le_iff (ts.map laneOf) 32 (laneOf t)).1 heq.le).2 _ (List.mem_map_of_mem hu)
    exact decide_eq_true ((le_iff_lane ((hk t ht).trans (hk u hu).symm)).1 hmin)
  · intro hall
    refine le_antisymm ((foldl_min_le_iff _ 32 _).2 ⟨(laneOf_lt t).le, fun l hl => ?_⟩) hle
    obtain ⟨u, hu, rfl⟩ := List.mem_map.1 hl
    exact (le_iff_lane ((hk t ht).trans (hk u hu).symm)).2 (of_decide_eq_true (hall u hu))

/-! What the lanes contribute, and what they are delivered. -/

/-- The lane of a thread and what the thread contributes to a crew operation. -/
def crewPart (c : Reg) (mk : State → Nat → CrewArg) (s : State) (t : Nat) : Nat × CrewArg :=
  (laneOf t, { mk s t with mask := s.r32 t c, arrival := s.seq, widx := curWidx s, pc := (curClause s).pc })

/-- What a lane of a crew operation does with its results: they come later, or now. -/
def crewGive (k : CrewKind) (dc : Nat) (s : State) (e : Nat × List RegWrite) : State :=
  if k.isVar then s.addValue e.1 dc e.2 else s.putRegs e.1 e.2

/-- A poisoned operand C cannot read as the bundle form asks. -/
theorem consumed_of_reads_zero {s : State} {t : Nat} {c : Reg} (h : s.rdReg t c = (0, false)) :
    consumed s t [(c, 1)] = none ∧ s.r32 t c = 0 := by
  have hplus : c.plus 0 = c := by cases c <;> rfl
  refine ⟨consumed_none.2 ?_, by rw [State.r32, h]⟩
  simp [State.isPoisoned, State.poisonOf, State.poisonIn, hplus, h]

/-- R199: where C reads 0 in every lane there is one delivery, to all the lanes. -/
theorem crewBody_bundle {c : Reg} {mk : State → Nat → CrewArg} {s : State} {ts : List Nat} {k : Nat} (hk : OfCrew k ts)
    (hne : ts ≠ []) (hc : ∀ t ∈ ts, s.rdReg t c = (0, false)) :
    crewBody c mk s ts =
      { s := (crewDeliver { s with seq := s.seq + 1 } k (ts.map (crewPart c mk s))).1,
        traps := (crewDeliver { s with seq := s.seq + 1 } k (ts.map (crewPart c mk s))).2 } := by
  obtain ⟨hok, hbad⟩ := lanes_all_pass fun t ht => (consumed_of_reads_zero (hc t ht)).1
  have hzero : ∀ t ∈ ts, (s.r32 t c == 0) = true := fun t ht => by simp [(consumed_of_reads_zero (hc t ht)).2]
  have hin : (ts.filter fun t => s.r32 t c == 0) = ts := List.filter_eq_self.2 hzero
  have hmasked : (ts.filter fun t => s.r32 t c != 0) = [] :=
    List.filter_eq_nil_iff.2 fun t ht => by rw [bne, hzero t ht]; decide
  have hcrew : (ts.filter fun t => crewOf t == k) = ts := List.filter_eq_self.2 fun t ht => by simp [hk t ht]
  unfold crewBody
  simp only [hok, hbad, hin, hmasked, dedup_map_const hk hne, List.foldl_cons, List.foldl_nil, hcrew, List.filter_nil,
    List.map_nil, List.dedup_nil, List.nil_append]
  rfl

theorem crewBody_nil (c : Reg) (mk : State → Nat → CrewArg) (s : State) :
    crewBody c mk s [] = { s := { s with seq := s.seq + 1 } } := rfl

/-- Where no result is poisoned that must not be, every lane gets its own. -/
theorem crewDeliver_clean {s0 : State} {k dc : Nat} {kind : CrewKind} {ts : List Nat} {w : Nat → List RegWrite}
    (part : Nat → Nat × CrewArg) (hk : OfCrew k ts) (hlane : ∀ t ∈ ts, (part t).1 = laneOf t)
    (hkind : ∀ t ∈ ts, (part t).2.kind = kind) (hdc : ∀ t ∈ ts, (part t).2.dc = dc)
    (hw : ∀ t ∈ ts, crewWrites (ts.map part) (laneOf t) (part t).2 = w t)
    (hclean : ∀ t ∈ ts, ((keepS ts t (w t)).all fun e => !e.poison || (match e.tgt with | .v _ => true | _ => false)) = true) :
    crewDeliver s0 k (ts.map part) = ((ts.map fun t => (t, keepS ts t (w t))).foldl (crewGive kind dc) s0, []) := by
  have hlanes : (ts.map part).map Prod.fst = ts.map laneOf := by
    rw [List.map_map]
    exact List.map_congr_left hlane
  unfold crewDeliver
  dsimp only
  rw [hlanes, List.foldl_map, foldl_hom_of_inv (fun s : State => (s, ([] : List (Nat × TrapInfo))))
    (g := fun s t => crewGive kind dc s (t, keepS ts t (w t))) (fun _ l => ∀ t ∈ l, t ∈ ts) ?_ ts s0 fun _ h => h,
    List.foldl_map]
  intro s t r hl
  have ht := hl t (by simp)
  refine ⟨?_, fun u hu => hl u (by simp [hu])⟩
  have hthread : k * 32 + laneOf t = t := by rw [← hk t ht, crew_lane]
  have hconsumes : ∀ code, consumesAt (keepS ts t (w t)) code = none := fun code => by
    unfold consumesAt
    rw [if_neg]
    intro hany
    obtain ⟨e, he, hbad⟩ := List.any_eq_true.1 hany
    have hgood := List.all_eq_true.1 (hclean t ht) e he
    cases hp : e.poison <;> cases hg : e.tgt <;> simp_all
  simp only [hlane t ht, hw t ht, lowest_iff_supplies hk ht, hthread, hkind t ht, hdc t ht]
  change (match consumesAt (keepS ts t (w t)) _ with
    | some n => (s, [poisonTrap s0 t n])
    | none => (crewGive kind dc s (t, keepS ts t (w t)), [])) = _
  rw [hconsumes]

/-- What the model's crew operation in its bundle form leaves: every active lane has been given its results. -/
theorem crewBody_clean {c : Reg} {mk : State → Nat → CrewArg} {s : State} {x : Bundle} {h : Head} {dc : Nat}
    {kind : CrewKind} {w : Nat → List RegWrite} (hone : oneCrew x = true)
    (hc : ((activeOf s x h).all fun u => s.rdReg u c == (0, false)) = true) (hcl : Clean s x h w = true)
    (hkind : ∀ t, (mk s t).kind = kind) (hdc : ∀ t, (mk s t).dc = dc)
    (hw : ∀ k, OfCrew k (activeOf s x h) → ∀ t ∈ activeOf s x h,
      crewWrites ((activeOf s x h).map (crewPart c mk s)) (laneOf t) (crewPart c mk s t).2 = w t) :
    crewBody c mk s (activeOf s x h) = WordOut.mk (((activeOf s x h).map fun t => (t, keepS (activeOf s x h) t (w t))).foldl
      (crewGive kind dc) { s with seq := s.seq + 1 }) [] false := by
  have hk : OfCrew (crewOf (x.tids.headD 0)) (activeOf s x h) := fun t ht => by
    simpa using List.all_eq_true.1 hone t (activeOf_sub ht)
  by_cases hne : activeOf s x h = []
  · rw [hne, crewBody_nil]
    rfl
  · rw [crewBody_bundle hk hne fun t ht => by simpa using List.all_eq_true.1 hc t ht,
      crewDeliver_clean _ hk (fun _ _ => rfl) (fun t _ => hkind t) (fun t _ => hdc t) (hw _ hk) (List.all_eq_true.1 hcl)]

/-- A crew operation whose results land later. -/
theorem crewSends_of {i : Instr} {h : Head} {regs : List (Reg × Nat)} {dsts : List Reg} {c : Reg} {mk : State → Nat → CrewArg}
    {w : State → List Nat → Nat → List RegWrite} (kind : CrewKind) (hvar : kind.isVar = true)
    (he : ∀ s, exec i s = issueWord s h { group := 2, regs := regs, dsts := dsts, var := true, wait := true } (crewBody c mk))
    (hkind : ∀ s t, (mk s t).kind = kind) (hdc : ∀ s t, (mk s t).dc = h.dc.val)
    (hw : ∀ s ts k, OfCrew k ts → ∀ t ∈ ts, crewWrites (ts.map (crewPart c mk s)) (laneOf t) (crewPart c mk s t).2 = w s ts t) :
    CrewSends i h regs c w := by
  intro s b x hI hf hk hone hc hcl
  have hbody := crewBody_clean hone hc hcl (hkind s) (hdc s) (hw s (activeOf s x h))
  have hgive : crewGive kind h.dc.val = fun s e => s.addValue e.1 h.dc.val e.2 := by
    funext s e
    exact if_pos hvar
  rw [hgive] at hbody
  refine ⟨_, (he s).trans (issueWord_go hI rfl hf (stalls_plain hI (.inr hk) rfl rfl)
    (fun t ht => (issuing_all hI t (activeOf_sub ht)).2.2.2) (by rw [hbody]) (by simp [hbody])), ?_⟩
  rw [hbody]
  exact joined_finish (s := { s with seq := s.seq + 1 }) hI (addValues_joined h.dc.val _ _ _)

/-- A crew operation of fixed latency. -/
theorem crewWrites_of {i : Instr} {h : Head} {regs : List (Reg × Nat)} {dsts : List Reg} {c : Reg} {mk : State → Nat → CrewArg}
    {w : State → List Nat → Nat → List RegWrite} (kind : CrewKind) (hvar : kind.isVar = false)
    (he : ∀ s, exec i s = issueWord s h { group := 2, regs := regs, dsts := dsts, wait := true } (crewBody c mk))
    (hkind : ∀ s t, (mk s t).kind = kind) (hdc : ∀ s t, (mk s t).dc = 0)
    (hw : ∀ s ts k, OfCrew k ts → ∀ t ∈ ts, crewWrites (ts.map (crewPart c mk s)) (laneOf t) (crewPart c mk s t).2 = w s ts t) :
    CrewWrites i h regs c w := by
  intro s b x hI hf hone hc hcl
  have hbody := crewBody_clean hone hc hcl (hkind s) (hdc s) (hw s (activeOf s x h))
  have hgive : crewGive kind 0 = fun s e => s.putRegs e.1 e.2 := by
    funext s e
    exact if_neg (by simp [hvar])
  rw [hgive] at hbody
  refine ⟨_, (he s).trans (issueWord_go hI rfl hf (stalls_plain hI (.inl rfl) rfl rfl)
    (fun t ht => (issuing_all hI t (activeOf_sub ht)).2.2.2) (by rw [hbody]) (by simp [hbody])), ?_⟩
  rw [hbody]
  exact wrote_of_regs (s := { s with seq := s.seq + 1 }) hI (lanes_regsOnly _ _) fun u g hg =>
    stored_lanes { s with seq := s.seq + 1 } (w s (activeOf s x h)) _ (activeOf_nodup hI h) u g hg

/-! The results of the participants. -/

section
variable {c : Reg} {mk : State → Nat → CrewArg} {s : State} {ts : List Nat}

theorem parts_any (f : CrewArg → Bool) :
    ((ts.map (crewPart c mk s)).any fun p => f p.2) = ts.any fun t => f (crewPart c mk s t).2 := List.any_map

theorem parts_lanes : (ts.map (crewPart c mk s)).map Prod.fst = ts.map laneOf := by
  rw [List.map_map]
  rfl

theorem parts_map {α : Type} (f : CrewArg → α) :
    ((ts.map (crewPart c mk s)).map fun p => f p.2) = ts.map fun t => f (crewPart c mk s t).2 := by
  rw [List.map_map]
  rfl

theorem parts_filter_lanes (f : CrewArg → Bool) :
    ((ts.map (crewPart c mk s)).filter fun p => f p.2).map Prod.fst =
      (ts.filter fun t => f (crewPart c mk s t).2).map laneOf := by
  rw [List.filter_map, List.map_map]
  rfl

/-- The participant of a lane: the thread of the crew at that lane, where it acts. -/
theorem partIn_parts {k : Nat} (hk : OfCrew k ts) (l : Nat) :
    partIn (ts.map (crewPart c mk s)) l = if k * 32 + l ∈ ts ∧ l < 32 then some (crewPart c mk s (k * 32 + l)).2 else none := by
  unfold partIn
  rw [List.find?_map, Option.map_map]
  have hlane : ∀ t ∈ ts, (laneOf t == l) = true ↔ t = k * 32 + l ∧ l < 32 := fun t ht => by
    rw [beq_iff_eq, ← hk t ht]
    constructor
    · rintro rfl
      exact ⟨(crew_lane t).symm, laneOf_lt t⟩
    · rintro ⟨heq, hlt⟩
      have := crew_lane t
      omega
  split
  · rename_i hin
    obtain ⟨hmem, hlt⟩ := hin
    cases hf : ts.find? ((fun p => p.1 == l) ∘ crewPart c mk s) with
    | none => exact absurd ((hlane _ hmem).2 ⟨rfl, hlt⟩) (by simpa [crewPart] using List.find?_eq_none.1 hf _ hmem)
    | some t =>
      have ht := ((hlane t (List.mem_of_find?_eq_some hf)).1 (by simpa [crewPart] using List.find?_some hf)).1
      rw [ht]
      rfl
  · rename_i hout
    rw [Option.map_eq_none_iff, List.find?_eq_none]
    intro t ht hl
    obtain ⟨rfl, hlt⟩ := (hlane t ht).1 (by simpa [crewPart] using hl)
    exact hout ⟨ht, hlt⟩

end

/-! Lane exchange. -/

/-- A place in a segment of a crew is a lane of it. -/
theorem segment_lt {l o : Nat} (sw : Fin 6) (hl : l < 32) (ho : o < 2 ^ sw.val) : l / 2 ^ sw.val * 2 ^ sw.val + o < 32 := by
  obtain ⟨m, hm⟩ : 2 ^ sw.val ∣ 2 ^ 5 := pow_dvd_pow 2 (by omega)
  have hdiv : l / 2 ^ sw.val + 1 ≤ m := Nat.div_lt_of_lt_mul (by omega)
  calc l / 2 ^ sw.val * 2 ^ sw.val + o < (l / 2 ^ sw.val + 1) * 2 ^ sw.val := by rw [Nat.add_mul]; omega
    _ ≤ m * 2 ^ sw.val := Nat.mul_le_mul_right _ hdiv
    _ = 32 := by rw [Nat.mul_comm, ← hm]; rfl

/-- The source of an exchange is a lane. -/
theorem lxchSrc_lt {mode : Fin 4} {sw : Fin 6} {l n : Nat} {b : W32} (hl : l < 32) (h : lxchSrc mode (2 ^ sw.val) l b = some n) :
    n < 32 := by
  have hpos : 0 < 2 ^ sw.val := Nat.two_pow_pos _
  unfold lxchSrc at h
  dsimp only at h
  split at h
  · cases h
    exact segment_lt sw hl (Nat.mod_lt _ hpos)
  · cases h
    exact segment_lt sw hl (Nat.mod_lt _ hpos)
  · split at h
    · rename_i hin
      cases h
      refine segment_lt sw hl ?_
      have := hin.2
      push_cast at this
      omega
    · cases h
  · cases h
    exact segment_lt sw hl (Nat.mod_lt _ hpos)

/-- What a lane contributes to an exchange. -/
def lxchArg (mode : Fin 4) (wide : Bool) (h : Head) (sw : Fin 6) (pd : Fin 8) (d a : Reg) (b : OpB) (s : State) (t : Nat) :
    CrewArg :=
  crewArg s t (.lxch mode wide (2 ^ sw.val)) d pd h.dc.val ((a, if wide then 2 else 1) :: b.regs 1)
    (if wide then s.r64 t a else (s.r32 t a).zeroExtend 64) (s.b32 t b) false

/-- R204: the source's value, or the lane's own where the source does not act. -/
theorem crewWrites_lxch {mode : Fin 4} {wide : Bool} {h : Head} {sw : Fin 6} {pd : Fin 8} {d a : Reg} {b : OpB} {c : Reg}
    {s : State} {ts : List Nat} {k t : Nat} (hk : OfCrew k ts) (ht : t ∈ ts) :
    crewWrites (ts.map (crewPart c (lxchArg mode wide h sw pd d a b) s)) (laneOf t)
      (crewPart c (lxchArg mode wide h sw pd d a b) s t).2 = exchange mode wide sw pd d a b s ts t := by
  have hsrc : (lxchSrc mode (2 ^ sw.val) (laneOf t) (s.b32 t b)).bind
      (partIn (ts.map (crewPart c (lxchArg mode wide h sw pd d a b) s))) =
      ((((lxchSrc mode (2 ^ sw.val) (laneOf t) (s.b32 t b)).map fun l => crewOf t * 32 + l).filter ts.contains).map fun v =>
        (crewPart c (lxchArg mode wide h sw pd d a b) s v).2) := by
    cases hl : lxchSrc mode (2 ^ sw.val) (laneOf t) (s.b32 t b) with
    | none => rfl
    | some l =>
      rw [Option.bind_some, partIn_parts hk, Option.map_some, hk t ht, Option.filter_some]
      have hlt := lxchSrc_lt (laneOf_lt t) hl
      by_cases hin : k * 32 + l ∈ ts <;> simp [hin, hlt]
  have hpois : ((ts.map (crewPart c (lxchArg mode wide h sw pd d a b) s)).any fun p => p.2.aPoison) =
      ts.any fun v => s.isPoisoned v ((a, if wide then 2 else 1) :: b.regs 1) := by
    rw [parts_any CrewArg.aPoison]
    exact congrArg ts.any (funext fun v => taint_fst _ _ _)
  show (if wide then wr64 d (CrewArg.a (((lxchSrc mode (2 ^ sw.val) (laneOf t) (s.b32 t b)).bind _).getD _)) _
    else wr32 d (BitVec.extractLsb' 0 32 (CrewArg.a (((lxchSrc mode (2 ^ sw.val) (laneOf t) (s.b32 t b)).bind _).getD _))) _) ++
      wrP pd.val ((lxchSrc mode (2 ^ sw.val) (laneOf t) (s.b32 t b)).bind _).isSome false = _
  rw [hsrc, hpois, Option.isSome_map]
  unfold exchange
  cases ((lxchSrc mode (2 ^ sw.val) (laneOf t) (s.b32 t b)).map fun l => crewOf t * 32 + l).filter ts.contains <;> rfl

theorem lxch_sends (mode : Fin 4) (wide : Bool) {i : Instr} (h : Head) (sw : Fin 6) (pd : Fin 8) (d a : Reg) (b : OpB) (c : Reg)
    (he : ∀ s, exec i s = lxchWord mode wide h sw pd d a b c s) :
    CrewSends i h ([(d, if wide then 2 else 1), (a, if wide then 2 else 1)] ++ b.regs 1 ++ [(c, 1)]) c
      (exchange mode wide sw pd d a b) :=
  crewSends_of (.lxch mode wide (2 ^ sw.val)) rfl (mk := lxchArg mode wide h sw pd d a b) (dsts := [d]) he (fun _ _ => rfl)
    (fun _ _ => rfl) fun _ _ _ hk _ ht => crewWrites_lxch hk ht

/-- Settles O15, mode by mode and width by width. -/
theorem laneExchange : Obligations.LaneExchange := by
  intro h sw pd d a b c
  refine ⟨fun k i hi => ?_, fun k i hi => ?_⟩
  · fin_cases k <;> cases hi <;> exact lxch_sends _ false h sw pd d a b c fun _ => rfl
  · fin_cases k <;> cases hi <;> exact lxch_sends _ true h sw pd d a b c fun _ => rfl

/-! The census, and groups by value. -/

/-- What a lane contributes to a census. -/
def cpqArg (k : Fin 5) (h : Head) (pci : Fin 8) (neg : Bool) (pd : Fin 8) (d : Reg) (s : State) (t : Nat) : CrewArg :=
  crewArg s t (.cpq k) d pd h.dc.val [] 0 0 (Bool.xor (s.rdPred t pci.val) neg)

/-- A census word of a kind, by the results it gives the lanes from what they contribute. -/
theorem cpq_sends {k : Fin 5} {i : Instr} {h : Head} {pci : Fin 8} {neg : Bool} {pd : Fin 8} {d c : Reg}
    {w : State → List Nat → Nat → List RegWrite} (he : ∀ s, exec i s = cpqWord k h pci neg pd d c s)
    (hw : ∀ s ts t, crewWrites (ts.map (crewPart c (cpqArg k h pci neg pd d) s)) (laneOf t)
      (crewPart c (cpqArg k h pci neg pd d) s t).2 = w s ts t) : CrewSends i h [(d, 1), (c, 1)] c w :=
  crewSends_of (.cpq k) rfl (mk := cpqArg k h pci neg pd d) (dsts := [d]) he (fun _ _ => rfl) (fun _ _ => rfl)
    fun s ts _ _ t _ => hw s ts t

/-- What a lane contributes to VGRP and CRED: one word. -/
def groupArg (k : CrewKind) (h : Head) (pd : Fin 8) (d a : Reg) (s : State) (t : Nat) : CrewArg :=
  crewArg s t k d pd h.dc.val [(a, 1)] ((s.r32 t a).zeroExtend 64) 0 false

theorem group_sends {k : CrewKind} {i : Instr} {h : Head} {pd : Fin 8} {d a c : Reg}
    {w : State → List Nat → Nat → List RegWrite} (hk : k.isVar = true) (he : ∀ s, exec i s = groupWord k h pd d a c s)
    (hw : ∀ s ts, ∀ t ∈ ts, crewWrites (ts.map (crewPart c (groupArg k h pd d a) s)) (laneOf t)
      (crewPart c (groupArg k h pd d a) s t).2 = w s ts t) : CrewSends i h [(d, 1), (a, 1), (c, 1)] c w :=
  crewSends_of k hk (mk := groupArg k h pd d a) (dsts := [d]) he (fun _ _ => rfl) (fun _ _ => rfl)
    fun s ts _ _ t ht => hw s ts t ht

section
variable {k : CrewKind} {h : Head} {pd : Fin 8} {d a c : Reg} {s : State} {ts : List Nat}

theorem group_poison : ((ts.map (crewPart c (groupArg k h pd d a) s)).any fun p => p.2.aPoison) =
    ts.any fun v => s.isPoisoned v [(a, 1)] := by
  rw [parts_any CrewArg.aPoison]
  exact congrArg ts.any (funext fun v => taint_fst _ _ _)

/-- Words extended with zeros are equal where the words are. -/
theorem zeroExtend_beq (x y : W32) : (BitVec.zeroExtend 64 x == BitVec.zeroExtend 64 y) = (x == y) := by
  rw [Bool.eq_iff_iff, beq_iff_eq, beq_iff_eq]
  bv_omega

theorem low32_zeroExtend (x : W32) : (BitVec.zeroExtend 64 x).extractLsb' 0 32 = x := by
  ext k hk
  have h64 : k < 64 := by omega
  simp [hk, h64]

theorem group_values : ((ts.map (crewPart c (groupArg k h pd d a) s)).map fun p => p.2.a.extractLsb' 0 32) =
    ts.map fun v => s.r32 v a := by
  rw [parts_map fun x => x.a.extractLsb' 0 32]
  exact List.map_congr_left fun v _ => low32_zeroExtend _

end

/-- Settles O16: each census is the model's over what the participants contribute. -/
theorem censusAndGroups : Obligations.CensusAndGroups := by
  refine ⟨?all, ?any, ?same, ?mask, ?num, ?part, ?uni⟩
  case all =>
    refine fun h pci neg pd d c => cpq_sends (k := 0) (fun _ => rfl) fun s ts t => ?_
    show wr32 d (truthWord (List.all _ id)) false ++ wrP pd.val (List.all _ id) false = _
    rw [parts_map CrewArg.q, List.all_map]
    rfl
  case any =>
    refine fun h pci neg pd d c => cpq_sends (k := 1) (fun _ => rfl) fun s ts t => ?_
    show wr32 d (truthWord (List.any _ id)) false ++ wrP pd.val (List.any _ id) false = _
    rw [parts_map CrewArg.q, List.any_map]
    rfl
  case same =>
    refine fun h pci neg pd d c => cpq_sends (k := 2) (fun _ => rfl) fun s ts t => ?_
    show wr32 d (truthWord (List.all _ _)) false ++ wrP pd.val (List.all _ _) false = _
    rw [parts_map CrewArg.q, List.all_map]
    rfl
  case mask =>
    refine fun h pci neg d c => cpq_sends (k := 3) (fun _ => rfl) fun s ts t => ?_
    show wr32 d (maskOf _) false = _
    rw [parts_filter_lanes CrewArg.q]
    rfl
  case num =>
    refine fun h pci neg d c => cpq_sends (k := 4) (fun _ => rfl) fun s ts t => ?_
    show wr32 d (BitVec.ofNat 32 (List.length _)) false = _
    rw [parts_filter_lanes CrewArg.q, List.length_map]
    rfl
  case part =>
    refine fun h d a c => group_sends rfl (fun _ => rfl) fun s ts t _ => ?_
    show wr32 d (maskOf _) _ = _
    rw [group_poison, parts_filter_lanes fun y => y.a == (crewPart c (groupArg _ h 7 d a) s t).2.a]
    simp only [crewPart, groupArg, crewArg, zeroExtend_beq]
  case uni =>
    refine fun h pd d a c => group_sends rfl (fun _ => rfl) fun s ts t _ => ?_
    show wr32 d (if (List.all _ _) = true then maskOf _ else 0) _ ++ wrP pd.val (List.all _ _) _ = _
    rw [group_poison, parts_lanes, List.all_map]
    simp only [Function.comp_def, crewPart, groupArg, crewArg, zeroExtend_beq]

/-! Reductions. -/

/-- A reduction that folds the participants' words. -/
theorem cred_reduces {k : Fin 10} {f : List W32 → W32} {i : Head → Reg → Reg → Reg → Instr}
    (he : ∀ h d a c s, exec (i h d a c) s = groupWord (.cred k) h 7 d a c s)
    (hf : ∀ ps, credValue k ps = f (ps.map fun p => p.2.a.extractLsb' 0 32)) : Reduces f i := by
  refine fun h d a c => group_sends rfl (he h d a c) fun s ts t _ => ?_
  show wr32 d (credValue k _) _ = _
  rw [hf, group_values, group_poison]

/-- R206, FADD: the participants of one bundle arrive together, so there is one exact sum, rounded once. -/
theorem credFadd_bundle {k : CrewKind} {h : Head} {pd : Fin 8} {d a c : Reg} {s : State} {ts : List Nat} (hne : ts ≠ []) :
    credFadd (ts.map (crewPart c (groupArg k h pd d a) s)) = BitVec.ofNat 32 (FFmt.f32.round .rne false
      (FVal.sum .rne (ts.map fun v => FFmt.f32.decode (s.r32 v a).toNat))) := by
  have harr : ((ts.map (crewPart c (groupArg k h pd d a) s)).map fun p => p.2.arrival).dedup = [s.seq] := by
    rw [parts_map CrewArg.arrival]
    exact dedup_map_const (fun _ _ => rfl) hne
  have hall : ((ts.map (crewPart c (groupArg k h pd d a) s)).filter fun p => p.2.arrival == s.seq) =
      ts.map (crewPart c (groupArg k h pd d a) s) :=
    List.filter_eq_self.2 fun p hp => by
      obtain ⟨t, -, rfl⟩ := List.mem_map.1 hp
      exact beq_self_eq_true _
  have hdec : ((ts.map (crewPart c (groupArg k h pd d a) s)).map fun p => FFmt.f32.decode (p.2.a.extractLsb' 0 32).toNat) =
      ts.map fun v => FFmt.f32.decode (s.r32 v a).toNat := by
    rw [parts_map fun x => FFmt.f32.decode (x.a.extractLsb' 0 32).toNat]
    exact List.map_congr_left fun v _ => by rw [show (crewPart c (groupArg k h pd d a) s v).2.a.extractLsb' 0 32 = s.r32 v a from
      low32_zeroExtend _]
  unfold credFadd
  simp only [harr, sortNat, sortBy, insertBy, List.foldl_nil, hall, hdec]

/-- Settles O17: the model combines the participants' words as R206 says. -/
theorem crewReductions : Obligations.CrewReductions := by
  refine ⟨?add, ?minS, ?minZ, ?maxS, ?maxZ, ?and, ?or, ?xor, ?fadd, ?fmin⟩
  case add => exact cred_reduces (k := 0) (fun _ _ _ _ _ => rfl) fun ps => rfl
  case minS => exact cred_reduces (k := 1) (fun _ _ _ _ _ => rfl) fun ps => by simp only [← minS_eq]; rfl
  case minZ => exact cred_reduces (k := 2) (fun _ _ _ _ _ => rfl) fun ps => by simp only [← minZ_eq]; rfl
  case maxS => exact cred_reduces (k := 3) (fun _ _ _ _ _ => rfl) fun ps => by simp only [← maxS_eq]; rfl
  case maxZ => exact cred_reduces (k := 4) (fun _ _ _ _ _ => rfl) fun ps => by simp only [← maxZ_eq]; rfl
  case and => exact cred_reduces (k := 5) (fun _ _ _ _ _ => rfl) fun ps => rfl
  case or => exact cred_reduces (k := 6) (fun _ _ _ _ _ => rfl) fun ps => rfl
  case xor => exact cred_reduces (k := 7) (fun _ _ _ _ _ => rfl) fun ps => rfl
  case fadd =>
    refine fun h d a c => group_sends rfl (fun _ => rfl) fun s ts t ht => ?_
    show wr32 d (credFadd _) _ = _
    rw [credFadd_bundle (List.ne_nil_of_mem ht), group_poison]
  case fmin =>
    refine fun h d a c => group_sends (k := .cred 9) rfl (fun _ => rfl) fun s ts t _ => ?_
    rw [← group_values (c := c) (k := .cred 9) (h := h) (pd := 7) (d := d),
      ← group_poison (c := c) (k := .cred 9) (h := h) (pd := 7) (d := d)]
    rfl

/-! Leaders, members, and words for the lowest active lane. -/

theorem lead_writes (h : Head) (pd : Fin 8) (d c : Reg) : CrewWrites (.lead h pd d c) h [(d, 1), (c, 1)] c fun _ act u =>
    let low := act.foldl (fun m v => min m (laneOf v)) 32
    wr32 d (BitVec.ofNat 32 low) false ++ wrP pd.val (low == laneOf u) false := by
  refine crewWrites_of .lead rfl (mk := fun s t => crewArg s t .lead d pd 0 [] 0 0 false) (dsts := [d]) (fun _ => rfl)
    (fun _ _ => rfl) (fun _ _ => rfl) fun s ts k _ t _ => ?_
  show wr32 d (BitVec.ofNat 32 (List.foldl min 32 _)) false ++ wrP pd.val (List.foldl min 32 _ == laneOf t) false = _
  rw [parts_lanes, List.foldl_map]

theorem memb_writes (h : Head) (d c : Reg) : CrewWrites (.memb h d c) h [(d, 1), (c, 1)] c fun _ act _ =>
    wr32 d (maskOf (act.map laneOf)) false := by
  refine crewWrites_of .memb rfl (mk := fun s t => crewArg s t .memb d 7 0 [] 0 0 false) (dsts := [d]) (fun _ => rfl)
    (fun _ _ => rfl) (fun _ _ => rfl) fun s ts k _ t _ => ?_
  show wr32 d (maskOf _) false = _
  rw [parts_lanes]

/-- R207: where no lane traps, each crew's s register takes the value of its lane L, or stays. -/
theorem smov_does (h : Head) (d a : Reg) (b : OpB) : Does (.smov h d a b) h anyCls ([(d, 1), (a, 1)] ++ b.regs 1)
    (fun s _ ts => ts.all fun u => !s.isPoisoned u (b.regs 1) && !s.isPoisoned u [(a, 1)])
    fun s _ ts => each (fun s' u =>
      let l := crewOf u * 32 + (s.b32 u b).toNat % 32
      if ts.contains l then s'.putRegs l (wr32 d (s.r32 l a) false) else s') s (ts.filter (supplies ts)) := by
  refine does_of (a := { group := 2, regs := [(d, 1), (a, 1)] ++ b.regs 1, dsts := [d], wait := true }) (fun _ => rfl)
    (fun _ _ => rfl) rfl (fun _ _ _ hI _ => stalls_plain hI (.inl rfl) rfl rfl) rfl fun s k x hI hok => ?_
  simp only [List.all_eq_true, Bool.and_eq_true, Bool.not_eq_true'] at hok
  refine foldl_hom_of_inv (fun s' : State => ({ s := s' } : WordOut)) (fun _ r => ∀ u ∈ r, u ∈ activeOf s x h)
    (fun s' u r hr => ⟨?_, fun v hv => hr v (by simp [hv])⟩) _ s fun u hu => (List.mem_filter.1 hu).1
  simp only [consumed_none.2 (hok u (hr u (by simp))).1]
  cases hin : (activeOf s x h).contains (crewOf u * 32 + (s.b32 u b).toNat % 32) with
  | false => rfl
  | true => simp [consumed_none.2 (hok _ (by simpa using hin)).2]

theorem gang_does (h : Head) (b : OpB) : Does (.gang h b) h anyCls (b.regs 1)
    (fun s _ ts => ts.all fun u => !s.isPoisoned u (b.regs 1))
    fun s _ ts => each (fun s' u => s'.updCrew (crewOf u) fun c =>
      { c with gang := (s.b32 u b).extractLsb' 0 16 }) s (ts.filter (supplies ts)) :=
  does_of_lowest (fun s t c => { c with gang := (s.b32 t b).extractLsb' 0 16 }) fun _ => rfl

/-- Settles O18, word by word. -/
theorem leadMembSmovGang : Obligations.LeadMembSmovGang :=
  ⟨lead_writes, memb_writes, smov_does, gang_does⟩

end Sys2Proof.Machine
end

section
/-!
SUPPORT. MOVS (R43 to R45). A crew that is no assay pair passes nothing on, so MOVS only writes its register, and TIMELO also
latches the time.
-/
namespace Sys2Proof.Machine

-- One theorem at a time: elaborating them side by side costs a thread stack each, and the text compiles under a memory limit.
set_option Elab.async false

/-! The values of the table. -/

/-- R43, R44: the model's special registers are those of the table. -/
theorem specialReg_eq (s : State) (u : Nat) (r : SpecialReg) : specialReg s u r = special s u r := by
  have hown : ∀ n : Nat, BitVec.ofNat 32 (if slotOf u == handlerSlot || coreOf u == hubCore then 0 else n) =
      if slotOf u = 16 ∨ coreOf u = 256 then (0 : W32) else BitVec.ofNat 32 n := fun n => by
    by_cases hbare : slotOf u = 16 ∨ coreOf u = 256
    · rw [if_pos hbare, if_pos (by simpa [handlerSlot, hubCore] using hbare)]
      rfl
    · rw [if_neg hbare, if_neg (by simpa [handlerSlot, hubCore] using hbare)]
  cases r with
  | lane => rfl
  | timelo => exact BitVec.eq_of_toNat_eq (by simp [specialReg, special])
  | timehi =>
    unfold specialReg special
    cases (s.thr u).timeHi with
    | none => exact BitVec.eq_of_toNat_eq (by simp)
    | some v => simp
  | _ => exact hown _

/-! Crews that are no assay pair. -/

/-- R416: a lane of a crew that is no assay pair passes nothing on. -/
theorem passOn_unpaired {s : State} {t : Nat} (h : paired s t = false) (ws : List RegWrite) : passOn s t ws = s := by
  rw [paired, Bool.or_eq_false_iff] at h
  rw [passOn, h.2]
  rfl

theorem foldl_passOn_unpaired {s : State} {l : List (Nat × List RegWrite)} (h : ∀ e ∈ l, paired s e.1 = false) :
    l.foldl (fun s e => passOn s e.1 e.2) s = s := by
  induction l with
  | nil => rfl
  | cons e r ih =>
    rw [List.foldl_cons, passOn_unpaired (h e (by simp))]
    exact ih fun e' he' => h e' (by simp [he'])

/-- Register writes make no assay pair. -/
theorem RegsOnly.paired_eq {s t : State} (h : RegsOnly s t) (u : Nat) : paired t u = paired s u := by
  have hcrew := h.crew (crewOf u)
  have hleader : (t.crew (crewOf u)).leader = (s.crew (crewOf u)).leader :=
    show (t.crew (crewOf u)).rest.leader = (s.crew (crewOf u)).rest.leader by rw [hcrew]
  have hkey : t.billetKey (crewOf u) = s.billetKey (crewOf u) :=
    show crewOf u / 32 * 4 + (t.crew (crewOf u)).rest.pos = crewOf u / 32 * 4 + (s.crew (crewOf u)).rest.pos by rw [hcrew]
  have hany : ∀ o o' : Option Billet, o.map Billet.rest = o'.map Billet.rest →
      (o.any fun b => !b.assay.isEmpty) = o'.any fun b => !b.assay.isEmpty := fun o o' heq => by
    have hrest : ∀ o : Option Billet, (o.any fun b => !b.assay.isEmpty) = (o.map Billet.rest).any fun b => !b.assay.isEmpty :=
      fun o => by cases o <;> rfl
    rw [hrest o, hrest o', heq]
  unfold paired State.billet?
  rw [hleader, hkey, hany _ _ (h.billets _)]

theorem unpaired_of_issuing {s : State} {b : Nat} {x : Bundle} {t : Nat} (hI : Issuing s b x = true) (ht : t ∈ x.tids) :
    paired s t = false := by
  simpa using List.any_eq_false.1 (issuing_unpaired hI) t ht

/-! The latch. -/

/-- R45: the latch of a thread that reads TIMELO. -/
def latched (s : State) (x : Thread) : Thread := { x with timeHi := some (BitVec.ofNat 32 (s.time / 2 ^ 32)) }

/-- TIMELO changes the latch of its threads and nothing else. -/
theorem latchTime_eq (s : State) (ts : List Nat) :
    latchTime s ts = { s with threads := (latchTime s ts).threads } ∧
      (∀ u, (latchTime s ts).thr u = if u ∈ ts then latched s (s.thr u) else s.thr u) ∧
      ∀ u, (s.threads.get? u).isSome → ((latchTime s ts).threads.get? u).isSome := by
  induction ts generalizing s with
  | nil => exact ⟨rfl, fun _ => rfl, fun _ h => h⟩
  | cons t r ih =>
    obtain ⟨hrest, hthr, hhere⟩ := ih (s.updThr t (latched s))
    have hcons : latchTime s (t :: r) = latchTime (s.updThr t (latched s)) r := rfl
    rw [hcons]
    refine ⟨hrest, fun u => ?_, fun u hu => hhere u (by rw [State.here_updThr]; simp [hu])⟩
    rw [hthr, State.thr_updThr]
    by_cases hut : u = t <;> by_cases hur : u ∈ r <;> simp [hut, hur, latched]

theorem latchTime_paired (s : State) (ts : List Nat) (u : Nat) : paired (latchTime s ts) u = paired s u := by
  rw [(latchTime_eq s ts).1]
  rfl

theorem latchTime_stored (s : State) (ts : List Nat) (u : Nat) (g : Target) : (latchTime s ts).stored u g = s.stored u g := by
  obtain ⟨hrest, hthr, -⟩ := latchTime_eq s ts
  have hregs : ((latchTime s ts).thr u).vReg = (s.thr u).vReg ∧ ((latchTime s ts).thr u).poison = (s.thr u).poison ∧
      ((latchTime s ts).thr u).p = (s.thr u).p := by
    rw [hthr]
    split <;> exact ⟨rfl, rfl, rfl⟩
  obtain ⟨hv, hpoison, hp⟩ := hregs
  cases g with
  | v n => simp only [State.stored, hv, hpoison]
  | p n => simp only [State.stored, hp]
  | s n => rw [hrest]; rfl

theorem latchTime_place (s : State) (ts : List Nat) (u : Nat) : ((latchTime s ts).thr u).pc = (s.thr u).pc ∧
    ((latchTime s ts).thr u).widx = (s.thr u).widx ∧ ((latchTime s ts).thr u).status = (s.thr u).status ∧
    ((latchTime s ts).thr u).stepping = (s.thr u).stepping := by
  rw [(latchTime_eq s ts).2.1]
  split <;> exact ⟨rfl, rfl, rfl, rfl⟩

/-- Where a bundle goes on does not depend on what its word did to the registers. -/
theorem MovesOn.of_place {s s' t : State} {b : Nat} {x : Bundle} (h : MovesOn s' t b x) (hb : s'.bundles = s.bundles)
    (hp : ∀ u, (s'.thr u).pc = (s.thr u).pc ∧ (s'.thr u).widx = (s.thr u).widx ∧ (s'.thr u).status = (s.thr u).status) :
    MovesOn s t b x := by
  obtain ⟨hothers, hout, hin⟩ := h
  refine ⟨fun k hk => by rw [← hb]; exact hothers k hk, fun u hu => ?_, ?_⟩
  · obtain ⟨hpc, hwidx, hstatus⟩ := hout u hu
    exact ⟨hpc.trans (hp u).1, hwidx.trans (hp u).2.1, hstatus.trans (hp u).2.2⟩
  · split
    · rename_i hlt
      rw [if_pos hlt] at hin
      exact ⟨hin.1, fun u => ⟨(hin.2 u).1.trans (hp u).1, (hin.2 u).2.trans (hp u).2.2⟩⟩
    · rename_i hlt
      rw [if_neg hlt] at hin
      exact hin

/-! The word. -/

/-- What MOVS does to each lane. -/
def movsLane (d : Reg) (r : SpecialReg) (s : State) (t : Nat) : LaneOut := { ws := wr32 d (specialReg s t r) false }

/-- The lanes of MOVS, and what a leader passes on (R416). -/
def movsBody (d : Reg) (r : SpecialReg) (s : State) (ts : List Nat) : WordOut :=
  let o := fixedLanes (movsLane d r) s ts
  let s' := if r = .timelo then latchTime o.s ts else o.s
  { o with s := if srIsTime r then (laneGood s ts (movsLane d r)).foldl (fun s x => passOn s x.1 x.2) s' else s' }

/-- MOVS writes registers, after which TIMELO latches; nothing is passed on. -/
theorem movs_next {h : Head} {d : Reg} {r : SpecialReg} {s : State} {b : Nat} {x : Bundle} (hI : Issuing s b x = true)
    (hf : Fits s x [(d, 1)] = true) :
    let good := (activeOf s x h).map fun t => (t, keepS (activeOf s x h) t (wr32 d (specialReg s t r) false))
    let s1 := good.foldl (fun s' e => s'.putRegs e.1 e.2) s
    exec (.movs h d r) s = .next (finishWord b x { s := if r = .timelo then latchTime s1 (activeOf s x h) else s1 }) := by
  intro good s1
  have hclean : Clean s x h (fun t => wr32 d (specialReg s t r) false) = true := by
    refine List.all_eq_true.2 fun t _ => List.all_eq_true.2 fun e he => ?_
    have hmem := List.mem_of_mem_filter he
    cases d with
    | z => cases hmem
    | _ =>
      rw [List.mem_singleton.1 hmem]
      rfl
  obtain ⟨hgood, htraps⟩ := laneGood_eq (f := movsLane d r) (fun t _ => ⟨rfl, rfl⟩) hclean
  have hpass : ∀ s' : State, (∀ u, paired s' u = paired s u) → good.foldl (fun s e => passOn s e.1 e.2) s' = s' := by
    refine fun s' hp => foldl_passOn_unpaired fun e he => ?_
    obtain ⟨t, ht, rfl⟩ := List.mem_map.1 he
    exact (hp t).trans (unpaired_of_issuing hI (activeOf_sub ht))
  have hbody : ∀ s2 : State, (∀ u, paired s2 u = paired s1 u) →
      (if srIsTime r = true then good.foldl (fun s e => passOn s e.1 e.2) s2 else s2) = s2 := fun s2 hp => by
    rw [hpass s2 fun u => (hp u).trans ((lanes_regsOnly s good).paired_eq u), ite_self]
  have hlanes : movsBody d r s (activeOf s x h) =
      { s := if r = .timelo then latchTime s1 (activeOf s x h) else s1 } := by
    unfold movsBody
    simp only [fixedLanes, hgood, htraps]
    refine congrArg (WordOut.mk · [] false) (hbody _ fun u => ?_)
    split
    · exact latchTime_paired _ _ u
    · rfl
  exact issueWord_lanes (body := movsBody d r) hI rfl hf rfl rfl rfl rfl hlanes rfl (by simp)

theorem movs_writes (h : Head) (d : Reg) (r : SpecialReg) (hr : r ≠ .timelo) :
    Writes (.movs h d r) h anyCls [(d, 1)] fun s u => wr32 d (special s u r) false := by
  intro s b x hI _ hf _
  refine ⟨_, movs_next hI hf, ?_⟩
  rw [if_neg hr]
  simp only [specialReg_eq]
  exact wrote_of_regs hI (lanes_regsOnly s _) fun u g hg =>
    stored_lanes s (fun t => wr32 d (special s t r) false) _ (activeOf_nodup hI h) u g hg

/-- R45: TIMELO gives its registers the low half and latches the high half. -/
theorem movs_timelo (h : Head) (d : Reg) {s : State} {b : Nat} {x : Bundle} (hI : Issuing s b x = true)
    (hf : Fits s x [(d, 1)] = true) :
    ∃ t, exec (.movs h d .timelo) s = .next t ∧ MovesOn s t b x ∧ t.rest = s.rest ∧
      (∀ u g, (∀ n, g = .p n → n < 7) → t.stored u g = ((writerOf (activeOf s x h) u g).bind fun _ =>
        lastTo (wr32 d (BitVec.ofNat 32 s.time) false) g).getD (s.stored u g)) ∧
      (∀ u ∈ activeOf s x h, (t.thr u).timeHi = some (BitVec.ofNat 32 (s.time / 2 ^ 32))) ∧
      (∀ u, u ∉ activeOf s x h → (t.thr u).timeHi = (s.thr u).timeHi) := by
  refine ⟨_, movs_next hI hf, ?_⟩
  rw [if_pos rfl]
  simp only [specialReg_eq]
  set s1 := ((activeOf s x h).map fun t => (t, keepS (activeOf s x h) t (wr32 d (special s t .timelo) false))).foldl
    (fun s' e => s'.putRegs e.1 e.2) s with hs1
  have hregs : RegsOnly s s1 := lanes_regsOnly s _
  have htime : s1.rest.time = s.rest.time := by rw [hregs.rest]
  have hkept : ∀ u, (s1.thr u).rest.stepping = (s.thr u).rest.stepping ∧ (s1.thr u).rest.timeHi = (s.thr u).rest.timeHi :=
    fun u => by rw [hregs.thr]; exact ⟨rfl, rfl⟩
  obtain ⟨hrest, hthr, -⟩ := latchTime_eq s1 (activeOf s x h)
  have hbundles : (latchTime s1 (activeOf s x h)).bundles = s.bundles := by rw [hrest]; exact hregs.bundles
  have hplace := latchTime_place s1 (activeOf s x h)
  obtain ⟨hp, hm⟩ := finishWord_calm (latchTime s1 (activeOf s x h)) b x (by rw [hbundles]; exact issuing_bundle hI)
    (issuing_ne hI) fun u hu => ((hplace u).2.2.2.trans (hkept u).1).trans (issuing_all hI u hu).2.2.1
  have hhi : ∀ u, ((finishWord b x { s := latchTime s1 (activeOf s x h) }).thr u).rest.timeHi =
      ((latchTime s1 (activeOf s x h)).thr u).rest.timeHi := fun u => by rw [hp.thr u]; rfl
  refine ⟨hm.of_place hbundles fun u => ?_, ?_, fun u g hg => ?_, fun u hu => ?_, fun u hu => ?_⟩
  · obtain ⟨hpc, hwidx, hstatus, -⟩ := hplace u
    obtain ⟨hpc', hwidx', hstatus', -⟩ := hregs.place u
    exact ⟨hpc.trans hpc', hwidx.trans hwidx', hstatus.trans hstatus'⟩
  · refine hp.rest.trans (Eq.trans ?_ hregs.rest)
    rw [hrest]
    rfl
  · refine ((hp.stored u g).trans (latchTime_stored s1 (activeOf s x h) u g)).trans ?_
    exact stored_lanes s (fun t => wr32 d (special s t .timelo) false) _ (activeOf_nodup hI h) u g hg
  · refine (hhi u).trans ?_
    rw [hthr, if_pos hu]
    exact congrArg (fun n => some (BitVec.ofNat 32 (n / 2 ^ 32))) htime
  · refine (hhi u).trans ?_
    rw [hthr, if_neg hu]
    exact (hkept u).2

/-- Settles O19: the table through `specialReg_eq`, TIMELO with its latch. -/
theorem specialRegisters : Obligations.SpecialRegisters :=
  ⟨movs_writes, fun h d _ _ _ hI hf => movs_timelo h d hI hf⟩

end Sys2Proof.Machine
end

section
/-!
SUPPORT. Barriers (R167, R209 to R211): words that wait for earlier accesses, the fold of a bundle's arrivals, and what waits,
departures and resets do to a group.
-/
namespace Sys2Proof.Machine

-- One theorem at a time: elaborating them side by side costs a thread stack each, and the text compiles under a memory limit.
set_option Elab.async false

/-! Words that wait, and words whose lanes all pass their checks. -/

/-- Nothing of a word waits whose counter can rise and whose threads' earlier accesses are where it wants them. -/
theorem stalls_settled {s : State} {b : Nat} {x : Bundle} {h : Head} {a : WordAttr} (hI : Issuing s b x = true)
    (hv : a.var = false ∨ countable s h (activeOf s x h) = true) (ho : a.orders = false)
    (hs : (a.settle.any fun l => !settledAt l s (activeOf s x h)) = false) : stalls s h a (activeOf s x h) = false := by
  rw [stalls_settle, stalls_plain (a := { a with settle := none }) hI hv ho rfl, hs]
  rfl

/-- A word that looks at its lanes one by one completes, where none of them traps, with what the others did. -/
theorem lane_pass_of_pure {s : State} {ts : List Nat} {rs : List (Reg × Nat)} (hp : pure_ s ts rs = true) :
    (ts.filter fun t => (consumed s t rs).isNone) = ts ∧
      (ts.filterMap fun t => (consumed s t rs).map fun i => (t, i)) = [] :=
  lanes_all_pass (consumed_of_pure hp)

theorem mem_insertBy {α : Type} (le : α → α → Bool) (a x : α) (l : List α) : a ∈ insertBy le x l ↔ a = x ∨ a ∈ l := by
  induction l with
  | nil => simp [insertBy]
  | cons y r ih =>
    unfold insertBy
    split
    · simp
    · simp only [List.mem_cons, ih]
      tauto

theorem mem_sortBy {α : Type} (le : α → α → Bool) (a : α) (l : List α) : a ∈ sortBy le l ↔ a ∈ l := by
  induction l with
  | nil => rfl
  | cons y r ih => rw [sortBy, mem_insertBy, List.mem_cons, ih]

theorem turns_cons (ok : State → Nat → Bool) (f : State → Nat → State) (s : State) (u : Nat) (r : List Nat) :
    turns ok f s (u :: r) = (ok s u && turns ok f (f s u) r) := rfl

/-! Arrivals. -/

/-- R167, R210: a lane that may arrive does, and gets the phase it found. -/
theorem arriveOne_arrives {s : State} {g : Option Nat} {t : Nat} {m : W32}
    (h : (m.getLsbD (laneOf t) &&
      (g.bind s.group?).any fun y => !y.broken && (Map.get? y.presented (myKey s t)).all (· == m)) = true) :
    arriveOne s g t m = (arrives (g.getD 0) t m s, .at (g.getD 0) (phaseOf s (g.getD 0))) := by
  obtain ⟨hbit, hgroup⟩ := Bool.and_eq_true_iff.1 h
  cases g with
  | none => simp at hgroup
  | some k =>
    cases hk : s.group? k with
    | none => simp [hk] at hgroup
    | some y =>
      simp only [hk, Option.bind_some, Option.any_some, Bool.and_eq_true, Bool.not_eq_true'] at hgroup
      obtain ⟨hbroken, hmask⟩ := hgroup
      have hsame : ((Map.get? y.presented (myKey s t)).isSome && Map.get? y.presented (myKey s t) != some m) = false := by
        cases hp : Map.get? y.presented (myKey s t) with
        | none => rfl
        | some m' => simpa [hp] using hmask
      simp only [arriveOne, arrives, phaseOf, hk, Option.bind_some, Option.map_some, hbit, hbroken, hsame, Option.getD_some,
        Option.any_some, Bool.not_true, Bool.false_eq_true, if_false, gt_iff_lt, decide_eq_true_eq]

/-- One lane of an arrival word of a form, with what it has come to. -/
def arriveStep (f : ArrForm) (g : State → Nat → Option Nat) (m : Nat → W32) (d : Reg) (x : Nat) (ts : List Nat)
    (acc : State × List (Nat × Arrive)) (t : Nat) : State × List (Nat × Arrive) :=
  let a := arriveOne acc.1 (g acc.1 t) t (m t)
  let s' := match f, a.2 with
    | .sync, .at g tok => block a.1 t x (.bar g tok d true false)
    | .sync, .status w => release (block a.1 t x (.bar 0 0 d false false)) t (keepS ts t (wr32 d w false))
    | _, _ => a.1
  (s', acc.2 ++ [(t, a.2)])

/-- The lane blocks where the form does. -/
def ArrForm.waits (f : ArrForm) (x : Nat) (d : Reg) : Option (Nat × Reg) := if f = .sync then some (x, d) else none

/-- A lane and the group and token of its arrival, as the model keeps them. -/
def arrivalOf (p : Nat × Nat × Nat) : Nat × Arrive := (p.1, .at p.2.1 p.2.2)

theorem arriveStep_arrives {f : ArrForm} {g : State → Nat → Option Nat} {m : Nat → W32} {d : Reg} {x t : Nat} {ts : List Nat}
    {acc : State × List (Nat × Arrive)} (h : mayArrive g m acc.1 t = true) :
    arriveStep f g m d x ts acc t = (arriving (f.waits x d) g m acc.1 t,
      acc.2 ++ [arrivalOf (t, (g acc.1 t).getD 0, phaseOf acc.1 ((g acc.1 t).getD 0))]) := by
  unfold arriveStep
  rw [arriveOne_arrives h]
  cases f <;> rfl

/-- The arrivals of a bundle: the lanes arrive in order, each with the group and the token it found. -/
theorem foldl_arriveStep {f : ArrForm} {g : State → Nat → Option Nat} {m : Nat → W32} {d : Reg} {x : Nat} {ts : List Nat}
    (l : List Nat) (s : State) (ps : List (Nat × Arrive))
    (h : turns (mayArrive g m) (arriving (f.waits x d) g m) s l = true) :
    l.foldl (arriveStep f g m d x ts) (s, ps) = (each (arriving (f.waits x d) g m) s l,
      ps ++ (visits (arriving (f.waits x d) g m) g s l).map arrivalOf) := by
  induction l generalizing s ps with
  | nil => simp [each, visits]
  | cons t r ih =>
    rw [turns_cons, Bool.and_eq_true_iff] at h
    obtain ⟨hmay, hrest⟩ := h
    have hstep : arriveStep f g m d x ts (s, ps) t = (arriving (f.waits x d) g m s t,
        ps ++ [arrivalOf (t, (g s t).getD 0, phaseOf s ((g s t).getD 0))]) := arriveStep_arrives hmay
    rw [List.foldl_cons, hstep, ih _ _ hrest]
    simp [each, visits]

/-- The groups that took arrivals, and the lanes that arrived at one. -/
def groupsReached (ps : List (Nat × Arrive)) : List Nat :=
  ps.filterMap fun p => match p.2 with | .at g _ => some g | _ => none
def lanesAt (ps : List (Nat × Arrive)) (g : Nat) : List Nat :=
  ps.filterMap fun p => match p.2 with | .at k _ => if k = g then some p.1 else none | _ => none

/-- The lanes whose arrival was none. -/
def arriveTraps (ps : List (Nat × Arrive)) : List (Nat × TrapInfo) :=
  ps.filterMap fun p => match p.2 with | .trap => some (p.1, { trap := .maskdis }) | _ => none

/-- What a lane that goes on is given. -/
def giveArrival (ts : List Nat) (d : Reg) (moved : Nat → Nat → Bool) (s : State) (p : Nat × Arrive) : State :=
  match p.2 with
  | .trap => s
  | .status w => s.giveRegs p.1 (keepS ts p.1 (wr32 d w false))
  | .at g tok => (s.observe g p.1).giveRegs p.1 (keepS ts p.1 (wr32 d (stWord 0 tok (moved g tok)) false))

/-- What the lanes are given once the phases have been looked at: those that block, nothing yet. -/
def giveArrivals (f : ArrForm) (ts : List Nat) (d : Reg) (s2 : State) (ps : List (Nat × Arrive)) : State :=
  match f with
  | .sync => s2
  | _ => ps.foldl (giveArrival ts d fun k tok => f == .arvc && (s2.group? k).any fun y => y.phase != tok) s2

/-- The lanes of an arrival word (R210). -/
def arriveBody (f : ArrForm) (g : State → Nat → Option Nat) (d : Reg) (b : OpB) (s : State) (ts : List Nat) : WordOut :=
  let good := barOrder s (ts.filter fun t => (consumed s t (b.regs 1)).isNone)
  if good.any fun t => arrivesLater s (g s t) t then { s := s, stall := true } else
  let r := good.foldl (arriveStep f g (s.b32 · b) d (curWidx s) ts) (s, [])
  let s2 := (groupsReached r.2).dedup.foldl (fun s k => evalPhase s k (lanesAt r.2 k)) r.1
  { s := giveArrivals f ts d s2 r.2,
    traps := (ts.filterMap fun t => (consumed s t (b.regs 1)).map fun i => (t, i)) ++ arriveTraps r.2 }

theorem groupsReached_arrivals (ps : List (Nat × Nat × Nat)) : groupsReached (ps.map arrivalOf) = ps.map fun p => p.2.1 := by
  induction ps with
  | nil => rfl
  | cons p r ih => exact congrArg (p.2.1 :: ·) ih

theorem lanesAt_arrivals (ps : List (Nat × Nat × Nat)) (g : Nat) :
    lanesAt (ps.map arrivalOf) g = (ps.filter fun p => p.2.1 == g).map Prod.fst := by
  induction ps with
  | nil => rfl
  | cons p r ih =>
    have hcons : lanesAt ((p :: r).map arrivalOf) g =
        if p.2.1 = g then p.1 :: lanesAt (r.map arrivalOf) g else lanesAt (r.map arrivalOf) g := by
      by_cases hg : p.2.1 = g <;> simp [lanesAt, arrivalOf, hg]
    rw [hcons, ih]
    by_cases hg : p.2.1 = g <;> simp [hg]

theorem arriveTraps_arrivals (ps : List (Nat × Nat × Nat)) : arriveTraps (ps.map arrivalOf) = [] := by
  induction ps with
  | nil => rfl
  | cons p r ih => exact ih

/-- R210: the lanes of an arrival word that may all arrive in this tick. -/
theorem arriveBody_arrives {f : ArrForm} {g : State → Nat → Option Nat} {d : Reg} {b : OpB} {s : State} {ts : List Nat}
    (hpure : pure_ s ts (b.regs 1) = true) (htimely : timely g s ts = true)
    (hturns : turns (mayArrive g (s.b32 · b)) (arriving (f.waits (curWidx s) d) g (s.b32 · b)) s (barOrder s ts) = true) :
    let act := arriving (f.waits (curWidx s) d) g (s.b32 · b)
    let ps := visits act g s (barOrder s ts)
    let s2 := counted ps (each act s (barOrder s ts))
    arriveBody f g d b s ts = { s := giveArrivals f ts d s2 (ps.map arrivalOf) } := by
  intro act ps s2
  obtain ⟨hgood, hpois⟩ := lane_pass_of_pure hpure
  have hnow : ((barOrder s ts).any fun t => arrivesLater s (g s t) t) = false :=
    List.any_eq_false.2 fun t ht => by
      have hlane := List.all_eq_true.1 htimely t ((mem_sortBy _ t _).1 ht)
      simpa [arrivesLater] using hlane
  have hcounted : (groupsReached (ps.map arrivalOf)).dedup.foldl (fun s k => evalPhase s k (lanesAt (ps.map arrivalOf) k))
      (each act s (barOrder s ts)) = s2 := by
    rw [groupsReached_arrivals]
    simp only [lanesAt_arrivals]
    rfl
  unfold arriveBody
  simp only [hgood, hpois, hnow, foldl_arriveStep _ _ _ hturns, List.nil_append, arriveTraps_arrivals, Bool.false_eq_true,
    if_false]
  exact congrArg (fun s2 => WordOut.mk (giveArrivals f ts d s2 (ps.map arrivalOf)) [] false) hcounted

/-- Tokens for lanes that go on. -/
theorem giveArrivals_tokens {f : ArrForm} (hf : f ≠ .sync) (ts : List Nat) (d : Reg) (s2 : State) (ps : List (Nat × Nat × Nat)) :
    giveArrivals f ts d s2 (ps.map arrivalOf) = each (fun s' p => (s'.observe p.2.1 p.1).giveRegs p.1
      (keepS ts p.1 (wr32 d (stWord 0 p.2.2 (f == .arvc && (s2.group? p.2.1).any fun y => y.phase != p.2.2)) false))) s2 ps := by
  cases f with
  | sync => exact absurd rfl hf
  | _ => exact List.foldl_map

/-- An arrival word that completes. -/
theorem arriveWord_does {i : Instr} {h : Head} {f : ArrForm} {bb : Bool} {hn : Nat} {d : Reg} {b : OpB}
    {ok : State → Bundle → List Nat → Bool} {E : State → Bundle → List Nat → State} (g : State → Nat → Option Nat)
    (hg : g = fun s t => if bb then billetGroup s t else groupOf s t hn) (he : ∀ s, exec i s = arriveWord f bb h hn d b s)
    (hok : ∀ s x ts, ok s x ts = true → settledAt (if bb then 2 else 3) s ts = true ∧ pure_ s ts (b.regs 1) = true ∧
      timely g s ts = true ∧ turns (mayArrive g (s.b32 · b)) (arriving (f.waits x.widx d) g (s.b32 · b)) s (barOrder s ts) = true)
    (hE : ∀ s x ts, curWidx s = x.widx → ok s x ts = true → arriveBody f g d b s ts = { s := E s x ts }) :
    Does i h anyCls ((d, 1) :: b.regs 1) ok E := by
  subst hg
  refine does_of (a :=
    { group := 3, regs := (d, 1) :: b.regs 1, dsts := [d], wait := true, cmp := .compare, passes := true,
      settle := some (if bb then 2 else 3) }) he (fun _ _ => rfl) rfl (fun s k x hI hall => ?_) rfl fun s k x hI hall =>
    hE s x _ (curWidx_eq hI) hall
  exact stalls_settled hI (.inl rfl) rfl (by simp [(hok _ _ _ hall).1])

/-- The blocking forms. -/
theorem sync_does {i : Instr} {h : Head} {bb : Bool} {hn : Nat} {d : Reg} {b : OpB} (g : State → Nat → Option Nat)
    (hg : g = fun s t => if bb then billetGroup s t else groupOf s t hn) (he : ∀ s, exec i s = arriveWord .sync bb h hn d b s) :
    Does i h anyCls ((d, 1) :: b.regs 1)
      (fun s x ts => settledAt (if bb then 2 else 3) s ts && pure_ s ts (b.regs 1) && timely g s ts &&
        turns (mayArrive g (s.b32 · b)) (arriving (some (x.widx, d)) g (s.b32 · b)) s (barOrder s ts)) (syncs g d b) := by
  refine arriveWord_does g hg he (fun s x ts hok => ?_) fun s x ts hx hok => ?_
  all_goals
    simp only [Bool.and_eq_true] at hok
    obtain ⟨⟨⟨hsettled, hpure⟩, htimely⟩, hturns⟩ := hok
  · exact ⟨hsettled, hpure, htimely, hturns⟩
  · rw [← hx] at hturns
    rw [arriveBody_arrives (f := .sync) hpure htimely hturns, hx]
    rfl

/-- The forms that go on. -/
theorem tokens_does {i : Instr} {h : Head} {f : ArrForm} {hn : Nat} {d : Reg} {b : OpB} (hf : f ≠ .sync)
    (he : ∀ s, exec i s = arriveWord f false h hn d b s) :
    Does i h anyCls ((d, 1) :: b.regs 1)
      (fun s _ ts => settledAt 3 s ts && pure_ s ts (b.regs 1) && timely (groupOf · · hn) s ts &&
        turns (mayArrive (groupOf · · hn) (s.b32 · b)) (arriving none (groupOf · · hn) (s.b32 · b)) s (barOrder s ts))
      fun s _ ts => tokens (f == .arvc) hn d b s ts := by
  have hwaits : ∀ n, f.waits n d = none := fun n => if_neg hf
  refine arriveWord_does (groupOf · · hn) rfl he (fun s x ts hok => ?_) fun s x ts hx hok => ?_
  all_goals
    simp only [Bool.and_eq_true] at hok
    obtain ⟨⟨⟨hsettled, hpure⟩, htimely⟩, hturns⟩ := hok
  · rw [hwaits]
    exact ⟨hsettled, hpure, htimely, hturns⟩
  · rw [arriveBody_arrives hpure htimely (by rw [hwaits]; exact hturns), giveArrivals_tokens hf, hwaits]
    rfl

/-- Settles O20: each arrival word is one fold of arrivals, then the phases, then what the lanes are given. -/
theorem barrierArrivals : Obligations.BarrierArrivals := by
  refine ⟨?sync, ?bbar, ?go⟩
  case sync => exact fun h hn d b => sync_does (bb := false) (groupOf · · hn.val) rfl fun _ => rfl
  case bbar => exact fun h d b => sync_does (bb := true) (hn := 0) billetGroup rfl fun _ => rfl
  case go =>
    rintro told i (⟨rfl, rfl⟩ | ⟨rfl, rfl⟩) h hn d b
    · exact tokens_does (f := .arv) (by decide) fun _ => rfl
    · exact tokens_does (f := .arvc) (by decide) fun _ => rfl

/-! Waits, departures, resets and queries. -/

/-- A handle that names a group, and a mask that holds the lane: R210's trap is not raised. -/
theorem passes_of_inGroup {s : State} {hn : Nat} {b : OpB} {ts : List Nat} (h : inGroup s hn b ts = true) {t : Nat} (ht : t ∈ ts) :
    (if (groupOf s t hn).isNone || !(s.b32 t b).getLsbD (laneOf t) then some ({ trap := .maskdis } : TrapInfo) else none) = none := by
  have hlane := List.all_eq_true.1 h t ht
  simp only [Bool.and_eq_true] at hlane
  have hsome : (groupOf s t hn).isSome = true := Option.isSome_of_isSome_bind hlane.1
  rw [if_neg]
  simp [hlane.2, Option.isSome_iff_ne_none.1 hsome]

theorem groupOf_of_inGroup {s : State} {hn : Nat} {b : OpB} {ts : List Nat} (h : inGroup s hn b ts = true) {t : Nat} (ht : t ∈ ts) :
    groupOf s t hn = some ((groupOf s t hn).getD 0) := by
  have hlane := List.all_eq_true.1 h t ht
  simp only [Bool.and_eq_true] at hlane
  cases hg : groupOf s t hn with
  | none => simp [hg] at hlane
  | some g => rfl

/-- The lanes of BAR.WAIT and BAR.TRY that pass R392 and R210. -/
theorem waitWord_does {i : Instr} {h : Head} {wait : Bool} {hn : Nat} {d a : Reg} {b : OpB}
    (he : ∀ s, exec i s = waitWord wait h hn d a b s) :
    Does i h anyCls ([(d, 1), (a, 1)] ++ b.regs 1)
      (fun s _ ts => pure_ s ts ((a, 1) :: b.regs 1) && inGroup s hn b ts)
      fun s x ts => each (fun s' u => (theGroup s hn u).elim s' fun y =>
        let tok := (s.r32 u a).toNat / 65536
        let w := if y.2.broken then stWord 2 0 false else if y.2.isDone tok then stWord 0 tok false else stWord 1 tok false
        if wait then
          let s1 := block s' u x.widx (.bar y.1 tok d false false)
          if y.2.broken || y.2.isDone tok then release s1 u (keepS ts u (wr32 d w false)) else s1
        else (s'.observe y.1 u).giveRegs u (keepS ts u (wr32 d w false))) s ts := by
  refine does_of (a :=
    { group := 3, regs := [(d, 1), (a, 1)] ++ b.regs 1, dsts := [d], wait := true, cmp := .compare, passes := true })
    he (fun _ _ => rfl) rfl (fun s k x hI _ => stalls_settled hI (.inl rfl) rfl rfl) rfl fun s k x hI hok => ?_
  obtain ⟨hpure, hin⟩ := Bool.and_eq_true_iff.1 hok
  have hpass : ∀ u ∈ activeOf s x h, ((consumed s u ((a, 1) :: b.regs 1)).or
      (if (groupOf s u hn).isNone || !(s.b32 u b).getLsbD (laneOf u) then some ({ trap := .maskdis } : TrapInfo) else none)) =
        none := fun u hu => by
    rw [consumed_of_pure hpure u hu, passes_of_inGroup hin hu]
    rfl
  obtain ⟨hgood, htraps⟩ := lanes_all_pass hpass
  dsimp only
  rw [hgood, htraps, curWidx_eq hI]
  refine congrArg (WordOut.mk · [] false) (List.foldl_ext _ _ _ fun s' u _ => ?_)
  unfold theGroup
  cases (groupOf s u hn).bind fun g => (s.group? g).map fun y => (g, y) <;> rfl

/-- What BAR.WAIT and BAR.TRY report, in one word. -/
theorem report_eq (y : Group) (tok : Nat) : report y tok =
    if y.broken then stWord 2 0 false else if y.isDone tok then stWord 0 tok false else stWord 1 tok false := by
  unfold report
  cases y.broken <;> cases y.isDone tok <;> rfl

theorem barWait_does (h : Head) (hn : Fin 4) (d a : Reg) (b : OpB) : Does (.barWait h hn d a b) h anyCls ([(d, 1), (a, 1)] ++ b.regs 1)
    (fun s _ ts => pure_ s ts ((a, 1) :: b.regs 1) && inGroup s hn.val b ts)
    fun s x ts => each (fun s' u => (theGroup s hn.val u).elim s' fun y =>
      let tok := (s.r32 u a).toNat / 65536
      let s1 := block s' u x.widx (.bar y.1 tok d false false)
      if y.2.broken || y.2.isDone tok then release s1 u (keepS ts u (wr32 d (report y.2 tok) false)) else s1) s ts := by
  simp only [report_eq]
  exact waitWord_does (wait := true) fun _ => rfl

theorem barTry_does (h : Head) (hn : Fin 4) (d a : Reg) (b : OpB) : Does (.barTry h hn d a b) h anyCls ([(d, 1), (a, 1)] ++ b.regs 1)
    (fun s _ ts => pure_ s ts ((a, 1) :: b.regs 1) && inGroup s hn.val b ts)
    fun s _ ts => each (fun s' u => gives true d (report · ((s.r32 u a).toNat / 65536)) hn.val s ts s' u) s ts := by
  simp only [gives, report_eq]
  exact waitWord_does (wait := false) fun _ => rfl

theorem filterMap_groupOf {s : State} {hn : Nat} {ts : List Nat}
    (h : ∀ t ∈ ts, groupOf s t hn = some ((groupOf s t hn).getD 0)) :
    (ts.filterMap fun t => groupOf s t hn) = ts.map fun t => (groupOf s t hn).getD 0 := by
  rw [← List.filterMap_eq_map]
  exact List.filterMap_congr fun t ht => h t ht

/-- R211: lanes that leave, then the phases their groups may complete. -/
theorem barLeave_does (h : Head) (hn : Fin 4) (b : OpB) : Does (.barLeave h hn b) h anyCls (b.regs 1)
    (fun s _ ts => settledAt 3 s ts && pure_ s ts (b.regs 1) && inGroup s hn.val b ts)
    fun s _ ts => each (fun s' g => evalPhase s' g []) (each (fun s' u =>
      s'.updGroup ((groupOf s u hn.val).getD 0) fun y => if y.broken then y else
        { y with left := Map.set y.left (myKey s u) (((Map.get? y.left (myKey s u)).getD 0) ||| s.b32 u b) }) s ts)
      (ts.map fun u => (groupOf s u hn.val).getD 0).dedup := by
  refine does_of (a := { group := 3, regs := b.regs 1, wait := true, cmp := .compare, settle := some 3 }) (fun _ => rfl)
    (fun _ _ => rfl) rfl (fun s k x hI hok => ?_) rfl fun s k x hI hok => ?_
  all_goals
    simp only [Bool.and_eq_true] at hok
    obtain ⟨⟨hsettled, hpure⟩, hin⟩ := hok
  · exact stalls_settled hI (.inl rfl) rfl (by simp [hsettled])
  · have hpass : ∀ u ∈ activeOf s x h, ((consumed s u (b.regs 1)).or
        (if (groupOf s u hn.val).isNone || !(s.b32 u b).getLsbD (laneOf u) then some ({ trap := .maskdis } : TrapInfo)
          else none)) = none := fun u hu => by
      rw [consumed_of_pure hpure u hu, passes_of_inGroup hin hu]
      rfl
    obtain ⟨hgood, htraps⟩ := lanes_all_pass hpass
    have hnamed : ∀ t ∈ activeOf s x h, groupOf s t hn.val = some ((groupOf s t hn.val).getD 0) := fun t ht =>
      groupOf_of_inGroup hin ht
    dsimp only
    rw [hgood, htraps, filterMap_groupOf hnamed]
    refine congrArg (fun s1 => WordOut.mk (each (fun s' g => evalPhase s' g []) s1 _) [] false)
      (List.foldl_ext _ _ _ fun s' u hu => ?_)
    rw [hnamed u hu]
    rfl

/-- A lane whose handle names a group that is there. -/
theorem named_of_group {s : State} {hn : Nat} {ts : List Nat} (h : (ts.all fun u => ((groupOf s u hn).bind s.group?).isSome) = true)
    {t : Nat} (ht : t ∈ ts) : groupOf s t hn = some ((groupOf s t hn).getD 0) := by
  have hlane := List.all_eq_true.1 h t ht
  cases hg : groupOf s t hn with
  | none => simp [hg] at hlane
  | some g => rfl

theorem barReset_does (h : Head) (hn : Fin 4) : Does (.barReset h hn) h anyCls []
    (fun s _ ts => ts.all fun u => ((groupOf s u hn.val).bind s.group?).isSome)
    fun s _ ts => each (fun s' g => (breakGroup s' g).updGroup g fun y =>
      { y with broken := false, left := [], out := [], arrived := [], presented := [], first := none, paused := 0, pausedAt := none,
               timeout := y.tableTimeout }) s (ts.map fun u => (groupOf s u hn.val).getD 0).dedup := by
  refine does_of (a := { group := 3, wait := true, cmp := .compare }) (fun _ => rfl)
    (fun _ _ => rfl) rfl (fun s k x hI _ => stalls_settled hI (.inl rfl) rfl rfl) rfl fun s k x hI hok => ?_
  have hnone : ((activeOf s x h).filter fun t => (groupOf s t hn.val).isNone) = [] :=
    List.filter_eq_nil_iff.2 fun t ht => by
      rw [named_of_group hok ht]
      simp
  rw [hnone, filterMap_groupOf fun t ht => named_of_group hok ht]
  rfl

/-- R211, R202: the four words of GRPQ. -/
theorem grpqValue_eq (s : State) (u : Nat) (y : Group) (sel : Fin 4) : grpqValue s u y sel.val =
    [stWord (if y.broken then 2 else 0) y.phase false,
      maskOf ((List.range (s.crew (crewOf u)).width).filter fun l => !((Map.get? y.left (myKey s u)).getD 0).getLsbD l),
      (Map.get? y.arrived (myKey s u)).getD 0, BitVec.ofNat 32 y.timeout].getD sel.val 0 := by
  match sel with
  | 0 => rfl
  | 1 => rfl
  | 2 => rfl
  | 3 => rfl

theorem grpq_does (h : Head) (hn sel : Fin 4) (d : Reg) : Does (.grpq h hn sel d) h anyCls [(d, 1)]
    (fun s _ ts => ts.all fun u => ((groupOf s u hn.val).bind s.group?).isSome)
    fun s _ ts => each (fun s' u => gives false d (fun y => [stWord (if y.broken then 2 else 0) y.phase false,
      maskOf ((List.range (s.crew (crewOf u)).width).filter fun l => !((Map.get? y.left (myKey s u)).getD 0).getLsbD l),
      (Map.get? y.arrived (myKey s u)).getD 0, BitVec.ofNat 32 y.timeout].getD sel.val 0) hn.val s ts s' u) s ts := by
  refine does_of (a := { group := 3, regs := [(d, 1)], dsts := [d], wait := true, cmp := .load, passes := true }) (fun _ => rfl)
    (fun _ _ => rfl) rfl (fun s k x hI _ => stalls_settled hI (.inl rfl) rfl rfl) rfl fun s k x hI hok => ?_
  have hval : ∀ u, ((groupOf s u hn.val).bind fun g => (s.group? g).map fun y => grpqValue s u y sel.val) =
      (theGroup s hn.val u).map fun y => grpqValue s u y.2 sel.val := fun u => by
    unfold theGroup
    cases groupOf s u hn.val with
    | none => rfl
    | some g => simp [Function.comp_def]
  have hthere : ∀ u ∈ activeOf s x h, (theGroup s hn.val u).isSome = true := fun u hu => by
    have hlane := List.all_eq_true.1 hok u hu
    unfold theGroup
    cases hg : groupOf s u hn.val with
    | none => simp [hg] at hlane
    | some g => simpa [hg] using hlane
  have hnone : ((activeOf s x h).filter fun t => ((theGroup s hn.val t).map fun y => grpqValue s t y.2 sel.val).isNone) = [] :=
    List.filter_eq_nil_iff.2 fun t ht => by simpa [Option.isSome_iff_ne_none] using hthere t ht
  simp only [hval, hnone, List.map_nil]
  refine congrArg (WordOut.mk · [] false) (List.foldl_ext _ _ _ fun s' u _ => ?_)
  unfold gives
  cases theGroup s hn.val u with
  | none => rfl
  | some y => simp only [Option.map_some, Option.elim_some, grpqValue_eq]; rfl

/-- Settles O21, word by word. -/
theorem barrierWaitsAndMembers : Obligations.BarrierWaitsAndMembers :=
  ⟨barWait_does, barTry_does, barLeave_does, barReset_does, grpq_does⟩

end Sys2Proof.Machine
end

section
/-!
SUPPORT. Words on stages and queues (R201, R212 to R216), waits and monitors (R218 to R220): the fold over lanes whose objects
are in reach.
-/
namespace Sys2Proof.Machine

-- One theorem at a time: elaborating them side by side costs a thread stack each, and the text compiles under a memory limit.
set_option Elab.async false

/-! Objects. -/

/-- R201: an object operand that is in reach, aligned and steered by no poison. -/
theorem objLane_ready {s : State} {t n : Nat} {m : SOp} {rs : List (Reg × Nat)} (h : objReady s t m n rs = true) :
    objLane s t m n (consumed s t ((m.base, 1) :: rs)) = .ok (objAt s t m n) := by
  simp only [objReady, Bool.and_eq_true, beq_iff_eq, Bool.not_eq_true'] at h
  obtain ⟨⟨hreach, halign⟩, hpure⟩ := h
  obtain ⟨a, ha⟩ := Option.isSome_iff_exists.1 hreach
  simp [objLane, objAt, ha, halign, consumed_none.2 hpure]

/-- A fold over lanes that each act on what the lanes before have left, where no lane traps. -/
theorem foldl_lanes {step : WordOut → Nat → WordOut} {g : State → Nat → State} (ok : Nat → Prop)
    (hstep : ∀ s t, ok t → step { s := s } t = { s := g s t }) {ts : List Nat} (hok : ∀ t ∈ ts, ok t) (s : State) :
    ts.foldl step { s := s } = { s := each g s ts } :=
  foldl_hom_of_inv (fun s : State => ({ s := s } : WordOut)) (fun _ r => ∀ t ∈ r, ok t)
    (fun s t r hr => ⟨hstep s t (hr t (by simp)), fun u hu => hr u (by simp [hu])⟩) ts s hok

/-- The same where a lane's turn has to find the state as it needs it. -/
theorem foldl_turns {step : WordOut → Nat → WordOut} {g : State → Nat → State} (ok : Nat → Prop) (look : State → Nat → Bool)
    (hstep : ∀ s t, ok t → look s t = true → step { s := s } t = { s := g s t }) {ts : List Nat} (hok : ∀ t ∈ ts, ok t)
    {s : State} (hturns : turns look g s ts = true) : ts.foldl step { s := s } = { s := each g s ts } :=
  foldl_hom_of_inv (fun s : State => ({ s := s } : WordOut)) (fun s r => (∀ t ∈ r, ok t) ∧ turns look g s r = true)
    (fun s t r hr => by
      obtain ⟨hok, hturns⟩ := hr
      rw [turns_cons, Bool.and_eq_true_iff] at hturns
      exact ⟨hstep s t (hok t (by simp)) hturns.1, fun u hu => hok u (by simp [hu]), hturns.2⟩) ts s ⟨hok, hturns⟩

/-- A word on objects whose lanes all reach theirs. -/
theorem objWord_does {i : Instr} {h : Head} {size n : Nat} {queue src : Bool} {d : Reg} {m : SOp} {attr : WordAttr}
    {mk : State → State → List Nat → Nat → Nat → Except TrapInfo State} {ok : State → Bundle → List Nat → Bool}
    {E : State → Bundle → List Nat → State → Nat → State} (he : ∀ s, exec i s = objWord size queue h d n m src attr mk s)
    (hgroup : attr.anyClass = false ∧ attr.queue = none) (ho : attr.orders = false) (hp : attr.priv = 2)
    (hwait : ∀ s x ts, ok s x ts = true → (attr.var = false ∨ countable s h ts = true) ∧
      (attr.settle.any fun l => !settledAt l s ts) = false)
    (hlane : ∀ s x ts, ok s x ts = true → ∀ u ∈ ts, objReady s u m size (if src then [(d, n)] else []) = true)
    (hmk : ∀ s x ts, curWidx s = x.widx → ok s x ts = true → ∀ s', ∀ u ∈ ts,
      mk s (useObj s' u (2 * objAt s u m size + queue.toNat)) ts u (objAt s u m size) = .ok (E s x ts s' u)) :
    Does i h anyCls [(m.base, 1), (d, n)] ok fun s x ts => each (E s x ts) s ts := by
  refine does_of he (fun c _ => ?_) rfl (fun s b x hI hok => ?_) hp fun s b x hI hok => ?_
  · simp [WordAttr.allowed, hgroup.1, hgroup.2]
  · exact stalls_settled hI (hwait s x _ hok).1 ho (hwait s x _ hok).2
  · refine foldl_lanes (· ∈ activeOf s x h) (fun s' t ht => ?_) (fun t ht => ht) s
    simp only [objLane_ready (hlane s x _ hok t ht), hmk s x _ (curWidx_eq hI) hok s' t ht]

/-- A word that sends an operation to the object of each lane. -/
theorem sendsTo_of {i : Instr} {h : Head} {size n : Nat} {queue : Bool} (src : Bool) {d : Reg} {m : SOp} (attr : WordAttr)
    (mk : State → State → List Nat → Nat → Nat → Except TrapInfo State) {ok : State → Nat → Bool}
    {op : State → List Nat → Nat → Nat → POp × List Target} (he : ∀ s, exec i s = objWord size queue h d n m src attr mk s)
    (hgroup : attr.anyClass = false ∧ attr.queue = none) (ho : attr.orders = false) (hp : attr.priv = 2) (hs : attr.settle = none)
    (hmk : ∀ s s' ts u, ok s u = true →
      mk s s' ts u (objAt s u m size) = .ok (s'.addOp u h.dc.val (op s ts u (objAt s u m size)).1 (op s ts u (objAt s u m size)).2)) :
    SendsTo size queue i h d n m (if src then [(d, n)] else []) ok op := by
  refine objWord_does (E := fun s _ ts s' u => (useObj s' u (2 * objAt s u m size + queue.toNat)).addOp u h.dc.val
    (op s ts u (objAt s u m size)).1 (op s ts u (objAt s u m size)).2) he hgroup ho hp (fun s x ts hok => ?_)
    (fun s x ts hok u hu => ?_) fun s x ts _ hok s' u hu => ?_
  all_goals obtain ⟨hcount, hlanes⟩ := Bool.and_eq_true_iff.1 hok
  · exact ⟨.inr hcount, by simp [hs]⟩
  · exact (Bool.and_eq_true_iff.1 (List.all_eq_true.1 hlanes u hu)).1
  · exact hmk s _ ts u (Bool.and_eq_true_iff.1 (List.all_eq_true.1 hlanes u hu)).2

/-- The updates of a stage (R212). -/
theorem stageWord_sends {i : Instr} {f : W32 → StageUpd} {h : Head} {d : Reg} {m : SOp}
    (he : ∀ s, exec i s = stageWord f h d m s) : SendsTo 16 false i h d 1 m [(d, 1)] (fun _ _ => true)
      fun s _ u a => (.stage a (f (s.r32 u d)), []) :=
  sendsTo_of true { group := 3, var := true, cmp := .compare }
    (fun s s' _ t a => .ok (s'.addOp t h.dc.val (.stage a (f (s.r32 t d))) [])) he ⟨rfl, rfl⟩ rfl rfl rfl fun _ _ _ _ _ => rfl

theorem stgtry_sends (h : Head) (d : Reg) (m : SOp) : SendsTo 16 false (.stgtry h d m) h d 1 m [(d, 1)] (fun _ _ => true)
    fun s ts u a => (.stgTry a ((s.r32 u d).getLsbD 16) (laneDst ts u d), destsOf (laneDst ts u d) 1) :=
  sendsTo_of true { group := 3, var := true, cmp := .compare, passes := true, dsts := [d] }
    (fun s s' ts t a => .ok (s'.addOp t h.dc.val (.stgTry a ((s.r32 t d).getLsbD 16) (laneDst ts t d)) (destsOf (laneDst ts t d) 1)))
    (fun _ => rfl) ⟨rfl, rfl⟩ rfl rfl rfl fun _ _ _ _ _ => rfl

theorem stgwait_does (h : Head) (d : Reg) (m : SOp) : Does (.stgwait h d m) h anyCls [(m.base, 1), (d, 1)]
    (fun s _ ts => settledAt 0 s ts && ts.all fun u => objReady s u m 16 [(d, 1)])
    fun s x ts => each (fun s' u => wakeStage (block (useObj s' u (2 * objAt s u m 16)) u x.widx
      (.stage (objAt s u m 16) ((s.r32 u d).getLsbD 16) (laneDst ts u d))) (objAt s u m 16)) s ts := by
  refine objWord_does (queue := false) (src := true)
    (attr := { group := 3, cmp := .compare, passes := true, dsts := [d], settle := some 0 })
    (mk := fun s s' ts t a => .ok (wakeStage (block s' t (curWidx s) (.stage a ((s.r32 t d).getLsbD 16) (laneDst ts t d))) a))
    (E := fun s x ts s' u => wakeStage (block (useObj s' u (2 * objAt s u m 16)) u x.widx
      (.stage (objAt s u m 16) ((s.r32 u d).getLsbD 16) (laneDst ts u d))) (objAt s u m 16))
    (fun _ => rfl) ⟨rfl, rfl⟩ rfl rfl (fun s x ts hok => ?_) (fun s x ts hok u hu => ?_) fun s x ts hx hok s' u hu => ?_
  all_goals obtain ⟨hsettled, hlanes⟩ := Bool.and_eq_true_iff.1 hok
  · exact ⟨.inl rfl, by simp [hsettled]⟩
  · exact List.all_eq_true.1 hlanes u hu
  · rw [hx]
    rfl

/-- Settles O22: the stage words are words on objects, STGWAIT one that blocks. -/
theorem stageWords : Obligations.StageWords := by
  refine ⟨?updates, ?plain, stgtry_sends, stgwait_does⟩
  case updates =>
    rintro i f (⟨rfl, rfl⟩ | ⟨rfl, rfl⟩ | ⟨rfl, rfl⟩) h d m
    · exact stageWord_sends (f := fun v => .init (v.toNat % 65536)) fun _ => rfl
    · exact stageWord_sends (f := fun v => .owe v.toNat) fun _ => rfl
    · exact stageWord_sends (f := fun v => .add v.toInt) fun _ => rfl
  case plain =>
    rintro i f (⟨rfl, rfl⟩ | ⟨rfl, rfl⟩) h m
    · exact stageWord_sends (f := fun _ => .arrive) fun _ => rfl
    · exact stageWord_sends (f := fun _ => .inval) fun _ => rfl

/-! Queues. -/

/-- QPUSH and QPUSH.W of lanes whose queues have the form's width (R215). -/
theorem pushWord_queues {wide : Bool} {i : Head → Reg → SOp → Instr} (he : ∀ h d m s, exec (i h d m) s = pushWord wide h d m s) :
    Queues true (if wide then 8 else 4) wide i (fun d => [(d, if wide then 8 else 4)]) fun d s u a k =>
      .qpush a wide (s.rN u d (if wide then 8 else 4)) (vIndex d + if wide then 8 else 4) k := by
  intro h d m
  refine does_of (a :=
    { group := 3, regs := [(m.base, 1), (d, (if wide then 8 else 4) + 1)], dsts := [.v (vIndex d + if wide then 8 else 4)],
      wait := true, cmp := .compare, passes := true, settle := some 3 })
    (he h d m) (fun _ _ => rfl) rfl (fun s b x hI hok => ?_) rfl fun s b x hI hok => ?_
  all_goals
    simp only [Bool.and_eq_true] at hok
    obtain ⟨⟨hsettled, hready⟩, hturns⟩ := hok
  · exact stalls_settled hI (.inl rfl) rfl (by simpa using hsettled)
  · refine foldl_turns (· ∈ activeOf s x h) _ (fun s' t ht hwide => ?_) (fun t ht => ht) hturns
    rw [beq_iff_eq] at hwide
    simp only [objLane_ready (List.all_eq_true.1 hready t ht), hwide, bne_self_eq_false, Bool.false_eq_true, if_false,
      curWidx_eq hI]
    rfl

theorem popWord_queues {wide : Bool} {i : Head → Reg → SOp → Instr} (he : ∀ h d m s, exec (i h d m) s = popWord wide h d m s) :
    Queues false (if wide then 8 else 4) wide i (fun _ => []) fun d _ _ a k =>
      .qpop a wide (vIndex d) (vIndex d + if wide then 8 else 4) k := by
  intro h d m
  refine does_of (a :=
    { group := 3, regs := [(m.base, 1), (d, (if wide then 8 else 4) + 1)], dsts := [d, .v (vIndex d + if wide then 8 else 4)],
      wait := true, cmp := .compare, passes := true, settle := some 0 })
    (he h d m) (fun _ _ => rfl) rfl (fun s b x hI hok => ?_) rfl fun s b x hI hok => ?_
  all_goals
    simp only [Bool.and_eq_true] at hok
    obtain ⟨⟨hsettled, hready⟩, hturns⟩ := hok
  · exact stalls_settled hI (.inl rfl) rfl (by simpa using hsettled)
  · refine foldl_turns (· ∈ activeOf s x h) _ (fun s' t ht hwide => ?_) (fun t ht => ht) hturns
    rw [beq_iff_eq] at hwide
    simp only [objLane_ready (List.all_eq_true.1 hready t ht), hwide, bne_self_eq_false, Bool.false_eq_true, if_false,
      curWidx_eq hI]
    rfl

/-- QTRYPUSH: of the payload only what an entry of the queue holds is looked at (R215). -/
theorem qtrypush_sends (h : Head) (d : Reg) (m : SOp) : SendsTo 32 true (.qtrypush h d m) h d 9 m []
    (fun s u => !s.isPoisoned u [(d, if (s.queueAt (objAt s u m 32)).wide then 8 else 4)])
    fun s _ u a => (.qtryPush a (s.rN u d 8) (vIndex d + 8), [.v (vIndex d + 8)]) := by
  refine does_of (a :=
    { group := 3, regs := [(m.base, 1), (d, 9)], dsts := [.v (vIndex d + 8)], var := true, wait := true, cmp := .compare,
      passes := true })
    (fun _ => rfl) (fun _ _ => rfl) rfl (fun s b x hI hok => ?_) rfl fun s b x hI hok => ?_
  all_goals obtain ⟨hcount, hlanes⟩ := Bool.and_eq_true_iff.1 hok
  · exact stalls_settled hI (.inr hcount) rfl rfl
  · refine foldl_lanes (· ∈ activeOf s x h) (fun s' t ht => ?_) (fun t ht => ht) s
    obtain ⟨hready, hpure⟩ := Bool.and_eq_true_iff.1 (List.all_eq_true.1 hlanes t ht)
    simp only [objLane_ready hready, consumed_none.2 (by simpa using hpure)]
    rfl

theorem qinit_sends (h : Head) (d : Reg) (m : SOp) : SendsTo 32 true (.qinit h d m) h d 2 m [(d, 2)]
    (fun s u => qinitTrap s u (objAt s u m 32) m (s.r64 u d) == none)
    fun s _ u a => (.qinit a ((s.r64 u d).toNat % 2 ^ 32) ((s.r64 u d).toNat / 2 ^ 32 % 65536) ((s.r64 u d).getLsbD 48), []) := by
  refine sendsTo_of true { group := 3, var := true, cmp := .compare }
    (fun s s' _ t a => match qinitTrap s t a m (s.r64 t d) with
      | some i => .error i
      | none => .ok (s'.addOp t h.dc.val (.qinit a ((s.r64 t d).toNat % 2 ^ 32) ((s.r64 t d).toNat / 2 ^ 32 % 65536)
          ((s.r64 t d).getLsbD 48)) []))
    (fun _ => rfl) ⟨rfl, rfl⟩ rfl rfl rfl fun s s' ts u hok => ?_
  simp only [beq_iff_eq.1 hok]

theorem tryPopWord_sends {i : Instr} {peek : Bool} {h : Head} {d : Reg} {m : SOp}
    (he : ∀ s, exec i s = tryPopWord peek h d m s) : SendsTo 32 true i h d 9 m [] (fun _ _ => true) fun _ _ _ a =>
      (.qtryPop a peek (vIndex d) (vIndex d + 8), (List.range 9).map fun k => .v (vIndex d + k)) :=
  sendsTo_of false { group := 3, var := true, cmp := .compare, passes := true, dsts := [d, .v (vIndex d + 8)] }
    (fun _ s' _ t a => .ok (s'.addOp t h.dc.val (.qtryPop a peek (vIndex d) (vIndex d + 8))
      ((List.range 9).map fun k => .v (vIndex d + k)))) he ⟨rfl, rfl⟩ rfl rfl rfl fun _ _ _ _ _ => rfl

theorem qcount_sends (h : Head) (d : Reg) (m : SOp) : SendsTo 32 true (.qcount h d m) h d 1 m [] (fun _ _ => true)
    fun _ ts u a => (.qcount a (laneDst ts u d), destsOf (laneDst ts u d) 1) :=
  sendsTo_of false { group := 3, var := true, cmp := .compare, passes := true, dsts := [d] }
    (fun _ s' ts t a => .ok (s'.addOp t h.dc.val (.qcount a (laneDst ts t d)) (destsOf (laneDst ts t d) 1)))
    (fun _ => rfl) ⟨rfl, rfl⟩ rfl rfl rfl fun _ _ _ _ _ => rfl

theorem qbreak_sends (h : Head) (m : SOp) : SendsTo 32 true (.qbreak h m) h .z 1 m [] (fun _ _ => true)
    fun _ _ _ a => (.qbreak a, []) :=
  sendsTo_of false { group := 3, var := true, cmp := .compare }
    (fun _ s' _ t a => .ok (s'.addOp t h.dc.val (.qbreak a) []))
    (fun _ => rfl) ⟨rfl, rfl⟩ rfl rfl rfl fun _ _ _ _ _ => rfl

/-- Settles O23: pushes and pops that block take turns at their queues, the other queue words are words on objects. -/
theorem queueWords : Obligations.QueueWords := by
  refine ⟨?push, ?pushW, ?pop, ?popW, qinit_sends, qtrypush_sends, ?trypop, qcount_sends, qbreak_sends⟩
  case push => exact pushWord_queues (wide := false) fun _ _ _ _ => rfl
  case pushW => exact pushWord_queues (wide := true) fun _ _ _ _ => rfl
  case pop => exact popWord_queues (wide := false) fun _ _ _ _ => rfl
  case popW => exact popWord_queues (wide := true) fun _ _ _ _ => rfl
  case trypop =>
    rintro i peek (⟨rfl, rfl⟩ | ⟨rfl, rfl⟩) h d m
    · exact tryPopWord_sends (peek := false) fun _ => rfl
    · exact tryPopWord_sends (peek := true) fun _ => rfl

/-! Waits and monitors. -/

theorem waitv_does {i : Instr} {h : Head} {all : Bool} {d a b c : Reg} (he : ∀ s, exec i s = waitvWord all h d a b c s) :
    Does i h anyCls [(d, 1), (a, 4), (b, 1), (c, 2)]
      (fun s _ ts => settledAt 0 s ts && pure_ s ts [(a, 4), (b, 1), (c, 2)] &&
        ts.all fun u => (s.rN u a 4).all fun w => (descTrap s u w).isNone)
      fun s x ts => wakeWaitv (each (fun s' u => block s' u x.widx
        (.waitv all (s.rN u a 4) s.time (s.r32 u b) (s.r64 u c) (laneDst ts u d))) s ts) := by
  refine does_of (a :=
    { group := 3, regs := [(d, 1), (a, 4), (b, 1), (c, 2)], dsts := [d], wait := true, cmp := .compare, passes := true,
      settle := some 0 })
    he (fun _ _ => rfl) rfl (fun s k x hI hok => ?_) rfl fun s k x hI hok => ?_
  all_goals
    simp only [Bool.and_eq_true] at hok
    obtain ⟨⟨hsettled, hpure⟩, hdescs⟩ := hok
  · exact stalls_settled hI (.inl rfl) rfl (by simp [hsettled])
  · have hpass : ∀ u ∈ activeOf s x h, (((s.rN u a 4).findSome? (descTrap s u)).or
        (consumed s u [(a, 4), (b, 1), (c, 2)])) = none := fun u hu => by
      have hnone : (s.rN u a 4).findSome? (descTrap s u) = none := List.findSome?_eq_none_iff.2 fun w hw => by
        simpa using List.all_eq_true.1 (List.all_eq_true.1 hdescs u hu) w hw
      rw [hnone, consumed_of_pure hpure u hu]
      rfl
    obtain ⟨hgood, htraps⟩ := lanes_all_pass hpass
    dsimp only
    rw [hgood, htraps, curWidx_eq hI]
    rfl

theorem monitor_does (h : Head) (mn : Fin 2) (a : Reg) (ofs : BitVec 24) : Does (.monitor h mn a ofs) h anyCls [(a, 2)]
    (fun s _ ts => countable s h ts && pure_ s ts [(a, 2)] && ts.all fun u => canonical (addr64 (s.r64 u a) ofs))
    fun s _ ts => each (fun s' u => s'.addOp u h.dc.val
      (match translate s (s.ctxOf (crewOf u)) (s.crew (crewOf u)).priv .read (addr64 (s.r64 u a) ofs) with
       | .ok pa _ _ => .monitor mn.val (lineOf pa) false
       | _ => .monitor mn.val 0 true) []) (noteLanes s ts (fun u => addr64 (s.r64 u a) ofs) 1) ts := by
  refine does_of (a := { group := 3, regs := [(a, 2)], var := true, wait := true, cmp := .load }) (fun _ => rfl)
    (fun _ _ => rfl) rfl (fun s k x hI hok => ?_) rfl fun s k x hI hok => ?_
  all_goals
    simp only [Bool.and_eq_true] at hok
    obtain ⟨⟨hcount, hpure⟩, hcan⟩ := hok
  · exact stalls_settled hI (.inr hcount) rfl rfl
  · have hpass : ∀ u ∈ activeOf s x h, ((if canonical (addr64 (s.r64 u a) ofs) then none
        else some (protAt (addr64 (s.r64 u a) ofs) 0)).or (consumed s u [(a, 2)])) = none := fun u hu => by
      rw [if_pos (List.all_eq_true.1 hcan u hu), consumed_of_pure hpure u hu]
      rfl
    obtain ⟨hgood, htraps⟩ := lanes_all_pass hpass
    dsimp only
    rw [hgood, htraps]
    refine congrArg (WordOut.mk · [] false) (List.foldl_ext _ _ _ fun s' u _ => ?_)
    cases translate s (s.ctxOf (crewOf u)) (s.crew (crewOf u)).priv .read (addr64 (s.r64 u a) ofs) <;> rfl

theorem unmonitor_does (h : Head) (mask : Fin 4) : Does (.unmonitor h mask) h anyCls [] (fun _ _ _ => true)
    fun s _ ts => each (fun s' u => s'.updThr u fun y =>
      { y with mon0 := if mask.val % 2 = 1 then {} else y.mon0, mon1 := if 2 ≤ mask.val then {} else y.mon1 }) s ts :=
  does_of (a := { group := 3, wait := true }) (fun _ => rfl) (fun _ _ => rfl) rfl
    (fun _ _ _ hI _ => stalls_settled hI (.inl rfl) rfl rfl) rfl fun _ _ _ _ _ => rfl

/-- Lanes of a crew that is no assay pair receive values as any register write. -/
theorem foldl_giveRegs_unpaired (l : List (Nat × List RegWrite)) (s : State) (h : ∀ e ∈ l, paired s e.1 = false) :
    l.foldl (fun s' e => s'.giveRegs e.1 e.2) s = l.foldl (fun s' e => s'.putRegs e.1 e.2) s := by
  refine foldl_hom_of_inv id (fun s' r => ∀ e ∈ r, paired s' e.1 = false) (fun s' e r hr => ?_) l s h
  have hsame : ∀ u, paired (s'.putRegs e.1 e.2) u = paired s' u := (RegsOnly.putRegs s' e.1 e.2).paired_eq
  refine ⟨passOn_unpaired ((hsame e.1).trans (hr e (by simp))) e.2, fun e' he' => ?_⟩
  rw [hsame]
  exact hr e' (by simp [he'])

theorem montest_writes (h : Head) (d : Reg) : Writes (.montest h d) h anyCls [(d, 1)] fun s u =>
    wr32 d (BitVec.ofNat 32 ((s.thr u).mon0.fired.toNat + 2 * (s.thr u).mon1.fired.toNat + 256 * (s.thr u).mon0.armed.toNat +
      512 * (s.thr u).mon1.armed.toNat)) false := by
  intro s b x hI _ hf _
  refine ⟨_, issueWord_lanes hI rfl hf rfl rfl rfl rfl rfl rfl (by simp), ?_⟩
  have hregs := foldl_giveRegs_unpaired ((activeOf s x h).map fun t => (t, keepS (activeOf s x h) t
    (wr32 d (BitVec.ofNat 32 ((s.thr t).mon0.fired.toNat + 2 * (s.thr t).mon1.fired.toNat + 256 * (s.thr t).mon0.armed.toNat +
      512 * (s.thr t).mon1.armed.toNat)) false))) s fun e he => by
    obtain ⟨t, ht, rfl⟩ := List.mem_map.1 he
    exact unpaired_of_issuing hI (activeOf_sub ht)
  rw [List.foldl_map] at hregs
  rw [hregs]
  exact wrote_of_regs hI (lanes_regsOnly s _) fun u g hg => stored_lanes s _ _ (activeOf_nodup hI h) u g hg

theorem sleep_does (h : Head) (b : OpB) : Does (.sleep h b) h anyCls (b.regs 1) (fun s _ ts => pure_ s ts (b.regs 1))
    fun s x ts => each (fun s' u => if s.b32 u b = 0 then jump s' u x.clause.next
      else block s' u x.widx (.sleep (s.time + (s.b32 u b).toNat))) s ts := by
  refine does_of (a := { group := 3, regs := b.regs 1, wait := true }) (fun _ => rfl) (fun _ _ => rfl) rfl
    (fun _ _ _ hI _ => stalls_settled hI (.inl rfl) rfl rfl) rfl fun s k x hI hok => ?_
  obtain ⟨hgood, htraps⟩ := lane_pass_of_pure hok
  dsimp only
  rw [hgood, htraps, curWidx_eq hI, curClause_eq hI]
  refine congrArg (WordOut.mk · [] false) (List.foldl_ext _ _ _ fun s' u _ => ?_)
  by_cases hzero : s.b32 u b = 0
  · rw [if_pos hzero, if_pos (by rw [hzero]; rfl)]
  · have hne : (s.b32 u b).toNat ≠ 0 := fun hn => hzero (BitVec.eq_of_toNat_eq hn)
    rw [if_neg hzero, if_neg hne]

/-- Settles O24, word by word. -/
theorem waitsAndMonitors : Obligations.WaitsAndMonitors := by
  refine ⟨?waitv, monitor_does, unmonitor_does, montest_writes, sleep_does⟩
  case waitv =>
    rintro i all (⟨rfl, rfl⟩ | ⟨rfl, rfl⟩) h d a b c <;> exact waitv_does fun _ => rfl

end Sys2Proof.Machine
end

section
/-!
SUPPORT. Words on memory (R266 to R283): what the checks of R269 leave of the lanes of a global access, the scratchpad's lanes, and
the operations they leave in flight.
-/
namespace Sys2Proof.Machine

-- One theorem at a time: elaborating them side by side costs a thread stack each, and the text compiles under a memory limit.
set_option Elab.async false

/-! The lanes of a global access. -/

/-- An aligned access of a power-of-two size stays in its page. -/
theorem within_page {va size : Nat} (hd : size ∣ 4096) (ha : va % size = 0) : va % 4096 + size ≤ 4096 := by
  obtain ⟨k, hk⟩ := hd
  have hdvd : size ∣ va % 4096 := Nat.dvd_of_mod_eq_zero (by rw [Nat.mod_mod_of_dvd va ⟨k, hk⟩, ha])
  obtain ⟨j, hj⟩ := hdvd
  have hlt : va % 4096 < 4096 := Nat.mod_lt _ (by decide)
  have hjk : j < k := by
    rw [hj, hk] at hlt
    exact Nat.lt_of_mul_lt_mul_left hlt
  calc va % 4096 + size = size * (j + 1) := by rw [hj, Nat.mul_succ]
    _ ≤ size * k := Nat.mul_le_mul_left _ hjk
    _ = 4096 := hk.symm

/-- What a lane that raises no trap comes to: its page, or none. -/
def pageTr (p : Option (Nat × Nat)) : LaneTr := p.elim .fault fun q => .ok q.1 q.2

/-- R269: a lane that no check stops, in an access of one page. -/
theorem laneTr_page {s : State} {t va size align : Nat} {kind : AccKind} {use : Option TrapInfo}
    (hperm : (match translate s (s.ctxOf (crewOf t)) (s.crew (crewOf t)).priv kind va with | .prot _ => false | _ => true) = true)
    (hpage : va % 4096 + size ≤ 4096) (halign : va % align = 0) (huse : use = none) :
    laneTr s t va size align kind use = pageTr (pageOf s t va kind) := by
  unfold laneTr pageOf
  cases htr : translate s (s.ctxOf (crewOf t)) (s.crew (crewOf t)).priv kind va <;> simp_all [pageTr]

/-- A lane of an access that may cross into a second page, with both there. -/
theorem laneTr_pages {s : State} {t va size align : Nat} {kind : AccKind} {use : Option TrapInfo}
    (hfirst : (pageOf s t va kind).isSome = true) (hlast : (pageOf s t ((va + size - 1) % 2 ^ 64) kind).isSome = true)
    (halign : va % align = 0) (huse : use = none) :
    laneTr s t va size align kind use = pageTr (pageOf s t va kind) := by
  unfold laneTr
  unfold pageOf at hfirst hlast ⊢
  cases htr : translate s (s.ctxOf (crewOf t)) (s.crew (crewOf t)).priv kind va with
  | ok pa proto x =>
    cases htr2 : translate s (s.ctxOf (crewOf t)) (s.crew (crewOf t)).priv kind ((va + size - 1) % 2 ^ 64) with
    | ok pa2 proto2 x2 => split <;> simp_all [pageTr]
    | _ =>
      rw [htr2] at hlast
      cases hlast
  | _ =>
    rw [htr] at hfirst
    cases hfirst

/-- The lane of an access, with its address, physical address and protocol. -/
def laneEntry (ea : Nat → Nat) (P : Nat → Option (Nat × Nat)) (t : Nat) : Nat × Nat × Nat × Nat :=
  (t, ea t, ((P t).getD (0, 0)).1, ((P t).getD (0, 0)).2)

/-- Lanes of which none traps: those whose pages are there go on, the others fault. -/
theorem globalOut_pages {s : State} {ts : List Nat} {ea : Nat → Nat} {size align : Nat} {kind : AccKind}
    {use : Nat → Option TrapInfo} (P : Nat → Option (Nat × Nat))
    (hlane : ∀ t ∈ ts, laneTr s t (ea t) size align kind (use t) = pageTr (P t)) :
    globalOut s ts ea size align kind use =
      { go := (ts.filter fun t => (P t).isSome).map (laneEntry ea P),
        faults := (ts.filter fun t => !(P t).isSome).map fun t => (t, ea t), traps := [] } := by
  have hrs : (ts.map fun t => (t, laneTr s t (ea t) size align kind (use t))) = ts.map fun t => (t, pageTr (P t)) :=
    List.map_congr_left fun t ht => by rw [hlane t ht]
  have hgo : ∀ l : List Nat, (l.map fun t => (t, pageTr (P t))).filterMap (fun r => match r.2 with
      | .ok pa proto => some (r.1, ea r.1, pa, proto)
      | _ => none) = (l.filter fun t => (P t).isSome).map (laneEntry ea P) := fun l => by
    induction l with
    | nil => rfl
    | cons t r ih => cases hp : P t <;> simp_all [pageTr, laneEntry]
  have hfault : ∀ l : List Nat, (l.map fun t => (t, pageTr (P t))).filterMap (fun r => match r.2 with
      | .fault => some (r.1, ea r.1)
      | _ => none) = (l.filter fun t => !(P t).isSome).map fun t => (t, ea t) := fun l => by
    induction l with
    | nil => rfl
    | cons t r ih => cases hp : P t <;> simp_all [pageTr]
  have htrap : ∀ l : List Nat, (l.map fun t => (t, pageTr (P t))).filterMap (fun r => match r.2 with
      | .trap i => some (r.1, i)
      | _ => none) = [] := fun l => by
    induction l with
    | nil => rfl
    | cons t r ih => cases hp : P t <;> simp_all [pageTr]
  unfold globalOut
  simp only [hrs]
  split
  · rename_i va hperm
    obtain ⟨r, hr, hva⟩ := List.exists_of_findSome?_eq_some hperm
    obtain ⟨t, -, rfl⟩ := List.mem_map.1 hr
    cases hp : P t <;> simp [hp, pageTr] at hva
  · exact congr (congr (congrArg GlobalOut.mk (hgo ts)) (hfault ts)) (htrap ts)

/-- The entry of a lane among those of a list of lanes. -/
theorem find?_laneEntry {α : Type} {f : Nat → α} (l : List Nat) (t : Nat) :
    ((l.map fun u => (u, f u)).find? fun r => r.1 == t) = if t ∈ l then some (t, f t) else none := by
  induction l with
  | nil => rfl
  | cons u r ih =>
    by_cases hut : u = t
    · simp [hut]
    · rw [List.map_cons, List.find?_cons_of_neg (by simpa using hut), ih]
      simp [Ne.symm hut]

/-- MIXCHK over lanes it allows, each in its turn (R258). -/
theorem mixLanes_turns {size : Nat} {strong : Bool} {ent : Nat → Nat × Nat × Nat × Nat} (hent : ∀ t, (ent t).1 = t)
    (faults : List (Nat × Nat)) (l : List Nat) (s : State)
    (h : turns (fun s' u => (mixCheck s' u (ent u).2.2.1 size strong).isSome)
      (fun s' u => (mixCheck s' u (ent u).2.2.1 size strong).getD s') s l = true) :
    mixLanes s { go := l.map ent, faults := faults, traps := [] } size strong =
      (each (fun s' u => (mixCheck s' u (ent u).2.2.1 size strong).getD s') s l, { go := l.map ent, faults := faults, traps := [] }) := by
  unfold mixLanes
  suffices hfold : ∀ (l : List Nat) (s : State) (gone : List (Nat × Nat × Nat × Nat)),
      turns (fun s' u => (mixCheck s' u (ent u).2.2.1 size strong).isSome)
        (fun s' u => (mixCheck s' u (ent u).2.2.1 size strong).getD s') s l = true →
      (l.map ent).foldl (fun (acc : State × GlobalOut) r =>
        match mixCheck acc.1 r.1 r.2.2.1 size strong with
        | some s => (s, { acc.2 with go := acc.2.go ++ [r] })
        | none => (acc.1, { acc.2 with traps := acc.2.traps ++ [(r.1, { trap := .mixsize, addr := r.2.1 })] }))
        (s, { go := gone, faults := faults, traps := [] }) =
      (each (fun s' u => (mixCheck s' u (ent u).2.2.1 size strong).getD s') s l,
        { go := gone ++ l.map ent, faults := faults, traps := [] }) from hfold l s [] h
  intro l
  induction l with
  | nil => intro s gone _; simp [each]
  | cons t r ih =>
    intro s gone hturns
    rw [turns_cons, Bool.and_eq_true_iff] at hturns
    obtain ⟨hmix, hrest⟩ := hturns
    obtain ⟨s', hs'⟩ := Option.isSome_iff_exists.1 hmix
    rw [hs', Option.getD_some] at hrest
    simp only [List.map_cons, List.foldl_cons, hent, hs', ih s' _ hrest, each, Option.getD_some, List.append_assoc,
      List.singleton_append]

/-! Loads. -/

/-- A page that lets the access through, or is absent (R268). -/
def permitted (s : State) (u va : Nat) (kind : AccKind) : Bool :=
  match translate s (s.ctxOf (crewOf u)) (s.crew (crewOf u)).priv kind va with
  | .prot _ => false
  | _ => true

/-- A lane of a global access that `mayAccess` lets through. -/
theorem mayAccess_iff {s : State} {u va size : Nat} {kind : AccKind} {rs : List (Reg × Nat)} {rd wr : Bool} :
    mayAccess s u va size kind rs rd wr = true ↔ permitted s u va kind = true ∧ va % size = 0 ∧ s.isPoisoned u rs = false ∧
      watchHit s u false va size rd wr = [] := by
  show (permitted s u va kind && _ && _ && _) = true ↔ _
  simp [and_assoc]

theorem laneTr_mayAccess {s : State} {u va size : Nat} {kind : AccKind} {rs : List (Reg × Nat)} {rd wr : Bool}
    (hd : size ∣ 4096) (h : mayAccess s u va size kind rs rd wr = true) :
    laneTr s u va size size kind (consumed s u rs) = pageTr (pageOf s u va kind) := by
  obtain ⟨hperm, halign, hpure, -⟩ := mayAccess_iff.1 h
  exact laneTr_page hperm (within_page hd halign) halign (consumed_none.2 hpure)

/-- The lanes of an access whose pages are there, each with its page. -/
def goingLanes (s : State) (ts : List Nat) (ea : Nat → Nat) (kind : AccKind) : List (Nat × Nat × Nat × Nat) :=
  (ts.filter fun t => (pageOf s t (ea t) kind).isSome).map (laneEntry ea fun t => pageOf s t (ea t) kind)

/-- The lanes whose pages are absent. -/
def faultingLanes (s : State) (ts : List Nat) (ea : Nat → Nat) (kind : AccKind) : List (Nat × Nat) :=
  (ts.filter fun t => !(pageOf s t (ea t) kind).isSome).map fun t => (t, ea t)

theorem find?_goingLanes {s : State} {ts : List Nat} {ea : Nat → Nat} {kind : AccKind} {t : Nat} (ht : t ∈ ts) :
    ((goingLanes s ts ea kind).find? fun r => r.1 == t) =
      if (pageOf s t (ea t) kind).isSome then some (laneEntry ea (fun t => pageOf s t (ea t) kind) t) else none := by
  rw [goingLanes, show laneEntry ea (fun t => pageOf s t (ea t) kind) = fun t => (t, (laneEntry ea (fun t => pageOf s t (ea t) kind) t).2)
    from rfl, find?_laneEntry]
  simp [ht]

theorem find?_faultingLanes {s : State} {ts : List Nat} {ea : Nat → Nat} {kind : AccKind} {t : Nat} (ht : t ∈ ts) :
    ((faultingLanes s ts ea kind).find? fun r => r.1 == t) =
      if (pageOf s t (ea t) kind).isSome then none else some (t, ea t) := by
  rw [faultingLanes, find?_laneEntry]
  simp only [List.mem_filter, ht, true_and]
  cases (pageOf s t (ea t) kind).isSome <;> rfl

/-- No watchpoint stops the lanes that go on. -/
theorem watch_goingLanes {s : State} {ts : List Nat} {ea : Nat → Nat} {kind : AccKind} {size : Nat} {rd wr : Bool}
    (h : ∀ t ∈ ts, watchHit s t false (ea t) size rd wr = []) :
    ((goingLanes s ts ea kind).flatMap fun r => watchHit s r.1 false r.2.1 size rd wr) = [] := by
  refine List.flatMap_eq_nil_iff.2 fun r hr => ?_
  obtain ⟨t, ht, rfl⟩ := List.mem_map.1 hr
  exact h t (List.mem_filter.1 ht).1

/-- R392: no lane that supplies an s register faults. -/
theorem faultTraps_faultingLanes {s : State} {ts : List Nat} {ea : Nat → Nat} {kind : AccKind} {d : Reg} {g : GlobalOut}
    (hg : g.faults = faultingLanes s ts ea kind)
    (h : ∀ t ∈ ts, ((pageOf s t (ea t) kind).isSome || !Reg.isS d || !supplies ts t) = true) : faultTraps ts d g = [] := by
  unfold faultTraps
  cases hs : Reg.isS d with
  | false => rfl
  | true =>
    rw [if_pos rfl, hg, List.filterMap_eq_nil_iff]
    intro r hr
    obtain ⟨t, ht, rfl⟩ := List.mem_map.1 hr
    obtain ⟨hmem, habsent⟩ := List.mem_filter.1 ht
    have hlane := h t hmem
    rw [Bool.not_eq_true'] at habsent
    have hsupp : supplies ts t = false := by simpa [habsent, hs] using hlane
    exact if_neg (by simp [hsupp])

/-- MIXCHK allows the lanes that go on (R258). -/
theorem mixLanes_goingLanes {s : State} {m : MOp} {kind : AccKind} {size : Nat} {strong : Bool} {ts : List Nat}
    (h : mixes s m kind size strong (ts.filter (here s m kind)) = true) :
    mixLanes s { go := goingLanes s ts (ea64 s m) kind, faults := faultingLanes s ts (ea64 s m) kind, traps := [] } size strong =
      (each (mixed s m kind size strong) s (ts.filter (here s m kind)),
        { go := goingLanes s ts (ea64 s m) kind, faults := faultingLanes s ts (ea64 s m) kind, traps := [] }) :=
  mixLanes_turns (ent := laneEntry (ea64 s m) fun t => pageOf s t (ea64 s m t) kind) (fun _ => rfl) _ _ s h

/-- What one lane of LD does (R271, R390). -/
def loadLane (size : Nat) (signed : Bool) (h : Head) (d : Reg) (m : MOp) (s : State) (ts : List Nat) (g : GlobalOut) (s' : State)
    (t : Nat) : State :=
  match g.go.find? (fun r => r.1 == t), g.faults.find? (fun r => r.1 == t) with
  | some r, _ =>
    s'.addAccess t h.dc.val (mkAcc s t r.2.1 r.2.2.1 r.2.2.2 size m s.seq)
      (fun a => .load a { signed := signed, dst := laneDst ts t d }) (destsOf (laneDst ts t d) (regsFor size))
  | none, some r => poisonLane s' t h.dc.val r.2 (laneDst ts t d) (regsFor size)
  | none, none => s'

theorem loadLane_pages {size : Nat} {signed : Bool} {h : Head} {d : Reg} {m : MOp} {s : State} {ts : List Nat} {t : Nat}
    (ht : t ∈ ts) (s' : State) :
    loadLane size signed h d m s ts
        { go := goingLanes s ts (ea64 s m) .read, faults := faultingLanes s ts (ea64 s m) .read, traps := [] } s' t =
      if here s m .read t then s'.addAccess t h.dc.val (accOf s t m size .read)
        (fun a => .load a { signed := signed, dst := laneDst ts t d }) (destsOf (laneDst ts t d) (regsFor size))
      else poisonLane s' t h.dc.val (ea64 s m t) (laneDst ts t d) (regsFor size) := by
  unfold loadLane here
  rw [find?_goingLanes ht, find?_faultingLanes ht]
  cases (pageOf s t (ea64 s m t) .read).isSome <;> rfl

/-- R271, R390: LD. -/
theorem loads_of {size : Nat} {signed : Bool} {i : Head → Reg → MOp → Instr} (hd : size ∣ 4096)
    (he : ∀ h d m s, exec (i h d m) s = loadWord size signed h d m s) : Loads size signed i := by
  intro h d m
  refine does_of (a :=
    { group := 4, regs := [(m.base, 2), (d, regsFor size)], dsts := [d], var := true, cmp := .load, passes := true })
    (he h d m) (fun _ _ => rfl) rfl (fun s b x hI hok => ?_) rfl fun s b x hI hok => ?_
  all_goals
    simp only [Bool.and_eq_true, List.all_eq_true] at hok
    obtain ⟨⟨hcount, hlanes⟩, hmixes⟩ := hok
  · exact stalls_settled hI (.inr hcount) rfl rfl
  · set ts := activeOf s x h
    have hg : globalOut s ts (ea64 s m) size size .read (fun t => consumed s t [(m.base, 2)]) =
        { go := goingLanes s ts (ea64 s m) .read, faults := faultingLanes s ts (ea64 s m) .read, traps := [] } :=
      globalOut_pages (fun t => pageOf s t (ea64 s m t) .read) fun t ht => laneTr_mayAccess hd (hlanes t ht).1
    have hfault := faultTraps_faultingLanes (g :=
      { go := goingLanes s ts (ea64 s m) .read, faults := faultingLanes s ts (ea64 s m) .read, traps := [] }) rfl
      fun t ht => (hlanes t ht).2
    have hwatch := watch_goingLanes (kind := .read) fun t ht => (mayAccess_iff.1 (hlanes t ht).1).2.2.2
    dsimp only
    rw [hg, mixLanes_goingLanes hmixes]
    dsimp only
    rw [hfault, hwatch]
    exact congrArg (WordOut.mk · [] false) (List.foldl_ext _ _ _ fun s' t ht => loadLane_pages ht s')

/-! Writes. -/

theorem noteTlb_place (s : State) (c va : Nat) :
    (s.noteTlb c va).cur = s.cur ∧ (s.noteTlb c va).bundles = s.bundles := by
  unfold State.noteTlb
  dsimp only
  split <;> exact ⟨rfl, rfl⟩

theorem noteLanes_place (ts : List Nat) (ea : Nat → Nat) (size : Nat) (s : State) :
    (noteLanes s ts ea size).cur = s.cur ∧ (noteLanes s ts ea size).bundles = s.bundles := by
  unfold noteLanes
  induction ts generalizing s with
  | nil => exact ⟨rfl, rfl⟩
  | cons t r ih =>
    rw [List.foldl_cons]
    obtain ⟨hcur, hbundles⟩ := ih _
    rw [hcur, hbundles]
    dsimp only
    have hfirst := noteTlb_place s (s.ctxOf (crewOf t)) (ea t)
    split
    · exact hfirst
    · have hsecond := noteTlb_place (s.noteTlb (s.ctxOf (crewOf t)) (ea t)) (s.ctxOf (crewOf t)) ((ea t + size - 1) % 2 ^ 64)
      exact ⟨hsecond.1.trans hfirst.1, hsecond.2.trans hfirst.2⟩

theorem curWidx_noteLanes {s : State} {b : Nat} {x : Bundle} (hI : Issuing s b x = true) (ts : List Nat) (ea : Nat → Nat)
    (size : Nat) : curWidx (noteLanes s ts ea size) = x.widx := by
  obtain ⟨hcur, hbundles⟩ := noteLanes_place ts ea size s
  have hsame : curBundle (noteLanes s ts ea size) = curBundle s := by
    unfold curBundle
    rw [hcur, hbundles]
  rw [curWidx, hsame, curBundle_eq hI]
  rfl

/-- Lanes whose pages are all there. -/
theorem faultingLanes_nil {s : State} {ts : List Nat} {ea : Nat → Nat} {kind : AccKind}
    (h : ∀ t ∈ ts, (pageOf s t (ea t) kind).isSome = true) : faultingLanes s ts ea kind = [] := by
  rw [faultingLanes, List.filter_eq_nil_iff.2 fun t ht => by simp [h t ht], List.map_nil]

theorem goingLanes_all {s : State} {ts : List Nat} {ea : Nat → Nat} {kind : AccKind}
    (h : ∀ t ∈ ts, (pageOf s t (ea t) kind).isSome = true) :
    goingLanes s ts ea kind = ts.map (laneEntry ea fun t => pageOf s t (ea t) kind) := by
  rw [goingLanes, List.filter_eq_self.2 h]

/-- Lanes some of whose pages are absent. -/
theorem faultingLanes_isEmpty {s : State} {ts : List Nat} {ea : Nat → Nat} {kind : AccKind}
    (h : (ts.all fun t => (pageOf s t (ea t) kind).isSome) = false) : (faultingLanes s ts ea kind).isEmpty = false := by
  obtain ⟨t, ht, habsent⟩ := List.all_eq_false.1 h
  rw [List.isEmpty_eq_false_iff]
  refine List.ne_nil_of_mem (a := (t, ea t)) (List.mem_map.2 ⟨t, List.mem_filter.2 ⟨ht, ?_⟩, rfl⟩)
  simpa using habsent

section
variable {size type n : Nat} {kind : AccKind} {rmw : Bool} {i : Head → Reg → MOp → Instr} {place : MOp → MOp} {dst : Nat}
  {op : State → Nat → Reg → Acc → POp} {dstReg : Reg → Option (Reg × Nat)}

/-- What one lane of a word that writes leaves in flight. -/
def writeLane (size : Nat) (kind : AccKind) (rmw : Bool) (dst : Nat) (op : State → Nat → Reg → Acc → POp) (h : Head) (d : Reg)
    (m : MOp) (s : State) (ts : List Nat) (s' : State) (u : Nat) : State :=
  let a := { accOf s u m size kind with ord := if rmw && m.ord = .weak then .rlx else m.ord }
  let s2 := s'.addAccess u h.dc.val a (op s u d) (destsOf (laneDst ts u d) dst)
  storeCopy s2 (s2.seq - 1)

/-- A word that writes, whose lanes' pages are all there (R271, R273 to R275). -/
theorem writes_go {i : Instr} {h : Head} {d : Reg} {m : MOp} {q : Option (Reg × Nat)} (hd : size ∣ 4096)
    (hq : q = none ∧ dst = 0 ∨ q = some (d, dst))
    (he : ∀ s, exec i s = writeWord size type n kind rmw h d m q m.ofs (fun s t a => op s t d a) s) :
    Does i h anyCls [(m.base, 2), (d, n)]
      (fun s _ ts => countable s h ts && (ts.all fun u =>
        mayAccess s u (ea64 s m u) size kind [(m.base, 2), (d, n)] rmw true && here s m kind u) &&
        mixes s m kind size (rmw || m.ord != .weak) ts)
      (fun s _ ts =>
        let s1 := each (mixed s m kind size (rmw || m.ord != .weak)) s ts
        each (writeLane size kind rmw dst op h d m s ts)
          (noteLanes (if rmw || wide m.ord m.scope then endInterval s1 ts else s1) ts (ea64 s m) size) ts) := by
  refine does_of (a :=
    { group := 4, regs := [(m.base, 2), (d, n)], dsts := (q.map Prod.fst).toList, var := true, wait := true, cmp := .compare,
      passes := q.isSome })
    he (fun _ _ => rfl) rfl (fun s b x hI hok => ?_) rfl fun s b x hI hok => ?_
  all_goals
    simp only [Bool.and_eq_true, List.all_eq_true] at hok
    obtain ⟨⟨hcount, hlanes⟩, hmixes⟩ := hok
  · exact stalls_settled hI (.inr hcount) rfl rfl
  · set ts := activeOf s x h
    have hhere : ∀ t ∈ ts, (pageOf s t (ea64 s m t) kind).isSome = true := fun t ht => (hlanes t ht).2
    have hall : ts.filter (here s m kind) = ts := List.filter_eq_self.2 hhere
    have hg : globalOut s ts (ea64 s m) size size kind (fun t => consumed s t [(m.base, 2), (d, n)]) =
        { go := goingLanes s ts (ea64 s m) kind, faults := faultingLanes s ts (ea64 s m) kind, traps := [] } :=
      globalOut_pages (fun t => pageOf s t (ea64 s m t) kind) fun t ht => laneTr_mayAccess hd (hlanes t ht).1
    have hwatch := watch_goingLanes (kind := kind) fun t ht => (mayAccess_iff.1 (hlanes t ht).1).2.2.2
    have hmix := mixLanes_goingLanes (s := s) (ts := ts) (by rw [hall]; exact hmixes)
    rw [hall] at hmix
    dsimp only
    rw [hg]
    dsimp only
    rw [if_neg (by simp [faultingLanes_nil hhere]), hmix]
    dsimp only
    rw [hwatch, goingLanes_all hhere, List.foldl_map]
    refine congrArg (WordOut.mk · [] false) (List.foldl_ext _ _ _ fun s' t _ => ?_)
    rcases hq with ⟨rfl, rfl⟩ | rfl <;> rfl

/-- The same where a page is absent: every lane waits (R268, R393). -/
theorem writes_park {i : Instr} {h : Head} {d : Reg} {m : MOp} {q : Option (Reg × Nat)} (hd : size ∣ 4096)
    (he : ∀ s, exec i s = writeWord size type n kind rmw h d m q m.ofs (fun s t a => op s t d a) s) :
    Does i h anyCls [(m.base, 2), (d, n)]
      (fun s _ ts => countable s h ts && (ts.all fun u =>
        mayAccess s u (ea64 s m u) size kind [(m.base, 2), (d, n)] rmw true) && !ts.all (here s m kind))
      fun s x ts => parkThreads (noteLanes s ts (ea64 s m) size) ts x.widx type 0
        ((ts.filter fun u => !here s m kind u).foldl (fun gs u => addSector gs (ea64 s m u) size) []) := by
  refine does_of (a :=
    { group := 4, regs := [(m.base, 2), (d, n)], dsts := (q.map Prod.fst).toList, var := true, wait := true, cmp := .compare,
      passes := q.isSome })
    he (fun _ _ => rfl) rfl (fun s b x hI hok => ?_) rfl fun s b x hI hok => ?_
  all_goals
    simp only [Bool.and_eq_true, List.all_eq_true, Bool.not_eq_true'] at hok
    obtain ⟨⟨hcount, hlanes⟩, habsent⟩ := hok
  · exact stalls_settled hI (.inr hcount) rfl rfl
  · set ts := activeOf s x h
    have hg : globalOut s ts (ea64 s m) size size kind (fun t => consumed s t [(m.base, 2), (d, n)]) =
        { go := goingLanes s ts (ea64 s m) kind, faults := faultingLanes s ts (ea64 s m) kind, traps := [] } :=
      globalOut_pages (fun t => pageOf s t (ea64 s m t) kind) fun t ht => laneTr_mayAccess hd (hlanes t ht)
    have hfaults : (faultingLanes s ts (ea64 s m) kind).isEmpty = false := faultingLanes_isEmpty habsent
    have hall : (ts.filter fun t => !([] : List (Nat × TrapInfo)).any fun r => r.1 == t) = ts :=
      List.filter_eq_self.2 fun _ _ => rfl
    dsimp only
    rw [hg]
    dsimp only
    rw [if_pos (by simp [hfaults]), parkAll]
    dsimp only
    rw [hall, curWidx_noteLanes hI, faultingLanes, List.foldl_map]
    rfl

/-- A word that writes, both where its pages are there and where one is absent. -/
theorem writesTo_of (hd : size ∣ 4096) (hq : (∀ d, dstReg d = none) ∧ dst = 0 ∨ ∀ d, dstReg d = some (d, dst))
    (he : ∀ h d m s, exec (i h d m) s = writeWord size type n kind rmw h d (place m) (dstReg d) (place m).ofs
      (fun s t a => op s t d a) s) (hplace : ∀ m, (place m).base = m.base ∧ (place m).ord = m.ord ∧ (place m).scope = m.scope) :
    WritesTo size type n kind rmw i place dst op := by
  intro h d m
  obtain ⟨hbase, hord, hscope⟩ := hplace m
  have hq' : dstReg d = none ∧ dst = 0 ∨ dstReg d = some (d, dst) := hq.imp (fun hn => ⟨hn.1 d, hn.2⟩) fun hs => hs d
  rw [← hbase, ← hord, ← hscope]
  exact ⟨writes_go hd hq' (he h d m), writes_park hd (he h d m)⟩

end

/-- Sizes of accesses. -/
theorem dvd_4096 {n : Nat} (h : n ∈ [1, 2, 4, 8, 16]) : n ∣ 4096 := by
  simp only [List.mem_cons, List.not_mem_nil, or_false] at h
  obtain rfl | rfl | rfl | rfl | rfl := h <;> decide

theorem storeWord_writes {n : Nat} {i : Head → Reg → MOp → Instr} (hn : n ∈ [1, 2, 4, 8, 16])
    (he : ∀ h d m s, exec (i h d m) s = storeWord n h d m s) :
    WritesTo n 1 (regsFor n) .write false i id 0 fun s u d a => .store a (dataOf s u d n) 0 :=
  writesTo_of (dstReg := fun _ => none) (dvd_4096 hn) (.inl ⟨fun _ => rfl, rfl⟩) he fun _ => ⟨rfl, rfl, rfl⟩

theorem atomWord_writes {n : Nat} {f : Rmw} {i : Head → Reg → MOp → Instr} (hn : n ∈ [1, 2, 4, 8, 16])
    (he : ∀ h d m s, exec (i h d m) s = atomWord n f h d m s) :
    WritesTo n 2 (n / 4) .rmw true i id (n / 4) fun s u d a => .rmw a f (s.r64 u d) (some d) :=
  writesTo_of (dstReg := fun d => some (d, n / 4)) (dvd_4096 hn) (.inr fun _ => rfl) he fun _ => ⟨rfl, rfl, rfl⟩

theorem casWord_writes {n : Nat} {i : Head → Reg → MOp → Instr} (hn : n ∈ [1, 2, 4, 8, 16])
    (he : ∀ h d m s, exec (i h d m) s = casWord n h d m s) :
    WritesTo n 2 (n / 2) .rmw true i id (n / 4) fun s u d a => .cas a (dataOf s u d n) (dataOf s u (d.plus (n / 4)) n) d :=
  writesTo_of (dstReg := fun d => some (d, n / 4)) (dvd_4096 hn) (.inr fun _ => rfl) he fun _ => ⟨rfl, rfl, rfl⟩

theorem redWord_writes {n : Nat} {r : RedOp} {i : Head → Reg → MOp → Instr} (hn : n ∈ [1, 2, 4, 8, 16])
    (he : ∀ h d m s, exec (i h d m) s = redWord n h r d m s) :
    WritesTo n 2 (n / 4) .write true i (fun m => { m with ofs := (m.ofs.extractLsb' 0 20).signExtend 24 }) 0
      fun s u d a => .rmw a (redFn n r) (s.r64 u d) none :=
  writesTo_of (dstReg := fun _ => none) (dvd_4096 hn) (.inl ⟨fun _ => rfl, rfl⟩) he fun _ => ⟨rfl, rfl, rfl⟩

/-! Scratchpads. -/

/-- A lane of a scratchpad word that goes on. -/
def scratchGoes (s : State) (u : Nat) (clus mcast rd wr : Bool) (ea size : Nat) (rs : List (Reg × Nat)) : Bool :=
  ((scratchTargets s u clus mcast ea size).any fun as =>
    (as.filterMap (ownOffset s u)).all fun o => (watchHit s u true o size rd wr).isEmpty) &&
    ea % size == 0 && !s.isPoisoned u rs

theorem scratchLane_goes {s : State} {u : Nat} {clus mcast rd wr : Bool} {ea size : Nat} {rs : List (Reg × Nat)}
    (h : scratchGoes s u clus mcast rd wr ea size rs = true) :
    scratchLane s u clus mcast ea size (consumed s u rs) = .ok ((scratchTargets s u clus mcast ea size).getD []) ∧
      ((((scratchTargets s u clus mcast ea size).getD []).filterMap (ownOffset s u)).flatMap fun o =>
        watchHit s u true o size rd wr) = [] := by
  simp only [scratchGoes, Bool.and_eq_true, beq_iff_eq, Bool.not_eq_true'] at h
  obtain ⟨⟨htargets, halign⟩, hpure⟩ := h
  obtain ⟨as, has, hwatch⟩ := (Option.any_eq_true ..).1 htargets
  refine ⟨by simp [scratchLane, has, halign, consumed_none.2 hpure], ?_⟩
  rw [has, Option.getD_some, List.flatMap_eq_nil_iff]
  exact fun o ho => List.isEmpty_iff.1 (List.all_eq_true.1 hwatch o ho)

/-- R229, R230, R272, R276: a scratchpad word whose lanes all go on. -/
theorem scratchWord_does {i : Instr} {h : Head} {d : Reg} {m : MOp} {size n : Nat} {clus mcast rd wr irrev : Bool}
    {q : Option (Reg × Nat)} {dst : Option Nat} {op : State → List Nat → Nat → Acc → POp}
    (hq : q = dst.map fun k => (d, k))
    (he : ∀ s, exec i s = scratchWord size n clus mcast rd wr irrev h d m q (fun s t ts a => op s ts t a) s) :
    Does i h anyCls [(m.base, 1), (d, n)]
      (fun s _ ts => countable s h ts && ts.all fun u =>
        scratchGoes s u clus mcast rd wr (ea32 s m u) size ((m.base, 1) :: if wr then [(d, n)] else []))
      fun s _ ts => each (fun s' u =>
        let as := (scratchTargets s u clus mcast (ea32 s m u) size).getD []
        each (fun s2 i => s2.addAccess u (if i + 1 = as.length then h.dc.val else 0)
          (scratchAcc s u (ea32 s m u) (as.getD i 0) size clus m.ord s.seq) (op s ts u)
          (dst.elim [] fun k => destsOf (laneDst ts u d) k))
          (if irrev || (clus && as.any fun a => (ownOffset s u a).isNone) then endInterval s' [u] else s')
          (List.range as.length)) s ts := by
  subst hq
  refine does_of (a :=
    { group := 4, regs := [(m.base, 1), (d, n)], dsts := ((dst.map fun k => (d, k)).map Prod.fst).toList, var := true, wait := wr,
      cmp := if wr then .compare else .load, passes := (dst.map fun k => (d, k)).isSome })
    he (fun _ _ => rfl) rfl (fun s b x hI hok => ?_) rfl fun s b x hI hok => ?_
  all_goals
    simp only [Bool.and_eq_true, List.all_eq_true] at hok
    obtain ⟨hcount, hlanes⟩ := hok
  · exact stalls_settled hI (.inr hcount) rfl rfl
  · set ts := activeOf s x h
    have hrs : (ts.map fun t => (t, ea32 s m t, scratchLane s t clus mcast (ea32 s m t) size
          (consumed s t ((m.base, 1) :: if wr then [(d, n)] else [])))) =
        ts.map fun t => (t, ea32 s m t, .ok ((scratchTargets s t clus mcast (ea32 s m t) size).getD [])) :=
      List.map_congr_left fun t ht => by rw [(scratchLane_goes (hlanes t ht)).1]
    dsimp only
    rw [hrs]
    have htraps : (ts.flatMap fun t => (((scratchTargets s t clus mcast (ea32 s m t) size).getD []).filterMap
        (ownOffset s t)).flatMap fun o => watchHit s t true o size rd wr) = [] :=
      List.flatMap_eq_nil_iff.2 fun t ht => (scratchLane_goes (hlanes t ht)).2
    rw [List.foldl_map, List.flatMap_map]
    refine (congrArg (WordOut.mk _ · false) htraps).trans (congrArg (WordOut.mk · [] false) (List.foldl_ext _ _ _ fun s' t _ => ?_))
    cases dst <;> rfl

theorem scratchLoad_scratch {n : Nat} {signed clus : Bool} {i : Head → Reg → MOp → Instr}
    (he : ∀ h d m s, exec (i h d m) s = scratchLoad n signed clus h d m s) :
    Scratch n (regsFor n) (fun _ => clus) false true false false i (some (regsFor n))
      fun _ ts u d a => .load a { signed := signed, dst := laneDst ts u d } :=
  fun h d m => scratchWord_does (dst := some (regsFor n))
    (op := fun _ ts u a => .load a { signed := signed, dst := laneDst ts u d }) rfl (he h d m)

theorem scratchStore_scratch {n : Nat} {clus : Bool} {i : Head → Reg → MOp → Instr}
    (he : ∀ h d m s, exec (i h d m) s = scratchStore n clus h d m s) :
    Scratch n (regsFor n) (fun _ => clus) clus false true false i none fun s _ u d a => .store a (dataOf s u d n) 0 :=
  fun h d m => scratchWord_does (dst := none) (op := fun s _ u a => .store a (dataOf s u d n) 0) rfl (he h d m)

theorem scratchAtom_scratch {f : Rmw} {i : Head → Reg → MOp → Instr}
    (he : ∀ h d m s, exec (i h d m) s = scratchAtom f h d m s) :
    Scratch 4 1 (fun m => m.scope == .clus) false true true true i (some 1)
      fun s ts u d a => .rmw a f ((s.r32 u d).zeroExtend 64) (some (laneDst ts u d)) :=
  fun h d m => scratchWord_does (dst := some 1)
    (op := fun s ts u a => .rmw a f ((s.r32 u d).zeroExtend 64) (some (laneDst ts u d))) rfl (he h d m)

theorem scratchCas_scratch : Scratch 4 2 (fun m => m.scope == .clus) false true true true .atomsCasB32 (some 1)
    fun s _ u d a => .cas a (dataOf s u d 4) (dataOf s u (d.plus 1) 4) d :=
  fun _ d _ => scratchWord_does (dst := some 1)
    (op := fun s _ u a => .cas a (dataOf s u d 4) (dataOf s u (d.plus 1) 4) d) rfl fun _ => rfl

/-! The constant bank. -/

/-- R42, R272: LDC of lanes whose bytes are there. -/
theorem bank_of {size : Nat} {i : Head → Reg → MOp → Instr} (he : ∀ h d m s, exec (i h d m) s = ldcWord size h d m s) :
    Bank size i := by
  intro h d m
  refine does_of (a :=
    { group := 4, regs := [(m.base, 1), (d, regsFor size)], dsts := [d], var := true, cmp := .load, passes := true })
    (he h d m) (fun _ _ => rfl) rfl (fun s b x hI hok => ?_) rfl fun s b x hI hok => ?_
  all_goals
    simp only [Bool.and_eq_true, List.all_eq_true, decide_eq_true_eq, beq_iff_eq, Bool.not_eq_true'] at hok
    obtain ⟨hcount, hlanes⟩ := hok
  · exact stalls_settled hI (.inr hcount) rfl rfl
  · set ts := activeOf s x h
    have hnear : ∀ t ∈ ts, decide (65536 ≤ ea32 s m t) = false := fun t ht => by
      simpa using (hlanes t ht).1.1.1.1.1
    have hok : (ts.filter fun t => !decide (65536 ≤ ea32 s m t)) = ts := List.filter_eq_self.2 fun t ht => by simp [hnear t ht]
    have hfar : (ts.filter fun t => decide (65536 ≤ ea32 s m t)) = [] :=
      List.filter_eq_nil_iff.2 fun t ht => by simp [hnear t ht]
    have hhere : ∀ t ∈ ts, (pageOf s t (bankVa s m t) .read).isSome = true := fun t ht => (hlanes t ht).1.1.2
    have hg : globalOut s ts (bankVa s m) size 1 .read (fun t =>
        (if ea32 s m t % size = 0 then none else some { trap := .align, addr := ea32 s m t }).or (consumed s t [(m.base, 1)])) =
        { go := goingLanes s ts (bankVa s m) .read, faults := faultingLanes s ts (bankVa s m) .read, traps := [] } :=
      globalOut_pages (fun t => pageOf s t (bankVa s m t) .read) fun t ht => by
        obtain ⟨⟨⟨⟨⟨_, halign⟩, hpure⟩, hfirst⟩, hlast⟩, _⟩ := hlanes t ht
        exact laneTr_pages hfirst hlast (Nat.mod_one _) (by rw [if_pos halign, consumed_none.2 hpure]; rfl)
    have hwatch := watch_goingLanes (ea := bankVa s m) (kind := .read) fun t ht => List.isEmpty_iff.1 (hlanes t ht).2
    have hfault := faultTraps_faultingLanes (d := d) (g :=
      { go := goingLanes s ts (bankVa s m) .read, faults := faultingLanes s ts (bankVa s m) .read, traps := [] }) rfl
      fun t ht => by rw [hhere t ht]; rfl
    dsimp only
    rw [hok, hfar, hg]
    dsimp only
    rw [hfault, hwatch]
    refine congrArg (WordOut.mk · [] false) (List.foldl_ext _ _ _ fun s' t ht => ?_)
    rw [find?_goingLanes ht, if_pos (hhere t ht)]
    rfl

/-- Settles O25: LD through its lanes' pages, LDS and LDX through the scratchpad, LDC through the bank. -/
theorem loadWords : Obligations.LoadWords := by
  refine ⟨?s8, ?z8, ?s16, ?z16, ?b32, ?b64, ?b128, ?scratch, ?c32, ?c64⟩
  case s8 => exact loads_of (by decide) fun _ _ _ _ => rfl
  case z8 => exact loads_of (by decide) fun _ _ _ _ => rfl
  case s16 => exact loads_of (by decide) fun _ _ _ _ => rfl
  case z16 => exact loads_of (by decide) fun _ _ _ _ => rfl
  case b32 => exact loads_of (by decide) fun _ _ _ _ => rfl
  case b64 => exact loads_of (by decide) fun _ _ _ _ => rfl
  case b128 => exact loads_of (by decide) fun _ _ _ _ => rfl
  case scratch =>
    intro n signed clus i hi
    simp only [List.mem_cons, List.not_mem_nil, or_false, Prod.mk.injEq] at hi
    obtain ⟨rfl, rfl, rfl, rfl⟩ | ⟨rfl, rfl, rfl, rfl⟩ | ⟨rfl, rfl, rfl, rfl⟩ | ⟨rfl, rfl, rfl, rfl⟩ | ⟨rfl, rfl, rfl, rfl⟩ |
      ⟨rfl, rfl, rfl, rfl⟩ | ⟨rfl, rfl, rfl, rfl⟩ | ⟨rfl, rfl, rfl, rfl⟩ | ⟨rfl, rfl, rfl, rfl⟩ | ⟨rfl, rfl, rfl, rfl⟩ := hi <;>
    exact scratchLoad_scratch fun _ _ _ _ => rfl
  case c32 => exact bank_of fun _ _ _ _ => rfl
  case c64 => exact bank_of fun _ _ _ _ => rfl

/-- Settles O26: ST through its lanes' pages, STS and STX through the scratchpad. -/
theorem storeWords : Obligations.StoreWords := by
  refine ⟨fun n i hi => ?_, fun n clus i hi => ?_⟩
  · simp only [List.mem_cons, List.not_mem_nil, or_false, Prod.mk.injEq] at hi
    obtain ⟨rfl, rfl⟩ | ⟨rfl, rfl⟩ | ⟨rfl, rfl⟩ | ⟨rfl, rfl⟩ | ⟨rfl, rfl⟩ := hi <;>
    exact storeWord_writes (by decide) fun _ _ _ _ => rfl
  · simp only [List.mem_cons, List.not_mem_nil, or_false, Prod.mk.injEq] at hi
    obtain ⟨rfl, rfl, rfl⟩ | ⟨rfl, rfl, rfl⟩ | ⟨rfl, rfl, rfl⟩ | ⟨rfl, rfl, rfl⟩ | ⟨rfl, rfl, rfl⟩ | ⟨rfl, rfl, rfl⟩ |
      ⟨rfl, rfl, rfl⟩ | ⟨rfl, rfl, rfl⟩ := hi <;>
    exact scratchStore_scratch fun _ _ _ _ => rfl

/-- Settles O27: ATOM, CAS and RED are words that write, ATOMS a scratchpad word. -/
theorem atomicWords : Obligations.AtomicWords := by
  refine ⟨fun n f i hi => ?_, fun n i hi => ?_, fun op n i hi => ?_, fun f i hi => ?_, scratchCas_scratch⟩
  · simp only [List.mem_cons, List.not_mem_nil, or_false, Prod.mk.injEq] at hi
    obtain ⟨rfl, rfl, rfl⟩ | ⟨rfl, rfl, rfl⟩ | ⟨rfl, rfl, rfl⟩ | ⟨rfl, rfl, rfl⟩ | ⟨rfl, rfl, rfl⟩ | ⟨rfl, rfl, rfl⟩ |
      ⟨rfl, rfl, rfl⟩ | ⟨rfl, rfl, rfl⟩ | ⟨rfl, rfl, rfl⟩ | ⟨rfl, rfl, rfl⟩ | ⟨rfl, rfl, rfl⟩ | ⟨rfl, rfl, rfl⟩ |
      ⟨rfl, rfl, rfl⟩ | ⟨rfl, rfl, rfl⟩ := hi <;>
    exact atomWord_writes (by decide) fun _ _ _ _ => rfl
  · simp only [List.mem_cons, List.not_mem_nil, or_false, Prod.mk.injEq] at hi
    obtain ⟨rfl, rfl⟩ | ⟨rfl, rfl⟩ | ⟨rfl, rfl⟩ := hi <;>
    exact casWord_writes (by decide) fun _ _ _ _ => rfl
  · simp only [List.mem_cons, List.not_mem_nil, or_false, Prod.mk.injEq] at hi
    obtain ⟨rfl, rfl⟩ | ⟨rfl, rfl⟩ := hi <;>
    exact redWord_writes (by decide) fun _ _ _ _ => rfl
  · simp only [List.mem_cons, List.not_mem_nil, or_false, Prod.mk.injEq] at hi
    obtain ⟨rfl, rfl⟩ | ⟨rfl, rfl⟩ := hi <;>
    exact scratchAtom_scratch fun _ _ _ _ => rfl

/-! MCAS, fences, cache words and poison. -/

/-- Words that must not carry what is still to be ordered before them (R252, R264). -/
theorem stalls_orderly {s : State} {b : Nat} {x : Bundle} {h : Head} {a : WordAttr} (hI : Issuing s b x = true)
    (hv : a.var = false ∨ countable s h (activeOf s x h) = true) (ho : orderly s (activeOf s x h) = true)
    (hs : a.settle = none) : stalls s h a (activeOf s x h) = false := by
  have hplain := stalls_plain (a := { a with orders := false }) hI hv rfl hs
  have hquiet : ((activeOf s x h).any fun t => openAcquire s t || unpublished s t) = false := by
    refine List.any_eq_false.2 fun t ht => ?_
    have hlane := List.all_eq_true.1 ho t ht
    simp only [Bool.and_eq_true, Bool.not_eq_true'] at hlane
    simp [hlane.1, hlane.2]
  unfold stalls at hplain ⊢
  simpa [hquiet] using hplain

theorem mcas_does (h : Head) (d : Reg) (m : MOp) : Does (.mcas h d m) h anyCls [(m.base, 2), (d, 1)]
    (fun s _ ts => countable s h ts && pure_ s ts [(m.base, 2)] && orderly s ts &&
      (ts.all fun u => !blockWaits s u (ea64 s m u)) && turns (mcasGoes s m) (mcasSent s h d m ts) s ts)
    fun s _ ts => each (mcasSent s h d m ts) s ts := by
  refine does_of (a :=
    { group := 4, regs := [(m.base, 2), (d, 1)], dsts := [d], var := true, wait := true, cmp := .compare, passes := true,
      orders := true })
    (fun _ => rfl) (fun _ _ => rfl) rfl (fun s b x hI hok => ?_) rfl fun s b x hI hok => ?_
  all_goals
    simp only [Bool.and_eq_true] at hok
    obtain ⟨⟨⟨⟨hcount, hpure⟩, horder⟩, hblock⟩, hturns⟩ := hok
  · exact stalls_orderly hI (.inr hcount) horder rfl
  · set ts := activeOf s x h
    have hnow : (ts.any fun t => (consumed s t [(m.base, 2)]).isNone && blockWaits s t (ea64 s m t)) = false :=
      List.any_eq_false.2 fun t ht => by
        have hlane := List.all_eq_true.1 hblock t ht
        rw [Bool.not_eq_true'] at hlane
        simp [hlane]
    dsimp only
    rw [if_neg (by simpa using hnow)]
    refine foldl_turns (· ∈ ts) _ (fun s' t ht hgoes => ?_) (fun t ht => ht) hturns
    obtain ⟨es, hes, hgo⟩ := (Option.any_eq_true ..).1 hgoes
    obtain ⟨hmix, hwatch⟩ := Bool.and_eq_true_iff.1 hgo
    have hentries : mcasLane s t (ea64 s m t) none = .go es := by
      unfold entriesOf at hes
      cases hl : mcasLane s t (ea64 s m t) none with
      | go es' =>
        rw [hl] at hes
        rw [Option.some.inj hes]
      | _ =>
        rw [hl] at hes
        cases hes
    simp only [mcasSent, hes, Option.getD_some, consumed_of_pure hpure t ht, hentries, List.isEmpty_iff.1 hwatch, List.append_nil]
    cases hm : mixEntries (noteMcas s' t (ea64 s m t)) t es with
    | error i =>
      rw [hm] at hmix
      cases hmix
    | ok s'' => rfl

/-- Ending an interval leaves the bundles and the next operation's number. -/
theorem endInterval_place (s : State) (ts : List Nat) :
    (endInterval s ts).cur = s.cur ∧ (endInterval s ts).bundles = s.bundles := by
  have hfold : ∀ (ks : List Nat) (s : State), (ks.foldl State.irrevocable s).cur = s.cur ∧
      (ks.foldl State.irrevocable s).bundles = s.bundles := fun ks => by
    induction ks with
    | nil => exact fun _ => ⟨rfl, rfl⟩
    | cons k r ih =>
      intro s
      rw [List.foldl_cons]
      obtain ⟨hcur, hbundles⟩ := ih (s.irrevocable k)
      exact ⟨hcur.trans (by simp [State.irrevocable]), hbundles.trans (by simp [State.irrevocable])⟩
  exact hfold _ s

theorem fence_does (h : Head) (sc : Scope) (od : Ord) (strict : Bool) : Does (.fence h sc od strict) h anyCls []
    (fun s _ ts => countable s h ts)
    fun s x ts =>
      let s1 := if 3 ≤ sc.level then endInterval s ts else s
      let snap : Snapshot := { threads := x.tids.map fun u =>
                                 let y := { s1.thr u with widx := x.widx }
                                 (u, y.goTo y.afterWord.1 y.afterWord.2),
                               last := s1.seq + ts.length - 1 }
      each (fun s' u => s'.addOp u h.dc.val (.fence od sc strict (some snap)) []) s1 ts := by
  refine does_of (a := { group := 4, var := true }) (fun _ => rfl) (fun _ _ => rfl) rfl (fun s b x hI hok =>
    stalls_settled hI (.inr hok) rfl rfl) rfl fun s b x hI _ => ?_
  have hcur : curBundle (if 3 ≤ sc.level then endInterval s (activeOf s x h) else s) = some x := by
    split
    · obtain ⟨hcur, hbundles⟩ := endInterval_place s (activeOf s x h)
      unfold curBundle
      rw [hcur, hbundles]
      exact curBundle_eq hI
    · exact curBundle_eq hI
  simp only [hcur, curWidx, Option.map_some, Option.getD_some]
  rfl

theorem cctl_does (h : Head) (inv pg : Bool) (m : MOp) : Does (.cctl h inv pg m) h anyCls [(m.base, 2)]
    (fun s _ ts => countable s h ts && ts.all fun u => (pageOf s u (ea64 s m u) .read).isSome && !s.isPoisoned u [(m.base, 2)])
    fun s _ ts => each (fun s' u =>
      let l := lineOf ((pageOf s u (ea64 s m u) .read).getD (0, 0)).1
      s'.addOp u h.dc.val (.cctl (if pg then (List.range 32).map (l / 32 * 32 + ·) else [l]) inv m.scope) [])
      (noteLanes s ts (ea64 s m) 1) ts := by
  refine does_of (a := { group := 4, regs := [(m.base, 2)], var := true, wait := true, cmp := .load }) (fun _ => rfl)
    (fun _ _ => rfl) rfl (fun s b x hI hok => ?_) rfl fun s b x hI hok => ?_
  all_goals
    simp only [Bool.and_eq_true, List.all_eq_true, Bool.not_eq_true'] at hok
    obtain ⟨hcount, hlanes⟩ := hok
  · exact stalls_settled hI (.inr hcount) rfl rfl
  · set ts := activeOf s x h
    have hhere : ∀ t ∈ ts, (pageOf s t (ea64 s m t) .read).isSome = true := fun t ht => (hlanes t ht).1
    have hg : globalOut s ts (ea64 s m) 1 1 .read (fun t => consumed s t [(m.base, 2)]) =
        { go := goingLanes s ts (ea64 s m) .read, faults := faultingLanes s ts (ea64 s m) .read, traps := [] } :=
      globalOut_pages (fun t => pageOf s t (ea64 s m t) .read) fun t ht => by
        have hlt : ea64 s m t % 4096 < 4096 := Nat.mod_lt _ (by decide)
        refine laneTr_page ?_ hlt (Nat.mod_one _) (consumed_none.2 (hlanes t ht).2)
        have hp := hhere t ht
        unfold pageOf at hp
        cases htr : translate s (s.ctxOf (crewOf t)) (s.crew (crewOf t)).priv .read (ea64 s m t) with
        | prot i =>
          rw [htr] at hp
          cases hp
        | _ => rfl
    dsimp only
    rw [hg]
    dsimp only
    rw [if_neg (by simp [faultingLanes_nil hhere]), goingLanes_all hhere, List.foldl_map]
    rfl

theorem pref_does (h : Head) (m : MOp) : Does (.pref h m) h anyCls [(m.base, 2)] (fun s _ ts => countable s h ts)
    fun s _ ts => each (fun s' u =>
      (pageOf s u (ea64 s m u) .read).elim (s'.addValue u h.dc.val []) fun p =>
        s'.addOp u h.dc.val (.pref (lineOf p.1) (if m.hint.val = 2 then 2 else p.2) (s.ctxOf (crewOf u))) [])
      (noteLanes s ts (ea64 s m) 1) ts := by
  refine does_of (a := { group := 4, regs := [(m.base, 2)], var := true, cmp := .load }) (fun _ => rfl)
    (fun _ _ => rfl) rfl (fun s b x hI hok => stalls_settled hI (.inr hok) rfl rfl) rfl fun s b x hI _ => ?_
  refine congrArg (WordOut.mk · [] false) (List.foldl_ext _ _ _ fun s' t _ => ?_)
  unfold pageOf
  dsimp only
  cases translate s (s.ctxOf (crewOf t)) (s.crew (crewOf t)).priv .read (ea64 s m t) <;> rfl

theorem ptst_writes (h : Head) (pd : Fin 8) (mw : MovW) (a : Reg) : Writes (.ptst h pd mw a) h anyCls [(a, MovW.count mw)]
    fun s u => wrP pd.val (s.isPoisoned u [(a, MovW.count mw)]) false := by
  intro s b x hI _ hf hp
  exact issueWord_fixed hI rfl hf hp (fun t _ => ⟨rfl, rfl⟩) rfl rfl rfl rfl

/-- Settles O28, word by word. -/
theorem fencesHintsAndPoison : Obligations.FencesHintsAndPoison := by
  refine ⟨mcas_does, fence_does, cctl_does, pref_does, ptst_writes, fun h mw a s b x hI _ hf hp => ?_⟩
  refine issueWord_fixed hI rfl hf hp (fun t _ => ⟨rfl, ?_⟩) rfl rfl rfl rfl
  refine List.flatMap_congr fun k _ => ?_
  cases a.plus k <;> rfl

end Sys2Proof.Machine
end

section
/-!
SUPPORT. PUSH and the matrix words (R180, R303, R310, R320, R321): commands that enter their queues lane by lane, and threads that
come to the latch together.
-/
namespace Sys2Proof.Machine

-- One theorem at a time: elaborating them side by side costs a thread stack each, and the text compiles under a memory limit.
set_option Elab.async false

/-! PUSH. -/

theorem pushLane_pushes {s s' : State} {u q pd : Nat} {src : Reg}
    (hamp : (q != 2 || ((s.wpOf (crewOf u)).map fun w => w.packet.getLsbD 61).getD false) = true)
    (hpure : s.isPoisoned u [(src, 16)] = false) : pushLane s s' u q src pd = (pushes q src pd s s' u, none) := by
  have hallowed : ¬ (q = 2 ∧ (!((s.wpOf (crewOf u)).map fun w => w.packet.getLsbD 61).getD false) = true) := by
    rintro ⟨rfl, hno⟩
    rw [Bool.not_eq_true'] at hno
    rw [hno] at hamp
    exact absurd hamp (by decide)
  unfold pushLane
  dsimp only
  rw [if_neg hallowed, consumed_none.2 hpure]
  rfl

theorem pushWord_does : PushWord := by
  intro h q src pd
  refine does_of (a :=
    { group := 5, queue := some q.val, regs := [(src, 16)], wait := true, cmp := .compare, passes := true, pdst := some pd,
      settle := if q.val = 2 then some 6 else none })
    (fun _ => rfl) (fun _ hc => hc) rfl (fun s b x hI hok => ?_) rfl fun s b x hI hok => ?_
  all_goals
    simp only [Bool.and_eq_true] at hok
    obtain ⟨⟨hsettled, hpure⟩, hamp⟩ := hok
  · refine stalls_settled hI (.inl rfl) rfl ?_
    by_cases hq : q.val = 2
    · simpa [hq] using hsettled
    · simp [hq]
  · refine foldl_lanes (· ∈ activeOf s x h) (fun s' u hu => ?_) (fun u hu => hu) s
    have hlane : (q.val != 2 || ((s.wpOf (crewOf u)).map fun w => w.packet.getLsbD 61).getD false) = true := by
      rcases Bool.or_eq_true_iff.1 hamp with hq | hall
      · rw [hq]
        rfl
      · rw [List.all_eq_true.1 hall u hu, Bool.or_true]
    rw [pushLane_pushes hlane (by simpa using List.all_eq_true.1 hpure u hu)]
    rfl

/-! The latch. -/

/-- A thread at the latch is live. -/
theorem mem_liveTids_of_latch {s : State} {c t : Nat} (ht : t ∈ crewTids c) (hl : (latchOf s t).isSome = true) : t ∈ liveTids s c := by
  refine List.mem_filter.2 ⟨ht, ?_⟩
  unfold latchOf at hl
  unfold State.thr at hl ⊢
  cases hget : s.threads.get? t with
  | none =>
    rw [hget] at hl
    exact absurd hl (by decide)
  | some y => cases hst : y.status <;> simp [hget, hst] at hl ⊢

/-- The places of the lanes of a bundle that its word leaves out, in one crew. -/
def leftOut (x : Bundle) (ts : List Nat) (c : Nat) : List Nat := x.tids.filter fun u => crewOf u == c && !ts.contains u

/-- Whether lanes of a crew stand apart at a matrix word (R180). -/
def standsApart (s : State) (place : BitVec 57 × Nat) (x : Bundle) (ts : List Nat) (c t : Nat) : Bool :=
  (leftOut x ts c).any (fun u => matTurn s place u == matTurn s place t) ||
    (liveTids s c).any fun u => decide (matTurn s place t < matTurn s place u)

/-- What `atOnce` says of one thread of the bundle. -/
theorem atOnce_thread {s : State} {x : Bundle} {ts : List Nat} (h : atOnce s x ts = true) {u : Nat} (hu : u ∈ x.tids) :
    (∀ v ∈ liveTids s (crewOf u), matTurn s (x.clause.pc, x.widx) v = matTurn s (x.clause.pc, x.widx) u) ∧
      (u ∈ ts ∨ (∀ v ∈ ts, crewOf v ≠ crewOf u) ∧ ∀ v ∈ crewTids (crewOf u), latchOf s v = none) := by
  have hall := List.all_eq_true.1 (Bool.and_eq_true_iff.1 h).2 u hu
  simpa using hall

/-- Where the lanes have come at once, no live lane of a crew at the word is a turn behind. -/
theorem no_turn_behind {s : State} {x : Bundle} {ts : List Nat} (h : atOnce s x ts = true) {u t : Nat} (hu : u ∈ x.tids)
    (ht : matTurn s (x.clause.pc, x.widx) t = matTurn s (x.clause.pc, x.widx) u) :
    ((liveTids s (crewOf u)).any fun v =>
      decide (matTurn s (x.clause.pc, x.widx) t < matTurn s (x.clause.pc, x.widx) v)) = false :=
  List.any_eq_false.2 fun v hv => by simp [(atOnce_thread h hu).1 v hv, ht]

/-- A lane that acts has its whole crew with it. -/
theorem leftOut_nil {s : State} {x : Bundle} {ts : List Nat} (h : atOnce s x ts = true) {t : Nat} (ht : t ∈ ts) :
    leftOut x ts (crewOf t) = [] := by
  refine List.filter_eq_nil_iff.2 fun u hu hout => ?_
  obtain ⟨hcrew, hnot⟩ := Bool.and_eq_true_iff.1 hout
  rcases (atOnce_thread h hu).2 with hin | ⟨hother, -⟩
  · simp [hin] at hnot
  · exact hother t ht (beq_iff_eq.1 hcrew).symm

theorem not_apart_of_active {s : State} {x : Bundle} {ts : List Nat} (h : atOnce s x ts = true) {t : Nat} (ht : t ∈ ts)
    (hx : t ∈ x.tids) : standsApart s (x.clause.pc, x.widx) x ts (crewOf t) t = false := by
  rw [standsApart, leftOut_nil h ht, no_turn_behind h hx rfl]
  rfl

theorem not_apart_of_waiting {s : State} {x : Bundle} {ts : List Nat} (h : atOnce s x ts = true) {u t : Nat} (hu : u ∈ x.tids)
    (ht : t ∈ crewTids (crewOf u)) (hl : (latchOf s t).isSome = true) :
    standsApart s (x.clause.pc, x.widx) x ts (crewOf u) t = false := by
  have hlive := (atOnce_thread h hu).1 t (mem_liveTids_of_latch ht hl)
  have hnone : ((leftOut x ts (crewOf u)).any fun v =>
      matTurn s (x.clause.pc, x.widx) v == matTurn s (x.clause.pc, x.widx) t) = false := by
    refine List.any_eq_false.2 fun v hv => ?_
    obtain ⟨hmem, hout⟩ := List.mem_filter.1 hv
    obtain ⟨hcrew, hnot⟩ := Bool.and_eq_true_iff.1 hout
    rcases (atOnce_thread h hmem).2 with hin | ⟨-, hfree⟩
    · simp [hin] at hnot
    · rw [hfree t (by rw [beq_iff_eq.1 hcrew]; exact ht)] at hl
      exact absurd hl (by decide)
  rw [standsApart, hnone, no_turn_behind h hu hlive]
  rfl

/-- The lanes that raise GANGFAIL at a matrix word (R180, R303). -/
def latchFails (s : State) (x : Bundle) (ts : List Nat) : List Nat :=
  (x.tids.map crewOf).dedup.flatMap fun c =>
    (ts.filter fun t => crewOf t == c && ((s.crew c).gang == 0 || standsApart s (x.clause.pc, x.widx) x ts c t)) ++
      ((crewTids c).filter fun t => (latchOf s t).isSome && (s.thr t).widx == x.widx && (s.thr t).pc == x.clause.pc).filter
        (standsApart s (x.clause.pc, x.widx) x ts c)

theorem latchFails_nil {s : State} {x : Bundle} {ts : List Nat} (h : atOnce s x ts = true) (hsub : ∀ t ∈ ts, t ∈ x.tids) :
    latchFails s x ts = [] := by
  have hgang : ∀ t ∈ ts, ((s.crew (crewOf t)).gang == 0) = false := fun t ht => by
    have hlane := List.all_eq_true.1 (Bool.and_eq_true_iff.1 h).1 t ht
    simpa using hlane
  refine List.flatMap_eq_nil_iff.2 fun c hc => List.append_eq_nil_iff.2 ⟨?_, ?_⟩
  · refine List.filter_eq_nil_iff.2 fun t ht hfail => ?_
    obtain ⟨hcrew, hbad⟩ := Bool.and_eq_true_iff.1 hfail
    rw [← beq_iff_eq.1 hcrew, hgang t ht, not_apart_of_active h ht (hsub t ht)] at hbad
    exact absurd hbad (by decide)
  · obtain ⟨u, hu, rfl⟩ := List.mem_map.1 (List.mem_dedup.1 hc)
    refine List.filter_eq_nil_iff.2 fun t ht => ?_
    obtain ⟨hmem, hwait⟩ := List.mem_filter.1 ht
    rw [not_apart_of_waiting h hu hmem (Bool.and_eq_true_iff.1 (Bool.and_eq_true_iff.1 hwait).1).1]
    decide

/-- Entering the latch does not take time, so every lane is there from the same tick. -/
theorem foldl_latch (s : State) (op : MatOp) (w k : Nat) (ts : List Nat) :
    ts.foldl (fun s' u => (s'.leave [u]).updThr u fun y => { y with widx := w, status := .latch op k s'.time }) s =
      each (fun s' u => (s'.leave [u]).updThr u fun y => { y with widx := w, status := .latch op k s.time }) s ts :=
  foldl_hom_of_inv id (fun s' _ => s'.time = s.time) (fun s' t r htime => ⟨by rw [id, id, htime], htime⟩) ts s rfl

/-- R180, R303: a matrix word whose lanes come at once brings them to the latch. -/
theorem matWord_latches {i : Instr} {h : Head} {op : MatOp} {regs : List (Reg × Nat)} {dsts : List Reg}
    (he : ∀ s, exec i s = matWord h op regs dsts s) : Latches i h regs op := by
  refine does_of (a :=
    { group := 5, regs := regs, dsts := dsts, var := true, wait := true, cmp := .compare, passes := !dsts.isEmpty })
    he (fun _ hc => hc) rfl (fun s b x hI hok => ?_) rfl fun s b x hI hok => ?_
  all_goals obtain ⟨hcount, honce⟩ := Bool.and_eq_true_iff.1 hok
  · exact stalls_settled hI (.inr hcount) rfl rfl
  · have hnone := latchFails_nil honce fun t ht => activeOf_sub ht
    unfold latchFails standsApart leftOut at hnone
    unfold latchBody
    simp only [curBundle_eq hI, curWidx_eq hI, Option.map_some, Option.getD_some, hnone]
    simp only [List.contains_nil, Bool.not_false, List.filter_true, List.map_nil, List.append_nil, List.filter_nil, foldl_latch]
    rfl

/-- Settles O29: PUSH lane by lane, every matrix word through the latch. -/
theorem pushAndMatrixWords : Obligations.PushAndMatrixWords := by
  refine ⟨pushWord_does, ?plain, ?block8, ?block4, ?zero, ?drain, ?load, ?store, ?scale, ?addc, ?copy, ?stat⟩
  case plain =>
    intro t i hi h sa sb acc zs rel
    simp only [List.mem_cons, List.not_mem_nil, or_false, Prod.mk.injEq] at hi
    obtain ⟨rfl, rfl⟩ | ⟨rfl, rfl⟩ | ⟨rfl, rfl⟩ | ⟨rfl, rfl⟩ | ⟨rfl, rfl⟩ | ⟨rfl, rfl⟩ := hi <;>
    exact matWord_latches (dsts := []) fun _ => rfl
  case block8 =>
    intro t i hi h sa sb vs vt acc zs sh rel
    simp only [List.mem_cons, List.not_mem_nil, or_false, Prod.mk.injEq] at hi
    obtain ⟨rfl, rfl⟩ | ⟨rfl, rfl⟩ := hi <;> exact matWord_latches (dsts := []) fun _ => rfl
  case block4 =>
    intro t i hi h sa sb vs vt acc zs rel
    simp only [List.mem_cons, List.not_mem_nil, or_false, Prod.mk.injEq] at hi
    obtain ⟨rfl, rfl⟩ | ⟨rfl, rfl⟩ | ⟨rfl, rfl⟩ := hi <;> exact matWord_latches (dsts := []) fun _ => rfl
  case zero => exact fun _ _ _ => matWord_latches (dsts := []) fun _ => rfl
  case drain =>
    intro k n i hi h d acc cg
    simp only [List.mem_cons, List.not_mem_nil, or_false, Prod.mk.injEq] at hi
    obtain ⟨rfl, rfl, rfl⟩ | ⟨rfl, rfl, rfl⟩ | ⟨rfl, rfl, rfl⟩ | ⟨rfl, rfl, rfl⟩ := hi <;>
    exact matWord_latches (dsts := [d]) fun _ => rfl
  case load => exact fun _ _ _ _ => matWord_latches (dsts := []) fun _ => rfl
  case store => exact fun _ _ _ _ _ => matWord_latches (dsts := []) fun _ => rfl
  case scale => exact fun _ _ _ _ => matWord_latches (dsts := []) fun _ => rfl
  case addc => exact fun _ _ _ _ => matWord_latches (dsts := []) fun _ => rfl
  case copy => exact fun _ _ _ _ => matWord_latches (dsts := []) fun _ => rfl
  case stat => exact fun _ d _ _ => matWord_latches (dsts := [d]) fun _ => rfl

end Sys2Proof.Machine
end

section
/-!
SUPPORT. Reset, the spec's example words, the dispatch of a step (R78), and the landing of an operation (R34, R35).
-/
namespace Sys2Proof.Machine

-- One theorem at a time: elaborating them side by side costs a thread stack each, and the text compiles under a memory limit.
set_option Elab.async false

-- The decoder's match on the opcode is deep.
set_option maxRecDepth 100000 in
/-- Settles O51: each of the spec's example words is decoded by evaluation. -/
theorem specWordsDecode : Obligations.SpecWordsDecode := by
  unfold Obligations.SpecWordsDecode
  decide

/-- Settles O54: every memory is empty after reset. -/
theorem memoriesCanonicalAtReset : Obligations.MemoriesCanonicalAtReset := rfl

/-! The dispatch of a step. -/

theorem issue_ok {b : Nat} {s : State} {x : Bundle} {i : Instr} (hb : s.bundles.get? b = some x) (hi : decode x.word = .ok i) :
    issue b s = exec i { s with cur := some b } := by
  unfold issue
  rw [hb]
  dsimp only
  rw [hi]

theorem issue_error {b : Nat} {s : State} {x : Bundle} {e : DecodeErr} (hb : s.bundles.get? b = some x)
    (he : decode x.word = .error e) : issue b s = badWord b x e s := by
  unfold issue
  rw [hb]
  dsimp only
  rw [he]

/-- R78, R259: a word that does not decode traps its bundle where no fence of its threads is open. -/
theorem badWord_traps {b : Nat} {x : Bundle} {e : DecodeErr} {s : State}
    (hno : ∀ t ∈ x.tids, openFence s t = false ∧ strictOpen s t = false) :
    badWord b x e s = .next (trapBundle s b x (decodeTrap e)) := by
  have hstrict : x.tids.any (strictOpen s) = false := List.any_eq_false.2 fun t ht => by simp [(hno t ht).2]
  have hfence : x.tids.any (openFence s) = false := List.any_eq_false.2 fun t ht => by simp [(hno t ht).1]
  unfold badWord
  rw [hstrict, hfence]
  rfl

theorem step_issue {s : State} {b : Nat} {rest : List Choice} (ha : s.agenda = .issue b :: rest) :
    step s = issue b { s with agenda := rest } := by
  unfold step
  rw [ha]

theorem step_first {s : State} {b : Nat} (ha : s.agenda = []) (hb : s.firstBundle = some b) : step s = issue b s := by
  unfold step
  rw [ha]
  dsimp only
  rw [hb]

theorem step_act {s : State} {i : Instr} {rest : List Choice} (ha : s.agenda = .act i :: rest) :
    step s = act i { s with agenda := rest } := by
  unfold step
  rw [ha]

theorem step_pass {s : State} {n : Nat} {rest : List Choice} (ha : s.agenda = .pass n :: rest) :
    step s = .next (passTime n { s with agenda := rest }) := by
  unfold step
  rw [ha]

theorem act_event {i : Instr} {s : State} (hi : i.isWord = false) : act i s = afterEvent s.time (exec i { s with cur := none }) := by
  unfold act
  rw [hi]
  rfl

/-- Settles O53: by the head of the agenda, and by what the word decodes to. -/
theorem stepRunsDecoded : Obligations.StepRunsDecoded := by
  refine ⟨fun s b rest x i ha hb hi => (step_issue ha).trans (issue_ok (s := { s with agenda := rest }) hb hi),
    fun s b x i ha hf hb hi => (step_first ha hf).trans (issue_ok hb hi),
    fun s i rest ha hi => (step_act ha).trans (act_event (s := { s with agenda := rest }) hi),
    fun s n rest ha => step_pass ha, fun s b rest x e ha hb he hno => ?_⟩
  refine ((step_issue ha).trans (issue_error (s := { s with agenda := rest }) hb he)).trans
    ((badWord_traps (s := { s with agenda := rest }) hno).trans ?_)
  cases e <;> rfl

/-! Landing. -/

theorem landReg_uncontested {s : State} {t : Nat} {p : Pend} {w : RegWrite} (hc : p.contested = []) :
    s.landReg t p w = s.putReg t w := by
  unfold State.landReg
  rw [hc]
  rfl

theorem State.stored_foldl_putReg (s : State) (u : Nat) (ws : List RegWrite) (t : Nat) (g : Target) (hg : ∀ n, g = .p n → n < 7) :
    (ws.foldl (fun s w => s.putReg u w) s).stored t g =
      if hitsReg u t g then (lastTo ws g).getD (s.stored t g) else s.stored t g := by
  induction ws generalizing s with
  | nil => simp [lastTo]
  | cons w r ih =>
    rw [List.foldl_cons, ih, State.stored_putReg _ _ _ _ _ hg]
    by_cases hs : hitsReg u t g = true
    · by_cases hw : w.tgt = g
      · cases hl : (r.filter fun w => w.tgt == g).getLast? <;> simp [hs, hw, lastTo, List.getLast?_cons, hl]
      · simp [hs, hw, lastTo]
    · simp [hs]

/-- An operation whose result is a value changes registers alone as it lands, and notes of fences in flight. -/
theorem landWrites_value {s : State} {p : Pend} (hop : p.op = .value) (hc : p.contested = []) :
    ∃ ps, landWrites s p = { p.writes.foldl (fun s w => s.putReg p.tid w) s with pend := ps } := by
  have hputs : (fun (s : State) w => s.landReg p.tid p w) = fun s w => s.putReg p.tid w := by
    funext s w
    exact landReg_uncontested hc
  unfold landWrites
  rw [hop, hputs]
  exact ⟨_, rfl⟩

/-- Settles O60: its writes are put into the registers one after the other. -/
theorem landingWrites : Obligations.LandingWrites := by
  intro s p hop hc
  obtain ⟨ps, heq⟩ := landWrites_value (s := s) hop hc
  have hregs : RegsOnly s (p.writes.foldl (fun s w => s.putReg p.tid w) s) := .foldl _ (fun s w => .putReg s p.tid w) s _
  rw [heq]
  refine ⟨fun u g hg => ?_, ?_, ?_, hregs.bundles⟩
  · refine (State.stored_congr (t := p.writes.foldl (fun s w => s.putReg p.tid w) s) rfl rfl u g).trans ?_
    rw [State.stored_foldl_putReg _ _ _ _ _ hg]
    have hwhose : hitsReg p.tid u g = hasTarget p.tid u g := by cases g <;> exact Bool.beq_comm
    rw [hwhose]
    cases hasTarget p.tid u g <;> rfl
  · exact show _ = s.rest.mem by rw [← hregs.rest]; rfl
  · exact show _ = s.rest.scratch by rw [← hregs.rest]; rfl

end Sys2Proof.Machine
end

section
/-!
SUPPORT. Words that raise a trap of their own (R423), class and budget traps (R29, R53), the taking of a trap and the return from
it (R403, R424), and what creation and reset leave (R440).
-/
namespace Sys2Proof.Machine

-- One theorem at a time: elaborating them side by side costs a thread stack each, and the text compiles under a memory limit.
set_option Elab.async false

/-! TRAP, BRK and RTE. -/

theorem trapWord_raises {i : Instr} {h : Head} {info : TrapInfo} (he : ∀ s, exec i s = trapWord h info s) : Raises i h info := by
  intro s b x hI
  rw [he]
  refine issueWord_go hI rfl rfl (stalls_plain hI (.inl rfl) rfl rfl)
    (fun t ht => (issuing_all hI t (activeOf_sub ht)).2.2.2) rfl fun y hy => ?_
  obtain ⟨t, ht, rfl⟩ := List.mem_map.1 hy
  exact (issuing_all hI t (activeOf_sub ht)).2.1

/-- Settles O33: TRAP and BRK have a trap for every lane, RTE acts on its target. -/
theorem trapWordsAndReturn : Obligations.TrapWordsAndReturn :=
  ⟨fun _ _ => trapWord_raises fun _ => rfl, fun _ _ => trapWord_raises fun _ => rfl,
    fun _ => sysWord_onTarget fun _ _ _ _ => rfl, fun _ => sysWord_onTarget fun _ _ _ _ => rfl⟩

/-! Class and budget. -/

theorem strictOpen_of_issuing {s : State} {b : Nat} {x : Bundle} (hI : Issuing s b x = true) : x.tids.any (strictOpen s) = false :=
  List.any_eq_false.2 fun t ht => by simp [strictOpen_of_openFence (issuing_all hI t ht).2.1]

theorem openFence_of_issuing {s : State} {b : Nat} {x : Bundle} (hI : Issuing s b x = true) : x.tids.any (openFence s) = false :=
  List.any_eq_false.2 fun t ht => by simp [(issuing_all hI t ht).2.1]

/-- R53: a class that the word's attributes do not allow is a trap of the bundle. -/
theorem misplaced_of {i : Instr} {h : Head} {a : WordAttr} {body : State → List Nat → WordOut} {cls : Cls → Bool}
    (he : ∀ s, exec i s = issueWord s h a body) (hc : ∀ c, cls c = false → a.allowed c = false) : Misplaced i cls := by
  intro s b x hI hcls
  rw [he]
  simp [issueWord, issuing_cur hI, issuing_bundle hI, strictOpen_of_issuing hI, openFence_of_issuing hI, hc _ hcls]

/-- R29: a register that reaches the budget is a trap of the bundle. -/
theorem issueWord_overBudget {s : State} {b : Nat} {x : Bundle} {h : Head} {a : WordAttr} {body : State → List Nat → WordOut}
    (hI : Issuing s b x = true) (hc : a.allowed x.clause.cls = true) (hf : Fits s x a.regs = false) :
    issueWord s h a body = .next (trapBundle s b x { trap := .budget, cause := 0x30 }) := by
  have hbudget : overBudget (((x.tids.head?).map fun t => (s.crew (crewOf t)).budget).getD 0) a.regs = true := by
    simpa [Fits] using hf
  simp [issueWord, issuing_cur hI, issuing_bundle hI, strictOpen_of_issuing hI, openFence_of_issuing hI, hc, hbudget]

/-! Taking a trap. -/

/-- A thread that is taken out of its bundles stands in none. -/
theorem not_mem_of_leave {s : State} {t b : Nat} {x : Bundle} (hb : (s.leave [t]).bundles.get? b = some x) : t ∉ x.tids := by
  have hmap : (s.leave [t]).bundles.get? b =
      (s.bundles.get? b).map fun y => { y with tids := y.tids.filter fun u => !List.contains [t] u } :=
    Map.get?_map s.bundles (fun y : Bundle => ({ y with tids := y.tids.filter fun u => !List.contains [t] u } : Bundle)) b
  rw [hmap] at hb
  obtain ⟨y, -, rfl⟩ := Option.map_eq_some_iff.1 hb
  simp

theorem stopped_stands {s : State} {t : Nat} {i : TrapInfo} : (stopped s t i).standsIn t i = true := by
  have hget : (stopped s t i).threads.get? t =
      some { (s.leave [t]).thr t with status := .trapped i, stepping := false, pcWritten := false } := Map.get?_set_self _ _ _
  unfold State.standsIn
  rw [hget]
  exact beq_self_eq_true _

theorem thr_stopped {s : State} {t : Nat} {i : TrapInfo} :
    (stopped s t i).thr t = { s.thr t with status := .trapped i, stepping := false, pcWritten := false } :=
  (State.thr_updThr _ _ _ _).trans (if_pos rfl)

/-- R403: a trap under a handler that stays is the record posted. -/
theorem takeTraps_handled {s : State} {t : Nat} {i : TrapInfo} (hhub : coreOf t ≠ hubCore) (hslot : slotOf t ≠ handlerSlot)
    (hecc : i.trap ≠ .uecc) (hh : (s.ctx (s.ctxOf (crewOf t))).handler ≠ 0)
    (hkept : ((postToHandler (stopped s t i) (s.ctxOf (crewOf t)) (trapRecord (stopped s t i) t i) i.trap.code).ctx
      ((postToHandler (stopped s t i) (s.ctxOf (crewOf t)) (trapRecord (stopped s t i) t i) i.trap.code).ctxOf
        (crewOf t))).handler ≠ 0) :
    takeTraps s [(t, i)] = postToHandler (stopped s t i) (s.ctxOf (crewOf t)) (trapRecord (stopped s t i) t i) i.trap.code := by
  have hhub' : (coreOf t == hubCore) = false := beq_eq_false_iff_ne.2 hhub
  have hctx : (stopped s t i).ctxOf (crewOf t) = s.ctxOf (crewOf t) := rfl
  have hsame : (stopped s t i).ctx (s.ctxOf (crewOf t)) = s.ctx (s.ctxOf (crewOf t)) := rfl
  unfold takeTraps
  simp only [List.map_cons, List.map_nil, List.foldl_cons, List.foldl_nil]
  rw [← stopped]
  simp only [stopped_stands, hhub', hctx, hsame, hh, hslot, hecc, hkept, Bool.not_true, Bool.or_self, Bool.false_eq_true, if_false,
    decide_false, ite_self]

/-- R424: a trapped thread is ready at its word or at the word after, with its registers. -/
theorem resumeThread_ready {s : State} {t : Nat} {i : TrapInfo} (next st : Bool) (ht : (s.thr t).trap? = some i)
    (hpc : (s.thr t).pcWritten = false) : ∃ y, resumeThread s t next st = evalJoin (s.setThr t y) (crewOf t) ∧ y.status = .ready ∧
      y.stepping = st ∧ y.drain = (!next || y.widx != 0) ∧
      (y.pc, y.widx) = (if next then (s.thr t).afterWord else ((s.thr t).pc, (s.thr t).widx)) ∧
      y.v = (s.thr t).v ∧ y.p = (s.thr t).p := by
  unfold resumeThread
  rw [ht]
  simp only [State.updThr, hpc]
  cases next <;> exact ⟨_, rfl, rfl, rfl, rfl, rfl, rfl, rfl⟩

/-- Settles O58: the attributes of each word, then the taking of a trap and the return from it. -/
theorem trapsAndResumption : Obligations.TrapsAndResumption := by
  refine ⟨fun _ _ _ _ _ => misplaced_of (fun _ => rfl) fun _ hc => hc, fun _ _ _ _ _ => misplaced_of (fun _ => rfl) fun _ hc => hc,
    fun _ _ _ => misplaced_of (fun _ => rfl) fun _ hc => hc, fun _ _ _ => misplaced_of (fun _ => rfl) fun _ hc => hc,
    fun _ => misplaced_of (fun _ => rfl) fun _ hc => hc, fun _ _ _ => misplaced_of (fun _ => rfl) fun _ hc => hc,
    fun _ q _ _ hq => misplaced_of (fun _ => rfl) ?push, fun h d a b s k x hI hf => issueWord_overBudget hI rfl hf,
    fun s t i _ hhub hslot hecc hh => takeTraps_handled hhub hslot hecc hh, fun s t i _ => ⟨?_, ?_, ?_, fun b x => not_mem_of_leave⟩,
    fun s t i next st => resumeThread_ready next st⟩
  case push =>
    have hq' : q.val ≠ 0 := fun h => hq (Fin.ext h)
    intro c hc
    simpa [WordAttr.allowed, hq'] using hc
  all_goals rw [thr_stopped]

/-! Creation and reset. -/

/-- The context that CREATE makes: its registers hold their reset values. -/
theorem readCtxReg_created {s : State} {c : Nat} (hc : s.ctx c = { live := true }) : readCtxReg s c 0x08 = 256 ∧
    ∀ n, n ∈ [0x01, 0x02, 0x03, 0x04, 0x05, 0x06, 0x07, 0x09, 0x0A, 0x0B, 0x0C, 0x10, 0x11, 0x12, 0x13, 0x14, 0x15, 0x16, 0x17,
      0x18, 0x19, 0x1A] → readCtxReg s c n = 0 := by
  unfold readCtxReg
  rw [hc]
  refine ⟨rfl, fun n hn => ?_⟩
  fin_cases hn <;> rfl

/-- A state with a new context in a slot. -/
def created (s : State) (c : Nat) : State := { s with ctxs := s.ctxs.set c { live := true } }

theorem ctx_created (s : State) (c d : Nat) : (created s c).ctx d = if d = c then { live := true } else s.ctx d := by
  unfold created State.ctx
  rw [Map.get?_set]
  split <;> rfl

theorem ctxcmdCreate_free {s : State} {f k : Nat} (hw : Window s f) (hk : k < 16) (hlive : (s.ctx (f * 16 + k)).live = false)
    (hbusy : (s.ctx (f * 16 + k)).busy = false) : exec (.ctxcmdCreate f k) s = .next (created s (f * 16 + k)) := by
  obtain ⟨hon, hf⟩ := hw
  have hin : ¬ (64 ≤ f ∨ 16 ≤ k) := by omega
  show execCtxcmdCreate f k s = _
  simp [execCtxcmdCreate, created, hon, hin, hlive, hbusy]

/-- Settles O56: a free slot takes a new context; reset has no context, thread or operation. -/
theorem resetAndCreation : Obligations.ResetAndCreation := by
  refine ⟨fun f k s hw hk hlive hbusy => ?_, fun _ => rfl, rfl, rfl, rfl, rfl⟩
  have hmade : (created s (f * 16 + k)).ctx (f * 16 + k) = { live := true } := (ctx_created _ _ _).trans (if_pos rfl)
  exact ⟨created s (f * 16 + k), ctxcmdCreate_free hw hk hlive hbusy, by rw [hmade], (readCtxReg_created hmade).1,
    (readCtxReg_created hmade).2, fun c hc => (ctx_created _ _ _).trans (if_neg hc)⟩

end Sys2Proof.Machine
end

section
/-!
SUPPORT. Events of synchronisation, of fetching and of scheduling: barriers that time out, waits that end, fences, landings
(R34, R170, R218, R220, R280), and how threads fetch and bundles form (R51, R156, R157, R160, R404).
-/
namespace Sys2Proof.Machine

-- One theorem at a time: elaborating them side by side costs a thread stack each, and the text compiles under a memory limit.
set_option Elab.async false

/-! Synchronisation. -/

/-- The first of a list is told more than the rest. -/
theorem map_range_head {α : Type} (t : Nat) (ts : List Nat) (first rest : α) :
    ((List.range (t :: ts).length).map fun i => ((t :: ts).getD i 0, if i = 0 then first else rest)) =
      (t, first) :: ts.map fun u => (u, rest) := by
  rw [List.length_cons, List.range_succ_eq_map, List.map_cons, List.map_map]
  refine congrArg (List.cons _) ?_
  refine List.ext_getElem (by simp) fun i hi hj => ?_
  have hlt : i < ts.length := by simpa using hj
  simp [List.getD, List.getElem?_eq_getElem hlt]

/-- R170: the timeout of a phase raises BARTIME in the threads it holds up, and breaks the group. -/
theorem bartimeFires_eq (s : State) (g : Nat) (x : Group) : bartimeFires s g x = breakGroup (raise s (bartimeTraps s g x)) g := by
  have hts : bartimeThreads s g x = barWaiters s g x := rfl
  unfold bartimeFires bartimeTraps
  dsimp only
  rw [hts]
  cases barWaiters s g x with
  | nil => rfl
  | cons t ts => rw [map_range_head]

theorem bartime_happens (g : Nat) (x : Group) : Happens (.bartime g) (fun s => s.group? g = some x ∧ x.first.isSome ∧
    x.broken = false ∧ x.pausedAt = none ∧ x.timeout ≤ x.elapsed s.time) fun s => breakGroup (raise s (bartimeTraps s g x)) g := by
  rintro s ⟨hg, hfirst, hbroken, hpaused, htime⟩
  have hdue : x.due s.time = true := by simp [Group.due, hfirst, hbroken, hpaused, htime]
  show execBartime g s = _
  simp only [execBartime, hg, hdue, if_true, bartimeFires_eq]

theorem waitvTick_releases {s : State} {t : Nat} {all : Bool} {ds : List W32} {t0 : Nat} {tmo : W32} {dl : W64} {dst : Reg}
    {w : W32} (e : String) (hst : (s.thr t).status = .blocked (.waitv all ds t0 tmo dl dst))
    (hw : waitvTest s t all ds t0 tmo dl = some w) : waitvTick e t s = .next (release s t (wr32 dst w false)) := by
  simp only [waitvTick, hst, hw]

theorem sleepWake_happens (t til : Nat) : Happens (.sleepWake t)
    (fun s => (s.thr t).status = .blocked (.sleep til) ∧ til ≤ s.time) fun s => release s t [] := by
  rintro s ⟨hst, htil⟩
  show execSleepWake t s = _
  simp only [execSleepWake, hst, if_pos htil]

/-- R280: a fence is done when the earlier accesses of its thread are where it asks. -/
theorem fenceDone_of {s : State} {p : Pend} {o : Ord} {sc : Scope} (hdone : p.done = false)
    (hfences : ∀ q ∈ earlier s p, q.done = true ∨ q.op.isFence = false)
    (hrel : o.releases = true → ∀ q ∈ earlier s p, q.visible sc.level = true ∨ (q.op.leaves = false ∧ q.op.isRmw = false))
    (hacq : o.acquires = true → (∀ q ∈ earlier s p, q.done = true ∨ (q.op.isLoad = false ∧ q.op.isRmw = false)) ∧
      s.sees p.tid ((fenceHeads s p.tid p.id sc.level o).flatMap RelHead.owed) = true) : fenceDone s p o sc = true := by
  have hf : (earlier s p).all (fun q => q.done || !q.op.isFence) = true :=
    List.all_eq_true.2 fun q hq => by simpa using hfences q hq
  have hr : (!o.releases || (earlier s p).all fun q => q.visible sc.level || !(q.op.leaves || q.op.isRmw)) = true := by
    cases ho : o.releases with
    | false => rfl
    | true => exact List.all_eq_true.2 fun q hq => by simpa using hrel ho q hq
  have ha : (!o.acquires || ((earlier s p).all (fun q => q.done || !(q.op.isLoad || q.op.isRmw)) &&
      s.sees p.tid ((fenceHeads s p.tid p.id sc.level o).flatMap RelHead.owed))) = true := by
    cases ho : o.acquires with
    | false => rfl
    | true =>
      rw [(hacq ho).2, Bool.and_true]
      exact List.all_eq_true.2 fun q hq => by simpa using (hacq ho).1 q hq
  unfold earlier at hf hr ha
  simp only [fenceDone, hdone, hf, hr, ha, Bool.not_false, Bool.and_self]

theorem ready_of_done {s : State} {p : Pend} (hd : p.done = true) : ready s p = false := by
  simp [ready, inOrder, hd]

theorem orConsume_of_not_ready {s : State} {p : Pend} {f : Out} (hr : ready s p = false) : orConsume s p f = f := by
  unfold orConsume
  cases errorFor s p with
  | none => rfl
  | some e => simp [hr]

theorem orConsume_of_no_error {s : State} {p : Pend} {f : Out} (he : errorFor s p = none) : orConsume s p f = f := by
  unfold orConsume
  rw [he]

theorem varlatLand_done (id : Nat) (p : Pend) : Happens (.varlatLand id)
    (fun s => s.pend? id = some p ∧ p.done = true ∧ landable s p = true) fun s => landOp s id := by
  rintro s ⟨hp, hd, hl⟩
  show execVarlatLand id s = _
  simp only [execVarlatLand, hp, orConsume_of_not_ready (ready_of_done hd), hd, if_true, Option.getD_none, hl]

/-- A state in which an operation no longer waits at a scratchpad line. -/
def offScratch (s : State) (id : Nat) : State := { s with scratchWait := s.scratchWait.filter fun e => e.2 != id }

theorem varlatLand_performs {id : Nat} {p : Pend} {s s' : State} (hp : s.pend? id = some p) (hd : p.done = false)
    (he : errorFor s p = none) (hr : ready s p = true) (hs : performLocal s p = some s') :
    ((offScratch s' id).pend? id = none → exec (.varlatLand id) s = .next (completeAll (offScratch s' id))) ∧
    ∀ q, (offScratch s' id).pend? id = some q →
      exec (.varlatLand id) s = .next (if landable (offScratch s' id) q = true then landOp (offScratch s' id) id
        else offScratch s' id) := by
  have hacts : (performLocal s p).map (fun s => { s with scratchWait := s.scratchWait.filter fun e => e.2 != id }) =
      some (offScratch s' id) := by
    rw [hs]
    rfl
  refine ⟨fun hnone => ?_, fun q hq => ?_⟩
  all_goals show execVarlatLand id s = _
  · simp only [execVarlatLand, hp, orConsume_of_no_error he, hd, hr, hacts, if_true, Option.getD_some, hnone, Bool.false_eq_true,
      if_false]
  · simp only [execVarlatLand, hp, orConsume_of_no_error he, hd, hr, hacts, if_true, Option.getD_some, hq, Bool.false_eq_true,
      if_false, Option.isSome_some]
    split <;> rfl

/-- Settles O37: event by event. -/
theorem synchronisationEvents : Obligations.SynchronisationEvents := by
  refine ⟨bartime_happens, fun t all ds t0 tmo dl dst w s hst hw => ⟨waitvTick_releases _ hst hw, waitvTick_releases _ hst hw⟩,
    sleepWake_happens, ?fence, varlatLand_done, fun id p s s' hp hd he hr hs => varlatLand_performs hp hd he hr hs⟩
  case fence =>
    rintro id p o sc strict snap s ⟨hp, -, hop, hdone, hfences, hrel, hacq⟩
    show execFenceComplete id s = _
    simp only [execFenceComplete, hp, hop, fenceDone_of hdone hfences hrel hacq, if_true]

/-! Fetching. -/

/-- R51: the fetch of a thread that may fetch, by what it finds. -/
theorem fetchClause_eq {s : State} {t : Nat} (h : MayFetch s t) : exec (.fetchClause t) s = match (found s t).1 with
    | .ok c => match if (s.thr t).widx = 0 then breakpointAt (kept s t) t (found s t).2.1 else none with
      | some n => .next (raiseCompared ((kept s t).updThr t fun x =>
          { x.stoppedBy (found s t).2.1 n with pc := (found s t).2.1, select := false }) [(t, breakInfo n)])
      | none => .next ((kept s t).updThr t fun x => x.holds (found s t).2.1 c)
    | .trap i => .next (raiseCompared ((kept s t).updThr t fun x => { x with pc := (found s t).2.1, widx := 0 }) [(t, i)])
    | .pass _ => .next (raiseCompared (kept s t) [(t, { trap := .cls, cause := 0x10 })])
    | .park va => .next (parkThreads (kept s t) [t] 0 3 0 (addSector [] va 8)) := by
  obtain ⟨hst, hcl, hhere, hfl⟩ := h
  have hmay : ((s.thr t).status != .ready || (s.thr t).clause.isSome || (s.threads.get? t).isNone || s.inFlight t) = false := by
    rw [hst, hcl, hfl, Option.isNone_eq_false_iff.2 hhere]
    rfl
  show execFetchClause t s = _
  unfold execFetchClause
  dsimp only
  rw [hmay]
  rfl

theorem fetchEvents : FetchEvents := by
  refine ⟨?holds, ?stops, ?traps, ?passes, ?parks⟩
  case holds =>
    rintro t c s ⟨hmay, hok, hno⟩
    have hgo : (if (s.thr t).widx = 0 then breakpointAt (kept s t) t (found s t).2.1 else none) = none := by
      rcases hno with hw | hb
      · rw [if_neg hw]
      · rw [hb, ite_self]
    rw [fetchClause_eq hmay, hok]
    dsimp only
    rw [hgo]
    rfl
  case stops =>
    rintro t c n s ⟨hmay, hok, hw, hb⟩
    rw [fetchClause_eq hmay, hok]
    dsimp only
    rw [if_pos hw, hb]
    rfl
  case traps =>
    rintro t i s ⟨hmay, htrap⟩
    rw [fetchClause_eq hmay, htrap]
  case passes =>
    rintro t n s ⟨hmay, hpass⟩
    rw [fetchClause_eq hmay, hpass]
  case parks =>
    rintro t va s ⟨hmay, hpark⟩
    rw [fetchClause_eq hmay, hpark]

/-! Scheduling. -/

theorem gatherNote_eq (s : State) (now t : Nat) (x : Thread) : gatherNote s now t x =
    if readyBut s t x = false then { x with readyAt := now + 1, aged := false }
    else if x.readyAt + 256 ≤ now then { x with aged := true } else x := by
  unfold gatherNote
  cases readyBut s t x <;> rfl

theorem gatherCycle_happens (core : Nat) : Happens (.gatherCycle core)
    (fun s => (s.core core).retired = false ∨ ∃ e ∈ s.threads, coreOf e.1 = core)
    fun s => gatherPort core 1 (gatherPort core 0 (gathered s core)) := by
  intro s h
  have hmay : ((s.core core).retired && s.threads.all (fun e => coreOf e.1 != core)) = false := by
    rcases h with hr | ⟨e, he, hc⟩
    · rw [hr, Bool.false_and]
    · rw [Bool.and_eq_false_iff]
      exact .inr (List.all_eq_false.2 ⟨e, he, by simp [hc]⟩)
  show execGatherCycle core s = _
  unfold execGatherCycle
  rw [hmay]
  refine congrArg (fun u => Host.Outcome.next (gatherPort core 1 (gatherPort core 0 u))) ?_
  unfold gathered
  simp only [gatherNote_eq]
  rfl

theorem schedulingEvents : SchedulingEvents := by
  refine ⟨gatherCycle_happens, ?aged, ?yields, ?handler, ?firmware⟩
  case aged =>
    rintro t s ⟨hready, haged, htime⟩
    show execThreadAged t s = _
    simp only [execThreadAged, hready, haged, htime, decide_true, Bool.not_false, Bool.and_self, if_true]
  case yields =>
    rintro t s ⟨hne, htime⟩
    show execYieldHoldExpire t s = _
    simp only [execYieldHoldExpire, bne_iff_ne.2 hne, htime, decide_true, Bool.and_self, if_true]
  case handler =>
    rintro core c s ⟨hfree, hlive, hh, hun⟩
    show execHandlerStart core c s = _
    simp only [execHandlerStart, hfree, hlive, hh, hun, Option.isSome_none, Bool.not_true, Bool.or_self, decide_false,
      Bool.false_eq_true, if_false]
  case firmware =>
    intro s h
    show execFirmwareWake s = _
    have hne : (s.blockedBy fun w => w == .halt).isEmpty = false := List.isEmpty_eq_false_iff.2 h
    simp only [execFirmwareWake, hne, Bool.false_eq_true, if_false]
    rfl

/-- Settles O38. -/
theorem fetchAndScheduling : Obligations.FetchAndScheduling := ⟨fetchEvents, schedulingEvents⟩

end Sys2Proof.Machine
end

section
/-!
SUPPORT. Events of gangs and of the anvil (R180, R181, R303, R315, R327), of held surface blocks (R345, R348, R352) and of
traversal units (R356, R358, R364, R368, R371).
-/
namespace Sys2Proof.Machine

-- One theorem at a time: elaborating them side by side costs a thread stack each, and the text compiles under a memory limit.
set_option Elab.async false

/-! Gangs at the latch. -/

theorem gangRelease_outOfPlace (cid : Nat) (w : AtLatch) : Happens (.gangLatchRelease cid)
    (fun s => crewLatch s cid = some w ∧ outOfPlace s cid ≠ [])
    fun s => raise s (sorted (((outOfPlace s cid).flatMap fun c => liveTids s c.1).map (gangInfo s))) := by
  rintro s ⟨hw, hout⟩
  have hne : ((latchCrews s cid).filter fun c => gangFault s c.1 c.2).isEmpty = false := List.isEmpty_eq_false_iff.2 hout
  show execGangLatchRelease cid s = _
  simp only [execGangLatchRelease, hw, hne, Bool.not_false, if_true]
  rfl

/-- A gang that has come whole and in time releases: a trap of the instruction, or its place in the anvil's queue (R180, R327). -/
theorem gangRelease_whole {s : State} {cid : Nat} {w : AtLatch} (h : GangHere s cid w) : exec (.gangLatchRelease cid) s =
    match matTrap s (gangCrews s cid w) w.op with
    | some i => .next (raise s (sorted (((gangCrews s cid w).flatMap (liveTids s)).map fun t => (t, i))))
    | none => if !padsFree s (gangCrews s cid w) w.op then idle "GANG_LATCH_RELEASE" else .next (issuedMatrix s cid w) := by
  obtain ⟨hw, hplace, hwhole, hfirst⟩ := h
  have hnone : ((latchCrews s cid).filter fun c => gangFault s c.1 c.2) = [] := hplace
  show execGangLatchRelease cid s = _
  unfold execGangLatchRelease
  simp only [hw, hnone, hwhole, hfirst, List.isEmpty_nil, Bool.not_true, Bool.or_self, Bool.false_eq_true, if_false]
  rfl

theorem gangRelease_traps (cid : Nat) (w : AtLatch) (i : TrapInfo) : Happens (.gangLatchRelease cid)
    (fun s => GangHere s cid w ∧ matTrap s (gangCrews s cid w) w.op = some i)
    fun s => raise s (sorted (((gangCrews s cid w).flatMap (liveTids s)).map fun t => (t, i))) := by
  rintro s ⟨hhere, htrap⟩
  rw [gangRelease_whole hhere, htrap]

theorem gangRelease_issues (cid : Nat) (w : AtLatch) : Happens (.gangLatchRelease cid)
    (fun s => GangHere s cid w ∧ matTrap s (gangCrews s cid w) w.op = none ∧ padsFree s (gangCrews s cid w) w.op = true)
    fun s => issuedMatrix s cid w := by
  rintro s ⟨hhere, htrap, hfree⟩
  rw [gangRelease_whole hhere, htrap]
  dsimp only
  rw [hfree]
  rfl

theorem gangfailTimeout_happens (cid : Nat) (w : AtLatch) (l : Nat) : Happens (.gangfailTimeout cid)
    (fun s => crewLatch s cid = some w ∧ gangComplete s cid w = false ∧ latchLimit s cid = some l ∧
      gangSince s cid w + l < s.time ∧ ((gangAt s cid w).flatMap fun c => liveTids s c.1) ≠ [])
    fun s => raise s ((sortNat ((gangAt s cid w).flatMap fun c => liveTids s c.1)).map (gangInfo s)) := by
  rintro s ⟨hw, hpart, hlimit, htime, hne⟩
  have hlate : latchLate s cid w s.time = true := by
    unfold latchLate
    rw [hlimit]
    exact decide_eq_true htime
  have hout : gangTimedOut s cid = (gangAt s cid w).flatMap fun c => liveTids s c.1 := by
    simp only [gangTimedOut, hw, hpart, hlate, Bool.not_true, Bool.or_self, Bool.false_eq_true, if_false, gangAt]
  show execGangfailTimeout cid s = _
  unfold execGangfailTimeout
  rw [hout]
  dsimp only
  rw [List.isEmpty_eq_false_iff.2 hne]
  rfl

/-! The anvil. -/

theorem JournalOnly.anvil_eq {s t : State} (h : JournalOnly s t) : t.anvil = s.anvil := (congrArg State.anvil h.1 :)

theorem JournalOnly.trans {s t u : State} (h : JournalOnly s t) (k : JournalOnly t u) : JournalOnly s u := by
  refine ⟨?_, fun j => (k.2 j).trans (h.2 j)⟩
  rw [← h.1, ← k.1]

theorem JournalOnly.foldl {α : Type} (k : Nat) (f : α → JUnit) (l : List α) (s : State) :
    JournalOnly s (l.foldl (fun s a => s.journal k (f a)) s) := by
  induction l generalizing s with
  | nil => exact .refl s
  | cons a r ih => exact (JournalOnly.journal s k (f a)).trans (ih _)

theorem accWrite_anvil (s : State) (o : AnvilOp) (acc : Nat) (f : Nat → Nat → Nat) : (accWrite s o acc f).anvil = s.anvil :=
  (JournalOnly.foldl _ _ _ s).anvil_eq

/-- What is fixed of an instruction in the anvil: its number and what it is. -/
def opOf (o : AnvilOp) : Nat × MatOp := (o.id, o.op)

theorem updAnvil_ops (s : State) (id : Nat) (f : AnvilOp → AnvilOp) (hf : ∀ o, opOf (f o) = opOf o) :
    (s.updAnvil id f).anvil.map opOf = s.anvil.map opOf := by
  unfold State.updAnvil
  rw [List.map_map]
  refine List.map_congr_left fun o _ => ?_
  show opOf (if o.id = id then f o else o) = opOf o
  split
  · exact hf o
  · rfl

/-- An instruction that reads no operands leaves the anvil's instructions what they are. -/
theorem applyOp_ops {s : State} {o : AnvilOp} (ho : hasOperands o.op = false) :
    (applyOp s o).anvil.map opOf = s.anvil.map opOf := by
  unfold applyOp
  dsimp only
  rw [updAnvil_ops]
  case hf => exact fun _ => rfl
  split
  · rfl
  · split
    case h_1 heq => rw [heq] at ho; cases ho
    case h_3 heq => rw [heq] at ho; cases ho
    case h_4 =>
      rw [updAnvil_ops]
      · rfl
      · exact fun _ => rfl
    case h_8 => rfl
    case h_9 => rfl
    all_goals exact congrArg (List.map opOf) (accWrite_anvil _ _ _ _)

theorem find?_id_op (id : Nat) (l : List AnvilOp) :
    (l.find? fun x => x.id == id).map AnvilOp.op = ((l.map opOf).find? fun e => e.1 == id).map Prod.snd := by
  rw [List.find?_map, Option.map_map]
  rfl

/-- The instruction that a number names stays the same as long as the anvil's instructions stay what they are. -/
theorem find?_op_of_ops {s t : State} {id : Nat} {o : AnvilOp} (h : t.anvil.map opOf = s.anvil.map opOf)
    (hf : (s.anvil.find? fun x => x.id == id) = some o) : ∃ n, (t.anvil.find? fun x => x.id == id) = some n ∧ n.op = o.op := by
  have hop := find?_id_op id t.anvil
  rw [h, ← find?_id_op, hf] at hop
  exact Option.map_eq_some_iff.1 hop

/-- The tile an instruction of this kind writes as it completes. -/
def tileAs (s : State) (id : Nat) (op : MatOp) : State :=
  match op with
  | .mstore .. =>
    match s.anvil.find? fun (x : AnvilOp) => x.id == id with
    | none => s
    | some now => if now.here s then storeTile s now else s
  | _ => s

theorem tileAs_eq {s : State} {id : Nat} {n : AnvilOp} (hf : (s.anvil.find? fun x => x.id == id) = some n) :
    tileAs s id n.op = tileOut s id := by
  cases hop : n.op <;> simp only [tileAs, tileOut, hf, hop]

/-- R315: the instruction that leads a core's queue completes, where it has read its operands or has none. -/
theorem anvilComplete_eq {s : State} {id : Nat} {o : AnvilOp} (hf : (s.anvil.find? fun x => x.id == id) = some o)
    (hold : oldest s o) (hid : o.id = id) (hread : (!o.read && hasOperands o.op) = false) : exec (.anvilInstrComplete id) s =
      match if o.read then none else opError s o with
      | some e => .next (consumeAt s o.billet e)
      | none => .next (leavesAnvil (tileAs (if o.read then s else applyOp s o) id o.op) id) := by
  have hlead : (((anvilOps s o.core).head?.map AnvilOp.id) != some id) = false := by
    rw [hold, hid]
    exact bne_self_eq_false _
  show execAnvilInstrComplete id s = _
  unfold execAnvilInstrComplete
  rw [hf]
  dsimp only
  rw [hlead, hread]
  rfl

theorem anvilOperandsRead_does {id : Nat} {o : AnvilOp} {s t : State} (hf : (s.anvil.find? fun x => x.id == id) = some o)
    (hread : o.read = false) (hready : opReady s o = true) (ht : catchUp id s (anvilOps s o.core) = some t) :
    exec (.anvilOperandsRead id) s = .next (match opError t o with
      | none => applyOp t o
      | some e => consumeAt t o.billet e) := by
  show execAnvilOperandsRead id s = _
  simp only [execAnvilOperandsRead, hf, hread, hready, ht, Bool.not_true, Bool.or_self, Bool.false_eq_true, if_false]
  cases opError t o <;> rfl

theorem anvilComplete_read (id : Nat) (o : AnvilOp) : Happens (.anvilInstrComplete id)
    (fun s => (s.anvil.find? fun x => x.id == id) = some o ∧ o.id = id ∧ oldest s o ∧ o.read = true)
    fun s => leavesAnvil (tileOut s id) id := by
  rintro s ⟨hf, hid, hold, hread⟩
  rw [anvilComplete_eq hf hold hid (by rw [hread]; rfl), if_pos hread, if_pos hread, tileAs_eq hf]

theorem anvilComplete_unread (id : Nat) (o : AnvilOp) : Happens (.anvilInstrComplete id)
    (fun s => (s.anvil.find? fun x => x.id == id) = some o ∧ o.id = id ∧ oldest s o ∧ o.read = false ∧ hasOperands o.op = false)
    fun s => match opError s o with
      | none => leavesAnvil (tileOut (applyOp s o) id) id
      | some e => consumeAt s o.billet e := by
  rintro s ⟨hf, hid, hold, hread, hno⟩
  have hunread : ¬ o.read = true := by rw [hread]; decide
  obtain ⟨n, hn, hop⟩ := find?_op_of_ops (applyOp_ops hno) hf
  rw [anvilComplete_eq hf hold hid (by rw [hno, Bool.and_false]), if_neg hunread, if_neg hunread, ← hop, tileAs_eq hn]
  dsimp only
  cases opError s o <;> rfl

theorem gangAndAnvilEvents : GangAndAnvilEvents :=
  ⟨gangRelease_outOfPlace, gangRelease_traps, gangRelease_issues, gangfailTimeout_happens,
    fun _ _ _ _ hf hread hready ht => anvilOperandsRead_does hf hread hready ht, anvilComplete_read, anvilComplete_unread⟩

/-! Held surface blocks. -/

theorem heldBlockEvents : HeldBlockEvents := by
  refine ⟨?evict, ?retry, ?again, ?timeout⟩
  case evict =>
    rintro c m b k s ⟨hk, hpin⟩
    show execPlanisherEvictEncode c m b s = _
    simp only [execPlanisherEvictEncode, hk, hpin, Option.isSome_none, Bool.false_eq_true, if_false]
  case retry =>
    intro c m b k s t hk hpin henc
    show execPoolWordChangeRetry c m b s = _
    simp only [execPoolWordChangeRetry, hk, Option.isNone_eq_false_iff.2 hpin, henc, Bool.false_eq_true, if_false]
  case again =>
    intro c m b k r s t hk hpin henc hr
    show execPoolWordChangeRetry c m b s = _
    simp only [execPoolWordChangeRetry, hk, Option.isNone_eq_false_iff.2 hpin, henc, Bool.false_eq_true, if_false]
  case timeout =>
    rintro c m b k t s ⟨hk, hpin, htime, hno⟩
    show execSurfpoolPinTimeout c m b s = _
    simp only [execSurfpoolPinTimeout, hk, hpin, htime, hno, decide_true, Bool.not_false, Bool.and_self, if_true]

/-- Settles O39. -/
theorem gangAnvilAndHeldBlocks : Obligations.GangAnvilAndHeldBlocks := ⟨gangAndAnvilEvents, heldBlockEvents⟩

/-! Traversal units. -/

/-- Whether the page of a surface's descriptor is denied. -/
def surfDenied : Except SErr (Option Surf) → Bool
  | .error (.prot _ page) => page
  | _ => false

/-- The codes of a command, as its checks name them (R359). -/
theorem travCodes_eq (s : State) (c : Command) (x : Except SErr (Option Surf)) :
    lowestCode (travCodes s c x) = travChecks s c (travSurfBad s c x) (surfDenied x) := rfl

/-- R355, R356: the first command of a cluster's queue, when its unit takes it. -/
theorem startTrav_head {s : State} {id : Nat} {c : Command} (h : TravHead s id c) (beam : Bool) (ev : String)
    (hk : ((c.kind == 2) == beam) = false) : startTrav beam ev id s =
      match lowestCode (travCodes s (travAimed s c) (travSurf s (travAimed s c))) with
      | some code => .next (failTrav s (travAimed s c) code)
      | none => match travSurf s (travAimed s c) with
        | .error .busy => idle ev
        | .error (.fault va _) => .next { (parkTrav s (travAimed s c) va 7 none) with fresh := s.fresh + 1 }
        | _ => (takeLines (s.updEngine (travAimed s c).id fun _ => travAimed s c) (travAimed s c)
            ((openItems (travAimed s c)).flatMap (itemPages s (travAimed s c))).dedup []).out ev fun s' =>
              .next (endTrav (passCommand (s'.updEngine id fun x => { x with running := true }) 2 (travAimed s c)
                (paramTouches (travAimed s c) ++ (travItems (travAimed s c)).flatMap (itemOut (travAimed s c)))) id) := by
  obtain ⟨hf, hrun, hparks, hready, hfirst, hfew⟩ := h
  have hfew' : decide (4 ≤ (s.trav.filter fun x => x.core / 4 == c.core / 4 && x.running).length) = false :=
    decide_eq_false (by omega)
  have hlead : (((travQueue s (c.core / 4)).head?.map Command.id) != some id) = false := by
    rw [hfirst]
    exact bne_self_eq_false _
  have htaken : (c.running || !c.parks.isEmpty || !cmdReady s c ||
      decide (4 ≤ (s.trav.filter fun x => x.core / 4 == c.core / 4 && x.running).length) || (c.kind == 2) == beam ||
      ((travQueue s (c.core / 4)).head?.map Command.id) != some id) = false := by
    rw [hrun, hparks, hready, hfew', hk, hlead]
    rfl
  unfold startTrav
  rw [hf]
  exact (if_neg (Bool.eq_false_iff.1 htaken)).trans rfl

theorem travHead_id {s : State} {id : Nat} {c : Command} (h : TravHead s id c) : c.id = id :=
  beq_iff_eq.1 (List.find?_some h.1 :)

/-- A command that no check stops asks for its lines, and runs with them. -/
theorem travRuns_of {s : State} {i : Instr} {ev : String} {c : Command}
    (he : exec i s = (takeLines (s.updEngine c.id fun _ => c) c ((openItems c).flatMap (itemPages s c)).dedup []).out ev fun s' =>
      .next (endTrav (passCommand (s'.updEngine c.id fun x => { x with running := true }) 2 c
        (paramTouches c ++ (travItems c).flatMap (itemOut c))) c.id)) : TravRuns i s c := by
  refine ⟨fun t ht => ?_, fun t ht => ?_⟩ <;> rw [he, ht] <;> rfl

theorem ray_does {id : Nat} {c : Command} {s : State} (h : TravHead s id c) (hk : c.kind = 2) :
    (∀ n, travChecks s (travAimed s c) false false = some n → exec (.ray id) s = .next (failTrav s (travAimed s c) n)) ∧
    (travChecks s (travAimed s c) false false = none → TravRuns (.ray id) s (travAimed s c)) := by
  have hsurf : travSurf s (travAimed s c) = .ok none := by
    have hbeam : (travAimed s c).beam = false := by
      show (c.kind == 1) = false
      rw [hk]
      rfl
    unfold travSurf
    rw [hbeam]
    rfl
  have hcodes : lowestCode (travCodes s (travAimed s c) (.ok none)) = travChecks s (travAimed s c) false false :=
    travCodes_eq _ _ _
  have hhead : exec (.ray id) s = _ := startTrav_head h false "RAY" (by rw [hk]; rfl)
  rw [hsurf, hcodes] at hhead
  refine ⟨fun n hn => ?_, fun hn => travRuns_of (ev := "RAY") ?_⟩
  · rw [hhead, hn]
  · rw [hhead, hn, ← travHead_id h]
    rfl

theorem beam_of_kind {s : State} {c : Command} (hk : c.kind = 1) : (travAimed s c).beam = true := by
  show (c.kind == 1) = true
  rw [hk]
  rfl

/-- The surface of a beam, as its checks see it. -/
theorem travSurf_ok {s : State} {c : Command} {x : Surf} (hk : c.kind = 1) (hx : beamSurf s c = .ok x) :
    travSurf s (travAimed s c) = .ok (some x) := by
  unfold travSurf
  rw [beam_of_kind hk]
  exact congrArg (Except.map some) hx

theorem travSurf_error {s : State} {c : Command} {e : SErr} (hk : c.kind = 1) (hx : beamSurf s c = .error e) :
    travSurf s (travAimed s c) = .error e := by
  unfold travSurf
  rw [beam_of_kind hk]
  exact congrArg (Except.map some) hx

theorem beam_does {id : Nat} {c : Command} {x : Surf} {s : State} (h : TravHead s id c) (hk : c.kind = 1)
    (hx : beamSurf s c = .ok x) :
    let bad := x.fmt.code != 10 || descFrozen x.desc || marked s c.ctx c.surface
    (∀ n, travChecks s (travAimed s c) bad false = some n → exec (.beam id) s = .next (failTrav s (travAimed s c) n)) ∧
    (travChecks s (travAimed s c) bad false = none → TravRuns (.beam id) s (travAimed s c)) := by
  have hcodes : lowestCode (travCodes s (travAimed s c) (.ok (some x))) =
      travChecks s (travAimed s c) (x.fmt.code != 10 || descFrozen x.desc || marked s c.ctx c.surface) false := travCodes_eq _ _ _
  have hhead : exec (.beam id) s = _ := startTrav_head h true "BEAM" (by rw [hk]; rfl)
  rw [travSurf_ok hk hx, hcodes] at hhead
  refine ⟨fun n hn => ?_, fun hn => travRuns_of (ev := "BEAM") ?_⟩
  · rw [hhead, hn]
  · rw [hhead, hn, ← travHead_id h]
    rfl

theorem travfault_happens (id : Nat) (c : Command) (j t0 : Nat) : Happens (.travfaultPoolTimeout id)
    (fun s => (s.trav.find? fun x => x.id == id) = some c ∧ c.stuck = some (j, t0) ∧ t0 + 100000 ≤ s.time ∧ c.raised = false)
    fun s => asyncTrap (s.updEngine id fun x => { x with raised := true }) c.ctx
      { trap := .travfault, addr := c.nodeBase, detail := 0x0A } c.core := by
  rintro s ⟨hf, hstuck, htime, hraised⟩
  show execTravfaultPoolTimeout id s = _
  simp only [execTravfaultPoolTimeout, hf, hstuck, htime, hraised, decide_true, Bool.not_false, Bool.and_self, if_true]

/-- R368: an item whose lines, walk and reads are there is done. -/
theorem travItem_does {c : Command} {j : Nat} {read rd : List Touch} {s t t' u v : State} (h : TravItem s c j)
    (ht : takeLines s c (itemPages s c j) [] = .yes t) (hrun : runItem t c j = (.ok read, t'))
    (hu : fetchLines t c (itemReads t c j read) = .yes u) (hrd : runItem u c j = (.ok rd, v)) :
    exec (.travItemComplete c.id j) s = .next (completeItem c j v) := by
  obtain ⟨hf, hrunning, hopen, hstuck, hparks, hprot, hfaults⟩ := h
  have hbehind : (c.stuck.any fun x => decide (x.1 < j)) = false := by
    cases hst : c.stuck with
    | none => rfl
    | some x => exact decide_eq_false (by have := hstuck x hst; omega)
  have hpark : (c.parks.any fun p => p.item == some j) = false :=
    List.any_eq_false.2 fun p hp => by simpa using hparks p hp
  have hreads : touchPages t c false ((if c.beam then paramTouches c else
      [{ va := (c.param + 32 * j) % 2 ^ 64, n := 32, w := false }]) ++ read) = itemReads t c j read := by
    unfold itemReads Command.beam
    by_cases hk : c.kind = 1 <;> simp [hk]
  show execTravItemComplete c.id j s = _
  unfold execTravItemComplete
  simp only [hf, hrunning, List.contains_iff_mem.2 hopen, hbehind, hpark, hprot, hfaults, ht, hreads, hrun, hu, hrd, Take.out,
    Bool.not_true, Bool.or_self, Bool.false_eq_true, if_false, List.isEmpty_nil]

/-- Settles O40. -/
theorem traversalEvents : Obligations.TraversalEvents := by
  refine ⟨fun id c s h hk => ray_does h hk, fun id c x s h hk hx => beam_does h hk hx, ?denied, ?parks,
    fun c j read rd t t' u v s h ht hrun hu hrd => travItem_does h ht hrun hu hrd, travfault_happens⟩
  case denied =>
    rintro id c a page n s ⟨h, hk, hx, hn⟩
    have hcodes : lowestCode (travCodes s (travAimed s c) (.error (.prot a page))) = travChecks s (travAimed s c) (!page) page :=
      travCodes_eq _ _ _
    have hhead : exec (.beam id) s = _ := startTrav_head h true "BEAM" (by rw [hk]; rfl)
    rw [hhead, travSurf_error hk hx, hcodes, hn]
  case parks =>
    rintro id c va k s ⟨h, hk, hx, hn⟩
    have hcodes : lowestCode (travCodes s (travAimed s c) (.error (.fault va k))) = travChecks s (travAimed s c) false false :=
      travCodes_eq _ _ _
    have hhead : exec (.beam id) s = _ := startTrav_head h true "BEAM" (by rw [hk]; rfl)
    rw [hhead, travSurf_error hk hx, hcodes, hn]

end Sys2Proof.Machine
end

section
/-!
SUPPORT. Writes of a tenant's window (R184, R185, R198, R395 to R400, R466), launches and placement (R185 to R195) and the saving
and restoring of sets (R408, R410).
-/
namespace Sys2Proof.Machine

-- One theorem at a time: elaborating them side by side costs a thread stack each, and the text compiles under a memory limit.
set_option Elab.async false

/-! The window. -/

theorem window_open {s : State} {f : Nat} (h : Window s f) : (!s.windowOn || decide (64 ≤ f)) = false := by
  obtain ⟨hon, hf⟩ := h
  rw [hon, decide_eq_false (by omega)]
  rfl

theorem window_row {s : State} {f q n : Nat} (h : Window s f) (hq : q < n) : (!s.windowOn || decide (64 ≤ f ∨ n ≤ q)) = false := by
  obtain ⟨hon, hf⟩ := h
  rw [hon, decide_eq_false (by omega)]
  rfl

/-- A write of the window happens where it is open. -/
theorem inWindow_of {i : Instr} {f : Nat} {e : String} {E : State → State}
    (he : ∀ s, exec i s = if !s.windowOn || decide (64 ≤ f) then idle e else .next (E s)) : InWindow i f E := by
  intro s hw
  rw [he, window_open hw]
  rfl

/-! Launch registers. -/

theorem lqtail_does (f q v : Nat) (s : State) (hw : Window s f) (hq : q < 16) :
    let t := s.updQueue f q fun x => { x with tail := BitVec.ofNat 32 v }
    let x := (t.tenant f).queue q
    exec (.lqtailWrite f q v) s = .next (if 2 ^ x.log2 < (x.tail - x.hd).toNat then queueError t f q 1 else t) := by
  show execLqtailWrite f q v s = _
  unfold execLqtailWrite
  rw [window_row hw hq]
  rfl

/-- A field of one bit that a register word holds. -/
theorem bit_beq_one {v b : Nat} (h : v % 2 = b) : (v % 2 == 1) = decide (b = 1) := by rw [h]; rfl

theorem bit_bne_one {v b : Nat} (h : v % 2 = b) (hb : b < 2) : (v % 2 != 1) = decide (b = 0) := by
  rw [h]
  obtain rfl | rfl : b = 0 ∨ b = 1 := by omega
  · rfl
  · rfl

theorem finOfNat_mod (n : Fin 32) (v : Nat) (h : v % 32 = n.val) : Fin.ofNat 32 (v % 32) = n :=
  Fin.ext (by simp [Fin.ofNat, h])

theorem lqctl_does (f q en err prio : Nat) (n : Fin 32) (s : State) (hw : Window s f) (hq : q < 16) (hen : en < 2) (herr : err < 2)
    (hprio : prio < 8) :
    let x := (s.tenant f).queue q
    let t := (if en = 1 then s else giveBack s f q).updQueue f q fun y =>
      { y with en := decide (en = 1), err := y.err && decide (err = 0), prio := Fin.ofNat 8 prio, log2n := n }
    exec (.lqctlWrite f q (2 ^ 31 * en + 2 ^ 30 * err + 2 ^ 16 * prio + n.val)) s =
      .next (if x.en = true ∧ n ≠ x.log2n then queueError t f q 2 else t) := by
  have hn := n.isLt
  have hlog : Fin.ofNat 32 ((2 ^ 31 * en + 2 ^ 30 * err + 2 ^ 16 * prio + n.val) % 32) = n := finOfNat_mod _ _ (by omega)
  have henb := bit_beq_one (v := (2 ^ 31 * en + 2 ^ 30 * err + 2 ^ 16 * prio + n.val) / 2 ^ 31) (b := en) (by omega)
  have herrb := bit_bne_one (v := (2 ^ 31 * en + 2 ^ 30 * err + 2 ^ 16 * prio + n.val) / 2 ^ 30) (b := err) (by omega) herr
  have hpri : (2 ^ 31 * en + 2 ^ 30 * err + 2 ^ 16 * prio + n.val) / 2 ^ 16 % 8 = prio := by omega
  show execLqctlWrite f q _ s = _
  unfold execLqctlWrite
  rw [window_row hw hq]
  simp only [hlog, henb, herrb, hpri, Bool.false_eq_true, if_false, decide_eq_true_eq, Bool.and_eq_true, bne_iff_ne]

theorem ampctl_does (f en prio : Nat) (s : State) (hw : Window s f) (hen : en < 2) (hprio : prio < 8) :
    exec (.ampctlWrite f (2 ^ 31 * en + 2 ^ 16 * prio)) s = .next ((if en = 1 then s else giveBack s f 16).updTenant f fun t =>
      { t with ampEn := decide (en = 1), ampPrio := Fin.ofNat 8 prio }) := by
  have henb := bit_beq_one (v := (2 ^ 31 * en + 2 ^ 16 * prio) / 2 ^ 31) (b := en) (by omega)
  have hpri : (2 ^ 31 * en + 2 ^ 16 * prio) / 2 ^ 16 % 8 = prio := by omega
  show execAmpctlWrite f _ s = _
  unfold execAmpctlWrite
  rw [window_open hw]
  simp only [henb, hpri, Bool.false_eq_true, if_false, decide_eq_true_eq]

theorem launchRegisterWrites : LaunchRegisterWrites :=
  ⟨lqtail_does, lqctl_does, ampctl_does⟩

/-! Rings. -/

/-- A map over entries that keeps the keys. -/
theorem Map.get?_mapKeys {α β : Type} (m : Map α) (g : Nat → α → β) (j : Nat) :
    Map.get? (List.map (fun e => (e.1, g e.1 e.2)) m : Map β) j = (Map.get? m j).map (g j) := by
  induction m with
  | nil => rfl
  | cons e t ih =>
    obtain ⟨k, b⟩ := e
    by_cases h : k = j
    · subst h
      simp [Map.get?]
    · simp [Map.get?, h, ih]

/-- R400: what a counter is after a clear of a granule of its tenant. -/
def cleared (f v k : Nat) (c : AccessCount) : AccessCount :=
  if (List.range 4).any (fun d => k == countKey (f * 4 + d) (v % 2 ^ 64 / 65536)) then { c with pend := false } else c

theorem acclr_does (f v : Nat) (s : State) (hw : Window s f) : exec (.acclrWrite f v) s =
    .next { s with counts := s.counts.map fun e => (e.1, cleared f v e.1 e.2) } := by
  have hmap : (fun e : Nat × AccessCount => if (List.range 4).any fun d => e.1 == countKey (f * 4 + d) (v % 2 ^ 64 / 65536)
      then (e.1, { e.2 with pend := false }) else e) = fun e => (e.1, cleared f v e.1 e.2) := by
    funext e
    unfold cleared
    split <;> rfl
  show execAcclrWrite f v s = _
  unfold execAcclrWrite
  rw [window_open hw, hmap]
  rfl

theorem ringWrites : RingWrites := by
  refine ⟨fun _ _ => inWindow_of fun _ => rfl, ?abort, fun _ => inWindow_of fun _ => rfl, fun _ _ => inWindow_of fun _ => rfl,
    ?control, fun _ _ => inWindow_of fun _ => rfl, fun _ _ => inWindow_of fun _ => rfl, fun _ _ => inWindow_of fun _ => rfl, ?clear⟩
  case abort =>
    intro f tag all htag hall s hw
    have hbit : (2 ^ 62 * all + tag) / 2 ^ 62 % 2 = all := by omega
    have htag' : (2 ^ 62 * all + tag) % 2 ^ 32 = tag := by omega
    show execFqreplayAbort f _ s = _
    unfold execFqreplayAbort
    rw [window_open hw, hbit, htag']
    simp only [Bool.false_eq_true, if_false]
    split <;> rfl
  case control =>
    intro f en ovf irq hen hovf hirq s hw
    have henb := bit_beq_one (v := (2 ^ 31 * en + 2 ^ 30 * ovf + 2 ^ 28 * irq) / 2 ^ 31) (b := en) (by omega)
    have hovfb := bit_bne_one (v := (2 ^ 31 * en + 2 ^ 30 * ovf + 2 ^ 28 * irq) / 2 ^ 30) (b := ovf) (by omega) hovf
    have hirqb := bit_beq_one (v := (2 ^ 31 * en + 2 ^ 30 * ovf + 2 ^ 28 * irq) / 2 ^ 28) (b := irq) (by omega)
    show execFqctlWrite f _ s = _
    unfold execFqctlWrite
    rw [window_open hw]
    simp only [henb, hovfb, hirqb, Bool.false_eq_true, if_false]
  case clear =>
    intro f v s hw
    refine ⟨_, acclr_does f v s hw, rfl, ?_, fun k c hc => ?_⟩
    · exact (List.map_map ..).trans rfl
    · exact (Map.get?_mapKeys _ _ _).trans (by rw [hc]; rfl)

/-- Settles O45. -/
theorem windowWrites : Obligations.WindowWrites := ⟨launchRegisterWrites, ringWrites⟩

/-! Launches. -/

/-- R185: the packet at the head of a queue is read. -/
theorem packetHead_eq {s : State} {f q : Nat} (h : HasPacket s f q) : exec (.launchPacketHead f q) s =
    if !(s.ctx (queueCtx s f q)).live then .next (refusePacket s f q 0x17 0)
    else match packetBytes s f q with
      | none => .next (refusePacket s f q 0x16 0)
      | some p => match checkPacket s (queueCtx s f q) p with
        | .error k => .next (refusePacket s f q k (pktDeadline p))
        | .ok (t, w) => .next (accepted s f q p (newPiece s f q p t w)) := by
  obtain ⟨hon, hhead, hpower, hpending⟩ := h
  have hp : (if q = 16 then !(s.tenant f).amp.isEmpty
      else ((s.tenant f).queue q).tail != ((s.tenant f).queue q).hd) = true := by
    split at hpending <;> rename_i hq
    · rw [if_pos hq]
      simpa using hpending
    · rw [if_neg hq]
      simpa using hpending
  have hmay : (!queueOn s f q || !(if q = 16 then !(s.tenant f).amp.isEmpty
      else ((s.tenant f).queue q).tail != ((s.tenant f).queue q).hd) || (headPacket s f q).isSome || s.power != 0) = false := by
    rw [hp, hon, hhead, hpower]
    rfl
  exact (if_neg (Bool.eq_false_iff.1 hmay)).trans rfl

theorem preempt_gone {t : State} {c : Cand} (h : ((candidates t).any fun e => e.wp == c.wp && e.saved == c.saved) = false) :
    preempt t c = t := by
  have hnone : ((candidates t).find? fun e => e.wp == c.wp && e.saved == c.saved) = none :=
    List.find?_eq_none.2 fun e he => by simpa using List.any_eq_false.1 h e he
  unfold preempt
  rw [hnone]

theorem preempt_here {t : State} {c e : Cand} {x : Workpiece} {n : Need}
    (he : ((candidates t).find? fun e => e.wp == c.wp && e.saved == c.saved) = some e) (hx : t.wps.get? c.wp = some x)
    (hn : e.need t x = some n) : preempt t c =
      if x.begun = true then markVictims t n (pktDeadline x.packet) (t.ctx x.ctx).pmargin.toNat else t := by
  unfold preempt
  rw [he, hx]
  dsimp only
  rw [hn]

/-- R192, R195: a picking places each candidate in turn, and pre-empts for the first. -/
theorem pick_eq {s : State} {c : Cand} (hc : (candidates s).head? = some c) (hp : s.power = 0) :
    exec .pick s = .next (preempt (each pickOne s (candidates s)) c) := by
  obtain ⟨cs, hcs⟩ := List.head?_eq_some_iff.1 hc
  show execPick s = _
  unfold execPick
  rw [hcs, hp]
  rfl

theorem launchEvents : LaunchEvents := by
  refine ⟨?dead, ?unread, ?refused, ?taken, ?depMet, ?depFails, ?miss, fun s c hc hp => ⟨fun hgone => ?_, fun e x n he hx hn => ?_⟩⟩
  case dead =>
    rintro f q s ⟨hpkt, hlive⟩
    rw [packetHead_eq hpkt, hlive]
    rfl
  case unread =>
    rintro f q s ⟨hpkt, hlive, hbytes⟩
    rw [packetHead_eq hpkt, hlive, hbytes]
    rfl
  case refused =>
    rintro f q p k s ⟨hpkt, hlive, hbytes, hcheck⟩
    rw [packetHead_eq hpkt, hlive, hbytes]
    dsimp only
    rw [hcheck]
    rfl
  case taken =>
    rintro f q p t w s ⟨hpkt, hlive, hbytes, hcheck⟩
    rw [packetHead_eq hpkt, hlive, hbytes]
    dsimp only
    rw [hcheck]
    rfl
  case depMet =>
    rintro f q h x v s ⟨hhead, hx, hmet, hpower, hacq, hv⟩
    show execDepPoll f q s = _
    simp only [execDepPoll, hhead, hx, hmet, hpower, hacq, hv, bne_self_eq_false, Bool.not_true, Bool.or_self, Bool.false_eq_true,
      if_false]
  case depFails =>
    rintro f q h x s ⟨hhead, hx, hmet, hpower, hacq, hv⟩
    show execDepPoll f q s = _
    simp only [execDepPoll, hhead, hx, hmet, hpower, hacq, hv, bne_self_eq_false, Bool.not_true, Bool.or_self, Bool.false_eq_true,
      if_false]
  case miss =>
    rintro w x s ⟨hx, hdue, hpower⟩
    show execDeadlineMiss w s = _
    simp only [execDeadlineMiss, hx, hdue, hpower, beq_self_eq_true, Bool.and_self, if_true]
  · rw [pick_eq hc hp, preempt_gone hgone]
  · rw [pick_eq hc hp, preempt_here he hx hn]

/-! Saving and restoring. -/

/-- R408: a set at rest that is to leave its cores. -/
theorem setSave_eq {s : State} {w n : Nat} {x : Workpiece} (hx : s.wps.get? w = some x) (hrest : SetAtRest s w n) :
    exec (.setSave w n) s = match freeSlot s x.ctx (setSize s w n) (some (w, n)) with
      | none =>
        if s.power ≠ 0 then .next (terminateCtx s x.ctx 0)
        else if (setBillets s w n).any fun e => (s.core (e.1 / 4)).retired || e.2.avoid == some (e.1 / 4) then
          .next (terminateCtx s x.ctx 0x14)
        else idle "SET_SAVE"
      | some slot => .next (saveSet s w n slot x) := by
  obtain ⟨hne, hmarked, hquiet⟩ := hrest
  have hmay : ((setBillets s w n).isEmpty || !((setBillets s w n).all fun e => e.2.victim) || !quiet s (setBillets s w n)) =
      false := by
    rw [List.isEmpty_eq_false_iff.2 hne, List.all_eq_true.2 hmarked, hquiet]
    rfl
  show execSetSave w n s = _
  unfold execSetSave
  rw [hx]
  exact (if_neg (Bool.eq_false_iff.1 hmay)).trans rfl

theorem saveAndRestore : SaveAndRestore := by
  refine ⟨?saved, ?off, ?stuck, ?restored⟩
  case saved =>
    rintro w n x slot s ⟨hx, hrest, hslot⟩
    rw [setSave_eq hx hrest, hslot]
  case off =>
    rintro w n x s ⟨hx, hrest, hslot, hpower⟩
    rw [setSave_eq hx hrest, hslot]
    exact if_pos hpower
  case stuck =>
    rintro w n x s ⟨hx, hrest, hslot, hpower, e, he, hgone⟩
    have hany : ((setBillets s w n).any fun e => (s.core (e.1 / 4)).retired || e.2.avoid == some (e.1 / 4)) = true :=
      List.any_eq_true.2 ⟨e, he, by simpa using hgone⟩
    rw [setSave_eq hx hrest, hslot]
    exact (if_neg (not_not.2 hpower)).trans (if_pos hany)
  case restored =>
    rintro w n v x cores s ⟨hv, hx, hpower, hcores, hfits⟩
    show execSetRestore w n s = _
    simp only [execSetRestore, hv, hx, hpower, hcores, hfits, ne_eq, not_true_eq_false, Bool.false_eq_true, if_false]

/-- Settles O41. -/
theorem launchAndPlacement : Obligations.LaunchAndPlacement := ⟨launchEvents, saveAndRestore⟩

end Sys2Proof.Machine
end

section
/-!
SUPPORT. Homes and MCAS (R238 to R241, R245, R265, R278, R282), probes (R238, R239, R246), leases and their bases (R240, R242, R243).
-/
namespace Sys2Proof.Machine

-- One theorem at a time: elaborating them side by side costs a thread stack each, and the text compiles under a memory limit.
set_option Elab.async false

/-! Homes. -/

/-- What a home's service comes to: its operation performs, or others are asked. -/
theorem served_of {i : Instr} {s : State} {r : Serve} {e : String} {f : State → State} (he : exec i s = r.out e f) :
    Served i s r f := by
  refine ⟨fun t ht => ?_, fun t ht => ?_⟩ <;> rw [he, ht] <;> rfl

theorem homeRead_load {id : Nat} {p : Pend} {a : Acc} {dst : LoadTo} {s : State} (hp : s.pend? id = some p)
    (hop : p.op = .load a dst) (hsp : a.space ≠ .scratch) :
    exec (.homeReadRequest id) s = (serveRead s p a).out "HOME_READ_REQUEST" (performAt id) := by
  show execHomeReadRequest id s = _
  simp only [execHomeReadRequest, hp, hop, if_neg hsp]

theorem homeWrite_store {id : Nat} {p : Pend} {a : Acc} {d : List Byte} {m : Nat} {s : State} (hp : s.pend? id = some p)
    (hop : p.op = .store a d m) (hsp : a.space ≠ .scratch) :
    exec (.homeWriteRequest id) s = (serveWrite s p a).out "HOME_WRITE_REQUEST" (performAt id) := by
  show execHomeWriteRequest id s = _
  simp only [execHomeWriteRequest, hp, hop, if_neg hsp]

theorem homeRequests : HomeRequests := by
  refine ⟨fun id p a dst s hp hop hsp => served_of (homeRead_load hp hop hsp), ?pref,
    fun id p a d m s hp hop hsp => served_of (homeWrite_store hp hop hsp), ?rmw, ?cas, ?self⟩
  case pref =>
    intro id p line pr c s hp hop hdone
    refine ⟨fun hpr => ?_, fun hpr => served_of (e := "HOME_READ_REQUEST") ?_⟩
    all_goals show execHomeReadRequest id s = _
    · simp only [execHomeReadRequest, hp, hop, hdone, hpr, Bool.false_eq_true, if_false, if_true]
    · simp only [execHomeReadRequest, hp, hop, hdone, Bool.false_eq_true, if_false, if_neg hpr]
  case rmw =>
    intro id p a x y w s hp hop hsp
    refine served_of (e := "CRUCIBLE_ATOMIC") ?_
    show execCrucibleAtomic id s = _
    simp only [execCrucibleAtomic, hp, hop, if_neg hsp]
  case cas =>
    intro id p a x y w s hp hop hsp
    refine served_of (e := "CRUCIBLE_ATOMIC") ?_
    show execCrucibleAtomic id s = _
    simp only [execCrucibleAtomic, hp, hop, if_neg hsp]
  case self =>
    rintro line s ⟨hwriters, hlease, hlock, howned⟩
    have hmay : ((s.home line).writers.isEmpty || decide (s.time < leaseEnd s line) || (s.home line).lock.isSome ||
        ownedLine s .global line) = false := by
      rw [List.isEmpty_eq_false_iff.2 hwriters, decide_eq_false (by omega), hlock, howned]
      rfl
    show execSelfWritePerform line s = _
    exact (if_neg (Bool.eq_false_iff.1 hmay)).trans rfl

/-! MCAS. -/

/-- What keeps a line from being locked for an MCAS now (R265). -/
def lockHeld (s : State) (l proto id : Nat) : Bool :=
  (s.home l).lock.isSome || ownedLine s .global l || !turn s l id ||
    (proto == 1 && (decide (s.time < leaseEnd s l) || !(s.home l).writers.isEmpty || rebaseDue s l))

theorem lockHeld_iff {s : State} {p : Pend} {l proto : Nat} : lockHeld s l proto p.id = false ↔ MayLock s p l proto := by
  unfold lockHeld MayLock
  simp only [Bool.or_eq_false_iff, Bool.not_eq_false', Option.isSome_eq_false_iff, Option.isNone_iff_eq_none,
    Bool.and_eq_false_imp, beq_iff_eq, decide_eq_false_iff_not, Nat.not_lt, List.isEmpty_iff, and_assoc]

/-- R265: an MCAS that may ask for its next line. -/
theorem mcasLocks_eq {id : Nat} {p : Pend} {a : Acc} {es : List McasEntry} {lines held : List Nat} {t0 : Nat} {dst : Reg} {l : Nat}
    {s : State} (hp : s.pend? id = some p) (hid : p.id = id) (hop : p.op = .mcas a es lines held t0 dst)
    (hl : mcasNext lines held = some l) (hasks : AsksLock s p l) : exec (.mcasLocksHeld id) s =
      if lockHeld s l (lineProto es l) p.id then (Serve.queued s l p).out "MCAS_LOCKS_HELD" fun s => s
      else
        let r := if lineProto es l = 0 then dirRecall s l else (s, true)
        if !r.2 then .next (r.1.queueUp l id)
        else
          let t := (((atHome r.1 a.ctx (lineProto es l) (128 * l) true).unqueue l id).updHome l fun h =>
            { h with lock := some id }).updPend id fun q => { q with op := .mcas a es lines (held ++ [l]) t0 dst, link := 0 }
          .next (if (mcasNext lines (held ++ [l])).isNone then mcasCommit t p es dst else t) := by
  obtain ⟨herr, horder, hlink, hdom⟩ := hasks
  have hmay : (!inOrder s p || (isDrawerPa (128 * l) && p.link != 2) || !domReady s p) = false := by
    have hd : (isDrawerPa (128 * l) && p.link != 2) = false := by
      rcases hlink with h | h
      · rw [h, Bool.false_and]
      · rw [h, bne_self_eq_false, Bool.and_false]
    rw [horder, hd, hdom]
    rfl
  show execMcasLocksHeld id s = _
  unfold execMcasLocksHeld
  rw [hp]
  dsimp only
  rw [hop]
  dsimp only
  rw [hl]
  dsimp only
  rw [orConsume_of_no_error herr]
  subst hid
  exact (if_neg (Bool.eq_false_iff.1 hmay)).trans rfl

theorem mcasEvents : McasEvents := by
  refine ⟨fun id p a es lines held t0 dst l s hp hid hop hl hasks hmay => ?_,
    fun id p a es lines held t0 dst l s hp hid hop hl hasks hnot hqueue => ?_,
    fun id p a es lines held t0 dst l s hp hop hl hlate => ?_⟩
  · have heq := mcasLocks_eq hp hid hop hl hasks
    rw [lockHeld_iff.2 hmay, if_neg Bool.false_ne_true] at heq
    refine ⟨fun hr => ?_, fun hr => ?_⟩
    · rw [heq]
      dsimp only at hr ⊢
      rw [hr]
      rfl
    · rw [heq]
      dsimp only at hr ⊢
      rw [hr]
      cases mcasNext lines (held ++ [l]) <;> rfl
  · have heq := mcasLocks_eq hp hid hop hl hasks
    have hheld : lockHeld s l (lineProto es l) p.id = true := Bool.not_eq_false _ ▸ fun hno => hnot (lockHeld_iff.1 hno)
    have hnew : (s.home l).queue.contains p.id = false := by
      rw [hid]
      exact Bool.eq_false_iff.2 fun hin => hqueue (List.contains_iff_mem.1 hin)
    rw [heq, if_pos hheld]
    unfold Serve.queued
    rw [hnew, hid]
    rfl
  · have hgiven : (decide (t0 + 10000 < s.time) || linkStalled s l) = true := by simpa using hlate
    show mcasRetry id linkStalled s = _
    simp only [mcasRetry, hp, hop, hl]
    exact if_pos hgiven

/-- Settles O42. -/
theorem homeRequestsAndMcas : Obligations.HomeRequestsAndMcas := ⟨homeRequests, mcasEvents⟩

/-! Probes. -/

theorem probeAt_false {s : State} {line ag : Nat} {p : Probe} (h : probeAt s line ag false = some p) :
    (s.probes.find? fun p => p.line == line && p.agent == ag && !p.answered) = some p := by
  rw [← h]
  unfold probeAt
  refine congrArg (fun f => s.probes.find? f) (funext fun q => ?_)
  cases q.answered <;> rfl

theorem probeAt_true {s : State} {line ag : Nat} {p : Probe} (h : probeAt s line ag true = some p) :
    (s.probes.find? fun p => p.line == line && p.agent == ag && p.answered) = some p := by
  rw [← h]
  unfold probeAt
  refine congrArg (fun f => s.probes.find? f) (funext fun q => ?_)
  cases q.answered <;> rfl

/-- The bytes of a mask go back to the line, one by one. -/
theorem writeBack_eq (s : State) (line : Nat) (mask : BitVec 128) :
    (List.range 128).foldl (fun s' k => if mask.getLsbD k then s'.writePa (128 * line + k) [(s.home line).copy.getD k 0] else s') s =
      each (fun s' k => s'.writePa (128 * line + k) [(s'.home line).copy.getD k 0]) s
        ((List.range 128).filter fun k => mask.getLsbD k) := by
  unfold each
  rw [List.foldl_filter]
  refine foldl_hom_of_inv id (fun s' _ => s'.home line = s.home line) (fun s' k r hhome => ⟨?_, ?_⟩) _ s rfl
  · rw [id, id, hhome]
  · split
    · exact hhome
    · exact hhome

/-- R246: what a failed owner had modified goes back from the home's copy. -/
theorem homeCopy_eq (s : State) (line ag : Nat) : homeCopy s line ag =
    (match (s.home line).dir with
      | .m b => if b = ag then (List.range 128).foldl (fun s' k => if (BitVec.allOnes 128).getLsbD k then
          s'.writePa (128 * line + k) [(s.home line).copy.getD k 0] else s') s else s
      | .p ms => match ms.find? fun m => m.1 == ag with
        | some m => (List.range 128).foldl (fun s' k => if m.2.getLsbD k then
          s'.writePa (128 * line + k) [(s.home line).copy.getD k 0] else s') s
        | none => s
      | _ => s) := by
  simp only [writeBack_eq]
  rfl

theorem writeBack_errors (f : State → Nat → Nat × List Byte) (l : List Nat) (s : State) :
    (l.foldl (fun s k => s.writePa (f s k).1 (f s k).2) s).errors = s.errors := by
  induction l generalizing s with
  | nil => rfl
  | cons k r ih => exact (ih _).trans rfl

theorem homeCopy_errors (s : State) (line ag : Nat) : (homeCopy s line ag).errors = s.errors := by
  unfold homeCopy each
  dsimp only
  split
  · split
    · exact writeBack_errors (fun s k => (128 * line + k, [(s.home line).copy.getD k 0])) _ s
    · rfl
  · split
    · exact writeBack_errors (fun s k => (128 * line + k, [(s.home line).copy.getD k 0])) _ s
    · rfl
  · rfl

theorem probeTimeout_late {s : State} {line ag : Nat} {p : Probe} (h : probeAt s line ag false = some p)
    (ht : p.since + (if (s.core (leaseCore ag line)).gated then 400 else 40) ≤ s.time) : exec (.probeTimeout line ag) s =
      if !p.again then .next (onProbe s line ag fun q => { q with again := true, since := s.time })
      else .next { probeDone (homeCopy s line ag) line ag true with errors := s.errors ++ [(8, ag)] } := by
  rw [← homeCopy_errors s line ag, homeCopy_eq]
  show execProbeTimeout line ag s = _
  unfold execProbeTimeout
  rw [probeAt_false h]
  exact (if_neg (Nat.not_lt.2 ht)).trans rfl

/-- Whether a home's directory names an agent (R238). -/
def dirNames (ag : Nat) : DirState → Bool
  | .i => false
  | .s set => set.contains ag
  | .m b => b == ag
  | .p ms => ms.any fun m => m.1 == ag

theorem dirNames_of {d : DirState} {ag : Nat} (h : (∃ l, d = .s l ∧ ag ∈ l) ∨ d = .m ag ∨ ∃ l m, d = .p l ∧ (ag, m) ∈ l) :
    dirNames ag d = true := by
  rcases h with ⟨l, rfl, hl⟩ | rfl | ⟨l, m, rfl, hm⟩
  · exact List.contains_iff_mem.2 hl
  · exact beq_self_eq_true ag
  · exact List.any_eq_true.2 ⟨(ag, m), hm, beq_self_eq_true ag⟩

theorem probeEvents : ProbeEvents := by
  refine ⟨?probe, ?ack, ?evict, ?asked, ?failed⟩
  case probe =>
    intro line ag p s h
    show execCoreProbe line ag s = _
    unfold execCoreProbe
    rw [probeAt_false h]
    rfl
  case ack =>
    intro line ag p s h
    show execProbeAck line ag s = _
    unfold execProbeAck
    rw [probeAt_true h]
  case evict =>
    intro line ag s h
    show execHomeEvictNotice line ag s = _
    exact (if_neg (Bool.eq_false_iff.1 (congrArg not (dirNames_of h)))).trans rfl
  case asked =>
    rintro line ag p s ⟨h, htime, hagain⟩
    rw [probeTimeout_late h htime, hagain]
    rfl
  case failed =>
    rintro line ag p s ⟨h, htime, hagain⟩
    rw [probeTimeout_late h htime, hagain]
    rfl

/-! Leases. -/

theorem selfCopyExpire_happens (ag line : Nat) : Happens (.selfCopyExpire ag line)
    (fun s => (s.copies.get? (copyKey ag line)).isSome ∧ validCopy s ag line = none) fun s => dropCopy s ag line := by
  rintro s ⟨hhere, hno⟩
  obtain ⟨c, hc⟩ := Option.isSome_iff_exists.1 hhere
  show execSelfCopyExpire ag line s = _
  simp only [execSelfCopyExpire, hc, hno, Option.isSome_none, Bool.false_eq_true, if_false]

theorem leaseEvents : LeaseEvents := by
  refine ⟨selfCopyExpire_happens, ?slice, ?core, ?check⟩
  case slice =>
    intro m s h
    have hends : ∀ l : Nat, sliceB s m + l - (s.time - 1) = sliceB s m + l + 1 - s.time := fun l => by omega
    show execSliceRebase m s = _
    unfold execSliceRebase
    simp only [if_neg (Nat.not_lt.2 h), hends]
  case core =>
    rintro core now s ⟨hnow, hb⟩
    have hdue : ¬ (now : Int) < (((s.core core).leaseBase + 61438 : Nat) : Int) := by omega
    have hbase : ((now : Int) - 1).toNat = now - 1 := by omega
    show execCoreLeaseRebase core s = _
    unfold execCoreLeaseRebase
    simp only [hnow, if_neg hdue, hbase]
    rfl
  case check =>
    intro core fast slow s h
    have hoff : decide (100 ≤ (fast : Int) - slow ∨ (fast : Int) - slow ≤ -100) = decide (100 ≤ ((fast : Int) - slow).natAbs) :=
      decide_eq_decide.2 (by omega)
    show execCoreTimeCheck core fast slow s = _
    unfold execCoreTimeCheck
    simp only [h, ne_eq, not_true_eq_false, if_false, hoff]
    rfl

/-- Settles O43. -/
theorem probesAndLeases : Obligations.ProbesAndLeases := ⟨probeEvents, leaseEvents⟩

end Sys2Proof.Machine
end

section
/-!
SUPPORT. The ladles: a command is taken, checked and started (R284 to R286, R298), and its sectors are moved (R285, R293).
-/
namespace Sys2Proof.Machine

-- One theorem at a time: elaborating them side by side costs a thread stack each, and the text compiles under a memory limit.
set_option Elab.async false

/-! Checks and start. -/

/-- A command whose kind is none of the table (R285). -/
def unknownKind (c : Command) : Bool := c.kind == 0 || decide (7 < c.kind)

theorem checkLadle_code {s : State} {c : Command} {m : TMap} {codes : List (Bool × Nat)} {n : Nat} (ev : String)
    (hk : unknownKind c = false) (hn : checks s c codes = some n) :
    checkLadle ev s c m codes = .next (failCommand s c 1 n c.mapAddr c.stageOfs) := by
  unfold checkLadle
  unfold unknownKind at hk
  rw [hk]
  unfold checks at hn
  rw [hn]

theorem checkLadle_passed {s : State} {c : Command} {m : TMap} {codes : List (Bool × Nat)} (ev : String)
    (hk : unknownKind c = false) (hn : checks s c codes = none) : checkLadle ev s c m codes =
      match starts s c m with
      | none => .next (failCommand s (sized c m) 1 8 c.mapAddr c.stageOfs)
      | some r => r.out ev fun s => .next (runLadle (sized c m) m s) := by
  unfold checkLadle
  unfold unknownKind at hk
  rw [hk]
  unfold checks at hn
  rw [hn]
  unfold starts
  cases hprot : touchProt s (sized c m) ((cmdSectors (sized c m)).flatMap (sectorTouches s (sized c m) m))
  · exact (if_neg (Bool.eq_false_iff.1 hprot)).trans rfl
  · exact (if_pos hprot).trans rfl

/-- A command with its map fails with the lowest code, waits for its lines, or runs. -/
theorem issues_of {i : Instr} {s0 s : State} {c : Command} {m : TMap} {codes : List (Bool × Nat)} {ev : String}
    (hk : unknownKind c = false) (he : exec i s0 = checkLadle ev s c m codes) : Issues i s0 s c m codes := by
  have hpassed := fun hn => he.trans (checkLadle_passed (m := m) (codes := codes) ev hk hn)
  exact ⟨fun n hn => he.trans (checkLadle_code ev hk hn), fun hn hs => (hpassed hn).trans (by rw [hs]),
    fun t hn hs => (hpassed hn).trans (by rw [hs]; rfl), fun t hn hs => (hpassed hn).trans (by rw [hs]; rfl)⟩

/-! The head of a queue. -/

/-- R284: the command at the head of its core's queue, once it may be taken. -/
theorem issueLadle_head {s : State} {id : Nat} {c : Command} (h : LadleHead s id c) {kinds : Nat → Bool} (ev : String)
    (hkinds : kinds c.kind = true) : issueLadle kinds ev id s =
      if c.kind = 0 ∨ 7 < c.kind then .next (failCommand s (aimed s c) 1 1 c.mapAddr c.stageOfs)
      else if issueWaits s (aimed s c) then idle ev
      else if c.kind = 6 then
        let tag := bookTag s c.core (c.fld 192 3)
        checkLadle ev s (aimed s c) (TMap.ofBytes [])
          [(c.mapAddr % 8 != 0, 3), (tag.isSome && tag != some c.billet, 6), (!canonical c.mapAddr, 8)]
      else (fetchLines s (aimed s c) (if (hadMap s (aimed s c)).isSome then [] else mapPage s (aimed s c))).out ev fun s' =>
        match readMap s' (aimed s c) with
        | .park => .next (passCommand s' 1 (aimed s c)
            ((List.range 4).map fun i => { va := c.mapAddr + 32 * i, n := 32, w := false }))
        | .fail k => checkLadle ev s' (aimed s c) (TMap.ofBytes []) [(true, k), (c.kind != 7 && c.dst % 128 != 0, 3)]
        | .ok bs => checkLadle ev (cacheMap s' (aimed s c) bs) { aimed s c with map := bs } (TMap.ofBytes bs)
            (if c.kind = 7 then loadCodes (TMap.ofBytes bs)
             else mapCodes (cacheMap s' (aimed s c) bs) (aimed s c) (TMap.ofBytes bs)) := by
  obtain ⟨hf, hrun, hparks, hready, hfirst⟩ := h
  have htaken : (!kinds c.kind || c.running || !c.parks.isEmpty || !cmdReady s c ||
      ((ladleQueue s c.core).head?.map Command.id) != some id) = false := by
    rw [hkinds, hrun, hparks, hready, hfirst, bne_self_eq_false]
    rfl
  unfold issueLadle
  rw [hf]
  exact (if_neg (Bool.eq_false_iff.1 htaken)).trans rfl

theorem unknownKind_of {s : State} {c : Command} (h0 : c.kind ≠ 0) (h7 : c.kind ≤ 7) : unknownKind (aimed s c) = false := by
  show (c.kind == 0 || decide (7 < c.kind)) = false
  rw [beq_eq_false_iff_ne.2 h0, decide_eq_false (Nat.not_lt.2 h7)]
  rfl

/-- The event of each kind of command that reads a map. -/
theorem ladleEvents_issue {k : Nat} {ev : Nat → Instr} (h : (k, ev) ∈ ladleEvents) (id : Nat) (s : State) :
    ∃ kinds e, kinds k = true ∧ exec (ev id) s = issueLadle kinds e id s := by
  simp only [ladleEvents, List.mem_cons, Prod.mk.injEq, List.not_mem_nil, or_false] at h
  obtain ⟨rfl, rfl⟩ | ⟨rfl, rfl⟩ | ⟨rfl, rfl⟩ | ⟨rfl, rfl⟩ | ⟨rfl, rfl⟩ | ⟨rfl, rfl⟩ := h
  · exact ⟨fun k => k == 1 || k == 0 || decide (7 < k), "TCOPY", rfl, rfl⟩
  · exact ⟨(· == 2), "TGATHER", rfl, rfl⟩
  · exact ⟨(· == 3), "TDECODE", rfl, rfl⟩
  · exact ⟨(· == 4), "TQSTORE", rfl, rfl⟩
  · exact ⟨(· == 5), "TFILL", rfl, rfl⟩
  · exact ⟨(· == 7), "TMAPLD", rfl, rfl⟩

theorem ladleEvents_kind {k : Nat} {ev : Nat → Instr} (h : (k, ev) ∈ ladleEvents) : k ≠ 0 ∧ k ≤ 7 ∧ k ≠ 6 := by
  simp only [ladleEvents, List.mem_cons, Prod.mk.injEq, List.not_mem_nil, or_false] at h
  omega

theorem ladleCommands : LadleCommands := by
  refine ⟨fun k ev hev id c s h hk hwait => ?_, ?unknown, ?book⟩
  case unknown =>
    rintro id c s ⟨h, hk⟩
    have hkinds : (c.kind == 1 || c.kind == 0 || decide (7 < c.kind)) = true := by
      rcases hk with h0 | h7
      · rw [h0]
        rfl
      · rw [decide_eq_true h7, Bool.or_true]
    have hhead : exec (.tcopy id) s = _ :=
      issueLadle_head (kinds := fun k => k == 1 || k == 0 || decide (7 < k)) h "TCOPY" hkinds
    rw [hhead, if_pos hk]
  case book =>
    intro id c s h hk hwait
    have hhead : exec (.tcbload id) s = _ := issueLadle_head (kinds := (· == 6)) h "TCBLOAD" (beq_iff_eq.2 hk)
    rw [if_neg (by omega), hwait, if_neg Bool.false_ne_true, if_pos hk] at hhead
    exact issues_of (unknownKind_of (by omega) (by omega)) hhead
  · obtain ⟨h0, h7, h6⟩ := ladleEvents_kind hev
    obtain ⟨kinds, e, hkinds, he⟩ := ladleEvents_issue hev id s
    subst hk
    have hknown : unknownKind (aimed s c) = false := unknownKind_of h0 h7
    have hhead := he.trans (issueLadle_head h e hkinds)
    rw [if_neg (by omega), hwait, if_neg Bool.false_ne_true, if_neg h6] at hhead
    refine ⟨fun t ht => ?_, fun t bs ht hbs => issues_of (ev := e) hknown ?_, fun t n ht hn => issues_of (ev := e) hknown ?_,
      fun t ht hpark => ?_⟩
    all_goals rw [hhead, ht]
    · rfl
    all_goals simp only [Take.out, *]

/-! Sectors. -/

theorem ladleSector : LadleSector := by
  intro id k c t u s hf hrun hopen m hbook hprot hfaults howned herr ht hu
  have hmay : (!c.running || !(openSectors c).contains k || bookBusy s c m) = false := by
    rw [hrun, List.contains_iff_mem.2 hopen, hbook]
    rfl
  have hno : (!(touchFaults s c (sectorTouches s c m k)).isEmpty) = false := by
    rw [hfaults]
    rfl
  have hfree : (sectorSources s c m k).any (ownedByOther s c true) = false :=
    List.any_eq_false.2 fun l hl => Bool.eq_false_iff.1 (howned l hl)
  show execLadleSectorComplete id k s = _
  unfold execLadleSectorComplete
  rw [hf]
  refine (if_neg (Bool.eq_false_iff.1 hmay)).trans ((if_neg (Bool.eq_false_iff.1 hprot)).trans
    ((if_neg (Bool.eq_false_iff.1 hno)).trans ((if_neg (Bool.eq_false_iff.1 hfree)).trans ?_)))
  rw [herr]
  dsimp only
  rw [ht]
  show Take.out _ (fetchLines t c _) _ = _
  rw [hu]
  rfl

/-- Settles O44. -/
theorem ladleEvents_hold : Obligations.LadleEvents := ⟨ladleCommands, ladleSector⟩

end Sys2Proof.Machine
end

section
/-!
SUPPORT. Errors and recovery (R411 to R419): correctable and uncorrectable errors, checkpoints, assay pairs and the rebuilding of a
cluster's scheduler.
-/
namespace Sys2Proof.Machine

-- One theorem at a time: elaborating them side by side costs a thread stack each, and the text compiles under a memory limit.
set_option Elab.async false

/-! Errors. -/

/-- R418: an uncorrectable error at a location, the first or a later one within the window. -/
theorem strike_eq (s : State) (fs : List Nat) (kind unit a : Nat) : strike s fs kind unit a = struck s fs kind unit a := by
  unfold strike struck
  by_cases h : errCount s (errKey kind unit a) = 0
  · rw [if_pos h]
    dsimp only
    rw [h]
    rfl
  · rw [if_neg h]
    dsimp only
    rw [bne_iff_ne.2 h]
    rfl

theorem errorEvents : ErrorEvents := by
  refine ⟨?marked, ?link, ?consumed, ?free, ?correctable⟩
  case marked =>
    rintro k unit a b e s ⟨hb, hmay, he⟩
    show execUeccConsume k 1 unit a s = _
    simp only [execUeccConsume, hb, hmay, he, Bool.not_true, Bool.false_eq_true, if_false, if_true, Option.isSome_some, Bool.true_or]
  case link =>
    rintro k unit a b s ⟨hb, hmay⟩
    show execUeccConsume k 8 unit a s = _
    simp only [execUeccConsume, hb, hmay, Bool.not_true, Bool.false_eq_true, if_false, if_true, decide_true, Bool.or_true,
      show ¬ (8 = 1) by decide]
  case consumed =>
    rintro k kind unit a b h8 s ⟨hb, hmay, hrow⟩
    have hnone : (if kind = 1 then s.errors.find? fun e => e.1 == 1 && e.2 / 2 ^ 32 == unit else none) = none := by
      split
      · exact hrow ‹_›
      · rfl
    show execUeccConsume k kind unit a s = _
    simp only [execUeccConsume, hb, hmay, hnone, Bool.not_true, Bool.false_eq_true, if_false, Option.isSome_none, Bool.false_or,
      h8, decide_false, Bool.or_false, strike_eq]
    cases b.assay <;> rfl
  case free =>
    rintro k kind unit a h0 h7 s ⟨hb, h5⟩
    have hmay : ¬ (kind = 0 ∨ 7 < kind ∨ (kind = 5 ∧ unit ≠ homeOf s a)) := by
      rintro (h | h | ⟨h, hu⟩)
      · omega
      · omega
      · exact hu (h5 h)
    show execUeccConsume k kind unit a s = _
    simp only [execUeccConsume, hb, if_neg hmay, strike_eq]
    rfl
  case correctable =>
    intro kind unit a h0 h7 s _
    have hmay : ¬ (kind = 0 ∨ 7 < kind) := by omega
    show execCorrectableError kind unit a s = _
    unfold execCorrectableError
    rw [if_neg hmay]
    dsimp only
    split <;> rfl

/-! Checkpoints and assay pairs. -/

theorem checkpoint_happens (k : Nat) (b : Billet) (g : Nat × Group) : Happens (.checkpoint k) (fun s => AtCheckpoint s k b g)
    fun s => takeCheckpoint (each (fun s w => release s w.1 (wr32 w.2.1 w.2.2 false)) s (bbarDone s g.1 g.2)) k := by
  rintro s ⟨hb, hg, hdone, hladle, htrav, hpend⟩
  have hnone : (s.pend.any fun p => (billetThreads s b).contains p.tid) = false :=
    List.any_eq_false.2 fun p hp hin => hpend p hp (List.contains_iff_mem.1 hin)
  have hmay : ((bbarDone s g.1 g.2).isEmpty || !(billetCmds s.ladle k b).isEmpty || !(billetCmds s.trav k b).isEmpty ||
      s.pend.any fun p => (billetThreads s b).contains p.tid) = false := by
    rw [List.isEmpty_eq_false_iff.2 hdone, hladle, htrav, hnone]
    rfl
  show execCheckpoint k s = _
  unfold execCheckpoint
  rw [hb, hg]
  exact (if_neg (Bool.eq_false_iff.1 hmay)).trans rfl

/-- R416: a pair whose sides have come to the same place, or not. -/
theorem assayCompare_eq {s : State} {t u : Nat} {x : List Nat × Option TrapInfo × Nat × Nat}
    {y : Option (List Nat × Option TrapInfo × Nat × Nat)} (hp : Pair s t u) (hx : pairSide s t = some (some x))
    (hy : pairSide s u = some y) : exec (.assayCompare t) s =
      if some x != y then .next (mismatch s (s.billetKey (crewOf t)) (comparePoint s t))
      else match x.2.1, (s.thr t).status with
        | some _, .assay _ _ since =>
          if (trapMates s t since).all fun m => pairSide s m.1 == pairSide s m.2.1 then .next (trapPairs s (trapMates s t since))
          else idle "ASSAY_COMPARE"
        | _, _ => .next (runPair s t u) := by
  have hpair : assayOf s t = some u := hp
  show execAssayCompare t s = _
  unfold execAssayCompare
  rw [hpair]
  dsimp only
  rewrite [hx, hy]
  cases y <;> rfl

theorem recoveryEvents : RecoveryEvents := by
  refine ⟨checkpoint_happens, ?agree, ?trap, ?differ, ?ended, ?endedFirst, ?timeout, ?rebuild, ?parity⟩
  case agree =>
    rintro t u x s ⟨hp, hx, hy, hno⟩
    rw [assayCompare_eq hp hx hy, hno, bne_self_eq_false]
    rfl
  case trap =>
    rintro t u x i d tr since s ⟨hp, hx, hy, hi, hst, hmates⟩
    have hall : ((trapMates s t since).all fun m => pairSide s m.1 == pairSide s m.2.1) = true :=
      List.all_eq_true.2 fun m hm => beq_iff_eq.2 (hmates m hm)
    rw [assayCompare_eq hp hx hy, hi, hst, bne_self_eq_false]
    exact if_pos hall
  case differ =>
    rintro t u x y hne s ⟨hp, hx, hy⟩
    have hdiff : (some x != some y) = true := bne_iff_ne.2 fun h => hne (Option.some.inj h)
    rw [assayCompare_eq hp hx hy, if_pos hdiff]
  case ended =>
    rintro t u x s ⟨hp, hx, hy⟩
    rw [assayCompare_eq hp hx hy]
    rfl
  case endedFirst =>
    rintro t u x s ⟨hp, hx, hy⟩
    have hpair : assayOf s t = some u := hp
    show execAssayCompare t s = _
    simp only [execAssayCompare, hpair, hx, hy]
  case timeout =>
    rintro t u d tr since c s ⟨hp, hst, hc, hmtx, hu, htime⟩
    have hpair : assayOf s t = some u := hp
    show execAssayTimeout t s = _
    simp only [execAssayTimeout, hpair, hst, hc, hmtx, hu, htime, Option.map_some, Option.getD_some, beq_self_eq_true,
      Option.isNone_none, decide_true, Bool.and_self, if_true]
  case rebuild =>
    intro cl hcl s hfree
    have hmay : (decide (64 ≤ cl) || s.bundles.any fun b => b.1 / 8 == cl) = false := by
      rw [decide_eq_false (by omega)]
      exact List.any_eq_false.2 fun b hb => by simpa using hfree b hb
    show execSchedulerRebuild cl s = _
    refine (if_neg (Bool.eq_false_iff.1 hmay)).trans ?_
    unfold rebuilt
    by_cases h : errCount s (errKey 0 cl 0) = 0
    · simp only [h, bne_self_eq_false, Bool.false_eq_true, if_false, ne_eq, not_true_eq_false]
      rfl
    · simp only [bne_iff_ne.2 h, if_true, ne_eq, h, not_false_eq_true]
      rfl
  case parity =>
    intro g s h
    show execBarrierParityError g s = _
    exact if_neg (Bool.eq_false_iff.1 (Option.isNone_eq_false_iff.2 h))

/-- Settles O46. -/
theorem errorsAndRecovery : Obligations.ErrorsAndRecovery := ⟨errorEvents, recoveryEvents⟩

end Sys2Proof.Machine
end

section
/-!
SUPPORT. Traffic with drawers and promotion (R261, R451 to R461), ports and their slot tables (R453 to R459), domain time and the
members of the domain (R222, R449).
-/
namespace Sys2Proof.Machine

-- One theorem at a time: elaborating them side by side costs a thread stack each, and the text compiles under a memory limit.
set_option Elab.async false

/-! Requests to drawers. -/

/-- R451: a request that must reach a drawer next. -/
theorem drawerRequest_eq {s : State} {id : Nat} {p : Pend} {pa f : Nat} (h : Outbound s id p pa f) : exec (.drawerRequest id) s =
    match portFor s pa with
    | none => if p.link < 3 || decide (p.link - 3 + 5000 ≤ s.time) then .next (linkError s p pa) else idle "DRAWER_REQUEST"
    | some q =>
      if p.link = 1 then idle "DRAWER_REQUEST"
      else if (s.port q).state = 3 then
        if 3 ≤ p.link then idle "DRAWER_REQUEST"
        else .next ((s.updPend id fun y => { y with link := 3 + s.time }).updPort q fun y =>
          { y with waiting := (y.waiting ++ [(p.op.acc?.map Acc.ctx).getD (f * 16)]).dedup })
      else if !hasSlot s q 0 f 0 then idle "DRAWER_REQUEST"
      else .next (s.updPend id fun y => { y with link := 1 }) := by
  obtain ⟨hp, hreq, hready, hneeds, hlink⟩ := h
  have hmay : (!ready s p || !needsDrawer s p || decide (p.link = 2)) = false := by
    rw [hready, hneeds, decide_eq_false hlink]
    rfl
  show execDrawerRequest id s = _
  unfold execDrawerRequest
  rw [hp]
  dsimp only
  rw [hreq]
  exact (if_neg (Bool.eq_false_iff.1 hmay)).trans rfl

/-- What rolls back or is lost where a drawer takes a line back: by what the home's directory says of it. -/
def recallBase (s : State) (line : Nat) (inval : Bool) : State :=
  let modified := match (s.home line).dir with | .m _ => true | .p _ => true | _ => false
  let merged := match (s.home line).dir with | .p _ => true | _ => false
  if inval || merged then loseLine s line fun _ => true
  else if modified then rollWatched s line (fun _ => true) fun _ => true
  else s

theorem recallBase_eq (s : State) (line : Nat) (inval : Bool) : recallBase s line inval =
    (let merged : Bool := match (s.home line).dir with | .p _ => true | _ => false
     let modified : Bool := match (s.home line).dir with | .m _ => true | _ => merged
     if inval || merged then loseLine s line fun _ => true
     else if modified then rollWatched s line (fun _ => true) fun _ => true
     else s) := by
  unfold recallBase
  cases (s.home line).dir <;> rfl

/-- What the home of a line that a drawer takes back keeps, and what was asked of it. -/
def recallRest (s : State) (line : Nat) (inval : Bool) : State :=
  let s : State := { s with
    probes := s.probes.filter fun p => p.line != line
    pend := s.pend.map fun p => if p.link = 2 ∧ p.op.lines.contains (.global, line) then { p with link := 0 } else p
    copies := if inval then s.copies.filter fun e => e.1 % 2 ^ 45 != line else s.copies }
  s.updHome line fun h =>
    if inval then { h with dir := .i, count := 0, copy := [], lmax := 0, l2 := false, dirty := none, hold := .no, dlease := 0 }
    else
      let h : HomeLine := { h with dirty := none, hold := if h.hold = .no then .no else .shared }
      match h.dir with
      | .m b => { h with dir := .s [b], copy := [] }
      | .p _ => { h with dir := .s [], count := 0, copy := [] }
      | _ => h

theorem drawerTraffic : DrawerTraffic := by
  refine ⟨?sent, ?waits, ?lost, ?answered, ?probed, ?mcas⟩
  case sent =>
    rintro id p pa f q s ⟨hout, hq, hlink, hstate, hslot⟩
    rw [drawerRequest_eq hout, hq]
    simp only [if_neg hlink, if_neg hstate, hslot, Bool.not_true, Bool.false_eq_true, if_false]
  case waits =>
    rintro id p pa f q s ⟨hout, hq, hlink, hstate⟩
    rw [drawerRequest_eq hout, hq]
    simp only [hlink, hstate, if_true, show ¬ (0 = 1) by decide, show ¬ (3 ≤ 0) by decide, if_false]
  case lost =>
    rintro id p pa f s ⟨hout, hq, hlink⟩
    have hgone : (decide (p.link < 3) || decide (p.link - 3 + 5000 ≤ s.time)) = true := by simpa using hlink
    rw [drawerRequest_eq hout, hq]
    exact if_pos hgone
  case answered =>
    rintro id p pa f q s ⟨hp, hreq, hq, hlink, hstate, hslot⟩
    show execDrawerResponse id s = _
    unfold execDrawerResponse
    rw [hp]
    dsimp only
    rw [hreq]
    dsimp only
    rw [hq]
    exact (if_pos ⟨hlink, hstate, hslot⟩).trans rfl
  case probed =>
    rintro line inval s ⟨hdrawer, hheld, hlock, howned, hlease, q, hq, hup⟩
    have hport : ((portsTo s (drawerOf (128 * line))).any fun p => (s.port p).state == 2) = true :=
      List.any_eq_true.2 ⟨q, hq, beq_iff_eq.2 hup⟩
    have hmay : (!isDrawerPa (128 * line) || !(s.home line).held || !((portsTo s (drawerOf (128 * line))).any fun p =>
        (s.port p).state == 2) || (s.home line).lock.isSome || ownedLine s .global line ||
        decide (s.time < leaseEnd s line)) = false := by
      rw [hdrawer, hheld, hport, hlock, howned, decide_eq_false (by omega)]
      rfl
    show execDrawerProbe line inval s = _
    refine (if_neg (Bool.eq_false_iff.1 hmay)).trans (?_ : Host.Outcome.next (recallRest (recallBase s line inval) line inval) = _)
    rw [recallBase_eq]
    rfl
  case mcas =>
    intro id p a es lines held t0 dst l s hp hop hl hdrawer hlink hdone hready
    have hmay : (!isDrawerPa (128 * l) || decide (p.link = 2) || p.done || !ready s p) = false := by
      rw [hdrawer, decide_eq_false hlink, hdone, hready]
      rfl
    have hgo : exec (.drawerMcasMessage id) s =
        if linkStalled s l then .next (unlockAll (s.finish id (wr32 dst 0x200 false)) id)
        else match portFor s (128 * l) with
          | none => idle "DRAWER_MCAS_MESSAGE"
          | some q =>
            if hasSlot s q 0 (a.ctx / 16) 2 && hasSlot s q 1 (a.ctx / 16) 2 then .next (s.updPend id fun y => { y with link := 2 })
            else idle "DRAWER_MCAS_MESSAGE" := by
      show execDrawerMcasMessage id s = _
      unfold execDrawerMcasMessage
      rw [hp]
      dsimp only
      rw [hop]
      dsimp only
      rw [hl]
      exact (if_neg (Bool.eq_false_iff.1 hmay)).trans rfl
    refine ⟨fun hstall => by rw [hgo, if_pos hstall], fun q hstall hq h0 h1 => ?_⟩
    rw [hgo, hstall, hq]
    simp only [h0, h1, Bool.and_self, if_true, Bool.false_eq_true, if_false]

/-! Promotion. -/

/-- R261: an acquire that narrow releases owe writes to. -/
theorem promotion_eq {s : State} {id : Nat} {p : Pend} {a : Acc} (hid : id ≠ 0) (hp : s.pend? id = some p)
    (ha : p.op.acc? = some a) (howed : promotionOwed s p ≠ []) : exec (.promotionRequest id) s =
      if !(isDrawerPa a.pa && a.scope == .dom) then .next (revealAll s (promotionOwed s p))
      else match portFor s a.pa with
        | none => .next (forgetNarrow s p)
        | some q => if (s.port q).state = 3 then idle "PROMOTION_REQUEST" else .next (revealAll s (promotionOwed s p)) := by
  show execPromotionRequest id s = _
  unfold execPromotionRequest
  rw [if_neg hid, hp]
  dsimp only
  rw [ha]
  exact if_neg (Bool.eq_false_iff.1 (List.isEmpty_eq_false_iff.2 howed))

theorem promotion : Promotion := by
  refine ⟨?none, ?near, ?far, ?lost⟩
  case none =>
    intro s h
    show execPromotionRequest 0 s = _
    simp only [execPromotionRequest, h, List.isEmpty_nil, if_true]
  case near =>
    rintro id p a hid s ⟨hp, ha, howed, hnear⟩
    have hdom : (!(isDrawerPa a.pa && a.scope == .dom)) = true := by simpa [-Bool.not_and, imp_iff_not_or] using hnear
    rw [promotion_eq hid hp ha howed, if_pos hdom]
  case far =>
    rintro id p a q hid s ⟨hp, ha, howed, hdrawer, hdom, hq, hstate⟩
    rw [promotion_eq hid hp ha howed, hdrawer, hdom, hq]
    exact if_neg hstate
  case lost =>
    rintro id p a hid s ⟨hp, ha, howed, hdrawer, hdom, hq⟩
    rw [promotion_eq hid hp ha howed, hdrawer, hdom, hq]
    rfl

/-- Settles O47. -/
theorem linkTraffic : Obligations.LinkTraffic := ⟨drawerTraffic, promotion⟩

/-! Ports. -/

theorem State.port_updPort (s : State) (p q : Nat) (f : Port → Port) :
    (s.updPort p f).port q = if q = p then f (s.port p) else s.port q := by
  unfold State.port State.updPort
  simp only [Map.get?_set]
  split <;> rfl

/-- Entries written one after the other: the last of a key stays. -/
theorem Map.get?_foldl_set {α : Type} (l : List (Nat × α)) (m : Map α) (k : Nat) :
    Map.get? (l.foldl (fun m e => Map.set m e.1 e.2) m) k =
      (((l.filter fun e => e.1 == k).getLast?).map Prod.snd).or (Map.get? m k) := by
  induction l generalizing m with
  | nil => rfl
  | cons e r ih =>
    rw [List.foldl_cons, ih, Map.get?_set]
    by_cases h : k = e.1
    · rw [if_pos h, List.filter_cons, if_pos (beq_iff_eq.2 h.symm), List.getLast?_cons]
      cases (r.filter fun e => e.1 == k).getLast? <;> rfl
    · rw [if_neg h, List.filter_cons, if_neg (by simpa using Ne.symm h)]

theorem slotSwap_does {p : Nat} (hp : p < 16) {s : State} (hswap : (s.port p).swap = true) :
    ∃ t, exec (.slotTableSwapApply p) s = .next t ∧
    (∀ k v, 64 * p ≤ k → k < 64 * p + 64 → (s.slotShadow.filter fun e => e.1 == k) = [(k, v)] → t.slotTab.get? k = some v) ∧
    (∀ k, (k < 64 * p ∨ 64 * p + 64 ≤ k) → t.slotTab.get? k = s.slotTab.get? k) ∧ (t.port p).swap = false := by
  have hmay : ¬ (16 ≤ p ∨ (s.port p).swap = false) := by
    rw [hswap]
    simp
    omega
  refine ⟨_, (if_neg hmay).trans rfl, fun k v hlo hhi hk => ?_, fun k hk => ?_, ?_⟩
  · refine (Map.get?_foldl_set _ _ k).trans ?_
    rw [List.filter_filter]
    have hsame : (s.slotShadow.filter fun e => e.1 == k && decide (64 * p ≤ e.1 ∧ e.1 < 64 * p + 64)) = [(k, v)] := by
      rw [← hk]
      refine List.filter_congr fun e _ => ?_
      by_cases he : e.1 = k
      · simp [he, hlo, hhi]
      · simp [he]
    rw [hsame]
    rfl
  · refine (Map.get?_foldl_set _ _ k).trans ?_
    rw [List.filter_filter]
    have hnone : (s.slotShadow.filter fun e => e.1 == k && decide (64 * p ≤ e.1 ∧ e.1 < 64 * p + 64)) = [] :=
      List.filter_eq_nil_iff.2 fun e _ he => by
        simp only [Bool.and_eq_true, beq_iff_eq, decide_eq_true_eq] at he
        omega
    rw [hnone]
    rfl
  · rw [State.port_updPort, if_pos rfl]

theorem portEvents : PortEvents := by
  refine ⟨?flit, ?retrained, ?stalled, ?swap, ?retrain, ?trained, fun p hp s hs => slotSwap_does hp hs⟩
  case flit =>
    intro p hp s h
    have hmay : ¬ (16 ≤ p ∨ (s.port p).state ≠ 2) := by omega
    exact (if_neg hmay).trans rfl
  case retrained =>
    rintro p ok hp s ⟨h, hok⟩
    have hmay : ¬ (16 ≤ p ∨ (s.port p).state ≠ 3 ∨ (ok = true ∧ (s.port p).since + 4000 < s.time)) := by
      rintro (h' | h' | ⟨hk, hlate⟩)
      · omega
      · exact h' h
      · have := hok hk
        omega
    exact (if_neg hmay).trans rfl
  case stalled =>
    intro p len dead s h
    show execLinkStallEnd p s = _
    unfold execLinkStallEnd
    dsimp only
    rw [h]
    cases dead <;> rfl
  case swap =>
    intro p hp s _
    have hmay : ¬ 16 ≤ p := by omega
    exact if_neg hmay
  case retrain =>
    intro p hp s h
    have hmay : ¬ (16 ≤ p ∨ (s.port p).state ≠ 2) := by omega
    exact if_neg hmay
  case trained =>
    intro p hp s h
    have hmay : ¬ (16 ≤ p ∨ (s.port p).state ≠ 1) := by omega
    exact if_neg hmay

/-! Domain time. -/

theorem domainTimeAndMembers : DomainTimeAndMembers := by
  refine ⟨?slew, ?change, ?leaves, ?joins⟩
  case slew =>
    rintro fast slow s ⟨htime, hnew, href⟩
    have hmay : ¬ (s.time % 1024 ≠ 0 ∨ s.slewAt = some s.time ∨ s.refDrawer.isNone = true) := by
      rintro (h | h | h)
      · exact h htime
      · exact hnew h
      · rw [Option.isNone_eq_false_iff.2 href] at h
        exact absurd h (by decide)
    refine (if_neg hmay).trans ?_
    rcases Nat.lt_trichotomy fast slow with h | h | h
    · simp only [if_pos h, if_neg (Nat.lt_asymm h)]
    · simp only [h, Nat.lt_irrefl, if_false]
    · simp only [if_pos h, if_neg (Nat.lt_asymm h)]
  case change =>
    intro n s h
    show execReferenceChange s = _
    unfold execReferenceChange
    rw [h]
  case leaves =>
    rintro n hn s ⟨href, hsize⟩
    have hmay : ¬ (16 ≤ n ∨ s.refDrawer = some n ∨ (((s.drwSize.get? n).getD 0 = 0) = (0 = 0)) ∨ 2 ^ 44 < 0) := by
      simp only [eq_iff_iff, iff_true, hsize, href, Nat.not_lt_zero, or_false]
      omega
    exact (if_neg hmay).trans (if_pos rfl)
  case joins =>
    rintro n size hn hpos hle s ⟨href, hsize⟩
    have hne : size ≠ 0 := by omega
    have hmay : ¬ (16 ≤ n ∨ s.refDrawer = some n ∨ (((s.drwSize.get? n).getD 0 = 0) = (size = 0)) ∨ 2 ^ 44 < size) := by
      simp only [hsize, eq_iff_iff, true_iff, hne, href, false_or]
      omega
    exact (if_neg hmay).trans ((if_neg hne).trans rfl)

/-- Settles O48. -/
theorem portsAndDomainTime : Obligations.PortsAndDomainTime := ⟨portEvents, domainTimeAndMembers⟩

end Sys2Proof.Machine
end

section
/-!
SUPPORT. The host's other registers (R430, R439, R440, R463 to R469), function-level reset (R470), power (R471 to R474), and opcodes
of no instruction (R67).
-/
namespace Sys2Proof.Machine

-- One theorem at a time: elaborating them side by side costs a thread stack each, and the text compiles under a memory limit.
set_option Elab.async false

/-! The host's registers. -/

theorem next_ite {p : Prop} [Decidable p] (s t : State) :
    (Host.Outcome.next (if p then s else t) : Out) = if p then .next s else .next t := by
  split <;> rfl

/-- A write of a row of the window happens where it is open. -/
theorem inWindow_row {i : Instr} {f q n : Nat} {e : String} {E : State → State} (hq : q < n)
    (he : ∀ s, exec i s = if !s.windowOn || decide (64 ≤ f ∨ n ≤ q) then idle e else .next (E s)) : InWindow i f E := by
  intro s hw
  rw [he, window_row hw hq]
  rfl

theorem tlbinvComplete_happens (c id : Nat) (va : Option Nat) (rest : List (Nat × Option Nat)) : Happens (.tlbinvComplete c)
    (fun s => (s.ctx c).inval = (id, va) :: rest) fun s =>
    let t := s.updCtx c fun x =>
      { x with inval := rest, busy := x.busy && rest.any (fun y => y.1 == 0),
               tlb := match va with
                 | none => []
                 | some va => x.tlb.filter fun e =>
                   !(e.vpn == va / e.size || (e.size == 4096 && pteBig e.pte.toNat && e.vpn / 16 == va / 65536)) }
    if id = 0 then t else t.finish id [] := by
  intro s h
  show execTlbinvComplete c s = _
  unfold execTlbinvComplete
  rw [h]
  cases va <;> rfl

theorem registerWrite_happens (f off v : Nat) (hrow : ownRow off = false) : InWindow (.registerWrite f off v) f fun s =>
    let x := BitVec.ofNat 64 v
    if off < 0x200 ∧ off % 0x20 = 0 then
      let t := s.updQueue f (off / 0x20) fun y => { y with base := x }
      if ((s.tenant f).queue (off / 0x20)).en = true ∧ ((s.tenant f).queue (off / 0x20)).base ≠ x then
        queueError t f (off / 0x20) 2 else t
    else if off = 0x400 then s.updTenant f fun t => { t with fq := { t.fq with base := x } }
    else if off = 0x480 then s.updTenant f fun t => { t with nq := { t.nq with base := x } }
    else if off = 0x490 then s.updTenant f fun t => { t with acThr := BitVec.ofNat 32 (v % 2 ^ 20) }
    else if off = 0x500 then s.updTenant f fun t => { t with eq := { t.eq with base := x } }
    else if off = 0x580 then s.updTenant f fun t => { t with dm := { t.dm with base := x } }
    else if 0x1000 ≤ off ∧ off < 0x3000 then writeSlotReg s (f * 16 + (off - 0x1000) / 0x200) ((off - 0x1000) % 0x200) x
    else if 0x10000 ≤ off ∧ off < 0x10020 then s.updTenant f fun t =>
      { t with msixMask := if v % 2 = 1 then t.msixMask ||| BitVec.ofNat 32 (2 ^ (off - 0x10000)) else t.msixMask }
    else s := by
  intro s hw
  have hmay : (!s.windowOn || decide (64 ≤ f) || ownRow off) = false := by
    rw [window_open hw, hrow]
    rfl
  refine (if_neg (Bool.eq_false_iff.1 hmay)).trans ?_
  simp only [next_ite]

theorem hostRegisterEvents : HostRegisterEvents := by
  refine ⟨fun _ _ => inWindow_of fun _ => rfl, ?create, ?destroy, ?inval, tlbinvComplete_happens, ?debug,
    fun _ _ hv => inWindow_row hv fun _ => rfl, registerWrite_happens⟩
  case create =>
    intro f k hk s hw
    show execCtxcmdCreate f k s = _
    unfold execCtxcmdCreate
    rw [window_row hw hk]
    simp only [next_ite, Bool.false_eq_true, if_false, Bool.or_eq_true]
  case destroy =>
    intro f k hk s hw
    show execCtxcmdDestroy f k s = _
    unfold execCtxcmdDestroy
    rw [window_row hw hk]
    simp only [next_ite, Bool.false_eq_true, if_false]
  case inval =>
    intro c v s h
    exact if_pos h
  case debug =>
    rintro c v s ⟨hlive, hbusy⟩
    show execDbgdataWrite c v s = _
    simp only [execDbgdataWrite, hlive, hbusy, Bool.not_false, Bool.and_self, if_true]

/-- R470: a tenant's contexts end, with no event of theirs told. -/
def contextsGone (s : State) (f : Nat) : State :=
  let s := s.updTenant f fun t => { t with eq := { base := 0, hd := 0, tail := 1024, held := [] } }
  ((List.range 16).filter fun k => (s.ctx (f * 16 + k)).live).foldl (fun s k => destroyCtx s (f * 16 + k)) s

/-- R470: a tenant's registers are as after reset, but for the counters its identifiers and tags come from. -/
def tenantReset (s : State) (f : Nat) : State :=
  { s with
    tenants := s.tenants.set f { nextIdent := (s.tenant f).nextIdent, nextTag := (s.tenant f).nextTag }
    wps := s.wps.map fun e => if e.2.tenant = f then (e.1, { e.2 with live := false }) else e
    counts := s.counts.filter fun e => e.1 / 2 ^ 42 != f
    irqs := s.irqs.filter fun i => i.1 != f }

theorem tenantReset_tenant (s : State) (f : Nat) :
    (tenantReset s f).tenant f = { nextIdent := (s.tenant f).nextIdent, nextTag := (s.tenant f).nextTag } := by
  unfold State.tenant tenantReset
  dsimp only
  rw [Map.get?_set_self]
  rfl

/-- A workpiece of a tenant that is reset is reported no more. -/
def silenced (f : Nat) (x : Workpiece) : Workpiece := if x.tenant = f then { x with live := false } else x

theorem tenantReset_dead {s : State} {f w : Nat} {x : Workpiece} (hw : (tenantReset s f).wps.get? w = some x)
    (hx : x.tenant = f) : x.live = false := by
  have hmap : (fun e : Nat × Workpiece => if e.2.tenant = f then (e.1, { e.2 with live := false }) else e) =
      fun e => (e.1, silenced f e.2) := by
    funext e
    unfold silenced
    split <;> rfl
  have hget : (tenantReset s f).wps.get? w = (s.wps.get? w).map (silenced f) := by
    unfold tenantReset
    dsimp only
    rw [hmap]
    exact Map.get?_map s.wps (silenced f) w
  rw [hget] at hw
  obtain ⟨y, -, rfl⟩ := Option.map_eq_some_iff.1 hw
  by_cases hy : y.tenant = f
  · unfold silenced
    rw [if_pos hy]
  · unfold silenced at hx
    rw [if_neg hy] at hx
    exact absurd hx hy

theorem functionReset : FunctionReset := by
  intro f hf s
  have hmay : ¬ 64 ≤ f := by omega
  have hrun : exec (.functionLevelReset f) s = .next (tenantReset (contextsGone s f) f) := (if_neg hmay).trans rfl
  exact ⟨_, _, _, hrun, tenantReset_tenant _ _, fun w x => tenantReset_dead,
    fun i hi => by simpa using (List.mem_filter.1 hi).2, fun e he => by simpa using (List.mem_filter.1 he).2⟩

/-- Settles O49. -/
theorem hostRegisters : Obligations.HostRegisters := ⟨hostRegisterEvents, functionReset⟩

/-! Power. -/

/-- What bring-up has done when it fails at a step (R472). -/
theorem broughtUpTo (s : State) (x : BringUp) (n : Nat) :
    (let s1 := if 2 < n then measured s x else s
     let s2 := if 4 < n then retireAll s1 x.bad else s1
     if 5 < n then trainPorts s2 x else s2) =
      if 5 < n then trained (measured s x) x else if 4 < n then retireAll (measured s x) x.bad
      else if 2 < n then measured s x else s := by
  by_cases h5 : 5 < n
  · have h4 : 4 < n := by omega
    have h2 : 2 < n := by omega
    simp only [h5, h4, h2, if_true]
    rfl
  · by_cases h4 : 4 < n
    · have h2 : 2 < n := by omega
      simp only [h5, h4, h2, if_true, if_false]
    · simp only [h5, h4, if_false]

theorem powerEvents : PowerEvents := by
  refine ⟨?up, ?fails, ?enters, ?down, ?back, ?backFails, ?throttle, ?shutdown, ?attest⟩
  case up =>
    rintro x s ⟨hready, hrec, hok⟩
    show execPowerGoodBringup x s = _
    unfold execPowerGoodBringup
    rw [hready, hrec, hok]
    rfl
  case fails =>
    rintro x n s ⟨hready, hrec, hfail⟩
    show execPowerGoodBringup x s = .next (failAt _ n)
    rw [← broughtUpTo]
    unfold execPowerGoodBringup
    rw [hready, hrec, hfail]
    rfl
  case enters =>
    rintro s ⟨hready, hrec, hpower⟩
    show execD3hotEntry s = _
    simp only [execD3hotEntry, hready, hrec, hpower, Bool.not_true, Bool.or_self, Bool.false_eq_true, if_false, if_true]
  case down =>
    rintro s ⟨hready, hrec, hpower, hdrained⟩
    show execD3hotEntry s = _
    simp only [execD3hotEntry, hready, hrec, hpower, hdrained, Bool.not_true, Bool.or_self, Bool.false_eq_true, if_false,
      show ¬ (1 = 0) by decide, and_self, if_true]
  case back =>
    rintro x s ⟨hpower, hok⟩
    show execD0Return x s = _
    unfold execD0Return
    rw [if_neg (not_not.2 hpower), hok]
    rfl
  case backFails =>
    rintro x n s ⟨hpower, hfail⟩
    show execD0Return x s = _
    unfold execD0Return
    rw [if_neg (not_not.2 hpower), hfail]
    by_cases h5 : 5 < n
    · have h4 : 4 < n := by omega
      simp only [h5, h4, if_true]
      rfl
    · simp only [h5, if_false]
  case throttle =>
    intro s h
    exact if_neg (by omega)
  case shutdown =>
    intro s h
    show execThermalShutdown s = _
    exact (if_neg (Bool.eq_false_iff.1 h)).trans rfl
  case attest =>
    intro nonce s h
    show execAttestationRequest nonce s = _
    exact (if_neg (Bool.eq_false_iff.1 (List.isEmpty_eq_false_iff.2 h))).trans rfl

theorem unallocatedOpcodes : UnallocatedOpcodes := by
  intro op s b x hI hstrict
  have hmay : (x.tids.any (strictOpen s) || x.tids.any (openFence s)) = false := by
    rw [strictOpen_of_issuing hI, openFence_of_issuing hI]
    rfl
  show execUnallocatedOpcode op s = _
  unfold execUnallocatedOpcode
  rw [issuing_cur hI]
  dsimp only
  rw [issuing_bundle hI]
  exact if_neg (Bool.eq_false_iff.1 hmay)

/-- Settles O50. -/
theorem powerAndUnallocated : Obligations.PowerAndUnallocated := ⟨powerEvents, unallocatedOpcodes⟩

end Sys2Proof.Machine
end

section
/-!
SUPPORT. The traversal tests (R361, R365, R367, R384 to R388): the model's box, slab, leaf test and child reference are the
statements', and an FP32 value is rounded as it stands.
-/
namespace Sys2Proof.Machine

-- One theorem at a time: elaborating them side by side costs a thread stack each, and the text compiles under a memory limit.
set_option Elab.async false

/-! A value of the format is rounded as it stands (R91). -/

theorem FFmt.decode_signed {f : FFmt} (n : Bool) {mag : Nat} (h : mag < 2 ^ (f.fw + f.ew)) : f.decode (f.signed n mag) =
    let e := mag / 2 ^ f.fw
    let m := mag % 2 ^ f.fw
    if e = f.emax then (if m = 0 then .inf n else .nan)
    else if e = 0 then (if m = 0 then .zero n else .fin n m (1 - (f.bias : Int) - f.fw))
    else .fin n (2 ^ f.fw + m) ((e : Int) - f.bias - f.fw) := by
  have hP := Nat.two_pow_pos (f.fw + f.ew)
  have hsign : f.signBit (f.signed n mag) = n := by
    unfold FFmt.signBit FFmt.signed
    rw [Nat.mul_comm, Nat.mul_add_div hP, Nat.div_eq_of_lt h]
    cases n <;> rfl
  have hfrac : f.frac (f.signed n mag) = mag % 2 ^ f.fw := by
    unfold FFmt.frac FFmt.signed
    rw [pow_add, show n.toNat * (2 ^ f.fw * 2 ^ f.ew) + mag = mag + 2 ^ f.fw * (n.toNat * 2 ^ f.ew) by ring, Nat.add_mul_mod_self_left]
  have hexp : f.expField (f.signed n mag) = mag / 2 ^ f.fw := by
    unfold FFmt.expField FFmt.signed
    rw [pow_add, show n.toNat * (2 ^ f.fw * 2 ^ f.ew) + mag = mag + 2 ^ f.fw * (n.toNat * 2 ^ f.ew) by ring,
      Nat.add_mul_div_left _ _ (Nat.two_pow_pos _), Nat.add_mul_mod_self_right,
      Nat.mod_eq_of_lt (Nat.div_lt_of_lt_mul (by rwa [← pow_add]))]
  simp only [FFmt.decode, hsign, hfrac, hexp]

/-- A finite value in the range of the format, with a significand that it holds, is rounded to its own bits. -/
theorem round_fin {f : FFmt} (n : Bool) {m : Nat} {e : Int} (hm : m ≠ 0) (hm' : m < 2 ^ (f.fw + 1))
    (he : 1 - (f.bias : Int) - f.fw ≤ e) (hnorm : 2 ^ f.fw ≤ m ∨ e = 1 - (f.bias : Int) - f.fw) {mag : Nat}
    (hmag : (mag : Int) = (e + f.fw + f.bias - 1) * 2 ^ f.fw + m) (hfin : mag < f.emax * 2 ^ f.fw) :
    f.round .rne false (.fin n m e) = f.signed n mag := by
  have hlog : Nat.log2 m ≤ f.fw := Nat.le_of_lt_succ ((Nat.log2_lt hm).2 hm')
  have htiny : ¬ (Nat.log2 m : Int) + e + f.fw + 3 < 1 - f.bias := by omega
  have hq : max ((Nat.log2 m : Int) + e - f.fw) (1 - (f.bias : Int) - f.fw) = e := by
    rcases hnorm with h | h
    · have : f.fw ≤ Nat.log2 m := (Nat.le_log2 hm).2 h
      omega
    · omega
  have hat : roundAt .rne n m e e = m := by simp [roundAt]
  simp only [FFmt.round, htiny, decide_false, Bool.false_eq_true, if_false, hq, hat, ← hmag, Int.toNat_natCast, Bool.false_and]
  rw [if_neg (by omega)]

theorem decode_round_decode (b : Nat) : FFmt.f32.decode (FFmt.f32.round .rne false (FFmt.f32.decode b)) = FFmt.f32.decode b := by
  cases h : FFmt.f32.decode b with
  | nan => decide
  | inf n => cases n <;> decide
  | zero n => cases n <;> decide
  | fin n m e =>
    have hfw : FFmt.f32.fw = 23 := rfl
    have hew : FFmt.f32.ew = 8 := rfl
    have hbias : FFmt.f32.bias = 127 := rfl
    have hemax : FFmt.f32.emax = 255 := rfl
    have hfrac : FFmt.f32.frac b < 2 ^ 23 := Nat.mod_lt _ (by norm_num)
    have hexp : FFmt.f32.expField b < 2 ^ 8 := Nat.mod_lt _ (by norm_num)
    obtain ⟨mag, hmag⟩ : ∃ mag, mag = FFmt.f32.expField b * 2 ^ 23 + FFmt.f32.frac b := ⟨_, rfl⟩
    have hmod : mag % 2 ^ 23 = FFmt.f32.frac b := by omega
    have hdiv : mag / 2 ^ 23 = FFmt.f32.expField b := by omega
    have hdec := FFmt.decode_signed (f := FFmt.f32) n (mag := mag) (by rw [hfw, hew]; omega)
    simp only [hfw, hmod, hdiv] at hdec
    unfold FFmt.decode at h
    simp only [hfw, hbias, hemax] at h hdec
    split_ifs at h with hmax hzero hexp0 hsub
    · injection h with hn hm' he'
      rw [round_fin n (mag := mag) (by omega) (by rw [hfw]; omega) (by rw [hfw, hbias]; omega)
        (.inr (by rw [hfw, hbias]; omega)) (by rw [hfw, hbias]; push_cast; omega) (by rw [hfw, hemax]; omega), hdec,
        if_neg hmax, if_pos hexp0, if_neg hsub, hm', he']
    · injection h with hn hm' he'
      rw [round_fin n (mag := mag) (by omega) (by rw [hfw]; omega) (by rw [hfw, hbias]; omega)
        (.inl (by rw [hfw]; omega)) (by rw [hfw, hbias]; push_cast; omega) (by rw [hfw, hemax]; omega), hdec,
        if_neg hmax, if_neg hexp0, hm', he']

/-! The tests. -/

theorem le_eq_atMost (x y : FVal) : FVal.le x y = atMost x y := by simp only [FVal.le, atMost, lt_eq_below]

theorem finite_eq (x : FVal) : x.finite = (!x.isNan && !x.isInf) := by cases x <;> rfl

theorem not_finite_eq (x : FVal) : (!x.finite) = (x.isNan || x.isInf) := by cases x <;> rfl

theorem rowDot_eq_fourProducts (m : FMods) (x0 x1 x2 x3 y0 y1 y2 y3 : Nat) :
    rowDot m.rnd m.ftz [x0, x1, x2, x3] [y0, y1, y2, y3] = fourProducts m [x0, x1, x2, x3] [y0, y1, y2, y3] := rfl

/-- The leaf test is the statement's, bit pattern by bit pattern (R365, R386). -/
theorem trixTest_eq (x y : List Nat) : [(trixTest x y).t, (trixTest x y).u, (trixTest x y).v, (trixTest x y).s] =
      (leafTest x y).1.map (FFmt.f32.round .rne false) ∧ (trixTest x y).hit = (leafTest x y).2 := by
  cases hw : (f32v (y.getD 2 0)).isZero || (f32v (y.getD 2 0)).isNan with
  | true =>
    have hm : affineT (x.getD 0 0) (x.getD 1 0) (x.getD 2 0) (y.getD 0 0) (y.getD 1 0) (y.getD 2 0) = nanLeaf := if_pos hw
    have hs : leafTest x y = ([.nan, .nan, .nan, .nan], false) := if_pos hw
    rw [trixTest, hm, hs]
    exact ⟨rfl, rfl⟩
  | false =>
    simp only [f32v] at hw
    simp only [trixTest, affineT, leafTest, elem, f32b, f32v, once, r32v, hw, Bool.false_eq_true, if_false, le_eq_atMost, finite_eq,
      div_eq_quotient, decode_round_decode, Bool.and_assoc, List.map_cons, List.map_nil, and_self]

/-! Boxes (R361, R367, R387). -/

theorem slabAxis_eq (lo hi o d : Nat) : slabAxis lo hi o d = slab lo hi o (f32v d) := by
  simp only [slabAxis, slab, FVal.sub, FVal.add, le_eq_atMost, lt_eq_below, div_eq_quotient, f32v]
  rfl

/-- A field of a child's 72 bits is that field of all the node's bits from there. -/
theorem field_mod (q k : Nat) (h : k + 12 ≤ 72) : q % 2 ^ 72 / 2 ^ k % 4096 = q / 2 ^ k % 4096 := by
  have h72 : (2 : Nat) ^ 72 = 2 ^ k * 2 ^ (72 - k) := by rw [← pow_add]; congr 1; omega
  have h12 : (4096 : Nat) ∣ 2 ^ (72 - k) := pow_dvd_pow 2 (show 12 ≤ 72 - k by omega)
  rw [h72, Nat.mod_mul_right_div_self, Nat.mod_mod_of_dvd _ h12]

theorem step_eq (q : Nat) (e : Int) : FVal.ofScaled false q e = if q = 0 then .zero false else .fin false q e := by
  by_cases h : q = 0 <;> simp [FVal.ofScaled, h]

theorem side_eq (rnd : Rnd) (org : FVal) (exp q : Nat) : side rnd org exp q =
    FFmt.f32.round rnd false (FVal.add rnd org (FVal.ofScaled false q ((exp : Int) - 127))) := by rw [side, step_eq]

theorem zipIdx_map_eq_range {β : Type} (b : List Nat) (g : Nat → Nat → β) :
    (b.zipIdx.map fun x => g x.1 x.2) = (List.range b.length).map fun i => g (b.getD i 0) i := by
  refine List.ext_getElem (by simp) fun i h _ => ?_
  have hi : i < b.length := by simpa using h
  simp [hi]

/-- The bits of child j among the node's boxes. -/
def childBits (b : List Nat) (j : Nat) : Nat :=
  ((List.range b.length).map fun i => b.getD i 0 * 2 ^ (32 * i)).foldl (· + ·) 0 / 2 ^ (72 * j)

def childLo (bits x : Nat) : Nat := bits / 2 ^ (12 * x) % 4096
def childHi (bits x : Nat) : Nat := bits / 2 ^ (36 + 12 * x) % 4096

/-- A child whose box has a side below its other side. -/
def childEmpty (bits : Nat) : Bool := (List.range 3).any fun x => decide (childHi bits x < childLo bits x)

/-- A node with an axis that bounds nothing. -/
def nodeOpen (a : List Nat) : Bool :=
  (List.range 3).any fun x => a.getD 3 0 / 2 ^ (8 * x) % 256 == 255 || (elem a x).isNan || (elem a x).isInf

def childLow (a : List Nat) (bits x : Nat) : Nat :=
  if nodeOpen a then 0xFF800000 else side .rdn (elem a x) (a.getD 3 0 / 2 ^ (8 * x) % 256) (childLo bits x)

def childHigh (a : List Nat) (bits x : Nat) : Nat :=
  if nodeOpen a then 0x7F800000 else side .rup (elem a x) (a.getD 3 0 / 2 ^ (8 * x) % 256) (childHi bits x)

def childAxes (a c : List Nat) (bits : Nat) : List (Option (Option (Nat × Nat))) :=
  (List.range 3).map fun x => slab (childLow a bits x) (childHigh a bits x) (c.getD x 0) (elem c (4 + x))

/-- The box of a child from a node's words and its bits. -/
theorem childBox_eq (a0 a1 a2 word bits : Nat) :
    childBox [a0, a1, a2] ((List.range 3).map fun i => word / 2 ^ (8 * i) % 256) (bits % 2 ^ 72) =
      if childEmpty bits then none else some (Box.mk ((List.range 3).map (childLow [a0, a1, a2, word] bits))
        ((List.range 3).map (childHigh [a0, a1, a2, word] bits))) := by
  have h3 : List.range 3 = [0, 1, 2] := rfl
  have hempty : ([0, 1, 2].any fun a => decide (bits % 2 ^ 72 / 2 ^ (36 + 12 * a) % 4096 < bits % 2 ^ 72 / 2 ^ (12 * a) % 4096)) =
      childEmpty bits := by
    simp only [childEmpty, h3, List.any_cons, List.any_nil, childHi, childLo]
    rw [field_mod bits (36 + 12 * 0) (by omega), field_mod bits (36 + 12 * 1) (by omega), field_mod bits (36 + 12 * 2) (by omega),
      field_mod bits (12 * 0) (by omega), field_mod bits (12 * 1) (by omega), field_mod bits (12 * 2) (by omega)]
    rfl
  cases he : childEmpty bits with
  | true => exact if_pos (hempty.trans he)
  | false =>
    refine (if_neg (Bool.eq_false_iff.1 (hempty.trans he))).trans ?_
    have hopen : ([0, 1, 2].any fun a => ((List.range 3).map fun i => word / 2 ^ (8 * i) % 256).getD a 0 == 255 ||
        !(f32v ([a0, a1, a2].getD a 0)).finite) = nodeOpen [a0, a1, a2, word] := by
      simp only [not_finite_eq, nodeOpen, h3, List.any_cons, List.any_nil, Bool.or_assoc]
      rfl
    cases ho : nodeOpen [a0, a1, a2, word] with
    | true =>
      have hlow : childLow [a0, a1, a2, word] bits = fun _ => FFmt.f32.infBits true := funext fun _ => if_pos ho
      have hhigh : childHigh [a0, a1, a2, word] bits = fun _ => FFmt.f32.infBits false := funext fun _ => if_pos ho
      rw [hlow, hhigh]
      exact if_pos (hopen.trans ho)
    | false =>
      have hno := Bool.eq_false_iff.1 ho
      have hlow : ∀ x, childLow [a0, a1, a2, word] bits x = _ := fun x => (if_neg hno).trans (side_eq _ _ _ _)
      have hhigh : ∀ x, childHigh [a0, a1, a2, word] bits x = _ := fun x => (if_neg hno).trans (side_eq _ _ _ _)
      refine (if_neg (Bool.eq_false_iff.1 (hopen.trans ho))).trans ?_
      simp only [hlow, hhigh, h3, List.map_cons, List.map_nil, childLo, childHi]
      rw [field_mod bits (36 + 12 * 0) (by omega), field_mod bits (36 + 12 * 1) (by omega), field_mod bits (36 + 12 * 2) (by omega),
        field_mod bits (12 * 0) (by omega), field_mod bits (12 * 1) (by omega), field_mod bits (12 * 2) (by omega)]
      rfl

/-- Where a ray enters the box that its axes bound, and where it leaves it (R367). -/
def enters (axes : List (Option (Option (Nat × Nat)))) : Nat :=
  (axes.filterMap fun x => x.bind id).foldl
    (fun n p => if below (FFmt.f32.decode n) (FFmt.f32.decode p.1) then p.1 else n) 0xFF800000

def leaves (axes : List (Option (Option (Nat × Nat)))) : Nat :=
  (axes.filterMap fun x => x.bind id).foldl
    (fun n p => if below (FFmt.f32.decode p.2) (FFmt.f32.decode n) then p.2 else n) 0x7F800000

/-- The ray crosses the box within its interval. -/
def crosses (axes : List (Option (Option (Nat × Nat)))) (c : List Nat) : Bool :=
  atMost (FFmt.f32.decode (enters axes)) (FFmt.f32.decode (leaves axes)) && atMost (FFmt.f32.decode (enters axes)) (elem c 7) &&
    atMost (elem c 3) (FFmt.f32.decode (leaves axes)) && atMost (elem c 3) (elem c 7)

/-- What the statement's test of a child says, by the names above (R387). -/
theorem childTest_def (a b c : List Nat) (j : Nat) : childTest a b c j =
    if ((a.getD 3 0).testBit (24 + j)) = false then (0x7F800000, false)
    else if childEmpty (childBits b j) then (0x7F800000, false)
    else if (List.range 3).any (fun x => (elem c x).isNan || (elem c (4 + x)).isNan) then (0x7F800000, false)
    else if (childAxes a c (childBits b j)).any Option.isNone then (0x7F800000, false)
    else if crosses (childAxes a c (childBits b j)) c then (greater .f32 (enters (childAxes a c (childBits b j))) (c.getD 3 0), true)
    else (0x7F800000, false) := rfl

/-- The hit of a child's box. -/
theorem slabHit_eq (lo hi : Nat → Nat) {axes : List (Option (Option (Nat × Nat)))} (c0 c1 c2 c3 c4 c5 c6 c7 : Nat)
    (haxes : axes = (List.range 3).map fun x => slab (lo x) (hi x) ([c0, c1, c2, c3, c4, c5, c6, c7].getD x 0)
      (elem [c0, c1, c2, c3, c4, c5, c6, c7] (4 + x))) :
    slabHit { lo := (List.range 3).map lo, hi := (List.range 3).map hi }
        { o := [c0, c1, c2], tmin := c3, d := [c4, c5, c6], tmax := c7 } c7 =
      if (List.range 3).any (fun x => (elem [c0, c1, c2, c3, c4, c5, c6, c7] x).isNan ||
          (elem [c0, c1, c2, c3, c4, c5, c6, c7] (4 + x)).isNan) then none
      else if axes.any Option.isNone then none
      else if crosses axes [c0, c1, c2, c3, c4, c5, c6, c7] then some (enters axes) else none := by
  have h3 : List.range 3 = [0, 1, 2] := rfl
  have hnan : (([c0, c1, c2] ++ [c4, c5, c6]).any fun n => (FFmt.f32.decode n).isNan) = (List.range 3).any (fun x =>
      (elem [c0, c1, c2, c3, c4, c5, c6, c7] x).isNan || (elem [c0, c1, c2, c3, c4, c5, c6, c7] (4 + x)).isNan) := by
    show ((f32v c0).isNan || ((f32v c1).isNan || ((f32v c2).isNan || ((f32v c4).isNan || ((f32v c5).isNan ||
      ((f32v c6).isNan || false)))))) = (((f32v c0).isNan || (f32v c4).isNan) || (((f32v c1).isNan || (f32v c5).isNan) ||
      (((f32v c2).isNan || (f32v c6).isNan) || false)))
    cases (f32v c0).isNan <;> cases (f32v c1).isNan <;> cases (f32v c2).isNan <;> simp [Bool.or_comm]
  have hslab : ((List.range 3).map fun a => slabAxis (((List.range 3).map lo).getD a 0) (((List.range 3).map hi).getD a 0)
      ([c0, c1, c2].getD a 0) ([c4, c5, c6].getD a 0)) = axes := by
    simp only [haxes, slabAxis_eq]
    rfl
  unfold slabHit
  simp only [hnan, hslab, le_eq_atMost, lt_eq_below, f32v]
  rfl

/-- BOX12's test of a child is the statement's. -/
theorem boxTest_eq {a c : List Nat} (ha : a.length = 4) (hc : c.length = 8) (b : List Nat) (j : Nat) :
    boxTest a b c j = childTest a b c j := by
  obtain ⟨a0, a1, a2, word, rfl⟩ : ∃ a0 a1 a2 a3, [a0, a1, a2, a3] = a := by
    simpa [List.length_eq_succ_iff] using ha
  obtain ⟨c0, c1, c2, c3, c4, c5, c6, c7, rfl⟩ : ∃ c0 c1 c2 c3 c4 c5 c6 c7, [c0, c1, c2, c3, c4, c5, c6, c7] = c := by
    simpa [List.length_eq_succ_iff] using hc
  have hbits : (b.zipIdx.map fun x => x.1 * 2 ^ (32 * x.2)).foldl (· + ·) 0 / 2 ^ (72 * j) = childBits b j := by
    rw [zipIdx_map_eq_range b fun x i => x * 2 ^ (32 * i), childBits]
  have hbox := childBox_eq a0 a1 a2 word (childBits b j)
  have hslab := slabHit_eq (childLow [a0, a1, a2, word] (childBits b j)) (childHigh [a0, a1, a2, word] (childBits b j))
    (axes := childAxes [a0, a1, a2, word] [c0, c1, c2, c3, c4, c5, c6, c7] (childBits b j)) c0 c1 c2 c3 c4 c5 c6 c7 rfl
  have hbit : word / 2 ^ (24 + j) % 2 = 0 ↔ word.testBit (24 + j) = false := by
    rw [Nat.testBit_eq_decide_div_mod_eq, decide_eq_false_iff_not]; omega
  have hc3 : [c0, c1, c2, c3, c4, c5, c6, c7].getD 3 0 = c3 := rfl
  have hc7 : [c0, c1, c2, c3, c4, c5, c6, c7].getD 7 0 = c7 := rfl
  have hword : [a0, a1, a2, word].getD 3 0 = word := rfl
  have h3 : List.take 3 [a0, a1, a2, word] = [a0, a1, a2] := rfl
  have hr : (Ray.mk (List.take 3 [c0, c1, c2, c3, c4, c5, c6, c7]) (List.take 3 (List.drop 4 [c0, c1, c2, c3, c4, c5, c6, c7]))
      c3 c7) =
      { o := [c0, c1, c2], tmin := c3, d := [c4, c5, c6], tmax := c7 } := rfl
  rw [childTest_def]
  unfold boxTest
  simp only [hbits, hword, hc3, hc7, h3, hr, hbit]
  rw [hbox]
  cases hb : word.testBit (24 + j) with
  | false => rfl
  | true =>
    simp only [Bool.true_eq_false, if_false]
    cases he : childEmpty (childBits b j) with
    | true => rfl
    | false =>
      simp only [Bool.false_eq_true, if_false]
      rw [hslab]
      split_ifs
      · rfl
      · rfl
      · simp only [maxNum_eq_greater]
      · rfl

/-! References (R388). -/

theorem childRef_eq (a : List Nat) (cmask : W32) (k : Nat) : childRef a cmask.toNat k =
    if cmask.getLsbD (24 + k) = false then ([0xFFFFFFFF, 0xFFFFFFFF], false)
    else if a.getD (2 + k / 4) 0 / 2 ^ (8 * (k % 4)) % 256 < 128 then
      ([BitVec.ofNat 32 (a.getD 0 0 + a.getD (2 + k / 4) 0 / 2 ^ (8 * (k % 4)) % 256), 0], true)
    else ([BitVec.ofNat 32 (a.getD 1 0 + a.getD (2 + k / 4) 0 / 2 ^ (8 * (k % 4)) % 256 / 8 % 16),
      BitVec.ofNat 32 (2 ^ 31 + a.getD (2 + k / 4) 0 / 2 ^ (8 * (k % 4)) % 256 % 8 + 1)], true) := by
  have hbit : cmask.toNat / 2 ^ (24 + k) % 2 = 0 ↔ cmask.getLsbD (24 + k) = false := by
    rw [BitVec.getLsbD, Nat.testBit_eq_decide_div_mod_eq, decide_eq_false_iff_not]; omega
  simp only [childRef, hbit]

/-! The words. -/

theorem length_natsOf (s : State) (t : Nat) (r : Reg) (n : Nat) : (natsOf s t r n).length = n := by
  simp [natsOf, State.rN]

theorem tests_of {i : Instr} {h : Head} {d : Reg} {n : Nat} {srcs : List (Reg × Nat)} {pd : Option (Fin 8)}
    {f g : State → Nat → List W32 × Bool} (he : ∀ s, exec i s = testWord h d n srcs pd f s) (hfg : ∀ s u, f s u = g s u) :
    Tests i h d n srcs pd g := by
  obtain rfl : f = g := funext fun s => funext fun u => hfg s u
  intro s b x hI hcl hf hp
  rw [he]
  refine issueWord_fixed hI ?_ hf hp (fun t _ => ⟨rfl, ?_⟩) rfl rfl rfl rfl
  · have hall : ∀ c, vecCls c = true → ({ group := 6 } : WordAttr).allowed c = true := by intro c; cases c <;> decide
    exact hall _ hcl
  · rw [taint_fst]
    cases pd <;> rfl

/-- The words of a node's or leaf's test, as bit patterns. -/
theorem map_bits (l : List FVal) : (l.map (FFmt.f32.round .rne false)).map (BitVec.ofNat 32) =
    l.map fun v => BitVec.ofNat 32 (FFmt.f32.round .rne false v) := List.map_map

/-- Settles O32: each test of the model is the statement's, and a word of fixed latency writes what it computes. -/
theorem traversalTests : Obligations.TraversalTests := by
  refine ⟨?triw, ?trix, ?trixD, ?box12, ?box12x4, ?nodex⟩
  case triw =>
    exact fun h m d a b => tests_of (fun _ => rfl) fun _ _ => rfl
  case trix =>
    refine fun h pd d a b => tests_of (fun _ => rfl) fun s u => ?_
    obtain ⟨hbits, hhit⟩ := trixTest_eq (nats s u a 4) (nats s u b 4)
    exact Prod.ext ((congrArg (List.map (BitVec.ofNat 32)) hbits).trans (map_bits _)) hhit
  case trixD =>
    refine fun h pd d a b c => tests_of (fun _ => rfl) fun s u => ?_
    obtain ⟨hbits, hhit⟩ := trixTest_eq (nats s u a 4) (nats s u b 4)
    have ht : (trixTest (nats s u a 4) (nats s u b 4)).t =
        FFmt.f32.round .rne false ((leafTest (nats s u a 4) (nats s u b 4)).1.headD .nan) := by
      cases hl : (leafTest (nats s u a 4) (nats s u b 4)).1 with
      | nil => rw [hl] at hbits; cases hbits
      | cons v l => rw [hl] at hbits; exact (List.cons.inj hbits).1
    show (if (trixTest (nats s u a 4) (nats s u b 4)).hit = true then
      [BitVec.ofNat 32 (trixTest (nats s u a 4) (nats s u b 4)).t, s.r32 u c] else [0xFFFFFFFF, 0xFFFFFFFF],
      (trixTest (nats s u a 4) (nats s u b 4)).hit) = _
    rw [ht, hhit]
  case box12 =>
    refine fun h k pd d a b c => tests_of (fun _ => rfl) fun s u => ?_
    have hbox := boxTest_eq (length_natsOf s u a 4) (length_natsOf s u c 8) (natsOf s u b 18) k.val
    exact congrArg (fun r : Nat × Bool => ([BitVec.ofNat 32 r.1], r.2)) hbox
  case box12x4 =>
    refine fun h hf pd d a b c => tests_of (fun _ => rfl) fun s u => ?_
    have hbox := fun j => boxTest_eq (length_natsOf s u a 4) (length_natsOf s u c 8) (natsOf s u b 18) j
    have hhalf : ∀ e, 4 * hf.toNat + e = e + if hf then 4 else 0 := by cases hf <;> simp [Nat.add_comm]
    simp only [hbox, hhalf]
    exact Prod.ext List.map_map List.any_map
  case nodex =>
    exact fun h k pd d a b => tests_of (fun _ => rfl) fun s u => childRef_eq _ _ _

end Sys2Proof.Machine
end

section
/-!
SUPPORT. What the matrix instructions do to accumulator memory, registers and the scratchpad (R309, R312, R317, R318, R329 to
R333): a region is written element by element, and a tile of the scratchpad in cells that do not overlap.
-/
namespace Sys2Proof.Machine

-- One theorem at a time: elaborating them side by side costs a thread stack each, and the text compiles under a memory limit.
set_option Elab.async false

/-! Bytes of numbers. -/

theorem length_toBytes (v z : Nat) : (toBytes v z).length = z := by
  induction z generalizing v with
  | zero => rfl
  | succ z ih => exact congrArg (· + 1) (ih _)

theorem ofBytes_toBytes (v z : Nat) : ofBytes (toBytes v z) = v % 2 ^ (8 * z) := by
  induction z generalizing v with
  | zero => exact (Nat.mod_one v).symm
  | succ z ih =>
    rw [toBytes, ofBytes, ih, BitVec.toNat_ofNat, show 8 * (z + 1) = 8 + 8 * z by ring, pow_add, Nat.mod_mul]
    rfl

/-- What is read where the bytes of a number lie. -/
theorem readBytes_eq_toBytes {m : List Host.Cell} {a v z : Nat}
    (h : ∀ i < z, Memory.read m (a + i) = (toBytes v z).getD i 0) : Memory.readBytes m a z = toBytes v z := by
  induction z generalizing a v with
  | zero => rfl
  | succ z ih =>
    have htail : Memory.readBytes m (a + 1) z = toBytes (v / 256) z := ih fun i hi => by
      have := h (i + 1) (by omega)
      rwa [show a + (i + 1) = a + 1 + i by omega] at this
    exact congrArg₂ List.cons (h 0 (by omega)) htail

theorem ofBytes_readBytes {m : List Host.Cell} {a v z : Nat}
    (h : ∀ i < z, Memory.read m (a + i) = (toBytes v z).getD i 0) : ofBytes (Memory.readBytes m a z) = v % 2 ^ (8 * z) := by
  rw [readBytes_eq_toBytes h, ofBytes_toBytes]

/-- A place in a row of pieces of one length. -/
theorem getD_flatMap_const {α : Type} {f : α → List Byte} {w : Nat} (hw : ∀ x, (f x).length = w) (d : α) (l : List α)
    {j i : Nat} (hj : j < l.length) (hi : i < w) : (l.flatMap f).getD (j * w + i) 0 = (f (l.getD j d)).getD i 0 := by
  induction l generalizing j with
  | nil => simp at hj
  | cons x t ih =>
    cases j with
    | zero =>
      rw [List.flatMap_cons, List.getD_append _ _ _ _ (by rw [hw]; omega)]
      simp
    | succ j =>
      rw [List.flatMap_cons, List.getD_append_right _ _ _ _ (by rw [hw]; nlinarith), hw,
        show (j + 1) * w + i - w = j * w + i by rw [Nat.add_mul]; omega]
      exact ih (by simpa using hj)

theorem length_flatMap_const {α : Type} {f : α → List Byte} {w : Nat} (hw : ∀ x, (f x).length = w) (l : List α) :
    (l.flatMap f).length = l.length * w := by
  simp [List.length_flatMap, hw]

/-! A region of accumulator memory (R309). -/

/-- The bytes of a region, row by row. -/
def regionBytes (rows z : Nat) (f : Nat → Nat → Nat) : List Byte :=
  (List.range rows).flatMap fun m => (List.range 128).flatMap fun n => toBytes (f m n) z

theorem length_rowBytes (z m : Nat) (f : Nat → Nat → Nat) :
    ((List.range 128).flatMap fun n => toBytes (f m n) z).length = 128 * z :=
  (length_flatMap_const (fun _ => length_toBytes _ z) _).trans (by rw [List.length_range])

theorem length_regionBytes (rows z : Nat) (f : Nat → Nat → Nat) : (regionBytes rows z f).length = rows * (128 * z) :=
  (length_flatMap_const (fun m => length_rowBytes z m f) _).trans (by rw [List.length_range])

theorem getD_regionBytes {rows z m n i : Nat} (f : Nat → Nat → Nat) (hm : m < rows) (hn : n < 128) (hi : i < z) :
    (regionBytes rows z f).getD ((128 * m + n) * z + i) 0 = (toBytes (f m n) z).getD i 0 := by
  have hrow : n * z + i < 128 * z := by nlinarith
  rw [show (128 * m + n) * z + i = m * (128 * z) + (n * z + i) by ring, regionBytes,
    getD_flatMap_const (fun m => length_rowBytes z m f) 0 _ (by simpa using hm) hrow,
    getD_flatMap_const (fun _ => length_toBytes _ z) 0 _ (by simpa using hn) hi]
  simp [hm, hn]

theorem memOk_iff (s : State) : s.memOk = true ↔
    Memory.wf s.mem = true ∧ Memory.wf s.scratch = true ∧ Memory.wf s.acc = true ∧ Memory.wf s.book = true := by
  simp [State.memOk, and_assoc]

theorem JournalOnly.mem_eq {s t : State} (h : JournalOnly s t) : t.mem = s.mem := (congrArg State.mem h.1 :)
theorem JournalOnly.scratch_eq {s t : State} (h : JournalOnly s t) : t.scratch = s.scratch := (congrArg State.scratch h.1 :)
theorem JournalOnly.acc_eq {s t : State} (h : JournalOnly s t) : t.acc = s.acc := (congrArg State.acc h.1 :)
theorem JournalOnly.book_eq {s t : State} (h : JournalOnly s t) : t.book = s.book := (congrArg State.book h.1 :)

/-- A matrix instruction's write of its region. -/
theorem accWrite_acc (s : State) (o : AnvilOp) (acc : Nat) (f : Nat → Nat → Nat) : (accWrite s o acc f).acc =
    Memory.writeBytes s.acc (accAddr o.core acc o.op.z 0 0) (regionBytes (64 * o.gang.length) o.op.z f) :=
  congrArg (fun m => Memory.writeBytes m _ _) (JournalOnly.foldl _ _ _ s).acc_eq

theorem computed_accWrite {s : State} (hok : s.memOk = true) (o : AnvilOp) (acc : Nat) (f : State → AnvilOp → Nat → Nat → Nat) :
    Computed acc f s o (accWrite s o acc (f s o)) := by
  obtain ⟨-, -, hacc, -⟩ := (memOk_iff s).1 hok
  have hbase : accAddr o.core acc o.op.z 0 0 = o.core * Config.accBytes + 1024 * acc := by simp [accAddr]
  refine ⟨fun m n hm hn => ?inside, fun a ha => ?outside, ?mem, ?book⟩
  case inside =>
    refine ofBytes_readBytes fun i hi => ?_
    rw [accWrite_acc, hbase, Nat.add_assoc _ ((128 * m + n) * o.op.z) i, Memory.read_writeBytes_in _ _ _ hacc ?_,
      getD_regionBytes _ hm hn hi]
    rw [length_regionBytes]
    nlinarith
  case outside =>
    rw [accWrite_acc, hbase]
    refine Memory.read_writeBytes_out _ _ _ hacc ?_
    rw [length_regionBytes]
    rcases ha with h | h
    · exact .inl h
    · right; linarith
  case mem => exact (JournalOnly.foldl _ _ _ s).mem_eq
  case book => exact (JournalOnly.foldl _ _ _ s).book_eq

/-! A tile of the scratchpad (R318). -/

/-- Cells of one length that no two keys share: each holds what its key gives it, and no other byte changes. -/
theorem foldl_writeBytes {α : Type} {A : α → Nat} {D : α → List Byte} {z : Nat} (hlen : ∀ k, (D k).length = z) (l : List α)
    (hdis : ∀ k ∈ l, ∀ k' ∈ l, k ≠ k' → A k + z ≤ A k' ∨ A k' + z ≤ A k) {m : List Host.Cell} (hm : Memory.wf m = true) :
    (∀ a, (∀ k ∈ l, a < A k ∨ A k + z ≤ a) →
      Memory.read (l.foldl (fun m k => Memory.writeBytes m (A k) (D k)) m) a = Memory.read m a) ∧
    ∀ k ∈ l, ∀ i < z, Memory.read (l.foldl (fun m k => Memory.writeBytes m (A k) (D k)) m) (A k + i) = (D k).getD i 0 := by
  classical
  induction l generalizing m with
  | nil => exact ⟨fun _ _ => rfl, fun k hk => by cases hk⟩
  | cons k0 l ih =>
    obtain ⟨hout, hin⟩ := ih (fun k hk k' hk' => hdis k (.tail _ hk) k' (.tail _ hk')) (Memory.wf_writeBytes (A k0) (D k0) hm)
    refine ⟨fun a ha => ?_, fun k hk i hi => ?_⟩
    · rw [List.foldl_cons, hout a fun k hk => ha k (.tail _ hk), Memory.read_writeBytes_out _ _ _ hm]
      rw [hlen]
      exact ha k0 (.head _)
    · by_cases hl : k ∈ l
      · exact hin k hl i hi
      · obtain rfl : k = k0 := (List.mem_cons.1 hk).resolve_right hl
        rw [List.foldl_cons, hout _ fun k' hk' => ?_, Memory.read_writeBytes_in _ _ _ hm (by rwa [hlen])]
        have hne : k ≠ k' := fun h => hl (h ▸ hk')
        rcases hdis k (.head _) k' (.tail _ hk') hne with h | h
        · left; omega
        · right; omega

theorem foldl_writeScratch {α : Type} (A : α → Nat) (D : α → List Byte) (l : List α) (s : State) :
    (l.foldl (fun s k => s.writeScratch (A k) (D k)) s).scratch =
      l.foldl (fun m k => Memory.writeBytes m (A k) (D k)) s.scratch := by
  induction l generalizing s with
  | nil => rfl
  | cons k l ih => exact ih _

/-- The places of a tile, row by row. -/
def tilePlaces (rows : Nat) : List (Nat × Nat) := (List.range rows).flatMap fun m => (List.range 128).map fun n => (m, n)

theorem mem_tilePlaces {rows : Nat} {k : Nat × Nat} : k ∈ tilePlaces rows ↔ k.1 < rows ∧ k.2 < 128 := by
  obtain ⟨m, n⟩ := k
  simp [tilePlaces]

theorem foldl_tilePlaces (rows : Nat) (f : State → Nat → Nat → State) (s : State) :
    (List.range rows).foldl (fun s m => (List.range 128).foldl (fun s n => f s m n) s) s =
      (tilePlaces rows).foldl (fun s k => f s k.1 k.2) s := by
  simp only [tilePlaces, List.flatMap_def, List.foldl_flatten, List.foldl_map]

theorem xor_lt_eight {a b : Nat} (ha : a < 8) (hb : b < 8) : Nat.xor a b < 8 := Nat.xor_lt_two_pow (n := 3) ha hb

theorem xor_right_inj {a b c : Nat} (h : Nat.xor a c = Nat.xor b c) : a = b := by
  have : (a ^^^ c) ^^^ c = (b ^^^ c) ^^^ c := congrArg (· ^^^ c) h
  simpa [Nat.xor_assoc] using this

/-- Where an element lies: the line, the unit of 16 bytes in it and the place in the unit (R318). -/
theorem canonOffset_eq (nl m lb : Nat) : ∃ q x, canonOffset nl m lb = 128 * q + 16 * x + lb % 16 ∧ q = lb / 128 * nl + m ∧
    x < 8 ∧ x = Nat.xor (lb % 128 / 16) (q % 8) := by
  refine ⟨lb / 128 * nl + m, _, ?_, rfl, ?_, rfl⟩
  · simp only [canonOffset, Nat.mod_mod_of_dvd _ (show 16 ∣ 128 by decide)]
  · exact xor_lt_eight (by omega) (by omega)

/-- The elements of a tile lie in its bytes. -/
theorem canonOffset_bound {nl z m n : Nat} (hz : z = 4 ∨ z = 8) (hm : m < nl) (hn : n < 128) :
    canonOffset nl m (n * z) + z ≤ nl * 128 * z := by
  obtain ⟨q, x, heq, hq, hx, -⟩ := canonOffset_eq nl m (n * z)
  have hrow : n * z / 128 + 1 ≤ z := by rcases hz with rfl | rfl <;> omega
  have hline : q + 1 ≤ z * nl :=
    calc q + 1 ≤ (n * z / 128 + 1) * nl := by rw [hq, Nat.add_mul]; omega
      _ ≤ z * nl := Nat.mul_le_mul_right _ hrow
  have hall : nl * 128 * z = 128 * (z * nl) := by ring
  rw [heq, hall]
  rcases hz with rfl | rfl <;> omega

/-- No two elements of a tile share a byte. -/
theorem canonOffset_disjoint {nl z m n m' n' : Nat} (hz : z = 4 ∨ z = 8) (hm : m < nl) (hm' : m' < nl) (h : (m, n) ≠ (m', n')) :
    canonOffset nl m (n * z) + z ≤ canonOffset nl m' (n' * z) ∨ canonOffset nl m' (n' * z) + z ≤ canonOffset nl m (n * z) := by
  obtain ⟨q, x, heq, hq, hx, hxor⟩ := canonOffset_eq nl m (n * z)
  obtain ⟨q', x', heq', hq', hx', hxor'⟩ := canonOffset_eq nl m' (n' * z)
  have hne : ¬ (q = q' ∧ x = x' ∧ n * z % 16 = n' * z % 16) := by
    rintro ⟨rfl, rfl, hr⟩
    have hpos : 0 < nl := by omega
    have hmod : ∀ a b, b < nl → (a * nl + b) % nl = b := fun a b hb => by
      rw [Nat.add_comm, Nat.add_mul_mod_self_right, Nat.mod_eq_of_lt hb]
    have hmm : m = m' := by rw [← hmod (n * z / 128) m hm, ← hq, hq', hmod _ m' hm']
    subst hmm
    have hline : n * z / 128 = n' * z / 128 := Nat.eq_of_mul_eq_mul_right hpos (by omega)
    have hunit : n * z % 128 / 16 = n' * z % 128 / 16 := xor_right_inj (hxor ▸ hxor')
    refine h (congrArg (Prod.mk m) ?_)
    rcases hz with rfl | rfl <;> omega
  rw [heq, heq']
  rcases hz with rfl | rfl <;> omega

theorem length_cell (o : AnvilOp) (k : Nat × Nat) : (toBytes (o.data.getD (128 * k.1 + k.2) 0) o.op.z).length = o.op.z :=
  length_toBytes _ _

/-- What a store that updates no stage leaves of the scratchpad. -/
theorem storeTile_scratch {s : State} {o : AnvilOp} (h : o.stage = none) : (storeTile s o).scratch =
    (tilePlaces (64 * o.gang.length)).foldl (fun m k => Memory.writeBytes m
      (o.offD + canonElem o.gang.length o.op.z k.1 k.2) (toBytes (o.data.getD (128 * k.1 + k.2) 0) o.op.z)) s.scratch := by
  have hj : (o.owned.foldl (fun s l => s.journal o.billet (.scratch l.2)) s).scratch = s.scratch :=
    (JournalOnly.foldl _ (fun l : Space × Nat => .scratch l.2) _ s).scratch_eq
  rw [← hj, ← foldl_writeScratch, ← foldl_tilePlaces _ fun s m n => s.writeScratch (o.offD + canonElem o.gang.length o.op.z m n)
    (toBytes (o.data.getD (128 * m + n) 0) o.op.z)]
  simp only [storeTile, h]
  rfl

theorem storeTile_effect {s : State} {o : AnvilOp} (hok : s.memOk = true) (h : o.stage = none) (hz : o.op.z = 4 ∨ o.op.z = 8) :
    (∀ m n, m < 64 * o.gang.length → n < 128 → ofBytes (Memory.readBytes (storeTile s o).scratch
      (o.offD + canonElem o.gang.length o.op.z m n) o.op.z) = o.data.getD (128 * m + n) 0 % 2 ^ (8 * o.op.z)) ∧
    ∀ a, (a < o.offD ∨ o.offD + 64 * o.gang.length * 128 * o.op.z ≤ a) →
      Memory.read (storeTile s o).scratch a = Memory.read s.scratch a := by
  obtain ⟨-, hscratch, -, -⟩ := (memOk_iff s).1 hok
  rw [storeTile_scratch h]
  have hdis : ∀ k ∈ tilePlaces (64 * o.gang.length), ∀ k' ∈ tilePlaces (64 * o.gang.length), k ≠ k' →
      o.offD + canonElem o.gang.length o.op.z k.1 k.2 + o.op.z ≤ o.offD + canonElem o.gang.length o.op.z k'.1 k'.2 ∨
        o.offD + canonElem o.gang.length o.op.z k'.1 k'.2 + o.op.z ≤ o.offD + canonElem o.gang.length o.op.z k.1 k.2 := by
    rintro ⟨m, n⟩ hk ⟨m', n'⟩ hk' hne
    have := canonOffset_disjoint (n := n) (n' := n') hz (mem_tilePlaces.1 hk).1 (mem_tilePlaces.1 hk').1 hne
    dsimp only [canonElem] at this ⊢
    omega
  obtain ⟨hout, hin⟩ := foldl_writeBytes (length_cell o) _ hdis hscratch
  refine ⟨fun m n hm hn => ?_, fun a ha => ?_⟩
  · exact ofBytes_readBytes fun i hi => hin (m, n) (mem_tilePlaces.2 ⟨hm, hn⟩) i hi
  · refine hout a ?_
    rintro ⟨m, n⟩ hk
    obtain ⟨hm, hn⟩ := mem_tilePlaces.1 hk
    have := canonOffset_bound hz hm hn
    dsimp only [canonElem] at this ⊢
    omega

/-! The instructions. -/

/-- An instruction that writes its region and nothing else. -/
theorem computes_of_accWrite {s : State} {o : AnvilOp} {acc : Nat} {f : State → AnvilOp → Nat → Nat → Nat} (hok : s.memOk = true)
    (h : applyOp s o = (accWrite s o acc (f s o)).updAnvil o.id fun x => { x with read := true }) : Computes acc f s o := by
  unfold Computes
  rw [h]
  exact computed_accWrite hok o acc f

theorem z_of_width (b : Bool) : (if b = true then 8 else 4) = 4 ∨ (if b = true then 8 else 4) = 8 := by cases b <;> decide

theorem mem_deliverOp {s : State} {o : AnvilOp} {done : Bool} {p : Pend} (hp : p ∈ s.pend) (hop : p.op = .unit o.id) :
    { p with done := done, writes := drainWrites s o (memberOf o p.tid) (laneOf p.tid) } ∈ (deliverOp s o done).pend :=
  List.mem_map.2 ⟨p, hp, if_pos hop⟩

/-- An instruction that only delivers registers. -/
theorem delivers_of {s : State} {o : AnvilOp}
    (h : applyOp s o = (deliverOp s o false).updAnvil o.id fun x => { x with read := true }) :
    (applyOp s o).acc = s.acc ∧ ∀ p ∈ s.pend, p.op = .unit o.id →
      { p with done := false, writes := drainWrites s o (memberOf o p.tid) (laneOf p.tid) } ∈ (applyOp s o).pend := by
  rw [h]
  exact ⟨rfl, fun p hp hop => mem_deliverOp hp hop⟩

/-- The elements of a region in order, as MSTORE keeps them. -/
def regionElems (s : State) (o : AnvilOp) (acc : Nat) : List Nat :=
  (List.range (64 * o.gang.length)).flatMap fun m => (List.range 128).map fun n => element s o.core acc o.op.z m n

theorem keeps_of {s : State} {o : AnvilOp} {acc : Nat} (h : applyOp s o =
      ((deliverOp s o true).updAnvil o.id fun x => { x with data := regionElems s o acc }).updAnvil o.id
        fun x => { x with read := true }) :
    (applyOp s o).acc = s.acc ∧ (applyOp s o).mem = s.mem ∧ (applyOp s o).scratch = s.scratch ∧
      (∀ p ∈ s.pend, p.op = .unit o.id → ∃ q ∈ (applyOp s o).pend, q.id = p.id ∧ q.done = true) ∧
      ∀ x ∈ s.anvil, x.id = o.id → ∃ y ∈ (applyOp s o).anvil, y.id = o.id ∧ y.read = true ∧ y.data = regionElems s o acc := by
  rw [h]
  refine ⟨rfl, rfl, rfl, fun p hp hop => ⟨_, mem_deliverOp hp hop, rfl, rfl⟩, fun x hx hid => ?_⟩
  refine ⟨{ x with data := regionElems s o acc, read := true }, ?_, hid, rfl, rfl⟩
  refine List.mem_map.2 ⟨{ x with data := regionElems s o acc }, List.mem_map.2 ⟨x, hx, if_pos hid⟩, if_pos hid⟩

/-- Settles O59: an instruction at work writes its region from what the state holds, and a store's cells do not overlap. -/
theorem matrixEffects : Obligations.MatrixEffects := by
  intro s o hok hwork
  have hhere : o.here s = true := hwork
  refine ⟨fun acc w hop => ?mzero, fun acc src w hop => ?mcopy, fun d acc w hop => ?mload, fun vs acc w hop => ?mscl,
    fun vt acc w hop => ?maddc, fun t sa sb vs vt acc zs sh rel hop hst => ?mma,
    fun t sa sb vs vt acc zs sh rel a hop hst => ?mmaStage, fun k d acc cg hop => ?mdrain, fun d acc w hop => ?mstat,
    fun d st acc w hop => ?mstore, fun d st acc w hop hst => ?tile⟩
  case mzero => exact computes_of_accWrite hok (by simp only [applyOp, hhere, hop, Bool.not_true, Bool.false_eq_true, if_false])
  case mcopy =>
    exact computes_of_accWrite hok (by simp only [applyOp, hhere, hop, Bool.not_true, Bool.false_eq_true, if_false]; rfl)
  case mload => exact computes_of_accWrite hok (by simp only [applyOp, hhere, hop, Bool.not_true, Bool.false_eq_true, if_false])
  case mscl =>
    exact computes_of_accWrite hok (by simp only [applyOp, hhere, hop, Bool.not_true, Bool.false_eq_true, if_false]; rfl)
  case maddc =>
    exact computes_of_accWrite hok (by simp only [applyOp, hhere, hop, Bool.not_true, Bool.false_eq_true, if_false]; rfl)
  case mma =>
    exact computes_of_accWrite hok (by simp only [applyOp, hhere, hop, hst, Bool.not_true, Bool.false_eq_true, if_false])
  case mmaStage =>
    refine ⟨_, computed_accWrite hok o acc fun s o m n => mmaElem (raceView s) o t acc zs sh m n,
      (JournalOnly.foldl _ _ _ s).scratch_eq, ?_⟩
    simp only [applyOp, hhere, hop, hst, Bool.not_true, Bool.false_eq_true, if_false]
  case mdrain => exact delivers_of (by simp only [applyOp, hhere, hop, Bool.not_true, Bool.false_eq_true, if_false])
  case mstat => exact delivers_of (by simp only [applyOp, hhere, hop, Bool.not_true, Bool.false_eq_true, if_false])
  case mstore =>
    exact keeps_of (by
      simp only [applyOp, hhere, hop, Bool.not_true, Bool.false_eq_true, if_false, regionElems, element, accRead, accAddr])
  case tile =>
    refine storeTile_effect hok hst ?_
    rw [hop]
    exact z_of_width w

end Sys2Proof.Machine
end

section
/-!
SUPPORT. Surface words (R375 to R383): where every lane is accepted, each acts once, in turn, and its results are in flight.
-/
namespace Sys2Proof.Machine

-- One theorem at a time: elaborating them side by side costs a thread stack each, and the text compiles under a memory limit.
set_option Elab.async false

/-! The lanes of a surface word (R377). -/

/-- A lane's results, as the end of an accepted lane. -/
def acceptedEnd (r : Nat × List RegWrite) : Nat × LaneEnd := (r.1, .accepted r.2)

/-- A lane's work as the model does it, where it is accepted. -/
def Accepts (f : Nat → State → State × Option LaneEnd) (op : Nat → Plan (List RegWrite)) (ts : List Nat) : Prop :=
  ∀ u ∈ ts, ∀ s ws t, op u s = (.ok ws, t) → f u s = (t, some (.accepted ws))

theorem lanes_cons {op : Nat → Plan (List RegWrite)} {s t : State} {u : Nat} {r : List Nat} {rs : List (Nat × List RegWrite)}
    (h : lanes op s (u :: r) = some (t, rs)) :
    ∃ ws s' rs', op u s = (.ok ws, s') ∧ lanes op s' r = some (t, rs') ∧ rs = (u, ws) :: rs' := by
  cases hop : op u s with
  | mk e s' =>
    cases e with
    | error e => simp only [lanes, hop] at h; cases h
    | ok ws =>
      simp only [lanes, hop] at h
      obtain ⟨⟨t', rs'⟩, hr, hq⟩ := Option.map_eq_some_iff.1 h
      cases hq
      exact ⟨ws, s', rs', rfl, hr, rfl⟩

/-- The lanes that were not accepted before act in turn. -/
theorem runLanes_of_lanes {f : Nat → State → State × Option LaneEnd} {op : Nat → Plan (List RegWrite)}
    {had : List (Nat × LaneEnd)} {ts : List Nat} (hop : Accepts f op ts) {s t : State} {rs : List (Nat × List RegWrite)}
    (h : lanes op s (ts.filter fun u => !(had.any fun e => e.1 == u)) = some (t, rs)) :
    runLanes f had ts s = (t, rs.map acceptedEnd, false) := by
  induction ts generalizing s rs with
  | nil => cases h; rfl
  | cons u ts ih =>
    have hrest : Accepts f op ts := fun v hv => hop v (.tail _ hv)
    cases hu : had.any fun e => e.1 == u with
    | true =>
      rw [List.filter_cons_of_neg (by simp [hu])] at h
      rw [runLanes, if_pos hu]
      exact ih hrest h
    | false =>
      rw [List.filter_cons_of_pos (by simp [hu])] at h
      obtain ⟨ws, s', rs', hrun, hlanes, rfl⟩ := lanes_cons h
      simp only [runLanes, hu, Bool.false_eq_true, if_false, hop u (.head _) s ws s' hrun, ih hrest hlanes, List.map_cons,
        acceptedEnd]

theorem lanes_mem {op : Nat → Plan (List RegWrite)} {l : List Nat} {s t : State} {rs : List (Nat × List RegWrite)}
    (h : lanes op s l = some (t, rs)) : ∀ r ∈ rs, r.1 ∈ l := by
  induction l generalizing s rs with
  | nil => cases h; simp
  | cons u l ih =>
    obtain ⟨ws, s', rs', -, hlanes, rfl⟩ := lanes_cons h
    intro r hr
    rcases List.mem_cons.1 hr with rfl | hr
    · exact .head _
    · exact .tail _ (ih hlanes r hr)

theorem lanes_eq_before {x : Bundle} (h : ∀ e ∈ x.lanes, ∃ ws, e.2 = .accepted ws) : x.lanes = (before x).map acceptedEnd := by
  unfold before
  generalize x.lanes = l at h
  induction l with
  | nil => rfl
  | cons e l ih =>
    obtain ⟨u, e⟩ := e
    obtain ⟨ws, rfl : e = .accepted ws⟩ := h _ (.head _)
    exact congrArg (List.cons (u, LaneEnd.accepted ws)) (ih fun e he => h e (.tail _ he))

/-! What follows. -/

theorem laneEnds_issuing {s : State} {b : Nat} {x : Bundle} (hI : Issuing s b x = true) : s.laneEnds = x.lanes := by
  simp only [State.laneEnds, curBundle, issuing_cur hI, Option.bind_some, issuing_bundle hI, Option.map_some, Option.getD_some]

theorem countSurf_accepted (s : State) (rs : List (Nat × List RegWrite)) : countSurf s (rs.map acceptedEnd) = tallied rs s :=
  List.foldl_map

/-- One lane's end in the course of a word. -/
def endLane (fin : State → Nat → LaneEnd → WordOut) (o : WordOut) (x : Nat × LaneEnd) : WordOut :=
  match x.2 with
  | .refused i => { o with traps := o.traps ++ [(x.1, i)] }
  | e => { s := (fin o.s x.1 e).s, traps := o.traps ++ (fin o.s x.1 e).traps }

/-- What an accepted lane leaves in flight. -/
def Lands (fin : State → Nat → LaneEnd → WordOut) (h : Head) (load : Bool) (ts : List Nat) : Prop :=
  ∀ s u ws, fin s u (.accepted ws) =
    { s := if load || h.dc.val != 0 || !ws.isEmpty then s.addValue u h.dc.val (keepS ts u ws) else s }

theorem foldl_endLane {fin : State → Nat → LaneEnd → WordOut} {h : Head} {load : Bool} {ts : List Nat} (hfin : Lands fin h load ts)
    (rs : List (Nat × List RegWrite)) (s : State) :
    (rs.map acceptedEnd).foldl (endLane fin) { s := s } = { s := landing h load ts rs s } := by
  induction rs generalizing s with
  | nil => rfl
  | cons r rs ih =>
    have hstep : endLane fin { s := s } (acceptedEnd r) =
        { s := if load || h.dc.val != 0 || !r.2.isEmpty then s.addValue r.1 h.dc.val (keepS ts r.1 r.2) else s } := by
      show WordOut.mk (fin s r.1 (.accepted r.2)).s ([] ++ (fin s r.1 (.accepted r.2)).traps) false = _
      rw [hfin]
      rfl
    rw [List.map_cons, List.foldl_cons, hstep, ih]
    rfl

theorem surfWord_accepted {s t : State} {b : Nat} {x : Bundle} {h : Head} {ts : List Nat} {load : Bool}
    {f : Nat → State → State × Option LaneEnd} {op : Nat → Plan (List RegWrite)} {fin : State → Nat → LaneEnd → WordOut}
    {rs : List (Nat × List RegWrite)} (hI : Issuing s b x = true) (hop : Accepts f op ts) (hfin : Lands fin h load ts)
    (hx : ∀ e ∈ x.lanes, e.1 ∈ ts ∧ ∃ ws, e.2 = .accepted ws)
    (hrun : lanes op (endInterval s ts) (ts.filter fun u => !(x.lanes.any fun e => e.1 == u)) = some (t, rs)) :
    surfWord ts f fin s = { s := landing h load ts (before x ++ rs) (tallied (before x ++ rs) (t.setLaneEnds [])) } := by
  have hends : x.lanes ++ rs.map acceptedEnd = (before x ++ rs).map acceptedEnd := by
    rw [List.map_append, ← lanes_eq_before fun e he => (hx e he).2]
  have hmine : ((before x ++ rs).map acceptedEnd).filter (fun e => ts.contains e.1) = (before x ++ rs).map acceptedEnd := by
    rw [← hends, List.filter_eq_self]
    intro e he
    rw [List.contains_iff_mem]
    rcases List.mem_append.1 he with he | he
    · exact (hx e he).1
    · obtain ⟨r, hr, rfl⟩ := List.mem_map.1 he
      exact (List.mem_filter.1 (lanes_mem hrun r hr)).1
  unfold surfWord
  simp only [laneEnds_issuing hI, runLanes_of_lanes hop hrun, Bool.false_eq_true, if_false, hends, hmine, countSurf_accepted]
  exact foldl_endLane hfin _ _

/-- A surface word, from what one of its lanes does. -/
theorem surface_of {i : Instr} {h : Head} {a : WordAttr} {srcs : List (Reg × Nat)} {load : Bool}
    {op : State → Nat → Plan (List RegWrite)} {f : State → Nat → State → State × Option LaneEnd}
    {fin : List Nat → State → Nat → LaneEnd → WordOut}
    (he : ∀ s, exec i s = issueWord s h a fun s ts => surfWord ts (f s) (fin ts) s)
    (hg : ∀ c, vecCls c = true → a.allowed c = true) (hp : a.priv = 2) (hsettle : a.settle = none)
    (hop : ∀ s ts, pure_ s ts srcs = true → Accepts (f s) (op s) ts) (hfin : ∀ ts, Lands (fin ts) h load ts) :
    Surface i h srcs a.regs load op := by
  intro s b x t rs hI hcl hf hcount hpure hord hx hrun
  have hbody := surfWord_accepted hI (hop s _ hpure) (hfin _) hx hrun
  rw [he, issueWord_go hI (hg _ hcl) hf (stalls_orderly hI (.inr hcount) hord hsettle)
    (fun u hu => by rw [hp]; exact (issuing_all hI u (activeOf_sub hu)).2.2.2) (by rw [hbody]) (by rw [hbody]; simp), hbody]

theorem cls_surface : ∀ c, vecCls c = true → ({ group := 6 } : WordAttr).allowed c = true := by intro c; cases c <;> decide

theorem runLane_accepts {s : State} {ts : List Nat} {a : Reg} {regs : List (Reg × Nat)} {op : LaneOp}
    (hpure : pure_ s ts regs = true) : Accepts (fun t => runLane s t (surfIdx s t a) regs op) (op s) ts := by
  intro u hu s' ws t hop
  simp only [runLane, hop, consumed_of_pure hpure u hu, laneEnd, Option.isSome_none, Bool.false_eq_true, if_false]

theorem endWrite_lands (h : Head) (ts : List Nat) : Lands (endWrite h.dc.val ts) h false ts := by
  intro s u ws
  simp only [endWrite]
  by_cases hdc : h.dc.val = 0 <;> cases hws : ws.isEmpty <;> simp [hdc]

theorem endLoad_lands (h : Head) (ts : List Nat) (d : Reg) (n : Nat) (pd : Option (Fin 8)) :
    Lands (endLoad h.dc.val ts d n pd) h true ts := fun _ _ _ => rfl

theorem surface_write {i : Instr} {h : Head} {a b : Reg} {data : List (Reg × Nat)} {op : LaneOp}
    (he : ∀ s, exec i s = surfWrite h a b data op s) :
    Surface i h ((a, 1) :: (b, 1) :: data) ((a, 1) :: (b, 1) :: data) false op :=
  surface_of he cls_surface rfl rfl (fun _ _ hp => runLane_accepts hp) fun ts => endWrite_lands h ts

theorem surface_load {i : Instr} {h : Head} {a b d : Reg} {n : Nat} {data : List (Reg × Nat)} {pd : Option (Fin 8)} {op : LaneOp}
    {poisons : Bool} (he : ∀ s, exec i s = surfLoad h a b data d n pd op poisons s) :
    Surface i h ((a, 1) :: (b, 1) :: data) ((a, 1) :: (b, 1) :: data ++ [(d, n)]) poisons op := by
  refine surface_of he cls_surface rfl rfl (fun _ _ hp => runLane_accepts hp) fun ts => ?_
  cases poisons with
  | true => exact endLoad_lands h ts d n pd
  | false => exact endWrite_lands h ts

theorem flushes_accepts {s : State} {ts : List Nat} (a : Reg) (rel : Bool) :
    Accepts (fun t => flushLane a rel s t) (flushes a rel s) ts := by
  intro u _ s' ws t hop
  unfold flushes at hop
  cases hl : flushLane a rel s u s' with
  | mk s1 e =>
    simp only [hl] at hop
    cases e with
    | none => cases hop
    | some e => cases e <;> cases hop; exact hl

theorem surface_flush {i : Instr} {h : Head} {a : Reg} {rel : Bool} (he : ∀ s, exec i s = flushWord h a rel s) :
    Surface i h [(a, 1)] [(a, 1)] false (flushes a rel) :=
  surface_of he cls_surface rfl rfl (fun _ _ _ => flushes_accepts a rel) fun ts => endWrite_lands h ts

/-- Settles O30: every read of a surface is a surface load whose lanes do what the statement says. -/
theorem surfaceReads : Obligations.SurfaceReads := by
  refine ⟨?p32, ?p64, ?quad, ?row, ?depth, ?query⟩
  case p32 => exact fun h d a b => surface_load (data := []) (pd := none) fun _ => rfl
  case p64 => exact fun h d a b => surface_load (data := []) (pd := none) fun _ => rfl
  case quad => exact fun h d a b => surface_load (data := []) (pd := none) fun _ => rfl
  case row => exact fun h d a b => surface_load (data := []) (pd := none) fun _ => rfl
  case depth => exact fun h pd d a b c => surface_load (data := [(c, 1)]) (pd := some pd) fun _ => rfl
  case query => exact fun h sel d a b => surface_load (data := []) (pd := none) fun _ => rfl

/-- Settles O31: every write of a surface is a surface word whose lanes do what the statement says. -/
theorem surfaceWrites : Obligations.SurfaceWrites := by
  refine ⟨?p, ?m, ?several, ?scoef, ?scoefB, ?smv, ?sref, ?srate, ?sanchor, ?flush, ?rel⟩
  case p => exact fun h w64 a b c => surface_write (data := [(c, if w64 then 2 else 1)]) fun _ => rfl
  case m => exact fun h w64 mask a b c => surface_write (data := [(c, if w64 then 2 else 1)]) fun _ => rfl
  case several =>
    rintro i ps (⟨rfl, rfl⟩ | ⟨rfl, rfl⟩) h a b c
    · exact surface_write (data := [(c, 4)]) fun _ => rfl
    · exact surface_write (data := [(c, 4)]) fun _ => rfl
  case scoef => exact fun h k ch a b c => surface_write (data := [(c, 1)]) fun _ => rfl
  case scoefB => exact fun h k ch a b c => surface_write (data := [(c, 4)]) fun _ => rfl
  case smv => exact fun h a b c => surface_write (data := [(c, 1)]) fun _ => rfl
  case sref => exact fun h r a b => surface_write (data := []) fun _ => rfl
  case srate => exact fun h a b c => surface_write (data := [(c, 1)]) fun _ => rfl
  case sanchor => exact fun h w64 a b c => surface_write (data := [(c, if w64 then 2 else 1)]) fun _ => rfl
  case flush => exact fun h a => surface_flush fun _ => rfl
  case rel => exact fun h a => surface_flush fun _ => rfl

end Sys2Proof.Machine
end

section
/-!
SUPPORT. Canonical memories: what the model's operations on the state do to the form of its memories.
-/
namespace Sys2Proof.Machine

-- One theorem at a time: elaborating them side by side costs a thread stack each, and the text compiles under a memory limit.
set_option Elab.async false

/-! The form of the memories of a state, and what follows the structure of a program. -/

/-- A state of which no memory is written. -/
theorem memOk_mk {agenda fresh cur pend seq mem scratch acc book stale threads crews billets bundles cores groups wps saved
    objUse icache ladle trav anvil surfs descs poolLow encWait frozen homes sliceBase copies probes notes know
    reads relFences scs carried scratchWait counts errors errLog ctxs tenants ctxSel l2cfg rngBase rngLim
    rngCtl rngAcc capCores capSlices capChan capWaves drwSize slotTab slotShadow ports sliceMap retired time
    sub hold slewAt refDrawer ready recovery status power clockStep module measurement attest irqs} :
    State.memOk ⟨agenda, fresh, cur, pend, seq, mem, scratch, acc, book, stale, threads, crews, billets, bundles, cores,
      groups, wps, saved, objUse, icache, ladle, trav, anvil, surfs, descs, poolLow, encWait, frozen, homes,
      sliceBase, copies, probes, notes, know, reads, relFences, scs, carried, scratchWait, counts, errors,
      errLog, ctxs, tenants, ctxSel, l2cfg, rngBase, rngLim, rngCtl, rngAcc, capCores, capSlices, capChan,
      capWaves, drwSize, slotTab, slotShadow, ports, sliceMap, retired, time, sub, hold, slewAt, refDrawer,
      ready, recovery, status, power, clockStep, module, measurement, attest, irqs⟩ =
      (Memory.wf mem && Memory.wf scratch && Memory.wf acc && Memory.wf book) := rfl

@[simp] theorem memOk_fields {s} : (Memory.wf (State.mem s) && Memory.wf s.scratch && Memory.wf s.acc && Memory.wf s.book) = s.memOk := rfl

@[simp] theorem memOk_ite {c : Prop} [Decidable c] {s t : State} : (if c then s else t).memOk = if c then s.memOk else t.memOk :=
  apply_ite ..

@[simp] theorem memOk_foldl_eq {α : Type} {f : State → α → State} {l : List α} {s : State}
    (hf : ∀ s a, (f s a).memOk = s.memOk) : (l.foldl f s).memOk = s.memOk := by
  induction l generalizing s with
  | nil => rfl
  | cons a l ih => exact ih.trans (hf s a)

theorem memOk_foldl {α : Type} {f : State → α → State} {l : List α} {s : State}
    (hf : ∀ s a, s.memOk = true → (f s a).memOk = true) (h : s.memOk = true) : (l.foldl f s).memOk = true := by
  induction l generalizing s with
  | nil => exact h
  | cons a l ih => exact ih (hf s a h)

theorem memOk_ite_of {c : Prop} [Decidable c] {s t : State} (hs : s.memOk = true) (ht : s.memOk = true → t.memOk = true) :
    (if c then s else t).memOk = true := by
  split
  · exact hs
  · exact ht hs

theorem memOk_ite_of' {c : Prop} [Decidable c] {s t : State} (hs : s.memOk = true) (ht : s.memOk = true → t.memOk = true) :
    (if c then t else s).memOk = true := by
  split
  · exact ht hs
  · exact hs

/-- What may come of work that may come to nothing. -/
def SomeOk (o : Option State) : Prop := ∀ t, o = some t → t.memOk = true

@[simp] theorem someOk_none : SomeOk none := fun _ h => by cases h
@[simp] theorem someOk_some {s} : SomeOk (some s) ↔ s.memOk = true := ⟨fun h => h s rfl, fun h _ ht => by cases ht; exact h⟩

theorem someOk_getD {o : Option State} {s} (ho : SomeOk o) (h : s.memOk = true) : (o.getD s).memOk = true := by
  cases o with
  | none => exact h
  | some t => exact ho t rfl

theorem someOk_map {α : Type} {o : Option α} {f : α → State} (h : ∀ a, o = some a → (f a).memOk = true) : SomeOk (o.map f) := by
  cases o with
  | none => exact someOk_none
  | some a => exact someOk_some.2 (h a rfl)

theorem someOk_bind {α : Type} {o : Option α} {f : α → Option State} (h : ∀ a, o = some a → SomeOk (f a)) : SomeOk (o.bind f) := by
  cases o with
  | none => exact someOk_none
  | some a => exact h a rfl

theorem someOk_foldl_bind {α : Type} {f : State → α → Option State} (hf : ∀ s a, s.memOk = true → SomeOk (f s a)) (l : List α)
    {o : Option State} (ho : SomeOk o) : SomeOk (l.foldl (fun o a => o.bind fun s => f s a) o) := by
  induction l generalizing o with
  | nil => exact ho
  | cons a l ih => exact ih (someOk_bind fun s hs => hf s a (ho s hs))

/-- The state that a list is folded into, where more than the state is carried along. -/
theorem memOk_foldl_via {α σ : Type} (g : σ → State) {f : σ → α → σ} {l : List α} {o : σ}
    (hf : ∀ o a, (g o).memOk = true → (g (f o a)).memOk = true) (h : (g o).memOk = true) : (g (l.foldl f o)).memOk = true := by
  induction l generalizing o with
  | nil => exact h
  | cons a l ih => exact ih (hf o a h)

theorem memOk_foldl_fst_eq {α β : Type} {f : State × β → α → State × β} {l : List α} {w : State × β}
    (hf : ∀ w a, (f w a).1.memOk = w.1.memOk) : (l.foldl f w).1.memOk = w.1.memOk := by
  induction l generalizing w with
  | nil => rfl
  | cons a l ih => exact ih.trans (hf w a)

/-- The act of a word keeps the form of the memories. -/
def BodyOk (body : State → List Nat → WordOut) : Prop := ∀ s ts, s.memOk = true → (body s ts).s.memOk = true

theorem memOk_out_ite {c : Prop} [Decidable c] {a b : WordOut} (ha : a.s.memOk = true) (hb : b.s.memOk = true) :
    (if c then a else b).s.memOk = true := by
  split
  · exact ha
  · exact hb

/-- What may come of an instruction or an event. -/
def OutOk (o : Out) : Prop := ∀ t, o = .next t → t.memOk = true

@[simp] theorem outOk_next {s} : OutOk (.next s) ↔ s.memOk = true := ⟨fun h => h s rfl, fun h _ ht => by cases ht; exact h⟩
@[simp] theorem outOk_refused {r} : OutOk (.refused r) := fun _ h => by cases h
@[simp] theorem outOk_fault {f} : OutOk (.fault f) := fun _ h => by cases h

theorem outOk_ite {c : Prop} [Decidable c] {a b : Out} (ha : OutOk a) (hb : OutOk b) : OutOk (if c then a else b) := by
  split
  · exact ha
  · exact hb

end Sys2Proof.Machine
end

section
/-!
SUPPORT. Canonical memories: what the rules of the state, the journal, operands, translation and rings do to the memories.
-/
namespace Sys2Proof.Machine

-- One theorem at a time: elaborating them side by side costs a thread stack each, and the text compiles under a memory limit.
set_option Elab.async false

@[simp] theorem memOk_setThr {s t th} : (State.setThr s t th).memOk = s.memOk := by rfl

@[simp] theorem memOk_updThr {s t f} : (State.updThr s t f).memOk = s.memOk := by rfl

@[simp] theorem memOk_setCrew {s c x} : (State.setCrew s c x).memOk = s.memOk := by rfl

@[simp] theorem memOk_updCrew {s c f} : (State.updCrew s c f).memOk = s.memOk := by rfl

@[simp] theorem memOk_updCore {s c f} : (State.updCore s c f).memOk = s.memOk := by rfl

@[simp] theorem memOk_updBillet {s k f} : (State.updBillet s k f).memOk = s.memOk := by
  unfold State.updBillet
  split <;> simp [memOk_mk]

@[simp] theorem memOk_updWp {s w f} : (State.updWp s w f).memOk = s.memOk := by
  unfold State.updWp
  split <;> simp [memOk_mk]

@[simp] theorem memOk_updCtx {s c f} : (State.updCtx s c f).memOk = s.memOk := by rfl

@[simp] theorem memOk_updTenant {s t f} : (State.updTenant s t f).memOk = s.memOk := by rfl

@[simp] theorem memOk_updQueue {s t q f} : (State.updQueue s t q f).memOk = s.memOk := by rfl

@[simp] theorem memOk_writePa {s pa bs} (h : s.memOk = true) : (State.writePa s pa bs).memOk = true := by
  obtain ⟨hmem, hscratch, hacc, hbook⟩ := (memOk_iff s).1 h
  exact (memOk_iff _).2 ⟨Memory.wf_writeBytes _ _ hmem, hscratch, hacc, hbook⟩

@[simp] theorem memOk_updHome {s line f} : (State.updHome s line f).memOk = s.memOk := by rfl

@[simp] theorem memOk_learn {s t id ids} : (State.learn s t id ids).memOk = s.memOk := by
  unfold State.learn
  simp [memOk_mk]

@[simp] theorem memOk_noteWrite {s sp a n hs} : (State.noteWrite s sp a n hs).memOk = s.memOk := by rfl

@[simp] theorem memOk_readDone {s p} : (State.readDone s p).memOk = s.memOk := by
  unfold State.readDone
  split <;> simp [memOk_mk]

@[simp] theorem memOk_carry {s key t id} : (State.carry s key t id).memOk = s.memOk := by rfl

@[simp] theorem memOk_learnFrom {s key t id} : (State.learnFrom s key t id).memOk = s.memOk := by
  unfold State.learnFrom
  simp

@[simp] theorem memOk_prune {s} : (State.prune s).memOk = s.memOk := by
  unfold State.prune
  simp [memOk_mk]

@[simp] theorem memOk_irrevocable {s b} : (State.irrevocable s b).memOk = s.memOk := by
  unfold State.irrevocable
  simp

@[simp] theorem memOk_journal {s b u} : (State.journal s b u).memOk = s.memOk := by
  unfold State.journal
  split <;> simp

@[simp] theorem memOk_putReg {s t w} : (State.putReg s t w).memOk = s.memOk := by
  unfold State.putReg
  split <;> simp

@[simp] theorem memOk_contest {s t gs} : (State.contest s t gs).memOk = s.memOk := by rfl

@[simp] theorem memOk_putRegs {s t ws} : (State.putRegs s t ws).memOk = s.memOk := by
  unfold State.putRegs
  simp

@[simp] theorem memOk_landReg {s t p w} : (State.landReg s t p w).memOk = s.memOk := by
  unfold State.landReg
  simp

@[simp] theorem memOk_noteTlb {s c va} : (State.noteTlb s c va).memOk = s.memOk := by
  unfold State.noteTlb
  simp

theorem someOk_writeVa {s c priv va bs} (h : s.memOk = true) : SomeOk (writeVa s c priv va bs) := by
  induction bs generalizing s va with
  | nil => exact someOk_some.2 h
  | cons b t ih =>
    rw [writeVa]
    split
    · exact ih (memOk_writePa h)
    · exact someOk_none

@[simp] theorem memOk_msix {s f vec} : (State.msix s f vec).memOk = s.memOk := by
  unfold State.msix
  simp [memOk_mk]

@[simp] theorem memOk_markMonitors {s line only} : (State.markMonitors s line only).memOk = s.memOk := by rfl

@[simp] theorem memOk_partWrite {s pa bs} (h : s.memOk = true) : (State.partWrite s pa bs).memOk = true := by
  unfold State.partWrite
  rw [memOk_markMonitors]
  exact memOk_writePa h

@[simp] theorem memOk_ringWrite {s r cap size bs} (h : s.memOk = true) : (ringWrite s r cap size bs).1.memOk = true := by
  unfold ringWrite
  simp [h]

@[simp] theorem memOk_ringFlush {cap size fix n s r} (h : s.memOk = true) : (ringFlush cap size fix s r n).1.memOk = true := by
  induction n generalizing s r with
  | zero => exact h
  | succ n ih =>
    rw [ringFlush]
    split
    · exact h
    · split
      · exact h
      · exact ih (memOk_ringWrite h)

@[simp] theorem memOk_ringPost {cap size s r id bs} (h : s.memOk = true) : (ringPost cap size s r id bs).1.memOk = true := by
  unfold ringPost
  simp [h]

@[simp] theorem memOk_postEvent {s f bs} (h : s.memOk = true) : (State.postEvent s f bs).memOk = true := by
  unfold State.postEvent
  simp [h]

@[simp] theorem memOk_flushEvents {s f} (h : s.memOk = true) : (State.flushEvents s f).memOk = true := by
  unfold State.flushEvents
  simp [h]

@[simp] theorem memOk_flushFaults {s f} (h : s.memOk = true) : (State.flushFaults s f).memOk = true := by
  unfold State.flushFaults
  simp [h]

@[simp] theorem memOk_postFault {s f tag bs} (h : s.memOk = true) : (State.postFault s f tag bs).memOk = true := by
  unfold State.postFault
  simp [h]

@[simp] theorem memOk_postNotify {s f bs} (h : s.memOk = true) : (State.postNotify s f bs).memOk = true := by
  unfold State.postNotify
  simp [h]

@[simp] theorem memOk_flushNotify {s f} (h : s.memOk = true) : (State.flushNotify s f).memOk = true := by
  unfold State.flushNotify
  simp [h]

@[simp] theorem memOk_mailFlush {n s r} (h : s.memOk = true) : (mailFlush s r n).1.memOk = true := by
  induction n generalizing s r with
  | zero => exact h
  | succ n ih =>
    rw [mailFlush]
    split
    · exact h
    · simp only []
      split
      · exact h
      · exact ih (memOk_foldl_via Prod.fst (fun _ _ h => memOk_ringWrite h) h)

@[simp] theorem memOk_flushMailbox {s f} (h : s.memOk = true) : (State.flushMailbox s f).memOk = true := by
  unfold State.flushMailbox
  simp [h]

@[simp] theorem memOk_postMailbox {s f id bs} (h : s.memOk = true) : (State.postMailbox s f id bs).memOk = true := by
  unfold State.postMailbox
  simp [h]

@[simp] theorem memOk_postAll {s bs} (h : s.memOk = true) : (State.postAll s bs).memOk = true := by
  unfold State.postAll
  refine memOk_foldl (fun s a h => ?_) ?_
  · simp [h]
  · simp [h]

theorem someOk_trapWriteOne {s c bs} (h : s.memOk = true) : SomeOk (trapWriteOne s c bs) := by
  unfold trapWriteOne
  simp only []
  split
  · exact someOk_none
  · refine someOk_map fun t ht => ?_
    have hw := someOk_writeVa h t ht
    split <;> simp [hw]

theorem someOk_trapWriteAll {s c es} (h : s.memOk = true) : SomeOk (trapWriteAll s c es) :=
  someOk_foldl_bind (fun _ _ h => someOk_trapWriteOne h) _ (someOk_some.2 h)

@[simp] theorem memOk_trapWriteSome {s c es} (h : s.memOk = true) : (trapWriteSome s c es).memOk = true := by
  refine memOk_foldl (fun s e h => ?_) h
  split
  · exact h
  · exact someOk_getD (someOk_trapWriteOne h) h

@[simp] theorem memOk_trapFlush {c n s} (h : s.memOk = true) : (trapFlush c s n).memOk = true := by
  induction n generalizing s with
  | zero => exact h
  | succ n ih =>
    rw [trapFlush]
    split
    · exact h
    · split
      · exact h
      · simp only []
        split
        · rename_i s2 hs2
          have hw := someOk_trapWriteAll (by simp [h]) s2 hs2
          exact ih (by simp [hw])
        · exact ih (by simp [h])

end Sys2Proof.Machine
end

section
/-!
SUPPORT. Canonical memories: operations in flight, objects, traps and threads.
-/
namespace Sys2Proof.Machine

-- One theorem at a time: elaborating them side by side costs a thread stack each, and the text compiles under a memory limit.
set_option Elab.async false

@[simp] theorem memOk_leave {s ts} : (State.leave s ts).memOk = s.memOk := by rfl

@[simp] theorem memOk_orphan {s t} : (State.orphan s t).memOk = s.memOk := by
  unfold State.orphan
  simp [memOk_mk]

@[simp] theorem memOk_writeScratch {s a bs} (h : s.memOk = true) : (State.writeScratch s a bs).memOk = true := by
  obtain ⟨hmem, hscratch, hacc, hbook⟩ := (memOk_iff s).1 h
  exact (memOk_iff _).2 ⟨hmem, Memory.wf_writeBytes _ _ hscratch, hacc, hbook⟩

@[simp] theorem memOk_setStage {s a x} (h : s.memOk = true) : (State.setStage s a x).memOk = true := by
  unfold State.setStage
  simp [h]

@[simp] theorem memOk_setQueue {s a q} (h : s.memOk = true) : (State.setQueue s a q).memOk = true := by
  unfold State.setQueue
  simp [h]

@[simp] theorem memOk_gateIdle {s core} : (State.gateIdle s core).memOk = s.memOk := by
  unfold State.gateIdle
  simp [memOk_mk]

@[simp] theorem memOk_freeBillet {s k} : (State.freeBillet s k).memOk = s.memOk := by
  unfold State.freeBillet
  split <;> simp [memOk_mk]

@[simp] theorem memOk_markBroken {s obj} (h : s.memOk = true) : (State.markBroken s obj).memOk = true := by
  unfold State.markBroken
  simp [h]

@[simp] theorem memOk_terminateCtx {s c code} (h : s.memOk = true) : (terminateCtx s c code).memOk = true := by
  unfold terminateCtx
  refine memOk_foldl (fun s w h => ?_) ?_
  · split <;> simp [h]
  · simp +contextual [↓memOk_mk, ↓memOk_fields, memOk_foldl, h]

@[simp] theorem memOk_holdThread {s t i} (h : s.memOk = true) : (holdThread s t i).memOk = true := by
  unfold holdThread
  simp [h]

@[simp] theorem memOk_defaultAction {s t i} (h : s.memOk = true) : (defaultAction s t i).memOk = true := by
  unfold defaultAction
  split <;> simp [h]

@[simp] theorem memOk_postToHandler {s c r code} (h : s.memOk = true) : (postToHandler s c r code).memOk = true := by
  unfold postToHandler
  simp [h]

@[simp] theorem memOk_asyncTrap {s c i core} (h : s.memOk = true) : (asyncTrap s c i core).memOk = true := by
  unfold asyncTrap
  simp [h]

@[simp] theorem memOk_takeTraps {s xs} (h : s.memOk = true) : (takeTraps s xs).memOk = true := by
  unfold takeTraps
  refine memOk_foldl (fun s x h => ?_) (memOk_foldl (fun s x h => ?_) ?_)
  · simp only []
    split
    · exact h
    · split <;> simp [h]
  · simp only []
    split
    · exact h
    · split
      · simp [h]
      · split <;> simp [h]
  · exact (memOk_foldl_eq fun _ _ => memOk_updThr).trans (memOk_leave.trans h)

@[simp] theorem memOk_settle {s t pc widx} (h : s.memOk = true) : (settle s t pc widx).memOk = true := by
  unfold settle
  simp [h]

@[simp] theorem memOk_passOn {s t ws} : (passOn s t ws).memOk = s.memOk := by
  unfold passOn
  simp [memOk_mk]

@[simp] theorem memOk_giveRegs {s t ws} : (State.giveRegs s t ws).memOk = s.memOk := by
  unfold State.giveRegs
  simp

@[simp] theorem memOk_learnWaited {s t} : (learnWaited s t).memOk = s.memOk := by
  unfold learnWaited
  split <;> simp

@[simp] theorem memOk_release {s t ws} (h : s.memOk = true) : (release s t ws).memOk = true := by
  unfold release
  simp [h]

@[simp] theorem memOk_wakeWaitv {s} (h : s.memOk = true) : (wakeWaitv s).memOk = true := by
  unfold wakeWaitv
  refine memOk_foldl (fun s a h => ?_) ?_
  · repeat' split
    all_goals simp [h]
  · simp [h]

@[simp] theorem memOk_wakeStage {s a} (h : s.memOk = true) : (wakeStage s a).memOk = true := by
  refine memOk_wakeWaitv (memOk_foldl (fun s t h => ?_) h)
  split <;> simp [h]

@[simp] theorem memOk_stageUpdate {s a u} (h : s.memOk = true) : (stageUpdate s a u).memOk = true := by
  cases u with
  | init x =>
    refine memOk_wakeWaitv (memOk_setStage (memOk_foldl (fun s t h => ?_) h))
    split <;> simp [h]
  | _ => exact memOk_wakeStage (memOk_setStage h)

@[simp] theorem memOk_journalFor {s t sp pa n} : (State.journalFor s t sp pa n).memOk = s.memOk := by
  unfold State.journalFor
  simp

@[simp] theorem memOk_journalQueue {s t a} : (journalQueue s t a).memOk = s.memOk := by
  unfold journalQueue
  simp

@[simp] theorem memOk_queuePush {s a payload} (h : s.memOk = true) : (queuePush s a payload).memOk = true := by
  unfold queuePush
  simp [h]

@[simp] theorem memOk_queueDrop {s a} (h : s.memOk = true) : (queueDrop s a).memOk = true := by
  unfold queueDrop
  simp [h]

theorem someOk_servePop {s a t} (h : s.memOk = true) : SomeOk (servePop s a t) := by
  unfold servePop
  simp only []
  repeat' split
  all_goals simp [h]

theorem someOk_servePush {s a t} (h : s.memOk = true) : SomeOk (servePush s a t) := by
  unfold servePush
  simp only []
  repeat' split
  all_goals simp [h]

@[simp] theorem memOk_queueServe {a n s} (h : s.memOk = true) : (queueServe a s n).memOk = true := by
  induction n generalizing s with
  | zero => exact h
  | succ n ih =>
    rw [queueServe]
    split
    · rename_i t ht
      exact ih (someOk_bind (fun w _ => someOk_servePop h) t ht)
    · split
      · rename_i t ht
        exact ih (someOk_bind (fun w _ => someOk_servePush h) t ht)
      · exact h

@[simp] theorem memOk_queueChanged {s a} (h : s.memOk = true) : (queueChanged s a).memOk = true := by
  unfold queueChanged
  simp [h]

@[simp] theorem memOk_updGroup {s g f} : (State.updGroup s g f).memOk = s.memOk := by
  unfold State.updGroup
  split <;> simp [memOk_mk]

@[simp] theorem memOk_breakGroup {s g} (h : s.memOk = true) : (breakGroup s g).memOk = true := by
  unfold breakGroup
  refine memOk_foldl (fun s a h => ?_) ?_
  · split <;> simp [h]
  · simp [h]

@[simp] theorem memOk_advancePhase {s g last} (h : s.memOk = true) : (advancePhase s g last).memOk = true := by
  unfold advancePhase
  simp only []
  split
  · simp [h]
  · refine memOk_foldl (fun s t h => ?_) (by rw [memOk_updGroup]; exact h)
    split
    · split
      · split <;> simp [h]
      · exact h
    · exact h

@[simp] theorem memOk_evalPhase {s g last} (h : s.memOk = true) : (evalPhase s g last).memOk = true := by
  unfold evalPhase
  simp only []
  split <;> simp [h]

@[simp] theorem memOk_breakThese {s os} (h : s.memOk = true) : (breakThese s os).memOk = true := by
  refine memOk_foldl (fun s g h => memOk_breakGroup h) (memOk_foldl (fun s o h => ?_) h)
  simp only []
  split <;> simp [h]

@[simp] theorem memOk_breakObjects {s ts} (h : s.memOk = true) : (breakObjects s ts).memOk = true := by
  unfold breakObjects
  simp [h]

@[simp] theorem memOk_raise {s xs} (h : s.memOk = true) : (raise s xs).memOk = true := by
  unfold raise
  simp [h]

@[simp] theorem memOk_joinPass1 {cid n s} (h : s.memOk = true) : (joinPass1 cid s n).memOk = true := by
  induction n generalizing s with
  | zero => exact h
  | succ n ih =>
    rw [joinPass1]
    split
    · exact h
    · exact ih (memOk_foldl (fun _ _ h => memOk_release h) h)

@[simp] theorem memOk_evalJoin {s cid} (h : s.memOk = true) : (evalJoin s cid).memOk = true := by
  unfold evalJoin
  simp [h]

@[simp] theorem memOk_addValue {s t dc ws} : (State.addValue s t dc ws).memOk = s.memOk := by rfl

@[simp] theorem memOk_crewDeliver {s cid ps} : (crewDeliver s cid ps).1.memOk = s.memOk := by
  refine memOk_foldl_fst_eq fun w p => ?_
  simp only []
  split
  · rfl
  · split <;> simp

@[simp] theorem memOk_resolveMask {cid n s} (h : s.memOk = true) : (resolveMask cid s n).memOk = true := by
  induction n generalizing s with
  | zero => exact h
  | succ n ih =>
    rw [resolveMask]
    split
    · exact h
    · refine ih (memOk_raise (memOk_foldl (fun s p h => ?_) (by rw [memOk_crewDeliver]; exact h)))
      simp only []
      split <;> simp [h]
    · exact ih (memOk_raise h)

@[simp] theorem memOk_fireMonitors {s line only} (h : s.memOk = true) : (fireMonitors s line only).memOk = true := by
  unfold fireMonitors
  simp [h]

@[simp] theorem memOk_watch {s p line} : (State.watch s p line).memOk = s.memOk := by rfl

@[simp] theorem memOk_bumpPerf {s c core idx n} : (bumpPerf s c core idx n).memOk = s.memOk := by rfl

@[simp] theorem memOk_rollbackFence {s fence} : (rollbackFence s fence).memOk = s.memOk := by
  unfold rollbackFence
  split <;> simp [memOk_mk]

@[simp] theorem memOk_rollWatched {s line which cores} : (rollWatched s line which cores).memOk = s.memOk := by
  unfold rollWatched
  refine memOk_foldl_eq fun s a => ?_
  split <;> simp

@[simp] theorem memOk_loseLine {s line cores} (h : s.memOk = true) : (loseLine s line cores).memOk = true := by
  unfold loseLine
  simp [h]

@[simp] theorem memOk_performWrite {s pa bs writer} (h : s.memOk = true) : (performWrite s pa bs writer).memOk = true := by
  have hw : (State.writePa s pa bs).memOk = true := memOk_writePa h
  unfold performWrite
  rw [memOk_rollWatched, memOk_noteWrite]
  exact memOk_fireMonitors hw

@[simp] theorem memOk_completeWp {s w x} (h : s.memOk = true) : (completeWp s w x).memOk = true := by
  unfold completeWp
  simp only []
  split <;> split <;> (try split) <;> simp [h]

@[simp] theorem memOk_tryComplete {s w} (h : s.memOk = true) : (tryComplete s w).memOk = true := by
  unfold tryComplete
  split <;> simp [h]

@[simp] theorem memOk_completeAll {s} (h : s.memOk = true) : (completeAll s).memOk = true := by
  unfold completeAll
  refine memOk_foldl (fun s a h => ?_) ?_
  · simp [h]
  · simp [h]

@[simp] theorem memOk_endBillet {s k} (h : s.memOk = true) : (endBillet s k).memOk = true := by
  unfold endBillet
  split <;> simp [h]

@[simp] theorem memOk_endThreads {s ts killed} (h : s.memOk = true) : (endThreads s ts killed).memOk = true := by
  unfold endThreads
  refine memOk_foldl (fun s c h => ?_) ?_
  · split
    · simp [memOk_mk, h]
    · simp [h]
  · refine memOk_foldl (fun s c h => by simp [h]) (memOk_foldl (fun s g h => by simp [h]) ?_)
    split <;> simp [h]

@[simp] theorem memOk_resumeThread {s t next step} (h : s.memOk = true) : (resumeThread s t next step).memOk = true := by
  unfold resumeThread
  split <;> simp [h]

end Sys2Proof.Machine
end

section
/-!
SUPPORT. Canonical memories: issuing a word, and parking.
-/
namespace Sys2Proof.Machine

-- One theorem at a time: elaborating them side by side costs a thread stack each, and the text compiles under a memory limit.
set_option Elab.async false

@[simp] theorem memOk_endClause {s b x} (h : s.memOk = true) : (endClause s b x).memOk = true := by
  have hleft : ∀ (l : List Nat) (s : State), s.memOk = true → (l.foldl (fun s t => settle s t x.clause.next 0) s).memOk = true :=
    fun l s h => memOk_foldl (fun _ _ h => memOk_settle h) h
  unfold endClause
  simp only []
  split
  · rw [memOk_foldl_eq fun s t => by split <;> simp]
    exact hleft _ _ h
  · exact hleft _ _ h

@[simp] theorem memOk_nextWord {s b x} (h : s.memOk = true) : (nextWord s b x).memOk = true := by
  unfold nextWord
  split
  · exact h
  · split
    · simp only []
      split
      · split <;> simp [memOk_mk, h]
      · simp [memOk_mk, h]
    · exact memOk_endClause h

@[simp] theorem memOk_raiseNow {s xs} (h : s.memOk = true) : (raiseNow s xs).memOk = true := by
  unfold raiseNow
  exact memOk_raise (by simp [h])

@[simp] theorem memOk_raiseWatches {s} (h : s.memOk = true) : (raiseWatches s).memOk = true := by
  unfold raiseWatches
  simp [h]

@[simp] theorem memOk_raiseCompared {s traps} (h : s.memOk = true) : (raiseCompared s traps).memOk = true := by
  unfold raiseCompared
  exact memOk_raiseNow (by simp [h])

@[simp] theorem memOk_raiseAt {s x traps} (h : s.memOk = true) : (raiseAt s x traps).memOk = true := by
  unfold raiseAt
  simp only []
  split
  · exact h
  · exact memOk_raiseCompared (by simp [h])

@[simp] theorem memOk_finishWord {b x o} (h : o.s.memOk = true) : (finishWord b x o).memOk = true :=
  memOk_nextWord (memOk_raiseAt h)

@[simp] theorem memOk_trapBundle {s b x i} (h : s.memOk = true) : (trapBundle s b x i).memOk = true := by
  unfold trapBundle
  simp [h]

@[simp] theorem memOk_closeBundle {s b} : (State.closeBundle s b).memOk = s.memOk := by
  unfold State.closeBundle
  split <;> simp [memOk_mk]

@[simp] theorem memOk_compared {s x} : (compared s x).memOk = s.memOk := by
  unfold compared
  refine memOk_foldl_eq fun s a => ?_
  simp

@[simp] theorem memOk_toCompare {s b x h a ts} : (toCompare s b x h a ts).memOk = s.memOk := by
  unfold toCompare
  simp

@[simp] theorem memOk_takePassed {s ds ts} : (takePassed s ds ts).memOk = s.memOk := by
  unfold takePassed
  refine memOk_foldl_eq fun s a => ?_
  split <;> simp

theorem bodyOk_telling {x a body} (hb : BodyOk body) : BodyOk (telling x a body) := by
  intro s ts h
  have hok := hb s ts h
  unfold telling
  simp only []
  split
  · exact hok
  · simp [hok]

theorem memOk_runWord {s b x h a body} (hb : BodyOk body) (hok : s.memOk = true) : (runWord s b x h a body).memOk = true := by
  have hact := hb s (activeOf s x h) hok
  unfold runWord
  simp only []
  repeat' split
  all_goals simp [memOk_mk, hok, hact]

theorem memOk_assayWord {s b x h a body} (hb : BodyOk body) (hok : s.memOk = true) :
    (assayWord s b x h a body).memOk = true := by
  unfold assayWord
  simp only []
  split
  · simp [hok]
  · split
    · exact hok
    · split
      · exact memOk_runWord hb (by simp [hok])
      · exact memOk_finishWord (by simp [hok])

theorem outOk_issueWord {s h a body} (hok : s.memOk = true) (hb : BodyOk body) : OutOk (issueWord s h a body) := by
  unfold issueWord
  split
  · exact outOk_refused
  · split
    · exact outOk_refused
    · simp only []
      refine outOk_ite ?_ (outOk_ite ?_ (outOk_ite ?_ (outOk_ite (outOk_ite ?_ (outOk_ite ?_ ?_)) ?_)))
      all_goals rw [outOk_next]
      · exact hok
      · split <;> simp [hok]
      · split <;> simp [hok]
      · simp [hok]
      · exact memOk_assayWord hb hok
      · exact memOk_runWord (bodyOk_telling hb) hok
      · exact memOk_runWord hb hok

theorem bodyOk_fixedLanes {f} : BodyOk (fixedLanes f) := by
  intro s ts h
  simp [fixedLanes, h]

theorem bodyOk_varLanes {dc f} : BodyOk (varLanes dc f) := by
  intro s ts h
  simp [varLanes, h]

@[simp] theorem memOk_jump {s t pc} (h : s.memOk = true) : (jump s t pc).memOk = true := by
  unfold jump
  simp [h]

@[simp] theorem memOk_block {s t x w} : (block s t x w).memOk = s.memOk := by rfl

@[simp] theorem memOk_newTag {s f} : (State.newTag s f).1.memOk = s.memOk := by rfl

@[simp] theorem memOk_postFaults {s ctx type unit who tag gs} (h : s.memOk = true) :
    (postFaults s ctx type unit who tag gs).memOk = true := by
  unfold postFaults
  refine memOk_foldl (fun s a h => ?_) ?_
  · simp [h]
  · simp [h]

@[simp] theorem memOk_parkThreads {s ts widx type unit gs} (h : s.memOk = true) :
    (parkThreads s ts widx type unit gs).memOk = true := by
  unfold parkThreads
  split <;> simp [h]

@[simp] theorem memOk_retryThread {s t} (h : s.memOk = true) : (retryThread s t).memOk = true := by
  unfold retryThread
  simp [h]

end Sys2Proof.Machine
end

section
/-!
SUPPORT. Canonical memories: control flow and pending operations.
-/
namespace Sys2Proof.Machine

-- One theorem at a time: elaborating them side by side costs a thread stack each, and the text compiles under a memory limit.
set_option Elab.async false

theorem bodyOk_branchLanes {f reg use} : BodyOk (branchLanes f reg use) := by
  intro s ts h
  refine memOk_foldl_via WordOut.s (fun o t h => ?_) h
  simp only []
  repeat' split
  all_goals simp [h]

theorem outOk_execBra {hd wofs s} (h : s.memOk = true) : OutOk (execBra hd wofs s) := outOk_issueWord h bodyOk_branchLanes

theorem outOk_execBraCons {hd wofs s} (h : s.memOk = true) : OutOk (execBraCons hd wofs s) :=
  outOk_issueWord h fun _ _ h => bodyOk_branchLanes _ _ h

theorem outOk_execBrx {hd a s} (h : s.memOk = true) : OutOk (execBrx hd a s) := outOk_issueWord h bodyOk_branchLanes

@[simp] theorem memOk_journalLine {s cid pa} : (State.journalLine s cid pa).memOk = s.memOk := by
  unfold State.journalLine
  simp

/-- What may come of an access to the call state. -/
def StackOk (o : StackOut) : Prop := ∀ s e, o = .ok s e → s.memOk = true

@[simp] theorem stackOk_ok {s e} :
    StackOk (.ok s e) ↔ s.memOk = true := ⟨fun h => h s e rfl, fun h _ _ ht => by cases ht; exact h⟩
@[simp] theorem stackOk_trap {i} : StackOk (.trap i) := fun _ _ h => by cases h
@[simp] theorem stackOk_park {va} : StackOk (.park va) := fun _ _ h => by cases h

theorem stackOk_stackAccess {s t k val} (h : s.memOk = true) : StackOk (stackAccess s t k val) := by
  unfold stackAccess
  split
  · cases val <;> simp [h]
  · simp only []
    split
    · cases val <;> simp [h]
    · exact stackOk_trap
    · exact stackOk_park

theorem stackOk_callOne {s t ret} (h : s.memOk = true) : StackOk (callOne s t ret) := by
  unfold callOne
  simp only []
  split
  · exact stackOk_trap
  · split
    · simp [h]
    · split
      · rename_i s' e hs
        simp [stackOk_stackAccess h s' e hs]
      · exact stackOk_stackAccess h

@[simp] theorem memOk_parkEach {s xs type} (h : s.memOk = true) : (parkEach s xs type).memOk = true := by
  unfold parkEach
  refine memOk_foldl (fun s a h => ?_) ?_
  · simp [h]
  · simp [h]

theorem bodyOk_callLanes {f reg use} : BodyOk (callLanes f reg use) := by
  intro s ts h
  unfold callLanes
  refine memOk_parkEach (memOk_foldl_via (fun o : WordOut × List (Nat × Nat) => o.1.s) (fun o t h => ?_) h)
  simp only []
  split
  · exact h
  · split
    · rename_i s' e hs
      exact memOk_jump (stackOk_callOne h s' e hs)
    · exact h
    · exact h

theorem outOk_execCall {hd wofs s} (h : s.memOk = true) : OutOk (execCall hd wofs s) := outOk_issueWord h bodyOk_callLanes

theorem outOk_execCallx {hd a s} (h : s.memOk = true) : OutOk (execCallx hd a s) := outOk_issueWord h bodyOk_callLanes

theorem stackOk_retEntry {s t} (h : s.memOk = true) : StackOk (retEntry s t) := by
  unfold retEntry
  split
  · simp [h]
  · exact stackOk_stackAccess h

theorem outOk_execRet {hd s} (h : s.memOk = true) : OutOk (execRet hd s) := by
  refine outOk_issueWord h fun s ts h => ?_
  refine memOk_ite_of (memOk_parkEach (memOk_foldl_via (fun o : WordOut × List (Nat × Nat) => o.1.s) (fun o t h => ?_) h)) memOk_endThreads
  split
  · rename_i s' e hs
    have hok := stackOk_retEntry h s' e hs
    simp only []
    split
    · exact h
    · exact memOk_jump (by rw [memOk_updThr]; exact hok)
  · exact h
  · exact h

theorem outOk_execExit {hd s} (h : s.memOk = true) : OutOk (execExit hd s) := by
  unfold execExit
  refine outOk_issueWord h fun s ts h => ?_
  simp [h]

theorem outOk_execNop {hd s} (h : s.memOk = true) : OutOk (execNop hd s) := by
  unfold execNop
  refine outOk_issueWord h fun s ts h => ?_
  simp [h]

theorem outOk_execDbnz {hd a wofs s} (h : s.memOk = true) : OutOk (execDbnz hd a wofs s) := by
  unfold execDbnz
  refine outOk_issueWord h fun s ts h => ?_
  simp +contextual [memOk_foldl, h]

theorem outOk_execJoin {hd b s} (h : s.memOk = true) : OutOk (execJoin hd b s) := by
  unfold execJoin
  refine outOk_issueWord h fun s ts h => ?_
  simp +contextual [memOk_foldl, h]

theorem outOk_execYield {hd s} (h : s.memOk = true) : OutOk (execYield hd s) := by
  unfold execYield
  refine outOk_issueWord h fun s ts h => ?_
  simp +contextual [memOk_foldl, h]

theorem outOk_execPrio {hd b s} (h : s.memOk = true) : OutOk (execPrio hd b s) := by
  unfold execPrio
  refine outOk_issueWord h fun s ts h => ?_
  simp [h]

@[simp] theorem memOk_updPend {s id f} : (State.updPend s id f).memOk = s.memOk := by rfl

@[simp] theorem memOk_finish {s id ws} : (State.finish s id ws).memOk = s.memOk := by rfl

@[simp] theorem memOk_sweep {s} : (State.sweep s).memOk = s.memOk := by
  unfold State.sweep
  simp [memOk_mk]

@[simp] theorem memOk_noteHeld {s a old} : (noteHeld s a old).memOk = s.memOk := by
  unfold noteHeld
  simp [memOk_mk]

@[simp] theorem memOk_writeSpace {s t a bs hs} (h : s.memOk = true) : (writeSpace s t a bs hs).memOk = true := by
  unfold writeSpace
  split <;> simp [h]

@[simp] theorem memOk_performOp {s p} (h : s.memOk = true) : (performOp s p).memOk = true := by
  unfold performOp
  split <;> simp [h]

@[simp] theorem memOk_updateCopy {s t a data} : (updateCopy s t a data).memOk = s.memOk := by
  unfold updateCopy
  simp only []
  split <;> simp [memOk_mk]

@[simp] theorem memOk_stampStore {s p a} : (stampStore s p a).memOk = s.memOk := by
  unfold stampStore
  simp [memOk_mk]

@[simp] theorem memOk_revealStore {s p upto} : (revealStore s p upto).memOk = s.memOk := by
  unfold revealStore
  split <;> simp

@[simp] theorem memOk_retireCounter {t dc n s} : (retireCounter t dc s n).memOk = s.memOk := by
  induction n generalizing s with
  | zero => rfl
  | succ n ih =>
    rw [retireCounter]
    split
    · split
      · exact ih.trans memOk_updPend
      · rfl
    · rfl

@[simp] theorem memOk_landWrites {s p} : (landWrites s p).memOk = s.memOk := by
  unfold landWrites
  split <;> simp [memOk_mk]

@[simp] theorem memOk_landOp {s id} (h : s.memOk = true) : (landOp s id).memOk = true := by
  unfold landOp
  split <;> simp [h]

@[simp] theorem memOk_addOp {s t dc op dests} : (State.addOp s t dc op dests).memOk = s.memOk := by rfl

@[simp] theorem outOk_idle {e} : OutOk (idle e) := outOk_refused

end Sys2Proof.Machine
end

section
/-!
SUPPORT. Canonical memories: accesses to memory, and the words that enter them.
-/
namespace Sys2Proof.Machine

-- One theorem at a time: elaborating them side by side costs a thread stack each, and the text compiles under a memory limit.
set_option Elab.async false

@[simp] theorem memOk_noteLanes {s ts ea size} : (noteLanes s ts ea size).memOk = s.memOk := by
  unfold noteLanes
  simp

theorem memOk_mixCheck {s t pa size strong x} (h : mixCheck s t pa size strong = some x) : x.memOk = s.memOk := by
  unfold mixCheck at h
  simp only [] at h
  repeat' split at h
  all_goals cases h
  all_goals simp

@[simp] theorem memOk_mixLanes {s g size strong} : (mixLanes s g size strong).1.memOk = s.memOk := by
  refine memOk_foldl_fst_eq fun w r => ?_
  split
  · rename_i x hx
    exact memOk_mixCheck hx
  · rfl

@[simp] theorem memOk_endInterval {s ts} : (endInterval s ts).memOk = s.memOk := by
  unfold endInterval
  simp

@[simp] theorem memOk_addAccess {s t dc a op ds} : (State.addAccess s t dc a op ds).memOk = s.memOk := by
  unfold State.addAccess
  simp

@[simp] theorem memOk_poisonLane {s t dc va d n} : (poisonLane s t dc va d n).memOk = s.memOk := by
  unfold poisonLane
  simp

theorem outOk_loadWord {size signed hd d m s} (h : s.memOk = true) : OutOk (loadWord size signed hd d m s) := by
  unfold loadWord
  refine outOk_issueWord h fun s ts h => ?_
  simp only []
  refine memOk_foldl (fun s t h => ?_) ?_
  · repeat' split
    all_goals simp [h]
  · simp [h]

@[simp] theorem memOk_parkAll {s ts g type size} (h : s.memOk = true) : (parkAll s ts g type size).memOk = true := by
  unfold parkAll
  simp [h]

@[simp] theorem memOk_storeCopy {s id} (h : s.memOk = true) : (storeCopy s id).memOk = true := by
  unfold storeCopy
  repeat' split
  all_goals simp [memOk_mk, h]

theorem outOk_writeWord {size type n kind rmw hd d m dst ofs mk s} (h : s.memOk = true) :
    OutOk (writeWord size type n kind rmw hd d m dst ofs mk s) := by
  refine outOk_issueWord h fun s ts h => ?_
  simp only []
  split
  · simp [h]
  · refine memOk_foldl (fun s' r h => ?_) ?_
    · exact memOk_storeCopy (by simp [h])
    · rw [memOk_noteLanes]
      split <;> simp [h]

theorem outOk_storeWord {size hd d m s} (h : s.memOk = true) : OutOk (storeWord size hd d m s) := by
  unfold storeWord
  exact outOk_writeWord h

theorem outOk_atomWord {size f hd d m s} (h : s.memOk = true) : OutOk (atomWord size f hd d m s) := by
  unfold atomWord
  exact outOk_writeWord h

theorem outOk_casWord {size hd d m s} (h : s.memOk = true) : OutOk (casWord size hd d m s) := by
  unfold casWord
  exact outOk_writeWord h

theorem outOk_redWord {size hd op d m s} (h : s.memOk = true) : OutOk (redWord size hd op d m s) := by
  unfold redWord
  exact outOk_writeWord h

theorem outOk_scratchWord {size n clus mcast rd wr irrev hd d m dst mk s} (h : s.memOk = true) :
    OutOk (scratchWord size n clus mcast rd wr irrev hd d m dst mk s) := by
  unfold scratchWord
  refine outOk_issueWord h fun s ts h => ?_
  simp only []
  refine memOk_foldl (fun s t h => ?_) ?_
  · repeat' split
    all_goals simp [h]
  · simp [h]

theorem outOk_scratchLoad {size signed clus hd d m s} (h : s.memOk = true) : OutOk (scratchLoad size signed clus hd d m s) := by
  unfold scratchLoad
  exact outOk_scratchWord h

theorem outOk_scratchStore {size clus hd d m s} (h : s.memOk = true) : OutOk (scratchStore size clus hd d m s) := by
  unfold scratchStore
  exact outOk_scratchWord h

theorem outOk_scratchAtom {f hd d m s} (h : s.memOk = true) : OutOk (scratchAtom f hd d m s) := by
  unfold scratchAtom
  exact outOk_scratchWord h

theorem outOk_scratchCas {hd d m s} (h : s.memOk = true) : OutOk (scratchCas hd d m s) := by
  unfold scratchCas
  exact outOk_scratchWord h

theorem outOk_ldcWord {size hd d m s} (h : s.memOk = true) : OutOk (ldcWord size hd d m s) := by
  unfold ldcWord
  refine outOk_issueWord h fun s ts h => ?_
  simp only []
  refine memOk_foldl (fun s t h => ?_) ?_
  · repeat' split
    all_goals simp [h]
  · simp [h]

theorem memOk_mixEntries {s t es x} (h : mixEntries s t es = .ok x) : x.memOk = s.memOk := by
  have hfold : ∀ (l : List McasEntry) (r : Except TrapInfo State), (∀ y, r = .ok y → y.memOk = s.memOk) →
      ∀ y, l.foldl (fun r e => r.bind fun s' =>
        match mixCheck s' t e.pa e.size true with
        | some x => .ok x
        | none => .error { trap := .mixsize, addr := e.va }) r = .ok y → y.memOk = s.memOk := by
    intro l
    induction l with
    | nil => exact fun r hr y hy => hr y hy
    | cons e l ih =>
      refine fun r hr => ih _ fun y hy => ?_
      cases r with
      | error i => cases hy
      | ok s' =>
        have hy : (match mixCheck s' t e.pa e.size true with
          | some x => .ok x
          | none => .error { trap := .mixsize, addr := e.va } : Except TrapInfo State) = .ok y := hy
        split at hy
        · rename_i x hx
          cases hy
          exact (memOk_mixCheck hx).trans (hr s' rfl)
        · cases hy
  exact hfold es (.ok s) (fun y hy => by cases hy; rfl) x h

@[simp] theorem memOk_noteMcas {s t ea} : (noteMcas s t ea).memOk = s.memOk := by
  unfold noteMcas
  simp

theorem outOk_execMcas {hd d m s} (h : s.memOk = true) : OutOk (execMcas hd d m s) := by
  refine outOk_issueWord h fun s ts h => ?_
  split
  · exact h
  · refine memOk_foldl_via WordOut.s (fun o t h => ?_) h
    simp only []
    split
    · exact h
    · simp [h]
    · split
      · exact h
      · rename_i s' hs
        have hok := memOk_mixEntries hs
        simp [hok, h]

theorem outOk_execFence {hd sc od strict s} (h : s.memOk = true) : OutOk (execFence hd sc od strict s) := by
  unfold execFence
  refine outOk_issueWord h fun s ts h => ?_
  simp [h]

theorem outOk_execCctl {hd inv pg m s} (h : s.memOk = true) : OutOk (execCctl hd inv pg m s) := by
  unfold execCctl
  refine outOk_issueWord h fun s ts h => ?_
  simp only []
  split <;> simp [h]

theorem outOk_execPref {hd m s} (h : s.memOk = true) : OutOk (execPref hd m s) := by
  unfold execPref
  refine outOk_issueWord h fun s ts h => ?_
  simp only []
  refine memOk_foldl (fun s t h => ?_) ?_
  · repeat' split
    all_goals simp [h]
  · simp [h]

theorem outOk_execPtst {hd pd mw a s} (h : s.memOk = true) : OutOk (execPtst hd pd mw a s) := by
  unfold execPtst
  exact outOk_issueWord h bodyOk_fixedLanes

theorem outOk_execPclr {hd mw a s} (h : s.memOk = true) : OutOk (execPclr hd mw a s) := by
  unfold execPclr
  exact outOk_issueWord h bodyOk_fixedLanes

end Sys2Proof.Machine
end

section
/-!
SUPPORT. Canonical memories: roll back, and coherence at the homes.
-/
namespace Sys2Proof.Machine

-- One theorem at a time: elaborating them side by side costs a thread stack each, and the text compiles under a memory limit.
set_option Elab.async false

@[simp] theorem memOk_postBillet {s k code kind addr} (h : s.memOk = true) : (postBillet s k code kind addr).memOk = true := by
  unfold postBillet
  repeat' split
  all_goals simp [h]

theorem memOk_accBytes {s : State} {a bs} (h : s.memOk = true) :
    ({ s with acc := Memory.writeBytes s.acc a bs } : State).memOk = true := by
  obtain ⟨hmem, hscratch, hacc, hbook⟩ := (memOk_iff s).1 h
  exact (memOk_iff _).2 ⟨hmem, hscratch, Memory.wf_writeBytes _ _ hacc, hbook⟩

@[simp] theorem memOk_undoEntry {s e} (h : s.memOk = true) : (undoEntry s e).memOk = true := by
  unfold undoEntry
  split
  · rw [memOk_foldl_eq fun s t => by split <;> simp]
    exact h
  · exact memOk_writeScratch h
  · exact memOk_accBytes h
  · exact memOk_performWrite h

@[simp] theorem memOk_recheckObjects {s b n} (h : s.memOk = true) : (recheckObjects s b n).memOk = true := by
  refine memOk_wakeWaitv (memOk_foldl (fun s o h => ?_) h)
  split <;> simp [h]

@[simp] theorem memOk_cancel {s gone} : (State.cancel s gone).memOk = s.memOk := by rfl

@[simp] theorem memOk_rollback {s k code kind addr} (h : s.memOk = true) : (rollback s k code kind addr).memOk = true := by
  unfold rollback
  split
  · exact h
  · split
    · exact h
    · refine memOk_foldl (fun s c h => by simp [h]) (memOk_postBillet (memOk_recheckObjects ?_))
      have hundo : ∀ (l : List JEntry) (s : State), s.memOk = true → (l.foldl undoEntry s).memOk = true :=
        fun l s h => memOk_foldl (fun _ _ h => memOk_undoEntry h) h
      rw [memOk_updBillet]
      refine Eq.trans (memOk_foldl_eq fun s e => memOk_updThr) (hundo _ _ ?_)
      rw [memOk_mk, memOk_fields, memOk_cancel, memOk_leave]
      exact h

@[simp] theorem memOk_ueccEnd {s k kind addr} (h : s.memOk = true) : (ueccEnd s k kind addr).memOk = true := by
  unfold ueccEnd
  split <;> simp [h]

@[simp] theorem memOk_consumeBy {s k kind a} (h : s.memOk = true) : (consumeBy s k kind a).memOk = true := by
  unfold consumeBy
  simp [h]

@[simp] theorem memOk_dropError {s e} : (State.dropError s e).memOk = s.memOk := by
  unfold State.dropError
  simp [memOk_mk]

@[simp] theorem memOk_markBad {s line kind} : (State.markBad s line kind).memOk = s.memOk := by rfl

@[simp] theorem memOk_dropOp {s id} (h : s.memOk = true) : (dropOp s id).memOk = true := by
  unfold dropOp
  simp [h]

@[simp] theorem memOk_consumeFor {s p kind a} (h : s.memOk = true) : (consumeFor s p kind a).memOk = true := by
  unfold consumeFor
  simp [h]

theorem outOk_orConsume {s p f} (h : s.memOk = true) (hf : OutOk f) : OutOk (orConsume s p f) := by
  unfold orConsume
  split
  · exact hf
  · split
    · simp [h]
    · exact hf

@[simp] theorem memOk_updPort {s p f} : (State.updPort s p f).memOk = s.memOk := by rfl

@[simp] theorem memOk_countAccess {s tenant pa} (h : s.memOk = true) : (countAccess s tenant pa).memOk = true := by
  unfold countAccess
  simp only []
  split
  · exact h
  · split
    · exact h
    · split
      · exact h
      · split <;> simp [memOk_mk, h]

@[simp] theorem memOk_sampleRange {s pa} : (sampleRange s pa).memOk = s.memOk := by
  unfold sampleRange
  simp only []
  split <;> simp [memOk_mk]

@[simp] theorem memOk_writeBack {s line} (h : s.memOk = true) : (writeBack s line).memOk = true := by
  unfold writeBack
  split <;> simp [h]

@[simp] theorem memOk_atHome {s ctx proto pa write} (h : s.memOk = true) : (atHome s ctx proto pa write).memOk = true := by
  unfold atHome
  simp [h]

@[simp] theorem memOk_queueUp {s line id} : (State.queueUp s line id).memOk = s.memOk := by
  unfold State.queueUp
  simp

@[simp] theorem memOk_unqueue {s line id} : (State.unqueue s line id).memOk = s.memOk := by
  unfold State.unqueue
  simp

@[simp] theorem memOk_sendProbe {s line agent inval} : (sendProbe s line agent inval).memOk = s.memOk := by
  unfold sendProbe
  simp [memOk_mk]

@[simp] theorem memOk_dirRequest {s line agent write mask} : (dirRequest s line agent write mask).1.memOk = s.memOk := by
  unfold dirRequest
  simp only []
  repeat' split
  all_goals simp

@[simp] theorem memOk_dirRecall {s line} : (dirRecall s line).1.memOk = s.memOk := by
  unfold dirRecall
  repeat' split
  all_goals simp

theorem outOk_execCoreProbe {line agent s} (h : s.memOk = true) : OutOk (execCoreProbe line agent s) := by
  unfold execCoreProbe
  split <;> simp [memOk_mk, h]

@[simp] theorem memOk_probeDone {s line agent inval} : (probeDone s line agent inval).memOk = s.memOk := by rfl

theorem outOk_execProbeAck {line agent s} (h : s.memOk = true) : OutOk (execProbeAck line agent s) := by
  unfold execProbeAck
  split <;> simp [h]

theorem outOk_execHomeEvictNotice {line agent s} (h : s.memOk = true) : OutOk (execHomeEvictNotice line agent s) := by
  unfold execHomeEvictNotice
  simp only []
  repeat' split
  all_goals simp [h]

theorem outOk_execProbeTimeout {line agent s} (h : s.memOk = true) : OutOk (execProbeTimeout line agent s) := by
  have hback : ∀ (l : List Nat) (mask : BitVec 128) (copy : List Byte) (s : State), s.memOk = true → (l.foldl (fun s k =>
      if mask.getLsbD k then s.writePa (128 * line + k) [copy.getD k 0] else s) s).memOk = true := fun l mask copy s h =>
    memOk_foldl (fun s k h => by split <;> simp [h]) h
  unfold execProbeTimeout
  split
  · exact outOk_idle
  · simp only []
    refine outOk_ite outOk_idle (outOk_ite (outOk_next.2 (by simp [memOk_mk, h])) (outOk_next.2 ?_))
    rw [memOk_mk, memOk_fields]
    refine memOk_probeDone.trans ?_
    split
    · split
      · exact hback _ _ _ _ h
      · exact h
    · split
      · exact hback _ _ _ _ h
      · exact h
    · exact h

@[simp] theorem memOk_noteLease {s line ctx} : (noteLease s line ctx).memOk = s.memOk := by rfl

@[simp] theorem memOk_grantLease {s agent line ctx} : (grantLease s agent line ctx).memOk = s.memOk := by
  unfold grantLease
  simp [memOk_mk]

theorem outOk_execSliceRebase {home s} (h : s.memOk = true) : OutOk (execSliceRebase home s) := by
  unfold execSliceRebase
  simp only []
  repeat' split
  all_goals simp [memOk_mk, h]

@[simp] theorem memOk_dropCopy {s agent line} (h : s.memOk = true) : (dropCopy s agent line).memOk = true := by
  unfold dropCopy
  simp [memOk_mk, h]

theorem outOk_execSelfCopyExpire {agent line s} (h : s.memOk = true) : OutOk (execSelfCopyExpire agent line s) := by
  unfold execSelfCopyExpire
  repeat' split
  all_goals simp [h]

theorem outOk_execCoreLeaseRebase {core s} (h : s.memOk = true) : OutOk (execCoreLeaseRebase core s) := by
  refine outOk_ite outOk_idle (outOk_next.2 ?_)
  rw [memOk_updCore, memOk_mk, memOk_fields]
  exact memOk_foldl (fun _ _ h => memOk_dropCopy h) h

theorem outOk_execCoreTimeCheck {core fast slow s} (h : s.memOk = true) : OutOk (execCoreTimeCheck core fast slow s) := by
  refine outOk_ite outOk_idle (outOk_next.2 ?_)
  rw [memOk_updCore]
  split
  · exact memOk_foldl (fun _ _ h => memOk_dropCopy h) h
  · exact h

@[simp] theorem memOk_gainHold {s k proto ctx dom line} : (gainHold s k proto ctx dom line).memOk = s.memOk := by rfl

@[simp] theorem memOk_noteRecall {s p l} : (noteRecall s p l).memOk = s.memOk := by
  unfold noteRecall
  simp

@[simp] theorem memOk_noteMiss {s p a} : (noteMiss s p a).memOk = s.memOk := by
  unfold noteMiss
  simp

@[simp] theorem memOk_dirFetch {s line} : (dirFetch s line).1.memOk = s.memOk := by
  unfold dirFetch
  repeat' split
  all_goals simp

/-- What may come of a request at a home. -/
def ServeOk : Serve → Prop
  | .no => True
  | .wait s => s.memOk = true
  | .yes s => s.memOk = true

theorem serveOk_ite {c : Prop} [Decidable c] {a b : Serve} (ha : ServeOk a) (hb : ServeOk b) :
    ServeOk (if c then a else b) := by
  split
  · exact ha
  · exact hb

theorem serveOk_queued {s line p} (h : s.memOk = true) : ServeOk (Serve.queued s line p) :=
  serveOk_ite trivial (by simp [ServeOk, h])

theorem serveOk_serveAt {s p a f} (h : s.memOk = true) (hf : ∀ s : State, s.memOk = true → (f s).1.memOk = true) :
    ServeOk (serveAt s p a f) := by
  refine serveOk_ite trivial (serveOk_ite (serveOk_queued h) (serveOk_ite ?_ ?_))
  · simp [ServeOk, hf s h]
  · simp [ServeOk, hf s h]

theorem serveOk_serveRead {s p a} (h : s.memOk = true) : ServeOk (serveRead s p a) := by
  unfold serveRead
  simp only []
  split
  · refine serveOk_ite (serveOk_ite h trivial) (serveOk_serveAt h fun s h => ?_)
    split <;> simp [h]
  · refine serveOk_ite (serveOk_ite h trivial) (serveOk_ite trivial (serveOk_ite (serveOk_ite (serveOk_queued h) trivial)
      (serveOk_serveAt h fun s h => ?_)))
    split <;> simp [h]
  · exact serveOk_serveAt h fun s h => h

theorem serveOk_serveSelf {s p a} (h : s.memOk = true) : ServeOk (serveSelf s p a) :=
  serveOk_ite trivial (serveOk_ite (serveOk_ite trivial (serveOk_ite (serveOk_queued h) (by simp [ServeOk, h])))
    (serveOk_serveAt h fun s h => h))

theorem serveOk_serveWrite {s p a} (h : s.memOk = true) : ServeOk (serveWrite s p a) := by
  unfold serveWrite
  simp only []
  split
  · refine serveOk_serveAt h fun s h => ?_
    split <;> simp [h]
  · exact serveOk_serveSelf h
  · exact serveOk_serveAt h fun s h => h

theorem serveOk_serveAtomic {s p a} (h : s.memOk = true) : ServeOk (serveAtomic s p a) := by
  unfold serveAtomic
  simp only []
  split
  · exact serveOk_ite (serveOk_ite h trivial) (serveOk_serveAt h fun s h => by simp [h])
  · exact serveOk_serveSelf h
  · exact serveOk_serveAt h fun s h => h

theorem outOk_serve {e r f} (h : ServeOk r) (hf : ∀ s : State, s.memOk = true → (f s).memOk = true) :
    OutOk (Serve.out e r f) := by
  cases r with
  | no => exact outOk_idle
  | wait s => exact outOk_next.2 h
  | yes s => exact outOk_next.2 (hf s h)

@[simp] theorem memOk_performAt {id s} (h : s.memOk = true) : (performAt id s).memOk = true := by
  unfold performAt
  split
  · exact h
  · split
    · simp [h]
    · exact memOk_completeAll (memOk_raiseWatches (by simp [h]))

theorem outOk_execHomeReadRequest {id s} (h : s.memOk = true) : OutOk (execHomeReadRequest id s) := by
  unfold execHomeReadRequest
  split
  · exact outOk_idle
  · split
    · exact outOk_ite outOk_idle (outOk_serve (serveOk_serveRead h) fun s h => memOk_performAt h)
    · refine outOk_ite outOk_idle (outOk_ite (by simp [h]) (outOk_serve (serveOk_serveRead h) fun s h => by simp [h]))
    · exact outOk_idle

theorem outOk_execHomeWriteRequest {id s} (h : s.memOk = true) : OutOk (execHomeWriteRequest id s) := by
  unfold execHomeWriteRequest
  split
  · exact outOk_idle
  · split
    · exact outOk_ite outOk_idle (outOk_serve (serveOk_serveWrite h) fun s h => memOk_performAt h)
    · exact outOk_idle

theorem outOk_execCrucibleAtomic {id s} (h : s.memOk = true) : OutOk (execCrucibleAtomic id s) := by
  unfold execCrucibleAtomic
  split
  · exact outOk_idle
  · split
    · exact outOk_ite outOk_idle (outOk_serve (serveOk_serveAtomic h) fun s h => memOk_performAt h)
    · exact outOk_ite outOk_idle (outOk_serve (serveOk_serveAtomic h) fun s h => memOk_performAt h)
    · exact outOk_idle

theorem outOk_execSelfWritePerform {line s} (h : s.memOk = true) : OutOk (execSelfWritePerform line s) :=
  outOk_ite outOk_idle (outOk_next.2 (memOk_foldl (fun _ _ h => memOk_performAt h) (memOk_updHome.trans h)))

@[simp] theorem memOk_unlockAll {s id} : (unlockAll s id).memOk = s.memOk := by rfl

@[simp] theorem memOk_mcasCommit {s p es dst} (h : s.memOk = true) : (mcasCommit s p es dst).memOk = true := by
  unfold mcasCommit
  simp only []
  rw [memOk_unlockAll, memOk_finish]
  split
  · exact memOk_foldl (fun s e h => by simp [h]) (memOk_readDone.trans h)
  · exact memOk_readDone.trans h

theorem outOk_execMcasLocksHeld {id s} (h : s.memOk = true) : OutOk (execMcasLocksHeld id s) := by
  unfold execMcasLocksHeld
  split
  · exact outOk_idle
  · split
    · split
      · exact outOk_idle
      · refine outOk_orConsume h ?_
        simp only []
        have hrecall : ∀ proto l, (if proto = 0 then dirRecall s l else (s, true)).1.memOk = true := fun proto l => by
          split <;> simp [h]
        refine outOk_ite outOk_idle (outOk_ite (outOk_serve (serveOk_queued h) fun s h => h) (outOk_ite ?_ (outOk_next.2 ?_)))
        · rw [outOk_next, memOk_queueUp]
          exact hrecall _ _
        · have hlock : ∀ proto l a done, (((((atHome (if proto = 0 then dirRecall s l else (s, true)).1 a proto (128 * l) true).unqueue l id).updHome l
              fun h => { h with lock := some id }).updPend id done)).memOk = true := fun proto l a done => by
            rw [memOk_updPend, memOk_updHome, memOk_unqueue]
            exact memOk_atHome (hrecall _ _)
          exact memOk_ite_of (memOk_mcasCommit (hlock _ _ _ _)) fun _ => hlock _ _ _ _
    · exact outOk_idle

theorem outOk_mcasRetry {id stalled s} (h : s.memOk = true) : OutOk (mcasRetry id stalled s) := by
  unfold mcasRetry
  repeat' split
  all_goals simp [h]

@[simp] theorem memOk_fenceEffect {s p o sc} : (fenceEffect s p o sc).memOk = s.memOk := by
  unfold fenceEffect
  simp [memOk_mk]

theorem outOk_execFenceComplete {id s} (h : s.memOk = true) : OutOk (execFenceComplete id s) := by
  unfold execFenceComplete
  repeat' split
  all_goals simp [h]

end Sys2Proof.Machine
end

section
/-!
SUPPORT. Canonical memories: synchronisation, landing and fetching.
-/
namespace Sys2Proof.Machine

-- One theorem at a time: elaborating them side by side costs a thread stack each, and the text compiles under a memory limit.
set_option Elab.async false

@[simp] theorem memOk_recordArrival {s g t m} : (recordArrival s g t m).memOk = s.memOk := by
  unfold recordArrival
  simp

@[simp] theorem memOk_arriveOne {s g t m} (h : s.memOk = true) : (arriveOne s g t m).1.memOk = true := by
  unfold arriveOne
  split
  · exact h
  · split
    · exact h
    · split
      · exact h
      · simp only []
        split
        · simp [h]
        · rw [memOk_recordArrival, memOk_carry]
          split <;> simp [h]

@[simp] theorem memOk_observe {s g t} : (State.observe s g t).memOk = s.memOk := by
  unfold State.observe
  simp

theorem outOk_arriveWord {f bb hd hn d b s} (h : s.memOk = true) : OutOk (arriveWord f bb hd hn d b s) := by
  refine outOk_issueWord h fun s ts h => memOk_out_ite h ?_
  cases f with
  | sync =>
    refine memOk_foldl (fun s g h => memOk_evalPhase h)
      (memOk_foldl_via (Prod.fst : State × List (Nat × Arrive) → State) (fun w t h => ?_) h)
    simp only []
    split <;> simp [h]
  | arv | arvc =>
    refine Eq.trans (memOk_foldl_eq fun s p => ?_) (memOk_foldl (fun s g h => memOk_evalPhase h)
      (memOk_foldl_via (Prod.fst : State × List (Nat × Arrive) → State) (fun w t h => memOk_arriveOne h) h))
    split <;> simp

theorem outOk_waitWord {wait hd hn d a b s} (h : s.memOk = true) : OutOk (waitWord wait hd hn d a b s) := by
  unfold waitWord
  refine outOk_issueWord h fun s ts h => ?_
  simp only []
  refine memOk_foldl (fun s t h => ?_) ?_
  · repeat' split
    all_goals simp [h]
  · simp [h]

theorem outOk_execBarLeave {hd hn b s} (h : s.memOk = true) : OutOk (execBarLeave hd hn b s) := by
  refine outOk_issueWord h fun s ts h => memOk_foldl (fun s g h => by simp [h]) ?_
  rw [memOk_foldl_eq fun s' t => by split <;> simp]
  exact h

@[simp] theorem memOk_resetGroup {s g} (h : s.memOk = true) : (resetGroup s g).memOk = true := by
  unfold resetGroup
  simp [h]

theorem outOk_execBarReset {hd hn s} (h : s.memOk = true) : OutOk (execBarReset hd hn s) := by
  unfold execBarReset
  refine outOk_issueWord h fun s ts h => ?_
  simp +contextual [memOk_foldl, h]

theorem outOk_execGrpq {hd hn sel d s} (h : s.memOk = true) : OutOk (execGrpq hd hn sel d s) := by
  unfold execGrpq
  refine outOk_issueWord h fun s ts h => ?_
  simp only []
  refine memOk_foldl (fun s t h => ?_) ?_
  · repeat' split
    all_goals simp [h]
  · simp [h]

@[simp] theorem memOk_bartimeFires {s g x} (h : s.memOk = true) : (bartimeFires s g x).memOk = true := by
  unfold bartimeFires
  simp [h]

theorem outOk_execBartime {g s} (h : s.memOk = true) : OutOk (execBartime g s) := by
  unfold execBartime
  repeat' split
  all_goals simp [h]

@[simp] theorem memOk_useObj {s t key} : (useObj s t key).memOk = s.memOk := by
  unfold useObj
  simp [memOk_mk]

theorem outOk_objWord {size queue hd d n m src attr mk s} (h : s.memOk = true)
    (hmk : ∀ s s' ts t a x, s'.memOk = true → mk s s' ts t a = .ok x → x.memOk = true) :
    OutOk (objWord size queue hd d n m src attr mk s) := by
  refine outOk_issueWord h fun s ts h => memOk_foldl_via WordOut.s (fun o t h => ?_) h
  split
  · exact h
  · split
    · rename_i x hx
      exact hmk _ _ _ _ _ _ (by simp [h]) hx
    · exact h

theorem outOk_stageWord {f hd d m s} (h : s.memOk = true) : OutOk (stageWord f hd d m s) := by
  unfold stageWord
  refine outOk_objWord h fun s s' ts t a x h hx => ?_
  cases hx
  simp [h]

theorem outOk_execStgtry {hd d m s} (h : s.memOk = true) : OutOk (execStgtry hd d m s) := by
  unfold execStgtry
  refine outOk_objWord h fun s s' ts t a x h hx => ?_
  cases hx
  simp [h]

theorem outOk_execStgwait {hd d m s} (h : s.memOk = true) : OutOk (execStgwait hd d m s) := by
  unfold execStgwait
  refine outOk_objWord h fun s s' ts t a x h hx => ?_
  cases hx
  simp [h]

theorem outOk_execQinit {hd d m s} (h : s.memOk = true) : OutOk (execQinit hd d m s) := by
  unfold execQinit
  refine outOk_objWord h fun s s' ts t a x h hx => ?_
  simp only [] at hx
  split at hx
  · cases hx
  · cases hx
    simp [h]

theorem outOk_pushWord {wide hd d m s} (h : s.memOk = true) : OutOk (pushWord wide hd d m s) := by
  refine outOk_issueWord h fun s ts h => memOk_foldl_via WordOut.s (fun o t h => ?_) h
  split
  · exact h
  · split
    · exact h
    · simp [memOk_mk, h]

theorem outOk_popWord {wide hd d m s} (h : s.memOk = true) : OutOk (popWord wide hd d m s) := by
  refine outOk_issueWord h fun s ts h => memOk_foldl_via WordOut.s (fun o t h => ?_) h
  split
  · exact h
  · split
    · exact h
    · simp [memOk_mk, h]

theorem outOk_execQtrypush {hd d m s} (h : s.memOk = true) : OutOk (execQtrypush hd d m s) := by
  refine outOk_issueWord h fun s ts h => memOk_foldl_via WordOut.s (fun o t h => ?_) h
  split
  · exact h
  · split <;> simp [h]

theorem outOk_tryPopWord {peek hd d m s} (h : s.memOk = true) : OutOk (tryPopWord peek hd d m s) := by
  unfold tryPopWord
  refine outOk_objWord h fun s s' ts t a x h hx => ?_
  cases hx
  simp [h]

theorem outOk_execQcount {hd d m s} (h : s.memOk = true) : OutOk (execQcount hd d m s) := by
  unfold execQcount
  refine outOk_objWord h fun s s' ts t a x h hx => ?_
  cases hx
  simp [h]

theorem outOk_execQbreak {hd m s} (h : s.memOk = true) : OutOk (execQbreak hd m s) := by
  unfold execQbreak
  refine outOk_objWord h fun s s' ts t a x h hx => ?_
  cases hx
  simp [h]

theorem outOk_waitvWord {all hd d a b c s} (h : s.memOk = true) : OutOk (waitvWord all hd d a b c s) := by
  unfold waitvWord
  refine outOk_issueWord h fun s ts h => ?_
  simp [h]

theorem outOk_waitvTick {e t s} (h : s.memOk = true) : OutOk (waitvTick e t s) := by
  unfold waitvTick
  repeat' split
  all_goals simp [h]

theorem outOk_execMonitor {hd mn base ofs s} (h : s.memOk = true) : OutOk (execMonitor hd mn base ofs s) := by
  unfold execMonitor
  refine outOk_issueWord h fun s ts h => ?_
  simp only []
  refine memOk_foldl (fun s t h => ?_) ?_
  · repeat' split
    all_goals simp [h]
  · simp [h]

theorem outOk_execUnmonitor {hd mask s} (h : s.memOk = true) : OutOk (execUnmonitor hd mask s) := by
  unfold execUnmonitor
  refine outOk_issueWord h fun s ts h => ?_
  simp [h]

theorem outOk_execMontest {hd d s} (h : s.memOk = true) : OutOk (execMontest hd d s) := by
  unfold execMontest
  refine outOk_issueWord h fun s ts h => ?_
  simp [h]

theorem outOk_execSleep {hd b s} (h : s.memOk = true) : OutOk (execSleep hd b s) := by
  unfold execSleep
  refine outOk_issueWord h fun s ts h => ?_
  simp +contextual [memOk_foldl, h]

theorem outOk_execSleepWake {t s} (h : s.memOk = true) : OutOk (execSleepWake t s) := by
  unfold execSleepWake
  repeat' split
  all_goals simp [h]

@[simp] theorem memOk_forgetUsers {s p} : (forgetUsers s p).memOk = s.memOk := by
  unfold forgetUsers
  split <;> rfl

@[simp] theorem memOk_objActs {s p} : (objActs s p).memOk = s.memOk := by
  unfold objActs
  repeat' split
  all_goals simp

theorem memOk_foldl_probeDone {l} {f : Nat → Nat → Bool} (as : List Nat) {s} (h : s.memOk = true) :
    (as.foldl (fun s a => probeDone (loseLine s l (f a)) l a true) s).memOk = true :=
  memOk_foldl (fun _ _ h => by simp [h]) h

@[simp] theorem memOk_cctlLine {t inv lvl s l} (h : s.memOk = true) : (cctlLine t inv lvl s l).memOk = true := by
  unfold cctlLine
  simp only []
  refine memOk_ite_of (memOk_ite_of' ?_ fun h => memOk_foldl (fun _ _ h => memOk_dropCopy h) h) fun h => ?_
  · split
    · exact h
    · exact memOk_foldl_probeDone _ h
    · exact memOk_ite_of' h fun h => memOk_foldl_probeDone _ h
    · exact memOk_ite_of h fun h => memOk_ite_of (by simp [h]) fun _ => by simp [h]
  · refine memOk_ite_of (memOk_writeBack h) fun h => ?_
    rw [memOk_updHome, memOk_mk, memOk_fields]
    exact h

theorem someOk_performSync {s p} (h : s.memOk = true) : SomeOk (performSync s p) := by
  unfold performSync
  simp only []
  split
  · exact someOk_none
  · split
    case h_1 => simp [h]
    case h_2 => simp [h]
    case h_3 =>
      rw [someOk_some, memOk_finish]
      refine memOk_queueChanged (memOk_forgetUsers.trans (memOk_setQueue (memOk_foldl (fun s t h => ?_) (memOk_setQueue (by simp [h])))))
      split <;> simp [h]
    case h_4 =>
      split
      · simp [h]
      · split <;> simp [h]
    case h_5 =>
      split
      · simp [h]
      · split
        · simp [h]
        · rw [someOk_some, memOk_finish]
          split
          · simp [h]
          · exact memOk_queueChanged (memOk_queueDrop (by simp [h]))
    case h_6 => simp [h]
    case h_7 => simp [h]
    case h_8 =>
      rw [someOk_some]
      exact memOk_wakeWaitv (by simp [h])
    case h_9 => exact someOk_some.2 (memOk_finish.trans (memOk_foldl (fun _ _ h => memOk_cctlLine h) (memOk_objActs.trans h)))
    case h_10 => exact someOk_none

theorem someOk_performLocal {s p} (h : s.memOk = true) : SomeOk (performLocal s p) := by
  unfold performLocal
  split
  · split <;> simp [h]
  · exact someOk_performSync h

theorem someOk_waitScratch {s p} (h : s.memOk = true) : SomeOk (State.waitScratch s p) := by
  unfold State.waitScratch
  simp only []
  split
  · simp [memOk_mk, h]
  · exact someOk_none

theorem outOk_execVarlatLand {id s} (h : s.memOk = true) : OutOk (execVarlatLand id s) := by
  have hland : ∀ (o : Option State), SomeOk o → OutOk (match (o.getD s).pend? id with
      | none => .next (completeAll (o.getD s))
      | some q => if landable (o.getD s) q then .next (landOp (o.getD s) id)
        else if o.isSome then .next (o.getD s) else idle "VARLAT_LAND") := by
    intro o ho
    have hok := someOk_getD ho h
    split
    · simp [hok]
    · exact outOk_ite (by simp [hok]) (outOk_ite (by simp [hok]) outOk_idle)
  unfold execVarlatLand
  split
  · exact outOk_idle
  · refine outOk_orConsume h (hland _ ?_)
    split
    · exact someOk_none
    · split
      · exact someOk_map fun t ht => someOk_performLocal h t ht
      · exact someOk_waitScratch h

theorem outOk_execFetchClause {t s} (h : s.memOk = true) : OutOk (execFetchClause t s) := by
  unfold execFetchClause
  simp only []
  repeat' split
  all_goals simp [memOk_mk, h]

@[simp] theorem memOk_gatherPort {core port s} : (gatherPort core port s).memOk = s.memOk := by
  unfold gatherPort
  split
  · rfl
  · simp only []
    split
    · rfl
    · split
      · rfl
      · simp [memOk_mk]

theorem outOk_execGatherCycle {core s} (h : s.memOk = true) : OutOk (execGatherCycle core s) := by
  unfold execGatherCycle
  split <;> simp [memOk_mk, h]

theorem outOk_execThreadAged {t s} (h : s.memOk = true) : OutOk (execThreadAged t s) := by
  unfold execThreadAged
  simp only []
  repeat' split
  all_goals simp [h]

theorem outOk_execYieldHoldExpire {t s} (h : s.memOk = true) : OutOk (execYieldHoldExpire t s) := by
  unfold execYieldHoldExpire
  simp only []
  repeat' split
  all_goals simp [h]

theorem outOk_execHandlerStart {core c s} (h : s.memOk = true) : OutOk (execHandlerStart core c s) := by
  unfold execHandlerStart
  simp only []
  repeat' split
  all_goals simp [h]

end Sys2Proof.Machine
end

section
/-!
SUPPORT. Canonical memories: launching, and what the engines ask of lines.
-/
namespace Sys2Proof.Machine

-- One theorem at a time: elaborating them side by side costs a thread stack each, and the text compiles under a memory limit.
set_option Elab.async false

@[simp] theorem memOk_setHead {s f q h} : (setHead s f q h).memOk = s.memOk := by
  unfold setHead
  simp

@[simp] theorem memOk_advanceQueue {s f q} : (advanceQueue s f q).memOk = s.memOk := by
  unfold advanceQueue
  simp

@[simp] theorem memOk_launchError {s f q code deadline} (h : s.memOk = true) :
    (launchError s f q code deadline).memOk = true := by
  unfold launchError
  simp [h]

@[simp] theorem memOk_refusePacket {s f q code deadline} (h : s.memOk = true) :
    (refusePacket s f q code deadline).memOk = true := by
  unfold refusePacket
  simp [h]

@[simp] theorem memOk_setMissed {s f q p} : (setMissed s f q p).memOk = s.memOk := by
  unfold setMissed
  simp

@[simp] theorem memOk_giveBack {s f q} : (giveBack s f q).memOk = s.memOk := by
  unfold giveBack
  repeat' split
  all_goals simp [memOk_mk]

@[simp] theorem memOk_queueError {s f q code} (h : s.memOk = true) : (queueError s f q code).memOk = true := by
  unfold queueError
  simp [h]

theorem outOk_execLqtailWrite {f q v s} (h : s.memOk = true) : OutOk (execLqtailWrite f q v s) := by
  unfold execLqtailWrite
  split <;> simp [h]

theorem outOk_execLqctlWrite {f q v s} (h : s.memOk = true) : OutOk (execLqctlWrite f q v s) := by
  unfold execLqctlWrite
  split <;> simp [h]

theorem outOk_execAmpctlWrite {f v s} (h : s.memOk = true) : OutOk (execAmpctlWrite f v s) := by
  unfold execAmpctlWrite
  split <;> simp [h]

@[simp] theorem memOk_postMiss {s w} (h : s.memOk = true) : (postMiss s w).memOk = true := by
  unfold postMiss
  split <;> simp [h]

theorem outOk_execLaunchPacketHead {f q s} (h : s.memOk = true) : OutOk (execLaunchPacketHead f q s) := by
  unfold execLaunchPacketHead
  simp only []
  repeat' split
  all_goals simp [memOk_mk, h]

@[simp] theorem memOk_refuseHead {s f q w code} (h : s.memOk = true) : (refuseHead s f q w code).memOk = true := by
  unfold refuseHead
  simp [memOk_mk, h]

theorem outOk_execDepPoll {f q s} (h : s.memOk = true) : OutOk (execDepPoll f q s) := by
  unfold execDepPoll
  repeat' split
  all_goals simp [h]

theorem outOk_execDeadlineMiss {w s} (h : s.memOk = true) : OutOk (execDeadlineMiss w s) := by
  unfold execDeadlineMiss
  repeat' split
  all_goals simp [h]

@[simp] theorem memOk_startCrew {s cid number pos x leader} : (startCrew s cid number pos x leader).memOk = s.memOk := by
  unfold startCrew
  simp

@[simp] theorem memOk_startBillet {s w x set j core} : (startBillet s w x set j core).1.memOk = s.memOk := by
  unfold startBillet
  simp [memOk_mk]

@[simp] theorem memOk_startGroups {s w x set keys} : (startGroups s w x set keys).memOk = s.memOk := by
  refine Eq.trans (memOk_foldl_eq fun s k => ?_) (memOk_foldl_eq fun s e => ?_)
  · simp [memOk_mk]
  · simp [memOk_mk]

@[simp] theorem memOk_takeCheckpoint {s k} : (takeCheckpoint s k).memOk = s.memOk := by
  unfold takeCheckpoint
  split <;> simp

theorem memOk_placeSet {s w x t} (h : placeSet s w x = some t) : t.memOk = s.memOk := by
  obtain ⟨cores, -, rfl⟩ := Option.map_eq_some_iff.1 h
  rw [memOk_updWp, memOk_foldl_eq fun s k => memOk_takeCheckpoint, memOk_startGroups]
  exact memOk_foldl_fst_eq fun w j => memOk_startBillet

@[simp] theorem memOk_placeSets {w n s} : (placeSets w s n).memOk = s.memOk := by
  induction n generalizing s with
  | zero => rfl
  | succ n ih =>
    rw [placeSets]
    split
    · rfl
    · split
      · rfl
      · split
        · rename_i t ht
          exact ih.trans (memOk_placeSet ht)
        · rfl

@[simp] theorem memOk_enqueue {s t q im} : (enqueue s t q im).memOk = s.memOk := by
  unfold enqueue
  split <;> simp [memOk_mk]

@[simp] theorem memOk_pushLane {s0 s t q src pd} : (pushLane s0 s t q src pd).1.memOk = s.memOk := by
  unfold pushLane
  simp only []
  split
  · rfl
  · split
    · rfl
    · rw [memOk_giveRegs]
      split
      · rfl
      · split <;> simp

theorem outOk_execPush {hd q src pd s} (h : s.memOk = true) : OutOk (execPush hd q src pd s) :=
  outOk_issueWord h fun _ _ h => memOk_foldl_via WordOut.s (fun _ _ h => memOk_pushLane.trans h) h

@[simp] theorem memOk_updEngine {s id f} : (State.updEngine s id f).memOk = s.memOk := by rfl

@[simp] theorem memOk_dropEngine {s id} : (State.dropEngine s id).memOk = s.memOk := by rfl

/-- What may come of a request of an engine for lines. -/
def TakeOk : Take → Prop
  | .no => True
  | .wait s => s.memOk = true
  | .yes s => s.memOk = true

theorem takeOk_ite {c : Prop} [Decidable c] {a b : Take} (ha : TakeOk a) (hb : TakeOk b) : TakeOk (if c then a else b) := by
  split
  · exact ha
  · exact hb

theorem takeOk_of_eq {a b : Take} (h : a = b) (ha : TakeOk a) : TakeOk b := h ▸ ha

theorem takeOk_queued {s line id} (h : s.memOk = true) : TakeOk (Take.queued s line id) :=
  takeOk_ite trivial (memOk_queueUp.trans h)

theorem outOk_take {e r f} (h : TakeOk r) (hf : ∀ s : State, s.memOk = true → OutOk (f s)) : OutOk (Take.out e r f) := by
  cases r with
  | no => exact outOk_idle
  | wait s => exact outOk_next.2 h
  | yes s => exact hf s h

@[simp] theorem memOk_agentServed {s ctx k proto line} (h : s.memOk = true) :
    (agentServed s ctx k proto line).memOk = true := by
  unfold agentServed
  simp [h]

@[simp] theorem memOk_engineServed {s c k proto line} (h : s.memOk = true) : (engineServed s c k proto line).memOk = true := by
  unfold engineServed
  simp [h]

theorem takeOk_takeGlobal {s c line proto} (h : s.memOk = true) : TakeOk (takeGlobal s c line proto) := by
  refine takeOk_ite (takeOk_queued h) (takeOk_ite trivial (takeOk_ite ?_ ?_))
  · simp [TakeOk, h]
  · simp [TakeOk, h]

theorem takeOk_takeScratch {s c line} (h : s.memOk = true) : TakeOk (takeScratch s c line) :=
  takeOk_ite trivial (memOk_updEngine.trans h)

theorem takeOk_takeEach {c moved s ls} (h : s.memOk = true) : TakeOk (takeEach c moved s ls) := by
  induction ls generalizing moved s with
  | nil => exact h
  | cons l ls ih =>
    have hl : TakeOk (match l.1 with | .global => takeGlobal s c l.2.1 l.2.2 | .scratch => takeScratch s c l.2.1) := by
      split
      · exact takeOk_takeGlobal h
      · exact takeOk_takeScratch h
    rw [takeEach]
    split
    · rename_i t ht
      exact ih (takeOk_of_eq ht hl)
    · rename_i t ht
      exact takeOk_of_eq ht hl
    · exact takeOk_ite h trivial

theorem takeOk_takeLines {s c gs ss} (h : s.memOk = true) : TakeOk (takeLines s c gs ss) :=
  takeOk_ite (takeOk_takeEach h) trivial

@[simp] theorem memOk_consumeAt {s k e} (h : s.memOk = true) : (consumeAt s k e).memOk = true := by
  unfold consumeAt
  simp [h]

theorem takeOk_fetchLines {s c gs} (h : s.memOk = true) : TakeOk (fetchLines s c gs) := by
  refine takeOk_ite trivial ?_
  split
  · exact memOk_consumeAt h
  · split
    · refine takeOk_ite trivial ?_
      simp [TakeOk, h]
    · exact memOk_foldl (fun _ _ h => memOk_engineServed h) h

@[simp] theorem memOk_passCommand {s unit c xs} (h : s.memOk = true) : (passCommand s unit c xs).memOk = true := by
  refine memOk_ite_of h fun h => memOk_foldl (fun _ _ h => memOk_postFault h) ?_
  simp [h]

@[simp] theorem memOk_journalOwn {s c a n} : (journalOwn s c a n).memOk = s.memOk := by
  unfold journalOwn
  split <;> simp

@[simp] theorem memOk_accountStage {s c stage bytes} (h : s.memOk = true) : (accountStage s c stage bytes).memOk = true := by
  unfold accountStage
  refine memOk_foldl (fun s a h => ?_) ?_
  · simp [h]
  · simp [h]

@[simp] theorem memOk_failCommand {s c unit code addr stage} (h : s.memOk = true) :
    (failCommand s c unit code addr stage).memOk = true := by
  refine memOk_completeAll (memOk_postEvent (memOk_dropEngine.trans (memOk_foldl (fun s a h => ?_) h)))
  exact memOk_wakeStage (memOk_markBroken (memOk_journalOwn.trans h))

@[simp] theorem memOk_cmdScratch {s c t ofs bs} (h : s.memOk = true) : (cmdScratch s c t ofs bs).memOk = true := by
  unfold cmdScratch
  simp [h]

@[simp] theorem memOk_cmdStore {s c va mask b} (h : s.memOk = true) : (cmdStore s c va mask b).memOk = true := by
  unfold cmdStore
  split <;> simp [h]

end Sys2Proof.Machine
end

section
/-!
SUPPORT. Canonical memories: the ladle and the anvil.
-/
namespace Sys2Proof.Machine

-- One theorem at a time: elaborating them side by side costs a thread stack each, and the text compiles under a memory limit.
set_option Elab.async false

theorem takeOk_takeSectors {s c m ks} (h : s.memOk = true) : TakeOk (takeSectors s c m ks) := takeOk_takeLines h

@[simp] theorem memOk_cacheMap {s c bs} : (cacheMap s c bs).memOk = s.memOk := by rfl

@[simp] theorem memOk_endIfDone {s id} (h : s.memOk = true) : (endIfDone s id).memOk = true := by
  unfold endIfDone
  split <;> simp [h]

@[simp] theorem memOk_runLadle {c m s} (h : s.memOk = true) : (runLadle c m s).memOk = true := by
  unfold runLadle
  simp [h]

theorem outOk_checkLadle {ev s c m codes} (h : s.memOk = true) : OutOk (checkLadle ev s c m codes) := by
  unfold checkLadle
  simp only []
  split
  · exact outOk_next.2 (memOk_failCommand h)
  · refine outOk_ite (outOk_next.2 (memOk_failCommand h)) (outOk_take (takeOk_takeSectors (memOk_updEngine.trans h)) fun s h => ?_)
    exact outOk_next.2 (memOk_runLadle h)

theorem outOk_issueLadle {kinds ev id s} (h : s.memOk = true) : OutOk (issueLadle kinds ev id s) := by
  unfold issueLadle
  split
  · exact outOk_idle
  · refine outOk_ite outOk_idle (outOk_ite (outOk_next.2 (memOk_failCommand h)) (outOk_ite outOk_idle (outOk_ite (outOk_checkLadle h) ?_)))
    refine outOk_take (takeOk_fetchLines h) fun s h => ?_
    split
    · exact outOk_next.2 (memOk_passCommand h)
    · exact outOk_checkLadle h
    · exact outOk_checkLadle (memOk_cacheMap.trans h)

theorem memOk_bookBytes {s : State} {a bs} (h : s.memOk = true) :
    ({ s with book := Memory.writeBytes s.book a bs } : State).memOk = true := by
  obtain ⟨hmem, hscratch, hacc, hbook⟩ := (memOk_iff s).1 h
  exact (memOk_iff _).2 ⟨hmem, hscratch, hacc, Memory.wf_writeBytes _ _ hbook⟩

@[simp] theorem memOk_doSector {s c m k} (h : s.memOk = true) : (doSector s c m k).memOk = true := by
  unfold doSector
  split
  · exact memOk_foldl (fun s a h => memOk_cmdStore h) h
  · exact memOk_bookBytes h
  · exact memOk_foldl (fun s a h => memOk_cmdScratch h) h

@[simp] theorem memOk_completeSector {c m k s} (h : s.memOk = true) : (completeSector c m k s).memOk = true :=
  memOk_endIfDone (memOk_accountStage (memOk_bumpPerf.trans (memOk_updEngine.trans (memOk_doSector h))))

theorem outOk_execLadleSectorComplete {id k s} (h : s.memOk = true) : OutOk (execLadleSectorComplete id k s) := by
  unfold execLadleSectorComplete
  simp only []
  split
  · exact outOk_idle
  · refine outOk_ite outOk_idle (outOk_ite (outOk_next.2 (memOk_failCommand h)) (outOk_ite
      (outOk_ite outOk_idle (outOk_next.2 (memOk_passCommand h))) (outOk_ite outOk_idle ?_)))
    split
    · exact outOk_next.2 (memOk_consumeAt h)
    · refine outOk_take (takeOk_takeSectors h) fun s h => outOk_take (takeOk_fetchLines h) fun s h => ?_
      exact outOk_next.2 (memOk_completeSector h)

@[simp] theorem memOk_retryLadle {s c tag} (h : s.memOk = true) : (retryLadle s c tag).memOk = true := by
  unfold retryLadle
  simp [h]

@[simp] theorem memOk_passMat {place ts s cid} : (passMat place ts s cid).memOk = s.memOk := by rfl

@[simp] theorem memOk_latchBody {h op s ts} : (latchBody h op s ts).s.memOk = s.memOk := by
  unfold latchBody
  simp

theorem outOk_matWord {hd op regs dsts s} (h : s.memOk = true) : OutOk (matWord hd op regs dsts s) := by
  unfold matWord
  refine outOk_issueWord h fun s ts h => ?_
  simp [h]

theorem outOk_execGangLatchRelease {cid s} (h : s.memOk = true) : OutOk (execGangLatchRelease cid s) := by
  unfold execGangLatchRelease
  split
  · exact outOk_idle
  · refine outOk_ite (outOk_next.2 (memOk_raise h)) (outOk_ite outOk_idle ?_)
    simp only []
    split
    · exact outOk_next.2 (memOk_raise h)
    · refine outOk_ite outOk_idle (outOk_next.2 (memOk_foldl (fun s t h => ?_) ?_))
      · exact memOk_settle (memOk_addOp.trans h)
      · rw [memOk_mk, memOk_fields, memOk_bumpPerf]
        exact h

@[simp] theorem memOk_gangfail {s ts} (h : s.memOk = true) : (gangfail s ts).memOk = true := by
  unfold gangfail
  simp [h]

theorem outOk_execGangfailTimeout {cid s} (h : s.memOk = true) : OutOk (execGangfailTimeout cid s) := by
  unfold execGangfailTimeout
  simp only []
  repeat' split
  all_goals simp [h]

@[simp] theorem memOk_accWrite {s o acc f} (h : s.memOk = true) : (accWrite s o acc f).memOk = true :=
  memOk_accBytes (Eq.trans (memOk_foldl_eq fun _ _ => memOk_journal) h)

@[simp] theorem memOk_updAnvil {s id f} : (State.updAnvil s id f).memOk = s.memOk := by rfl

@[simp] theorem memOk_deliverOp {s o done} : (deliverOp s o done).memOk = s.memOk := by rfl

@[simp] theorem memOk_storeTile {s o} (h : s.memOk = true) : (storeTile s o).memOk = true := by
  have hstage : ∀ (l : List Nat) (s : State) a u, s.memOk = true → (l.foldl (fun s _ => stageUpdate s a u) s).memOk = true :=
    fun l s a u h => memOk_foldl (fun _ _ h => memOk_stageUpdate h) h
  have htile : ∀ (l l' : List Nat) (s : State) (a : Nat → Nat → Nat) (b : Nat → Nat → List Byte), s.memOk = true →
      (l.foldl (fun s m => l'.foldl (fun s n => s.writeScratch (a m n) (b m n)) s) s).memOk = true :=
    fun l l' s a b h => memOk_foldl (fun _ _ h => memOk_foldl (fun _ _ h => memOk_writeScratch h) h) h
  unfold storeTile
  simp only []
  split
  · exact hstage _ _ _ _ (memOk_journal.trans (memOk_updAnvil.trans (htile _ _ _ _ _ (Eq.trans (memOk_foldl_eq fun _ _ => memOk_journal) h))))
  · exact memOk_updAnvil.trans (htile _ _ _ _ _ (Eq.trans (memOk_foldl_eq fun _ _ => memOk_journal) h))

@[simp] theorem memOk_applyOp {s o} (h : s.memOk = true) : (applyOp s o).memOk = true := by
  unfold applyOp
  repeat' split
  all_goals simp [h]

theorem someOk_catchUp {id s ops} (h : s.memOk = true) : SomeOk (catchUp id s ops) := by
  induction ops generalizing s with
  | nil => exact someOk_some.2 h
  | cons o ops ih =>
    rw [catchUp]
    split
    · exact someOk_some.2 h
    · split
      · exact ih h
      · split
        · exact someOk_none
        · exact ih (memOk_applyOp h)

theorem outOk_execAnvilOperandsRead {id s} (h : s.memOk = true) : OutOk (execAnvilOperandsRead id s) := by
  unfold execAnvilOperandsRead
  split
  · exact outOk_idle
  · refine outOk_ite outOk_idle ?_
    split
    · exact outOk_idle
    · rename_i s' hs
      have hok := someOk_catchUp h s' hs
      split
      · exact outOk_next.2 (memOk_consumeAt hok)
      · exact outOk_next.2 (memOk_applyOp hok)

theorem outOk_execAnvilInstrComplete {id s} (h : s.memOk = true) : OutOk (execAnvilInstrComplete id s) := by
  unfold execAnvilInstrComplete
  simp only []
  split
  · exact outOk_idle
  · refine outOk_ite outOk_idle ?_
    split
    · exact outOk_next.2 (memOk_consumeAt h)
    · refine outOk_next.2 (memOk_completeAll (memOk_sweep.trans ?_))
      rw [memOk_mk, memOk_fields]
      have hread : ∀ (c : Prop) [Decidable c] o, (if c then s else applyOp s o).memOk = true := fun c _ o =>
        memOk_ite_of h fun h => memOk_applyOp h
      split
      · split
        · exact hread _ _
        · exact memOk_ite_of' (hread _ _) fun h => memOk_storeTile h
      · exact hread _ _

theorem outOk_mmaPlain {t hd sa sb acc zs rel s} (h : s.memOk = true) : OutOk (mmaPlain t hd sa sb acc zs rel s) := by
  unfold mmaPlain
  exact outOk_matWord h

theorem outOk_mmaBlock {t hd sa sb vs vt acc zs sh rel s} (h : s.memOk = true) :
    OutOk (mmaBlock t hd sa sb vs vt acc zs sh rel s) := by
  unfold mmaBlock
  exact outOk_matWord h

theorem outOk_mdrain {k n hd d acc cg s} (h : s.memOk = true) : OutOk (mdrain k n hd d acc cg s) := by
  unfold mdrain
  exact outOk_matWord h

end Sys2Proof.Machine
end

section
/-!
SUPPORT. Canonical memories: the planishers, whose work may fail.
-/
namespace Sys2Proof.Machine

-- One theorem at a time: elaborating them side by side costs a thread stack each, and the text compiles under a memory limit.
set_option Elab.async false

/-- The work of a planisher keeps the form of the memories, and so does its failure. -/
def PlanOk {α : Type} (p : Plan α) : Prop := ∀ s : State, s.memOk = true → (p s).2.memOk = true

@[simp] theorem planOk_pure {α : Type} {a : α} : PlanOk (pure a) := fun _ h => h
@[simp] theorem planOk_throw {α : Type} {e} : PlanOk (throw e : Plan α) := fun _ h => h

theorem planOk_bind {α β : Type} {p : Plan α} {f : α → Plan β} (hp : PlanOk p) (hf : ∀ a, PlanOk (f a)) : PlanOk (p >>= f) := by
  intro s h
  have hok := hp s h
  show (ExceptT.bindCont f (p s).1 (p s).2).2.memOk = true
  cases hr : (p s).1 with
  | ok a => exact hf a _ hok
  | error e => exact hok

theorem planOk_get_bind {β : Type} {f : State → Plan β} (hf : ∀ s : State, s.memOk = true → PlanOk (f s)) :
    PlanOk (get >>= f) :=
  fun s h => hf s h s h

theorem planOk_set {s : State} (h : s.memOk = true) : PlanOk (set s) := fun _ _ => h

theorem planOk_modify {f : State → State} (hf : ∀ s : State, s.memOk = true → (f s).memOk = true) : PlanOk (modify f) :=
  fun s h => hf s h

theorem planOk_ite {α : Type} {c : Prop} [Decidable c] {p q : Plan α} (hp : PlanOk p) (hq : PlanOk q) :
    PlanOk (if c then p else q) := by
  split
  · exact hp
  · exact hq

/-- Two ways that go on alike. -/
theorem planOk_ite_bind {α β : Type} {c : Prop} [Decidable c] {p q : Plan α} {j : α → Plan β} (hp : PlanOk p) (hq : PlanOk q)
    (hj : ∀ a, PlanOk (j a)) : PlanOk (if c then p >>= j else q >>= j) :=
  planOk_ite (planOk_bind hp hj) (planOk_bind hq hj)

theorem planOk_unless {α : Type} {c : Prop} [Decidable c] {p : Plan PUnit} {j : PUnit → Plan α} (hp : PlanOk p)
    (hj : ∀ a, PlanOk (j a)) : PlanOk (if c then j () else p >>= j) :=
  planOk_ite (hj _) (planOk_bind hp hj)

theorem planOk_when {α : Type} {c : Prop} [Decidable c] {p : Plan PUnit} {j : PUnit → Plan α} (hp : PlanOk p)
    (hj : ∀ a, PlanOk (j a)) : PlanOk (if c then p >>= j else j ()) :=
  planOk_ite (planOk_bind hp hj) (hj _)

theorem planOk_guard {α β : Type} {c : Prop} [Decidable c] {p : Plan α} {q : Plan β} (hp : PlanOk p) (hq : PlanOk q) :
    PlanOk (if c then p >>= fun _ => q else q) :=
  planOk_ite (planOk_bind hp fun _ => hq) hq

theorem planOk_someThen {α : Type} {o : Option SurfBlock} {p : SurfBlock → Plan PUnit} {j : PUnit → Plan α} (hp : ∀ k, PlanOk (p k))
    (hj : ∀ a, PlanOk (j a)) : PlanOk (match o with | some k => p k >>= j | none => j ()) := by
  cases o with
  | none => exact hj _
  | some k => exact planOk_bind (hp k) hj

theorem planOk_forM {α : Type} {f : α → Plan PUnit} (hf : ∀ a, PlanOk (f a)) (l : List α) : PlanOk (l.forM f) := by
  induction l with
  | nil => exact planOk_pure
  | cons a l ih => exact planOk_bind (hf a) fun _ => ih

theorem planOk_mapM {α β : Type} {f : α → Plan β} (hf : ∀ a, PlanOk (f a)) (l : List α) : PlanOk (l.mapM f) := by
  induction l with
  | nil => exact planOk_pure
  | cons a l ih =>
    rw [List.mapM_cons]
    exact planOk_bind (hf a) fun _ => planOk_bind ih fun _ => planOk_pure

theorem planOk_attempt {α : Type} {p : Plan α} (hp : PlanOk p) : PlanOk (attempt p) := hp

@[simp] theorem planOk_planTr {w k surf va} : PlanOk (planTr w k surf va) := by
  refine planOk_get_bind fun s h => ?_
  split
  · exact planOk_ite planOk_throw planOk_pure
  · exact planOk_throw
  · exact planOk_throw

@[simp] theorem planOk_planSpan {w k surf va n} : PlanOk (planSpan w k surf va n) :=
  planOk_bind planOk_planTr fun _ => planOk_bind planOk_planTr fun _ => planOk_pure

@[simp] theorem planOk_planBytes {w pas} : PlanOk (planBytes w pas) :=
  planOk_get_bind fun _ _ => planOk_ite planOk_throw planOk_pure

@[simp] theorem planOk_planRead {w surf va n} : PlanOk (planRead w surf va n) :=
  planOk_bind planOk_planSpan fun _ => planOk_planBytes

@[simp] theorem planOk_planLines {w pas} : PlanOk (planLines w pas) := by
  induction pas with
  | nil => exact planOk_pure
  | cons p pas ih =>
    refine planOk_get_bind fun s h => planOk_ite planOk_throw (planOk_bind (planOk_set (memOk_dirRecall.trans h)) fun _ => ?_)
    refine planOk_ite (planOk_bind (planOk_set ?_) fun _ => ih) planOk_throw
    exact memOk_agentServed (memOk_loseLine (memOk_dirRecall.trans h))

@[simp] theorem planOk_planTake {w surf va n} : PlanOk (planTake w surf va n) :=
  planOk_bind planOk_planSpan fun _ => planOk_planLines

@[simp] theorem planOk_planWrite {w surf va bs} : PlanOk (planWrite w surf va bs) :=
  planOk_bind planOk_planSpan fun _ => planOk_modify fun _ h => memOk_foldl (fun _ _ h => memOk_performWrite h) h

@[simp] theorem planOk_planCheck {w xs} : PlanOk (planCheck w xs) :=
  planOk_bind (planOk_forM (fun _ => planOk_bind planOk_planSpan fun _ => planOk_pure) xs) fun _ =>
    planOk_forM (fun _ => planOk_planTake) xs

@[simp] theorem memOk_surfEvent {s ctx code surf b addr count} (h : s.memOk = true) :
    (surfEvent s ctx code surf b addr count).memOk = true := by
  unfold surfEvent
  simp [h]

@[simp] theorem planOk_readDesc {w surf f} : PlanOk (readDesc w surf f) := by
  refine planOk_get_bind fun s h => ?_
  simp only []
  split
  · exact planOk_pure
  · refine planOk_bind planOk_planRead fun _ => ?_
    split
    · exact planOk_bind (planOk_modify fun _ h => h) fun _ => planOk_pure
    · exact planOk_pure

@[simp] theorem planOk_getSurf {w surf xy} : PlanOk (getSurf w surf xy) := by
  refine planOk_get_bind fun s h => planOk_bind planOk_readDesc fun _ => ?_
  simp only []
  split
  · exact planOk_ite planOk_pure planOk_throw
  · exact planOk_throw

@[simp] theorem planOk_readChunks {w d n c} : PlanOk (readChunks w d n c) := by
  induction n generalizing c with
  | zero => exact planOk_pure
  | succ n ih => exact planOk_ite planOk_pure (planOk_bind planOk_planRead fun _ => planOk_bind ih fun _ => planOk_pure)

@[simp] theorem planOk_reference {w d ref} : PlanOk (reference w d ref) :=
  planOk_ite planOk_pure (planOk_bind planOk_readDesc fun _ => planOk_pure)

@[simp] theorem memOk_dropBlock {s k} : (State.dropBlock s k).memOk = s.memOk := by rfl

@[simp] theorem memOk_putBlock {s k} : (State.putBlock s k).memOk = s.memOk := by rfl

@[simp] theorem planOk_refDepth {w r rd bs} : PlanOk (refDepth w r rd bs) := by
  induction bs with
  | nil => exact planOk_pure
  | cons b bs ih =>
    have hrest : ∀ d : Nat, PlanOk (do let m ← refDepth w r rd bs; pure (max d m)) := fun d => planOk_bind ih fun _ => planOk_pure
    refine planOk_get_bind fun s h => ?_
    split
    · exact hrest _
    · exact planOk_bind planOk_planRead fun _ => hrest _

@[simp] theorem planOk_newDepth {w k} : PlanOk (newDepth w k) := by
  refine planOk_bind planOk_reference fun r => ?_
  split
  · exact planOk_pure
  · exact planOk_bind planOk_refDepth fun _ => planOk_pure

@[simp] theorem planOk_poolChunks {w d n c} : PlanOk (poolChunks w d n c) := by
  induction n generalizing c with
  | zero => exact planOk_pure
  | succ n ih => exact planOk_ite planOk_pure (planOk_bind planOk_planRead fun _ => planOk_bind ih fun _ => planOk_pure)

@[simp] theorem memOk_writePool {s pa count free} (h : s.memOk = true) : (writePool s pa count free).memOk = true := by
  unfold writePool
  simp [h]

@[simp] theorem memOk_poolRecord {s k pa before after low} (h : s.memOk = true) :
    (poolRecord s k pa before after low).memOk = true := by
  unfold poolRecord
  simp [memOk_mk, h]

@[simp] theorem planOk_writeChunks {w d cs bs} : PlanOk (writeChunks w d cs bs) := by
  induction cs generalizing bs with
  | nil => exact planOk_pure
  | cons c cs ih => exact planOk_bind planOk_planWrite fun _ => ih

@[simp] theorem planOk_encodeBlock {k} : PlanOk (encodeBlock k) := by
  unfold encodeBlock
  refine planOk_ite_bind planOk_newDepth planOk_pure fun depth => planOk_get_bind fun _ _ => planOk_ite ?_ ?_
  · refine planOk_bind planOk_planSpan fun pas => planOk_get_bind fun _ _ => planOk_ite planOk_throw (planOk_get_bind fun _ _ => ?_)
    refine planOk_ite_bind planOk_poolChunks planOk_pure fun got => ?_
    rcases got with _ | ⟨cs, next⟩
    · exact planOk_pure
    · refine planOk_bind planOk_planCheck fun _ => planOk_bind planOk_planLines fun _ => ?_
      refine planOk_unless (planOk_modify fun _ h => memOk_poolRecord (memOk_writePool h)) fun _ => ?_
      refine planOk_bind planOk_writeChunks fun _ => planOk_bind planOk_planWrite fun _ => ?_
      split
      · refine planOk_get_bind fun _ _ => planOk_bind planOk_planWrite fun _ => planOk_bind (planOk_modify fun _ h => ?_) fun _ => planOk_pure
        exact memOk_ite_of' (memOk_writePool h) fun h => h
      · exact planOk_pure
  · exact planOk_bind planOk_planCheck fun _ => planOk_bind planOk_writeChunks fun _ => planOk_bind planOk_planWrite fun _ => planOk_pure

@[simp] theorem memOk_pinBlock {s k count} (h : s.memOk = true) : (pinBlock s k count).memOk = true := by
  unfold pinBlock
  simp [h]

@[simp] theorem planOk_evictBlock {w k} : PlanOk (evictBlock w k) := by
  refine planOk_ite (planOk_bind (planOk_modify fun _ h => h) fun _ => planOk_pure) (planOk_bind (planOk_attempt planOk_encodeBlock) fun r => ?_)
  split
  · exact planOk_bind (planOk_modify fun _ h => h) fun _ => planOk_pure
  · exact planOk_bind (planOk_modify fun _ h => memOk_pinBlock h) fun _ => planOk_pure
  · exact planOk_throw
  · exact planOk_ite planOk_throw planOk_pure

@[simp] theorem planOk_evictSome {w n ks} : PlanOk (evictSome w n ks) := by
  induction ks generalizing n with
  | nil => cases n <;> exact planOk_pure
  | cons k ks ih =>
    cases n with
    | zero => exact planOk_pure
    | succ n => exact planOk_bind planOk_evictBlock fun _ => planOk_ite ih ih

@[simp] theorem planOk_makeRoom {w home set} : PlanOk (makeRoom w home set) :=
  planOk_get_bind fun _ _ => planOk_ite planOk_pure planOk_evictSome

@[simp] theorem planOk_keepBlock {w k} : PlanOk (keepBlock w k) :=
  planOk_bind planOk_makeRoom fun _ => planOk_ite (planOk_modify fun _ h => h) planOk_pure

@[simp] theorem memOk_shrinkWays {s die} (h : s.memOk = true) : (shrinkWays s die).memOk = true :=
  memOk_foldl (fun _ _ h => memOk_foldl (fun _ _ h => memOk_ite_of h fun h => planOk_evictBlock _ h) h) h

@[simp] theorem planOk_readBlock {w surf b d f whole} : PlanOk (readBlock w surf b d f whole) :=
  planOk_bind planOk_planSpan fun _ => planOk_get_bind fun _ _ => planOk_bind planOk_planBytes fun _ =>
    planOk_ite (planOk_get_bind fun _ _ => planOk_pure) (planOk_bind planOk_readChunks fun _ => planOk_get_bind fun _ _ => planOk_pure)

theorem planOk_predicted {w ask k} (hask : ∀ rs rd rb, PlanOk (ask rs rd rb)) : PlanOk (predicted w ask k) := by
  refine planOk_bind planOk_reference fun r => ?_
  split
  · exact planOk_pure
  · exact planOk_bind (planOk_mapM (fun _ => planOk_bind (hask _ _ _) fun _ => planOk_pure) _) fun _ => planOk_pure

@[simp] theorem planOk_getBlock {w n surf d f b} : PlanOk (getBlock w n surf d f b) := by
  induction n generalizing surf d f b with
  | zero =>
    refine planOk_get_bind fun s h => ?_
    split
    · exact planOk_pure
    · exact planOk_bind planOk_readBlock fun _ => planOk_ite planOk_pure (planOk_bind planOk_keepBlock fun _ => planOk_pure)
  | succ n ih =>
    refine planOk_get_bind fun s h => ?_
    split
    · exact planOk_pure
    · refine planOk_bind planOk_readBlock fun _ => ?_
      have hkeep : ∀ k : SurfBlock, PlanOk (do keepBlock { w with home := some k.home } k; pure (some k)) := fun _ =>
        planOk_bind planOk_keepBlock fun _ => planOk_pure
      refine planOk_ite (hkeep _) (planOk_bind (planOk_predicted fun _ _ _ => ih) fun r => ?_)
      split
      · exact hkeep _
      · exact planOk_bind (planOk_modify fun _ h => memOk_surfEvent h) fun _ => hkeep _

@[simp] theorem planOk_accessBlock {w x b} : PlanOk (accessBlock w x b) := by
  refine planOk_bind planOk_getBlock fun r => ?_
  split
  · exact planOk_pure
  · exact planOk_throw

@[simp] theorem planOk_repredict {w k} : PlanOk (repredict w k) :=
  planOk_ite planOk_pure (planOk_ite planOk_pure (planOk_bind (planOk_predicted fun _ _ _ => planOk_getBlock) fun _ => planOk_pure))

theorem planOk_surfApply {w x b op} (hop : ∀ k, PlanOk (op k)) : PlanOk (surfApply w x b op) := by
  refine planOk_get_bind fun s0 h0 => planOk_bind (planOk_attempt planOk_accessBlock) fun g => ?_
  split
  · exact planOk_throw
  · exact planOk_throw
  · refine planOk_ite planOk_throw (planOk_get_bind fun s h => ?_)
    refine planOk_someThen (fun _ => planOk_modify fun _ h => h) fun _ => planOk_bind (planOk_attempt (hop _)) fun y => ?_
    refine planOk_someThen (fun _ => planOk_modify fun _ h => h) fun _ => ?_
    split
    · exact planOk_throw
    · refine planOk_ite (planOk_modify fun s h => memOk_ite_of' h fun h => memOk_surfEvent h) (planOk_bind planOk_encodeBlock fun r => ?_)
      split
      · exact planOk_modify fun s h => memOk_ite_of' h fun h => memOk_surfEvent h
      · exact planOk_when (planOk_set h0) fun _ => planOk_throw

@[simp] theorem planOk_writable {w x raw} : PlanOk (writable w x raw) :=
  planOk_get_bind fun _ _ => planOk_ite planOk_throw planOk_pure

@[simp] theorem planOk_readPixelsAt {w x ps} : PlanOk (readPixelsAt w x ps) := by
  unfold readPixelsAt
  split
  · exact planOk_pure
  · exact planOk_bind planOk_accessBlock fun _ => planOk_pure

@[simp] theorem planOk_writePixelsAt {w x bits mask ps} : PlanOk (writePixelsAt w x bits mask ps) := by
  refine planOk_bind planOk_writable fun _ => ?_
  simp only []
  split
  · exact planOk_pure
  · exact planOk_ite planOk_pure (planOk_surfApply fun _ => planOk_pure)

@[simp] theorem memOk_noteWait {s c surf b n pool} (h : s.memOk = true) : (noteWait s c surf b n pool).memOk = true := by
  unfold noteWait
  simp [memOk_mk, h]

theorem outOk_execPlanisherEvictEncode {ctx surf b s} (h : s.memOk = true) : OutOk (execPlanisherEvictEncode ctx surf b s) := by
  unfold execPlanisherEvictEncode
  split
  · exact outOk_ite outOk_idle (outOk_next.2 (planOk_evictBlock s h))
  · exact outOk_idle

@[simp] theorem memOk_resumePool {s ctx pool} (h : s.memOk = true) : (resumePool s ctx pool).memOk = true :=
  memOk_ite_of h fun h => memOk_foldl (fun _ _ h => memOk_resumeThread h) h

theorem outOk_execPoolWordChangeRetry {ctx surf b s} (h : s.memOk = true) : OutOk (execPoolWordChangeRetry ctx surf b s) := by
  unfold execPoolWordChangeRetry
  split
  · rename_i k _
    refine outOk_ite outOk_idle ?_
    have hok := planOk_encodeBlock (k := k) s h
    split
    · rename_i s' hs
      rw [hs] at hok
      exact outOk_next.2 (memOk_resumePool hok)
    · rename_i r s' _ hs
      rw [hs] at hok
      exact outOk_next.2 hok
  · exact outOk_idle

theorem outOk_execSurfpoolPinTimeout {ctx surf b s} (h : s.memOk = true) : OutOk (execSurfpoolPinTimeout ctx surf b s) := by
  unfold execSurfpoolPinTimeout
  repeat' split
  all_goals simp [h]

end Sys2Proof.Machine
end

section
/-!
SUPPORT. Canonical memories: surfaces, traversal, and saved sets.
-/
namespace Sys2Proof.Machine

-- One theorem at a time: elaborating them side by side costs a thread stack each, and the text compiles under a memory limit.
set_option Elab.async false

theorem planOk_laneSurf {s t a b} : PlanOk (laneSurf s t a b) := planOk_getSurf

theorem memOk_runLane {s0 t surf regs} {op : LaneOp} {s} (hop : ∀ s t, PlanOk (op s t)) (h : s.memOk = true) :
    (runLane s0 t surf regs op s).1.memOk = true := by
  have hok := hop s0 t s h
  unfold runLane
  simp only []
  split
  · exact memOk_noteWait hok
  · exact memOk_ite_of h fun _ => hok
  · exact hok

theorem memOk_runLanes {f had ts s} (hf : ∀ t (s : State), s.memOk = true → (f t s).1.memOk = true) (h : s.memOk = true) :
    (runLanes f had ts s).1.memOk = true := by
  induction ts generalizing s with
  | nil => exact h
  | cons t ts ih =>
    rw [runLanes]
    have hft := hf t s h
    split
    · exact ih h
    · split
      · rename_i s' hs
        rw [hs] at hft
        exact hft
      · rename_i s' e hs
        rw [hs] at hft
        exact ih hft

@[simp] theorem memOk_setLaneEnds {s xs} : (State.setLaneEnds s xs).memOk = s.memOk := by
  unfold State.setLaneEnds
  repeat' split
  all_goals simp [memOk_mk]

@[simp] theorem memOk_parkSurface {s t widx va home} (h : s.memOk = true) : (parkSurface s t widx va home).memOk = true := by
  unfold parkSurface
  simp [h]

@[simp] theorem memOk_countSurf {s xs} : (countSurf s xs).memOk = s.memOk := by
  unfold countSurf
  refine memOk_foldl_eq fun s a => ?_
  split <;> simp

theorem memOk_surfWord {ts f fin s} (hf : ∀ t (s : State), s.memOk = true → (f t s).1.memOk = true)
    (hfin : ∀ (s : State) t e, s.memOk = true → (fin s t e).s.memOk = true) (h : s.memOk = true) :
    (surfWord ts f fin s).s.memOk = true := by
  have hlanes := memOk_runLanes (had := s.laneEnds) (ts := ts) (s := endInterval s ts) hf (memOk_endInterval.trans h)
  refine memOk_out_ite (memOk_setLaneEnds.trans hlanes) (memOk_foldl_via WordOut.s (fun o x h => ?_) ?_)
  · split
    · exact h
    · exact hfin _ _ _ h
  · exact memOk_countSurf.trans (memOk_setLaneEnds.trans hlanes)

@[simp] theorem memOk_endWrite {dc ts s t x4} (h : s.memOk = true) : (endWrite dc ts s t x4).s.memOk = true := by
  unfold endWrite
  split <;> simp [h]

@[simp] theorem memOk_endLoad {dc ts d n pd s t x7} : (endLoad dc ts d n pd s t x7).s.memOk = s.memOk := by
  unfold endLoad
  repeat' split
  all_goals simp

theorem outOk_surfWrite {hd a b data} {op : LaneOp} {s} (h : s.memOk = true) (hop : ∀ s t, PlanOk (op s t)) :
    OutOk (surfWrite hd a b data op s) :=
  outOk_issueWord h fun _ _ h => memOk_surfWord (fun _ _ h => memOk_runLane hop h) (fun _ _ _ h => memOk_endWrite h) h

theorem outOk_surfLoad {hd a b data d n pd} {op : LaneOp} {poisons s} (h : s.memOk = true) (hop : ∀ s t, PlanOk (op s t)) :
    OutOk (surfLoad hd a b data d n pd op poisons s) := by
  refine outOk_issueWord h fun _ _ h => memOk_surfWord (fun _ _ h => memOk_runLane hop h) (fun s t e h => ?_) h
  split
  · exact memOk_endLoad.trans h
  · exact memOk_endWrite h

theorem planOk_pixelLoad {a b ps out s t} : PlanOk (pixelLoad a b ps out s t) :=
  planOk_bind planOk_laneSurf fun _ => planOk_bind planOk_readPixelsAt fun _ => planOk_pure

theorem planOk_pixelStore {a b bits mask ps s t} : PlanOk (pixelStore a b bits mask ps s t) :=
  planOk_bind planOk_laneSurf fun _ => planOk_bind planOk_writePixelsAt fun _ => planOk_pure

theorem planOk_levelWrite {a b ch ls s t} : PlanOk (levelWrite a b ch ls s t) := by
  refine planOk_bind planOk_laneSurf fun x => planOk_ite planOk_throw (planOk_bind planOk_writable fun _ => ?_)
  split
  · exact planOk_pure
  · exact planOk_bind (planOk_surfApply fun _ => planOk_pure) fun _ => planOk_pure

theorem planOk_blockChange {a b raw again f s t} : PlanOk (blockChange a b raw again f s t) := by
  refine planOk_bind planOk_laneSurf fun x => planOk_bind planOk_writable fun _ => ?_
  split
  · exact planOk_pure
  · exact planOk_bind (planOk_surfApply fun _ => planOk_ite planOk_repredict planOk_pure) fun _ => planOk_pure

theorem outOk_execSldP {hd w64 d a b s} (h : s.memOk = true) :
    OutOk (execSldP hd w64 d a b s) := outOk_surfLoad h fun _ _ => planOk_pixelLoad

theorem outOk_execSldQ {hd d a b s} (h : s.memOk = true) :
    OutOk (execSldQ hd d a b s) := outOk_surfLoad h fun _ _ => planOk_pixelLoad

theorem outOk_execSldB {hd d a b s} (h : s.memOk = true) :
    OutOk (execSldB hd d a b s) := outOk_surfLoad h fun _ _ => planOk_pixelLoad

theorem outOk_execSldD {hd pd d a b c s} (h : s.memOk = true) : OutOk (execSldD hd pd d a b c s) :=
  outOk_surfLoad h fun _ _ => planOk_bind planOk_laneSurf fun _ =>
    planOk_ite planOk_throw (planOk_bind planOk_readPixelsAt fun _ => planOk_pure)

theorem outOk_execSstP {hd w64 a b c s} (h : s.memOk = true) :
    OutOk (execSstP hd w64 a b c s) := outOk_surfWrite h fun _ _ => planOk_pixelStore

theorem outOk_execSstQ {hd a b c s} (h : s.memOk = true) :
    OutOk (execSstQ hd a b c s) := outOk_surfWrite h fun _ _ => planOk_pixelStore

theorem outOk_execSstB {hd a b c s} (h : s.memOk = true) :
    OutOk (execSstB hd a b c s) := outOk_surfWrite h fun _ _ => planOk_pixelStore

theorem outOk_execSstM {hd w64 mask a b c s} (h : s.memOk = true) : OutOk (execSstM hd w64 mask a b c s) :=
  outOk_surfWrite h fun _ _ => planOk_pixelStore

theorem outOk_execScoef {hd k ch a b c s} (h : s.memOk = true) :
    OutOk (execScoef hd k ch a b c s) := outOk_surfWrite h fun _ _ => planOk_levelWrite

theorem outOk_execScoefB {hd i ch a b c s} (h : s.memOk = true) : OutOk (execScoefB hd i ch a b c s) :=
  outOk_surfWrite h fun _ _ => planOk_levelWrite

theorem outOk_execSmv {hd a b c s} (h : s.memOk = true) :
    OutOk (execSmv hd a b c s) := outOk_surfWrite h fun _ _ => planOk_blockChange

theorem outOk_execSref {hd r a b s} (h : s.memOk = true) :
    OutOk (execSref hd r a b s) := outOk_surfWrite h fun _ _ => planOk_blockChange

theorem outOk_execSrate {hd a b c s} (h : s.memOk = true) :
    OutOk (execSrate hd a b c s) := outOk_surfWrite h fun _ _ => planOk_blockChange

theorem outOk_execSanchor {hd w64 a b c s} (h : s.memOk = true) : OutOk (execSanchor hd w64 a b c s) :=
  outOk_surfWrite h fun _ _ => planOk_blockChange

theorem outOk_execSqry {hd sel d a b s} (h : s.memOk = true) : OutOk (execSqry hd sel d a b s) := by
  refine outOk_surfLoad h fun s t => planOk_ite_bind planOk_laneSurf planOk_getSurf fun x => ?_
  refine planOk_ite planOk_pure (planOk_ite planOk_pure ?_)
  split
  · exact planOk_pure
  · exact planOk_bind planOk_accessBlock fun _ => planOk_pure

theorem planOk_flushBlocks {w ks} : PlanOk (flushBlocks w ks) := by
  induction ks with
  | nil => exact planOk_pure
  | cons k ks ih =>
    refine planOk_ite (planOk_bind (planOk_modify fun _ h => h) fun _ => ih) (planOk_bind planOk_encodeBlock fun r => ?_)
    split
    · exact planOk_bind (planOk_modify fun _ h => h) fun _ => ih
    · exact planOk_bind (planOk_modify fun _ h => memOk_pinBlock h) fun _ => planOk_bind planOk_throw fun _ => ih

@[simp] theorem memOk_mark {s key t} : (State.mark s key t).memOk = s.memOk := by rfl

@[simp] theorem memOk_unmark {s key t} : (State.unmark s key t).memOk = s.memOk := by rfl

theorem planOk_flushSurf {w surf t rel bad} : PlanOk (flushSurf w surf t rel bad) := by
  refine planOk_get_bind fun _ _ => planOk_bind planOk_getSurf fun _ => ?_
  refine planOk_guard planOk_planSpan (planOk_ite planOk_pure ?_)
  refine planOk_when (planOk_modify fun _ h => h) fun _ => planOk_get_bind fun _ _ => planOk_bind planOk_flushBlocks fun _ => ?_
  refine planOk_when planOk_planTake fun _ => planOk_bind (planOk_modify fun _ h => h) fun _ => ?_
  exact planOk_ite (planOk_bind planOk_planRead fun _ => planOk_planWrite) planOk_pure

theorem memOk_flushLane {a rel s0 t s} (h : s.memOk = true) : (flushLane a rel s0 t s).1.memOk = true := by
  have hok := planOk_flushSurf (w := whoOf s0 t) (surf := surfIdx s0 t a) (t := t) (rel := rel) (bad := (consumed s0 t [(a, 1)]).isSome) s h
  exact memOk_ite_of hok fun hok => memOk_unmark.trans hok

theorem outOk_flushWord {hd a rel s} (h : s.memOk = true) : OutOk (flushWord hd a rel s) :=
  outOk_issueWord h fun _ _ h => memOk_surfWord (fun _ _ h => memOk_flushLane h) (fun _ _ _ h => memOk_endWrite h) h

theorem planOk_beamPixel {c x px py v} : PlanOk (beamPixel c x px py v) := by
  unfold beamPixel
  split
  · exact planOk_pure
  · exact planOk_bind planOk_writable fun _ => planOk_surfApply fun _ => planOk_pure

theorem memOk_keepPins {s tried} (h : s.memOk = true) : (keepPins s tried).memOk = true :=
  memOk_foldl (fun _ _ h => planOk_evictBlock _ h) h

theorem memOk_runTile {s c m} (h : s.memOk = true) : (runTile s c m).2.memOk = true := by
  unfold runTile
  simp only []
  have hsurf := planOk_getSurf (w := c.who) (surf := c.surface) (xy := some (8 * evenBits 17 m, 8 * evenBits 17 (m / 2))) s h
  split
  · exact h
  · rename_i e s' hs _
    rw [hs] at hsurf
    exact hsurf
  · rename_i cam x s' hcam hs
    rw [hs] at hsurf
    split
    · exact hsurf
    · rename_i rs _
      have hbeam := planOk_forM (f := fun r => beamPixel c x r.1 r.2.1 r.2.2.1) (fun _ => planOk_beamPixel) rs.1 s' hsurf
      split
      · exact memOk_keepPins hsurf
      · rename_i s'' hs''
        rw [hs''] at hbeam
        exact hbeam

@[simp] theorem memOk_failTrav {s c code} (h : s.memOk = true) : (failTrav s c code).memOk = true := by
  unfold failTrav
  simp [h]

@[simp] theorem memOk_endTrav {s id} (h : s.memOk = true) : (endTrav s id).memOk = true := by
  unfold endTrav
  split <;> simp [h]

@[simp] theorem memOk_parkTrav {s c va type item} (h : s.memOk = true) : (parkTrav s c va type item).memOk = true := by
  unfold parkTrav
  simp [h]

theorem outOk_startTrav {beam ev id s} (h : s.memOk = true) : OutOk (startTrav beam ev id s) := by
  unfold startTrav
  split
  · exact outOk_idle
  · refine outOk_ite outOk_idle ?_
    simp only []
    split
    · exact outOk_next.2 (memOk_failTrav h)
    · split
      · exact outOk_idle
      · exact outOk_next.2 (memOk_parkTrav h)
      · refine outOk_take (takeOk_takeLines (memOk_updEngine.trans h)) fun s h => outOk_next.2 (memOk_endTrav (memOk_passCommand ?_))
        exact memOk_updEngine.trans h

theorem memOk_runItem {s c j} (h : s.memOk = true) : (runItem s c j).2.memOk = true := by
  have hput : ∀ (xs : List (Byte × Nat)) va (s : State), s.memOk = true →
      (xs.foldl (fun s b => cmdStore s c (va + b.2) 0xFF b.1) s).memOk = true := fun xs va s h =>
    memOk_foldl (fun _ _ h => memOk_cmdStore h) h
  unfold runItem
  split
  · have htile := memOk_runTile (c := c) (m := j) h
    split
    · rename_i e s' hs
      rw [hs] at htile
      exact htile
    · rename_i r s' hs
      rw [hs] at htile
      exact memOk_foldl (fun _ _ h => hput _ _ _ h) htile
  · split
    · exact h
    · exact hput _ _ _ h

@[simp] theorem memOk_stickItem {s id j} : (stickItem s id j).memOk = s.memOk := by rfl

@[simp] theorem memOk_completeItem {c j s} (h : s.memOk = true) : (completeItem c j s).memOk = true := by
  unfold completeItem
  simp [memOk_mk, h]

theorem outOk_execTravItemComplete {id j s} (h : s.memOk = true) : OutOk (execTravItemComplete id j s) := by
  unfold execTravItemComplete
  simp only []
  split
  · exact outOk_idle
  · rename_i c _
    refine outOk_ite outOk_idle (outOk_ite (outOk_next.2 (memOk_failTrav h)) (outOk_ite
      (outOk_ite outOk_idle (outOk_next.2 (memOk_passCommand h))) (outOk_take (takeOk_takeLines h) fun s h => ?_)))
    have hrun := memOk_runItem (c := c) (j := j) h
    split
    · exact outOk_next.2 (memOk_failTrav h)
    · rename_i s' hs
      rw [hs] at hrun
      exact outOk_next.2 hrun
    · rename_i s' hs
      rw [hs] at hrun
      exact outOk_ite outOk_idle (outOk_next.2 (memOk_parkTrav hrun))
    · rename_i s' hs
      rw [hs] at hrun
      refine outOk_ite outOk_idle (outOk_next.2 ?_)
      rw [memOk_mk, memOk_fields, memOk_stickItem]
      split
      · exact memOk_noteWait hrun
      · exact hrun
    · refine outOk_take (takeOk_fetchLines h) fun s h => ?_
      have hrun := memOk_runItem (c := c) (j := j) h
      split
      · rename_i s' hs
        rw [hs] at hrun
        exact outOk_next.2 (memOk_completeItem hrun)
      · exact outOk_idle

theorem outOk_execTravfaultPoolTimeout {id s} (h : s.memOk = true) : OutOk (execTravfaultPoolTimeout id s) := by
  unfold execTravfaultPoolTimeout
  repeat' split
  all_goals simp [h]

@[simp] theorem memOk_retryTrav {s c tag} (h : s.memOk = true) : (retryTrav s c tag).memOk = true := by
  unfold retryTrav
  simp [h]

@[simp] theorem memOk_saveBytes {s c va bs n} (h : s.memOk = true) : (saveBytes s c va bs n).memOk = true := by
  induction n generalizing s va bs with
  | zero => exact h
  | succ n ih =>
    refine memOk_ite_of h fun h => ih ?_
    split
    · exact memOk_performWrite h
    · exact h

@[simp] theorem memOk_saveImage {s c base xs} (h : s.memOk = true) : (saveImage s c base xs).memOk = true := by
  unfold saveImage
  refine memOk_foldl (fun s a h => ?_) ?_
  · simp [h]
  · simp [h]

@[simp] theorem memOk_stopAtWord {s ts} : (stopAtWord s ts).memOk = s.memOk := by
  unfold stopAtWord
  simp

@[simp] theorem memOk_spillCache {s t} (h : s.memOk = true) : (spillCache s t).memOk = true := by
  refine memOk_ite_of h fun h => ?_
  simp only []
  split
  · rename_i s' hs
    refine memOk_updThr.trans (someOk_foldl_bind (fun s i h => ?_) _ (someOk_some.2 h) s' hs)
    split
    · rename_i s'' e hs
      exact someOk_some.2 (stackOk_stackAccess h s'' e hs)
    · exact someOk_none
  · exact h

@[simp] theorem memOk_moveRecords {s c ts core tid saved} : (moveRecords s c ts core tid saved).memOk = s.memOk := by rfl

@[simp] theorem memOk_saveSet {s w set slot x} (h : s.memOk = true) : (saveSet s w set slot x).memOk = true := by
  have hspill : ∀ (ts : List Nat) (s : State), s.memOk = true → (ts.foldl spillCache s).memOk = true := fun ts s h =>
    memOk_foldl (fun _ _ h => memOk_spillCache h) h
  unfold saveSet
  simp only []
  rw [memOk_mk, memOk_fields, memOk_moveRecords, memOk_updCtx, memOk_foldl_eq fun s e => by simp, memOk_foldl_eq fun s t => memOk_orphan,
    memOk_mk, memOk_fields]
  refine memOk_foldl_via (Prod.fst : State × Nat × List (Nat × Nat) → State) (fun o e h => ?_) ?_
  · split
    · exact h
    · exact memOk_saveImage h
  · exact hspill _ _ (memOk_stopAtWord.trans h)

theorem outOk_execSetSave {w set s} (h : s.memOk = true) : OutOk (execSetSave w set s) := by
  unfold execSetSave
  simp only []
  repeat' split
  all_goals simp [h]

theorem wf_putCells {m f cs} (h : Memory.wf m = true) : Memory.wf (putCells m f cs) = true := by
  unfold putCells
  induction cs generalizing m with
  | nil => exact h
  | cons c cs ih => exact ih (Memory.wf_write _ _ h)

theorem wfFrom_filter {lo m} (p : Host.Cell → Bool) (h : Memory.wfFrom lo m = true) : Memory.wfFrom lo (m.filter p) = true := by
  induction m generalizing lo with
  | nil => rfl
  | cons c m ih =>
    obtain ⟨k, b⟩ := c
    obtain ⟨⟨hlo, hb⟩, hm⟩ : (decide (lo ≤ k) = true ∧ (b != 0) = true) ∧ Memory.wfFrom (k + 1) m = true := by
      simpa only [Memory.wfFrom, Bool.and_eq_true] using h
    rw [List.filter_cons]
    split
    · simp only [Memory.wfFrom, hlo, hb, ih hm, Bool.and_self]
    · exact Memory.wfFrom_mono (ih hm) (by have := of_decide_eq_true hlo; omega)

theorem wf_clearCells {m a n} (h : Memory.wf m = true) : Memory.wf (clearCells m a n) = true := wfFrom_filter _ h

@[simp] theorem memOk_restoreBillet {s m dt b} (h : s.memOk = true) : (restoreBillet s m dt b).memOk = true := by
  obtain ⟨hmem, hscratch, hacc, hbook⟩ := (memOk_iff s).1 h
  refine memOk_updCore.trans (memOk_foldl (fun s e h => memOk_updCore.trans (memOk_bookBytes h)) ((memOk_iff _).2 ⟨hmem, ?_, ?_, hbook⟩))
  · exact wf_putCells (wf_clearCells hscratch)
  · show Memory.wf (if _ then _ else _) = true
    split
    · exact wf_putCells (wf_clearCells hacc)
    · exact hacc

@[simp] theorem memOk_retakeLines {s c} (h : s.memOk = true) : (retakeLines s c).memOk = true := by
  unfold retakeLines
  split
  · exact h
  · rename_i c _
    refine memOk_ite_of h fun h => ?_
    have htake := takeOk_takeSectors (c := c) (m := TMap.ofBytes c.map) (ks := openSectors c) h
    split
    · exact h
    · rename_i s' hs
      exact takeOk_of_eq hs htake
    · rename_i s' hs
      exact takeOk_of_eq hs htake

@[simp] theorem memOk_replayTag {s f tag abort} (h : s.memOk = true) : (replayTag s f tag abort).memOk = true := by
  refine memOk_foldl (fun s c h => ?_) (memOk_foldl (fun s c h => ?_) ?_)
  · exact memOk_ite_of' (memOk_retryTrav h) fun _ => memOk_failTrav h
  · exact memOk_ite_of' (memOk_retryLadle h) fun _ => memOk_failCommand h
  · refine memOk_ite_of' (memOk_foldl (fun _ _ h => memOk_retryThread h) (memOk_updTenant.trans h)) fun _ => ?_
    exact memOk_raise (memOk_updTenant.trans h)

@[simp] theorem memOk_applyLater {f m s l} (h : s.memOk = true) : (applyLater f m s l).memOk = true := by
  unfold applyLater
  split <;> simp [h]

@[simp] theorem memOk_retakeSlot {s k} : (retakeSlot s k).memOk = s.memOk := by
  unfold retakeSlot
  split <;> simp

@[simp] theorem memOk_restoreSet {s v x cores} (h : s.memOk = true) : (restoreSet s v x cores).memOk = true := by
  have hbillets : ∀ (bs : List SavedBillet) m dt (s : State), s.memOk = true → (bs.foldl (fun s b => restoreBillet s m dt b) s).memOk = true :=
    fun bs m dt s h => memOk_foldl (fun _ _ h => memOk_restoreBillet h) h
  have hlines : ∀ (cs : List Command) (s : State), s.memOk = true → (cs.foldl retakeLines s).memOk = true := fun cs s h =>
    memOk_foldl (fun _ _ h => memOk_retakeLines h) h
  refine memOk_foldl (fun s c h => memOk_resolveMask (memOk_evalJoin h)) (memOk_foldl (fun s l h => memOk_applyLater h) ?_)
  rw [memOk_moveRecords, memOk_foldl_eq fun s k => memOk_retakeSlot, memOk_updCtx]
  exact hlines _ _ (hbillets _ _ _ _ h)

end Sys2Proof.Machine
end

section
/-!
SUPPORT. Canonical memories: picking, recovery, ports and the domain.
-/
namespace Sys2Proof.Machine

-- One theorem at a time: elaborating them side by side costs a thread stack each, and the text compiles under a memory limit.
set_option Elab.async false

@[simp] theorem memOk_pickPacket {s c x} (h : s.memOk = true) : (pickPacket s c x).memOk = true := by
  have hplaced : ∀ w f n, (placeSets w (s.updWp w f) n).memOk = true := fun w f n => memOk_placeSets.trans (memOk_updWp.trans h)
  unfold pickPacket
  split
  · exact memOk_refuseHead h
  · exact memOk_completeWp (memOk_advanceQueue.trans h)
  · simp only []
    split
    · exact memOk_ite_of' (hplaced _ _ _) fun h => memOk_advanceQueue.trans h
    · exact hplaced _ _ _

@[simp] theorem memOk_pickSaved {s u x} (h : s.memOk = true) : (pickSaved s u x).memOk = true := by
  unfold pickSaved
  repeat' split
  all_goals simp [h]

@[simp] theorem memOk_pickOne {s c} (h : s.memOk = true) : (pickOne s c).memOk = true := by
  unfold pickOne
  repeat' split
  all_goals simp [h]

@[simp] theorem memOk_without {s vs} : (without s vs).memOk = s.memOk := by
  unfold without
  simp

@[simp] theorem memOk_markVictims {s n d margin} : (markVictims s n d margin).memOk = s.memOk := by
  unfold markVictims
  simp only []
  split
  · rfl
  · split <;> rfl

@[simp] theorem memOk_preempt {s first} : (preempt s first).memOk = s.memOk := by
  unfold preempt
  repeat' split
  all_goals simp

theorem outOk_execPick {s} (h : s.memOk = true) : OutOk (execPick s) := by
  unfold execPick
  split
  · exact outOk_idle
  · exact outOk_ite outOk_idle (outOk_next.2 (memOk_preempt.trans (memOk_foldl (fun _ _ h => memOk_pickOne h) h)))

theorem outOk_execSetRestore {w set s} (h : s.memOk = true) : OutOk (execSetRestore w set s) := by
  unfold execSetRestore
  repeat' split
  all_goals simp [h]

@[simp] theorem memOk_evictSet {s x} (h : s.memOk = true) : (evictSet s x).memOk = true := by
  unfold evictSet
  split <;> simp [memOk_mk, h]

@[simp] theorem memOk_retireCore {s kind core} (h : s.memOk = true) : (retireCore s kind core).memOk = true := by
  refine memOk_ite_of h fun h => memOk_postAll ?_
  exact memOk_foldl (fun _ _ h => memOk_evictSet h) (memOk_updCore.trans h)

@[simp] theorem memOk_retireDoomed {s} (h : s.memOk = true) : (retireDoomed s).memOk = true := by
  unfold retireDoomed
  refine memOk_foldl (fun s a h => ?_) ?_
  · simp [h]
  · simp [h]

@[simp] theorem memOk_retireSlice {s slice} (h : s.memOk = true) : (retireSlice s slice).memOk = true := by
  refine memOk_ite_of h fun h => memOk_postAll ?_
  rw [memOk_mk, memOk_fields, memOk_mk, memOk_fields]
  exact memOk_foldl (fun _ _ h => memOk_loseLine h) h

@[simp] theorem memOk_retireCount {s kind unit} (h : s.memOk = true) : (retireCount s kind unit).memOk = true := by
  unfold retireCount
  simp [memOk_mk, h]

@[simp] theorem memOk_retireUnit {s kind unit} (h : s.memOk = true) : (retireUnit s kind unit).memOk = true := by
  unfold retireUnit
  split <;> simp [h]

@[simp] theorem memOk_noteError {s key} : (noteError s key).memOk = s.memOk := by rfl

@[simp] theorem memOk_strike {s fs kind unit a} (h : s.memOk = true) : (strike s fs kind unit a).memOk = true :=
  memOk_ite_of' (memOk_noteError.trans h) fun h => memOk_retireUnit (memOk_foldl (fun _ _ h => memOk_postEvent h) h)

theorem outOk_execUeccConsume {k kind unit a s} (h : s.memOk = true) : OutOk (execUeccConsume k kind unit a s) := by
  unfold execUeccConsume
  simp only []
  repeat' split
  all_goals simp [memOk_mk, h]

theorem outOk_execCorrectableError {kind unit a s} (h : s.memOk = true) : OutOk (execCorrectableError kind unit a s) := by
  have hnote : ∀ key, (noteError s key).memOk = true := fun key => memOk_noteError.trans h
  refine outOk_ite outOk_idle (outOk_ite (outOk_next.2 (hnote _)) (outOk_next.2 (memOk_retireUnit ?_)))
  exact memOk_foldl (fun _ _ h => memOk_postEvent (memOk_postEvent h)) (hnote _)

theorem outOk_execCheckpoint {k s} (h : s.memOk = true) : OutOk (execCheckpoint k s) := by
  unfold execCheckpoint
  split
  · exact outOk_ite outOk_idle (outOk_next.2 (memOk_takeCheckpoint.trans (memOk_foldl (fun _ _ h => memOk_release h) h)))
  · exact outOk_idle

@[simp] theorem memOk_mismatch {s k pt} (h : s.memOk = true) : (mismatch s k pt).memOk = true := by
  unfold mismatch
  simp only []
  split
  · exact h
  · refine memOk_ite_of (memOk_retireCore (memOk_postEvent (memOk_ueccEnd h))) fun _ => ?_
    refine memOk_ite_of (memOk_updBillet.trans (memOk_rollback h)) fun _ => ?_
    exact memOk_retireDoomed (memOk_evictSet (memOk_updCore.trans (memOk_postEvent (memOk_rollback h))))

@[simp] theorem memOk_passPoint {s t} : (passPoint s t).memOk = s.memOk := by
  unfold passPoint
  simp

@[simp] theorem memOk_runPair {s t u} : (runPair s t u).memOk = s.memOk := by
  unfold runPair
  simp

@[simp] theorem memOk_trapPairs {s ms} (h : s.memOk = true) : (trapPairs s ms).memOk = true := by
  unfold trapPairs
  refine memOk_foldl (fun s a h => ?_) ?_
  · split <;> simp [h]
  · simp [h]

theorem outOk_execAssayCompare {t s} (h : s.memOk = true) : OutOk (execAssayCompare t s) := by
  unfold execAssayCompare
  simp only []
  repeat' split
  all_goals simp [h]

theorem outOk_execAssayTimeout {t s} (h : s.memOk = true) : OutOk (execAssayTimeout t s) := by
  unfold execAssayTimeout
  simp only []
  repeat' split
  all_goals simp [h]

theorem outOk_execSchedulerRebuild {cl s} (h : s.memOk = true) : OutOk (execSchedulerRebuild cl s) := by
  refine outOk_ite outOk_idle (outOk_next.2 (memOk_ite_of' ?_ fun h => memOk_foldl (fun _ _ h => memOk_retireCore h) h))
  refine memOk_foldl (fun _ _ h => memOk_postEvent h) ?_
  rw [memOk_mk, memOk_fields, memOk_noteError]
  exact h

theorem outOk_execBarrierParityError {g s} (h : s.memOk = true) : OutOk (execBarrierParityError g s) := by
  unfold execBarrierParityError
  split <;> simp [h]

@[simp] theorem memOk_writeSlot {s k v} : (writeSlot s k v).memOk = s.memOk := by rfl

@[simp] theorem memOk_startRetrain {s p} : (startRetrain s p).memOk = s.memOk := by
  unfold startRetrain
  simp

@[simp] theorem memOk_askSwap {s p} : (askSwap s p).memOk = s.memOk := by rfl

@[simp] theorem memOk_writePortCtl {s p v} : (writePortCtl s p v).memOk = s.memOk := by
  unfold writePortCtl
  simp

@[simp] theorem memOk_linkError {s p pa} (h : s.memOk = true) : (linkError s p pa).memOk = true := by
  unfold linkError
  simp [h]

theorem outOk_execDrawerRequest {id s} (h : s.memOk = true) : OutOk (execDrawerRequest id s) := by
  unfold execDrawerRequest
  simp only []
  repeat' split
  all_goals simp [h]

theorem outOk_execDrawerResponse {id s} (h : s.memOk = true) : OutOk (execDrawerResponse id s) := by
  unfold execDrawerResponse
  repeat' split
  all_goals simp [h]

theorem outOk_execDrawerProbe {line inval s} (h : s.memOk = true) : OutOk (execDrawerProbe line inval s) := by
  unfold execDrawerProbe
  simp only []
  repeat' split
  all_goals simp [memOk_mk, h]

theorem outOk_execDrawerMcasMessage {id s} (h : s.memOk = true) : OutOk (execDrawerMcasMessage id s) := by
  unfold execDrawerMcasMessage
  repeat' split
  all_goals simp [h]

@[simp] theorem memOk_revealAll {s ids} : (revealAll s ids).memOk = s.memOk := by
  unfold revealAll
  refine memOk_foldl_eq fun s a => ?_
  split <;> simp

@[simp] theorem memOk_forgetNarrow {s p} : (forgetNarrow s p).memOk = s.memOk := by rfl

theorem outOk_execPromotionRequest {id s} (h : s.memOk = true) : OutOk (execPromotionRequest id s) := by
  unfold execPromotionRequest
  simp only []
  repeat' split
  all_goals simp [h]

theorem outOk_execFlitCheckFail {p s} (h : s.memOk = true) : OutOk (execFlitCheckFail p s) := by
  unfold execFlitCheckFail
  simp only []
  repeat' split
  all_goals simp [h]

@[simp] theorem memOk_resend {s s' p drop} : (resend s s' p drop).memOk = s'.memOk := by rfl

theorem outOk_execPortRetrainEnd {p ok s} (h : s.memOk = true) : OutOk (execPortRetrainEnd p ok s) := by
  unfold execPortRetrainEnd
  simp only []
  repeat' split
  all_goals simp [h]

theorem outOk_execLinkStallEnd {p s} (h : s.memOk = true) : OutOk (execLinkStallEnd p s) := by
  unfold execLinkStallEnd
  simp only []
  split
  · exact outOk_idle
  · exact outOk_next.2 (memOk_updPort.trans (memOk_foldl (fun _ _ h => memOk_asyncTrap h) h))

theorem outOk_execSlotTableSwapApply {p s} (h : s.memOk = true) : OutOk (execSlotTableSwapApply p s) := by
  unfold execSlotTableSwapApply
  split <;> simp [memOk_mk, h]

theorem outOk_execPortctlSwap {p s} (h : s.memOk = true) : OutOk (execPortctlSwap p s) := by
  unfold execPortctlSwap
  split <;> simp [h]

theorem outOk_execPortctlRetrain {p s} (h : s.memOk = true) : OutOk (execPortctlRetrain p s) := by
  unfold execPortctlRetrain
  split <;> simp [h]

theorem outOk_execPortTrainingComplete {p s} (h : s.memOk = true) : OutOk (execPortTrainingComplete p s) := by
  unfold execPortTrainingComplete
  split <;> simp [h]

theorem outOk_execDomainTimeSlew {fast slow s} (h : s.memOk = true) : OutOk (execDomainTimeSlew fast slow s) := by
  unfold execDomainTimeSlew
  split <;> simp [memOk_mk, h]

@[simp] theorem memOk_drawerGone {s n} (h : s.memOk = true) : (drawerGone s n).memOk = true := by
  unfold drawerGone
  refine memOk_foldl (fun s a h => ?_) ?_
  · simp [h]
  · simp [h]

theorem outOk_execReferenceChange {s} (h : s.memOk = true) : OutOk (execReferenceChange s) := by
  unfold execReferenceChange
  split <;> simp [memOk_mk, h]

theorem outOk_execDrawerLeavesDomain {n size s} (h : s.memOk = true) : OutOk (execDrawerLeavesDomain n size s) := by
  unfold execDrawerLeavesDomain
  simp only []
  repeat' split
  all_goals simp [memOk_mk, h]

end Sys2Proof.Machine
end

section
/-!
SUPPORT. Canonical memories: system words and the host's registers.
-/
namespace Sys2Proof.Machine

-- One theorem at a time: elaborating them side by side costs a thread stack each, and the text compiles under a memory limit.
set_option Elab.async false

@[simp] theorem memOk_addLater {s uid ls} : (addLater s uid ls).memOk = s.memOk := by rfl

@[simp] theorem memOk_dbgWrite {s c v} : (dbgWrite s c v).memOk = s.memOk := by
  unfold dbgWrite
  split <;> simp

@[simp] theorem memOk_flushTraps {c s n} (h : s.memOk = true) : (flushTraps c s n).memOk = true := by
  induction n generalizing s with
  | zero => exact h
  | succ n ih =>
    rw [flushTraps]
    split
    · exact h
    · refine memOk_ite_of h fun h => ?_
      split
      · exact ih (memOk_trapFlush h)
      · exact memOk_ite_of' (ih (memOk_updCtx.trans h)) fun _ => memOk_terminateCtx h

@[simp] theorem memOk_setTrapHead {s c v} (h : s.memOk = true) : (setTrapHead s c v).memOk = true := by
  unfold setTrapHead
  simp [h]

@[simp] theorem memOk_startInval {s c id v} : (startInval s c id v).memOk = s.memOk := by rfl

@[simp] theorem memOk_endJournals {s c} : (endJournals s c).memOk = s.memOk := by
  unfold endJournals
  simp

@[simp] theorem memOk_writeCtxReg {s c n id host v} (h : s.memOk = true) : (writeCtxReg s c n id host v).memOk = true := by
  unfold writeCtxReg
  split <;> simp [h]

@[simp] theorem memOk_writeDieReg {s n v} (h : s.memOk = true) : (writeDieReg s n v).memOk = true := by
  unfold writeDieReg
  simp only []
  split
  · exact memOk_shrinkWays h
  · split <;> exact h

@[simp] theorem memOk_writeSysReg {s c n id v} (h : s.memOk = true) : (writeSysReg s c n id v).memOk = true := by
  unfold writeSysReg
  simp [memOk_mk, h]

@[simp] theorem memOk_signal {s t h} : (signal s t h).memOk = s.memOk := by
  unfold signal
  simp

theorem outOk_sysWord {hd regs var settle act s} (h : s.memOk = true)
    (hact : ∀ (s s' : State) t, s'.memOk = true → (act s s' t).memOk = true) : OutOk (sysWord hd regs var settle act s) :=
  outOk_issueWord h fun _ _ h => memOk_foldl (fun _ _ h => hact _ _ _ h) h

theorem outOk_trapWord {hd i s} (h : s.memOk = true) : OutOk (trapWord hd i s) := by
  unfold trapWord
  refine outOk_issueWord h fun s ts h => ?_
  simp [h]

@[simp] theorem memOk_rteAll {s c tgt mask next step} (h : s.memOk = true) : (rteAll s c tgt mask next step).memOk = true := by
  have hresume : ∀ ts : List Nat, (ts.foldl (fun s t => resumeThread s t next step) s).memOk = true := fun ts =>
    memOk_foldl (fun _ _ h => memOk_resumeThread h) h
  unfold rteAll
  simp only []
  split
  · exact memOk_addLater.trans (hresume _)
  · exact hresume _

theorem outOk_execRte {hd nxt a b s} (h : s.memOk = true) : OutOk (execRte hd nxt a b s) :=
  outOk_sysWord h fun _ _ _ h => memOk_rteAll h

theorem outOk_execRteStep {hd nxt a b s} (h : s.memOk = true) : OutOk (execRteStep hd nxt a b s) :=
  outOk_sysWord h fun _ _ _ h => memOk_rteAll h

@[simp] theorem memOk_suspendSaved {s c v b ts on} (h : s.memOk = true) : (suspendSaved s c v b ts on).memOk = true := by
  unfold suspendSaved
  refine memOk_foldl (fun s a h => ?_) ?_
  · repeat' split
    all_goals simp [h]
  · simp [memOk_mk, h]

@[simp] theorem memOk_suspendAll {s c tgt mask on} (h : s.memOk = true) : (suspendAll s c tgt mask on).memOk = true := by
  have hjoin : ∀ (cs ts : List Nat), (cs.foldl evalJoin (ts.foldl (fun s t => s.updThr t fun x => { x with suspended := on }) s)).memOk = true :=
    fun cs ts => memOk_foldl (fun _ _ h => memOk_evalJoin h) (Eq.trans (memOk_foldl_eq fun _ _ => memOk_updThr) h)
  unfold suspendAll
  simp only []
  split
  · exact memOk_suspendSaved (hjoin _ _)
  · exact hjoin _ _

theorem outOk_execSuspend {hd a b s} (h : s.memOk = true) : OutOk (execSuspend hd a b s) :=
  outOk_sysWord h fun _ _ _ h => memOk_signal.trans (memOk_suspendAll h)

theorem outOk_execResume {hd a b s} (h : s.memOk = true) : OutOk (execResume hd a b s) :=
  outOk_sysWord h fun _ _ _ h => memOk_signal.trans (memOk_suspendAll h)

@[simp] theorem memOk_killAll {s c tgt mask} (h : s.memOk = true) : (killAll s c tgt mask).memOk = true := by
  unfold killAll
  simp only []
  split <;> simp [h]

theorem outOk_execKillcrew {hd ctx a b s} (h : s.memOk = true) : OutOk (execKillcrew hd ctx a b s) :=
  outOk_ite (outOk_sysWord h fun _ _ _ h => memOk_signal.trans (memOk_terminateCtx h))
    (outOk_sysWord h fun _ _ _ h => memOk_signal.trans (memOk_killAll h))

@[simp] theorem memOk_mailDone {s f} : (mailDone s f).memOk = s.memOk := by rfl

theorem memOk_dbgmbLane {s t hd c tgt mask tag} (h : s.memOk = true) : (dbgmbLane s t hd c tgt mask tag).memOk = true := by
  unfold dbgmbLane
  simp only []
  split
  · exact memOk_signal.trans h
  · refine memOk_mailDone.trans (memOk_postMailbox (memOk_ite_of h fun h => ?_))
    exact memOk_updPend.trans (memOk_addOp.trans h)

theorem outOk_execDbgmb {hd a b c s} (h : s.memOk = true) : OutOk (execDbgmb hd a b c s) :=
  outOk_sysWord h fun _ _ _ h => memOk_dbgmbLane h

theorem memOk_trecLane {s t hd c pd d} (h : s.memOk = true) : (trecLane s t hd c pd d).memOk = true :=
  memOk_ite_of' (memOk_setTrapHead (memOk_addValue.trans h)) fun _ => memOk_addValue.trans h

theorem outOk_execTrec {hd pd d s} (h : s.memOk = true) : OutOk (execTrec hd pd d s) :=
  outOk_issueWord h fun _ _ h => memOk_out_ite h (memOk_foldl (fun _ _ h => memOk_trecLane h) h)

@[simp] theorem memOk_jrnlBillet {s c tgt roll} (h : s.memOk = true) : (jrnlBillet s c tgt roll).memOk = true := by
  unfold jrnlBillet
  repeat' split
  all_goals simp [h]

theorem outOk_execJrnl {hd roll a s} (h : s.memOk = true) : OutOk (execJrnl hd roll a s) :=
  outOk_sysWord h fun _ _ _ h => memOk_signal.trans (memOk_jrnlBillet h)

@[simp] theorem memOk_wdogGroup {s c tgt hn ofBillet timeout} : (wdogGroup s c tgt hn ofBillet timeout).memOk = s.memOk := by
  unfold wdogGroup
  repeat' split
  all_goals simp [memOk_mk]

theorem outOk_execWdog {hd hn ofBillet a b s} (h : s.memOk = true) : OutOk (execWdog hd hn ofBillet a b s) :=
  outOk_sysWord h fun _ _ _ h => memOk_wdogGroup.trans h

@[simp] theorem memOk_dropClauses {s c a n} : (dropClauses s c a n).memOk = s.memOk := by rfl

theorem outOk_execIinv {hd a b s} (h : s.memOk = true) : OutOk (execIinv hd a b s) :=
  outOk_sysWord h fun _ _ _ h => memOk_signal.trans (memOk_dropClauses.trans h)

theorem outOk_execTime {hd d s} (h : s.memOk = true) : OutOk (execTime hd d s) := by
  unfold execTime
  exact outOk_issueWord h bodyOk_fixedLanes

theorem outOk_execIrq {hd b s} (h : s.memOk = true) : OutOk (execIrq hd b s) :=
  outOk_sysWord h fun _ _ _ h => memOk_signal.trans (memOk_ite_of' h fun h => memOk_msix.trans h)

theorem outOk_execPerfr {hd d b s} (h : s.memOk = true) : OutOk (execPerfr hd d b s) := by
  unfold execPerfr
  exact outOk_issueWord h bodyOk_varLanes

theorem outOk_execSysr {hd d r s} (h : s.memOk = true) : OutOk (execSysr hd d r s) :=
  outOk_issueWord h fun _ _ h => memOk_out_ite h (bodyOk_varLanes _ _ h)

theorem memOk_syswLane {s t hd c r v} (h : s.memOk = true) : (syswLane s t hd c r v).memOk = true :=
  memOk_ite_of' (memOk_signal.trans (memOk_writeSysReg h)) fun _ =>
    memOk_ite_of (memOk_writeSysReg h) fun h => memOk_addOp.trans h

theorem outOk_execSysw {hd d r s} (h : s.memOk = true) : OutOk (execSysw hd d r s) :=
  outOk_issueWord h fun _ _ h => memOk_out_ite h (memOk_foldl (fun _ _ h => memOk_syswLane h) h)

theorem outOk_execDbgdataWrite {c v s} (h : s.memOk = true) : OutOk (execDbgdataWrite c v s) := by
  unfold execDbgdataWrite
  split <;> simp [h]

theorem outOk_execTlbinvWrite {c v s} (h : s.memOk = true) : OutOk (execTlbinvWrite c v s) := by
  unfold execTlbinvWrite
  split <;> simp [h]

theorem outOk_execTlbinvComplete {c s} (h : s.memOk = true) : OutOk (execTlbinvComplete c s) := by
  unfold execTlbinvComplete
  split <;> simp [h]

@[simp] theorem memOk_injectError {s a b} : (injectError s a b).memOk = s.memOk := by
  unfold injectError
  simp [memOk_mk]

theorem outOk_execErrinj {hd a b s} (h : s.memOk = true) : OutOk (execErrinj hd a b s) := by
  unfold execErrinj
  refine outOk_issueWord h fun s ts h => ?_
  simp [h]

theorem outOk_execHalt {hd s} (h : s.memOk = true) : OutOk (execHalt hd s) := by
  unfold execHalt
  refine outOk_issueWord h fun s ts h => ?_
  simp [h]

theorem outOk_execFirmwareWake {s} (h : s.memOk = true) : OutOk (execFirmwareWake s) :=
  outOk_ite outOk_idle (outOk_next.2 (memOk_foldl (fun _ _ h => memOk_release h) h))

@[simp] theorem memOk_replay {s f tag abort} (h : s.memOk = true) : (replay s f tag abort).memOk = true := by
  unfold replay
  simp [h]

theorem outOk_execFqreplayRetry {f tag s} (h : s.memOk = true) : OutOk (execFqreplayRetry f tag s) := by
  unfold execFqreplayRetry
  split <;> simp [h]

theorem outOk_execFqreplayAbort {f v s} (h : s.memOk = true) : OutOk (execFqreplayAbort f v s) := by
  unfold execFqreplayAbort
  repeat' split
  all_goals simp [h]

theorem outOk_execFqreplayRetryAll {f s} (h : s.memOk = true) : OutOk (execFqreplayRetryAll f s) :=
  outOk_ite outOk_idle (outOk_next.2 (memOk_foldl (fun _ _ h => memOk_replay h) h))

theorem outOk_execFqheadWrite {f v s} (h : s.memOk = true) : OutOk (execFqheadWrite f v s) := by
  unfold execFqheadWrite
  split <;> simp [h]

theorem outOk_execFqctlWrite {f v s} (h : s.memOk = true) : OutOk (execFqctlWrite f v s) := by
  unfold execFqctlWrite
  split <;> simp [h]

theorem outOk_execNqheadWrite {f v s} (h : s.memOk = true) : OutOk (execNqheadWrite f v s) := by
  unfold execNqheadWrite
  split <;> simp [h]

theorem outOk_execAcclrWrite {f v s} (h : s.memOk = true) : OutOk (execAcclrWrite f v s) := by
  unfold execAcclrWrite
  split <;> simp [memOk_mk, h]

theorem outOk_execEqheadWrite {f v s} (h : s.memOk = true) : OutOk (execEqheadWrite f v s) := by
  unfold execEqheadWrite
  split <;> simp [h]

theorem outOk_execDmheadWrite {f v s} (h : s.memOk = true) : OutOk (execDmheadWrite f v s) := by
  unfold execDmheadWrite
  split <;> simp [h]

theorem outOk_execUnallocatedOpcode {_op s} (h : s.memOk = true) : OutOk (execUnallocatedOpcode _op s) := by
  unfold execUnallocatedOpcode
  repeat' split
  all_goals simp [h]

theorem outOk_execCtxbindWrite {f v s} (h : s.memOk = true) : OutOk (execCtxbindWrite f v s) :=
  outOk_ite outOk_idle (outOk_next.2 (memOk_foldl (fun _ _ h => memOk_queueError h) (memOk_updTenant.trans h)))

theorem outOk_execCtxcmdCreate {f k s} (h : s.memOk = true) : OutOk (execCtxcmdCreate f k s) := by
  unfold execCtxcmdCreate
  simp only []
  repeat' split
  all_goals simp [memOk_mk, h]

@[simp] theorem memOk_dropSurfaces {s c} (h : s.memOk = true) : (dropSurfaces s c).memOk = true := by
  unfold dropSurfaces
  rw [memOk_mk, memOk_fields]
  exact memOk_foldl (fun _ _ h => planOk_attempt planOk_encodeBlock _ h) h

@[simp] theorem memOk_destroyCtx {s c} (h : s.memOk = true) : (destroyCtx s c).memOk = true := by
  unfold destroyCtx
  simp [memOk_mk, h]

theorem outOk_execCtxcmdDestroy {f k s} (h : s.memOk = true) : OutOk (execCtxcmdDestroy f k s) := by
  unfold execCtxcmdDestroy
  repeat' split
  all_goals simp [h]

@[simp] theorem memOk_writeSlotReg {s c o v} (h : s.memOk = true) : (writeSlotReg s c o v).memOk = true := by
  unfold writeSlotReg
  simp [h]

theorem outOk_execRegisterWrite {f off v s} (h : s.memOk = true) : OutOk (execRegisterWrite f off v s) := by
  unfold execRegisterWrite
  repeat' split
  all_goals simp [h]

theorem outOk_execMsixVectorUnmask {f vec s} (h : s.memOk = true) : OutOk (execMsixVectorUnmask f vec s) := by
  unfold execMsixVectorUnmask
  split <;> simp [h]

theorem outOk_execFunctionLevelReset {f s} (h : s.memOk = true) : OutOk (execFunctionLevelReset f s) := by
  refine outOk_ite outOk_idle (outOk_next.2 ?_)
  rw [memOk_mk, memOk_fields]
  exact memOk_foldl (fun _ _ h => memOk_destroyCtx h) (memOk_updTenant.trans h)

theorem outOk_execAttestationRequest {nonce s} (h : s.memOk = true) : OutOk (execAttestationRequest nonce s) := by
  unfold execAttestationRequest
  split <;> simp [memOk_mk, h]

@[simp] theorem memOk_failAt {s step} : (failAt s step).memOk = s.memOk := by rfl

@[simp] theorem memOk_retireAll {s bad} (h : s.memOk = true) : (retireAll s bad).memOk = true := by
  unfold retireAll
  refine memOk_foldl (fun s a h => ?_) ?_
  · simp [h]
  · simp [memOk_mk, h]

@[simp] theorem memOk_trainPorts {s x} : (trainPorts s x).memOk = s.memOk := by rfl

@[simp] theorem memOk_takeTime {s x kept} : (takeTime s x kept).memOk = s.memOk := by
  unfold takeTime
  split <;> simp [memOk_mk]

theorem outOk_execPowerGoodBringup {x s} (h : s.memOk = true) : OutOk (execPowerGoodBringup x s) := by
  unfold execPowerGoodBringup
  repeat' split
  all_goals simp [memOk_mk, h]

theorem outOk_execThermalThrottle {s} (h : s.memOk = true) : OutOk (execThermalThrottle s) := by
  unfold execThermalThrottle
  split <;> simp [memOk_mk, h]

@[simp] theorem memOk_terminateAll {s} (h : s.memOk = true) : (terminateAll s).memOk = true := by
  unfold terminateAll
  refine memOk_foldl (fun s a h => ?_) ?_
  · simp [h]
  · simp [h]

theorem outOk_execThermalShutdown {s} (h : s.memOk = true) : OutOk (execThermalShutdown s) := by
  unfold execThermalShutdown
  split <;> simp [memOk_mk, h]

@[simp] theorem memOk_encodeAll {s} (h : s.memOk = true) : (encodeAll s).memOk = true := by
  unfold encodeAll
  rw [memOk_mk, memOk_fields]
  refine memOk_foldl (fun s k h => ?_) h
  have hok := planOk_encodeBlock (k := k) s h
  split
  · rename_i s' hs
    rw [hs] at hok
    exact hok
  · rename_i r s' _ hs
    rw [hs] at hok
    exact memOk_terminateCtx hok

@[simp] theorem memOk_powerDown {s} (h : s.memOk = true) : (powerDown s).memOk = true := by
  obtain ⟨hmem, -, -, -⟩ := (memOk_iff _).1 (memOk_encodeAll h)
  exact (memOk_iff _).2 ⟨hmem, rfl, rfl, rfl⟩

theorem outOk_execD3hotEntry {s} (h : s.memOk = true) : OutOk (execD3hotEntry s) := by
  unfold execD3hotEntry
  repeat' split
  all_goals simp [memOk_mk, h]

theorem outOk_execD0Return {x s} (h : s.memOk = true) : OutOk (execD0Return x s) := by
  refine outOk_ite outOk_idle ?_
  split
  · refine outOk_next.2 (memOk_failAt.trans (memOk_ite_of' ?_ fun h => memOk_trainPorts.trans h))
    exact memOk_ite_of' h fun h => memOk_retireAll h
  · refine outOk_next.2 (memOk_foldl (fun _ _ h => memOk_postMiss h) ?_)
    rw [memOk_mk, memOk_fields, memOk_takeTime, memOk_trainPorts]
    exact memOk_retireAll h

end Sys2Proof.Machine
end

section
/-!
SUPPORT. Canonical memories: events of the agents, and the words of crews, integers, floats and graphics.
-/
namespace Sys2Proof.Machine

-- One theorem at a time: elaborating them side by side costs a thread stack each, and the text compiles under a memory limit.
set_option Elab.async false

theorem outOk_badWord {b x e s} (h : s.memOk = true) : OutOk (badWord b x e s) := by
  unfold badWord
  split <;> simp [h]

theorem memOk_ifEnabled {f : State → Out} {s} (hf : ∀ s : State, s.memOk = true → OutOk (f s)) (h : s.memOk = true) :
    (ifEnabled f s).memOk = true := by
  unfold ifEnabled
  split
  · rename_i s' hs
    exact hf s h s' hs
  · exact h

@[simp] theorem memOk_fireDue {s} (h : s.memOk = true) : (fireDue s).memOk = true := by
  have hall : ∀ {α : Type} {f : α → State → Out} {l : List α} {s : State}, (∀ a (s : State), s.memOk = true → OutOk (f a s)) →
      s.memOk = true → (l.foldl (fun s a => ifEnabled (f a) s) s).memOk = true := fun hf h =>
    memOk_foldl (fun _ _ h => memOk_ifEnabled (hf _) h) h
  refine hall (fun _ _ h => outOk_execProbeTimeout h) (hall (fun _ _ h => outOk_execTravfaultPoolTimeout h)
    (hall (fun _ _ h => outOk_execSurfpoolPinTimeout h) (hall (fun _ _ h => outOk_execGangfailTimeout h)
      (hall (fun _ _ h => outOk_execBartime h) (hall (fun _ _ h => outOk_execSleepWake h) (memOk_wakeWaitv ?_))))))
  exact hall (fun _ _ h => outOk_execDeadlineMiss h) h

@[simp] theorem memOk_tick {s} (h : s.memOk = true) : (tick s).memOk = true := by
  unfold tick
  split <;> simp [memOk_mk, h]

@[simp] theorem memOk_ticks {n s} (h : s.memOk = true) : (ticks n s).memOk = true := by
  induction n generalizing s with
  | zero => exact h
  | succ n ih => exact ih (memOk_tick h)

@[simp] theorem memOk_passTime {n s} (h : s.memOk = true) : (passTime n s).memOk = true := by
  unfold passTime
  simp [memOk_mk, h]

theorem outOk_afterEvent {n o} (h : OutOk o) : OutOk (afterEvent n o) := by
  unfold afterEvent
  split
  · rename_i s
    have hok := h s rfl
    exact outOk_next.2 (memOk_retireDoomed (memOk_ite_of hok fun h => memOk_fireDue h))
  · exact h

theorem outOk_revealStep {id lvl s} (h : s.memOk = true) : OutOk (revealStep id lvl s) := by
  unfold revealStep
  repeat' split
  all_goals simp [h]

@[simp] theorem memOk_noteStale {s addr n} : (noteStale s addr n).memOk = s.memOk := by
  unfold noteStale
  simp [memOk_mk]

@[simp] theorem memOk_hostWrite {s addr data} (h : s.memOk = true) : (hostWrite s addr data).memOk = true := by
  unfold hostWrite
  refine memOk_foldl (fun s a h => ?_) ?_
  · simp [h]
  · simp [h]

theorem outOk_outsideStore {addr data s} (h : s.memOk = true) : OutOk (outsideStore addr data s) := by
  unfold outsideStore
  repeat' split
  all_goals simp [h]

theorem bodyOk_crewBody {c mk} : BodyOk (crewBody c mk) := by
  intro s ts h
  refine memOk_foldl (fun _ _ h => memOk_resolveMask h) (Eq.trans (memOk_foldl_eq fun s t => memOk_updThr.trans memOk_leave) ?_)
  exact memOk_foldl_via (Prod.fst : State × List (Nat × TrapInfo) → State) (fun o cid h => memOk_crewDeliver.trans h) h

theorem outOk_lxchWord {mode wide hd sw pd d a b c s} (h : s.memOk = true) :
    OutOk (lxchWord mode wide hd sw pd d a b c s) := outOk_issueWord h bodyOk_crewBody

theorem outOk_cpqWord {k hd pci cneg pd d c s} (h : s.memOk = true) :
    OutOk (cpqWord k hd pci cneg pd d c s) := outOk_issueWord h bodyOk_crewBody

theorem outOk_groupWord {k hd pd d a c s} (h : s.memOk = true) :
    OutOk (groupWord k hd pd d a c s) := outOk_issueWord h bodyOk_crewBody

theorem outOk_execLead {hd pd d c s} (h : s.memOk = true) : OutOk (execLead hd pd d c s) := outOk_issueWord h bodyOk_crewBody

theorem outOk_execMemb {hd d c s} (h : s.memOk = true) : OutOk (execMemb hd d c s) := outOk_issueWord h bodyOk_crewBody

theorem outOk_execSmov {hd d a b s} (h : s.memOk = true) : OutOk (execSmov hd d a b s) := by
  refine outOk_issueWord h fun s ts h => memOk_foldl_via WordOut.s (fun o t h => ?_) h
  split
  · exact h
  · refine memOk_out_ite h ?_
    split
    · exact h
    · exact memOk_putRegs.trans h

theorem outOk_execGang {hd b s} (h : s.memOk = true) : OutOk (execGang hd b s) := by
  unfold execGang
  refine outOk_issueWord h fun s ts h => ?_
  simp [h]

theorem outOk_execPsave {hd d s} (h : s.memOk = true) : OutOk (execPsave hd d s) := by
  unfold execPsave
  exact outOk_issueWord h bodyOk_fixedLanes

theorem outOk_execPload {hd a s} (h : s.memOk = true) : OutOk (execPload hd a s) := by
  unfold execPload
  exact outOk_issueWord h bodyOk_fixedLanes

theorem outOk_aluWord {g hd dst srcs ws s} (h : s.memOk = true) : OutOk (aluWord g hd dst srcs ws s) := by
  unfold aluWord
  exact outOk_issueWord h bodyOk_fixedLanes

theorem outOk_varWord {g hd dst srcs ws s} (h : s.memOk = true) : OutOk (varWord g hd dst srcs ws s) := by
  unfold varWord
  exact outOk_issueWord h bodyOk_varLanes

theorem outOk_int32 {hd d a b f s} (h : s.memOk = true) : OutOk (int32 hd d a b f s) := by
  unfold int32
  exact outOk_aluWord h

theorem outOk_int64 {hd d a b f s} (h : s.memOk = true) : OutOk (int64 hd d a b f s) := by
  unfold int64
  exact outOk_aluWord h

theorem outOk_int3 {hd d a b c f s} (h : s.memOk = true) : OutOk (int3 hd d a b c f s) := by
  unfold int3
  exact outOk_aluWord h

theorem outOk_int1 {hd d a f s} (h : s.memOk = true) : OutOk (int1 hd d a f s) := by
  unfold int1
  exact outOk_aluWord h

theorem outOk_shift64 {hd d a b f s} (h : s.memOk = true) : OutOk (shift64 hd d a b f s) := by
  unfold shift64
  exact outOk_aluWord h

theorem outOk_madw {hd d a b c f s} (h : s.memOk = true) : OutOk (madw hd d a b c f s) := by
  unfold madw
  exact outOk_aluWord h

theorem outOk_carryWord {hd pci pco cneg d a b f s} (h : s.memOk = true) : OutOk (carryWord hd pci pco cneg d a b f s) := by
  unfold carryWord
  exact outOk_aluWord h

theorem outOk_div32 {hd d a b f s} (h : s.memOk = true) : OutOk (div32 hd d a b f s) := by
  unfold div32
  exact outOk_varWord h

theorem outOk_div64 {hd d a b f s} (h : s.memOk = true) : OutOk (div64 hd d a b f s) := by
  unfold div64
  exact outOk_varWord h

theorem outOk_icmp32 {hd cmp pd d a b f s} (h : s.memOk = true) : OutOk (icmp32 hd cmp pd d a b f s) := by
  unfold icmp32
  exact outOk_aluWord h

theorem outOk_icmp64 {hd cmp pd d a b f s} (h : s.memOk = true) : OutOk (icmp64 hd cmp pd d a b f s) := by
  unfold icmp64
  exact outOk_aluWord h

theorem outOk_execSel {hd pc pneg d a b s} (h : s.memOk = true) : OutOk (execSel hd pc pneg d a b s) := by
  unfold execSel
  exact outOk_issueWord h bodyOk_fixedLanes

theorem outOk_execMov {hd mw d a s} (h : s.memOk = true) : OutOk (execMov hd mw d a s) := by
  unfold execMov
  exact outOk_aluWord h

theorem outOk_execMovi {hd md d imm s} (h : s.memOk = true) : OutOk (execMovi hd md d imm s) := by
  cases md with
  | w32 => exact outOk_aluWord h
  | sx64 => exact outOk_aluWord h
  | zx64 => exact outOk_aluWord h

@[simp] theorem memOk_latchTime {s ts} : (latchTime s ts).memOk = s.memOk := by
  unfold latchTime
  simp

theorem outOk_execMovs {hd d r s} (h : s.memOk = true) : OutOk (execMovs hd d r s) := by
  refine outOk_issueWord h fun s ts h => ?_
  have hput := bodyOk_fixedLanes (f := fun s t => { ws := wr32 d (specialReg s t r) false }) s ts h
  have htime := memOk_ite_of' (c := r = .timelo) (t := latchTime _ ts) hput fun h => memOk_latchTime.trans h
  exact memOk_ite_of' htime fun h => memOk_foldl (fun _ _ h => memOk_passOn.trans h) h

theorem outOk_execPlop {hd pd pa pb pc lut s} (h : s.memOk = true) : OutOk (execPlop hd pd pa pb pc lut s) := by
  unfold execPlop
  exact outOk_issueWord h bodyOk_fixedLanes

theorem outOk_f32bin {hd d a b f s} (h : s.memOk = true) : OutOk (f32bin hd d a b f s) := by
  unfold f32bin
  exact outOk_aluWord h

theorem outOk_f64bin {hd d a b f s} (h : s.memOk = true) : OutOk (f64bin hd d a b f s) := by
  unfold f64bin
  exact outOk_aluWord h

theorem outOk_fpair {hd d a b f s} (h : s.memOk = true) : OutOk (fpair hd d a b f s) := by
  unfold fpair
  exact outOk_aluWord h

theorem outOk_f32tri {hd d a b c f s} (h : s.memOk = true) : OutOk (f32tri hd d a b c f s) := by
  unfold f32tri
  exact outOk_aluWord h

theorem outOk_f64tri {hd d a b c f s} (h : s.memOk = true) : OutOk (f64tri hd d a b c f s) := by
  unfold f64tri
  exact outOk_aluWord h

theorem outOk_fpair3 {hd d a b c f s} (h : s.memOk = true) : OutOk (fpair3 hd d a b c f s) := by
  unfold fpair3
  exact outOk_aluWord h

theorem outOk_fun1 {hd d a wd wa f s} (h : s.memOk = true) : OutOk (fun1 hd d a wd wa f s) := by
  unfold fun1
  exact outOk_aluWord h

theorem outOk_funVar1 {hd d a w f s} (h : s.memOk = true) : OutOk (funVar1 hd d a w f s) := by
  unfold funVar1
  exact outOk_varWord h

theorem outOk_fcmpPair {hd f cmp pd pd1 ftz d a b s} (h : s.memOk = true) : OutOk (fcmpPair hd f cmp pd pd1 ftz d a b s) := by
  unfold fcmpPair
  exact outOk_aluWord h

theorem outOk_execFfmaw {hd m d a b c s} (h : s.memOk = true) : OutOk (execFfmaw hd m d a b c s) := by
  unfold execFfmaw
  exact outOk_aluWord h

theorem outOk_execFcmpF32 {hd cmp pd ftz d a b s} (h : s.memOk = true) : OutOk (execFcmpF32 hd cmp pd ftz d a b s) := by
  unfold execFcmpF32
  exact outOk_aluWord h

theorem outOk_execFcmpF64 {hd cmp pd ftz d a b s} (h : s.memOk = true) : OutOk (execFcmpF64 hd cmp pd ftz d a b s) := by
  unfold execFcmpF64
  exact outOk_aluWord h

theorem outOk_execFclassF32 {hd pd d a b s} (h : s.memOk = true) : OutOk (execFclassF32 hd pd d a b s) := by
  unfold execFclassF32
  exact outOk_aluWord h

theorem outOk_execFclassF64 {hd pd d a b s} (h : s.memOk = true) : OutOk (execFclassF64 hd pd d a b s) := by
  unfold execFclassF64
  exact outOk_aluWord h

theorem outOk_execFdot2Bf16 {hd m d a b c s} (h : s.memOk = true) : OutOk (execFdot2Bf16 hd m d a b c s) := by
  unfold execFdot2Bf16
  exact outOk_aluWord h

theorem outOk_execFtsumF64 {hd m d a b s} (h : s.memOk = true) : OutOk (execFtsumF64 hd m d a b s) := by
  unfold execFtsumF64
  exact outOk_aluWord h

theorem outOk_execCrelF32 {hd sat ftz d a b s} (h : s.memOk = true) : OutOk (execCrelF32 hd sat ftz d a b s) := by
  unfold execCrelF32
  exact outOk_aluWord h

theorem outOk_testWord {hd d n srcs pd f s} (h : s.memOk = true) : OutOk (testWord hd d n srcs pd f s) := by
  unfold testWord
  exact outOk_issueWord h bodyOk_fixedLanes

theorem outOk_execTrix {hd pd d a b s} (h : s.memOk = true) : OutOk (execTrix hd pd d a b s) := by
  unfold execTrix
  exact outOk_testWord h

theorem outOk_execTrixD {hd pd d a b c s} (h : s.memOk = true) : OutOk (execTrixD hd pd d a b c s) := by
  unfold execTrixD
  exact outOk_testWord h

theorem outOk_execBox12 {hd k pd d a b c s} (h : s.memOk = true) : OutOk (execBox12 hd k pd d a b c s) := by
  unfold execBox12
  exact outOk_testWord h

theorem outOk_execBox12x4 {hd hf pd d a b c s} (h : s.memOk = true) : OutOk (execBox12x4 hd hf pd d a b c s) := by
  unfold execBox12x4
  exact outOk_testWord h

end Sys2Proof.Machine
end

section
/-!
SUPPORT. Canonical memories: every instruction and every step; O55.
-/
namespace Sys2Proof.Machine

-- One theorem at a time: elaborating them side by side costs a thread stack each, and the text compiles under a memory limit.
set_option Elab.async false

/-- Every instruction and every event keeps the form of the memories. -/
theorem outOk_exec {i s} (hok : State.memOk s = true) : OutOk (exec i s) := by
  cases i with
  | addB32 h d a b => exact (outOk_int32 hok : OutOk (execAddB32 h d a b s))
  | addB64 h d a b => exact (outOk_int64 hok : OutOk (execAddB64 h d a b s))
  | add3B32 h d a b c => exact (outOk_int3 hok : OutOk (execAdd3B32 h d a b c s))
  | addcB32 h pci pco cneg d a b => exact (outOk_carryWord hok : OutOk (execAddcB32 h pci pco cneg d a b s))
  | addsS32 h d a b => exact (outOk_int32 hok : OutOk (execAddsS32 h d a b s))
  | subB32 h d a b => exact (outOk_int32 hok : OutOk (execSubB32 h d a b s))
  | subB64 h d a b => exact (outOk_int64 hok : OutOk (execSubB64 h d a b s))
  | subcB32 h pci pco cneg d a b => exact (outOk_carryWord hok : OutOk (execSubcB32 h pci pco cneg d a b s))
  | subsS32 h d a b => exact (outOk_int32 hok : OutOk (execSubsS32 h d a b s))
  | mulB32 h d a b => exact (outOk_int32 hok : OutOk (execMulB32 h d a b s))
  | mulB64 h d a b => exact (outOk_int64 hok : OutOk (execMulB64 h d a b s))
  | mulhS32 h d a b => exact (outOk_int32 hok : OutOk (execMulhS32 h d a b s))
  | mulhZ32 h d a b => exact (outOk_int32 hok : OutOk (execMulhZ32 h d a b s))
  | madB32 h d a b c => exact (outOk_int3 hok : OutOk (execMadB32 h d a b c s))
  | madwS32 h d a b c => exact (outOk_madw hok : OutOk (execMadwS32 h d a b c s))
  | madwZ32 h d a b c => exact (outOk_madw hok : OutOk (execMadwZ32 h d a b c s))
  | divS32 h d a b => exact (outOk_div32 hok : OutOk (execDivS32 h d a b s))
  | divZ32 h d a b => exact (outOk_div32 hok : OutOk (execDivZ32 h d a b s))
  | divS64 h d a b => exact (outOk_div64 hok : OutOk (execDivS64 h d a b s))
  | divZ64 h d a b => exact (outOk_div64 hok : OutOk (execDivZ64 h d a b s))
  | remS32 h d a b => exact (outOk_div32 hok : OutOk (execRemS32 h d a b s))
  | remZ32 h d a b => exact (outOk_div32 hok : OutOk (execRemZ32 h d a b s))
  | minS32 h d a b => exact (outOk_int32 hok : OutOk (execMinS32 h d a b s))
  | minZ32 h d a b => exact (outOk_int32 hok : OutOk (execMinZ32 h d a b s))
  | maxS32 h d a b => exact (outOk_int32 hok : OutOk (execMaxS32 h d a b s))
  | maxZ32 h d a b => exact (outOk_int32 hok : OutOk (execMaxZ32 h d a b s))
  | clampS32 h d a b c => exact (outOk_int3 hok : OutOk (execClampS32 h d a b c s))
  | clampZ32 h d a b c => exact (outOk_int3 hok : OutOk (execClampZ32 h d a b c s))
  | absS32 h sat d a => exact (outOk_int1 hok : OutOk (execAbsS32 h sat d a s))
  | negS32 h sat d a => exact (outOk_int1 hok : OutOk (execNegS32 h sat d a s))
  | andB h d a b => exact (outOk_int32 hok : OutOk (execAndB h d a b s))
  | orB h d a b => exact (outOk_int32 hok : OutOk (execOrB h d a b s))
  | xorB h d a b => exact (outOk_int32 hok : OutOk (execXorB h d a b s))
  | andn h d a b => exact (outOk_int32 hok : OutOk (execAndn h d a b s))
  | notB h d a => exact (outOk_int1 hok : OutOk (execNotB h d a s))
  | shlB32 h d a b => exact (outOk_int32 hok : OutOk (execShlB32 h d a b s))
  | shlB64 h d a b => exact (outOk_shift64 hok : OutOk (execShlB64 h d a b s))
  | shrB32 h d a b => exact (outOk_int32 hok : OutOk (execShrB32 h d a b s))
  | shrB64 h d a b => exact (outOk_shift64 hok : OutOk (execShrB64 h d a b s))
  | sarB32 h d a b => exact (outOk_int32 hok : OutOk (execSarB32 h d a b s))
  | sarB64 h d a b => exact (outOk_shift64 hok : OutOk (execSarB64 h d a b s))
  | rotB32 h right d a b => exact (outOk_int32 hok : OutOk (execRotB32 h right d a b s))
  | fsh h right d a b c => exact (outOk_int3 hok : OutOk (execFsh h right d a b c s))
  | bfxS32 h d a b => exact (outOk_int32 hok : OutOk (execBfxS32 h d a b s))
  | bfxZ32 h d a b => exact (outOk_int32 hok : OutOk (execBfxZ32 h d a b s))
  | bfi h d a b c => exact (outOk_int3 hok : OutOk (execBfi h d a b c s))
  | bmsk h d b => exact (outOk_aluWord hok : OutOk (execBmsk h d b s))
  | popc h d a => exact (outOk_int1 hok : OutOk (execPopc h d a s))
  | clz h d a => exact (outOk_int1 hok : OutOk (execClz h d a s))
  | brev h d a => exact (outOk_int1 hok : OutOk (execBrev h d a s))
  | bswz h d a b c => exact (outOk_int3 hok : OutOk (execBswz h d a b c s))
  | sel h pc pneg d a b => exact outOk_execSel hok
  | icmpS32 h cmp pd d a b => exact (outOk_icmp32 hok : OutOk (execIcmpS32 h cmp pd d a b s))
  | icmpZ32 h cmp pd d a b => exact (outOk_icmp32 hok : OutOk (execIcmpZ32 h cmp pd d a b s))
  | icmpS64 h cmp pd d a b => exact (outOk_icmp64 hok : OutOk (execIcmpS64 h cmp pd d a b s))
  | icmpZ64 h cmp pd d a b => exact (outOk_icmp64 hok : OutOk (execIcmpZ64 h cmp pd d a b s))
  | idot4S8 h sat d a b c => exact (outOk_int3 hok : OutOk (execIdot4S8 h sat d a b c s))
  | idot4Z8 h sat d a b c => exact (outOk_int3 hok : OutOk (execIdot4Z8 h sat d a b c s))
  | sad h d a b c => exact (outOk_int3 hok : OutOk (execSad h d a b c s))
  | lea h sh zx d a b => exact (outOk_aluWord hok : OutOk (execLea h sh zx d a b s))
  | mov h mw d a => exact outOk_execMov hok
  | movi h md d imm => exact outOk_execMovi hok
  | movs h d r => exact outOk_execMovs hok
  | plop h pd pa pb pc lut => exact outOk_execPlop hok
  | faddF32 h m d a b => exact (outOk_f32bin hok : OutOk (execFaddF32 h m d a b s))
  | faddF64 h m d a b => exact (outOk_f64bin hok : OutOk (execFaddF64 h m d a b s))
  | faddF16x2 h m d a b => exact (outOk_fpair hok : OutOk (execFaddF16x2 h m d a b s))
  | faddBf16x2 h m d a b => exact (outOk_fpair hok : OutOk (execFaddBf16x2 h m d a b s))
  | fmulF32 h m d a b => exact (outOk_f32bin hok : OutOk (execFmulF32 h m d a b s))
  | fmulF64 h m d a b => exact (outOk_f64bin hok : OutOk (execFmulF64 h m d a b s))
  | fmulF16x2 h m d a b => exact (outOk_fpair hok : OutOk (execFmulF16x2 h m d a b s))
  | fmulBf16x2 h m d a b => exact (outOk_fpair hok : OutOk (execFmulBf16x2 h m d a b s))
  | ffmaF32 h m d a b c => exact (outOk_f32tri hok : OutOk (execFfmaF32 h m d a b c s))
  | ffmaF64 h m d a b c => exact (outOk_f64tri hok : OutOk (execFfmaF64 h m d a b c s))
  | ffmaF16x2 h m d a b c => exact (outOk_fpair3 hok : OutOk (execFfmaF16x2 h m d a b c s))
  | ffmaBf16x2 h m d a b c => exact (outOk_fpair3 hok : OutOk (execFfmaBf16x2 h m d a b c s))
  | ffmaw h m d a b c => exact outOk_execFfmaw hok
  | fdivF32 h m d a b => exact (outOk_varWord hok : OutOk (execFdivF32 h m d a b s))
  | fdivF64 h m d a b => exact (outOk_varWord hok : OutOk (execFdivF64 h m d a b s))
  | fsqrtF32 h m d a => exact (outOk_funVar1 hok : OutOk (execFsqrtF32 h m d a s))
  | fsqrtF64 h m d a => exact (outOk_funVar1 hok : OutOk (execFsqrtF64 h m d a s))
  | fminF32 h m d a b => exact (outOk_f32bin hok : OutOk (execFminF32 h m d a b s))
  | fminF64 h m d a b => exact (outOk_f64bin hok : OutOk (execFminF64 h m d a b s))
  | fmaxF32 h m d a b => exact (outOk_f32bin hok : OutOk (execFmaxF32 h m d a b s))
  | fmaxF64 h m d a b => exact (outOk_f64bin hok : OutOk (execFmaxF64 h m d a b s))
  | fmed3F32 h m d a b c => exact (outOk_f32tri hok : OutOk (execFmed3F32 h m d a b c s))
  | fmed3F64 h m d a b c => exact (outOk_f64tri hok : OutOk (execFmed3F64 h m d a b c s))
  | fcmpF32 h cmp pd ftz d a b => exact outOk_execFcmpF32 hok
  | fcmpF64 h cmp pd ftz d a b => exact outOk_execFcmpF64 hok
  | fcmpF16x2 h cmp pd pd1 ftz d a b => exact (outOk_fcmpPair hok : OutOk (execFcmpF16x2 h cmp pd pd1 ftz d a b s))
  | fcmpBf16x2 h cmp pd pd1 ftz d a b => exact (outOk_fcmpPair hok : OutOk (execFcmpBf16x2 h cmp pd pd1 ftz d a b s))
  | fclassF32 h pd d a b => exact outOk_execFclassF32 hok
  | fclassF64 h pd d a b => exact outOk_execFclassF64 hok
  | frndF32 h m d a => exact (outOk_fun1 hok : OutOk (execFrndF32 h m d a s))
  | frndF64 h m d a => exact (outOk_fun1 hok : OutOk (execFrndF64 h m d a s))
  | fscaleF32 h m d a b => exact (outOk_aluWord hok : OutOk (execFscaleF32 h m d a b s))
  | fscaleF64 h m d a b => exact (outOk_aluWord hok : OutOk (execFscaleF64 h m d a b s))
  | fexpF32 h ftz d a => exact (outOk_fun1 hok : OutOk (execFexpF32 h ftz d a s))
  | fexpF64 h ftz d a => exact (outOk_fun1 hok : OutOk (execFexpF64 h ftz d a s))
  | sfnF32 h fn absA negA sat ftz d a => exact (outOk_funVar1 hok : OutOk (execSfnF32 h fn absA negA sat ftz d a s))
  | sfnF64 h fn absA negA sat ftz d a => exact (outOk_funVar1 hok : OutOk (execSfnF64 h fn absA negA sat ftz d a s))
  | fdot2Bf16 h m d a b c => exact outOk_execFdot2Bf16 hok
  | ftsumF64 h m d a b => exact outOk_execFtsumF64 hok
  | crelF32 h sat ftz d a b => exact outOk_execCrelF32 hok
  | fcvtF32F64 h m d a => exact (outOk_fun1 hok : OutOk (execFcvtF32F64 h m d a s))
  | fcvtF64F32 h m d a => exact (outOk_fun1 hok : OutOk (execFcvtF64F32 h m d a s))
  | fcvtF32F16 h m hi d a => exact (outOk_fun1 hok : OutOk (execFcvtF32F16 h m hi d a s))
  | fcvtF16x2F32 h m d a b => exact (outOk_aluWord hok : OutOk (execFcvtF16x2F32 h m d a b s))
  | fcvtF32Bf16 h m hi d a => exact (outOk_fun1 hok : OutOk (execFcvtF32Bf16 h m hi d a s))
  | fcvtBf16x2F32 h m d a b => exact (outOk_aluWord hok : OutOk (execFcvtBf16x2F32 h m d a b s))
  | fcvtS32F32 h m d a => exact (outOk_fun1 hok : OutOk (execFcvtS32F32 h m d a s))
  | fcvtZ32F32 h m d a => exact (outOk_fun1 hok : OutOk (execFcvtZ32F32 h m d a s))
  | fcvtF32S32 h m d a => exact (outOk_fun1 hok : OutOk (execFcvtF32S32 h m d a s))
  | fcvtF32Z32 h m d a => exact (outOk_fun1 hok : OutOk (execFcvtF32Z32 h m d a s))
  | fcvtS64F64 h m d a => exact (outOk_fun1 hok : OutOk (execFcvtS64F64 h m d a s))
  | fcvtZ64F64 h m d a => exact (outOk_fun1 hok : OutOk (execFcvtZ64F64 h m d a s))
  | fcvtF64S64 h m d a => exact (outOk_fun1 hok : OutOk (execFcvtF64S64 h m d a s))
  | fcvtF64Z64 h m d a => exact (outOk_fun1 hok : OutOk (execFcvtF64Z64 h m d a s))
  | fcvtS32F64 h m d a => exact (outOk_fun1 hok : OutOk (execFcvtS32F64 h m d a s))
  | fcvtF64S32 h m d a => exact (outOk_fun1 hok : OutOk (execFcvtF64S32 h m d a s))
  | bra h wofs => exact outOk_execBra hok
  | braCons h wofs => exact outOk_execBraCons hok
  | brx h a => exact outOk_execBrx hok
  | call h wofs => exact outOk_execCall hok
  | callx h a => exact outOk_execCallx hok
  | ret h => exact outOk_execRet hok
  | exit h => exact outOk_execExit hok
  | nop h => exact outOk_execNop hok
  | join h b => exact outOk_execJoin hok
  | yield_ h => exact outOk_execYield hok
  | prio h b => exact outOk_execPrio hok
  | dbnz h a wofs => exact outOk_execDbnz hok
  | lxchAtB32 h sw pd d a b c => exact (outOk_lxchWord hok : OutOk (execLxchAtB32 h sw pd d a b c s))
  | lxchRotB32 h sw pd d a b c => exact (outOk_lxchWord hok : OutOk (execLxchRotB32 h sw pd d a b c s))
  | lxchDistB32 h sw pd d a b c => exact (outOk_lxchWord hok : OutOk (execLxchDistB32 h sw pd d a b c s))
  | lxchMirB32 h sw pd d a b c => exact (outOk_lxchWord hok : OutOk (execLxchMirB32 h sw pd d a b c s))
  | lxchAtB64 h sw pd d a b c => exact (outOk_lxchWord hok : OutOk (execLxchAtB64 h sw pd d a b c s))
  | lxchRotB64 h sw pd d a b c => exact (outOk_lxchWord hok : OutOk (execLxchRotB64 h sw pd d a b c s))
  | lxchDistB64 h sw pd d a b c => exact (outOk_lxchWord hok : OutOk (execLxchDistB64 h sw pd d a b c s))
  | lxchMirB64 h sw pd d a b c => exact (outOk_lxchWord hok : OutOk (execLxchMirB64 h sw pd d a b c s))
  | cpqAll h pci cneg pd d c => exact (outOk_cpqWord hok : OutOk (execCpqAll h pci cneg pd d c s))
  | cpqAny h pci cneg pd d c => exact (outOk_cpqWord hok : OutOk (execCpqAny h pci cneg pd d c s))
  | cpqSame h pci cneg pd d c => exact (outOk_cpqWord hok : OutOk (execCpqSame h pci cneg pd d c s))
  | cpqMask h pci cneg d c => exact (outOk_cpqWord hok : OutOk (execCpqMask h pci cneg d c s))
  | cpqNum h pci cneg d c => exact (outOk_cpqWord hok : OutOk (execCpqNum h pci cneg d c s))
  | vgrpPart h d a c => exact (outOk_groupWord hok : OutOk (execVgrpPart h d a c s))
  | vgrpUni h pd d a c => exact (outOk_groupWord hok : OutOk (execVgrpUni h pd d a c s))
  | credAddB32 h d a c => exact (outOk_groupWord hok : OutOk (execCredAddB32 h d a c s))
  | credMinS32 h d a c => exact (outOk_groupWord hok : OutOk (execCredMinS32 h d a c s))
  | credMinZ32 h d a c => exact (outOk_groupWord hok : OutOk (execCredMinZ32 h d a c s))
  | credMaxS32 h d a c => exact (outOk_groupWord hok : OutOk (execCredMaxS32 h d a c s))
  | credMaxZ32 h d a c => exact (outOk_groupWord hok : OutOk (execCredMaxZ32 h d a c s))
  | credAnd h d a c => exact (outOk_groupWord hok : OutOk (execCredAnd h d a c s))
  | credOr h d a c => exact (outOk_groupWord hok : OutOk (execCredOr h d a c s))
  | credXor h d a c => exact (outOk_groupWord hok : OutOk (execCredXor h d a c s))
  | credFaddF32 h d a c => exact (outOk_groupWord hok : OutOk (execCredFaddF32 h d a c s))
  | credFminF32 h d a c => exact (outOk_groupWord hok : OutOk (execCredFminF32 h d a c s))
  | lead h pd d c => exact outOk_execLead hok
  | memb h d c => exact outOk_execMemb hok
  | smov h d a b => exact outOk_execSmov hok
  | gang h b => exact outOk_execGang hok
  | psave h d => exact outOk_execPsave hok
  | pload h a => exact outOk_execPload hok
  | barSync h hn d b => exact (outOk_arriveWord hok : OutOk (execBarSync h hn d b s))
  | barArv h hn d b => exact (outOk_arriveWord hok : OutOk (execBarArv h hn d b s))
  | barArvc h hn d b => exact (outOk_arriveWord hok : OutOk (execBarArvc h hn d b s))
  | barWait h hn d a b => exact (outOk_waitWord hok : OutOk (execBarWait h hn d a b s))
  | barTry h hn d a b => exact (outOk_waitWord hok : OutOk (execBarTry h hn d a b s))
  | barLeave h hn b => exact outOk_execBarLeave hok
  | barReset h hn => exact outOk_execBarReset hok
  | bbar h d b => exact (outOk_arriveWord hok : OutOk (execBbar h d b s))
  | grpq h hn sel d => exact outOk_execGrpq hok
  | stginit h d m => exact (outOk_stageWord hok : OutOk (execStginit h d m s))
  | stgowe h d m => exact (outOk_stageWord hok : OutOk (execStgowe h d m s))
  | stgadd h d m => exact (outOk_stageWord hok : OutOk (execStgadd h d m s))
  | stgarv h m => exact (outOk_stageWord hok : OutOk (execStgarv h m s))
  | stgtry h d m => exact outOk_execStgtry hok
  | stgwait h d m => exact outOk_execStgwait hok
  | stginval h m => exact (outOk_stageWord hok : OutOk (execStginval h m s))
  | qinit h d m => exact outOk_execQinit hok
  | qpush h d m => exact (outOk_pushWord hok : OutOk (execQpush h d m s))
  | qpushW h d m => exact (outOk_pushWord hok : OutOk (execQpushW h d m s))
  | qpop h d m => exact (outOk_popWord hok : OutOk (execQpop h d m s))
  | qpopW h d m => exact (outOk_popWord hok : OutOk (execQpopW h d m s))
  | qtrypush h d m => exact outOk_execQtrypush hok
  | qtrypop h d m => exact (outOk_tryPopWord hok : OutOk (execQtrypop h d m s))
  | qpeek h d m => exact (outOk_tryPopWord hok : OutOk (execQpeek h d m s))
  | qcount h d m => exact outOk_execQcount hok
  | qbreak h m => exact outOk_execQbreak hok
  | waitvAny h d a b c => exact (outOk_waitvWord hok : OutOk (execWaitvAny h d a b c s))
  | waitvAll h d a b c => exact (outOk_waitvWord hok : OutOk (execWaitvAll h d a b c s))
  | monitor h mn base ofs => exact outOk_execMonitor hok
  | unmonitor h mask => exact outOk_execUnmonitor hok
  | montest h d => exact outOk_execMontest hok
  | sleep h b => exact outOk_execSleep hok
  | ldS8 h d m => exact (outOk_loadWord hok : OutOk (execLdS8 h d m s))
  | ldZ8 h d m => exact (outOk_loadWord hok : OutOk (execLdZ8 h d m s))
  | ldS16 h d m => exact (outOk_loadWord hok : OutOk (execLdS16 h d m s))
  | ldZ16 h d m => exact (outOk_loadWord hok : OutOk (execLdZ16 h d m s))
  | ldB32 h d m => exact (outOk_loadWord hok : OutOk (execLdB32 h d m s))
  | ldB64 h d m => exact (outOk_loadWord hok : OutOk (execLdB64 h d m s))
  | ldB128 h d m => exact (outOk_loadWord hok : OutOk (execLdB128 h d m s))
  | stB8 h d m => exact (outOk_storeWord hok : OutOk (execStB8 h d m s))
  | stB16 h d m => exact (outOk_storeWord hok : OutOk (execStB16 h d m s))
  | stB32 h d m => exact (outOk_storeWord hok : OutOk (execStB32 h d m s))
  | stB64 h d m => exact (outOk_storeWord hok : OutOk (execStB64 h d m s))
  | stB128 h d m => exact (outOk_storeWord hok : OutOk (execStB128 h d m s))
  | ldsS8 h d m => exact (outOk_scratchLoad hok : OutOk (execLdsS8 h d m s))
  | ldsZ8 h d m => exact (outOk_scratchLoad hok : OutOk (execLdsZ8 h d m s))
  | ldsS16 h d m => exact (outOk_scratchLoad hok : OutOk (execLdsS16 h d m s))
  | ldsZ16 h d m => exact (outOk_scratchLoad hok : OutOk (execLdsZ16 h d m s))
  | ldsB32 h d m => exact (outOk_scratchLoad hok : OutOk (execLdsB32 h d m s))
  | ldsB64 h d m => exact (outOk_scratchLoad hok : OutOk (execLdsB64 h d m s))
  | ldsB128 h d m => exact (outOk_scratchLoad hok : OutOk (execLdsB128 h d m s))
  | stsB8 h d m => exact (outOk_scratchStore hok : OutOk (execStsB8 h d m s))
  | stsB16 h d m => exact (outOk_scratchStore hok : OutOk (execStsB16 h d m s))
  | stsB32 h d m => exact (outOk_scratchStore hok : OutOk (execStsB32 h d m s))
  | stsB64 h d m => exact (outOk_scratchStore hok : OutOk (execStsB64 h d m s))
  | stsB128 h d m => exact (outOk_scratchStore hok : OutOk (execStsB128 h d m s))
  | ldxB32 h d m => exact (outOk_scratchLoad hok : OutOk (execLdxB32 h d m s))
  | ldxB64 h d m => exact (outOk_scratchLoad hok : OutOk (execLdxB64 h d m s))
  | ldxB128 h d m => exact (outOk_scratchLoad hok : OutOk (execLdxB128 h d m s))
  | stxB32 h d m => exact (outOk_scratchStore hok : OutOk (execStxB32 h d m s))
  | stxB64 h d m => exact (outOk_scratchStore hok : OutOk (execStxB64 h d m s))
  | stxB128 h d m => exact (outOk_scratchStore hok : OutOk (execStxB128 h d m s))
  | ldcB32 h d m => exact (outOk_ldcWord hok : OutOk (execLdcB32 h d m s))
  | ldcB64 h d m => exact (outOk_ldcWord hok : OutOk (execLdcB64 h d m s))
  | atomAddB32 h d m => exact (outOk_atomWord hok : OutOk (execAtomAddB32 h d m s))
  | atomAddB64 h d m => exact (outOk_atomWord hok : OutOk (execAtomAddB64 h d m s))
  | atomFaddF32 h d m => exact (outOk_atomWord hok : OutOk (execAtomFaddF32 h d m s))
  | atomFaddF64 h d m => exact (outOk_atomWord hok : OutOk (execAtomFaddF64 h d m s))
  | atomFaddBf16x2 h d m => exact (outOk_atomWord hok : OutOk (execAtomFaddBf16x2 h d m s))
  | atomMinS32 h d m => exact (outOk_atomWord hok : OutOk (execAtomMinS32 h d m s))
  | atomMinZ32 h d m => exact (outOk_atomWord hok : OutOk (execAtomMinZ32 h d m s))
  | atomMaxS32 h d m => exact (outOk_atomWord hok : OutOk (execAtomMaxS32 h d m s))
  | atomMaxZ32 h d m => exact (outOk_atomWord hok : OutOk (execAtomMaxZ32 h d m s))
  | atomAndB32 h d m => exact (outOk_atomWord hok : OutOk (execAtomAndB32 h d m s))
  | atomOrB32 h d m => exact (outOk_atomWord hok : OutOk (execAtomOrB32 h d m s))
  | atomXorB32 h d m => exact (outOk_atomWord hok : OutOk (execAtomXorB32 h d m s))
  | atomExchB32 h d m => exact (outOk_atomWord hok : OutOk (execAtomExchB32 h d m s))
  | atomExchB64 h d m => exact (outOk_atomWord hok : OutOk (execAtomExchB64 h d m s))
  | casB32 h d m => exact (outOk_casWord hok : OutOk (execCasB32 h d m s))
  | casB64 h d m => exact (outOk_casWord hok : OutOk (execCasB64 h d m s))
  | casB128 h d m => exact (outOk_casWord hok : OutOk (execCasB128 h d m s))
  | redB32 h op d m => exact (outOk_redWord hok : OutOk (execRedB32 h op d m s))
  | redB64 h op d m => exact (outOk_redWord hok : OutOk (execRedB64 h op d m s))
  | atomsAddB32 h d m => exact (outOk_scratchAtom hok : OutOk (execAtomsAddB32 h d m s))
  | atomsCasB32 h d m => exact (outOk_scratchCas hok : OutOk (execAtomsCasB32 h d m s))
  | atomsFaddF32 h d m => exact (outOk_scratchAtom hok : OutOk (execAtomsFaddF32 h d m s))
  | mcas h d m => exact outOk_execMcas hok
  | fence h sc od strict => exact outOk_execFence hok
  | cctl h inv pg m => exact outOk_execCctl hok
  | pref h m => exact outOk_execPref hok
  | ptst h pd mw a => exact outOk_execPtst hok
  | pclr h mw a => exact outOk_execPclr hok
  | push h q src pd => exact outOk_execPush hok
  | mmaF64 h sa sb acc zs rel => exact (outOk_mmaPlain hok : OutOk (execMmaF64 h sa sb acc zs rel s))
  | mmaF32 h sa sb acc zs rel => exact (outOk_mmaPlain hok : OutOk (execMmaF32 h sa sb acc zs rel s))
  | mmaBf16 h sa sb acc zs rel => exact (outOk_mmaPlain hok : OutOk (execMmaBf16 h sa sb acc zs rel s))
  | mmaF16 h sa sb acc zs rel => exact (outOk_mmaPlain hok : OutOk (execMmaF16 h sa sb acc zs rel s))
  | mmaE4m3 h sa sb vs vt acc zs sh rel => exact (outOk_mmaBlock hok : OutOk (execMmaE4m3 h sa sb vs vt acc zs sh rel s))
  | mmaE5m2 h sa sb vs vt acc zs sh rel => exact (outOk_mmaBlock hok : OutOk (execMmaE5m2 h sa sb vs vt acc zs sh rel s))
  | mmaE2m1 h sa sb vs vt acc zs rel => exact (outOk_mmaBlock hok : OutOk (execMmaE2m1 h sa sb vs vt acc zs rel s))
  | mmaBx8 h sa sb vs vt acc zs rel => exact (outOk_mmaBlock hok : OutOk (execMmaBx8 h sa sb vs vt acc zs rel s))
  | mmaBx4 h sa sb vs vt acc zs rel => exact (outOk_mmaBlock hok : OutOk (execMmaBx4 h sa sb vs vt acc zs rel s))
  | mmaS8 h sa sb acc zs rel => exact (outOk_mmaPlain hok : OutOk (execMmaS8 h sa sb acc zs rel s))
  | mmaS4 h sa sb acc zs rel => exact (outOk_mmaPlain hok : OutOk (execMmaS4 h sa sb acc zs rel s))
  | mzero h acc w64 => exact (outOk_matWord hok : OutOk (execMzero h acc w64 s))
  | mdrainF32 h d acc cg => exact (outOk_mdrain hok : OutOk (execMdrainF32 h d acc cg s))
  | mdrainF64 h d acc cg => exact (outOk_mdrain hok : OutOk (execMdrainF64 h d acc cg s))
  | mdrainBf16 h d acc cg => exact (outOk_mdrain hok : OutOk (execMdrainBf16 h d acc cg s))
  | mdrainF16 h d acc cg => exact (outOk_mdrain hok : OutOk (execMdrainF16 h d acc cg s))
  | mload h sd acc w64 => exact (outOk_matWord hok : OutOk (execMload h sd acc w64 s))
  | mstore h sd ss acc w64 => exact (outOk_matWord hok : OutOk (execMstore h sd ss acc w64 s))
  | mscl h vs acc w64 => exact (outOk_matWord hok : OutOk (execMscl h vs acc w64 s))
  | maddc h vt acc w64 => exact (outOk_matWord hok : OutOk (execMaddc h vt acc w64 s))
  | mcopy h acc src w64 => exact (outOk_matWord hok : OutOk (execMcopy h acc src w64 s))
  | mstat h d acc w64 => exact (outOk_matWord hok : OutOk (execMstat h d acc w64 s))
  | sldP h w64 d a b => exact outOk_execSldP hok
  | sldQ h d a b => exact outOk_execSldQ hok
  | sldB h d a b => exact outOk_execSldB hok
  | sldD h pd d a b c => exact outOk_execSldD hok
  | sstP h w64 a b c => exact outOk_execSstP hok
  | sstQ h a b c => exact outOk_execSstQ hok
  | sstB h a b c => exact outOk_execSstB hok
  | sstM h w64 mask a b c => exact outOk_execSstM hok
  | scoef h k ch a b c => exact outOk_execScoef hok
  | scoefB h g ch a b c => exact outOk_execScoefB hok
  | smv h a b c => exact outOk_execSmv hok
  | sref h r a b => exact outOk_execSref hok
  | srate h a b c => exact outOk_execSrate hok
  | sanchor h w64 a b c => exact outOk_execSanchor hok
  | sqry h sel d a b => exact outOk_execSqry hok
  | sflush h a => exact (outOk_flushWord hok : OutOk (execSflush h a s))
  | srel h a => exact (outOk_flushWord hok : OutOk (execSrel h a s))
  | trix h pd d a b => exact outOk_execTrix hok
  | trixD h pd d a b c => exact outOk_execTrixD hok
  | triw h m d a b => exact (outOk_testWord hok : OutOk (execTriw h m d a b s))
  | box12 h k pd d a b c => exact outOk_execBox12 hok
  | box12x4 h hf pd d a b c => exact outOk_execBox12x4 hok
  | nodex h k pd d a b => exact (outOk_testWord hok : OutOk (execNodex h k pd d a b s))
  | trap h imm => exact (outOk_trapWord hok : OutOk (execTrap h imm s))
  | brk h imm => exact (outOk_trapWord hok : OutOk (execBrk h imm s))
  | rte h nxt a b => exact outOk_execRte hok
  | rteStep h nxt a b => exact outOk_execRteStep hok
  | sysr h d r => exact outOk_execSysr hok
  | sysw h d r => exact outOk_execSysw hok
  | iinv h a b => exact outOk_execIinv hok
  | time h d => exact outOk_execTime hok
  | dbgmb h a b c => exact outOk_execDbgmb hok
  | suspend h a b => exact outOk_execSuspend hok
  | resume h a b => exact outOk_execResume hok
  | killcrew h ctx a b => exact outOk_execKillcrew hok
  | trec h pd d => exact outOk_execTrec hok
  | jrnl h roll a => exact outOk_execJrnl hok
  | wdog h hn ofBillet a b => exact outOk_execWdog hok
  | irq h b => exact outOk_execIrq hok
  | perfr h d b => exact outOk_execPerfr hok
  | errinj h a b => exact outOk_execErrinj hok
  | halt h => exact outOk_execHalt hok
  | bartime g => exact outOk_execBartime hok
  | waitvTimeout t => exact (outOk_waitvTick hok : OutOk (execWaitvTimeout t s))
  | sleepWake t => exact outOk_execSleepWake hok
  | mcasLocksHeld id => exact outOk_execMcasLocksHeld hok
  | mcasLockTimeout id => exact (outOk_mcasRetry hok : OutOk (execMcasLockTimeout id s))
  | fenceComplete id => exact outOk_execFenceComplete hok
  | gangLatchRelease cid => exact outOk_execGangLatchRelease hok
  | gangfailTimeout cid => exact outOk_execGangfailTimeout hok
  | anvilOperandsRead id => exact outOk_execAnvilOperandsRead hok
  | anvilInstrComplete id => exact outOk_execAnvilInstrComplete hok
  | planisherEvictEncode ctx surf b => exact outOk_execPlanisherEvictEncode hok
  | poolWordChangeRetry ctx surf b => exact outOk_execPoolWordChangeRetry hok
  | surfpoolPinTimeout ctx surf b => exact outOk_execSurfpoolPinTimeout hok
  | firmwareWake => exact outOk_execFirmwareWake hok
  | gatherCycle core => exact outOk_execGatherCycle hok
  | threadAged t => exact outOk_execThreadAged hok
  | yieldHoldExpire t => exact outOk_execYieldHoldExpire hok
  | fetchClause t => exact outOk_execFetchClause hok
  | varlatLand id => exact outOk_execVarlatLand hok
  | handlerStart core c => exact outOk_execHandlerStart hok
  | lqtailWrite f q v => exact outOk_execLqtailWrite hok
  | lqctlWrite f q v => exact outOk_execLqctlWrite hok
  | launchPacketHead f q => exact outOk_execLaunchPacketHead hok
  | depPoll f q => exact outOk_execDepPoll hok
  | pick => exact outOk_execPick hok
  | deadlineMiss w => exact outOk_execDeadlineMiss hok
  | setSave w set => exact outOk_execSetSave hok
  | setRestore w set => exact outOk_execSetRestore hok
  | homeReadRequest id => exact outOk_execHomeReadRequest hok
  | homeWriteRequest id => exact outOk_execHomeWriteRequest hok
  | homeEvictNotice line agent => exact outOk_execHomeEvictNotice hok
  | probeAck line agent => exact outOk_execProbeAck hok
  | coreProbe line agent => exact outOk_execCoreProbe hok
  | probeTimeout line agent => exact outOk_execProbeTimeout hok
  | selfWritePerform line => exact outOk_execSelfWritePerform hok
  | sliceRebase home => exact outOk_execSliceRebase hok
  | selfCopyExpire agent line => exact outOk_execSelfCopyExpire hok
  | coreTimeCheck core fast slow => exact outOk_execCoreTimeCheck hok
  | crucibleAtomic id => exact outOk_execCrucibleAtomic hok
  | tcopy id => exact (outOk_issueLadle hok : OutOk (execTcopy id s))
  | tgather id => exact (outOk_issueLadle hok : OutOk (execTgather id s))
  | tdecode id => exact (outOk_issueLadle hok : OutOk (execTdecode id s))
  | tqstore id => exact (outOk_issueLadle hok : OutOk (execTqstore id s))
  | tfill id => exact (outOk_issueLadle hok : OutOk (execTfill id s))
  | tcbload id => exact (outOk_issueLadle hok : OutOk (execTcbload id s))
  | tmapld id => exact (outOk_issueLadle hok : OutOk (execTmapld id s))
  | ladleSectorComplete id k => exact outOk_execLadleSectorComplete hok
  | beam id => exact (outOk_startTrav hok : OutOk (execBeam id s))
  | ray id => exact (outOk_startTrav hok : OutOk (execRay id s))
  | travItemComplete id j => exact outOk_execTravItemComplete hok
  | travfaultPoolTimeout id => exact outOk_execTravfaultPoolTimeout hok
  | fqreplayRetry f tag => exact outOk_execFqreplayRetry hok
  | fqreplayAbort f v => exact outOk_execFqreplayAbort hok
  | fqreplayRetryAll f => exact outOk_execFqreplayRetryAll hok
  | fqheadWrite f v => exact outOk_execFqheadWrite hok
  | nqheadWrite f v => exact outOk_execNqheadWrite hok
  | acclrWrite f v => exact outOk_execAcclrWrite hok
  | eqheadWrite f v => exact outOk_execEqheadWrite hok
  | dmheadWrite f v => exact outOk_execDmheadWrite hok
  | ueccConsume k kind unit a => exact outOk_execUeccConsume hok
  | checkpoint k => exact outOk_execCheckpoint hok
  | assayCompare t => exact outOk_execAssayCompare hok
  | assayTimeout t => exact outOk_execAssayTimeout hok
  | correctableError kind unit a => exact outOk_execCorrectableError hok
  | schedulerRebuild cl => exact outOk_execSchedulerRebuild hok
  | barrierParityError g => exact outOk_execBarrierParityError hok
  | drawerRequest id => exact outOk_execDrawerRequest hok
  | drawerResponse id => exact outOk_execDrawerResponse hok
  | drawerProbe line inval => exact outOk_execDrawerProbe hok
  | drawerMcasMessage id => exact outOk_execDrawerMcasMessage hok
  | promotionRequest id => exact outOk_execPromotionRequest hok
  | flitCheckFail p => exact outOk_execFlitCheckFail hok
  | portRetrainEnd p ok => exact outOk_execPortRetrainEnd hok
  | linkStallEnd p => exact outOk_execLinkStallEnd hok
  | domainTimeSlew fast slow => exact outOk_execDomainTimeSlew hok
  | referenceChange => exact outOk_execReferenceChange hok
  | slotTableSwapApply p => exact outOk_execSlotTableSwapApply hok
  | portctlSwap p => exact outOk_execPortctlSwap hok
  | portctlRetrain p => exact outOk_execPortctlRetrain hok
  | tlbinvWrite c v => exact outOk_execTlbinvWrite hok
  | tlbinvComplete c => exact outOk_execTlbinvComplete hok
  | dbgdataWrite c v => exact outOk_execDbgdataWrite hok
  | ctxbindWrite f v => exact outOk_execCtxbindWrite hok
  | ctxcmdCreate f k => exact outOk_execCtxcmdCreate hok
  | ctxcmdDestroy f k => exact outOk_execCtxcmdDestroy hok
  | registerWrite f off v => exact outOk_execRegisterWrite hok
  | functionLevelReset f => exact outOk_execFunctionLevelReset hok
  | powerGoodBringup x => exact outOk_execPowerGoodBringup hok
  | d3hotEntry => exact outOk_execD3hotEntry hok
  | d0Return x => exact outOk_execD0Return hok
  | thermalThrottle => exact outOk_execThermalThrottle hok
  | thermalShutdown => exact outOk_execThermalShutdown hok
  | attestationRequest nonce => exact outOk_execAttestationRequest hok
  | unallocatedOpcode op => exact outOk_execUnallocatedOpcode (_op := op) hok
  | waitvDeadline t => exact (outOk_waitvTick hok : OutOk (execWaitvDeadline t s))
  | coreLeaseRebase core => exact outOk_execCoreLeaseRebase hok
  | fqctlWrite f v => exact outOk_execFqctlWrite hok
  | ampctlWrite f v => exact outOk_execAmpctlWrite hok
  | msixVectorUnmask f vec => exact outOk_execMsixVectorUnmask hok
  | portTrainingComplete p => exact outOk_execPortTrainingComplete hok
  | drawerLeavesDomain n size => exact outOk_execDrawerLeavesDomain hok

theorem outOk_issue {b s} (h : s.memOk = true) : OutOk (issue b s) := by
  unfold issue
  split
  · exact outOk_fault
  · split
    · exact outOk_exec h
    · exact outOk_badWord h

theorem outOk_act {i s} (h : s.memOk = true) : OutOk (act i s) :=
  outOk_ite outOk_refused (outOk_afterEvent (outOk_exec h))

theorem outOk_step {s} (h : s.memOk = true) : OutOk (step s) := by
  unfold step
  split
  · exact outOk_issue h
  · exact outOk_act h
  · exact outOk_next.2 (memOk_passTime h)
  · exact outOk_revealStep h
  · exact outOk_outsideStore h
  · split
    · exact outOk_issue h
    · exact outOk_next.2 (memOk_passTime h)

/-- Settles O55: the model writes a memory byte by byte (`Memory.write`), clears a part of it (`clearCells`) or empties it at
power-down, and each of these keeps it canonical; every instruction, event and step is made of them. -/
theorem memoriesStayCanonical : Obligations.MemoriesStayCanonical := fun _ _ h ht => outOk_step h _ ht

end Sys2Proof.Machine
end
